-- ==== Sys2Proof/Word.lean ====
section
/-!
DEFINITION. The word types of the device: a byte, a 32-bit and a 64-bit register value (R6, R8).
-/

namespace Sys2Proof

/-- One byte of memory. -/
abbrev Byte := BitVec 8

/-- The value of a 32-bit register. -/
abbrev Half := BitVec 32

/-- The value of a 64-bit register; a 32-bit register's value stands in the low half (R8). -/
abbrev Word := BitVec 64

end Sys2Proof
end

