-- ==== Sys2Proof/Syntax.lean ====
section
/-!
DEFINITION. The commands of the device, one constructor of `Instr` for each row of the opcode table, with the operands
each one carries. R79 does not disclose the operand layout of slab instructions, so those rows carry their operands in
decoded form (log entry 6); an event row carries what its unit observes at the event (log entry 17).
-/

namespace Sys2Proof

/-! ### Who and where -/

/-- The two PCIe controllers, PCA and PCB (R274). -/
inductive Pc where
  | a | b
  deriving DecidableEq, Repr

/-- A requester of a register access: a host hart, an island hart or a fabric bridge (R303, R353, R406). -/
inductive Who where
  | host (n : Fin 24)
  | island (i : Fin 4)
  | bridge (c : Pc)
  deriving DecidableEq, Repr

/-- The three program units of a core (R35). -/
inductive UnitKind where
  | exec | load | store
  deriving DecidableEq, Repr

/-- What an error-correcting code reports of the words an access touches, by their byte offsets from the first byte of the
access: the corrected words, or the first uncorrectable one (R49, R174, R181). -/
inductive Ecc where
  | clean
  | corrected (at_ : List Nat)
  | uncorrectable (at_ : Nat)
  deriving DecidableEq, Repr

/-- A core at work: its number, and what its Bench's and its context bank's codes report (R49, R213). -/
structure CoreUse where
  core : Fin 96
  bench : Ecc := .clean
  bank : Ecc := .clean
  deriving DecidableEq, Repr

/-- A submission and completion ring: the administrative ring, or ring r of tenancy t (R240, R265). -/
inductive RingRef where
  | admin
  | ring (t : Fin 64) (r : Fin 17)
  deriving DecidableEq, Repr

/-- A frame queue: queue q of the switch or host queue k of the gateway (R371, R386). -/
inductive QueueRef where
  | tsn (q : Fin 32)
  | gwy (k : Fin 16)
  deriving DecidableEq, Repr

/-! ### Number formats and engine work -/

/-- The element formats of R119 that one element of a vector or a drain output may have. -/
inductive Fmt where
  | int4 | int8 | uint8 | int32 | e4m3 | e5m2 | bf16 | fp16 | fp32
  deriving DecidableEq, Repr

/-- The engine modes of R36. -/
inductive EngineMode where
  | int8 | int4 | sett4 | fp8 | bf16 | fp16
  deriving DecidableEq, Repr

/-- Where an engine's activation row comes from: the Bench share, or the feed of the walk plan in force (R153). -/
inductive ActSource where
  | bench (offset : Nat)
  | feed (outRow outCol group : Nat)
  deriving DecidableEq, Repr

/-- One activation row fed to an engine (R36, R37, R40, R132): `weights` is the weight register it computes from,
`rowSum` the Bench offset of the sums of the row's segments, and `sameBeat` whether the row is taken in the beat in which the
other engine took its own (R80). -/
structure MatmulOp where
  engine : Fin 2
  mode : EngineMode
  weights : Bool
  xFmt : Fmt
  source : ActSource
  row : Fin 256
  clear : Bool
  rowSum : Option Nat
  sameBeat : Bool := false
  deriving DecidableEq, Repr

/-- A load of an engine's idle weight register (R37, R137): Bench offsets of the codes, scales and spall entries. -/
structure WtloadOp where
  engine : Fin 2
  mode : EngineMode
  fmt : Fmt
  codes : Nat
  scales : Nat
  spalls : Nat
  deriving DecidableEq, Repr

/-- The registers a SETREG instruction sets (R80, R130): addressing, scale and conversion. -/
inductive CoreReg where
  | drainTable (e : Fin 2)
  | drainDest (e : Fin 2)
  | drainStride (e : Fin 2)
  | drainRows (e : Fin 2)
  | drainFormat (e : Fin 2)
  | drainMode (e : Fin 2)
  | drainToVector (e : Fin 2)
  | addressing (k : Fin 16)
  | scale (k : Fin 16)
  | conversion (k : Fin 16)
  deriving DecidableEq, Repr

/-- The divisor of an average (R161): every tap of the window, the real taps of the window whose output each run of
block-width lanes holds, or the elements of a map that is pooled whole (R162). -/
inductive AvgCount where
  | all
  | real (windows : List (Nat × Nat))
  | whole (n : Nat)
  deriving DecidableEq, Repr

/-- The vector instructions (R42): registers are numbered, a Bench operand is an offset in the context's share. `load`
and `store` move the low bits of the lanes and convert nothing but an infinity or a NaN (R123, R124); an element format of
32 bits fills half a register.
`feed` takes a tap of the walk plan in force into the lanes from `lane` up, and `feedMax` takes the larger of the lane
and the tap (R161). The conversions of `requant`, `avgInt` and `avgFp` are those of R160 and R161; `requant` reads `per` + 1
entries of its table, which are the 256 B that a beat reads at most (R42). -/
inductive VecOp where
  | fma (d a b c : Fin 32)
  | fmaHalf (bf16 : Bool) (dLo dHi a b : Fin 32)
  | add (d a b : Fin 32)
  | maxFp (d a b : Fin 32)
  | maxInt (d a b : Fin 32)
  | macInt8 (d a b : Fin 32) (aSigned bSigned : Bool)
  | load (d : Fin 32) (offset : Nat) (fmt : Fmt) (upper : Bool)
  | store (s : Fin 32) (offset : Nat) (fmt : Fmt) (upper : Bool)
  | convert (d s : Fin 32) (src dst : Fmt)
  | feed (d : Fin 32) (outRow outCol r s group lane : Nat)
  | feedMax (d : Fin 32) (outRow outCol r s group lane : Nat)
  | depthFp (d x0 w0 x1 w1 : Fin 32) (two : Bool)
  | depthInt (d x0 w0 x1 w1 : Fin 32) (two : Bool) (zx : Int) (zw : Fin 32)
  | sumInt (d x : Fin 32) (zx : Int)
  | requant (d s : Fin 32) (table : Nat) (per : Fin 16) (integer : Bool) (fmt : Fmt)
  | avgInt (d s : Fin 32) (m shift : Nat) (n : AvgCount) (y0 : Int) (fmt : Fmt)
  | avgFp (d s : Fin 32) (n : AvgCount) (fmt : Fmt)
  | quantQ8b (s : Fin 32) (codes scales : Nat) (signed : Bool)
  | dequantQ8b (d : Fin 32) (codes scales : Nat) (signed : Bool)
  | gradient (s : Fin 32) (g : Nat) (offset : Nat) (largest : Nat) (first : Bool)
  | master (d w a b : Fin 32) (bf16 : Bool)
  deriving DecidableEq, Repr

/-- One segment evaluation (R43): the table's Bench offset and its number of segments. -/
structure SegevalOp where
  d : Fin 32
  s : Fin 32
  table : Nat
  entries : Nat
  deriving DecidableEq, Repr

/-- One product-table lookup beat (R44, R134, R140). `codes` is the Bench offset of the codes of 128 consecutive blocks, one a
lane, and `position` the place of the code looked up in each. `scales` is the Bench offset of the lane scales where the lanes
begin a block at this beat. -/
structure PtlookOp where
  group : Fin 32
  table : Fin 8
  codes : Nat
  position : Fin 32
  scales : Option Nat
  spalls : Nat
  deriving DecidableEq, Repr

/-- The count of a LOOP: written in the instruction, or source 0x0001 of a LOOPMAX record (R81, R94). -/
inductive LoopCount where
  | fixed (n : Nat)
  | activeSlots
  deriving DecidableEq, Repr

/-- The far end of a streamer transfer: a role and an offset in it (R78), or a slab core's Bench share (R52, R53). -/
inductive Remote where
  | role (r : Fin 16) (offset : Nat)
  | share (slabCore : Nat) (offset : Nat)
  deriving DecidableEq, Repr

/-- The codec options of a transfer (R167): `zero` names the map's element format and its zero point. -/
inductive Codec where
  | none
  | cut2 (signed : Bool)
  | cut3 (signed : Bool)
  | zero (fmt : Fmt) (zeroPoint : Byte)
  deriving DecidableEq, Repr

/-- A plain streamer transfer (R54). `bytes` counts the uncompressed bytes at the Bench side; `tensor` names the base of the
tensor, as an offset in the far end's role, and the bytes of its blocks (R142). -/
structure XferOp where
  far : Remote
  bench : Nat
  bytes : Nat
  codec : Codec
  rowSum : Option (Nat × Fmt)
  tensor : Option (Nat × Nat)
  deriving DecidableEq, Repr

/-- The pad modes of R158. -/
inductive PadMode where
  | none | constant | edge
  deriving DecidableEq, Repr

/-- A walk plan (R152). -/
structure WalkPlan where
  fh : Nat
  fw : Nat
  sh : Nat
  sw : Nat
  dh : Nat
  dw : Nat
  pt : Nat
  pb : Nat
  pl : Nat
  pr : Nat
  pad : PadMode
  block : Nat
  fmt : Fmt
  fill : Nat
  height : Nat
  width : Nat
  groups : Nat
  wPitch : Nat
  slots : Nat
  toVector : Bool
  deriving DecidableEq, Repr

/-- A WALK instruction (R153): the plan, the map's role and base, the Bench offset of the line buffer ring, the objects
that show its slots free and full (R55), the codec options of the map with its privileged groups, the offsets of the groups'
regions in a row and the bytes from row to row (R167), and the Bench offset and format of its row sums (R132). -/
structure WalkOp where
  plan : WalkPlan
  role : Fin 16
  base : Nat
  lines : Nat
  free : Nat
  full : Nat
  codec : Codec
  privileged : List Nat
  regions : List Nat
  pitch : Nat
  rowSum : Option (Nat × Fmt)
  deriving DecidableEq, Repr

/-- An ordered access (R56). -/
structure OrderedOp where
  far : Remote
  bench : Nat
  bytes : Nat
  deriving DecidableEq, Repr

/-- The two uses of DIGEST (R117). -/
inductive DigestOp where
  | start (result : BitVec 16)
  | stop
  deriving DecidableEq, Repr

/-- The unit that issues a synchronisation operation, and the slab object it names (R84, R85). -/
structure SyncAt where
  core : Fin 96
  unit : UnitKind
  object : Nat
  deriving DecidableEq, Repr

/-! ### What arrives from outside -/

/-- What a start finds (R400): the strap, the comparators that reported every injection, whether the PUF's reconstruction
passes its check, the contents of the boot flash, and what the replay-protected flash answers (R399): the 64 bytes of the
authenticated read, none where the record has never been written, and the status bytes of the key and of the record that an
enrolment sends. -/
structure BootInputs where
  rankHigh : Bool
  islandPass : BitVec 2
  hostPass : BitVec 12
  pufOk : Bool
  flash : List Host.Cell
  record : Option (List Byte)
  keyStatus : Byte := 0
  writeStatus : Byte := 0
  deriving DecidableEq, Repr

/-- The status of an outbound completion (R277). -/
inductive CplStatus where
  | ok | unsupported | abort | poisoned
  deriving DecidableEq, Repr

/-- The kinds of inbound request that R279 separates, and the reads of an endpoint's configuration space, which shows its
identity (R275). -/
inductive InboundKind where
  | read | write | config | other
  deriving DecidableEq, Repr

/-- What an inbound address counts from: a BAR of an endpoint's function (R275), or for a root port and a twin the device's own
map. -/
inductive Bar where
  | registers | doorbells | memory | map
  deriving DecidableEq, Repr

/-- An inbound PCIe request (R279), with the link of a twin that it arrives on (R387) and what the code of the memory it reads
reports (R174, R181). -/
structure Inbound where
  link : Fin 2
  kind : InboundKind
  posted : Bool
  addr : Nat
  length : Nat
  contiguous : Bool
  data : List Byte
  ecc : Ecc := .clean
  bar : Bar := .map
  deriving DecidableEq, Repr

/-- A host cache: the L2 of a host core or the L3 of a base die (R282). -/
inductive HostCache where
  | l2 (core : Fin 24)
  | l3 (die : Fin 2)
  deriving DecidableEq, Repr

/-- How a hart's page is marked (R286): by its range's physical attributes alone, or NC or IO under Svpbmt. -/
inductive PageAttr where
  | pma | nc | io
  deriving DecidableEq, Repr

/-- The atomic operations of RISC-V on main memory (R282, R286; log entry 79). -/
inductive Amo where
  | swap | add | xor | and | or | min | max | minu | maxu
  deriving DecidableEq, Repr

/-- What a hart does at an address it writes: a store, an atomic operation, a store-conditional, or the clean, the flush or the
invalidation of a cache block (R286, R290). -/
inductive StoreOp where
  | store
  | amo (f : Amo)
  | sc
  | clean | flush | inval
  deriving DecidableEq, Repr

/-- How a hart makes an access: its page's marking, and the corrected words that its L2, the L3 of its base die and the island
SRAM report (R287, R347). -/
structure HartUse where
  attr : PageAttr := .pma
  l2 : Nat := 0
  l3 : Nat := 0
  sram : Nat := 0
  deriving DecidableEq, Repr

/-- What a chunk of self-test ends with (R340, R341, R345): the CRC-64s of a known-answer test, one for each engine or vector unit
of the cluster; or for a BENCH_MARCH whether every line held what was written, and the corrected words of each core's Bench. -/
inductive ChunkResult where
  | digests (l : List Word)
  | march (held : Bool) (corrected : List Nat)
  deriving DecidableEq, Repr

/-- One unit's answer to a management poll (R315). -/
structure PollAnswer where
  unit : Nat
  answered : Bool
  serving : Bool
  accepted : Bool
  deriving DecidableEq, Repr

/-- An Ethernet frame received at a port (R364, R366): its bytes without FCS, and the Almanac when its start-frame
delimiter crossed the balls, as a 64.32 count. -/
structure EthFrame where
  bytes : List Byte
  fcsOk : Bool
  sfd : BitVec 96
  deriving DecidableEq, Repr

/-- A CSI-2 long packet (R373). -/
structure CsiPacket where
  dataType : Fin 64
  headerOk : Bool
  crcOk : Bool
  stored : Bool
  payload : List Byte
  deriving DecidableEq, Repr

/-- A CAN frame (R379). -/
structure CanFrame where
  id : BitVec 29
  ide : Bool
  fdf : Bool
  brs : Bool
  rtr : Bool
  data : List Byte
  deriving DecidableEq, Repr

/-- What a DDR count window observed at the channels (R197): the pairs of channel and class that had a transaction waiting
at every tick. -/
structure DdrWindow where
  waiting : List (Fin 8 × Fin 8)
  deriving DecidableEq, Repr

/-- The commands of the device, one for each row of the opcode table. -/
inductive Instr where
  -- power, start and reset
  | powerOn
  | railEnRelease
  | bootStart (b : BootInputs)
  | ddrTrainingDone (failed : BitVec 8)
  | memoryZeroed
  | sectionsCopied (checkerFires : Bool)
  | warmReset
  | brownOut
  | refClkStop
  | refClkReturn
  -- register accesses
  | registerWrite (who : Who) (addr bytes : Nat) (value : Word) (op : StoreOp := .store) (hart : HartUse := {})
  | readClear (who : Who) (addr bytes : Nat) (ecc : Ecc) (reserve : Bool := false) (hart : HartUse := {})
  -- pace governor
  | governorWindowEnd (counts : List (BitVec 16))
  | railStep (die : Fin 4)
  -- engines, vector unit and streamers
  | matmul (u : CoreUse) (op : MatmulOp)
  | wtload (u : CoreUse) (op : WtloadOp)
  | accswap (u : CoreUse) (engine : Fin 2)
  | vecop (u : CoreUse) (op : VecOp)
  | segeval (u : CoreUse) (op : SegevalOp)
  | ptbuild (u : CoreUse) (offset : Nat)
  | ptlook (u : CoreUse) (op : PtlookOp)
  | setreg (u : CoreUse) (r : CoreReg) (value : Word)
  | loop (u : CoreUse) (unit : UnitKind) (count : LoopCount)
  | end_ (u : CoreUse) (unit : UnitKind)
  | xfer (u : CoreUse) (store : Bool) (op : XferOp)
  | walk (u : CoreUse) (op : WalkOp)
  | ordered (u : CoreUse) (store : Bool) (op : OrderedOp)
  | digest (u : CoreUse) (op : DigestOp)
  | sig (at_ : SyncAt) (n : BitVec 16)
  | wait (at_ : SyncAt) (v : Half)
  | take (at_ : SyncAt) (n : Half)
  | set (at_ : SyncAt) (v : Half)
  | sigdone (at_ : SyncAt) (n : BitVec 16)
  | syncWaitReleased (core : Fin 96) (unit : UnitKind)
  | transferComplete (core : Fin 96) (unit : UnitKind) (ctx : Fin 256) (id : Nat) (ecc : Ecc) (lines : Nat := 1)
  -- calendar and self-test
  | calendarStart
  | majorFrameStart
  | sliceStart (entry : Fin 1024)
  | sliceUsableEnd (entry : Fin 1024)
  | sliceEnd (entry : Fin 1024)
  | holidaySlotStart (entry : Fin 1024)
  | holidayUsableEnd (entry : Fin 1024)
  | selftestChunkDone (cluster : Fin 24) (result : ChunkResult)
  -- runs
  | runStart (ctx : Fin 256) (ecc : Ecc := .clean)
  | resultDelivered (ctx : Fin 256) (result : BitVec 16)
  | runEnd (ctx : Fin 256)
  | checkerCompare (ctx : Fin 256) (result : BitVec 16)
  | budgetOverrun (core : Fin 96)
  | deadlineOverrun (ctx : Fin 256) (result : BitVec 16)
  | teardownDrained (ctx : Fin 256)
  | teardownScrubDone (ctx : Fin 256)
  -- rings and descriptors
  | sqTailWrite (who : Who) (ring : RingRef) (value : Half)
  | cqHeadWrite (who : Who) (ring : RingRef) (value : Half)
  | descriptorFetch (ring : RingRef) (ecc : Ecc)
  | nop (ring : RingRef)
  | load (t : Fin 64) (r : Fin 17) (ecc : Ecc := .clean)
  | admissionComplete (t : Fin 64) (r : Fin 17)
  | unload (t : Fin 64) (r : Fin 17)
  | run (t : Fin 64) (r : Fin 17)
  | join (t : Fin 64) (r : Fin 17) (ecc : Ecc := .clean)
  | leave (t : Fin 64) (r : Fin 17) (ecc : Ecc := .clean)
  | copy (ring : RingRef)
  | copyComplete (ring : RingRef) (ecc : Ecc)
  -- the administrative ring
  | adminRingEnable (who : Who) (value : Half)
  | adminRingDisable (who : Who) (value : Half)
  | tenancyOn
  | tenancyOff
  | setWindow
  | clearWindow
  | setRing
  | restartRing
  | open_
  | close
  | freeze
  | freezeComplete
  | thaw
  | save
  | restore (ecc : Ecc := .clean)
  | logStart
  | logSwap
  | logSwapComplete
  | logStop
  -- PCIe
  | pcieLinkChange (pc : Pc) (link : Fin 2) (up : Bool)
  | outboundCompletion (id : Nat) (status : CplStatus) (data : List Byte)
  | outboundTimeout (id : Nat)
  | inboundRequest (pc : Pc) (req : Inbound)
  | rootPortMsi (pc : Pc) (busAddr : Word) (bytes : Nat) (data : Half)
  | intxMessage (pc : Pc) (line : Fin 4) (assert : Bool)
  -- lockstep and host caches
  | lockstepMismatch (pair : Fin 12)
  | islandLockstepMismatch (pair : Fin 2) (fromSram : Bool)
  | hostCacheUe (cache : HostCache) (hart : Fin 24) (addr : Nat := 0)
  | hostPairReset (who : Who) (value : Half) (pass : BitVec 12)
  -- Herald
  | filterOutputChange (source : Fin 1024) (value : Bool)
  | hrdClaim (who : Who) (target : Fin 52)
  | hrdComplete (who : Who) (target : Fin 52) (value : Half)
  | hrdPendSet (who : Who) (w : Fin 32) (value : Half)
  | hrdPendClr (who : Who) (w : Fin 32) (value : Half)
  | hrdEnSet (who : Who) (target : Fin 52) (w : Fin 32) (value : Half)
  | hrdEnClr (who : Who) (target : Fin 52) (w : Fin 32) (value : Half)
  | machineTimerPending (target : Fin 52)
  -- management, watchdog, checker test, Vigil
  | managementPoll (answers : List PollAnswer)
  | safUnitOffSet (who : Who) (w : Fin 4) (value : Half)
  | safUnitOffClr (who : Who) (w : Fin 4) (value : Half)
  | wdogEnable (who : Who) (value : Half)
  | wdogKick (who : Who) (value : Half)
  | wdogHalfPeriod
  | wdogExpire
  | chkTestInject (who : Who) (value : Half)
  | vglProduce (who : Who) (stream : Fin 512) (value : Word)
  | vglConsume (who : Who) (stream : Fin 512) (value : Word)
  | productionMiss (stream : Fin 512)
  -- Almanac
  | almIncrWrite (who : Who) (value : Word)
  | almLeapWrite (who : Who) (value : Word)
  | almNowRead (who : Who)
  | almCmpPeriodWrite (who : Who) (k : Fin 8) (value : Half)
  | comparatorFire (k : Fin 8)
  | timeOutPulseEnd (k : Fin 2)
  -- switch
  | ethFrameReceive (port : Fin 12) (frame : EthFrame)
  | frameTransmitted (port : Fin 10) (cls : Fin 8)
  | gateListEntry (port : Fin 10)
  | ethLinkChange (port : Fin 10) (up : Bool)
  | qTailWrite (who : Who) (q : QueueRef) (value : Half)
  | qSeenWrite (who : Who) (q : QueueRef) (value : Half)
  | queueDescriptorTaken (q : QueueRef) (ecc : Ecc := .clean)
  -- cameras
  | frameStart (port : Fin 4) (vc : Fin 16)
  | csiLongPacket (port : Fin 4) (vc : Fin 16) (packet : CsiPacket)
  | frameEnd (port : Fin 4) (vc : Fin 16)
  | csiSrelWrite (who : Who) (stream : Fin 64) (value : Half)
  -- CAN and ACF
  | canFrameReceived (k : Fin 16) (frame : CanFrame)
  | canFrameTransmitted (k : Fin 16)
  | canBusOff (k : Fin 16)
  | acfFrameReceive (frame : EthFrame)
  | acfHoldExpire (stream : Fin 32)
  -- twin link
  | twinStatusRefresh
  | twinPoll
  | twinPollRequest (link : Fin 2)
  | twinPollAnswer (link : Fin 2) (block : List Half)
  | twinPollTimeout (link : Fin 2)
  | twinChunkEnd (link : Fin 2)
  | twinBackoff (link : Fin 2)
  -- configuration, operating points and sleep
  | cfgLoad (who : Who)
  | seal (who : Who)
  | sealComplete
  | cfgRun (who : Who)
  | cfgStop (who : Who)
  | sleep (who : Who)
  | reset (who : Who)
  | cfgOppReq (who : Who) (value : Half)
  | cfgCtlOutSet (who : Who) (value : Half)
  | cfgCtlOutClr (who : Who) (value : Half)
  | wakePin (k : Fin 4)
  | railEnHoldExpire
  -- security
  | attest (who : Who)
  | attestComplete
  | raiseFloor (who : Who)
  | floorWriteComplete (status : Byte) (record : List Byte := [])
  -- memories
  | ddrTempRead (channel : Fin 8) (above85 above95 : Bool)
  | ddrCountWindowEnd (w : DdrWindow)
  | quarryPatrol (q : Fin 2) (line : Fin 3145728) (ecc : Ecc)
  | ddrPatrol (channel : Fin 8) (addr : Nat) (ecc : Ecc)
  | ddrRefresh (channel : Fin 8) (managed : Bool)
  -- Foreman
  | foremanPageIn (p : Fin 16) (ctx : Fin 256) (page : Nat) (ecc : Ecc := .clean)
  | foremanStepEnd (p : Fin 16) (cluster : Fin 24)
  -- late rows of the table
  | lossOfVddAon
  | canErrorDetected (k : Fin 16) (transmitter : Bool) (severe : Bool)
  | busOffRecovery (k : Fin 16)
  | msiEnabled (pc : Pc)
  deriving DecidableEq, Repr

end Sys2Proof
end

