-- ==== Sys2Proof/Machine/State.lean ====
section
/-!
DEFINITION. The state of the device as plain data: the registers, the memories, every table, queue, counter and pin
the spec names, and the queue of waiting commands. Sparse tables are association lists in strictly rising key order;
a key that is not listed has the table's empty value. INVENTORY.md lists every field beside the rule that names it.
-/

namespace Sys2Proof.Machine

/-- A sparse table in strictly rising key order. -/
abbrev Table (α : Type) := List (Nat × α)

/-! ### Power, start and configuration -/

/-- Where the units outside the always-on domain stand: held in reset (R438, R440), the boot steps that wait on an
event (R400), up, stopped by the boot (R400), or without power in sleep (R416). -/
inductive Phase where
  | held | training | zeroing | copying | up | bootStopped | asleep
  deriving DecidableEq, Repr

/-- The kinds of start of R392. -/
inductive StartKind where
  | powerOn | warmReset | wake
  deriving DecidableEq, Repr

/-- Supplies, reference and sleep: VDD_AON, REF_CLK, RAIL_EN and PWR_GOOD (R433, R438 to R441), the phase, the kind
of the next start, whether RAIL_EN has been low for 10 ms, and the wake sources latched meanwhile (R417). -/
structure Power where
  vddAon : Bool
  refClk : Bool
  railEn : Bool
  pwrGood : Bool
  phase : Phase
  start : StartKind
  holdDone : Bool
  wakeCmp : BitVec 8
  wakePins : BitVec 4
  deriving DecidableEq, Repr

/-- The configuration states of R405. -/
inductive CfgState where
  | empty | loading | sealed | running | refused
  deriving DecidableEq, Repr

/-- The commands of R406 that stay in progress and hold CFG_STATE.busy. -/
inductive CfgBusy where
  | seal | run | stop | sleep
  deriving DecidableEq, Repr

/-- The part's own identity (R4) and the four Dimarron root keys its ROM holds (R395). -/
structure Part where
  grade : BitVec 4
  stepping : BitVec 4
  romEdition : BitVec 8
  rootKeys : List (List Byte)
  deriving DecidableEq, Repr

/-- What the boot took from the signed image (R393 to R397), the boot flash itself, and the host comparators that report every
injection of a test (R310). -/
structure Boot where
  flash : List Host.Cell
  slot : Bool
  triedOther : Bool
  hostPass : BitVec 12
  version : Half
  floor : Half
  rootIndex : BitVec 2
  ownerKey : List Byte
  hostSplit : BitVec 4
  islandSplit : Bool
  density : BitVec 2
  rate : BitVec 2
  pcaRole : BitVec 2
  pcbRole : BitVec 2
  maxOpp : BitVec 2
  slabKeys : List (List Byte)
  cfgDigests : List (List Byte)
  ctlSafe : BitVec 16
  ctlFollow : BitVec 16
  hostEntry : Nat
  stestBase : Nat
  sections : List (Nat × Nat)
  measurements : List (List Byte)
  deriving DecidableEq, Repr

/-- The replay-protected record's contents (R398). -/
structure RpRecord where
  floor : Half
  revoke : BitVec 4
  counter : Half
  deriving DecidableEq, Repr

/-- The security block's own state (R398 to R404): the stored record, whether the PUF gave an identity, the address of a report being
signed, and a record being written. -/
structure Security where
  record : Option RpRecord
  identity : Bool
  attest : Option Nat
  writing : Option RpRecord
  deriving DecidableEq, Repr

/-! ### Almanac and Herald -/

/-- The Almanac domain: the 96-bit counter (R355), the sum of the steps that wait for the next tick (R358), the reference
ticks since the always-on domain left reset (R62), the integer readings of recent ticks, newest first, for the pending
stamps (R302), the tick at which each output pulse ends, 0 while the pin is low (R363), and the tick of each comparator's last
firing (R362). -/
structure Almanac where
  count : BitVec 96
  nextLeap : Word
  ticks : Nat
  trail : List Word
  pulse0 : Nat
  pulse1 : Nat
  fired : Table Nat
  deriving DecidableEq, Repr

/-- A sample of a glitch filter: the Almanac's reading and the reference tick of it (R295, R302). -/
structure Sample where
  stamp : Word
  tick : Nat
  deriving DecidableEq, Repr

/-- The Herald's bits (R295 to R302). Sources are listed in rising order: pulse lines not yet seen by the filter, filter
outputs that are high, pending bits, pending bits that a level set, sources in service with their target, pending
stamps, when each filter first sampled its output's value, the first sample of a level that its output has not taken yet (by
twice the source, one more for the high level), pin levels, INTx levels, the targets whose request line has been
high since their last claim read, and those whose machine timer is pending. -/
structure Herald where
  raised : List Nat
  out : List Nat
  pend : List Nat
  byLevel : List Nat
  inserv : Table Nat
  stamps : Table Word
  sampled : Table Word
  since : Table Sample
  pins : BitVec 32
  intx : BitVec 8
  lineSeen : List Nat
  timers : List Nat
  deriving DecidableEq, Repr

/-! ### Pace governor -/

/-- One die of the pace governor (R62, R65, R414): whether the window in progress is a settling window, the windows
counted for rule 3, and the target in mV of a rail ramp in progress. -/
structure DieGov where
  settling : Bool
  clean : Nat
  ramp : Option Nat
  deriving DecidableEq, Repr

/-- The pace governor: its four dies, the point of a change request that waits for an admission (R415), the operating point being
taken up (R414), and the number of the last window that has ended, each 256 ticks (R62). -/
structure Governor where
  dies : Vector DieGov 4
  asked : Option (BitVec 2)
  takeUp : Option (BitVec 2)
  window : Nat
  deriving DecidableEq, Repr

/-! ### Core state: banks -/

/-- An accumulator entry: a 40-bit integer, or FP32 (R36). -/
inductive AccVal where
  | int (v : Int)
  | fp (b : Half)
  deriving DecidableEq, Repr

/-- One accumulator bank with its row-sum entries (R38, R132): entries by 64 × row + column, sums by row. -/
structure AccBank where
  entries : Table AccVal
  rowSums : Table Int
  deriving DecidableEq, Repr

/-- One weight register with its mode, weight format and Sett4 scale and spall stores (R37, R137): spalls by 32 × block +
position. -/
structure WeightReg where
  mode : EngineMode
  fmt : Fmt
  data : List Byte
  scales : List Byte
  spalls : Table (BitVec 16)
  deriving DecidableEq, Repr

/-- A matrix engine's state: two weight registers, which one computes, two accumulator banks, which one takes updates. -/
structure Engine where
  w0 : WeightReg
  w1 : WeightReg
  active : Bool
  a0 : AccBank
  a1 : AccBank
  filling : Bool
  deriving DecidableEq, Repr

/-- What a stopped unit waits for (R56, R85): an object at least v, at least n to be taken, or its earlier transfers to
complete before n is added or before an ordered access is issued. -/
inductive WaitCond where
  | atLeast (object : Nat) (v : Half)
  | taking (object : Nat) (n : Half)
  | done (object : Nat) (n : BitVec 16)
  | ordered (op : OrderedOp)
  deriving DecidableEq, Repr

/-- A program unit of a core in one bank: program position, open loops, what it waits for, END reached, stopped. -/
structure UnitState where
  position : Nat
  loops : List Nat
  waiting : Option WaitCond
  ended : Bool
  deriving DecidableEq, Repr

/-- The work a transfer does when its data is at its sink. -/
inductive TransferKind where
  | plain (codec : Codec) (rowSum : Option (Nat × Fmt)) (tensor : Option (Nat × Nat × Nat))
  | walkRow (op : WalkOp) (row : Nat)
  | ordered
  deriving DecidableEq, Repr

/-- A transfer in progress of a streamer (R52, R53, R188): number, unit, physical address of the far end, Bench offset,
bytes at the Bench side, kind of work, the bytes a store carries or a load has brought in, the lines issued with the
reference tick of their issue, the lines completed, whether a line was issued as excess, and whether the lines that were not issued
will not be (R223, R313). -/
structure Transfer where
  id : Nat
  unit : UnitKind
  far : Nat
  near : Nat
  bytes : Nat
  kind : TransferKind
  data : List Byte
  issued : List (Nat × Nat)
  done : Nat
  excess : Bool
  cut : Bool
  deriving DecidableEq, Repr

/-- A digest being formed by a store streamer (R117): result and CRC so far. -/
structure DigestAcc where
  result : BitVec 16
  crc : Word
  deriving DecidableEq, Repr

/-- A walk in force (R153): the instruction, the map's physical base, and how many of the rows it fetches it has issued. -/
structure WalkState where
  op : WalkOp
  base : Nat
  next : Nat
  deriving DecidableEq, Repr

/-- A context bank: the whole state of one core's units for one context (the list after R212). A buffer's tags are those of its
first block, the bytes of a block and the number of blocks (R142); `openRow` is the engine that took the last row, while the other
may still take one in the same beat (R80). -/
structure Bank where
  exec : UnitState
  load : UnitState
  store : UnitState
  eng0 : Engine
  eng1 : Engine
  vregs : Table Half
  laneScales : Table Byte
  tables : Table Half
  setregs : Table Word
  transfers : List Transfer
  bufferTags : Table (Nat × Nat × Nat)
  openRow : Option (Fin 2)
  walk : Option WalkState
  digest : Option DigestAcc
  deriving DecidableEq, Repr

/-! ### Contexts, slabs and runs -/

/-- A tag header (the table before R254). -/
structure Tags where
  context : Byte
  tenancy : Byte
  frameValid : Bool
  ingressFail : Bool
  seqTag : Byte
  frameCounter : Half
  timestamp : Word
  frameCrc : Half
  deriving DecidableEq, Repr

/-- A WINDOW record of a slab (R92). -/
structure RoleDecl where
  role : Nat
  memory : Nat
  plain : Bool
  ordered : Bool
  size : Nat
  readBytes : Nat
  writeBytes : Nat
  bandwidth : Nat
  deriving DecidableEq, Repr

/-- A RESULT record of a slab (R93). -/
structure ResultDecl where
  id : BitVec 16
  checked : Bool
  role : Nat
  offset : Nat
  bytes : Nat
  beats : Nat
  latency : Nat
  replicaLatency : Nat
  deadline : Nat
  deriving DecidableEq, Repr

/-- A share of a grant at a cluster port (R189): port, class, and rate in units of 1/5354228880 B/s, in which every equal
division among up to 24 cluster groups is exact. -/
structure Grant where
  port : Nat
  cls : Nat
  rate : Nat
  deriving DecidableEq, Repr

/-- A synchronisation object of a slab (R84): the compute dies that home it for the primary and for the replica, and its
initial value. -/
structure SyncObj where
  die : Nat
  replicaDie : Option Nat
  init : Half
  deriving DecidableEq, Repr

/-- A slab as admitted (R73 to R118): what later commands need of its image, what its admission reserved, and the roles that its
programs, CONST sections and results name (R189). -/
structure Slab where
  id : Word
  image : Nat
  roleMap : List Byte
  replica : Bool
  oppoint : BitVec 2
  roles : List RoleDecl
  results : List ResultDecl
  loopMax : Option Nat
  replicaMap : List Byte
  primary : List Nat
  replicaCores : List Nat
  grants : List Grant
  objects : List SyncObj
  share : Nat
  named : List Nat
  deriving DecidableEq, Repr

/-- An SV-5 graph package as loaded (R234), with its bytes as its load read them and the results it declares (R28; log entry 84). -/
structure Package where
  image : Nat
  roleMap : List Byte
  raw : List Byte
  steps : Nat
  priority : Nat
  results : List (BitVec 16)
  deriving DecidableEq, Repr

/-- What a slab index holds. -/
inductive Loaded where
  | slab (s : Slab)
  | package (p : Package)
  deriving DecidableEq, Repr

/-- The kinds of overrun (R330). -/
inductive Overrun where
  | budget | deadline
  deriving DecidableEq, Repr

/-- A run in progress (R83, R105 to R107, R117, R128, R330): `own` are its descriptor's tags, `tagLines` the tag lines that have
been read, by role entry (R255), and `stored` the lines written of each result's bytes (R106). -/
structure Run where
  slab : Nat
  index : Half
  roleBases : Table Nat
  own : Tags
  tagLines : Table Tags
  tags : Tags
  startTick : Nat
  startNs : Word
  bounds : Table Nat
  stored : Table (List Nat)
  delivered : Table Byte
  digests : Table Word
  released : List Nat
  withheld : List Nat
  deadlines : List Nat
  sat : Half
  beats : Table Nat
  overrun : Option Overrun
  stopped : Option (Byte × Byte)
  deriving DecidableEq, Repr

/-- A teardown or a CLOSE in progress (R223, R267). -/
structure Teardown where
  status : Byte
  detail : Byte
  core : Byte
  close : Bool
  drained : Bool
  deriving DecidableEq, Repr

/-- The states of a context (R212). -/
inductive CtxState where
  | closed | opened | tearing
  deriving DecidableEq, Repr

/-- A context (R209 to R212, R332): state, tenancy and ring, serving window, loaded slabs, the run in progress, a teardown
in progress, the overrun history, newest first. -/
structure Ctx where
  st : CtxState
  tenancy : Nat
  ring : Nat
  servingWindow : Option Nat
  loaded : Table Loaded
  run : Option Run
  teardown : Option Teardown
  history : List Bool
  deriving DecidableEq, Repr

/-! ### Tenancies and rings -/

/-- A bounds window (R242). -/
structure Window where
  base : Nat
  limit : Nat
  read : Bool
  write : Bool
  sideEffect : Bool
  latency : Nat
  deriving DecidableEq, Repr

/-- RING_STATE[1:0] of a doorbell page, and Q_STATE of a queue page. -/
inductive RingState where
  | unset | running | stopped
  deriving DecidableEq, Repr

/-- A queued descriptor (R251): its count, its 64 bytes, and the completion entries reserved for it. -/
structure QDesc where
  index : Half
  raw : List Byte
  reserved : Nat
  deriving DecidableEq, Repr

/-- What the head descriptor of a ring has in progress: a copy with the bytes it has moved and those that a link has brought
(R258), an image being read over a link, an admission with the writes of its copies and its report's end (R97, R101, R102), a run, a
FREEZE (R269), a CLOSE (R267), a log swap or stop with the number of the first write issued after it (R273), a RESTORE with its
record, the images that a link has brought, the addresses of those still to come, and what has come of the first (R271). -/
inductive Job where
  | idle
  | copying (src dst len : Nat) (ordered : Bool) (moved : Nat) (got : List Byte)
  | reading (got : List Byte)
  | admitting (slot : Nat) (loaded : Loaded) (report : Nat) (writes : List (Nat × List Byte)) (tail : List Byte)
  | running
  | freezing (t : Nat)
  | closing (c : Nat)
  | logging (t : Nat) (retired : Nat) (mark : Nat)
  | restoring (t : Nat) (saved : List Byte) (images : List (Nat × List Byte)) (left : List Nat) (part : List Byte)
  deriving DecidableEq, Repr

/-- A ring (R246 to R253). -/
structure Ring where
  n : Nat
  sqBase : Nat
  cqBase : Nat
  sqTail : Half
  sqHead : Half
  cqHead : Half
  cqTail : Half
  state : RingState
  cause : Byte
  ctx : Option Nat
  queued : List QDesc
  job : Job
  deriving DecidableEq, Repr

/-- A tenancy (R240): on, interrupt target and vector, frozen, bitmap of the log in force, windows, rings, and a held MSI
signal (R262). -/
structure Tenancy where
  on : Bool
  target : BitVec 2
  vector : BitVec 5
  frozen : Bool
  log : Option Nat
  windows : Table Window
  rings : Table Ring
  heldMsi : Bool
  deriving DecidableEq, Repr

/-- A notice waiting for the administrative completion ring (R268). -/
structure Notice where
  kind : Byte
  context : Byte
  tenancy : Byte
  ring : Byte
  sqHead : Half
  time : Word
  core : Byte
  cause : Byte
  status : Byte
  detail : Byte
  deriving DecidableEq, Repr

/-! ### PCIe -/

/-- Who waits for an outbound read (R277): a streamer's transfer, a COPY, a LOAD's image, a descriptor fetch, a tag line of a
run by its role entry, an image of a RESTORE, a frame queue's descriptor, the bytes of its frame, or a hart. -/
inductive OutOwner where
  | transfer (core : Nat) (ctx : Nat) (transfer : Nat)
  | copy (ring : RingRef)
  | image (ring : RingRef)
  | fetch (ring : RingRef)
  | tag (ctx : Nat) (entry : Nat)
  | restore (ring : RingRef)
  | queueDesc (q : Nat)
  | queueData (q : Nat)
  | hart (who : Who)
  deriving DecidableEq, Repr

/-- An outbound read in progress, one TLP: the reference tick of its issue, and the data of a completion that waits for those of
earlier reads. -/
structure Outbound where
  id : Nat
  pc : Pc
  owner : OutOwner
  addr : Nat
  bytes : Nat
  issued : Nat
  got : Option (List Byte)
  deriving DecidableEq, Repr

/-- The links (R274, R278, R387): up per controller, with PCB's second twin link, and MSI enabled by the host. -/
structure Links where
  pca : Bool
  pcb0 : Bool
  pcb1 : Bool
  msiA : Bool
  msiB : Bool
  adminHeld : Bool
  deriving DecidableEq, Repr

/-! ### Networks -/

/-- A frame stored in the switch for an egress port. Copies of one frame share its number; `origin` is the frame queue and
the descriptor, with its count, that it came from. -/
structure EgressFrame where
  id : Nat
  bytes : List Byte
  oneStep : Bool
  origin : Option (Nat × Half × List Byte)
  deriving DecidableEq, Repr

/-- Sequence recovery of a stream (R369): last number taken and the history of the 31 before it. -/
structure CbRecovery where
  seq : BitVec 16
  history : List Bool
  deriving DecidableEq, Repr

/-- A stream's single-rate policer (R369): tokens in thousandths of a bit, and the Almanac at the last update. -/
structure Policer where
  tokens : Nat
  last : Word
  deriving DecidableEq, Repr

/-- A frame that waits for the receive descriptor it was accepted for (R371, R372), with its number in the frame memory and its
stamp: nanoseconds and 16 bits of fraction. -/
structure RxFrame where
  id : Nat
  bytes : List Byte
  port : Byte
  cls : Byte
  stamp : Option (Word × BitVec 16)
  canId : Half
  deriving DecidableEq, Repr

/-- A frame queue (R371): counts, state, frames accepted and not yet written, whether the descriptor at the head waits for its
frame's departure (R365), the descriptor once it is fetched with the Almanac of its fetch (R382), the bytes of its frame that a link has
brought, and the descriptor as it is to be written back once the queue's port lets it (R190). -/
structure FrameQueue where
  tail : Half
  seen : Half
  head : Half
  state : RingState
  waiting : List RxFrame
  departing : Bool
  desc : Option (List Byte × BitVec 96)
  got : List Byte
  back : Option (List Byte)
  deriving DecidableEq, Repr

/-- The TSN switch (R366 to R370): frames stored by 8 × port + class, sequence numbers given by stream, recovery and policers
by stream, and by port one more than the gate-list entry in force. -/
structure Switch where
  egress : Table (List EgressFrame)
  nextSeq : Table (BitVec 16)
  recovery : Table CbRecovery
  policers : Table Policer
  gate : Table Nat
  deriving DecidableEq, Repr

/-- A frame being received by a camera stream (R373 to R376): its frame-start stamp and the payload bytes so far. -/
structure CsiFrame where
  stamp : Word
  bytes : List Byte
  deriving DecidableEq, Repr

/-- A camera stream (R374 to R377): counts, the frame in progress, counter and timestamp of the last frame that passed SHORT
and CRC (R328). -/
structure CsiStream where
  fill : Half
  rel : Half
  frame : Option CsiFrame
  last : Option (Half × Word)
  deriving DecidableEq, Repr

/-- Fault confinement states of a controller (GWY_CANk_STATUS.state, R379). -/
inductive CanConf where
  | active | passive | busOff
  deriving DecidableEq, Repr

/-- A CAN controller (R379, R385): error counts, confinement state, whether a write of its mode has started a recovery from bus off,
transmit queue in order of arrival. -/
structure CanCtl where
  txErr : Nat
  rxErr : Nat
  conf : CanConf
  restart : Bool
  txq : List CanFrame
  deriving DecidableEq, Repr

/-- A transmitting ACF stream (R384): messages gathered and the next sequence number. -/
structure AcfTx where
  messages : List Byte
  seq : Byte
  deriving DecidableEq, Repr

/-- One twin link (R389 to R391): a poll outstanding, polls missed in a row, last hw_count and heartbeat, answers with an
equal heartbeat, own chunk backed off, peer's chunk in progress. -/
structure TwinLink where
  polling : Bool
  missed : Nat
  hwCount : Option Half
  heartbeat : Option Half
  hbSame : Nat
  backedOff : Bool
  peerChunk : Bool
  deriving DecidableEq, Repr

/-! ### Safety, self-test, memories, Foreman -/

/-- The self-test sequencer of one cluster (R342 to R346): the slot's calendar entry, the chunk running, the chunk to run
next, deferrals in a row of the deferred chunk, and whether a chunk was skipped in this cycle. -/
structure Stest where
  entry : Option Nat
  running : Option Nat
  next : Option Nat
  defers : Nat
  skipped : Bool
  deriving DecidableEq, Repr

/-- The safety island's own state: stopped pairs (R307, R308), the tick of the watchdog's last restart and its progress (R319), units
that reported stopped or gave no answer at the last poll, units offline for a whole interval, and closed ports (R315, R316), the
self-test sequencers (R342), and the Vigil's streams that are armed or missed (R337). -/
structure Safety where
  hostStopped : BitVec 12
  islandStopped : BitVec 2
  wdogFrom : Nat
  wdogHalf : Bool
  wdogExpired : Bool
  stoppedOnce : List Nat
  silentOnce : List Nat
  offAtPoll : List Nat
  closedPorts : List Nat
  stest : Table Stest
  vigilArmed : List Nat
  vigilMissed : List Nat
  deriving DecidableEq, Repr

/-- The regulation of one DDR half (R198, R199): clean windows in a row and the steps in force, newest first; step 8 is
the throttling of BEST, step c that of TARGET class c. -/
structure HalfReg where
  clean : Nat
  steps : List Nat
  deriving DecidableEq, Repr

/-- An access that waits at a fixed port of the regulators for credit (R188): port, first byte, length, lines issued. -/
structure PortWait where
  port : Nat
  addr : Nat
  bytes : Nat
  issued : Nat
  deriving DecidableEq, Repr

/-- A page of a Foreman pool (R233): its place in the pool, context, page of the context's DDR windows, written, pinned by a
job, order of last use. -/
structure Page where
  slot : Nat
  ctx : Nat
  page : Nat
  dirty : Bool
  pinned : Bool
  used : Nat
  deriving DecidableEq, Repr

/-- A job of a legacy context (R235): when its first step began, its context, slab index, ring descriptor, priority, order of
submission, steps done, cluster it runs on, the pages that its step in progress needs as they stood when it began (R237), and the
saturations counted (R34, R128). -/
structure FmJob where
  started : Option Word
  ctx : Nat
  slab : Nat
  index : Half
  priority : Nat
  order : Nat
  done : Nat
  cluster : Option Nat
  inputs : Option (List (List Byte))
  sat : Nat
  deriving DecidableEq, Repr

/-- The pointers of the arbiters that this model's commands meet (R70; log entry 85): the copy engine among the rings that wait on
it (R259), and the admission unit among the rings whose head is a LOAD (R97). -/
structure Arbiters where
  engine : Nat
  admission : Nat
  deriving DecidableEq, Repr

/-- A line in the host caches (R282, R285, R289): its data, the cache that holds it changed, and the L2s by core and the L3s by base
die that hold it. -/
structure HostLine where
  data : List Byte
  dirty : Option HostCache
  l2 : List Nat
  l3 : List Nat
  deriving DecidableEq, Repr

/-- The calendar's progress (R216 to R219): frame 0 has begun, the tick the current frame began, the entries whose slice or
slot is in progress, and those still in usable time. -/
structure Calendar where
  started : Bool
  frameTick : Nat
  slices : List Nat
  usable : List Nat
  deriving DecidableEq, Repr

/-! ### Outputs -/

/-- The device's answer to the last command that was a register or doorbell access. -/
inductive Answer where
  | none
  | value (w : Word)
  | written
  | error
  deriving DecidableEq, Repr

/-- What the device sends during a command. -/
inductive Output where
  | avs (die : Nat) (millivolts : Nat)
  | msi (pc : Pc) (vector : Nat)
  | frame (port : Nat) (bytes : List Byte)
  | can (k : Nat) (frame : CanFrame)
  | tlpWrite (pc : Pc) (busAddr : Nat) (bytes : List Byte)
  | tlpRead (pc : Pc) (busAddr : Nat) (bytes : Nat) (id : Nat)
  | completion (pc : Pc) (status : Byte) (bytes : List Byte)
  | twinPoll (link : Nat)
  | twinBlock (link : Nat) (block : List Half)
  | chunkEnd (link : Nat)
  | flashCommand (opcode : Byte) (bytes : List Byte)
  | flashWrite (offset : Nat) (bytes : List Byte)
  | hartFault (who : Nat)
  deriving DecidableEq, Repr

/-! ### The device and the state -/

/-- Everything the spec gives the block, but the queue of waiting commands. `regs` holds the registers by offset, with no
entry equal to its reset value; `mem` holds the DDR, the Quarries and the Benches by physical address; `served` holds the bytes
served in the count window in progress by 8 × channel + class, the Quarries as channels 8 and 9 (R194); `bitmapHeld` the bits of log
bitmaps that wait at port 28, oldest first (R273); `hostCache` the lines of the host caches by line number, and `reservations` the line
that each host core has reserved (R286); `lastSteps` the order of each legacy context's last step (R236); `paced` the tick at which
each duty that the device repeats at a fixed spacing was last done. -/
structure Device where
  regs : Table Word
  mem : List Host.Cell
  islandSram : List Host.Cell
  power : Power
  cfg : CfgState
  busy : Option CfgBusy
  lastResult : BitVec 3
  part : Part
  boot : Boot
  sec : Security
  rank : Bool
  alm : Almanac
  herald : Herald
  gov : Governor
  cal : Calendar
  banks : Table Bank
  objects : Table Half
  buckets : Table Nat
  ctxs : Table Ctx
  tenancies : Table Tenancy
  admin : Ring
  notices : List Notice
  outbound : List Outbound
  links : Links
  sw : Switch
  queues : Table FrameQueue
  csi : Table CsiStream
  can : Table CanCtl
  acf : Table AcfTx
  twin0 : TwinLink
  twin1 : TwinLink
  hwCount : Half
  safety : Safety
  half0 : HalfReg
  half1 : HalfReg
  served : Table Nat
  portWaits : List PortWait
  refreshes : Table Nat
  paced : Table Nat
  bitmapHeld : List (Nat × Nat)
  arb : Arbiters
  hostCache : Table HostLine
  reservations : Table Nat
  pools : Table (List Page)
  jobs : List FmJob
  lastSteps : Table Nat
  nextId : Nat
  freeIndex : Nat
  answer : Answer
  sent : List Output
  deriving DecidableEq, Repr

/-- The state of the block: the device and the commands that wait, first in first out. -/
structure State where
  dev : Device
  pending : List Instr
  deriving DecidableEq, Repr

/-- The faults of a step. -/
inductive Fault where
  /-- Raised by a command whose operands break `Instr.wellFormed`: no unit of the device can present it. Safe: nothing is
  claimed of such a command. -/
  | illFormed
  deriving DecidableEq, Repr

/-- The refusals of a step. -/
inductive Refusal where
  /-- Raised by an arm of the dispatch that has no meaning yet. Safe: nothing is claimed of that command. -/
  | notModelled (mnemonic : String)
  deriving DecidableEq, Repr

/-! ### Reset -/

/-- The always-on domain just after its power-on reset, RAIL_EN not yet released (step 1 of R438). -/
def Power.reset : Power :=
  { vddAon := true, refClk := true, railEn := false, pwrGood := false, phase := .held, start := .powerOn,
    holdDone := true, wakeCmp := 0, wakePins := 0 }

/-- No image has been booted (log entry 9). -/
def Boot.none : Boot :=
  { flash := [], slot := false, triedOther := false, hostPass := 0, version := 0, floor := 0, rootIndex := 0, ownerKey := [],
    hostSplit := 0, islandSplit := false, density := 0, rate := 0, pcaRole := 0, pcbRole := 0, maxOpp := 0,
    slabKeys := [], cfgDigests := [], ctlSafe := 0, ctlFollow := 0, hostEntry := 0, stestBase := 0,
    sections := [], measurements := [] }

/-- A part fresh from manufacture: nothing enrolled, no record (log entry 8). -/
def Security.reset : Security :=
  { record := none, identity := false, attest := none, writing := none }

/-- The Almanac at power-on (R355). -/
def Almanac.reset : Almanac :=
  { count := 0, nextLeap := 0, ticks := 0, trail := [], pulse0 := 0, pulse1 := 0, fired := [] }

/-- The Herald with nothing pending. -/
def Herald.reset : Herald :=
  { raised := [], out := [], pend := [], byLevel := [], inserv := [], stamps := [], sampled := [], since := [], pins := 0, intx := 0,
    lineSeen := [], timers := [] }

/-- A die with no window counted. -/
def DieGov.reset : DieGov := { settling := false, clean := 0, ramp := none }

/-- The governor inactive. -/
def Governor.reset : Governor := { dies := Vector.replicate 4 DieGov.reset, asked := none, takeUp := none, window := 0 }

/-- The calendar before frame 0. -/
def Calendar.reset : Calendar := { started := false, frameTick := 0, slices := [], usable := [] }

/-- A ring that is unset. -/
def Ring.unset : Ring :=
  { n := 0, sqBase := 0, cqBase := 0, sqTail := 0, sqHead := 0, cqHead := 0, cqTail := 0, state := .unset,
    cause := 0, ctx := none, queued := [], job := .idle }

/-- Links down. -/
def Links.reset : Links :=
  { pca := false, pcb0 := false, pcb1 := false, msiA := false, msiB := false, adminHeld := false }

/-- The switch empty. -/
def Switch.reset : Switch :=
  { egress := [], nextSeq := [], recovery := [], policers := [], gate := [] }

/-- A twin link not yet polled. -/
def TwinLink.reset : TwinLink :=
  { polling := false, missed := 0, hwCount := none, heartbeat := none, hbSame := 0,
    backedOff := false, peerChunk := false }

/-- The safety island's own state at reset. -/
def Safety.reset : Safety :=
  { hostStopped := 0, islandStopped := 0, wdogFrom := 0, wdogHalf := false, wdogExpired := false, stoppedOnce := [],
    silentOnce := [], offAtPoll := [], closedPorts := [], stest := [], vigilArmed := [], vigilMissed := [] }

/-- No throttle step in force. -/
def HalfReg.reset : HalfReg := { clean := 0, steps := [] }

/-- Little-endian bytes of a number, as the root keys below are written. -/
def bytesOfNat : Nat → Nat → List Byte
  | 0, _ => []
  | k + 1, n => BitVec.ofNat 8 n :: bytesOfNat k (n / 256)

/-- The four root keys of the modelled part (log entry 8): the spec gives none, so these are the public keys of the
published Ed25519 test vectors, in byte order. -/
def Part.rootKeySet : List (List Byte) :=
  [bytesOfNat 32 0x1a5107f7681a02af2523a6daf372e10e3a0764c9d3fe4bd5b70ab18201985ad7,
   bytesOfNat 32 0x0c66f42af155cdc08c96c42ecf2c989cbc7e1b4da70ab7925a8943e8c317403d,
   bytesOfNat 32 0x258090481591eb5dac0333ba13ed160858f03002d07ea48da3a118628ecd51fc,
   bytesOfNat 32 0x6e421d7f597cef1fc5c928242bbfffce86836e31f2d0670f34724c14fc178127]

/-- The modelled part (log entry 7): the automotive top grade at stepping B, ROM edition 1. -/
def Part.reset : Part := { grade := 1, stepping := 2, romEdition := 1, rootKeys := Part.rootKeySet }

/-- The device right after the always-on domain leaves its power-on reset (R438): every register at its reset value, every
table and queue empty. -/
def Device.reset : Device :=
  { regs := [], mem := [], islandSram := [], power := Power.reset, cfg := .empty, busy := none, lastResult := 0,
    part := Part.reset, boot := Boot.none, sec := Security.reset, rank := false, alm := Almanac.reset,
    herald := Herald.reset, gov := Governor.reset, cal := Calendar.reset, banks := [], objects := [], buckets := [],
    ctxs := [], tenancies := [], admin := Ring.unset, notices := [], outbound := [], links := Links.reset,
    sw := Switch.reset, queues := [], csi := [], can := [], acf := [], twin0 := TwinLink.reset,
    twin1 := TwinLink.reset, hwCount := 0, safety := Safety.reset, half0 := HalfReg.reset, half1 := HalfReg.reset,
    served := [], portWaits := [], refreshes := [], paced := [], bitmapHeld := [], arb := { engine := 0, admission := 0 },
    hostCache := [], reservations := [], pools := [], jobs := [], lastSteps := [], nextId := 0, freeIndex := 0, answer := .none, sent := [] }

/-- The state right after reset: no command waits. -/
def State.reset : State := { dev := Device.reset, pending := [] }

end Sys2Proof.Machine
end

