-- ==== Sys2Proof/Machine/Store.lean ====
section
/-!
DEFINITION. The operations on sparse tables in canonical form: keys strictly rising. Memory is such a table of bytes whose
unlisted bytes read as 0x00 (log entry 3).
-/

namespace Sys2Proof.Machine

variable {α : Type}

/-- The value at a key, if the table lists it. -/
def tget : Table α → Nat → Option α
  | [], _ => none
  | (j, v) :: m, k => if j = k then some v else tget m k

/-- The table with a key set to a value. -/
def tput : Table α → Nat → α → Table α
  | [], k, v => [(k, v)]
  | (j, w) :: m, k, v =>
    if k < j then (k, v) :: (j, w) :: m
    else if j = k then (k, v) :: m
    else (j, w) :: tput m k v

/-- The table without a key. -/
def tdel : Table α → Nat → Table α
  | [], _ => []
  | (j, w) :: m, k => if j = k then tdel m k else (j, w) :: tdel m k

/-- Whether every key of a table lies above a bound and the keys rise strictly. -/
def tsortedFrom (lo : Nat) : Table α → Bool
  | [] => true
  | (j, _) :: m => decide (lo ≤ j) && tsortedFrom (j + 1) m

/-- Whether the keys of a table rise strictly. -/
def tsorted (m : Table α) : Bool := tsortedFrom 0 m

/-- The value at a key, an unlisted key giving the empty value. -/
def tgetD (m : Table α) (k : Nat) (empty : α) : α := (tget m k).getD empty

/-- The table with a key set to a value, listing no empty value. -/
def tputD [DecidableEq α] (m : Table α) (k : Nat) (v empty : α) : Table α :=
  if v = empty then tdel m k else tput m k v

/-- The table with one value changed by a function. -/
def tmodD [DecidableEq α] (m : Table α) (k : Nat) (empty : α) (f : α → α) : Table α :=
  tputD m k (f (tgetD m k empty)) empty

/-- The values of a table, in rising order of their keys. -/
def tvals (m : Table α) : List α := m.map (·.2)

/-- A rising list of numbers with one more member. -/
def addMember : List Nat → Nat → List Nat
  | [], k => [k]
  | j :: l, k => if k < j then k :: j :: l else if j = k then j :: l else j :: addMember l k

/-- A list of numbers without one member. -/
def dropMember (l : List Nat) (k : Nat) : List Nat := l.filter (· ≠ k)

/-- A table in canonical form over a choice of empty values: sorted, and listing no empty value. -/
def Table.canon (empty : Nat → α) (m : Table α) : Prop := tsorted m = true ∧ ∀ e ∈ m, e.2 ≠ empty e.1

/-! ### Memory -/

/-- A byte of memory; a byte that nothing has written reads as 0x00. -/
def memByte (m : List Host.Cell) (a : Nat) : Byte := tgetD m a 0

/-- Memory with one byte written, listing no byte that reads as an unlisted one. -/
def memPut (m : List Host.Cell) (a : Nat) (b : Byte) : List Host.Cell := tputD m a b 0

/-- `n` bytes of memory from an address up. -/
def memRead (m : List Host.Cell) (a : Nat) : Nat → List Byte
  | 0 => []
  | n + 1 => memByte m a :: memRead m (a + 1) n

/-- Memory with bytes written from an address up. -/
def memWrite (m : List Host.Cell) (a : Nat) : List Byte → List Host.Cell
  | [] => m
  | b :: bs => memWrite (memPut m a b) (a + 1) bs

/-- Memory with every byte of a range zero. -/
def memClear (m : List Host.Cell) (a n : Nat) : List Host.Cell := m.filter fun c => c.1 < a || a + n ≤ c.1

/-- The canonical form of memory: addresses strictly rising, and no byte listed that reads as an unlisted one. -/
def Memory.wf (m : List Host.Cell) : Bool := tsorted m && m.all fun c => c.2 ≠ 0

end Sys2Proof.Machine
end

