-- ==== Sys2Proof/Machine/Bits.lean ====
section
/-!
DEFINITION. Bit fields, byte order (R6) and counters that hold at their largest value.
-/

namespace Sys2Proof.Machine

/-- The `len` bits of a word from bit `lo` up, as a number (R7). -/
def bitsAt (w : Word) (lo len : Nat) : Nat := w.toNat / 2 ^ lo % 2 ^ len

/-- A word with the `len` bits from bit `lo` up set to a number. -/
def putBits (w : Word) (lo len v : Nat) : Word :=
  (w &&& ~~~(BitVec.ofNat 64 ((2 ^ len - 1) * 2 ^ lo))) ||| BitVec.ofNat 64 (v % 2 ^ len * 2 ^ lo)

/-- One bit of a word. -/
def bitOf (w : Word) (i : Nat) : Bool := w.getLsbD i

/-- A word whose bits below a width are kept. -/
def lowBits (w : Word) (n : Nat) : Word := w &&& BitVec.ofNat 64 (2 ^ n - 1)

/-- A 32-bit value in a register word. -/
def wordOf (h : Half) : Word := h.setWidth 64

/-- The low 32 bits of a register word. -/
def halfOf (w : Word) : Half := w.setWidth 32

/-- The number a little-endian list of bytes stands for. -/
def natOfBytes : List Byte → Nat
  | [] => 0
  | b :: bs => b.toNat + 256 * natOfBytes bs

/-- The number a big-endian list of bytes stands for. -/
def natOfBytesBe (bs : List Byte) : Nat := bs.foldl (fun n b => n * 256 + b.toNat) 0

/-- The big-endian bytes of a number. -/
def bytesBe (k n : Nat) : List Byte := (bytesOfNat k n).reverse

/-- `len` bytes of a list from an offset, missing bytes reading as 0. -/
def slice (bs : List Byte) (off len : Nat) : List Byte :=
  let t := (bs.drop off).take len
  t ++ List.replicate (len - t.length) 0

/-- The little-endian number in `len` bytes of a list from an offset. -/
def fieldAt (bs : List Byte) (off len : Nat) : Nat := natOfBytes (slice bs off len)

/-- Division rounded up. -/
def ceilDiv (a b : Nat) : Nat := (a + b - 1) / b

/-- A count raised by an amount that holds at the largest value of a width (registers marked "Holds at"). -/
def holdAdd (len v by_ : Nat) : Nat := min (v + by_) (2 ^ len - 1)

/-- The two's complement value of the low `len` bits of a number. -/
def signedOf (len v : Nat) : Int :=
  let u := v % 2 ^ len
  if u < 2 ^ (len - 1) then (u : Int) else (u : Int) - (2 ^ len : Nat)

/-- The low `len` bits of an integer in two's complement. -/
def unsignedOf (len : Nat) (v : Int) : Nat := (v % ((2 ^ len : Nat) : Int)).toNat

/-- The difference of two free-running 32-bit counts, modulo 2^32 (R246). -/
def countDiff (a b : Half) : Nat := (a - b).toNat

/-- Whether two ranges of a base and a length share an address. -/
def overlaps (a la b lb : Nat) : Bool := a < b + lb && b < a + la && 0 < la && 0 < lb

/-- The number of members of a list of Booleans that are true. -/
def countTrue (l : List Bool) : Nat := (l.filter id).length

end Sys2Proof.Machine
end

