-- ==== Sys2Proof/Machine/Numbers.lean ====
section
/-!
DEFINITION. The element formats, their exact values and the one rounding of the device (R119 to R128, R134 to R136).
-/

namespace Sys2Proof.Machine

/-! ### Rounding -/

/-- The integer nearest to a rational, ties to even. -/
def rne (q : Rat) : Int :=
  let f := q.floor
  let r := q - f
  if r < 1 / 2 then f else if 1 / 2 < r then f + 1 else if f % 2 = 0 then f else f + 1

/-- A power of two with an integer exponent. -/
def pow2 (k : Int) : Rat := if 0 ≤ k then ((2 ^ k.toNat : Nat) : Rat) else 1 / ((2 ^ (-k).toNat : Nat) : Rat)

/-- The exponent of the largest power of two that is not above a positive rational. -/
def log2Floor (q : Rat) : Int :=
  let l : Int := (Nat.log2 q.num.natAbs : Int) - (Nat.log2 q.den : Int)
  if q < pow2 l then l - 1 else l

/-- A number of the device's exact arithmetic: a NaN, or a value with a sign that matters where the value is 0 (R122). -/
inductive Val where
  | nan
  | num (neg : Bool) (v : Rat)
  deriving DecidableEq, Repr

/-- A rational, with the sign it has. -/
def Val.ofRat (q : Rat) : Val := .num (q < 0) q

/-- The exact value of an integer. -/
def Val.ofInt (i : Int) : Val := .ofRat (i : Rat)

/-- The exact product. -/
def Val.mul : Val → Val → Val
  | .num s a, .num t b => .num (s != t) (a * b)
  | _, _ => .nan

/-- The exact sum. A sum that is 0 is negative only where both terms are. -/
def Val.add : Val → Val → Val
  | .num s a, .num t b => .num (if a + b = 0 then s && t else a + b < 0) (a + b)
  | _, _ => .nan

/-- The exact sum of a first term and a list of further ones. -/
def Val.sum (a : Val) (l : List Val) : Val := l.foldl Val.add a

/-- The magnitude. -/
def Val.abs : Val → Val
  | .nan => .nan
  | .num _ v => .num false (if v < 0 then -v else v)

/-! ### What a run counts (R123, R124, R128) -/

/-- Saturations counted, and whether an infinity was replaced or a NaN read. -/
structure Tally where
  sat : Nat
  inf : Bool
  nan : Bool
  deriving DecidableEq, Repr

/-- Nothing counted. -/
def Tally.zero : Tally := { sat := 0, inf := false, nan := false }

/-- Two tallies together. -/
def Tally.add (a b : Tally) : Tally := { sat := a.sat + b.sat, inf := a.inf || b.inf, nan := a.nan || b.nan }

/-- The tally of a list of tallies. -/
def Tally.total (l : List Tally) : Tally := l.foldl Tally.add .zero

/-! ### Layouts (R121) -/

/-- A floating-point layout: exponent and fraction widths, bias, the code of the largest finite magnitude, the code of
infinity where the format has one, and the canonical NaN (R124). -/
structure FpLayout where
  exp : Nat
  frac : Nat
  bias : Nat
  largest : Nat
  infinity : Option Nat
  canonical : Nat
  deriving DecidableEq, Repr

/-- The bits of a layout below its sign. -/
def FpLayout.low (l : FpLayout) : Nat := l.exp + l.frac

/-- The table "Floating-point layouts". -/
def layoutE4m3 : FpLayout := { exp := 4, frac := 3, bias := 7, largest := 0x7E, infinity := none, canonical := 0x7F }
/-- FP8-E5M2. -/
def layoutE5m2 : FpLayout :=
  { exp := 5, frac := 2, bias := 15, largest := 0x7B, infinity := some 0x7C, canonical := 0x7F }
/-- BF16. -/
def layoutBf16 : FpLayout :=
  { exp := 8, frac := 7, bias := 127, largest := 0x7F7F, infinity := some 0x7F80, canonical := 0x7FC0 }
/-- FP16. -/
def layoutFp16 : FpLayout :=
  { exp := 5, frac := 10, bias := 15, largest := 0x7BFF, infinity := some 0x7C00, canonical := 0x7E00 }
/-- FP32. -/
def layoutFp32 : FpLayout :=
  { exp := 8, frac := 23, bias := 127, largest := 0x7F7FFFFF, infinity := some 0x7F800000, canonical := 0x7FC00000 }

/-- The magnitude a code below the infinity stands for (R121). -/
def FpLayout.magnitude (l : FpLayout) (code : Nat) : Rat :=
  let e := code / 2 ^ l.frac
  let f := code % 2 ^ l.frac
  if e = 0 then (f : Rat) * pow2 (1 - (l.bias : Int) - (l.frac : Int))
  else ((2 ^ l.frac + f : Nat) : Rat) * pow2 ((e : Int) - (l.bias : Int) - (l.frac : Int))

/-- What the bits of a floating-point element are read as: infinities replaced and counted (R123), NaNs seen (R124). -/
def FpLayout.read (l : FpLayout) (bits : Nat) : Val × Tally :=
  let s := decide (bits / 2 ^ l.low % 2 = 1)
  let code := bits % 2 ^ l.low
  let val := fun (c : Nat) => let m := l.magnitude c; Val.num s (if s then -m else m)
  if code ≤ l.largest then (val code, .zero)
  else if l.infinity = some code then (val l.largest, { sat := 1, inf := true, nan := false })
  else (.nan, { sat := 0, inf := false, nan := true })

/-- The code of a magnitude rounded to a layout with an unbounded exponent range above (step 1 of R125). The codes of a
layout rise with the magnitudes they stand for, one code a step. -/
def FpLayout.roundedCode (l : FpLayout) (m : Rat) : Nat :=
  if m = 0 then 0
  else
    let e := max (log2Floor m) (1 - (l.bias : Int))
    let n := rne (m * pow2 ((l.frac : Int) - e))
    ((e + (l.bias : Int) - 1) * (2 ^ l.frac : Nat) + n).toNat

/-- A value formed in a floating-point destination (R124, R125), and whether it saturated. -/
def FpLayout.form (l : FpLayout) : Val → Nat × Bool
  | .nan => (l.canonical, false)
  | .num s v =>
    let code := l.roundedCode (if v < 0 then -v else v)
    let sign := if s then 2 ^ l.low else 0
    if l.largest < code then (sign + l.largest, true) else (sign + code, false)

/-! ### Element formats (R119) -/

/-- What kind of format an element format is. -/
inductive FmtKind where
  | int (lo hi : Int)
  | fp (l : FpLayout)
  deriving DecidableEq, Repr

/-- The table "Element formats". -/
def fmtKind : Fmt → FmtKind
  | .int4 => .int (-8) 7
  | .int8 => .int (-128) 127
  | .uint8 => .int 0 255
  | .int32 => .int (-2147483648) 2147483647
  | .e4m3 => .fp layoutE4m3
  | .e5m2 => .fp layoutE5m2
  | .bf16 => .fp layoutBf16
  | .fp16 => .fp layoutFp16
  | .fp32 => .fp layoutFp32

/-- The width of an element in bits. -/
def fmtBits : Fmt → Nat
  | .int4 => 4
  | .int8 | .uint8 | .e4m3 | .e5m2 => 8
  | .bf16 | .fp16 => 16
  | .int32 | .fp32 => 32

/-- What an element is read as. -/
def readElem (f : Fmt) (bits : Nat) : Val × Tally :=
  match fmtKind f with
  | .fp l => l.read bits
  | .int lo _ => (.ofInt (if lo < 0 then signedOf (fmtBits f) bits else (bits % 2 ^ fmtBits f : Nat)), .zero)

/-- An integer held within a range, and whether it left it (step 2 of R125). -/
def clampInt (lo hi i : Int) : Int × Bool :=
  if i < lo then (lo, true) else if hi < i then (hi, true) else (i, false)

/-- One saturation or none. -/
def Tally.ofSat (s : Bool) : Tally := { sat := if s then 1 else 0, inf := false, nan := false }

/-- A value formed in a destination format: R125, and R124 for a NaN. An integer destination adds a zero point to the
rounded integer before the range is applied (R131). -/
def formElem (f : Fmt) (v : Val) (y0 : Int) : Nat × Tally :=
  match fmtKind f with
  | .fp l => let r := l.form v; (r.1, .ofSat r.2)
  | .int lo hi =>
    match v with
    | .nan => (0, { sat := 1, inf := false, nan := true })
    | .num _ q => let r := clampInt lo hi (rne q + y0); (unsignedOf (fmtBits f) r.1, .ofSat r.2)

/-! ### Elements in bytes (R6, R120) -/

/-- The number of bytes that elements take. -/
def elemBytes (f : Fmt) (n : Nat) : Nat := ceilDiv (n * fmtBits f) 8

/-- The bits of element `i` of packed bytes. -/
def elemOf (f : Fmt) (bs : List Byte) (i : Nat) : Nat :=
  match f with
  | .int4 => fieldAt bs (i / 2) 1 / 2 ^ (4 * (i % 2)) % 16
  | _ => fieldAt bs (i * (fmtBits f / 8)) (fmtBits f / 8)

/-- The bytes of a pair of 4-bit elements after another. -/
def packNibbles : List Nat → List Byte
  | [] => []
  | [a] => [BitVec.ofNat 8 (a % 16)]
  | a :: b :: l => BitVec.ofNat 8 (a % 16 + 16 * (b % 16)) :: packNibbles l

/-- The bytes of elements. -/
def packElems (f : Fmt) (l : List Nat) : List Byte :=
  match f with
  | .int4 => packNibbles l
  | _ => l.flatMap (bytesOfNat (fmtBits f / 8))

/-! ### FP32 lanes -/

/-- What an FP32 lane is read as. -/
def readF32 (b : Half) : Val × Tally := layoutFp32.read b.toNat

/-- A value formed as FP32. -/
def formF32 (v : Val) : Half × Tally := let r := layoutFp32.form v; (BitVec.ofNat 32 r.1, .ofSat r.2)

/-- One fused multiply-add a × b + c with a single rounding. -/
def fmaF32 (a b c : Val) : Half × Tally := formF32 ((a.mul b).add c)

/-! ### Sett4 and Q8B (R135, R136, R145) -/

/-- The value of a block scale byte. -/
def scaleVal (k : Byte) : Rat := pow2 ((k.toNat : Int) - 127)

/-- The value a Sett4 code stands for before the block scale. -/
def sett4Code (c : Nat) : Int := signedOf 4 c

/-- Whether a Sett4 code is the escape. -/
def isEscape (c : Nat) : Bool := c % 16 = 8

/-- A spall entry (R136). -/
structure Spall where
  tag : Nat
  position : Nat
  value : BitVec 16
  deriving DecidableEq, Repr

/-- The spall entry that 4 bytes hold. -/
def spallOf (w : Nat) : Spall :=
  { tag := w / 2 ^ 21 % 64, position := w / 2 ^ 16 % 32, value := BitVec.ofNat 16 w }

/-- What a BF16 value is read as. -/
def readBf16 (b : BitVec 16) : Val × Tally := layoutBf16.read b.toNat

end Sys2Proof.Machine
end

