-- ==== Sys2Proof/Machine/Codec.lean ====
section
/-!
DEFINITION. The feature-map codecs: the cut codec (R168, R169) and zero compression (R170).
-/

namespace Sys2Proof.Machine

/-- A natural number divided by a power of two and rounded to nearest, ties to even. -/
def rneShift (a k : Nat) : Nat :=
  let q := a / 2 ^ k
  let r := 2 * (a % 2 ^ k)
  if r < 2 ^ k then q else if 2 ^ k < r then q + 1 else q + q % 2

/-- The two cut codecs. -/
inductive Cut where
  | cut2 | cut3
  deriving DecidableEq, Repr

/-- The elements of a group. -/
def Cut.elems : Cut → Nat
  | .cut2 => 16
  | .cut3 => 24

/-- The width of a residual in bits. -/
def Cut.bits : Cut → Nat
  | .cut2 => 3
  | .cut3 => 2

/-- The largest residual. -/
def Cut.qMax (c : Cut) : Nat := 2 ^ c.bits - 1

/-- The smallest of a list of unsigned values; 255 for none. -/
def cutBase (us : List Nat) : Nat := us.foldl min 255

/-- The largest of a list of unsigned values. -/
def cutTop (us : List Nat) : Nat := us.foldl max 0

/-- The smallest shift whose rounded spread fits a residual (step 2 of R169). -/
def cutShift (c : Cut) (spread : Nat) : Nat :=
  ((List.range 9).find? fun k => decide (rneShift spread k ≤ c.qMax)).getD 8

/-- The number that fields of one width form, the first in the lowest bits. -/
def packFields (width : Nat) : List Nat → Nat
  | [] => 0
  | q :: l => q % 2 ^ width + 2 ^ width * packFields width l

/-- The 64-bit group that codes unsigned values (the table "Cut group"). -/
def cutGroup (c : Cut) (us : List Nat) : Nat :=
  let b := cutBase us
  let k := cutShift c (cutTop us - b)
  b + 256 * k + 65536 * packFields c.bits (us.map fun u => rneShift (u - b) k)

/-- The unsigned value that residual `i` of a group decodes to. -/
def cutValue (c : Cut) (group i : Nat) : Nat :=
  min 255 (group % 256 + group / 65536 / 2 ^ (c.bits * i) % 2 ^ c.bits * 2 ^ (group / 256 % 8))

/-- The unsigned values that a group decodes to. -/
def cutDecodeGroup (c : Cut) (group : Nat) : List Nat := (List.range c.elems).map (cutValue c group)

/-- The unsigned value of an element byte: offset by 128 for a signed element. -/
def cutIn (signed : Bool) (b : Byte) : Nat := if signed then (b + 128).toNat else b.toNat

/-- The element byte of an unsigned value. -/
def cutOut (signed : Bool) (u : Nat) : Byte := if signed then BitVec.ofNat 8 u - 128 else BitVec.ofNat 8 u

/-- `n` groups of a row segment coded, 8 bytes each. -/
def cutEncodeGroups (c : Cut) (signed : Bool) : Nat → List Byte → List Byte
  | 0, _ => []
  | n + 1, bs =>
    bytesOfNat 8 (cutGroup c ((slice bs 0 c.elems).map (cutIn signed))) ++
      cutEncodeGroups c signed n (bs.drop c.elems)

/-- A row segment coded: a 64 B line for every 128 B or 192 B. -/
def cutEncode (c : Cut) (signed : Bool) (bs : List Byte) : List Byte :=
  cutEncodeGroups c signed (8 * ceilDiv bs.length (8 * c.elems)) bs

/-- `n` groups decoded. -/
def cutDecodeGroups (c : Cut) (signed : Bool) : Nat → List Byte → List Byte
  | 0, _ => []
  | n + 1, bs => (cutDecodeGroup c (fieldAt bs 0 8)).map (cutOut signed) ++ cutDecodeGroups c signed n (bs.drop 8)

/-- Coded lines decoded. -/
def cutDecode (c : Cut) (signed : Bool) (bs : List Byte) : List Byte :=
  cutDecodeGroups c signed (bs.length / 8) bs

/-! ### Zero compression (R170) -/

/-- The elements of a byte list, `e` bytes each. -/
def elemsOf (e : Nat) (bs : List Byte) : List Nat := (List.range (bs.length / e)).map fun i => fieldAt bs (i * e) e

/-- The mask of one data line's elements: bit i is 1 where element i differs from the zero value. -/
def zeroMask (z : Nat) : List Nat → Nat
  | [] => 0
  | x :: l => (if x = z then 0 else 1) + 2 * zeroMask z l

/-- The data lines of a row segment. -/
def linesOf (bs : List Byte) : List (List Byte) := (List.range (ceilDiv bs.length 64)).map fun j => slice bs (64 * j) 64

/-- Bytes followed by zero bytes up to the next 64 B line. -/
def padLine (bs : List Byte) : List Byte := bs ++ List.replicate (ceilDiv bs.length 64 * 64 - bs.length) 0

/-- A privileged row segment stored: mask lines, then payload lines. -/
def zeroEncode (e z : Nat) (bs : List Byte) : List Byte :=
  let ls := linesOf bs
  padLine (ls.flatMap fun l => bytesOfNat 8 (zeroMask z (elemsOf e l))) ++
    padLine (ls.flatMap fun l => ((elemsOf e l).filter (· ≠ z)).flatMap (bytesOfNat e))

/-- The elements of one data line restored from its mask and the packed elements, with the packed elements left. -/
def zeroLine (z : Nat) : Nat → Nat → List Nat → List Nat × List Nat
  | 0, _, p => ([], p)
  | n + 1, mask, p =>
    if mask % 2 = 0 then
      let r := zeroLine z n (mask / 2) p
      (z :: r.1, r.2)
    else
      let r := zeroLine z n (mask / 2) (p.drop 1)
      (p.headD z :: r.1, r.2)

/-- The elements of data lines restored, `n` elements a line. -/
def zeroLines (z n : Nat) : List Nat → List Nat → List Nat
  | [], _ => []
  | mask :: ms, p =>
    let r := zeroLine z n mask p
    r.1 ++ zeroLines z n ms r.2

/-- A region of `l` data lines restored to its row segment. -/
def zeroDecode (e z l : Nat) (bs : List Byte) : List Byte :=
  let masks := (List.range l).map fun j => fieldAt bs (8 * j) 8
  (zeroLines z (64 / e) masks (elemsOf e (bs.drop (ceilDiv l 8 * 64)))).flatMap (bytesOfNat e)

/-- The payload lines that the masks of `l` data lines call for. -/
def zeroPayload (e l : Nat) (bs : List Byte) : Nat :=
  let masks := (List.range l).map fun j => fieldAt bs (8 * j) 8
  let bitCount := masks.foldl (fun n m => n + countTrue ((List.range 64).map fun i => decide (m / 2 ^ i % 2 = 1))) 0
  ceilDiv (bitCount * e) 64

/-! ### The codec of a transfer (R167) -/

/-- The zero value of a map of a format: its zero point for INT8 and UINT8, else the all-zero encoding (R149, R170). -/
def zeroValue (f : Fmt) (zp : Byte) : Nat :=
  match f with
  | .int8 | .uint8 => zp.toNat
  | _ => 0

/-- The bytes of an element of a map that zero compression takes. -/
def zeroBytes (f : Fmt) : Nat := max 1 (fmtBits f / 8)

/-- Bytes as a transfer's codec stores them. -/
def codecEncode : Codec → List Byte → List Byte
  | .none, bs => bs
  | .cut2 s, bs => cutEncode .cut2 s bs
  | .cut3 s, bs => cutEncode .cut3 s bs
  | .zero f z, bs => zeroEncode (zeroBytes f) (zeroValue f z) bs

/-- The most bytes that `n` uncompressed bytes take at the far side (R171). -/
def codecSize : Codec → Nat → Nat
  | .none, n => n
  | .cut2 _, n => ceilDiv n 128 * 64
  | .cut3 _, n => ceilDiv n 192 * 64
  | .zero _ _, n => (ceilDiv (ceilDiv n 64) 8 + ceilDiv n 64) * 64

/-- Stored bytes restored to `n` bytes. -/
def codecDecode (c : Codec) (n : Nat) (bs : List Byte) : List Byte :=
  match c with
  | .none => bs.take n
  | .cut2 s => (cutDecode .cut2 s bs).take n
  | .cut3 s => (cutDecode .cut3 s bs).take n
  | .zero f z => (zeroDecode (zeroBytes f) (zeroValue f z) (ceilDiv n 64) bs).take n

/-- The lines of a stored region that a load reads for `n` uncompressed bytes, and whether they are all known: of a region in
zero compression the mask lines first, then, `got` being what they hold, the payload lines that they call for (R170). -/
def codecLines (c : Codec) (n : Nat) (touched : List Nat) (got : List Byte) : List Nat × Bool :=
  match c with
  | .none => (touched, true)
  | .zero f _ =>
    let l := ceilDiv n 64
    let m := ceilDiv l 8
    if got.length < 64 * m then (List.range m, false) else (List.range (m + zeroPayload (zeroBytes f) l got), true)
  | c => (List.range (codecSize c n / 64), true)

end Sys2Proof.Machine
end

