-- ==== Sys2Proof/Machine/Crypto.lean ====
section
/-!
DEFINITION. The checksums and the cryptography the spec names by its standards: CRC-64 (R320), CRC-32C (R327), SHA-512,
SHA-256 with HMAC (R398), and Ed25519 (R77). The spec gives the two CRCs in full; the others are those of their published
standards (log entry 19).
-/

namespace Sys2Proof.Machine

/-! ### CRC-64 of ECMA-182 (R320): no reflection, initial value 0, no final XOR -/

/-- `n` bits of a CRC-64 step. -/
def crc64Bits : Nat → Word → Word
  | 0, c => c
  | n + 1, c => crc64Bits n (if c.msb then (c <<< 1) ^^^ 0x42F0E1EBA9EA3693 else c <<< 1)

/-- A CRC-64 with one more byte. -/
def crc64Byte (c : Word) (b : Byte) : Word := crc64Bits 8 (c ^^^ (b.setWidth 64 <<< 56))

/-- A CRC-64 with more bytes. -/
def crc64 (c : Word) (bs : List Byte) : Word := bs.foldl crc64Byte c

/-! ### CRC-32C (R327): reflected, initial value and final XOR all ones -/

/-- `n` bits of a CRC-32C step. -/
def crc32cBits : Nat → Half → Half
  | 0, c => c
  | n + 1, c => crc32cBits n (if c.getLsbD 0 then (c >>> 1) ^^^ 0x82F63B78 else c >>> 1)

/-- A CRC-32C register with one more byte. -/
def crc32cByte (c : Half) (b : Byte) : Half := crc32cBits 8 (c ^^^ b.setWidth 32)

/-- The CRC-32C of bytes. -/
def crc32c (bs : List Byte) : Half := bs.foldl crc32cByte 0xFFFFFFFF ^^^ 0xFFFFFFFF

/-! ### SHA-512 and SHA-256

One algorithm over words of 64 or of 32 bits. Its constants are the first bits of the fractional parts of roots of the first primes,
and are computed as such. -/

/-- The largest root below `2 ^ n` more than `r` whose `k`-th power is at most `x`. -/
def rootFrom (k x : Nat) : Nat → Nat → Nat
  | 0, r => r
  | n + 1, r => rootFrom k x n (if (r + 2 ^ n) ^ k ≤ x then r + 2 ^ n else r)

/-- The first `w` bits, 64 at most, of the fractional part of the `k`-th root of a number below 1,024. -/
def rootBits (w k p : Nat) : BitVec w := BitVec.ofNat w (rootFrom k (p * 2 ^ (64 * k)) 70 0 % 2 ^ 64 / 2 ^ (64 - w))

/-- The primes below 410, of which there are 80. -/
def hashPrimes : List Nat := (List.range 410).filter fun n => 2 ≤ n && (List.range n).all fun m => m < 2 || n % m ≠ 0

/-- The eight words that a hash carries from block to block. -/
structure HashWords (w : Nat) where
  a : BitVec w
  b : BitVec w
  c : BitVec w
  d : BitVec w
  e : BitVec w
  f : BitVec w
  g : BitVec w
  h : BitVec w

/-- The words in order. -/
def HashWords.list {w : Nat} (v : HashWords w) : List (BitVec w) := [v.a, v.b, v.c, v.d, v.e, v.f, v.g, v.h]

/-- The words that a list of eight gives. -/
def hashWords {w : Nat} (l : List (BitVec w)) : HashWords w :=
  { a := l.getD 0 0, b := l.getD 1 0, c := l.getD 2 0, d := l.getD 3 0, e := l.getD 4 0, f := l.getD 5 0, g := l.getD 6 0,
    h := l.getD 7 0 }

/-- The rotations of a hash: of its two sums, and of the two mixes of its schedule, whose third is a shift. -/
structure HashTurns where
  sumA : Nat × Nat × Nat
  sumE : Nat × Nat × Nat
  mixOld : Nat × Nat × Nat
  mixNew : Nat × Nat × Nat

/-- Three rotations of a word combined. -/
def spin {w : Nat} (t : Nat × Nat × Nat) (x : BitVec w) : BitVec w :=
  x.rotateRight t.1 ^^^ x.rotateRight t.2.1 ^^^ x.rotateRight t.2.2

/-- Two rotations and a shift of a word combined. -/
def blend {w : Nat} (t : Nat × Nat × Nat) (x : BitVec w) : BitVec w := x.rotateRight t.1 ^^^ x.rotateRight t.2.1 ^^^ (x >>> t.2.2)

/-- The schedule of a block lengthened by `n` words; the newest word stands first. -/
def schedule {w : Nat} (t : HashTurns) : Nat → List (BitVec w) → List (BitVec w)
  | 0, l => l
  | n + 1, l => schedule t n ((blend t.mixNew (l.getD 1 0) + l.getD 6 0 + blend t.mixOld (l.getD 14 0) + l.getD 15 0) :: l)

/-- One round, with its constant and its word of the schedule. -/
def HashWords.round {w : Nat} (t : HashTurns) (v : HashWords w) (x : BitVec w × BitVec w) : HashWords w :=
  let choose := (v.e &&& v.f) ||| (~~~v.e &&& v.g)
  let most := (v.a &&& (v.b ||| v.c)) ||| (v.b &&& v.c)
  let p := x.1 + x.2 + v.h + choose + spin t.sumE v.e
  { a := p + most + spin t.sumA v.a, b := v.a, c := v.b, d := v.c, e := v.d + p, f := v.e, g := v.f, h := v.g }

/-- The hash after one more block. -/
def HashWords.block {w : Nat} (t : HashTurns) (ks : List (BitVec w)) (v : HashWords w) (bytes : List Byte) : HashWords w :=
  let first := (List.range 16).map fun i => BitVec.ofNat w (natOfBytesBe (slice bytes (w / 8 * i) (w / 8)))
  let words := (schedule t (ks.length - 16) first.reverse).reverse
  hashWords (List.zipWith (· + ·) v.list ((ks.zip words).foldl (HashWords.round t) v).list)

/-- The digest of bytes by the hash on words of `w` bits with `n` rounds: padded with a one bit, zeros and the length in bits. -/
def hashOf (w n : Nat) (t : HashTurns) (bs : List Byte) : List Byte :=
  let used := bs.length + 1 + w / 4
  let blocks := ceilDiv used (2 * w)
  let padded := bs ++ [0x80] ++ List.replicate (2 * w * blocks - used) 0 ++ bytesBe (w / 4) (8 * bs.length)
  let ks := (hashPrimes.take n).map (rootBits w 3)
  let start : HashWords w := hashWords ((hashPrimes.take 8).map (rootBits w 2))
  let final := (List.range blocks).foldl (fun v i => v.block t ks (slice padded (2 * w * i) (2 * w))) start
  final.list.flatMap fun x => bytesBe (w / 8) x.toNat

/-- The SHA-512 digest of bytes. -/
def sha512 (bs : List Byte) : List Byte :=
  hashOf 64 80 { sumA := (28, 34, 39), sumE := (14, 18, 41), mixOld := (1, 8, 7), mixNew := (19, 61, 6) } bs

/-- The SHA-256 digest of bytes. -/
def sha256 (bs : List Byte) : List Byte :=
  hashOf 32 64 { sumA := (2, 13, 22), sumE := (6, 11, 25), mixOld := (7, 18, 3), mixNew := (17, 19, 10) } bs

/-- HMAC-SHA-256 under a key of at most 64 bytes. -/
def hmacSha256 (key bs : List Byte) : List Byte :=
  let k := slice key 0 64
  sha256 (k.map (· ^^^ 0x5C) ++ sha256 (k.map (· ^^^ 0x36) ++ bs))

/-! ### Ed25519 -/

/-- The prime of the field. -/
def edP : Nat := 2 ^ 255 - 19

/-- The order of the base point. -/
def edL : Nat := 2 ^ 252 + 27742317777372353535851937790883648493

/-- A power modulo the prime, by `n` binary digits of the exponent. -/
def edPow : Nat → Nat → Nat → Nat
  | 0, _, _ => 1
  | n + 1, b, e =>
    let r := edPow n (b * b % edP) (e / 2)
    if e % 2 = 1 then r * b % edP else r

/-- The inverse modulo the prime. -/
def edInv (a : Nat) : Nat := edPow 256 a (edP - 2)

/-- The constant d of the curve. -/
def edD : Nat := 37095705934669439343138083508754565189542113879843219016388785533085940283555

/-- A point of the curve in extended coordinates. -/
structure EdPoint where
  x : Nat
  y : Nat
  z : Nat
  t : Nat
  deriving DecidableEq, Repr

/-- The neutral point. -/
def EdPoint.zero : EdPoint := { x := 0, y := 1, z := 1, t := 0 }

/-- The sum of two points. -/
def EdPoint.add (p q : EdPoint) : EdPoint :=
  let a := (p.y + edP - p.x) * (q.y + edP - q.x) % edP
  let b := (p.y + p.x) * (q.y + q.x) % edP
  let c := 2 * p.t * q.t % edP * edD % edP
  let d := 2 * p.z * q.z % edP
  let e := b + edP - a
  let f := d + edP - c
  let g := d + c
  let h := b + a
  { x := e * f % edP, y := g * h % edP, z := f * g % edP, t := e * h % edP }

/-- A multiple of a point, by `n` binary digits of the factor. -/
def EdPoint.mul : Nat → Nat → EdPoint → EdPoint
  | 0, _, _ => .zero
  | n + 1, k, p =>
    let r := EdPoint.mul n (k / 2) (p.add p)
    if k % 2 = 1 then r.add p else r

/-- The 32-byte encoding of a point. -/
def EdPoint.encode (p : EdPoint) : List Byte :=
  let zi := edInv p.z
  bytesOfNat 32 (p.y * zi % edP + p.x * zi % edP % 2 * 2 ^ 255)

/-- The x coordinate whose square is u / v, of the parity asked for. -/
def edRecover (y sign : Nat) : Option Nat :=
  let y2 := y * y % edP
  let x2 := (y2 + edP - 1) * edInv (edD * y2 % edP + 1) % edP
  let r := edPow 256 x2 ((edP + 3) / 8)
  let x := if r * r % edP = x2 then r else r * edPow 256 2 ((edP - 1) / 4) % edP
  if x * x % edP ≠ x2 then none
  else if x = 0 && sign = 1 then none
  else some (if x % 2 = sign then x else edP - x)

/-- The point that 32 bytes encode. -/
def EdPoint.decode (bs : List Byte) : Option EdPoint :=
  let n := fieldAt bs 0 32
  let y := n % 2 ^ 255
  if edP ≤ y then none
  else (edRecover y (n / 2 ^ 255)).map fun x => { x := x, y := y, z := 1, t := x * y % edP }

/-- The base point. -/
def EdPoint.base : EdPoint :=
  let x := 15112221349535400772501151409588531511454012693041857206046113283949847762202
  let y := 46316835694926478169428394003475163141307993866256225615783033603165251855960
  { x := x, y := y, z := 1, t := x * y % edP }

/-- The secret scalar and the second half of the expanded secret key. -/
def edExpand (secret : List Byte) : Nat × List Byte :=
  let h := sha512 secret
  let a := fieldAt h 0 32
  (a % 2 ^ 254 / 8 * 8 + 2 ^ 254, h.drop 32)

/-- The public key of a secret key. -/
def edPublic (secret : List Byte) : List Byte := (EdPoint.mul 256 (edExpand secret).1 .base).encode

/-- The signature of a message. -/
def edSign (secret msg : List Byte) : List Byte :=
  let k := edExpand secret
  let pub := edPublic secret
  let r := fieldAt (sha512 (k.2 ++ msg)) 0 64 % edL
  let rEnc := (EdPoint.mul 256 r .base).encode
  let h := fieldAt (sha512 (rEnc ++ pub ++ msg)) 0 64 % edL
  rEnc ++ bytesOfNat 32 ((r + h * k.1) % edL)

/-- Whether a signature of a message verifies with a public key. -/
def edVerify (pub msg sig : List Byte) : Bool :=
  let rEnc := slice sig 0 32
  let s := fieldAt sig 32 32
  match EdPoint.decode pub, EdPoint.decode rEnc with
  | some a, some r =>
    let k := fieldAt (sha512 (rEnc ++ pub ++ msg)) 0 64 % edL
    decide (s < edL) && (EdPoint.mul 256 s .base).encode = (r.add (EdPoint.mul 256 k a)).encode
  | _, _ => false

end Sys2Proof.Machine
end

