-- ==== Sys2Proof/Config.lean ====
section
/-!
DEFINITION. The free values: what the spec leaves open and no rule of it fixes. Each is a constant without a body, so that
no proof can learn its value (log entry 18).
-/

namespace Sys2Proof.Config

/-- The 256-bit seed that a reconstruction gives, by the helper data of the device area (R401, R402). -/
opaque pufSeed : List (BitVec 8) → BitVec 256

/-- The helper data that an enrolment writes to the device area, by offset (R394, R401). -/
opaque helperByte : Nat → BitVec 8

/-- Dimarron's vendor ID (R275 gives no number). -/
opaque vendorId : BitVec 16

/-- The nonce the device chooses for an authenticated read (R398), by the count of free values used. -/
opaque nonce : Nat → BitVec 128

/-- What an integer mode takes an accumulator entry for that another mode left as FP32 (R36 states none). -/
opaque accAsInt : BitVec 32 → Int

/-- What a floating-point mode takes an accumulator entry for that an integer mode left (R36 states none), as FP32. -/
opaque accAsFp : Int → BitVec 32

/-- The core that the record and the notice of a teardown name where supervision ordered it or a run's tag line broke a check
(R226 states none), by context. -/
opaque supervisionCore : Nat → BitVec 7

/-- Whether the operand fields of a 16-byte execute instruction lie within their stated values (R79 lays out none of bytes 1 to
15, here and below). -/
opaque execFieldsOk : List (BitVec 8) → Bool

/-- The operands of a streamer's XFER at the iterations of the loops open around it, innermost first; none where a field lies
outside its stated values. -/
opaque xferOf : List (BitVec 8) → List Nat → Option XferOp

/-- The operands of a WALK. -/
opaque walkOf : List (BitVec 8) → List Nat → Option WalkOp

/-- The operands of an ORDERED. -/
opaque orderedOf : List (BitVec 8) → List Nat → Option OrderedOp

/-- The operands of a DIGEST. -/
opaque digestOf : List (BitVec 8) → Option DigestOp

/-- Whether the operand fields of a SYNCOP lie within their stated values. -/
opaque syncFieldsOk : List (BitVec 8) → Bool

/-- The count of a LOOP, and how many instructions its body takes. -/
opaque loopOf : List (BitVec 8) → Option (LoopCount × Nat)

/-- The longest reduction of an accumulator entry that an EXEC program makes, by its bytes (R41), and the longest sum that it
pools a whole map into (R162). -/
opaque reductions : List (BitVec 8) → Nat × Nat

/-- Whether a column with a nonzero weight zero point drains a row that was loaded without its row sums (R133), by the slab's
image: neither the drain's tables nor its instructions are laid out there. -/
opaque unsummedDrain : List (BitVec 8) → Bool

/-- Where in role 0 a section of a slab's programs is copied, by the image and the section's place in its table (R78). -/
opaque programPlace : List (BitVec 8) → Nat → Nat

/-- Bytes 1 to 15 of an instruction with each role and offset relocated (R78), by the bases of its sixteen roles. -/
opaque relocated : List (BitVec 8) → List Nat → Nat → BitVec 8

/-- The length that an SV-5 graph package states in its own header, from its first 256 bytes, or none where the image is no
package (R234, R256). -/
opaque packageLength : List (BitVec 8) → Option Nat

/-- What the SV-5 package rules say of a package (R234): whether it breaks them, the pages and the Bench bytes its largest
step needs, the bytes its tiles and outputs need, its steps, and its priority. -/
opaque package : List (BitVec 8) → Bool × Nat × Nat × Nat × Nat × Fin 8

/-- The pages of the context's DDR window that a step of a package needs (R233, R235): package image and step. -/
opaque stepPages : List (BitVec 8) → Nat → List Nat

/-- The pages that a step of a package writes, with their bytes (R235, R237): package image, step, and the bytes of the pages
it needs as they stood when it began. -/
opaque stepBytes : List (BitVec 8) → Nat → List (List (BitVec 8)) → List (Nat × List (BitVec 8))

/-- The identifiers of the results that a package declares (R28), by its image. -/
opaque packageResults : List (BitVec 8) → List (BitVec 16)

/-- The saturations that a step of a package counts (R34), by its image, the step, and the bytes of the pages it needs as they
stood when it began. -/
opaque stepSats : List (BitVec 8) → Nat → List (List (BitVec 8)) → Nat

/-- The digest that the self-test image holds for a known-answer test (R340), by the image, the chunk's kind and its argument. -/
opaque stestDigest : List (BitVec 8) → Nat → Nat → BitVec 64

/-- The bytes of an endpoint's configuration space that the spec gives no value (R275). -/
opaque configByte : Nat → BitVec 8

/-- The source address of the Ethernet frames that the gateway sends; the spec names none (R384). -/
opaque deviceMac : BitVec 48

end Sys2Proof.Config
end

