-- ==== Sys2Proof/Machine/RegMap.lean ====
section
/-!
DEFINITION. The register map: the offset, the width and the access masks of every register of the eighteen
register blocks, as the register tables of the spec give them (R8, R11, R422, R425 and each block's own map).
An offset here counts from 0x50_0000_0000, so the slot number of R422 stands in bits [27:20].
-/

namespace Sys2Proof.Machine

/-- When a register takes writes, coded as the Writes column of R425 codes it. -/
inductive WriteRule where
  | whileLoading        -- L
  | islandWhileLoading  -- Li
  | always              -- A
  | islandAlways        -- Ai
  | adminDisabled       -- E
  | special             -- the register's own chapter says
  deriving DecidableEq, Repr

/-- One row of a register map: a register, or a range of registers that lie `n1` by `n2` at strides `s1` and `s2`.
The masks name the fields of each type of R11 (RW, W1C or W1C-S, RC); a bit in no mask is RO, WO or reserved. -/
structure RegRow where
  name : String
  off : Nat
  n1 : Nat
  s1 : Nat
  n2 : Nat
  s2 : Nat
  wide : Bool
  rw : Nat
  w1c : Nat
  rc : Nat
  reset : Nat
  sticky : Bool
  rule : WriteRule
  image : Bool
  deriving DecidableEq, Repr

/-! ### Block CFG -/

/-- CFG_IDENT (R4). -/
def Reg.cfgIdent : Nat := 0x0
/-- CFG_STATE (R418). -/
def Reg.cfgState : Nat := 0x4
/-- CFG_CMD (R418). -/
def Reg.cfgCmd : Nat := 0x8
/-- CFG_REFUSAL (R418). -/
def Reg.cfgRefusal : Nat := 0xc
/-- CFG_OPP (R418). -/
def Reg.cfgOpp : Nat := 0x10
/-- CFG_OPP_REQ (R418). -/
def Reg.cfgOppReq : Nat := 0x14
/-- CFG_OPP_STATUS (R418). -/
def Reg.cfgOppStatus : Nat := 0x18
/-- CFG_WAKE (R418). -/
def Reg.cfgWake : Nat := 0x20
/-- CFG_WAKE_CAUSE (R418). -/
def Reg.cfgWakeCause : Nat := 0x24
/-- CFG_CTL_OUT (R418). -/
def Reg.cfgCtlOut : Nat := 0x28
/-- CFG_CTL_OUT_SET (R418). -/
def Reg.cfgCtlOutSet : Nat := 0x2c
/-- CFG_CTL_OUT_CLR (R418). -/
def Reg.cfgCtlOutClr : Nat := 0x30
/-- CFG_STICKY (R418). -/
def Reg.cfgSticky : Nat := 0x34
/-- CFG_CTL_SAFE (R418). -/
def Reg.cfgCtlSafe : Nat := 0x38
/-- CFG_SEAL_DIGESTi (R418). -/
def Reg.cfgSealDigest (i : Nat) : Nat := 0x40 + 0x4 * i
/-- CFG_NUM_STICKY (R129). -/
def Reg.cfgNumSticky : Nat := 0x80
/-- CFG_SAT_TOTAL (R129). -/
def Reg.cfgSatTotal : Nat := 0x84
/-- CFG_HOST_MODE (R284). -/
def Reg.cfgHostMode : Nat := 0xc0

/-- The rows of block CFG. -/
def regRowsCfg : List RegRow := [
  ⟨"CFG_IDENT", 0x0, 1, 0x0, 1, 0x0, false, 0x0, 0x0, 0x0, 0x8000000, false, .special, false⟩,
  ⟨"CFG_STATE", 0x4, 1, 0x0, 1, 0x0, false, 0x0, 0x0, 0x0, 0x0, false, .special, false⟩,
  ⟨"CFG_CMD", 0x8, 1, 0x0, 1, 0x0, false, 0x0, 0x0, 0x0, 0x0, false, .special, false⟩,
  ⟨"CFG_REFUSAL", 0xc, 1, 0x0, 1, 0x0, false, 0x0, 0x0, 0x0, 0x0, false, .special, false⟩,
  ⟨"CFG_OPP", 0x10, 1, 0x0, 1, 0x0, false, 0x3, 0x0, 0x0, 0x0, false, .whileLoading, true⟩,
  ⟨"CFG_OPP_REQ", 0x14, 1, 0x0, 1, 0x0, false, 0x0, 0x0, 0x0, 0x0, false, .special, false⟩,
  ⟨"CFG_OPP_STATUS", 0x18, 1, 0x0, 1, 0x0, false, 0x0, 0x0, 0x0, 0x0, false, .special, false⟩,
  ⟨"CFG_WAKE", 0x20, 1, 0x0, 1, 0x0, false, 0xffff, 0x0, 0x0, 0x0, false, .islandAlways, false⟩,
  ⟨"CFG_WAKE_CAUSE", 0x24, 1, 0x0, 1, 0x0, false, 0x0, 0x0, 0x0, 0x10000, false, .special, false⟩,
  ⟨"CFG_CTL_OUT", 0x28, 1, 0x0, 1, 0x0, false, 0x0, 0x0, 0x0, 0x0, false, .special, false⟩,
  ⟨"CFG_CTL_OUT_SET", 0x2c, 1, 0x0, 1, 0x0, false, 0x0, 0x0, 0x0, 0x0, false, .special, false⟩,
  ⟨"CFG_CTL_OUT_CLR", 0x30, 1, 0x0, 1, 0x0, false, 0x0, 0x0, 0x0, 0x0, false, .special, false⟩,
  ⟨"CFG_STICKY", 0x34, 1, 0x0, 1, 0x0, false, 0x0, 0x3, 0x0, 0x0, true, .special, false⟩,
  ⟨"CFG_CTL_SAFE", 0x38, 1, 0x0, 1, 0x0, false, 0x0, 0x0, 0x0, 0x0, false, .special, false⟩,
  ⟨"CFG_SEAL_DIGESTi", 0x40, 16, 0x4, 1, 0x0, false, 0xffffffff, 0x0, 0x0, 0x0, false, .whileLoading, false⟩,
  ⟨"CFG_NUM_STICKY", 0x80, 1, 0x0, 1, 0x0, false, 0x0, 0xf, 0x0, 0x0, true, .special, false⟩,
  ⟨"CFG_SAT_TOTAL", 0x84, 1, 0x0, 1, 0x0, false, 0x0, 0x0, 0x0, 0x0, false, .special, false⟩,
  ⟨"CFG_HOST_MODE", 0xc0, 1, 0x0, 1, 0x0, false, 0x0, 0x0, 0x0, 0x0, false, .special, false⟩]

/-! ### Block PWR -/

/-- PWR_STATUS (R67). -/
def Reg.pwrStatus : Nat := 0x100000
/-- PWR_COUNTS (R67). -/
def Reg.pwrCounts : Nat := 0x100004
/-- PWR_GOV_STEPS (R67). -/
def Reg.pwrGovSteps : Nat := 0x100008
/-- PWR_PACE_FAULT (R67). -/
def Reg.pwrPaceFault : Nat := 0x10000c
/-- PWR_RAILd (R67). -/
def Reg.pwrRail (d : Nat) : Nat := 0x100010 + 0x4 * d
/-- PWR_PACE_RECORD (R67). -/
def Reg.pwrPaceRecord : Nat := 0x100020
/-- PWR_PACE_TIME (R67). -/
def Reg.pwrPaceTime : Nat := 0x100028
/-- PWR_CORE_RATEn (R67). -/
def Reg.pwrCoreRate (n : Nat) : Nat := 0x100400 + 0x4 * n

/-- The rows of block PWR. -/
def regRowsPwr : List RegRow := [
  ⟨"PWR_STATUS", 0x100000, 1, 0x0, 1, 0x0, false, 0x0, 0x0, 0x0, 0x0, false, .special, false⟩,
  ⟨"PWR_COUNTS", 0x100004, 1, 0x0, 1, 0x0, false, 0x0, 0x0, 0x0, 0x0, false, .special, false⟩,
  ⟨"PWR_GOV_STEPS", 0x100008, 1, 0x0, 1, 0x0, false, 0x0, 0x0, 0xffffffff, 0x0, false, .special, false⟩,
  ⟨"PWR_PACE_FAULT", 0x10000c, 1, 0x0, 1, 0x0, false, 0x0, 0xf, 0x0, 0x0, true, .special, false⟩,
  ⟨"PWR_RAILd", 0x100010, 4, 0x4, 1, 0x0, false, 0x0, 0x0, 0x0, 0x0, false, .special, false⟩,
  ⟨"PWR_PACE_RECORD", 0x100020, 1, 0x0, 1, 0x0, false, 0x0, 0x0, 0x0, 0x0, false, .special, false⟩,
  ⟨"PWR_PACE_TIME", 0x100028, 1, 0x0, 1, 0x0, true, 0x0, 0x0, 0x0, 0x0, false, .special, false⟩,
  ⟨"PWR_CORE_RATEn", 0x100400, 96, 0x4, 1, 0x0, false, 0x0, 0x0, 0xffff0000, 0xffff0000, false, .special, false⟩]

/-! ### Block ALM -/

/-- ALM_NOW (R363). -/
def Reg.almNow : Nat := 0x200000
/-- ALM_NOW_FRAC (R363). -/
def Reg.almNowFrac : Nat := 0x200008
/-- ALM_STICKY (R363). -/
def Reg.almSticky : Nat := 0x20000c
/-- ALM_INCR (R363). -/
def Reg.almIncr : Nat := 0x200010
/-- ALM_LEAP (R363). -/
def Reg.almLeap : Nat := 0x200018
/-- ALM_CMP_CTRL (R363). -/
def Reg.almCmpCtrl : Nat := 0x200020
/-- ALM_CMPk (R363). -/
def Reg.almCmp (k : Nat) : Nat := 0x200040 + 0x10 * k
/-- ALM_CMPk_PERIOD (R363). -/
def Reg.almCmpPeriod (k : Nat) : Nat := 0x200048 + 0x10 * k

/-- The rows of block ALM. -/
def regRowsAlm : List RegRow := [
  ⟨"ALM_NOW", 0x200000, 1, 0x0, 1, 0x0, true, 0x0, 0x0, 0x0, 0x0, false, .special, false⟩,
  ⟨"ALM_NOW_FRAC", 0x200008, 1, 0x0, 1, 0x0, false, 0x0, 0x0, 0x0, 0x0, false, .special, false⟩,
  ⟨"ALM_STICKY", 0x20000c, 1, 0x0, 1, 0x0, false, 0x0, 0x7, 0x0, 0x0, true, .special, false⟩,
  ⟨"ALM_INCR", 0x200010, 1, 0x0, 1, 0x0, true, 0xfffffffff, 0x0, 0x0, 0xa00000000, false, .always, false⟩,
  ⟨"ALM_LEAP", 0x200018, 1, 0x0, 1, 0x0, true, 0x0, 0x0, 0x0, 0x0, false, .special, false⟩,
  ⟨"ALM_CMP_CTRL", 0x200020, 1, 0x0, 1, 0x0, false, 0xff03ff, 0x0, 0x0, 0x10000, false, .always, false⟩,
  ⟨"ALM_CMPk", 0x200040, 8, 0x10, 1, 0x0, true, 0xffffffffffffffff, 0x0, 0x0, 0x0, false, .always, false⟩,
  ⟨"ALM_CMPk_PERIOD", 0x200048, 8, 0x10, 1, 0x0, false, 0xffffffff, 0x0, 0x0, 0x0, false, .always, false⟩]

/-! ### Block HRD -/

/-- HRD_SRCs (R306). -/
def Reg.hrdSrc (s : Nat) : Nat := 0x300000 + 0x4 * s
/-- HRD_PENDw (R306). -/
def Reg.hrdPend (w : Nat) : Nat := 0x301000 + 0x4 * w
/-- HRD_PEND_SETw (R306). -/
def Reg.hrdPendSet (w : Nat) : Nat := 0x301080 + 0x4 * w
/-- HRD_PEND_CLRw (R306). -/
def Reg.hrdPendClr (w : Nat) : Nat := 0x301100 + 0x4 * w
/-- HRD_INSERVw (R306). -/
def Reg.hrdInserv (w : Nat) : Nat := 0x301180 + 0x4 * w
/-- HRD_LOSTw (R306). -/
def Reg.hrdLost (w : Nat) : Nat := 0x301200 + 0x4 * w
/-- HRD_MSI_ADDR_PCA (R306). -/
def Reg.hrdMsiAddrPca : Nat := 0x301280
/-- HRD_MSI_ADDR_PCB (R306). -/
def Reg.hrdMsiAddrPcb : Nat := 0x301288
/-- HRD_ENt_w (R306). -/
def Reg.hrdEn (t w : Nat) : Nat := 0x302000 + 0x80 * t + 0x4 * w
/-- HRD_EN_SETt_w (R306). -/
def Reg.hrdEnSet (t w : Nat) : Nat := 0x304000 + 0x80 * t + 0x4 * w
/-- HRD_EN_CLRt_w (R306). -/
def Reg.hrdEnClr (t w : Nat) : Nat := 0x306000 + 0x80 * t + 0x4 * w
/-- HRD_THRESHOLDt (R306). -/
def Reg.hrdThreshold (t : Nat) : Nat := 0x310000 + 0x1000 * t
/-- HRD_CLAIMt (R306). -/
def Reg.hrdClaim (t : Nat) : Nat := 0x310004 + 0x1000 * t
/-- HRD_COMPLETEt (R306). -/
def Reg.hrdComplete (t : Nat) : Nat := 0x310008 + 0x1000 * t
/-- HRD_MTIMECMPt (R306). -/
def Reg.hrdMtimecmp (t : Nat) : Nat := 0x310010 + 0x1000 * t
/-- HRD_STAMPs (R306). -/
def Reg.hrdStamp (s : Nat) : Nat := 0x380000 + 0x8 * s

/-- The rows of block HRD. -/
def regRowsHrd : List RegRow := [
  ⟨"HRD_SRCs", 0x300000, 1023, 0x4, 1, 0x0, false, 0x800fff07, 0x0, 0x0, 0x0, false, .always, false⟩,
  ⟨"HRD_PENDw", 0x301000, 32, 0x4, 1, 0x0, false, 0x0, 0x0, 0x0, 0x0, false, .special, false⟩,
  ⟨"HRD_PEND_SETw", 0x301080, 32, 0x4, 1, 0x0, false, 0x0, 0x0, 0x0, 0x0, false, .special, false⟩,
  ⟨"HRD_PEND_CLRw", 0x301100, 32, 0x4, 1, 0x0, false, 0x0, 0x0, 0x0, 0x0, false, .special, false⟩,
  ⟨"HRD_INSERVw", 0x301180, 32, 0x4, 1, 0x0, false, 0x0, 0x0, 0x0, 0x0, false, .special, false⟩,
  ⟨"HRD_LOSTw", 0x301200, 32, 0x4, 1, 0x0, false, 0x0, 0xffffffff, 0x0, 0x0, true, .special, false⟩,
  ⟨"HRD_MSI_ADDR_PCA", 0x301280, 1, 0x0, 1, 0x0, true, 0xfffffffffffffffc, 0x0, 0x0, 0x0, false, .always, false⟩,
  ⟨"HRD_MSI_ADDR_PCB", 0x301288, 1, 0x0, 1, 0x0, true, 0xfffffffffffffffc, 0x0, 0x0, 0x0, false, .always, false⟩,
  ⟨"HRD_ENt_w", 0x302000, 52, 0x80, 32, 0x4, false, 0x0, 0x0, 0x0, 0x0, false, .special, false⟩,
  ⟨"HRD_EN_SETt_w", 0x304000, 52, 0x80, 32, 0x4, false, 0x0, 0x0, 0x0, 0x0, false, .always, false⟩,
  ⟨"HRD_EN_CLRt_w", 0x306000, 52, 0x80, 32, 0x4, false, 0x0, 0x0, 0x0, 0x0, false, .special, false⟩,
  ⟨"HRD_THRESHOLDt", 0x310000, 52, 0x1000, 1, 0x0, false, 0xf, 0x0, 0x0, 0x0, false, .always, false⟩,
  ⟨"HRD_CLAIMt", 0x310004, 52, 0x1000, 1, 0x0, false, 0x0, 0x0, 0x0, 0x0, false, .special, false⟩,
  ⟨"HRD_COMPLETEt", 0x310008, 52, 0x1000, 1, 0x0, false, 0x0, 0x0, 0x0, 0x0, false, .special, false⟩,
  ⟨"HRD_MTIMECMPt", 0x310010, 52, 0x1000, 1, 0x0, true, 0xffffffffffffffff, 0x0, 0x0, 0xffffffffffffffff, false, .always, false⟩,
  ⟨"HRD_STAMPs", 0x380000, 1023, 0x8, 1, 0x0, true, 0x0, 0x0, 0x0, 0x0, false, .special, false⟩]

/-! ### Block CAL -/

/-- CAL_FRAME (R239). -/
def Reg.calFrame : Nat := 0x400000
/-- CAL_START (R239). -/
def Reg.calStart : Nat := 0x400008
/-- CAL_FRAME_COUNT (R239). -/
def Reg.calFrameCount : Nat := 0x400010
/-- CAL_STICKY (R239). -/
def Reg.calSticky : Nat := 0x400018
/-- CAL_TD_COUNT (R239). -/
def Reg.calTdCount : Nat := 0x40001c
/-- CAL_TD_RECORD (R239). -/
def Reg.calTdRecord : Nat := 0x400020
/-- CAL_TD_TIME (R239). -/
def Reg.calTdTime : Nat := 0x400028
/-- CAL_PARTp (R239). -/
def Reg.calPart (p : Nat) : Nat := 0x400100 + 0x4 * p
/-- CAL_CTXn (R239). -/
def Reg.calCtx (n : Nat) : Nat := 0x400400 + 0x8 * n
/-- CAL_ENTRYi (R239). -/
def Reg.calEntry (i : Nat) : Nat := 0x401000 + 0x8 * i
/-- CAL_CTX_STATEn (R239). -/
def Reg.calCtxState (n : Nat) : Nat := 0x403000 + 0x4 * n

/-- The rows of block CAL. -/
def regRowsCal : List RegRow := [
  ⟨"CAL_FRAME", 0x400000, 1, 0x0, 1, 0x0, false, 0x3fff, 0x0, 0x0, 0x0, false, .whileLoading, true⟩,
  ⟨"CAL_START", 0x400008, 1, 0x0, 1, 0x0, true, 0xffffffffffffffff, 0x0, 0x0, 0x0, false, .whileLoading, true⟩,
  ⟨"CAL_FRAME_COUNT", 0x400010, 1, 0x0, 1, 0x0, true, 0x0, 0x0, 0x0, 0x0, false, .special, false⟩,
  ⟨"CAL_STICKY", 0x400018, 1, 0x0, 1, 0x0, false, 0x0, 0x1, 0x0, 0x0, true, .special, false⟩,
  ⟨"CAL_TD_COUNT", 0x40001c, 1, 0x0, 1, 0x0, false, 0x0, 0x0, 0xffffffff, 0x0, false, .special, false⟩,
  ⟨"CAL_TD_RECORD", 0x400020, 1, 0x0, 1, 0x0, false, 0x0, 0x0, 0x0, 0x0, false, .special, false⟩,
  ⟨"CAL_TD_TIME", 0x400028, 1, 0x0, 1, 0x0, true, 0x0, 0x0, 0x0, 0x0, false, .special, false⟩,
  ⟨"CAL_PARTp", 0x400100, 16, 0x4, 1, 0x0, false, 0x81ffffff, 0x0, 0x0, 0x0, false, .whileLoading, true⟩,
  ⟨"CAL_CTXn", 0x400400, 256, 0x8, 1, 0x0, true, 0xe0ff1f0f0fffffff, 0x0, 0x0, 0x0, false, .whileLoading, true⟩,
  ⟨"CAL_ENTRYi", 0x401000, 1024, 0x8, 1, 0x0, true, 0xe00000ff3fff3fff, 0x0, 0x0, 0x0, false, .whileLoading, true⟩,
  ⟨"CAL_CTX_STATEn", 0x403000, 256, 0x4, 1, 0x0, false, 0x0, 0x0, 0x0, 0xff00, false, .special, false⟩]

/-! ### Block VGL -/

/-- VGL_MISS_AGEw (R354). -/
def Reg.vglMissAge (w : Nat) : Nat := 0x500000 + 0x4 * w
/-- VGL_MISS_PRODw (R354). -/
def Reg.vglMissProd (w : Nat) : Nat := 0x500040 + 0x4 * w
/-- VGL_SAFE_LATCHw (R354). -/
def Reg.vglSafeLatch (w : Nat) : Nat := 0x500080 + 0x4 * w
/-- VGL_RECORD (R354). -/
def Reg.vglRecord : Nat := 0x500100
/-- VGL_RECORD_TIME (R354). -/
def Reg.vglRecordTime : Nat := 0x500108
/-- VGL_MISSES (R354). -/
def Reg.vglMisses : Nat := 0x500110
/-- VGL_CFGs (R354). -/
def Reg.vglCfg (s : Nat) : Nat := 0x510000 + 0x20 * s
/-- VGL_AGEs (R354). -/
def Reg.vglAge (s : Nat) : Nat := 0x510008 + 0x20 * s
/-- VGL_PERIODs (R354). -/
def Reg.vglPeriod (s : Nat) : Nat := 0x51000c + 0x20 * s
/-- VGL_LASTs (R354). -/
def Reg.vglLast (s : Nat) : Nat := 0x510010 + 0x20 * s
/-- VGL_DUEs (R354). -/
def Reg.vglDue (s : Nat) : Nat := 0x510018 + 0x20 * s
/-- VGL_CONSUMEs (R354). -/
def Reg.vglConsume (s : Nat) : Nat := 0x520000 + 0x8 * s
/-- VGL_PRODUCEs (R354). -/
def Reg.vglProduce (s : Nat) : Nat := 0x530000 + 0x8 * s

/-- The rows of block VGL. -/
def regRowsVgl : List RegRow := [
  ⟨"VGL_MISS_AGEw", 0x500000, 16, 0x4, 1, 0x0, false, 0x0, 0xffffffff, 0x0, 0x0, true, .special, false⟩,
  ⟨"VGL_MISS_PRODw", 0x500040, 16, 0x4, 1, 0x0, false, 0x0, 0xffffffff, 0x0, 0x0, true, .special, false⟩,
  ⟨"VGL_SAFE_LATCHw", 0x500080, 16, 0x4, 1, 0x0, false, 0x0, 0xffffffff, 0x0, 0x0, true, .special, false⟩,
  ⟨"VGL_RECORD", 0x500100, 1, 0x0, 1, 0x0, false, 0x0, 0x0, 0x0, 0x0, false, .special, false⟩,
  ⟨"VGL_RECORD_TIME", 0x500108, 1, 0x0, 1, 0x0, true, 0x0, 0x0, 0x0, 0x0, false, .special, false⟩,
  ⟨"VGL_MISSES", 0x500110, 1, 0x0, 1, 0x0, false, 0x0, 0x0, 0xffffffff, 0x0, false, .special, false⟩,
  ⟨"VGL_CFGs", 0x510000, 512, 0x20, 1, 0x0, true, 0xe0ffffff00000000, 0x0, 0x0, 0x0, false, .whileLoading, true⟩,
  ⟨"VGL_AGEs", 0x510008, 512, 0x20, 1, 0x0, false, 0xffffffff, 0x0, 0x0, 0x0, false, .whileLoading, true⟩,
  ⟨"VGL_PERIODs", 0x51000c, 512, 0x20, 1, 0x0, false, 0xffffffff, 0x0, 0x0, 0x0, false, .whileLoading, true⟩,
  ⟨"VGL_LASTs", 0x510010, 512, 0x20, 1, 0x0, true, 0x0, 0x0, 0x0, 0x0, false, .special, false⟩,
  ⟨"VGL_DUEs", 0x510018, 512, 0x20, 1, 0x0, true, 0x0, 0x0, 0x0, 0xffffffffffffffff, false, .special, false⟩,
  ⟨"VGL_CONSUMEs", 0x520000, 512, 0x8, 1, 0x0, true, 0x0, 0x0, 0x0, 0x0, false, .special, false⟩,
  ⟨"VGL_PRODUCEs", 0x530000, 512, 0x8, 1, 0x0, true, 0x0, 0x0, 0x0, 0x0, false, .special, false⟩]

/-! ### Block MRG -/

/-- MRG_CTRL (R207). -/
def Reg.mrgCtrl : Nat := 0x600000
/-- MRG_WINw_BASE (R207). -/
def Reg.mrgWinBase (w : Nat) : Nat := 0x600100 + 0x20 * w
/-- MRG_WINw_LIMIT (R207). -/
def Reg.mrgWinLimit (w : Nat) : Nat := 0x600108 + 0x20 * w
/-- MRG_WINw_ATTR (R207). -/
def Reg.mrgWinAttr (w : Nat) : Nat := 0x600110 + 0x20 * w
/-- MRG_CLASSc (R207). -/
def Reg.mrgClass (c : Nat) : Nat := 0x600400 + 0x20 * c
/-- MRG_CLASSc_RES_DDR0 (R207). -/
def Reg.mrgClassResDdr0 (c : Nat) : Nat := 0x600404 + 0x20 * c
/-- MRG_CLASSc_RES_DDR1 (R207). -/
def Reg.mrgClassResDdr1 (c : Nat) : Nat := 0x600408 + 0x20 * c
/-- MRG_CLASSc_RES_QRY0 (R207). -/
def Reg.mrgClassResQry0 (c : Nat) : Nat := 0x60040c + 0x20 * c
/-- MRG_CLASSc_RES_QRY1 (R207). -/
def Reg.mrgClassResQry1 (c : Nat) : Nat := 0x600410 + 0x20 * c
/-- MRG_LEGACY_GRANTc (R207). -/
def Reg.mrgLegacyGrant (c : Nat) : Nat := 0x600600 + 0x4 * c
/-- MRG_PORTp_GRANTc (R207). -/
def Reg.mrgPortGrant (p c : Nat) : Nat := 0x600800 + 0x20 * (p - 24) + 4 * c
/-- MRG_MISS_STICKY (R207). -/
def Reg.mrgMissSticky : Nat := 0x600c00
/-- MRG_MISS_COUNTc (R207). -/
def Reg.mrgMissCount (c : Nat) : Nat := 0x600c40 + 0x4 * c
/-- MRG_THROTTLE_STATE (R207). -/
def Reg.mrgThrottleState : Nat := 0x600d00
/-- MRG_THROTTLE_STICKY (R207). -/
def Reg.mrgThrottleSticky : Nat := 0x600d04
/-- MRG_SHORT_STICKY (R207). -/
def Reg.mrgShortSticky : Nat := 0x600d08
/-- MRG_THROTTLE_STEPS (R207). -/
def Reg.mrgThrottleSteps : Nat := 0x600d0c
/-- MRG_THROTTLE_TIMEc (R207). -/
def Reg.mrgThrottleTime (c : Nat) : Nat := 0x600d40 + 0x8 * c

/-- The rows of block MRG. -/
def regRowsMrg : List RegRow := [
  ⟨"MRG_CTRL", 0x600000, 1, 0x0, 1, 0x0, false, 0x7, 0x0, 0x0, 0x0, false, .whileLoading, true⟩,
  ⟨"MRG_WINw_BASE", 0x600100, 16, 0x20, 1, 0x0, true, 0xffffffff0000, 0x0, 0x0, 0x0, false, .whileLoading, true⟩,
  ⟨"MRG_WINw_LIMIT", 0x600108, 16, 0x20, 1, 0x0, true, 0xffffffff0000, 0x0, 0x0, 0xffff, false, .whileLoading, true⟩,
  ⟨"MRG_WINw_ATTR", 0x600110, 16, 0x20, 1, 0x0, false, 0x71, 0x0, 0x0, 0x0, false, .whileLoading, true⟩,
  ⟨"MRG_CLASSc", 0x600400, 8, 0x20, 1, 0x0, false, 0xfffff073, 0x0, 0x0, 0x0, false, .whileLoading, true⟩,
  ⟨"MRG_CLASSc_RES_DDR0", 0x600404, 8, 0x20, 1, 0x0, false, 0xffffffff, 0x0, 0x0, 0x0, false, .whileLoading, true⟩,
  ⟨"MRG_CLASSc_RES_DDR1", 0x600408, 8, 0x20, 1, 0x0, false, 0xffffffff, 0x0, 0x0, 0x0, false, .whileLoading, true⟩,
  ⟨"MRG_CLASSc_RES_QRY0", 0x60040c, 8, 0x20, 1, 0x0, false, 0xffffffff, 0x0, 0x0, 0x0, false, .whileLoading, true⟩,
  ⟨"MRG_CLASSc_RES_QRY1", 0x600410, 8, 0x20, 1, 0x0, false, 0xffffffff, 0x0, 0x0, 0x0, false, .whileLoading, true⟩,
  ⟨"MRG_LEGACY_GRANTc", 0x600600, 8, 0x4, 1, 0x0, false, 0xffffffff, 0x0, 0x0, 0x0, false, .whileLoading, true⟩,
  ⟨"MRG_PORTp_GRANTc", 0x600800, 13, 0x20, 8, 0x4, false, 0xffffffff, 0x0, 0x0, 0x0, false, .whileLoading, true⟩,
  ⟨"MRG_MISS_STICKY", 0x600c00, 1, 0x0, 1, 0x0, false, 0x0, 0xff, 0x0, 0x0, true, .special, false⟩,
  ⟨"MRG_MISS_COUNTc", 0x600c40, 8, 0x4, 1, 0x0, false, 0x0, 0x0, 0xffff, 0x0, false, .special, false⟩,
  ⟨"MRG_THROTTLE_STATE", 0x600d00, 1, 0x0, 1, 0x0, false, 0x0, 0x0, 0x0, 0x0, false, .special, false⟩,
  ⟨"MRG_THROTTLE_STICKY", 0x600d04, 1, 0x0, 1, 0x0, false, 0x0, 0xffff0003, 0x0, 0x0, true, .special, false⟩,
  ⟨"MRG_SHORT_STICKY", 0x600d08, 1, 0x0, 1, 0x0, false, 0x0, 0xffff, 0x0, 0x0, true, .special, false⟩,
  ⟨"MRG_THROTTLE_STEPS", 0x600d0c, 1, 0x0, 1, 0x0, false, 0x0, 0x0, 0xffffffff, 0x0, false, .special, false⟩,
  ⟨"MRG_THROTTLE_TIMEc", 0x600d40, 8, 0x8, 1, 0x0, true, 0x0, 0x0, 0x0, 0x0, false, .special, false⟩]

/-! ### Block DDR -/

/-- DDR_CONFIG (R207). -/
def Reg.ddrConfig : Nat := 0x700000
/-- DDR_STATUS (R207). -/
def Reg.ddrStatus : Nat := 0x700004
/-- DDR_STICKY (R207). -/
def Reg.ddrSticky : Nat := 0x700008
/-- DDR_CNT_WINDOW (R207). -/
def Reg.ddrCntWindow : Nat := 0x70000c
/-- DDR_UE_ADDR (R207). -/
def Reg.ddrUeAddr : Nat := 0x700010
/-- DDR_UE_TIME (R207). -/
def Reg.ddrUeTime : Nat := 0x700018
/-- DDR_CEn (R207). -/
def Reg.ddrCe (n : Nat) : Nat := 0x700040 + 0x4 * n
/-- DDR_BYTESn_c (R207). -/
def Reg.ddrBytes (n c : Nat) : Nat := 0x700100 + 0x20 * n + 0x4 * c

/-- The rows of block DDR. -/
def regRowsDdr : List RegRow := [
  ⟨"DDR_CONFIG", 0x700000, 1, 0x0, 1, 0x0, false, 0x0, 0x0, 0x0, 0x0, false, .special, false⟩,
  ⟨"DDR_STATUS", 0x700004, 1, 0x0, 1, 0x0, false, 0x0, 0x0, 0x0, 0x0, false, .special, false⟩,
  ⟨"DDR_STICKY", 0x700008, 1, 0x0, 1, 0x0, false, 0x0, 0xffffff, 0x0, 0x0, true, .special, false⟩,
  ⟨"DDR_CNT_WINDOW", 0x70000c, 1, 0x0, 1, 0x0, false, 0xfffff, 0x0, 0x0, 0x2710, false, .whileLoading, true⟩,
  ⟨"DDR_UE_ADDR", 0x700010, 1, 0x0, 1, 0x0, true, 0x0, 0x0, 0x0, 0x0, false, .special, false⟩,
  ⟨"DDR_UE_TIME", 0x700018, 1, 0x0, 1, 0x0, true, 0x0, 0x0, 0x0, 0x0, false, .special, false⟩,
  ⟨"DDR_CEn", 0x700040, 8, 0x4, 1, 0x0, false, 0x0, 0x0, 0xffff, 0x0, false, .special, false⟩,
  ⟨"DDR_BYTESn_c", 0x700100, 8, 0x20, 8, 0x4, false, 0x0, 0x0, 0x0, 0x0, false, .special, false⟩]

/-! ### Block QRY -/

/-- QRY_STICKY (R207). -/
def Reg.qrySticky : Nat := 0x800000
/-- QRY_UE_ADDR (R207). -/
def Reg.qryUeAddr : Nat := 0x800008
/-- QRY_UE_TIME (R207). -/
def Reg.qryUeTime : Nat := 0x800010
/-- QRY_CEq (R207). -/
def Reg.qryCe (q : Nat) : Nat := 0x800020 + 0x4 * q
/-- QRY_BYTESq_c (R207). -/
def Reg.qryBytes (q c : Nat) : Nat := 0x800100 + 0x20 * q + 0x4 * c

/-- The rows of block QRY. -/
def regRowsQry : List RegRow := [
  ⟨"QRY_STICKY", 0x800000, 1, 0x0, 1, 0x0, false, 0x0, 0x3, 0x0, 0x0, true, .special, false⟩,
  ⟨"QRY_UE_ADDR", 0x800008, 1, 0x0, 1, 0x0, true, 0x0, 0x0, 0x0, 0x0, false, .special, false⟩,
  ⟨"QRY_UE_TIME", 0x800010, 1, 0x0, 1, 0x0, true, 0x0, 0x0, 0x0, 0x0, false, .special, false⟩,
  ⟨"QRY_CEq", 0x800020, 2, 0x4, 1, 0x0, false, 0x0, 0x0, 0xffff, 0x0, false, .special, false⟩,
  ⟨"QRY_BYTESq_c", 0x800100, 2, 0x20, 8, 0x4, false, 0x0, 0x0, 0x0, 0x0, false, .special, false⟩]

/-! ### Block HIF -/

/-- HIF_ADMIN_CTRL (R281). -/
def Reg.hifAdminCtrl : Nat := 0x900000
/-- HIF_ADMIN_SQ_BASE (R281). -/
def Reg.hifAdminSqBase : Nat := 0x900008
/-- HIF_ADMIN_CQ_BASE (R281). -/
def Reg.hifAdminCqBase : Nat := 0x900010
/-- HIF_ADMIN_SQ_TAIL (R281). -/
def Reg.hifAdminSqTail : Nat := 0x900018
/-- HIF_ADMIN_CQ_HEAD (R281). -/
def Reg.hifAdminCqHead : Nat := 0x90001c
/-- HIF_ADMIN_SQ_HEAD (R281). -/
def Reg.hifAdminSqHead : Nat := 0x900020
/-- HIF_STICKY (R281). -/
def Reg.hifSticky : Nat := 0x900024
/-- HIF_DB_DROPPED (R281). -/
def Reg.hifDbDropped : Nat := 0x900028
/-- HIF_BRIDGE_RECORD (R281). -/
def Reg.hifBridgeRecord : Nat := 0x900030
/-- HIF_BRIDGE_TIME (R281). -/
def Reg.hifBridgeTime : Nat := 0x900038
/-- HIF_PCA_CTRL (R281). -/
def Reg.hifPcaCtrl : Nat := 0x900040
/-- HIF_PCB_CTRL (R281). -/
def Reg.hifPcbCtrl : Nat := 0x900044
/-- HIF_PCA_OUT_OFFSET (R281). -/
def Reg.hifPcaOutOffset : Nat := 0x900048
/-- HIF_PCB_OUT_OFFSET (R281). -/
def Reg.hifPcbOutOffset : Nat := 0x900050
/-- HIF_TN_STATEt (R281). -/
def Reg.hifTnState (t : Nat) : Nat := 0x900100 + 0x4 * t
/-- HIF_WIN_MISSt_w (R281). -/
def Reg.hifWinMiss (t w : Nat) : Nat := 0x904000 + 0x40 * t + 0x4 * w

/-- The rows of block HIF. -/
def regRowsHif : List RegRow := [
  ⟨"HIF_ADMIN_CTRL", 0x900000, 1, 0x0, 1, 0x0, false, 0xf31, 0x0, 0x0, 0x0, false, .adminDisabled, false⟩,
  ⟨"HIF_ADMIN_SQ_BASE", 0x900008, 1, 0x0, 1, 0x0, true, 0xffffffffffff, 0x0, 0x0, 0x0, false, .adminDisabled, false⟩,
  ⟨"HIF_ADMIN_CQ_BASE", 0x900010, 1, 0x0, 1, 0x0, true, 0xffffffffffff, 0x0, 0x0, 0x0, false, .adminDisabled, false⟩,
  ⟨"HIF_ADMIN_SQ_TAIL", 0x900018, 1, 0x0, 1, 0x0, false, 0x0, 0x0, 0x0, 0x0, false, .special, false⟩,
  ⟨"HIF_ADMIN_CQ_HEAD", 0x90001c, 1, 0x0, 1, 0x0, false, 0x0, 0x0, 0x0, 0x0, false, .special, false⟩,
  ⟨"HIF_ADMIN_SQ_HEAD", 0x900020, 1, 0x0, 1, 0x0, false, 0x0, 0x0, 0x0, 0x0, false, .special, false⟩,
  ⟨"HIF_STICKY", 0x900024, 1, 0x0, 1, 0x0, false, 0x0, 0xff, 0x0, 0x0, true, .special, false⟩,
  ⟨"HIF_DB_DROPPED", 0x900028, 1, 0x0, 1, 0x0, false, 0x0, 0x0, 0xffffffff, 0x0, false, .special, false⟩,
  ⟨"HIF_BRIDGE_RECORD", 0x900030, 1, 0x0, 1, 0x0, true, 0x0, 0x0, 0x0, 0x0, false, .special, false⟩,
  ⟨"HIF_BRIDGE_TIME", 0x900038, 1, 0x0, 1, 0x0, true, 0x0, 0x0, 0x0, 0x0, false, .special, false⟩,
  ⟨"HIF_PCA_CTRL", 0x900040, 1, 0x0, 1, 0x0, false, 0xffff3f00, 0x0, 0x0, 0x3e80000, false, .whileLoading, true⟩,
  ⟨"HIF_PCB_CTRL", 0x900044, 1, 0x0, 1, 0x0, false, 0xffff3f00, 0x0, 0x0, 0x3e80000, false, .whileLoading, true⟩,
  ⟨"HIF_PCA_OUT_OFFSET", 0x900048, 1, 0x0, 1, 0x0, true, 0xffffffffffffffff, 0x0, 0x0, 0x0, false, .whileLoading, true⟩,
  ⟨"HIF_PCB_OUT_OFFSET", 0x900050, 1, 0x0, 1, 0x0, true, 0xffffffffffffffff, 0x0, 0x0, 0x0, false, .whileLoading, true⟩,
  ⟨"HIF_TN_STATEt", 0x900100, 64, 0x4, 1, 0x0, false, 0x0, 0x0, 0x0, 0x0, false, .special, false⟩,
  ⟨"HIF_WIN_MISSt_w", 0x904000, 64, 0x40, 16, 0x4, false, 0x0, 0x0, 0xffff, 0x0, false, .special, false⟩]

/-! ### Block TWN -/

/-- TWN_CTRL (R391). -/
def Reg.twnCtrl : Nat := 0xa00000
/-- TWN_STATUS (R391). -/
def Reg.twnStatus : Nat := 0xa00004
/-- TWN_STICKY (R391). -/
def Reg.twnSticky : Nat := 0xa00008
/-- TWN_BACKOFFS (R391). -/
def Reg.twnBackoffs : Nat := 0xa0000c
/-- TWN_HEARTBEAT (R391). -/
def Reg.twnHeartbeat : Nat := 0xa00010
/-- TWN_SWj (R391). -/
def Reg.twnSw (j : Nat) : Nat := 0xa00020 + 0x4 * j
/-- TWN_OWNw (R391). -/
def Reg.twnOwn (w : Nat) : Nat := 0xa00040 + 0x4 * w
/-- TWN_PEERl_w (R391). -/
def Reg.twnPeer (l w : Nat) : Nat := 0xa00100 + 0x40 * l + 0x4 * w

/-- The rows of block TWN. -/
def regRowsTwn : List RegRow := [
  ⟨"TWN_CTRL", 0xa00000, 1, 0x0, 1, 0x0, false, 0xff01, 0x0, 0x0, 0x500, false, .whileLoading, true⟩,
  ⟨"TWN_STATUS", 0xa00004, 1, 0x0, 1, 0x0, false, 0x0, 0x0, 0x0, 0x0, false, .special, false⟩,
  ⟨"TWN_STICKY", 0xa00008, 1, 0x0, 1, 0x0, false, 0x0, 0x3ff, 0x0, 0x0, true, .special, false⟩,
  ⟨"TWN_BACKOFFS", 0xa0000c, 1, 0x0, 1, 0x0, false, 0x0, 0x0, 0xffffffff, 0x0, false, .special, false⟩,
  ⟨"TWN_HEARTBEAT", 0xa00010, 1, 0x0, 1, 0x0, false, 0xffffffff, 0x0, 0x0, 0x0, false, .islandAlways, false⟩,
  ⟨"TWN_SWj", 0xa00020, 8, 0x4, 1, 0x0, false, 0xffffffff, 0x0, 0x0, 0x0, false, .islandAlways, false⟩,
  ⟨"TWN_OWNw", 0xa00040, 16, 0x4, 1, 0x0, false, 0x0, 0x0, 0x0, 0x0, false, .special, false⟩,
  ⟨"TWN_PEERl_w", 0xa00100, 2, 0x40, 16, 0x4, false, 0x0, 0x0, 0x0, 0x0, false, .special, false⟩]

/-! ### Block GWY -/

/-- GWY_CTRL (R386). -/
def Reg.gwyCtrl : Nat := 0xb00000
/-- GWY_STICKY (R386). -/
def Reg.gwySticky : Nat := 0xb00004
/-- GWY_SIZE_DROPS (R386). -/
def Reg.gwySizeDrops : Nat := 0xb00008
/-- GWY_OTHER_DROPS (R386). -/
def Reg.gwyOtherDrops : Nat := 0xb0000c
/-- GWY_SIZE_RECORD (R386). -/
def Reg.gwySizeRecord : Nat := 0xb00010
/-- GWY_SIZE_TIME (R386). -/
def Reg.gwySizeTime : Nat := 0xb00018
/-- GWY_CANk_CTRL (R386). -/
def Reg.gwyCanCtrl (k : Nat) : Nat := 0xb00100 + 0x10 * k
/-- GWY_CANk_NBT (R386). -/
def Reg.gwyCanNbt (k : Nat) : Nat := 0xb00104 + 0x10 * k
/-- GWY_CANk_DBT (R386). -/
def Reg.gwyCanDbt (k : Nat) : Nat := 0xb00108 + 0x10 * k
/-- GWY_CANk_STATUS (R386). -/
def Reg.gwyCanStatus (k : Nat) : Nat := 0xb0010c + 0x10 * k
/-- GWY_ACFs_CTRL (R386). -/
def Reg.gwyAcfCtrl (s : Nat) : Nat := 0xb00200 + 0x20 * s
/-- GWY_ACFs_SID (R386). -/
def Reg.gwyAcfSid (s : Nat) : Nat := 0xb00208 + 0x20 * s
/-- GWY_ACFs_DMAC (R386). -/
def Reg.gwyAcfDmac (s : Nat) : Nat := 0xb00210 + 0x20 * s
/-- GWY_HQk_BASE (R386). -/
def Reg.gwyHqBase (k : Nat) : Nat := 0xb00600 + 0x10 * k
/-- GWY_HQk_CTRL (R386). -/
def Reg.gwyHqCtrl (k : Nat) : Nat := 0xb00608 + 0x10 * k
/-- GWY_ROUTEi_MATCH (R386). -/
def Reg.gwyRouteMatch (i : Nat) : Nat := 0xb10000 + 0x40 * i
/-- GWY_ROUTEi_ID (R386). -/
def Reg.gwyRouteId (i : Nat) : Nat := 0xb10004 + 0x40 * i
/-- GWY_ROUTEi_MASK (R386). -/
def Reg.gwyRouteMask (i : Nat) : Nat := 0xb10008 + 0x40 * i
/-- GWY_ROUTEi_DESTj (R386). -/
def Reg.gwyRouteDest (i j : Nat) : Nat := 0xb10010 + 0x40 * i + 0x8 * j
/-- GWY_Q_TAILk (R386). -/
def Reg.gwyQTail (k : Nat) : Nat := 0xb80000 + 0x1000 * k
/-- GWY_Q_SEENk (R386). -/
def Reg.gwyQSeen (k : Nat) : Nat := 0xb80004 + 0x1000 * k
/-- GWY_Q_HEADk (R386). -/
def Reg.gwyQHead (k : Nat) : Nat := 0xb80008 + 0x1000 * k
/-- GWY_Q_STATEk (R386). -/
def Reg.gwyQState (k : Nat) : Nat := 0xb8000c + 0x1000 * k

/-- The rows of block GWY. -/
def regRowsGwy : List RegRow := [
  ⟨"GWY_CTRL", 0xb00000, 1, 0x0, 1, 0x0, false, 0x701, 0x0, 0x0, 0x0, false, .whileLoading, true⟩,
  ⟨"GWY_STICKY", 0xb00004, 1, 0x0, 1, 0x0, false, 0x0, 0x1f, 0x0, 0x0, true, .special, false⟩,
  ⟨"GWY_SIZE_DROPS", 0xb00008, 1, 0x0, 1, 0x0, false, 0x0, 0x0, 0xffffffff, 0x0, false, .special, false⟩,
  ⟨"GWY_OTHER_DROPS", 0xb0000c, 1, 0x0, 1, 0x0, false, 0x0, 0x0, 0xffffffff, 0x0, false, .special, false⟩,
  ⟨"GWY_SIZE_RECORD", 0xb00010, 1, 0x0, 1, 0x0, true, 0x0, 0x0, 0x0, 0x0, false, .special, false⟩,
  ⟨"GWY_SIZE_TIME", 0xb00018, 1, 0x0, 1, 0x0, true, 0x0, 0x0, 0x0, 0x0, false, .special, false⟩,
  ⟨"GWY_CANk_CTRL", 0xb00100, 16, 0x10, 1, 0x0, false, 0x7, 0x0, 0x0, 0x0, false, .whileLoading, true⟩,
  ⟨"GWY_CANk_NBT", 0xb00104, 16, 0x10, 1, 0x0, false, 0x7fffffff, 0x0, 0x0, 0x0, false, .whileLoading, true⟩,
  ⟨"GWY_CANk_DBT", 0xb00108, 16, 0x10, 1, 0x0, false, 0xffff1f1f, 0x0, 0x0, 0x0, false, .whileLoading, true⟩,
  ⟨"GWY_CANk_STATUS", 0xb0010c, 16, 0x10, 1, 0x0, false, 0x0, 0x0, 0x0, 0x3, false, .special, false⟩,
  ⟨"GWY_ACFs_CTRL", 0xb00200, 32, 0x20, 1, 0x0, false, 0xfff7ff07, 0x0, 0x0, 0x0, false, .whileLoading, true⟩,
  ⟨"GWY_ACFs_SID", 0xb00208, 32, 0x20, 1, 0x0, true, 0xffffffffffffffff, 0x0, 0x0, 0x0, false, .whileLoading, true⟩,
  ⟨"GWY_ACFs_DMAC", 0xb00210, 32, 0x20, 1, 0x0, true, 0xffffffffffff, 0x0, 0x0, 0x0, false, .whileLoading, true⟩,
  ⟨"GWY_HQk_BASE", 0xb00600, 16, 0x10, 1, 0x0, true, 0xffffffffffff, 0x0, 0x0, 0x0, false, .whileLoading, true⟩,
  ⟨"GWY_HQk_CTRL", 0xb00608, 16, 0x10, 1, 0x0, false, 0x13ff1, 0x0, 0x0, 0x0, false, .whileLoading, true⟩,
  ⟨"GWY_ROUTEi_MATCH", 0xb10000, 4096, 0x40, 1, 0x0, false, 0xff000000, 0x0, 0x0, 0x0, false, .whileLoading, true⟩,
  ⟨"GWY_ROUTEi_ID", 0xb10004, 4096, 0x40, 1, 0x0, false, 0x1fffffff, 0x0, 0x0, 0x0, false, .whileLoading, true⟩,
  ⟨"GWY_ROUTEi_MASK", 0xb10008, 4096, 0x40, 1, 0x0, false, 0x1fffffff, 0x0, 0x0, 0x0, false, .whileLoading, true⟩,
  ⟨"GWY_ROUTEi_DESTj", 0xb10010, 4096, 0x40, 4, 0x8, true, 0xf83f00001fffffff, 0x0, 0x0, 0x0, false, .whileLoading, true⟩,
  ⟨"GWY_Q_TAILk", 0xb80000, 16, 0x1000, 1, 0x0, false, 0x0, 0x0, 0x0, 0x0, false, .special, false⟩,
  ⟨"GWY_Q_SEENk", 0xb80004, 16, 0x1000, 1, 0x0, false, 0x0, 0x0, 0x0, 0x0, false, .special, false⟩,
  ⟨"GWY_Q_HEADk", 0xb80008, 16, 0x1000, 1, 0x0, false, 0x0, 0x0, 0x0, 0x0, false, .special, false⟩,
  ⟨"GWY_Q_STATEk", 0xb8000c, 16, 0x1000, 1, 0x0, false, 0x0, 0x0, 0x0, 0x0, false, .special, false⟩]

/-! ### Block TSN -/

/-- TSN_PORTn_CTRL (R372). -/
def Reg.tsnPortCtrl (n : Nat) : Nat := 0xc00000 + 0x10 * n
/-- TSN_PORTn_LAT (R372). -/
def Reg.tsnPortLat (n : Nat) : Nat := 0xc00004 + 0x10 * n
/-- TSN_DROPn (R372). -/
def Reg.tsnDrop (n : Nat) : Nat := 0xc00008 + 0x10 * n
/-- TSN_STATUS (R372). -/
def Reg.tsnStatus : Nat := 0xc000c0
/-- TSN_STICKY (R372). -/
def Reg.tsnSticky : Nat := 0xc000c4
/-- TSN_Qq_BASE (R372). -/
def Reg.tsnQBase (q : Nat) : Nat := 0xc00100 + 0x10 * q
/-- TSN_Qq_CTRL (R372). -/
def Reg.tsnQCtrl (q : Nat) : Nat := 0xc00108 + 0x10 * q
/-- TSN_GCLn_BASE (R372). -/
def Reg.tsnGclBase (n : Nat) : Nat := 0xc00400 + 0x20 * n
/-- TSN_GCLn_CYCLE (R372). -/
def Reg.tsnGclCycle (n : Nat) : Nat := 0xc00408 + 0x20 * n
/-- TSN_GCLn_LEN (R372). -/
def Reg.tsnGclLen (n : Nat) : Nat := 0xc0040c + 0x20 * n
/-- TSN_FDBi_KEY (R372). -/
def Reg.tsnFdbKey (i : Nat) : Nat := 0xc10000 + 0x10 * i
/-- TSN_FDBi_ACT (R372). -/
def Reg.tsnFdbAct (i : Nat) : Nat := 0xc10008 + 0x10 * i
/-- TSN_STREAMh (R372). -/
def Reg.tsnStream (h : Nat) : Nat := 0xc20000 + 0x8 * h
/-- TSN_GCLn_e (R372). -/
def Reg.tsnGcl (n e : Nat) : Nat := 0xc30000 + 0x400 * n + 0x4 * e
/-- TSN_Q_TAILq (R371). -/
def Reg.tsnQTail (q : Nat) : Nat := 0xc80000 + 0x1000 * q
/-- TSN_Q_SEENq (R371). -/
def Reg.tsnQSeen (q : Nat) : Nat := 0xc80004 + 0x1000 * q
/-- TSN_Q_HEADq (R371). -/
def Reg.tsnQHead (q : Nat) : Nat := 0xc80008 + 0x1000 * q
/-- TSN_Q_STATEq (R371). -/
def Reg.tsnQState (q : Nat) : Nat := 0xc8000c + 0x1000 * q

/-- The rows of block TSN. -/
def regRowsTsn : List RegRow := [
  ⟨"TSN_PORTn_CTRL", 0xc00000, 10, 0x10, 1, 0x0, false, 0x3f, 0x0, 0x0, 0x0, false, .whileLoading, true⟩,
  ⟨"TSN_PORTn_LAT", 0xc00004, 10, 0x10, 1, 0x0, false, 0xffffffff, 0x0, 0x0, 0x0, false, .whileLoading, true⟩,
  ⟨"TSN_DROPn", 0xc00008, 12, 0x10, 1, 0x0, false, 0x0, 0x0, 0xffffffff, 0x0, false, .special, false⟩,
  ⟨"TSN_STATUS", 0xc000c0, 1, 0x0, 1, 0x0, false, 0x0, 0x0, 0x0, 0x0, false, .special, false⟩,
  ⟨"TSN_STICKY", 0xc000c4, 1, 0x0, 1, 0x0, false, 0x0, 0x1f, 0x0, 0x0, true, .special, false⟩,
  ⟨"TSN_Qq_BASE", 0xc00100, 32, 0x10, 1, 0x0, true, 0xffffffffffff, 0x0, 0x0, 0x0, false, .whileLoading, true⟩,
  ⟨"TSN_Qq_CTRL", 0xc00108, 32, 0x10, 1, 0x0, false, 0x13ff1, 0x0, 0x0, 0x0, false, .whileLoading, true⟩,
  ⟨"TSN_GCLn_BASE", 0xc00400, 10, 0x20, 1, 0x0, true, 0xffffffffffffffff, 0x0, 0x0, 0x0, false, .whileLoading, true⟩,
  ⟨"TSN_GCLn_CYCLE", 0xc00408, 10, 0x20, 1, 0x0, false, 0xffffffff, 0x0, 0x0, 0x0, false, .whileLoading, true⟩,
  ⟨"TSN_GCLn_LEN", 0xc0040c, 10, 0x20, 1, 0x0, false, 0x1ff, 0x0, 0x0, 0x0, false, .whileLoading, true⟩,
  ⟨"TSN_FDBi_KEY", 0xc10000, 4096, 0x10, 1, 0x0, true, 0x8fffffffffffffff, 0x0, 0x0, 0x0, false, .whileLoading, true⟩,
  ⟨"TSN_FDBi_ACT", 0xc10008, 4096, 0x10, 1, 0x0, true, 0x80ff000000000fff, 0x0, 0x0, 0x0, false, .whileLoading, true⟩,
  ⟨"TSN_STREAMh", 0xc20000, 256, 0x8, 1, 0x0, true, 0xf0003fffffffffff, 0x0, 0x0, 0x240000000000, false, .whileLoading, true⟩,
  ⟨"TSN_GCLn_e", 0xc30000, 10, 0x400, 256, 0x4, false, 0xffffffff, 0x0, 0x0, 0xff000000, false, .whileLoading, true⟩,
  ⟨"TSN_Q_TAILq", 0xc80000, 32, 0x1000, 1, 0x0, false, 0x0, 0x0, 0x0, 0x0, false, .special, false⟩,
  ⟨"TSN_Q_SEENq", 0xc80004, 32, 0x1000, 1, 0x0, false, 0x0, 0x0, 0x0, 0x0, false, .special, false⟩,
  ⟨"TSN_Q_HEADq", 0xc80008, 32, 0x1000, 1, 0x0, false, 0x0, 0x0, 0x0, 0x0, false, .special, false⟩,
  ⟨"TSN_Q_STATEq", 0xc8000c, 32, 0x1000, 1, 0x0, false, 0x0, 0x0, 0x0, 0x0, false, .special, false⟩]

/-! ### Block CSI -/

/-- CSI_PORTp_CTRL (R378). -/
def Reg.csiPortCtrl (p : Nat) : Nat := 0xd00000 + 0x4 * p
/-- CSI_PORTp_ERR (R378). -/
def Reg.csiPortErr (p : Nat) : Nat := 0xd00010 + 0x4 * p
/-- CSI_STICKY (R378). -/
def Reg.csiSticky : Nat := 0xd00020
/-- CSI_SCTRLs (R378). -/
def Reg.csiSctrl (s : Nat) : Nat := 0xd01000 + 0x40 * s
/-- CSI_SLENs (R378). -/
def Reg.csiSlen (s : Nat) : Nat := 0xd01004 + 0x40 * s
/-- CSI_SBASEs (R378). -/
def Reg.csiSbase (s : Nat) : Nat := 0xd01008 + 0x40 * s
/-- CSI_SDTs (R378). -/
def Reg.csiSdt (s : Nat) : Nat := 0xd01010 + 0x40 * s
/-- CSI_SSTRIDEs (R378). -/
def Reg.csiSstride (s : Nat) : Nat := 0xd01018 + 0x40 * s
/-- CSI_SINTVLs (R378). -/
def Reg.csiSintvl (s : Nat) : Nat := 0xd0101c + 0x40 * s
/-- CSI_SAGEs (R378). -/
def Reg.csiSage (s : Nat) : Nat := 0xd01020 + 0x40 * s
/-- CSI_SFILLs (R375). -/
def Reg.csiSfill (s : Nat) : Nat := 0xd40000 + 0x1000 * s
/-- CSI_SRELs (R377). -/
def Reg.csiSrel (s : Nat) : Nat := 0xd40004 + 0x1000 * s
/-- CSI_SDROPs (R376). -/
def Reg.csiSdrop (s : Nat) : Nat := 0xd40008 + 0x1000 * s

/-- The rows of block CSI. -/
def regRowsCsi : List RegRow := [
  ⟨"CSI_PORTp_CTRL", 0xd00000, 4, 0x4, 1, 0x0, false, 0xf7ff, 0x0, 0x0, 0x0, false, .whileLoading, true⟩,
  ⟨"CSI_PORTp_ERR", 0xd00010, 4, 0x4, 1, 0x0, false, 0x0, 0x0, 0xffffffff, 0x0, false, .special, false⟩,
  ⟨"CSI_STICKY", 0xd00020, 1, 0x0, 1, 0x0, false, 0x0, 0x1ffff, 0x0, 0x0, true, .special, false⟩,
  ⟨"CSI_SCTRLs", 0xd01000, 64, 0x40, 1, 0x0, false, 0xff3f7f07, 0x0, 0x0, 0x0, false, .whileLoading, true⟩,
  ⟨"CSI_SLENs", 0xd01004, 64, 0x40, 1, 0x0, false, 0xffffffff, 0x0, 0x0, 0x0, false, .whileLoading, true⟩,
  ⟨"CSI_SBASEs", 0xd01008, 64, 0x40, 1, 0x0, true, 0xffffffffffffffff, 0x0, 0x0, 0x0, false, .whileLoading, true⟩,
  ⟨"CSI_SDTs", 0xd01010, 64, 0x40, 1, 0x0, true, 0xffffffffffffffff, 0x0, 0x0, 0x0, false, .whileLoading, true⟩,
  ⟨"CSI_SSTRIDEs", 0xd01018, 64, 0x40, 1, 0x0, false, 0xffffffff, 0x0, 0x0, 0x0, false, .whileLoading, true⟩,
  ⟨"CSI_SINTVLs", 0xd0101c, 64, 0x40, 1, 0x0, false, 0xffffffff, 0x0, 0x0, 0x0, false, .whileLoading, true⟩,
  ⟨"CSI_SAGEs", 0xd01020, 64, 0x40, 1, 0x0, false, 0xffffffff, 0x0, 0x0, 0x0, false, .whileLoading, true⟩,
  ⟨"CSI_SFILLs", 0xd40000, 64, 0x1000, 1, 0x0, false, 0x0, 0x0, 0x0, 0x0, false, .special, false⟩,
  ⟨"CSI_SRELs", 0xd40004, 64, 0x1000, 1, 0x0, false, 0x0, 0x0, 0x0, 0x0, false, .special, false⟩,
  ⟨"CSI_SDROPs", 0xd40008, 64, 0x1000, 1, 0x0, false, 0x0, 0x0, 0xffffffff, 0x0, false, .special, false⟩]

/-! ### Block SAF -/

/-- SAF_PINS (R354). -/
def Reg.safPins : Nat := 0xe00000
/-- SAF_FAULT_LATCH (R354). -/
def Reg.safFaultLatch : Nat := 0xe00004
/-- SAF_REACT_FAULT (R354). -/
def Reg.safReactFault : Nat := 0xe00008
/-- SAF_REACT_SAFE (R354). -/
def Reg.safReactSafe : Nat := 0xe0000c
/-- SAF_WDOG (R354). -/
def Reg.safWdog : Nat := 0xe00010
/-- SAF_WDOG_KICK (R354). -/
def Reg.safWdogKick : Nat := 0xe00014
/-- SAF_CMP (R354). -/
def Reg.safCmp : Nat := 0xe00018
/-- SAF_HOST_PAIR_RESET (R354). -/
def Reg.safHostPairReset : Nat := 0xe0001c
/-- SAF_SKEW_RECORD (R354). -/
def Reg.safSkewRecord : Nat := 0xe00020
/-- SAF_E2E (R354). -/
def Reg.safE2e : Nat := 0xe00024
/-- SAF_SKEW_TIME (R354). -/
def Reg.safSkewTime : Nat := 0xe00028
/-- SAF_SUP_CTRL (R354). -/
def Reg.safSupCtrl : Nat := 0xe00030
/-- SAF_SUP_OVERRUNS (R354). -/
def Reg.safSupOverruns : Nat := 0xe00034
/-- SAF_STICKY_SUMMARY (R354). -/
def Reg.safStickySummary : Nat := 0xe00038
/-- SAF_UNIT_OFFw (R354). -/
def Reg.safUnitOff (w : Nat) : Nat := 0xe00040 + 0x4 * w
/-- SAF_UNIT_OFF_SETw (R354). -/
def Reg.safUnitOffSet (w : Nat) : Nat := 0xe00050 + 0x4 * w
/-- SAF_UNIT_OFF_CLRw (R354). -/
def Reg.safUnitOffClr (w : Nat) : Nat := 0xe00060 + 0x4 * w
/-- SAF_STEST_CTRL (R354). -/
def Reg.safStestCtrl : Nat := 0xe00080
/-- SAF_STEST_RECORD (R354). -/
def Reg.safStestRecord : Nat := 0xe00084
/-- SAF_STEST_REGION (R354). -/
def Reg.safStestRegion : Nat := 0xe00088
/-- SAF_STEST_DEFERS (R354). -/
def Reg.safStestDefers : Nat := 0xe00090
/-- SAF_STEST_DONEc (R354). -/
def Reg.safStestDone (c : Nat) : Nat := 0xe00100 + 0x8 * c
/-- SAF_CE_COREn (R354). -/
def Reg.safCeCore (n : Nat) : Nat := 0xe00400 + 0x4 * n
/-- SAF_CE_HOSTn (R354). -/
def Reg.safCeHost (n : Nat) : Nat := 0xe00580 + 0x4 * n
/-- SAF_CE_L3 (R354). -/
def Reg.safCeL3 : Nat := 0xe005e0
/-- SAF_CE_ISLAND (R354). -/
def Reg.safCeIsland : Nat := 0xe005e4
/-- SAF_STEST_CHUNKk (R354). -/
def Reg.safStestChunk (k : Nat) : Nat := 0xe00800 + 0x4 * k

/-- The rows of block SAF. -/
def regRowsSaf : List RegRow := [
  ⟨"SAF_PINS", 0xe00000, 1, 0x0, 1, 0x0, false, 0x7, 0x0, 0x0, 0x200, false, .special, false⟩,
  ⟨"SAF_FAULT_LATCH", 0xe00004, 1, 0x0, 1, 0x0, false, 0x0, 0x7fff, 0x0, 0x0, true, .special, false⟩,
  ⟨"SAF_REACT_FAULT", 0xe00008, 1, 0x0, 1, 0x0, false, 0x1fff, 0x0, 0x0, 0x634f, false, .islandWhileLoading, true⟩,
  ⟨"SAF_REACT_SAFE", 0xe0000c, 1, 0x0, 1, 0x0, false, 0x1fff, 0x0, 0x0, 0x6008, false, .islandWhileLoading, true⟩,
  ⟨"SAF_WDOG", 0xe00010, 1, 0x0, 1, 0x0, false, 0x8000ffff, 0x0, 0x0, 0x0, false, .islandAlways, false⟩,
  ⟨"SAF_WDOG_KICK", 0xe00014, 1, 0x0, 1, 0x0, false, 0x0, 0x0, 0x0, 0x0, false, .special, false⟩,
  ⟨"SAF_CMP", 0xe00018, 1, 0x0, 1, 0x0, false, 0x0, 0x3fff, 0x0, 0x0, true, .special, false⟩,
  ⟨"SAF_HOST_PAIR_RESET", 0xe0001c, 1, 0x0, 1, 0x0, false, 0x0, 0x0, 0x0, 0x0, false, .special, false⟩,
  ⟨"SAF_SKEW_RECORD", 0xe00020, 1, 0x0, 1, 0x0, false, 0x0, 0x0, 0x0, 0x0, false, .special, false⟩,
  ⟨"SAF_E2E", 0xe00024, 1, 0x0, 1, 0x0, false, 0x0, 0x7f, 0x0, 0x0, true, .special, false⟩,
  ⟨"SAF_SKEW_TIME", 0xe00028, 1, 0x0, 1, 0x0, true, 0x0, 0x0, 0x0, 0x0, false, .special, false⟩,
  ⟨"SAF_SUP_CTRL", 0xe00030, 1, 0x0, 1, 0x0, false, 0x3f7f, 0x0, 0x0, 0x310, false, .islandWhileLoading, true⟩,
  ⟨"SAF_SUP_OVERRUNS", 0xe00034, 1, 0x0, 1, 0x0, false, 0x0, 0x0, 0xffffffff, 0x0, false, .special, false⟩,
  ⟨"SAF_STICKY_SUMMARY", 0xe00038, 1, 0x0, 1, 0x0, false, 0x0, 0x0, 0x0, 0x0, false, .special, false⟩,
  ⟨"SAF_UNIT_OFFw", 0xe00040, 4, 0x4, 1, 0x0, false, 0x0, 0x0, 0x0, 0x0, false, .special, false⟩,
  ⟨"SAF_UNIT_OFF_SETw", 0xe00050, 4, 0x4, 1, 0x0, false, 0x0, 0x0, 0x0, 0x0, false, .special, false⟩,
  ⟨"SAF_UNIT_OFF_CLRw", 0xe00060, 4, 0x4, 1, 0x0, false, 0x0, 0x0, 0x0, 0x0, false, .special, false⟩,
  ⟨"SAF_STEST_CTRL", 0xe00080, 1, 0x0, 1, 0x0, false, 0x1, 0x0, 0x0, 0x0, false, .islandWhileLoading, true⟩,
  ⟨"SAF_STEST_RECORD", 0xe00084, 1, 0x0, 1, 0x0, false, 0x0, 0x0, 0x0, 0x0, false, .special, false⟩,
  ⟨"SAF_STEST_REGION", 0xe00088, 1, 0x0, 1, 0x0, true, 0xffffffffffff0000, 0x0, 0x0, 0x0, false, .islandWhileLoading, true⟩,
  ⟨"SAF_STEST_DEFERS", 0xe00090, 1, 0x0, 1, 0x0, false, 0x0, 0x0, 0xffff, 0x0, false, .special, false⟩,
  ⟨"SAF_STEST_DONEc", 0xe00100, 24, 0x8, 1, 0x0, true, 0x0, 0x0, 0x0, 0x0, false, .special, false⟩,
  ⟨"SAF_CE_COREn", 0xe00400, 96, 0x4, 1, 0x0, false, 0x0, 0x0, 0xffffffff, 0x0, false, .special, false⟩,
  ⟨"SAF_CE_HOSTn", 0xe00580, 24, 0x4, 1, 0x0, false, 0x0, 0x0, 0xffffffff, 0x0, false, .special, false⟩,
  ⟨"SAF_CE_L3", 0xe005e0, 1, 0x0, 1, 0x0, false, 0x0, 0x0, 0xffffffff, 0x0, false, .special, false⟩,
  ⟨"SAF_CE_ISLAND", 0xe005e4, 1, 0x0, 1, 0x0, false, 0x0, 0x0, 0xffffffff, 0x0, false, .special, false⟩,
  ⟨"SAF_STEST_CHUNKk", 0xe00800, 256, 0x4, 1, 0x0, false, 0x9f30ff00, 0x0, 0x0, 0x0, false, .islandWhileLoading, true⟩]

/-! ### Block CHK -/

/-- CHK_STICKY (R354). -/
def Reg.chkSticky : Nat := 0xf00000
/-- CHK_TEST (R354). -/
def Reg.chkTest : Nat := 0xf00004
/-- CHK_RECORD (R354). -/
def Reg.chkRecord : Nat := 0xf00008
/-- CHK_RECORD_TIME (R354). -/
def Reg.chkRecordTime : Nat := 0xf00010
/-- CHK_RECORD_PRIMARY (R354). -/
def Reg.chkRecordPrimary : Nat := 0xf00018
/-- CHK_RECORD_REPLICA (R354). -/
def Reg.chkRecordReplica : Nat := 0xf00020
/-- CHK_PARTp (R354). -/
def Reg.chkPart (p : Nat) : Nat := 0xf00100 + 0x4 * p
/-- CHK_DISAGREEp (R354). -/
def Reg.chkDisagree (p : Nat) : Nat := 0xf00180 + 0x4 * p
/-- CHK_HISTp (R354). -/
def Reg.chkHist (p : Nat) : Nat := 0xf00200 + 0x8 * p
/-- CHK_LAST_FRAMEp (R354). -/
def Reg.chkLastFrame (p : Nat) : Nat := 0xf00300 + 0x4 * p

/-- The rows of block CHK. -/
def regRowsChk : List RegRow := [
  ⟨"CHK_STICKY", 0xf00000, 1, 0x0, 1, 0x0, false, 0x0, 0xffffffff, 0x0, 0x0, true, .special, false⟩,
  ⟨"CHK_TEST", 0xf00004, 1, 0x0, 1, 0x0, false, 0x0, 0x0, 0x0, 0x0, false, .special, false⟩,
  ⟨"CHK_RECORD", 0xf00008, 1, 0x0, 1, 0x0, true, 0x0, 0x0, 0x0, 0x0, false, .special, false⟩,
  ⟨"CHK_RECORD_TIME", 0xf00010, 1, 0x0, 1, 0x0, true, 0x0, 0x0, 0x0, 0x0, false, .special, false⟩,
  ⟨"CHK_RECORD_PRIMARY", 0xf00018, 1, 0x0, 1, 0x0, true, 0x0, 0x0, 0x0, 0x0, false, .special, false⟩,
  ⟨"CHK_RECORD_REPLICA", 0xf00020, 1, 0x0, 1, 0x0, true, 0x0, 0x0, 0x0, 0x0, false, .special, false⟩,
  ⟨"CHK_PARTp", 0xf00100, 16, 0x4, 1, 0x0, false, 0x7f7f, 0x0, 0x0, 0x210, false, .whileLoading, true⟩,
  ⟨"CHK_DISAGREEp", 0xf00180, 16, 0x4, 1, 0x0, false, 0x0, 0x0, 0xffff, 0x0, false, .special, false⟩,
  ⟨"CHK_HISTp", 0xf00200, 16, 0x8, 1, 0x0, true, 0x0, 0x0, 0x0, 0x0, false, .special, false⟩,
  ⟨"CHK_LAST_FRAMEp", 0xf00300, 16, 0x4, 1, 0x0, false, 0x0, 0x0, 0x0, 0x0, false, .special, false⟩]

/-! ### Block FMN -/

/-- FMN_STICKY (R239). -/
def Reg.fmnSticky : Nat := 0x1000000
/-- FMN_FORCED (R239). -/
def Reg.fmnForced : Nat := 0x1000004
/-- FMN_PAGE_INS (R239). -/
def Reg.fmnPageIns : Nat := 0x1000008
/-- FMN_PAGE_OUTS (R239). -/
def Reg.fmnPageOuts : Nat := 0x100000c
/-- FMN_POOLp_BASE (R239). -/
def Reg.fmnPoolBase (p : Nat) : Nat := 0x1000100 + 0x10 * p
/-- FMN_POOLp_SIZE (R239). -/
def Reg.fmnPoolSize (p : Nat) : Nat := 0x1000108 + 0x10 * p

/-- The rows of block FMN. -/
def regRowsFmn : List RegRow := [
  ⟨"FMN_STICKY", 0x1000000, 1, 0x0, 1, 0x0, false, 0x0, 0xffff, 0x0, 0x0, true, .special, false⟩,
  ⟨"FMN_FORCED", 0x1000004, 1, 0x0, 1, 0x0, false, 0x0, 0x0, 0xffffffff, 0x0, false, .special, false⟩,
  ⟨"FMN_PAGE_INS", 0x1000008, 1, 0x0, 1, 0x0, false, 0x0, 0x0, 0xffffffff, 0x0, false, .special, false⟩,
  ⟨"FMN_PAGE_OUTS", 0x100000c, 1, 0x0, 1, 0x0, false, 0x0, 0x0, 0xffffffff, 0x0, false, .special, false⟩,
  ⟨"FMN_POOLp_BASE", 0x1000100, 16, 0x10, 1, 0x0, true, 0xffffffff0000, 0x0, 0x0, 0x0, false, .whileLoading, true⟩,
  ⟨"FMN_POOLp_SIZE", 0x1000108, 16, 0x10, 1, 0x0, true, 0xffffffff, 0x0, 0x0, 0x0, false, .whileLoading, true⟩]

/-! ### Block SEC -/

/-- SEC_STATUS (R419). -/
def Reg.secStatus : Nat := 0x1100000
/-- SEC_STICKY (R419). -/
def Reg.secSticky : Nat := 0x1100004
/-- SEC_VERSION (R419). -/
def Reg.secVersion : Nat := 0x1100008
/-- SEC_FLOOR (R419). -/
def Reg.secFloor : Nat := 0x110000c
/-- SEC_CMD (R419). -/
def Reg.secCmd : Nat := 0x1100010
/-- SEC_ATT_ADDR (R419). -/
def Reg.secAttAddr : Nat := 0x1100018
/-- SEC_NONCEi (R419). -/
def Reg.secNonce (i : Nat) : Nat := 0x1100020 + 0x4 * i
/-- SEC_ID_PUBi (R419). -/
def Reg.secIdPub (i : Nat) : Nat := 0x1100040 + 0x4 * i
/-- SEC_FLOOR_REQ (R419). -/
def Reg.secFloorReq : Nat := 0x1100060
/-- SEC_MEASm_i (R419). -/
def Reg.secMeas (m i : Nat) : Nat := 0x1100100 + 0x40 * m + 0x4 * i
/-- SEC_CFG_DIGESTi (R419). -/
def Reg.secCfgDigest (i : Nat) : Nat := 0x1100200 + 0x4 * i

/-- The rows of block SEC. -/
def regRowsSec : List RegRow := [
  ⟨"SEC_STATUS", 0x1100000, 1, 0x0, 1, 0x0, false, 0x0, 0x0, 0x0, 0x0, false, .special, false⟩,
  ⟨"SEC_STICKY", 0x1100004, 1, 0x0, 1, 0x0, false, 0x0, 0x1f, 0x0, 0x0, true, .special, false⟩,
  ⟨"SEC_VERSION", 0x1100008, 1, 0x0, 1, 0x0, false, 0x0, 0x0, 0x0, 0x0, false, .special, false⟩,
  ⟨"SEC_FLOOR", 0x110000c, 1, 0x0, 1, 0x0, false, 0x0, 0x0, 0x0, 0x0, false, .special, false⟩,
  ⟨"SEC_CMD", 0x1100010, 1, 0x0, 1, 0x0, false, 0x0, 0x0, 0x0, 0x0, false, .special, false⟩,
  ⟨"SEC_ATT_ADDR", 0x1100018, 1, 0x0, 1, 0x0, true, 0xffffffffffff, 0x0, 0x0, 0x0, false, .always, false⟩,
  ⟨"SEC_NONCEi", 0x1100020, 8, 0x4, 1, 0x0, false, 0xffffffff, 0x0, 0x0, 0x0, false, .always, false⟩,
  ⟨"SEC_ID_PUBi", 0x1100040, 8, 0x4, 1, 0x0, false, 0x0, 0x0, 0x0, 0x0, false, .special, false⟩,
  ⟨"SEC_FLOOR_REQ", 0x1100060, 1, 0x0, 1, 0x0, true, 0xfffffffff, 0x0, 0x0, 0x0, false, .islandAlways, false⟩,
  ⟨"SEC_MEASm_i", 0x1100100, 4, 0x40, 16, 0x4, false, 0x0, 0x0, 0x0, 0x0, false, .special, false⟩,
  ⟨"SEC_CFG_DIGESTi", 0x1100200, 16, 0x4, 1, 0x0, false, 0x0, 0x0, 0x0, 0x0, false, .special, false⟩]

/-- The rows of the block in a register slot; a slot that holds no block has none (R422). -/
def regRowsOfSlot : Nat → List RegRow
  | 0 => regRowsCfg
  | 1 => regRowsPwr
  | 2 => regRowsAlm
  | 3 => regRowsHrd
  | 4 => regRowsCal
  | 5 => regRowsVgl
  | 6 => regRowsMrg
  | 7 => regRowsDdr
  | 8 => regRowsQry
  | 9 => regRowsHif
  | 10 => regRowsTwn
  | 11 => regRowsGwy
  | 12 => regRowsTsn
  | 13 => regRowsCsi
  | 14 => regRowsSaf
  | 15 => regRowsChk
  | 16 => regRowsFmn
  | 17 => regRowsSec
  | _ => []

/-- Every row of the map, in ascending slot order. -/
def regTable : List RegRow := (List.range 18).flatMap regRowsOfSlot

/-- The number of bytes a row's register has (R8). -/
def RegRow.bytes (r : RegRow) : Nat := if r.wide then 8 else 4

/-- Whether a row's register, at one of its indices, starts exactly at an offset. -/
def RegRow.startsAt (r : RegRow) (a : Nat) : Bool :=
  if a < r.off then false
  else
    let d := a - r.off
    if r.n2 = 1 then
      if r.n1 = 1 then d = 0 else d % r.s1 = 0 && d / r.s1 < r.n1
    else
      let e := d % r.s1
      d / r.s1 < r.n1 && e % r.s2 = 0 && e / r.s2 < r.n2

/-- The row of the register that starts at an offset. HRD_MTIMECMPt exists for machine targets only (R306). -/
def regRowAt (a : Nat) : Option RegRow :=
  match (regRowsOfSlot (a / 0x100000)).find? (·.startsAt a) with
  | some r => if r.off = 0x310010 && ((a - r.off) / 0x1000) % 2 = 1 && (a - r.off) / 0x1000 < 48 then none else some r
  | none => none

/-- Whether a byte at an offset belongs to a register (R11: an unassigned byte belongs to none). -/
def regByteAssigned (a : Nat) : Bool :=
  (regRowAt (a - a % 4)).isSome ||
    (match regRowAt (a - a % 8) with
     | some r => r.wide
     | none => false)

/-- The index of a one-dimensional row's register at an offset. -/
def RegRow.index1 (r : RegRow) (a : Nat) : Nat := if r.n1 = 1 then 0 else (a - r.off) / r.s1

/-- The second index of a two-dimensional row's register at an offset. -/
def RegRow.index2 (r : RegRow) (a : Nat) : Nat := if r.n2 = 1 then 0 else (a - r.off) % r.s1 / r.s2

/-- The sources of "Herald sources" whose reset sense is rising (R294). -/
def hrdRising (s : Nat) : Bool :=
  (1 ≤ s && s ≤ 66) || s = 68 || s = 69 || s = 72 || s = 73 || (96 ≤ s && s ≤ 104) || (160 ≤ s && s ≤ 175) ||
    (192 ≤ s && s ≤ 255) || (264 ≤ s && s ≤ 267)

/-- The sources of "Herald sources" whose reset sense is level high (R294). -/
def hrdLevel (s : Nat) : Bool :=
  s = 67 || s = 70 || s = 71 || (74 ≤ s && s ≤ 79) || (128 ≤ s && s ≤ 154) || (176 ≤ s && s ≤ 182) ||
    (256 ≤ s && s ≤ 263) || (320 ≤ s && s ≤ 351)

/-- The software sources (R304). -/
def hrdSoftware (s : Nat) : Bool := 512 ≤ s && s ≤ 1022

/-- The numbers that are sources; every other number is reserved (R294). -/
def hrdSource (s : Nat) : Bool := hrdRising s || hrdLevel s || hrdSoftware s

/-- The reset value of the register at an offset. HRD_SRCs takes the sense of its source, and sources 74 to 79 are owned by
the island (R306, R425). -/
def regReset (a : Nat) : Word :=
  if 0x300000 ≤ a && a < 0x301000 then
    let s := (a - 0x300000) / 4
    if 74 ≤ s && s ≤ 79 then 0x80000000 else if hrdRising s then 2 else 0
  else
    match regRowAt a with
    | some r => BitVec.ofNat 64 r.reset
    | none => 0

end Sys2Proof.Machine
end

