-- ==== Sys2Proof/WellFormed.lean ====
section
/-!
DEFINITION. Which commands are well formed: the limits on operands that their types do not state.
-/

namespace Sys2Proof

/-- The limits of a command's operands. Sentinel counts cover the 96 cores (R62), an inbound write carries as many bytes as
its length says (R279), a poll answer is a block of 16 words (R389), a CAN frame holds at most 64 data bytes, 8 in classic
format, and a base identifier fits 11 bits (R379). -/
def Instr.wellFormed : Instr → Bool
  | .governorWindowEnd counts => counts.length = 96
  | .inboundRequest _ req => req.kind = .write → req.data.length = req.length
  | .twinPollAnswer _ block => block.length = 16
  | .canFrameReceived _ f =>
      f.data.length ≤ 64 && (f.fdf || f.data.length ≤ 8) && (f.ide || f.id.toNat < 0x800)
  | _ => true

end Sys2Proof
end

