-- ==== Sys2Proof/Machine/Ops.lean ====
section
/-!
DEFINITION. The named operations over the device: registers by offset, records, memory on behalf of a tenancy, the address map,
units held offline, pins, and the form every meaning has.
-/

namespace Sys2Proof.Machine

/-! ### Empty values of the tables -/

/-- A unit at the start of its program. -/
def UnitState.fresh : UnitState := { position := 0, loops := [], waiting := none, ended := false }

/-- A weight register that holds nothing. -/
def WeightReg.empty : WeightReg := { mode := .int8, fmt := .int8, data := [], scales := [], spalls := [] }

/-- An accumulator bank whose entries are cleared. -/
def AccBank.empty : AccBank := { entries := [], rowSums := [] }

/-- A cleared engine. -/
def Engine.empty : Engine :=
  { w0 := .empty, w1 := .empty, active := false, a0 := .empty, a1 := .empty, filling := false }

/-- A cleared context bank. What a weight register, a vector register, a lane scale or a product table holds before anything has
been written into it reads as 0, for which the spec gives no value (log entry 12). -/
def Bank.empty : Bank :=
  { exec := .fresh, load := .fresh, store := .fresh, eng0 := .empty, eng1 := .empty, vregs := [], laneScales := [],
    tables := [], setregs := [], transfers := [], bufferTags := [], openRow := none, walk := none, digest := none }

/-- A CLOSED context. -/
def Ctx.closed : Ctx :=
  { st := .closed, tenancy := 0xFF, ring := 0, servingWindow := none, loaded := [], run := none, teardown := none,
    history := [] }

/-- A tenancy that is off (R240). -/
def Tenancy.off : Tenancy :=
  { on := false, target := 0, vector := 0, frozen := false, log := none, windows := [], rings := [], heldMsi := false }

/-- A frame queue that is unset. -/
def FrameQueue.unset : FrameQueue :=
  { tail := 0, seen := 0, head := 0, state := .unset, waiting := [], departing := false, desc := none, got := [],
    back := none }

/-- A camera stream with nothing received. -/
def CsiStream.idle : CsiStream := { fill := 0, rel := 0, frame := none, last := none }

/-- A controller with clear error counts. -/
def CanCtl.idle : CanCtl := { txErr := 0, rxErr := 0, conf := .active, restart := false, txq := [] }

/-- A transmitting ACF stream that has gathered nothing. -/
def AcfTx.empty : AcfTx := { messages := [], seq := 0 }

/-- A cluster's self-test sequencer outside a slot. -/
def Stest.idle : Stest := { entry := none, running := none, next := none, defers := 0, skipped := false }

/-! ### Registers -/

/-- The value a register holds. -/
def Device.reg (d : Device) (a : Nat) : Word := (tget d.regs a).getD (regReset a)

/-- The device with a register set. -/
def Device.setReg (d : Device) (a : Nat) (v : Word) : Device := { d with regs := tputD d.regs a v (regReset a) }

/-- A field of a register. -/
def Device.fld (d : Device) (a lo len : Nat) : Nat := bitsAt (d.reg a) lo len

/-- The device with a field of a register set. -/
def Device.setFld (d : Device) (a lo len v : Nat) : Device := d.setReg a (putBits (d.reg a) lo len v)

/-- The device with bits of a register set. -/
def Device.orReg (d : Device) (a mask : Nat) : Device := d.setReg a (d.reg a ||| BitVec.ofNat 64 mask)

/-- The device with bits of a register cleared. -/
def Device.clrReg (d : Device) (a mask : Nat) : Device := d.setReg a (d.reg a &&& ~~~(BitVec.ofNat 64 mask))

/-- One bit of a register. -/
def Device.regBit (d : Device) (a i : Nat) : Bool := bitOf (d.reg a) i

/-- A counter field raised, holding at its largest value. -/
def Device.addCount (d : Device) (a lo len n : Nat) : Device := d.setFld a lo len (holdAdd len (d.fld a lo len) n)

/-- A register set to a value only where a condition held before: how a first-event record is taken. -/
def Device.recordIf (d : Device) (c : Bool) (a : Nat) (v : Word) : Device := if c then d.setReg a v else d

/-! ### Time, Herald lines, latches, outputs -/

/-- The integer nanoseconds of the Almanac (R355). -/
def Device.ns (d : Device) : Word := BitVec.ofNat 64 (d.alm.count.toNat / 2 ^ 32)

/-- The sample that a filter takes at the tick that is current. -/
def Device.sample (d : Device) : Sample := { stamp := d.ns, tick := d.alm.ticks }

/-- The device with the line of a rising source pulsed (R294); a pulse not yet seen by the filter stands from its first
sample on (R302). -/
def Device.raise (d : Device) (s : Nat) : Device :=
  { d with herald := { d.herald with
      raised := addMember d.herald.raised s
      since := if d.herald.raised.contains s then d.herald.since else tput d.herald.since (2 * s + 1) d.sample } }

/-- The device with a bit of SAF_FAULT_LATCH set (R317). -/
def Device.latch (d : Device) (k : Nat) : Device := d.orReg Reg.safFaultLatch (2 ^ k)

/-- The device having sent something. -/
def Device.emit (d : Device) (o : Output) : Device := { d with sent := d.sent ++ [o] }

/-- The device having answered an access. -/
def Device.reply (d : Device) (x : Answer) : Device := { d with answer := x }

/-- The configuration state changed, which raises Herald source 72 (R405). -/
def Device.enter (d : Device) (c : CfgState) : Device := { d with cfg := c }.raise 72

/-! ### Table entries of the device -/

/-- A context. -/
def Device.ctx (d : Device) (c : Nat) : Ctx := tgetD d.ctxs c Ctx.closed

/-- The device with a context replaced. -/
def Device.setCtx (d : Device) (c : Nat) (x : Ctx) : Device := { d with ctxs := tputD d.ctxs c x Ctx.closed }

/-- A tenancy. -/
def Device.ten (d : Device) (t : Nat) : Tenancy := tgetD d.tenancies t Tenancy.off

/-- The device with a tenancy replaced. -/
def Device.setTen (d : Device) (t : Nat) (x : Tenancy) : Device :=
  { d with tenancies := tputD d.tenancies t x Tenancy.off }

/-- The ring a reference names. -/
def Device.ring (d : Device) : RingRef → Ring
  | .admin => d.admin
  | .ring t r => tgetD (d.ten t).rings r Ring.unset

/-- The device with a ring replaced. -/
def Device.setRing (d : Device) (k : RingRef) (x : Ring) : Device :=
  match k with
  | .admin => { d with admin := x }
  | .ring t r => d.setTen t { d.ten t with rings := tputD (d.ten t).rings r x Ring.unset }

/-- The bank of a context on a core (R213). -/
def Device.bank (d : Device) (core ctx : Nat) : Bank := tgetD d.banks (core * 256 + ctx) Bank.empty

/-- The device with a bank replaced. -/
def Device.setBank (d : Device) (core ctx : Nat) (b : Bank) : Device :=
  { d with banks := tputD d.banks (core * 256 + ctx) b Bank.empty }

/-- A frame queue: switch queues are 0 to 31, gateway host queues 32 to 47. -/
def queueKey : QueueRef → Nat
  | .tsn q => q
  | .gwy k => 32 + k

/-- A frame queue of the device. -/
def Device.queue (d : Device) (q : Nat) : FrameQueue := tgetD d.queues q FrameQueue.unset

/-- The device with a frame queue replaced. -/
def Device.setQueue (d : Device) (q : Nat) (x : FrameQueue) : Device :=
  { d with queues := tputD d.queues q x FrameQueue.unset }

/-- A camera stream. -/
def Device.stream (d : Device) (s : Nat) : CsiStream := tgetD d.csi s CsiStream.idle

/-- The device with a camera stream replaced. -/
def Device.setStream (d : Device) (s : Nat) (x : CsiStream) : Device :=
  { d with csi := tputD d.csi s x CsiStream.idle }

/-- A CAN controller. -/
def Device.canCtl (d : Device) (k : Nat) : CanCtl := tgetD d.can k CanCtl.idle

/-- The device with a CAN controller replaced. -/
def Device.setCan (d : Device) (k : Nat) (x : CanCtl) : Device := { d with can := tputD d.can k x CanCtl.idle }

/-- The self-test sequencer of a cluster. -/
def Device.stest (d : Device) (c : Nat) : Stest := tgetD d.safety.stest c Stest.idle

/-- The device with a self-test sequencer replaced. -/
def Device.setStest (d : Device) (c : Nat) (x : Stest) : Device :=
  { d with safety := { d.safety with stest := tputD d.safety.stest c x Stest.idle } }

/-- A twin link. -/
def Device.twin (d : Device) (l : Nat) : TwinLink := if l = 0 then d.twin0 else d.twin1

/-- The device with a twin link replaced. -/
def Device.setTwin (d : Device) (l : Nat) (x : TwinLink) : Device :=
  if l = 0 then { d with twin0 := x } else { d with twin1 := x }

/-! ### Status codes (R263) -/

/-- OK. -/
def St.ok : Byte := 0x00
/-- BOUNDS. -/
def St.bounds : Byte := 0x01
/-- STREAM_TAG. -/
def St.streamTag : Byte := 0x02
/-- OVERRUN. -/
def St.overrun : Byte := 0x03
/-- CHECK_MISMATCH. -/
def St.checkMismatch : Byte := 0x04
/-- ECC_UNCORR. -/
def St.eccUncorr : Byte := 0x05
/-- TORN_DOWN. -/
def St.tornDown : Byte := 0x06
/-- REFUSED. -/
def St.refused : Byte := 0x07
/-- UNIT_OFFLINE. -/
def St.unitOffline : Byte := 0x08
/-- SIZE_UNSUPPORTED. -/
def St.sizeUnsupported : Byte := 0x09
/-- LINK_ERROR. -/
def St.linkError : Byte := 0x0A
/-- ABORTED. -/
def St.aborted : Byte := 0x0B

/-! ### The address map (R420) -/

/-- What an address names. Register offsets count from 0x50_0000_0000. -/
inductive Region where
  | ddr (half : Nat)
  | quarry (q : Nat)
  | bench (core : Nat)
  | regs (off : Nat)
  | doorbell (t off : Nat)
  | outbound (pc : Pc) (link : Nat)
  | reserved
  deriving DecidableEq, Repr

/-- The half size H of the populated DDR (the table "DDR populations"). -/
def Device.ddrHalf (d : Device) : Nat :=
  match d.boot.density with
  | 0 => 0x400000000
  | 1 => 0x800000000
  | 2 => 0xC00000000
  | _ => 0x1000000000

/-- What an address names (R14, R420, R422). -/
def Device.region (d : Device) (a : Nat) : Region :=
  if a < d.ddrHalf then .ddr 0
  else if a < 2 * d.ddrHalf then .ddr 1
  else if 0x4000000000 ≤ a && a < 0x400C000000 then .quarry 0
  else if 0x400C000000 ≤ a && a < 0x4018000000 then .quarry 1
  else if 0x4400000000 ≤ a && a < 0x4406000000 then .bench ((a - 0x4400000000) / 0x100000)
  else if 0x5000000000 ≤ a && a < 0x5001200000 then .regs (a - 0x5000000000)
  else if 0x6000000000 ≤ a && a < 0x6000040000 then
    .doorbell ((a - 0x6000000000) / 0x1000) ((a - 0x6000000000) % 0x1000)
  else if 0x8000000000 ≤ a && a < 0xC000000000 then .outbound .a 0
  else if 0xC000000000 ≤ a && a < 0xE000000000 then .outbound .b 0
  else if 0xE000000000 ≤ a && a < 0x10000000000 then .outbound .b 1
  else .reserved

/-- Whether a range of the map lies in the DDR or the Quarry. -/
def Device.inMemory (d : Device) (a n : Nat) : Bool :=
  match d.region a, d.region (a + (n - 1)) with
  | .ddr _, .ddr _ => true
  | .quarry _, .quarry _ => true
  | _, _ => false

/-- The DDR channel of an address (R178). -/
def Device.channelOf (d : Device) (a : Nat) : Nat :=
  let half := if a < d.ddrHalf then 0 else 1
  4 * half + (a - half * d.ddrHalf) / 256 % 4

/-- The subchannel of a DDR address's line (R178). -/
def Device.subchannelOf (d : Device) (a : Nat) : Nat :=
  let half := if a < d.ddrHalf then 0 else 1
  (a - half * d.ddrHalf) / 64 % 2

/-- The bank of its Quarry that holds an address's line: line i lies in bank i mod 768, 256 KiB each (R172). -/
def quarryBank (q a : Nat) : Nat := (a - (0x4000000000 + q * 0xC000000)) / 64 % 768

/-- The physical address of an offset in a core's Bench (R16). -/
def benchAddr (core off : Nat) : Nat := 0x4400000000 + core * 0x100000 + off

/-! ### Units held offline (R313, R314) -/

/-- Whether the management path holds a unit offline. -/
def Device.unitOff (d : Device) (u : Nat) : Bool := d.regBit (Reg.safUnitOff (u / 32)) (u % 32)

/-- The device with a unit held offline or brought back. -/
def Device.setUnitOff (d : Device) (u : Nat) (off : Bool) : Device :=
  if off then d.orReg (Reg.safUnitOff (u / 32)) (2 ^ (u % 32))
  else d.clrReg (Reg.safUnitOff (u / 32)) (2 ^ (u % 32))

/-- The managed unit a memory address belongs to, where it has one. -/
def Device.unitOfAddr (d : Device) (a : Nat) : Option Nat :=
  match d.region a with
  | .ddr _ => some (32 + d.channelOf a)
  | .quarry q => some (40 + q)
  | .bench core => some (core / 4)
  | .outbound .a _ => some 44
  | .outbound .b _ => some 45
  | _ => none

/-- Whether an access at an address meets a unit held offline, or a port the management path has closed (R316). -/
def Device.addrOff (d : Device) (a : Nat) : Bool :=
  match d.unitOfAddr a with
  | some u => d.unitOff u || d.safety.closedPorts.contains u
  | none => false

/-! ### Regulation classes (R187) -/

/-- The class of an address's line: that of the valid regulation window it lies in, else the default class. -/
def Device.classOf (d : Device) (a : Nat) : Nat :=
  match (List.range 16).find? (fun w => d.regBit (Reg.mrgWinAttr w) 0 &&
      (d.reg (Reg.mrgWinBase w)).toNat ≤ a && a ≤ (d.reg (Reg.mrgWinLimit w)).toNat) with
  | some w => d.fld (Reg.mrgWinAttr w) 4 3
  | none => d.fld Reg.mrgCtrl 0 3

/-- The kind of a class: 0 BEST, 1 TARGET, 2 STATIC_HIGH. -/
def Device.classKind (d : Device) (c : Nat) : Nat := d.fld (Reg.mrgClass c) 0 2

/-! ### Bounds windows (R242, R243) -/

/-- Whether a window covers a range. -/
def Window.covers (w : Window) (a n : Nat) : Bool := w.base ≤ a && a + n ≤ w.limit + 1

/-- The tenancy's window that a range lies wholly within, with the access it needs. -/
def Tenancy.windowFor (x : Tenancy) (a n : Nat) (read write : Bool) : Option Window :=
  ((tvals x.windows).find? (fun w => w.covers a n)).filter fun w => (!read || w.read) && (!write || w.write)

/-- Whether a tenancy that is on may make an access. -/
def Device.allowed (d : Device) (t a n : Nat) (read write : Bool) : Bool :=
  (d.ten t).on && ((d.ten t).windowFor a n read write).isSome

/-- The detail of a BOUNDS status: RESERVED for an address in a reserved range, else WINDOW (R264). -/
def Device.boundsDetail (d : Device) (a : Nat) : Byte :=
  match d.region a with
  | .reserved => 0x05
  | .regs _ => 0x05
  | .doorbell _ _ => 0x05
  | _ => 0x01

/-! ### Memory -/

/-- The device with bytes of memory written. -/
def Device.wr (d : Device) (a : Nat) (bs : List Byte) : Device := { d with mem := memWrite d.mem a bs }

/-- Bytes of the device's memory. -/
def Device.rd (d : Device) (a n : Nat) : List Byte := memRead d.mem a n

/-! ### Pins -/

/-- Whether any bit of VGL_SAFE_LATCH is set. -/
def Device.vglSafe (d : Device) : Bool := (List.range 16).any fun w => d.reg (Reg.vglSafeLatch w) ≠ 0

/-- Whether FAULT_N is driven low (R317). -/
def Device.faultLow (d : Device) : Bool :=
  !d.regBit Reg.safPins 0 || d.regBit Reg.safPins 1 || (d.reg Reg.safFaultLatch &&& d.reg Reg.safReactFault) ≠ 0

/-- Whether SAFE_REQ_N is driven low (R317). -/
def Device.safeLow (d : Device) : Bool :=
  d.regBit Reg.safPins 2 || (d.reg Reg.safFaultLatch &&& d.reg Reg.safReactSafe) ≠ 0 || d.vglSafe

/-- The role of a PCIe controller (R274). -/
def Device.role (d : Device) : Pc → BitVec 2
  | .a => d.boot.pcaRole
  | .b => d.boot.pcbRole

/-- Whether a controller's link is up; a split twin has one if either of its links is (R387). -/
def Device.linkUp (d : Device) : Pc → Bool
  | .a => d.links.pca
  | .b => d.links.pcb0 || (d.role .b = 3 && d.regBit Reg.twnCtrl 0 && d.links.pcb1)

/-- Whether the link that an outbound access goes to is up: a twin has two while it is split (R387), and virtual channel 0 of a link
with a rank conflict carries nothing (R390; log entry 34). -/
def Device.linkUpAt (d : Device) (c : Pc) (link : Nat) : Bool :=
  d.role c ≠ 0 && match c with
    | .a => d.links.pca
    | .b =>
      if d.role .b ≠ 3 then d.links.pcb0
      else (if link = 1 then d.regBit Reg.twnCtrl 0 && d.links.pcb1 else d.links.pcb0) && !d.regBit Reg.twnSticky (6 + link)

/-- The twin link that an outbound address goes to, on a twin (R387). -/
def Device.twinLinkOf (d : Device) (a : Nat) : Option Nat :=
  match d.region a with
  | .outbound .b link => if d.role .b = 3 then some link else none
  | _ => none

/-- Whether a chunk that goes to an address is backed off (R391). -/
def Device.twinHeld (d : Device) (a : Nat) : Bool :=
  match d.twinLinkOf a with
  | some l => (d.twin l).backedOff
  | none => false

/-- The end message of a chunk sent to an address over a twin link (R391). -/
def Device.chunkEnd (d : Device) (a : Nat) : Device :=
  match d.twinLinkOf a with
  | some l => d.emit (.chunkEnd l)
  | none => d

/-- The unit number of a PCIe controller. -/
def pcUnit : Pc → Nat
  | .a => 44
  | .b => 45

/-- The level of PCA_RDY or PCB_RDY (R278, R313). -/
def Device.rdy (d : Device) (c : Pc) : Bool :=
  d.cfg = .running && d.role c ≠ 0 && (d.role c = 1 || d.linkUp c) && !d.unitOff (pcUnit c)

/-- The commanded CTL_OUT levels, held in CFG_CTL_OUT in RUNNING and at ctl_safe otherwise (R410). -/
def Device.ctlOut (d : Device) : BitVec 16 :=
  if d.cfg = .running then
    let want := (d.reg Reg.cfgCtlOut).setWidth 16
    if d.safeLow then (want &&& ~~~d.boot.ctlFollow) ||| (d.boot.ctlSafe &&& d.boot.ctlFollow) else want
  else d.boot.ctlSafe

/-- The operating point of a change between its request and the switch of counts, or of RUN's take-up (R414). -/
def Governor.wanted (g : Governor) : Option (BitVec 2) := g.takeUp.or g.asked

/-- The host clock's limit in MHz: that of the operating point in force, or of a lower one asked for (R414, R437). -/
def Device.hostClock (d : Device) : Nat :=
  let p := d.fld Reg.pwrStatus 0 2
  match min p (d.gov.wanted.map (·.toNat) |>.getD p) with
  | 2 => 2400
  | 3 => 3000
  | _ => 900

/-! ### Requesters -/

/-- Whether a requester is an island hart. -/
def whoIsIsland : Who → Bool
  | .island _ => true
  | _ => false

/-- Whether a requester is a fabric bridge. -/
def whoIsBridge : Who → Bool
  | .bridge _ => true
  | _ => false

/-- The pair of a host core. -/
def hostPairOf (n : Nat) : Nat := n / 2

/-- Whether host cluster d is split (R284). -/
def Device.splitCluster (d : Device) (cluster : Nat) : Bool := d.boot.hostSplit.getLsbD cluster

/-- Whether a host core presents a hart: every core of a split cluster, else the leaders (R283, R284). -/
def Device.hostHart (d : Device) (n : Nat) : Bool := d.splitCluster (n / 6) || n % 2 = 0

/-- Whether an island core presents a hart. -/
def Device.islandHart (d : Device) (i : Nat) : Bool := d.boot.islandSplit || i % 2 = 0

/-- Whether a requester can make an access now: a hart that exists and is not stopped, or a bridge with a link. -/
def Device.present (d : Device) : Who → Bool
  | .host n => d.hostHart n && !d.safety.hostStopped.getLsbD (hostPairOf n) && !d.unitOff (96 + hostPairOf n)
  | .island i => d.islandHart i && !d.safety.islandStopped.getLsbD (i / 2)
  | .bridge c => d.role c ≠ 0 && d.linkUp c

/-- The device having turned an access away: a hart receives an access fault, a bridge an error response (R10, R303). -/
def Device.deny (d : Device) (_ : Who) : Device := d.reply .error

/-! ### Duties at a fixed spacing -/

/-- The duties: the end of a count window (R194), the patrol (R185) and the temperature report (R182) of each channel, the polls of the
management path (R315), the refresh of the twin status and the polls of the peer (R389), the steps of each rail (R65, R413, R414). -/
inductive Duty where
  | countWindow
  | patrol (channel : Nat)
  | temperature (channel : Nat)
  | managementPoll
  | twinRefresh
  | twinPoll
  | rail (die : Nat)
  deriving DecidableEq, Repr

/-- Where the state keeps the tick at which a duty was last done. -/
def dutyKey : Duty → Nat
  | .countWindow => 0
  | .patrol c => 8 + c
  | .temperature c => 16 + c
  | .managementPoll => 24
  | .twinRefresh => 25
  | .twinPoll => 26
  | .rail i => 32 + i

/-- The spacing of a duty in reference ticks. -/
def Device.spacing (d : Device) : Duty → Nat
  | .countWindow => d.fld Reg.ddrCntWindow 0 20
  | .patrol _ => 2000
  | .temperature _ => 100000
  | .managementPoll => 1000
  | .twinRefresh => 500
  | .twinPoll => 2000
  | .rail _ => 200

/-- Whether a duty was done less than its spacing ago, so that the device does not repeat it yet. -/
def Device.tooSoon (d : Device) (k : Duty) : Bool :=
  match tget d.paced (dutyKey k) with
  | some t => decide (d.alm.ticks < t + d.spacing k)
  | none => false

/-- The device having done a duty at this tick. -/
def Device.noted (d : Device) (k : Duty) : Device := { d with paced := tput d.paced (dutyKey k) d.alm.ticks }

/-! ### The form of a meaning -/

/-- Whether the units outside the always-on domain run: powered, clocked, booted (R400, R416, R433, R438, R440). -/
def Device.live (d : Device) : Bool := d.power.vddAon && d.power.refClk && decide (d.power.phase = .up)

/-- The device as a command finds it: with no answer yet and nothing sent (log entry 16). -/
def Device.begun (d : Device) : Device := { d with answer := .none, sent := [] }

/-- A command's effect on the device; the answer and what is sent belong to this command alone, and the queue stays. -/
def act (s : State) (f : Device → Device) : Host.Outcome State Fault Refusal :=
  .next { s with dev := f s.dev.begun }

/-- The effect of a command of a unit that does nothing unless the device is live (log entry 5). -/
def actLive (s : State) (f : Device → Device) : Host.Outcome State Fault Refusal :=
  act s fun d => if d.live then f d else d

/-- The effect of a duty that the device repeats at a fixed spacing: none where the last one was done too short a time ago. -/
def actPaced (k : Duty) (s : State) (f : Device → Device) : Host.Outcome State Fault Refusal :=
  actLive s fun d => if d.tooSoon k then d else f (d.noted k)

/-- The effect of an access, which only a requester that is present can make. -/
def actBy (who : Who) (s : State) (f : Device → Device) : Host.Outcome State Fault Refusal :=
  actLive s fun d => if d.present who then f d else d

/-- The effect of a command whose operands have limits that their types do not state. -/
def actIf (ok : Bool) (s : State) (f : Device → Device) : Host.Outcome State Fault Refusal :=
  if ok then actLive s f else .fault .illFormed

end Sys2Proof.Machine
end

