-- ==== Sys2Proof/Machine/Contexts.lean ====
section
/-!
DEFINITION. Contexts on cores: the partition and context parameters (R208 to R210), which context a core serves (R214 to
R219), the seat of a core in a run (R100, R116), context faults (R223 to R226) and the ends of runs that do not tear down.
-/

namespace Sys2Proof.Machine

/-! ### Partition and context parameters -/

/-- Whether bit `c` of a cluster mask is set. -/
def inMask (mask c : Nat) : Bool := mask / 2 ^ c % 2 = 1

/-- The clusters of a mask, ascending. -/
def maskClusters (mask : Nat) : List Nat := (List.range 24).filter (inMask mask)

/-- Whether a partition is in use. -/
def Device.partValid (d : Device) (p : Nat) : Bool := d.regBit (Reg.calPart p) 31
/-- Whether a partition is legacy (R26). -/
def Device.partLegacy (d : Device) (p : Nat) : Bool := d.regBit (Reg.calPart p) 24
/-- The cluster mask of a partition. -/
def Device.partMask (d : Device) (p : Nat) : Nat := d.fld (Reg.calPart p) 0 24
/-- Whether a context is in use. -/
def Device.ctxValid (d : Device) (c : Nat) : Bool := d.regBit (Reg.calCtx c) 63
/-- Whether a context is safety-class. -/
def Device.ctxSafety (d : Device) (c : Nat) : Bool := d.regBit (Reg.calCtx c) 62
/-- Whether a context owns a serving table. -/
def Device.ctxServing (d : Device) (c : Nat) : Bool := d.regBit (Reg.calCtx c) 61
/-- The size of a context's serving table. -/
def Device.ctxSlots (d : Device) (c : Nat) : Nat := d.fld (Reg.calCtx c) 48 8 + 1
/-- The bytes of a context's Bench share on each core. -/
def Device.shareBytes (d : Device) (c : Nat) : Nat := d.fld (Reg.calCtx c) 40 5 * 0x10000
/-- The Bench offset of a context's share. -/
def Device.shareBase (d : Device) (c : Nat) : Nat := d.fld (Reg.calCtx c) 32 4 * 0x10000
/-- The partition of a context. -/
def Device.ctxPart (d : Device) (c : Nat) : Nat := d.fld (Reg.calCtx c) 24 4
/-- The cluster mask of a context. -/
def Device.ctxMask (d : Device) (c : Nat) : Nat := d.fld (Reg.calCtx c) 0 24
/-- Whether a context lies in a legacy partition. -/
def Device.ctxLegacy (d : Device) (c : Nat) : Bool := d.partLegacy (d.ctxPart c)
/-- The cores a context is resident on. -/
def Device.ctxCores (d : Device) (c : Nat) : List Nat :=
  (maskClusters (d.ctxMask c)).flatMap fun k => [4 * k, 4 * k + 1, 4 * k + 2, 4 * k + 3]
/-- Whether a context is resident on a cluster held offline. -/
def Device.ctxOffline (d : Device) (c : Nat) : Bool := (maskClusters (d.ctxMask c)).any d.unitOff

/-- The compute die of a cluster. -/
def dieOfCluster (c : Nat) : Nat := c / 6

/-- The compute die of a core. -/
def dieOfCore (n : Nat) : Nat := n / 24

/-! ### Calendar entries (R214) -/

/-- What a calendar entry is. -/
inductive EntryKind where
  | slice (ctx : Nat)
  | pool (part : Nat)
  | holiday (cluster : Nat)
  deriving DecidableEq, Repr

/-- A valid calendar entry with its start and end in ticks of the frame. -/
structure Entry where
  kind : EntryKind
  start : Nat
  stop : Nat
  deriving DecidableEq, Repr

/-- The calendar entry with a number, where it is valid. -/
def Device.entry (d : Device) (i : Nat) : Option Entry :=
  let w := d.reg (Reg.calEntry i)
  if !bitOf w 63 then none
  else
    let t := bitsAt w 32 8
    let k := if bitOf w 62 then EntryKind.holiday t else if bitOf w 61 then .pool t else .slice t
    some { kind := k, start := bitsAt w 16 14 * 1000, stop := (bitsAt w 16 14 + bitsAt w 0 14) * 1000 }

/-- The ticks of a major frame. -/
def Device.frameTicks (d : Device) : Nat := d.fld Reg.calFrame 0 14 * 1000

/-- The slices of a context in a frame, by rising start: first tick and end. -/
def Device.slicesOf (d : Device) (c : Nat) : List (Nat × Nat) :=
  let l := (List.range 1024).filterMap fun i =>
    match d.entry i with
    | some e => if e.kind = .slice c then some (e.start, e.stop) else none
    | none => none
  l.mergeSort fun a b => decide (a.1 ≤ b.1)

/-- The cluster mask an entry covers. -/
def Device.entryMask (d : Device) (e : Entry) : Nat :=
  match e.kind with
  | .slice c => d.ctxMask c
  | .pool p => d.partMask p
  | .holiday k => 2 ^ k

/-- The context in whose usable slice time a core is. -/
def Device.usableCtx (d : Device) (core : Nat) : Option Nat :=
  d.cal.usable.findSome? fun i =>
    match d.entry i with
    | some e =>
      match e.kind with
      | .slice c => if inMask (d.ctxMask c) (core / 4) then some c else none
      | _ => none
    | none => none

/-- Whether a context is in the usable time of a slice. -/
def Device.ctxUsable (d : Device) (c : Nat) : Bool :=
  d.cal.usable.any fun i => (d.entry i).any fun e => e.kind = .slice c

/-- The partition in whose usable pool slice a cluster is. -/
def Device.usablePool (d : Device) (cluster : Nat) : Option Nat :=
  d.cal.usable.findSome? fun i =>
    match d.entry i with
    | some e =>
      match e.kind with
      | .pool p => if inMask (d.partMask p) cluster then some p else none
      | _ => none
    | none => none

/-! ### Corrected and uncorrectable words (R49, R213, R347) -/

/-- Corrected errors of a core's Bench counted. -/
def Device.benchCe (d : Device) (core n : Nat) : Device := d.addCount (Reg.safCeCore core) 0 16 n

/-- Corrected errors of a core's context banks counted. -/
def Device.bankCe (d : Device) (core n : Nat) : Device := d.addCount (Reg.safCeCore core) 16 16 n

/-! ### Ends of runs -/

/-- A run marked as ended with a status before it is done; the first end stands. -/
def Run.stop (r : Run) (status detail : Byte) : Run :=
  { r with stopped := some (r.stopped.getD (status, detail)) }

/-- The device with a context's run stopped, its context kept (R115, R277, R313). -/
def Device.stopRun (d : Device) (c : Nat) (status detail : Byte) : Device :=
  d.setCtx c { d.ctx c with run := (d.ctx c).run.map fun r => r.stop status detail }

/-- The record and the counts of a teardown that begins (R226). -/
def Device.noteTeardown (d : Device) (c core : Nat) (status detail : Byte) : Device :=
  let first := !d.regBit Reg.calSticky 0
  let d := d.addCount Reg.calTdCount 0 16 1
  let d := d.recordIf first Reg.calTdRecord
    (BitVec.ofNat 64 (core % 128 * 2 ^ 24 + detail.toNat * 2 ^ 16 + status.toNat * 2 ^ 8 + c))
  let d := d.recordIf first Reg.calTdTime d.ns
  d.orReg Reg.calSticky 1

/-- A context fault (step 1 of R223): an OPEN context enters TEARING with the status of its run and the detail its record
takes; a context already TEARING counts the fault (R225). `core` is 0xFF where no core faulted. -/
def Device.tearDown (d : Device) (c core : Nat) (status detail recorded : Byte) : Device :=
  match (d.ctx c).st with
  | .closed => d
  | .tearing => d.addCount Reg.calTdCount 16 16 1
  | .opened =>
    let x := d.ctx c
    let d := d.setCtx c { x with
      st := .tearing
      run := x.run.map fun r => r.stop status detail
      teardown := some { status := status, detail := detail, core := BitVec.ofNat 8 core, close := false, drained := false } }
    d.noteTeardown c (if core = 0xFF then (Config.supervisionCore c).toNat else core) status recorded

/-- A fault of a unit of a context on a core. -/
def Device.ctxFault (d : Device) (c core : Nat) (status detail : Byte) : Device :=
  let d := if status = St.streamTag then d.orReg Reg.cfgNumSticky 8 else d
  d.tearDown c core status detail detail

/-- An uncorrectable word that a context's own access met (R49, R174, R181): detail 1 Bench, 2 context bank, 3 Quarry,
4 DDR. The record of a bank error has detail 0 (R226). -/
def Device.ctxUncorr (d : Device) (c core : Nat) (detail : Byte) : Device :=
  (d.latch 9).tearDown c core St.eccUncorr detail (if detail = 2 then 0 else detail)

/-! ### Seats -/

/-- A core's seat in the run of the context it serves. -/
structure Seat where
  core : Nat
  ctx : Nat
  slab : Slab
  run : Run
  replica : Bool
  slabCore : Nat

/-- The place of a number in a list. -/
def placeOf : List Nat → Nat → Option Nat
  | [], _ => none
  | j :: l, k => if j = k then some 0 else (placeOf l k).map (· + 1)

/-- The seat of a core in a context's run, in whatever state the run is. -/
def Device.seatIn (d : Device) (c core : Nat) : Option Seat :=
  match (d.ctx c).run with
  | none => none
  | some r =>
    match tget (d.ctx c).loaded r.slab with
    | some (.slab s) =>
      match placeOf s.primary core with
      | some k => some { core := core, ctx := c, slab := s, run := r, replica := false, slabCore := k }
      | none =>
        (placeOf s.replicaCores core).map fun k =>
          { core := core, ctx := c, slab := s, run := r, replica := true, slabCore := k }
    | _ => none

/-- The seat of a core whose units may issue: usable slice time of an OPEN context with a run that has not been stopped,
on a cluster that is online (R217, R219, R222, R313). -/
def Device.seat (d : Device) (core : Nat) : Option Seat :=
  if d.cfg ≠ .running then none
  else
    match d.usableCtx core with
    | none => none
    | some c =>
      if (d.ctx c).st ≠ .opened || d.unitOff (core / 4) then none
      else (d.seatIn c core).filter fun q => q.run.stopped.isNone

/-- The device with the run of a seat's context changed. -/
def Device.modRun (d : Device) (c : Nat) (f : Run → Run) : Device :=
  d.setCtx c { d.ctx c with run := (d.ctx c).run.map f }

/-! ### Bench accesses of a context (R51) -/

/-- Whether a range of offsets lies within a context's share. -/
def Device.inShare (d : Device) (c off n : Nat) : Bool := decide (off + n ≤ d.shareBytes c)

/-- The physical address of an offset in a context's share on a core. -/
def Device.shareAddr (d : Device) (c core off : Nat) : Nat := benchAddr core (d.shareBase c + off)

/-- Bytes of a context's share on a core. -/
def Device.shareRead (d : Device) (c core off n : Nat) : List Byte := d.rd (d.shareAddr c core off) n

/-- The device with bytes of a context's share on a core written. -/
def Device.shareWrite (d : Device) (c core off : Nat) (bs : List Byte) : Device := d.wr (d.shareAddr c core off) bs

/-! ### Instructions of a unit -/

/-- What an instruction comes to: its effect, a context fault with status and detail, an end of the run that tears nothing
down, or nothing yet. -/
inductive Did where
  | done (d : Device) (b : Bank)
  | fault (status detail : Byte)
  | ends (d : Device) (status detail : Byte)
  | hold

/-- The state of a unit in a bank. -/
def Bank.unit (b : Bank) : UnitKind → UnitState
  | .exec => b.exec
  | .load => b.load
  | .store => b.store

/-- The bank with the state of a unit replaced. -/
def Bank.setUnit (b : Bank) (k : UnitKind) (u : UnitState) : Bank :=
  match k with
  | .exec => { b with exec := u }
  | .load => { b with load := u }
  | .store => { b with store := u }

/-- The program position after an instruction. -/
def UnitState.advance (u : UnitState) : UnitState := { u with position := u.position + 1 }

/-- The beat of an execute instruction counted (R330). -/
def Device.countBeat (d : Device) (q : Seat) (k : UnitKind) : Device :=
  if k = .exec then d.modRun q.ctx fun r => { r with beats := tmodD r.beats q.core 0 (· + 1) } else d

/-- The outcome of an instruction put into the device. -/
def Device.settle (d : Device) (q : Seat) (k : UnitKind) : Did → Device
  | .done d' b => d'.setBank q.core q.ctx (b.setUnit k (b.unit k).advance)
  | .fault status detail => d.ctxFault q.ctx q.core status detail
  | .ends d' status detail => d'.stopRun q.ctx status detail
  | .hold => d

/-- The bank in which an execute instruction begins a beat of its own: the row of the beat before it has no partner to come. -/
def Bank.newBeat (b : Bank) (k : UnitKind) : Bank := if k = .exec then { b with openRow := none } else b

/-- An instruction of a unit of a core: issued only where the unit may issue, is not waiting and has not ended (R35, R80,
R83). `shared` says that an execute instruction is issued in the beat of the one before it, which is then counted already. -/
def Device.issueIn (d : Device) (core : Nat) (k : UnitKind) (shared : Bank → Bool) (f : Device → Seat → Bank → Did) : Device :=
  match d.seat core with
  | none => d
  | some q =>
    let b := d.bank core q.ctx
    if (b.unit k).ended || (b.unit k).waiting.isSome then d
    else
      let d' := if shared b then d else d.countBeat q k
      match f d' q (b.newBeat k) with
      | .hold => d
      | r => d'.settle q k r

/-- An instruction that has a beat of its own. -/
def Device.issue (d : Device) (core : Nat) (k : UnitKind) (f : Device → Seat → Bank → Did) : Device :=
  d.issueIn core k (fun _ => false) f

/-- What the codes of the Bench and of the context bank report of an instruction (R49, R213): corrected words are counted,
an uncorrectable word tears the context down and the instruction does not take place. -/
def Device.issueEccIn (d : Device) (u : CoreUse) (k : UnitKind) (shared : Bank → Bool) (f : Device → Seat → Bank → Did) :
    Device :=
  match d.seat u.core with
  | none => d
  | some q =>
    match u.bench, u.bank with
    | .uncorrectable _, _ => d.ctxUncorr q.ctx u.core 1
    | _, .uncorrectable _ => d.ctxUncorr q.ctx u.core 2
    | e, g =>
      let d := match e with
        | .corrected l => d.benchCe u.core l.length
        | _ => d
      let d := match g with
        | .corrected l => d.bankCe u.core l.length
        | _ => d
      d.issueIn u.core k shared f

/-- The same for an instruction that has a beat of its own. -/
def Device.issueEcc (d : Device) (u : CoreUse) (k : UnitKind) (f : Device → Seat → Bank → Did) : Device :=
  d.issueEccIn u k (fun _ => false) f

/-! ### Numbers a run counts (R128, R129) -/

/-- A tally of an instance put into the number records: every saturation into CFG_SAT_TOTAL, those of the primary into the
run's own count. -/
def Device.count (d : Device) (q : Seat) (t : Tally) : Device :=
  let d := if t.sat = 0 then d else (d.addCount Reg.cfgSatTotal 0 32 t.sat).orReg Reg.cfgNumSticky 1
  let d := if t.nan then d.orReg Reg.cfgNumSticky 2 else d
  let d := if t.inf then d.orReg Reg.cfgNumSticky 4 else d
  if t.sat = 0 || q.replica then d
  else d.modRun q.ctx fun r => { r with sat := BitVec.ofNat 32 (holdAdd 32 r.sat.toNat t.sat) }

end Sys2Proof.Machine
end

