-- ==== Sys2Proof/Machine/Memories.lean ====
section
/-!
DEFINITION. The Quarry and the DDR: error records (R174, R175, R181, R185), temperature and refresh (R182, R183), port
credit (R188 to R191), latency misses (R194, R245), count windows and throttling (R197 to R200).
-/

namespace Sys2Proof.Machine

/-! ### Errors of memory words -/

/-- A corrected word counted at the unit that holds its address. -/
def Device.memCe (d : Device) (a : Nat) : Device :=
  match d.region a with
  | .ddr _ => d.addCount (Reg.ddrCe (d.channelOf a)) 0 16 1
  | .quarry q => d.addCount (Reg.qryCe q) 0 16 1
  | .bench core => d.benchCe core 1
  | _ => d

/-- An uncorrectable word recorded at the unit that holds its address (R174, R181, R347). -/
def Device.noteUe (d : Device) (a : Nat) : Device :=
  match d.region a with
  | .ddr _ =>
    let first := d.fld Reg.ddrSticky 8 8 = 0
    let d := d.recordIf first Reg.ddrUeAddr (BitVec.ofNat 64 a)
    let d := d.recordIf first Reg.ddrUeTime d.ns
    (d.orReg Reg.ddrSticky (2 ^ (8 + d.channelOf a))).latch 9
  | .quarry q =>
    let first := d.fld Reg.qrySticky 0 2 = 0
    let d := d.recordIf first Reg.qryUeAddr (BitVec.ofNat 64 a)
    let d := d.recordIf first Reg.qryUeTime d.ns
    (d.orReg Reg.qrySticky (2 ^ q)).latch 9
  | .bench _ => d.latch 9
  | _ => d

/-- The context whose share holds an offset of a core's Bench (R50). -/
def Device.benchOwner (d : Device) (core off : Nat) : Option Nat :=
  (List.range 256).find? fun c => d.ctxValid c && inMask (d.ctxMask c) (core / 4) &&
    decide (d.shareBase c ≤ off) && decide (off < d.shareBase c + d.shareBytes c)

/-- An uncorrectable word of an access that is not a context's own: recorded, and in a Bench the context that owns the granule
is torn down alone (R49). -/
def Device.memUe (d : Device) (a : Nat) : Device :=
  match d.region a with
  | .bench core =>
    match d.benchOwner core (a - benchAddr core 0) with
    | some c => (d.noteUe a).ctxUncorr c core 1
    | none => d.noteUe a
  | _ => d.noteUe a

/-- The corrected words of an access counted. -/
def Device.memCes (d : Device) (a : Nat) (l : List Nat) : Device := l.foldl (fun d i => d.memCe (a + i)) d

/-- The record of what the codes report of an access that begins at an address. -/
def Device.memEcc (d : Device) (a : Nat) : Ecc → Device
  | .clean => d
  | .corrected l => d.memCes a l
  | .uncorrectable i => d.memUe (a + i)

/-- The part of a report that concerns the first bytes of an access. -/
def eccBefore (n : Nat) : Ecc → Ecc
  | .uncorrectable i => if i < n then .uncorrectable i else .clean
  | .corrected l => .corrected (l.filter (· < n))
  | .clean => .clean

/-- The part of a report that concerns what follows the first bytes of an access, counted from there. -/
def eccAfter (n : Nat) : Ecc → Ecc
  | .uncorrectable i => if i < n then .clean else .uncorrectable (i - n)
  | .corrected l => .corrected ((l.filter (n ≤ ·)).map (· - n))
  | .clean => .clean

/-- The ECC_UNCORR detail of an address: 1 Bench, 3 Quarry, 4 DDR (R264). -/
def Device.eccDetail (d : Device) (a : Nat) : Byte :=
  match d.region a with
  | .bench _ => 0x01
  | .quarry _ => 0x03
  | _ => 0x04

/-! ### Port regulators (R188 to R191) -/

/-- The least common multiple of 1 to 24: grants count in this fraction of a B/s, so that equal division among cluster
groups is exact (R189, R191). -/
def rateUnit : Nat := 5354228880

/-- The credit a bucket holds at most, in units of 10⁻⁸ / rateUnit B: 4,096 B. -/
def creditCap : Nat := 4096 * 100000000 * rateUnit

/-- The credit a line needs. -/
def creditLine : Nat := 64 * 100000000 * rateUnit

/-- The bucket of a port, an owner and a class: slab grants are held by context, the other grants by owner 256. -/
def bucketKey (port owner cls : Nat) : Nat := (port * 512 + owner) * 8 + cls

/-- The credit in a bucket; the table lists what has been used of a full one. -/
def Device.credit (d : Device) (k : Nat) : Nat := creditCap - tgetD d.buckets k 0

/-- The device with credit taken from a bucket. -/
def Device.useCredit (d : Device) (k n : Nat) : Device :=
  { d with buckets := tputD d.buckets k (min creditCap (tgetD d.buckets k 0 + n)) 0 }

/-- The grants of the slabs loaded in a context at a port, in one class, in units of B/s / rateUnit (R189). -/
def Device.slabGrant (d : Device) (ctx port cls : Nat) : Nat :=
  ((tvals (d.ctx ctx).loaded).map fun l => match l with
    | .slab s => ((s.grants.filter fun g => g.port = port && g.cls = cls).map (·.rate)).sum
    | .package _ => 0).sum

/-- The number of clusters of the valid legacy partitions. -/
def Device.legacyClusters (d : Device) : Nat :=
  (((List.range 16).filter fun p => d.partValid p && d.partLegacy p).map fun p =>
    (maskClusters (d.partMask p)).length).sum

/-- The rate of a bucket in units of B/s / rateUnit: slab grants, the share of a legacy cluster (R191), or a fixed port's grant (R190). -/
def Device.bucketRate (d : Device) (port owner cls : Nat) : Nat :=
  if owner < 256 then d.slabGrant owner port cls
  else if port < 24 then d.fld (Reg.mrgLegacyGrant cls) 0 32 * 1000000 * rateUnit / max 1 d.legacyClusters
  else d.fld (Reg.mrgPortGrant port cls) 0 32 * 1000000 * rateUnit

/-- One reference tick of credit in every bucket that is not full: its grant × 10 ns. -/
def Device.refill (d : Device) : Device :=
  { d with buckets := d.buckets.filterMap fun e =>
      let port := e.1 / 8 / 512
      let used := e.2 - d.bucketRate port (e.1 / 8 % 512) (e.1 % 8)
      if used = 0 then none else some (e.1, used) }

/-- The steps in force on a DDR half: 8 throttles BEST, c a TARGET class (R198). -/
def Device.throttleSteps (d : Device) (half : Nat) : List Nat := if half = 0 then d.half0.steps else d.half1.steps

/-- Whether the port regulators hold transactions of a class, or only its excess, to an address. -/
def Device.throttled (d : Device) (a cls : Nat) (excess : Bool) : Bool :=
  match d.region a with
  | .ddr h =>
    let st := d.throttleSteps h
    (st.contains 8 && (d.classKind cls = 0 || (d.classKind cls = 1 && excess))) ||
      (d.classKind cls = 1 && st.contains cls)
  | _ => false

/-- One transaction of a line at a port (R187, R188, R198): none where it waits, else whether it is issued as excess, and the
device with its credit taken. What goes to no Quarry and no DDR passes no regulator. -/
def Device.lineIssue (d : Device) (port owner a : Nat) : Option (Bool × Device) :=
  let cls := d.classOf a
  let k := bucketKey port owner cls
  let fits := decide (creditLine ≤ d.credit k)
  if !d.inMemory a 1 then some (false, d)
  else
    match d.classKind cls with
    | 2 => if fits then some (false, d.useCredit k creditLine) else none
    | 1 =>
      if d.throttled a cls false then none
      else if fits then some (false, d.useCredit k creditLine)
      else if d.throttled a cls true then none
      else some (true, d)
    | _ => if d.throttled a cls false then none else some (false, d)

/-- Lines passed by a port in their order, each classed by its own address, up to the first that waits: how many, whether one was
excess, and the device with the credit taken. -/
def Device.linesIssue (d : Device) (port owner : Nat) : List Nat → Nat × Bool × Device
  | [] => (0, false, d)
  | a :: l =>
    match d.lineIssue port owner a with
    | none => (0, false, d)
    | some (x, d) =>
      let r := d.linesIssue port owner l
      (r.1 + 1, x || r.2.1, r.2.2)

/-- The addresses of the lines that a range touches. -/
def lineAddrs (a n : Nat) : List Nat :=
  if n = 0 then [] else (List.range ((a + n - 1) / 64 + 1 - a / 64)).map fun i => 64 * (a / 64 + i)

/-! ### Host caches and coherent accesses (R285, R288, R289) -/

/-- A line of the host caches given up: a changed one is written back. -/
def Device.dropLine (d : Device) (line : Nat) : Device :=
  match tget d.hostCache (line / 64) with
  | some h =>
    let d := match h.dirty with
      | some _ => d.wr line (h.data.take 64)
      | none => d
    { d with hostCache := tdel d.hostCache (line / 64) }
  | none => d

/-- The lines of a range given up by the host caches. -/
def Device.dropLines (d : Device) (a n : Nat) : Device := (lineAddrs a n).foldl (fun d l => d.dropLine l) d

/-- A coherent read: the newest value of each line, one held changed in a host cache among them (R288). -/
def Device.coRead (d : Device) (a n : Nat) : List Byte := (d.dropLines a n).rd a n

/-- A coherent write: no host cache holds a copy of its lines any longer (R288), and no hart a reservation of one (R286). -/
def Device.coWrite (d : Device) (a : Nat) (bs : List Byte) : Device :=
  let d := (d.dropLines a bs.length).wr a bs
  { d with reservations := d.reservations.filter fun e => !(lineAddrs a bs.length).contains (64 * e.2) }

/-! ### Bytes served (R179, R194) -/

/-- The channel that serves an address: the DDR channels 0 to 7, the Quarries 8 and 9. -/
def Device.serverOf (d : Device) (a : Nat) : Option Nat :=
  match d.region a with
  | .ddr _ => some (d.channelOf a)
  | .quarry q => some (8 + q)
  | _ => none

/-- The bytes that one access to a line counts as: a write to a part of a DDR line is a read and a write of it (R179). -/
def Device.lineCost (d : Device) (a n : Nat) (write : Bool) : Nat :=
  match d.region a with
  | .ddr _ => if write && decide (n < 64) then 128 else 64
  | _ => 64

/-- The bytes of a line that a range covers. -/
def lineShare (a n line : Nat) : Nat := min (a + n) (line + 64) - max a line

/-- One line of an access served: its bytes counted in its class at its channel (R194). -/
def Device.serveLine (d : Device) (line n : Nat) (write : Bool) : Device :=
  match d.serverOf line with
  | some ch => { d with served := tmodD d.served (8 * ch + d.classOf line) 0 (· + d.lineCost line n write) }
  | none => d

/-- An access served, line by line. -/
def Device.serve (d : Device) (a n : Nat) (write : Bool) : Device :=
  (lineAddrs a n).foldl (fun d l => d.serveLine l (lineShare a n l) write) d

/-! ### Fixed ports (R188, R190) -/

/-- The host coherent port of a host core (the table "Regulated ports"). -/
def hostPort (n : Nat) : Nat := 24 + n / 6

/-- The port of a fabric bridge; the copy engine shares the first (R259). -/
def bridgePort : Pc → Nat
  | .a => 28
  | .b => 29

/-- The port of a requester. -/
def whoPort : Who → Nat
  | .host n => hostPort n.val
  | .island _ => 36
  | .bridge c => bridgePort c

/-- The lines of an access that a fixed port has issued so far. -/
def Device.portDone (d : Device) (port a n : Nat) : Nat :=
  match d.portWaits.find? fun w => w.port = port && w.addr = a && w.bytes = n with
  | some w => w.issued
  | none => 0

/-- The waiting accesses without one. -/
def Device.portForget (d : Device) (port a n : Nat) : List PortWait :=
  d.portWaits.filter fun w => !(w.port = port && w.addr = a && w.bytes = n)

/-- The lines of an access, named by its first byte and length, at a port (R188, R190, R198): where all have been issued the access
goes on; where one waits, the access waits with it, and what has been issued is kept. -/
def Device.passLines (d : Device) (port a n : Nat) (lines : List Nat) : Bool × Device :=
  let before := d.portDone port a n
  let r := d.linesIssue port 256 (lines.drop before)
  let rest := r.2.2.portForget port a n
  if before + r.1 < lines.length then
    (false, { r.2.2 with portWaits := rest ++ [{ port := port, addr := a, bytes := n, issued := before + r.1 }] })
  else (true, { r.2.2 with portWaits := rest })

/-- An access at a port, served once all its lines have been issued. -/
def Device.pass (d : Device) (port a n : Nat) (write : Bool) : Bool × Device :=
  let r := d.passLines port a n (lineAddrs a n)
  (r.1, if r.1 then r.2.serve a n write else r.2)

/-- The effect of an access that a fixed port has let through; until then nothing but the port's credit changes. -/
def Device.via (d : Device) (port a n : Nat) (write : Bool) (f : Device → Device) : Device :=
  let r := d.pass port a n write
  if r.1 then f r.2 else r.2

/-- The effect of a move of bytes, whose reads and writes have all passed a port. -/
def Device.viaMove (d : Device) (port src dst n : Nat) (f : Device → Device) : Device :=
  let r := d.passLines port src (2 * n) (lineAddrs src n ++ lineAddrs dst n)
  if r.1 then f ((r.2.serve src n false).serve dst n true) else r.2

/-- Whether the first line of an access would wait at a port. -/
def Device.portHolds (d : Device) (port a : Nat) : Bool := (d.lineIssue port 256 a).isNone

/-- An access at a fixed port that its command has waited for with others: its credit is taken where there is some, and it is
served. -/
def Device.charge (d : Device) (port a n : Nat) (write : Bool) : Device :=
  ((d.linesIssue port 256 (lineAddrs a n)).2.2).serve a n write

/-! ### The log of written pages (R272, R273) -/

/-- The number of 8-byte bitmap words a window takes. -/
def Window.logWords (w : Window) : Nat := ceilDiv ((w.limit + 1 - w.base) / 0x1000) 64

/-- The bitmap bit of a page: the writable windows of the tenancy in ascending index, each with its words. -/
def logBitOf : List Window → Nat → Nat → Option Nat
  | [], _, _ => none
  | w :: ws, words, a =>
    if !w.write then logBitOf ws words a
    else if w.base ≤ a && a ≤ w.limit then some (words * 64 + (a - w.base) / 0x1000)
    else logBitOf ws (words + w.logWords) a

/-- The device with one bit of a bitmap set, through port 28 (R259, R272). -/
def Device.putBit (d : Device) (e : Nat × Nat) : Device :=
  let a := e.1 + e.2 / 8
  let d := d.charge 28 a 1 true
  d.coWrite a [(d.coRead a 1).headD 0 ||| BitVec.ofNat 8 (2 ^ (e.2 % 8))]

/-- The bits that wait at port 28 set in their order, up to the first that the port still holds (R273). -/
def Device.flushBits : List (Nat × Nat) → Device → Device
  | [], d => { d with bitmapHeld := [] }
  | e :: l, d => if d.portHolds 28 (e.1 + e.2 / 8) then { d with bitmapHeld := e :: l } else Device.flushBits l (d.putBit e)

/-- The device with a bit of a bitmap due: set where port 28 lets it, behind those that wait there (R273). -/
def Device.markBit (d : Device) (e : Nat × Nat) : Device := Device.flushBits (d.bitmapHeld ++ [e]) d

/-- The bits of the pages of a written range, `n` pages from the first. -/
def logBits (x : Tenancy) (a : Nat) : Nat → List Nat
  | 0 => []
  | n + 1 => (logBitOf (tvals x.windows) 0 a).toList ++ logBits x (a + 0x1000) n

/-- The number of 4 KiB pages a range touches. -/
def pagesOf (a n : Nat) : Nat := if n = 0 then 0 else (a + n - 1) / 0x1000 - a / 0x1000 + 1

/-- The device with the pages of a write on behalf of a tenancy marked in the log in force, at the write's issue. -/
def Device.logWrite (d : Device) (t a n : Nat) : Device :=
  match (d.ten t).log with
  | some bitmap =>
    (logBits (d.ten t) (a / 0x1000 * 0x1000) (pagesOf a n)).foldl (fun d b => d.markBit (bitmap, b)) d
  | none => d

/-- The device with bytes written on behalf of a tenancy. -/
def Device.tenWrite (d : Device) (t a : Nat) (bs : List Byte) : Device := (d.logWrite t a bs.length).wr a bs

/-! ### Latency misses (R194, R245) -/

/-- A transaction that completed after its class's target (R194). -/
def Device.latencyMiss (d : Device) (cls : Nat) : Device :=
  ((d.addCount (Reg.mrgMissCount cls) 0 16 1).orReg Reg.mrgMissSticky (2 ^ cls)).raise 68

/-- The check of a completion time in nanoseconds against the target of an address's class; a BEST class has none. -/
def Device.checkLatency (d : Device) (a elapsed : Nat) : Device :=
  let c := d.classOf a
  if d.inMemory a 1 && d.classKind c ≠ 0 && decide (d.fld (Reg.mrgClass c) 12 20 < elapsed) then d.latencyMiss c else d

/-- Whether an address lies in a PCIe outbound range. -/
def Device.isOutbound (d : Device) (a : Nat) : Bool :=
  match d.region a with
  | .outbound _ _ => true
  | _ => false

/-- The check of a completion time, or of a wait for link credit, against the latency of a tenancy's outbound window (R245). -/
def Device.checkWindowLatency (d : Device) (t a elapsed : Nat) : Device :=
  match (d.ten t).windows.find? fun e => e.2.covers a 1 with
  | some (w, x) =>
    if d.isOutbound x.base && decide (x.latency < elapsed) then
      (d.addCount (Reg.hifWinMiss t w) 0 16 1).orReg Reg.hifSticky 8
    else d
  | none => d

/-! ### Count windows and throttling (R197 to R200) -/

/-- The bytes of a class that a channel has served in the window in progress. -/
def Device.servedBytes (d : Device) (ch c : Nat) : Nat := tgetD d.served (8 * ch + c) 0

/-- The reservation of a class on a DDR half, in units of 10⁶ B/s. -/
def Device.resDdr (d : Device) (half c : Nat) : Nat :=
  d.fld (if half = 0 then Reg.mrgClassResDdr0 c else Reg.mrgClassResDdr1 c) 0 32

/-- Whether a class is short on a channel at the end of a window (R197). -/
def Device.shortOn (d : Device) (w : DdrWindow) (ch c : Nat) : Bool :=
  let res := d.resDdr (ch / 4) c
  (d.classKind c = 1 || d.classKind c = 2) && decide (0 < res) &&
    w.waiting.any (fun e => e.1.val = ch && e.2.val = c) &&
    decide (d.servedBytes ch c * 400 < res * d.fld Reg.ddrCntWindow 0 20)

/-- The classes short on a half. -/
def Device.shortClasses (d : Device) (w : DdrWindow) (half : Nat) : List Nat :=
  (List.range 8).filter fun c => (List.range 4).any fun i => d.shortOn w (4 * half + i) c

/-- Whether a class has a valid regulation window in a half. -/
def Device.classInHalf (d : Device) (half c : Nat) : Bool :=
  (List.range 16).any fun w => d.regBit (Reg.mrgWinAttr w) 0 && d.fld (Reg.mrgWinAttr w) 4 3 = c &&
    d.region (d.reg (Reg.mrgWinBase w)).toNat = .ddr half

/-- The TARGET class that step 2 of R198 takes next. -/
def Device.nextTarget (d : Device) (half : Nat) : Option Nat :=
  let crit := fun c => d.fld (Reg.mrgClass c) 4 3
  let l := (List.range 8).filter fun c =>
    d.classKind c = 1 && d.classInHalf half c && !(d.throttleSteps half).contains c
  l.foldl (fun best c => match best with
    | none => some c
    | some b => if crit c < crit b then some c else some b) none

/-- The device with the regulation of a half replaced. -/
def Device.setHalf (d : Device) (half : Nat) (h : HalfReg) : Device :=
  if half = 0 then { d with half0 := h } else { d with half1 := h }

/-- The Almanac time written for each of some classes. -/
def Device.stampClasses (d : Device) (l : List Nat) : Device :=
  l.foldl (fun d c => d.setReg (Reg.mrgThrottleTime c) d.ns) d

/-- A throttle step taken on a half, with its records (R198, R200, R347). -/
def Device.throttleStep (d : Device) (half : Nat) : Device :=
  let steps := d.throttleSteps half
  let note := fun (d : Device) (st bit : Nat) (l : List Nat) =>
    let d := d.setHalf half { clean := 0, steps := st :: steps }
    let d := d.orReg Reg.mrgThrottleSticky (2 ^ bit)
    let d := d.addCount Reg.mrgThrottleSteps 0 16 1
    ((d.stampClasses l).raise 69).latch 12
  if !steps.contains 8 then note d 8 half ((List.range 8).filter fun c => d.classKind c = 0)
  else
    match d.nextTarget half with
    | some c => note d c (16 + 8 * half + c) [c]
    | none => d.setHalf half { clean := 0, steps := steps }

/-- A window without a short class on a half (R199). -/
def Device.cleanWindow (d : Device) (half : Nat) : Device :=
  let h := if half = 0 then d.half0 else d.half1
  let clean := min 64 (h.clean + 1)
  match h.steps with
  | _ :: rest =>
    if clean = 64 then (d.setHalf half { clean := clean, steps := rest }).addCount Reg.mrgThrottleSteps 16 16 1
    else d.setHalf half { h with clean := clean }
  | [] => d.setHalf half { h with clean := clean }

/-- One half judged at the end of a window. -/
def Device.judgeHalf (d : Device) (w : DdrWindow) (half : Nat) : Device :=
  match d.shortClasses w half with
  | [] => d.cleanWindow half
  | l => (l.foldl (fun d c => d.orReg Reg.mrgShortSticky (2 ^ (8 * half + c))) d).throttleStep half

/-- The counts of a window copied to the registers (R194). -/
def Device.copyCounts (d : Device) : Device :=
  let d := (List.range 64).foldl (fun d i =>
    d.setReg (Reg.ddrBytes (i / 8) (i % 8)) (BitVec.ofNat 64 (d.servedBytes (i / 8) (i % 8) % 2 ^ 32))) d
  (List.range 16).foldl (fun d i =>
    d.setReg (Reg.qryBytes (i / 8) (i % 8)) (BitVec.ofNat 64 (d.servedBytes (8 + i / 8) (i % 8) / 64 % 2 ^ 32))) d

/-! ### The commands -/

/-- DDR_TEMP_READ (R182, R183). -/
def execDdrTempRead (channel : Fin 8) (above85 above95 : Bool) (s : State) : Host.Outcome State Fault Refusal :=
  actPaced (.temperature channel) s fun d =>
    let d := d.setFld Reg.ddrStatus (8 + channel.val) 1 (if above85 || above95 then 1 else 0)
    if above95 then d.orReg Reg.ddrSticky (2 ^ (16 + channel.val)) else d

/-- DDR_COUNT_WINDOW_END (R194, R197 to R200). -/
def execDdrCountWindowEnd (w : DdrWindow) (s : State) : Host.Outcome State Fault Refusal :=
  actPaced .countWindow s fun d => { ((d.copyCounts).judgeHalf w 0).judgeHalf w 1 with served := [] }

/-- QUARRY_PATROL (R175). -/
def execQuarryPatrol (q : Fin 2) (line : Fin 3145728) (ecc : Ecc) (s : State) : Host.Outcome State Fault Refusal :=
  actLive s fun d => d.memEcc (0x4000000000 + q.val * 0xC000000 + 64 * line.val) ecc

/-- DDR_PATROL (R185): the line lies on the channel. -/
def execDdrPatrol (channel : Fin 8) (addr : Nat) (ecc : Ecc) (s : State) : Host.Outcome State Fault Refusal :=
  actLive s fun d =>
    if decide (addr < 2 * d.ddrHalf) && d.channelOf addr = channel.val && !d.tooSoon (.patrol channel) then
      (d.noted (.patrol channel)).memEcc addr ecc
    else d

/-- DDR_REFRESH (R182): the command is issued whatever the traffic; the model counts it (log entry 15). -/
def execDdrRefresh (channel : Fin 8) (managed : Bool) (s : State) : Host.Outcome State Fault Refusal :=
  actLive s fun d =>
    { d with refreshes := tmodD d.refreshes (2 * channel.val + if managed then 1 else 0) 0 (· + 1) }

end Sys2Proof.Machine
end

