-- ==== Sys2Proof/Machine/Engines.lean ====
section
/-!
DEFINITION. The matrix engines: MATMUL, WTLOAD, ACCSWAP with the drain stage, SETREG, and the feed of a walk plan (R36 to
R41, R130 to R139, R143, R149 to R159). Weight tiles hold element (k, n) at place n × K + k, the order in which a Sett4
column holds its blocks (log entry 6).
-/

namespace Sys2Proof.Machine

/-! ### Modes (R36) -/

/-- The rows of a weight tile, which is the length of an activation row. -/
def modeK : EngineMode → Nat
  | .int8 | .fp8 => 64
  | .int4 | .sett4 => 128
  | .bf16 | .fp16 => 32

/-- The columns of a weight tile, which is the entries of an accumulator row that a beat updates. -/
def modeN : EngineMode → Nat
  | .int8 | .fp8 | .int4 | .sett4 => 64
  | .bf16 | .fp16 => 32

/-- Whether a mode accumulates integers. -/
def modeInt : EngineMode → Bool
  | .int8 | .int4 => true
  | _ => false

/-- The bytes of the codes of a weight tile, with the weight format. -/
def tileBytes (m : EngineMode) (f : Fmt) : Nat :=
  match m with
  | .sett4 => 4096
  | _ => elemBytes f (modeK m * modeN m)

/-- The weight format a mode takes where the instruction's is not one of the mode's own (the table "Engine modes"). -/
def modeWeight (m : EngineMode) (f : Fmt) : Fmt :=
  match m with
  | .int8 => if f = .uint8 then .uint8 else .int8
  | .int4 | .sett4 => .int4
  | .fp8 => if f = .e5m2 then .e5m2 else .e4m3
  | .bf16 => .bf16
  | .fp16 => .fp16

/-- The activation format a mode takes. -/
def modeActivation (m : EngineMode) (f : Fmt) : Fmt :=
  match m with
  | .int8 => if f = .uint8 then .uint8 else .int8
  | .int4 => if f = .int4 then .int4 else .int8
  | .sett4 => .int8
  | .fp8 => if f = .e5m2 then .e5m2 else .e4m3
  | .bf16 => .bf16
  | .fp16 => .fp16

/-! ### Parts of an engine -/

/-- An engine of a bank. -/
def Bank.eng (b : Bank) (e : Fin 2) : Engine := if e = 0 then b.eng0 else b.eng1

/-- The bank with an engine replaced. -/
def Bank.setEng (b : Bank) (e : Fin 2) (x : Engine) : Bank :=
  if e = 0 then { b with eng0 := x } else { b with eng1 := x }

/-- The weight register the engine computes from. -/
def Engine.computing (e : Engine) : WeightReg := if e.active then e.w1 else e.w0

/-- The accumulator bank that takes updates. -/
def Engine.updating (e : Engine) : AccBank := if e.filling then e.a1 else e.a0

/-- The engine with the accumulator bank that takes updates replaced. -/
def Engine.setUpdating (e : Engine) (a : AccBank) : Engine := if e.filling then { e with a1 := a } else { e with a0 := a }

/-- An accumulator entry as an integer mode takes it. -/
def AccVal.asInt : AccVal → Int
  | .int v => v
  | .fp b => Config.accAsInt b

/-- An accumulator entry as FP32. -/
def AccVal.asFp : AccVal → Half
  | .int v => if v = 0 then 0 else Config.accAsFp v
  | .fp b => b

/-- A cleared entry. -/
def AccVal.zero : AccVal := .int 0

/-! ### The feed of a walk (R151 to R154, R158) -/

/-- The effective extent of a filter's rows. -/
def planEh (p : WalkPlan) : Nat := p.dh * (p.fh - 1) + 1

/-- The effective extent of a filter's columns. -/
def planEw (p : WalkPlan) : Nat := p.dw * (p.fw - 1) + 1

/-- The output height (R157). -/
def planH (p : WalkPlan) : Nat :=
  if (planEh p) ≤ p.height + p.pt + p.pb then (p.height + p.pt + p.pb - (planEh p)) / p.sh + 1 else 0

/-- The output width (R157). -/
def planW (p : WalkPlan) : Nat :=
  if (planEw p) ≤ p.width + p.pl + p.pr then (p.width + p.pl + p.pr - (planEw p)) / p.sw + 1 else 0

/-- The input row of a tap, which may lie in padding. -/
def planTapRow (p : WalkPlan) (i r : Nat) : Int := (i * p.sh + r * p.dh : Nat) - (p.pt : Int)

/-- The input column of a tap. -/
def planTapCol (p : WalkPlan) (j s : Nat) : Int := (j * p.sw + s * p.dw : Nat) - (p.pl : Int)

/-- Whether an input index lies in the input. -/
def inputIdx (n : Nat) (i : Int) : Bool := decide (0 ≤ i) && decide (i < n)

/-- Whether some tap of some window falls on an input row (R159). -/
def planTouchesRow (p : WalkPlan) (y : Nat) : Bool :=
  (List.range p.fh).any fun r => decide (r * p.dh ≤ y + p.pt) && (y + p.pt - r * p.dh) % p.sh = 0 &&
    decide ((y + p.pt - r * p.dh) / p.sh < (planH p))

/-- Whether some tap of some window falls on an input column. -/
def planTouchesCol (p : WalkPlan) (x : Nat) : Bool :=
  (List.range p.fw).any fun s => decide (s * p.dw ≤ x + p.pl) && (x + p.pl - s * p.dw) % p.sw = 0 &&
    decide ((x + p.pl - s * p.dw) / p.sw < (planW p))

/-- Whether a tap that falls in the padding above or below takes its value from an input row (R158). -/
def planClampsRow (p : WalkPlan) (y : Nat) : Bool :=
  (List.range (planH p)).any fun i => (List.range p.fh).any fun r =>
    !inputIdx p.height (planTapRow p i r) && min (planTapRow p i r).toNat (p.height - 1) = y

/-- Whether a tap that falls in the padding left or right takes its value from an input column. -/
def planClampsCol (p : WalkPlan) (x : Nat) : Bool :=
  (List.range (planW p)).any fun j => (List.range p.fw).any fun s =>
    !inputIdx p.width (planTapCol p j s) && min (planTapCol p j s).toNat (p.width - 1) = x

/-- The rows a walk fetches, ascending: those that a tap falls on, or that a padded tap of EDGE takes its value from (R158,
R159; log entry 40). -/
def planRows (p : WalkPlan) : List Nat :=
  (List.range p.height).filter fun y =>
    planTouchesRow p y || (p.pad = .edge && planClampsRow p y)

/-- The bytes of one row segment (R149). -/
def planSegBytes (p : WalkPlan) : Nat := elemBytes p.fmt (p.wPitch * p.block)

/-- The fill value of a map (R149): its zero point for INT8 and UINT8, 0 for INT4, +0 for a floating-point format. -/
def planFill (p : WalkPlan) : Nat :=
  match p.fmt with
  | .int8 | .uint8 => p.fill % 256
  | _ => 0

/-- The bytes of one row, all its groups, which is one slot of the line buffer. -/
def planRowBytes (p : WalkPlan) : Nat := p.groups * (planSegBytes p)

/-- Whether an element format is one of the blocked layouts that the engines take, or FP32, which the vector unit alone takes. -/
def planFmtOk (p : WalkPlan) : Bool :=
  match p.fmt with
  | .int32 => false
  | .fp32 => p.toVector
  | _ => true

/-- Whether a map keeps R149 and R150: block width, groups, pitch, rows, and row segments of whole lines. -/
def planMapOk (p : WalkPlan) : Bool :=
  (p.block = 16 || p.block = 32) && planFmtOk p && decide (1 ≤ p.groups) && decide (p.groups ≤ 256) &&
    decide (1 ≤ p.height) && decide (p.height ≤ 65535) && decide (1 ≤ p.width) && decide (p.width ≤ p.wPitch) &&
    decide (p.wPitch ≤ 16384) && p.wPitch * p.block * fmtBits p.fmt % 512 = 0

/-- Whether a number lies in a range of the table "Walk plan parameters". -/
def within (lo hi n : Nat) : Bool := decide (lo ≤ n) && decide (n ≤ hi)

/-- Whether a plan keeps the table "Walk plan parameters" (R152). -/
def planOk (p : WalkPlan) : Bool :=
  planMapOk p && within 1 7 p.fh && within 1 7 p.fw && within 1 8 p.sh && within 1 8 p.sw && within 1 4 p.dh &&
    within 1 4 p.dw && within 0 (min 15 (planEh p - 1)) p.pt && within 0 (min 15 (planEh p - 1)) p.pb &&
    within 0 (min 15 (planEw p - 1)) p.pl && within 0 (min 15 (planEw p - 1)) p.pr &&
    (p.pad ≠ .none || p.pt + p.pb + p.pl + p.pr = 0) && within (planEh p) 32 p.slots

/-- Whether a codec may be the ordinary one of a map (R167, R168): a cut codec takes 8-bit integers and whole lines. -/
def ordinaryOk (f : Fmt) (seg : Nat) : Codec → Bool
  | .none => true
  | .cut2 s => f = (if s then .int8 else .uint8) && seg % 128 = 0
  | .cut3 s => f = (if s then .int8 else .uint8) && seg % 192 = 0
  | .zero _ _ => false

/-- Whether a WALK keeps R149, R150, R152 and R167: its plan, the alignment of its map, its codecs and its privileged groups. -/
def walkOk (op : WalkOp) : Bool :=
  planOk op.plan && op.base % 64 = 0 && ordinaryOk op.plan.fmt (planSegBytes op.plan) op.codec &&
    decide (op.privileged.length ≤ ceilDiv op.plan.groups 4) && op.privileged.all (fun g => decide (g < op.plan.groups)) &&
    (op.privileged.isEmpty || fmtBits op.plan.fmt = 8 || fmtBits op.plan.fmt = 16)

/-- The Bench offset of an element of a row in the line buffer ring. -/
def WalkState.elemAt (w : WalkState) (y x g c : Nat) : Nat × Nat :=
  let p := w.op.plan
  let slot := (placeOf (planRows p) y).getD 0 % p.slots
  (w.op.lines + slot * (planRowBytes p) + g * (planSegBytes p), x * p.block + c)

/-- Where the value of one element of a tap comes from: a fill value, or an element of bytes in the Bench. -/
inductive FeedSrc where
  | fill (bits : Nat)
  | elem (offset index : Nat)
  deriving DecidableEq, Repr

/-- The source of a tap's element (R158). -/
def WalkState.tap (w : WalkState) (i j r s g c : Nat) : FeedSrc :=
  let p := w.op.plan
  let y := planTapRow p i r
  let x := planTapCol p j s
  if inputIdx p.height y && inputIdx p.width x then
    let e := w.elemAt y.toNat x.toNat g c
    .elem e.1 e.2
  else if p.pad = .edge then
    let e := w.elemAt (min y.toNat (p.height - 1)) (min x.toNat (p.width - 1)) g c
    .elem e.1 e.2
  else .fill (planFill p)

/-- The source of the reduction index k of an output pixel (R151); a completed index is a zero value. -/
def WalkState.atK (w : WalkState) (i j k : Nat) : FeedSrc :=
  let p := w.op.plan
  let c := k % p.block
  let g := k / p.block % p.groups
  let t := k / p.block / p.groups
  if p.fh * p.fw ≤ t then .fill 0 else w.tap i j (t / p.fw) (t % p.fw) g c

/-- The Bench range that a source reads, as offset and bytes. -/
def feedRange (f : Fmt) : FeedSrc → Option (Nat × Nat)
  | .fill _ => none
  | .elem off i => some (off + i * fmtBits f / 8, ceilDiv (fmtBits f) 8)

/-- The bits of a source. -/
def Device.feedBits (d : Device) (q : Seat) (f : Fmt) : FeedSrc → Nat
  | .fill b => b
  | .elem off i =>
    let at_ := off + i * fmtBits f / 8
    let bs := d.shareRead q.ctx q.core at_ (ceilDiv (fmtBits f) 8)
    if f = .int4 then elemOf .int4 bs (i % 2) else natOfBytes bs

/-- The elements of sources, or none where one lies outside the share. -/
def Device.feedAll (d : Device) (q : Seat) (f : Fmt) (l : List FeedSrc) : Option (List Nat) :=
  if l.all fun s => match feedRange f s with
    | none => true
    | some r => d.inShare q.ctx r.1 r.2
  then some (l.map (d.feedBits q f)) else none

/-- Whether a plan is in force that feeds a consumer (R152). -/
def Bank.feeds (b : Bank) (toVector : Bool) : Bool := b.walk.any fun w => w.op.plan.toVector == toVector

/-- The elements of an activation row, or none where a read leaves the share. -/
def Device.activations (d : Device) (q : Seat) (b : Bank) (m : EngineMode) (f : Fmt) : ActSource → Option (List Nat)
  | .bench off =>
    let n := modeK m
    if d.inShare q.ctx off (elemBytes f n) then
      let bs := d.shareRead q.ctx q.core off (elemBytes f n)
      some ((List.range n).map (elemOf f bs))
    else none
  | .feed i j row =>
    match b.walk with
    | none => some (List.replicate (modeK m) 0)
    | some w => d.feedAll q f ((List.range (modeK m)).map fun t => w.atK i j (row * modeK m + t))

/-! ### Weight registers (R37, R137, R138, R143) -/

/-- The sequence tag of the block at a Bench offset, where a load streamer filled the buffer with tags (R142). -/
def Bank.tagAt (b : Bank) (off : Nat) : Option Nat :=
  match (b.bufferTags.filter fun e => decide (e.1 ≤ off)).getLast? with
  | some (start, first, size, count) =>
    let i := (off - start) / max size 1
    if i < count then some ((first + i) % 64) else none
  | none => none

/-- The stream fault causes of R143. -/
def causeScaleTag : Byte := 0x01
/-- SCALE_RESERVED. -/
def causeScaleReserved : Byte := 0x02
/-- ESCAPE_COUNT. -/
def causeEscapeCount : Byte := 0x03
/-- SPALL_TAG. -/
def causeSpallTag : Byte := 0x04
/-- SPALL_POSITION. -/
def causeSpallPosition : Byte := 0x05

/-- The positions of the escape codes among codes. -/
def escapesOf (codes : List Nat) : List Nat :=
  (List.range codes.length).filter fun j => isEscape (codes.getD j 0)

/-- Checks spall entries against the escapes they are matched to, in order. -/
def spallCheck (tag : Nat) : List Nat → List Spall → Option Byte
  | [], _ => none
  | j :: js, e :: es =>
    if e.tag ≠ tag then some causeSpallTag else if e.position ≠ j then some causeSpallPosition else spallCheck tag js es
  | _ :: _, [] => some causeSpallTag

/-- The checks of one block where its codes meet its scale: tags, scale byte, escapes and spall entries (R143). -/
def blockCheck (codeTag scaleTag : Option Nat) (scale : Byte) (escapes : List Nat) (spalls : List Spall) : Option Byte :=
  if codeTag ≠ scaleTag then some causeScaleTag
  else if scale = 0xFF then some causeScaleReserved
  else if 4 < escapes.length then some causeEscapeCount
  else spallCheck (codeTag.getD 0) escapes spalls

/-- The spall entries that bytes hold. -/
def spallsOf (bs : List Byte) : List Spall := (List.range (bs.length / 4)).map fun i => spallOf (fieldAt bs (4 * i) 4)

/-- Takes the spall entries of a Sett4 tile block by block: a stream fault, or the table of values by 32 × block + position. -/
def tileSpalls (b : Bank) (op : WtloadOp) (codes scales : List Byte) :
    Nat → Nat → List Spall → Table (BitVec 16) → Except Byte (Table (BitVec 16))
  | 0, _, _, acc => .ok acc
  | n + 1, blk, sp, acc =>
    let cs := (List.range 32).map fun j => elemOf .int4 codes (32 * blk + j)
    let esc := escapesOf cs
    match blockCheck (b.tagAt (op.codes + 16 * blk)) (b.tagAt (op.scales + blk)) (scales.getD blk 0) esc sp with
    | some cause => .error cause
    | none =>
      let acc := (esc.zip sp).foldl (fun t e => tput t (32 * blk + e.1) e.2.value) acc
      tileSpalls b op codes scales n (blk + 1) (sp.drop esc.length) acc

/-- The tally of reading a list of elements. -/
def readTally (f : Fmt) (l : List Nat) : Tally := Tally.total (l.map fun x => (readElem f x).2)

/-- The tally of reading the elements that bytes hold. -/
def fpTally (f : Fmt) (bs : List Byte) (n : Nat) : Tally :=
  match fmtKind f with
  | .int _ _ => .zero
  | .fp _ => readTally f ((List.range n).map (elemOf f bs))

/-- The idle weight register replaced (R37). -/
def Engine.load (e : Engine) (w : WeightReg) : Engine := if e.active then { e with w0 := w } else { e with w1 := w }

/-- The effect of WTLOAD (R37, R137, R138, R143). Infinities and NaNs of the weights are counted here, where the engine
reads them. -/
def wtload (d : Device) (q : Seat) (b : Bank) (op : WtloadOp) : Did :=
  let n := modeK op.mode * modeN op.mode
  let f := modeWeight op.mode op.fmt
  let bytes := tileBytes op.mode f
  if !d.inShare q.ctx op.codes bytes then .fault St.bounds 0x04
  else
    let codes := d.shareRead q.ctx q.core op.codes bytes
    match op.mode with
    | .sett4 =>
      if !(d.inShare q.ctx op.scales 256) then .fault St.bounds 0x04
      else
        let scales := d.shareRead q.ctx q.core op.scales 256
        let count := ((List.range n).filter fun i => isEscape (elemOf .int4 codes i)).length
        if !d.inShare q.ctx op.spalls (4 * count) then .fault St.bounds 0x04
        else
          let sp := spallsOf (d.shareRead q.ctx q.core op.spalls (4 * count))
          match tileSpalls b op codes scales 256 0 sp [] with
          | .error cause => .fault St.streamTag cause
          | .ok t =>
            let tally := Tally.total (t.map fun e => (readBf16 e.2).2)
            let w : WeightReg := { mode := .sett4, fmt := f, data := codes, scales := scales, spalls := t }
            .done (d.count q tally) (b.setEng op.engine ((b.eng op.engine).load w))
    | m =>
      let tally := fpTally f codes n
      let w : WeightReg := { mode := m, fmt := f, data := codes, scales := [], spalls := [] }
      .done (d.count q tally) (b.setEng op.engine ((b.eng op.engine).load w))

/-! ### MATMUL (R36, R39 to R41, R132, R139) -/

/-- The weights of one column of a tile. -/
def WeightReg.column (w : WeightReg) (m : EngineMode) (f : Fmt) (n : Nat) : List Nat :=
  (List.range (modeK m)).map fun k => elemOf f w.data (n * modeK m + k)

/-- The exact integer products of a column summed. -/
def intDot (xf wf : Fmt) (xs ws : List Nat) : Int :=
  (List.zipWith (fun x w => (intOf xf x) * (intOf wf w)) xs ws).sum
where
  /-- The integer value of an element. -/
  intOf (f : Fmt) (x : Nat) : Int :=
    match fmtKind f with
    | .int lo _ => if lo < 0 then signedOf (fmtBits f) x else (x % 2 ^ fmtBits f : Nat)
    | .fp _ => 0

/-- The products of a column of a floating-point mode. -/
def fpProducts (xf wf : Fmt) (xs ws : List Nat) : List Val :=
  List.zipWith (fun x w => (readElem xf x).1.mul (readElem wf w).1) xs ws

/-- The four block terms of a Sett4 column (R139). -/
def sett4Terms (w : WeightReg) (n : Nat) (xs : List Nat) : List Val :=
  (List.range 4).map fun β =>
    let blk := 4 * n + β
    let scale := scaleVal (w.scales.getD blk 0)
    let terms := (List.range 32).map fun j =>
      let x := Val.ofInt (signedOf 8 (xs.getD (32 * β + j) 0))
      let c := elemOf .int4 w.data (32 * blk + j)
      if isEscape c then (readBf16 (tgetD w.spalls (32 * blk + j) 0)).1.mul x
      else (Val.ofRat (scale * (sett4Code c : Rat))).mul x
    Val.sum (.num false 0) terms

/-- The new value of an accumulator entry, and what forming it counted. -/
def accUpdate (w : WeightReg) (m : EngineMode) (wf xf : Fmt) (xs : List Nat) (n : Nat) (old : AccVal) : AccVal × Tally :=
  if modeInt m then (.int (old.asInt + intDot xf wf xs (w.column m wf n)), .zero)
  else
    let prev := (readF32 old.asFp).1
    let terms := match m with
      | .sett4 => sett4Terms w n xs
      | _ => fpProducts xf wf xs (w.column m wf n)
    let r := formF32 (Val.sum prev terms)
    (.fp r.1, r.2)

/-- The updates of one accumulator row, column by column. -/
def accRow (w : WeightReg) (m : EngineMode) (wf xf : Fmt) (xs : List Nat) (row : Nat) (clear : Bool) :
    List Nat → Table AccVal → Table AccVal × Tally
  | [], t => (t, .zero)
  | n :: ns, t =>
    let old := if clear then AccVal.zero else tgetD t (64 * row + n) .zero
    let u := accUpdate w m wf xf xs n old
    let r := accRow w m wf xf xs row clear ns (tputD t (64 * row + n) u.1 .zero)
    (r.1, u.2.add r.2)

/-- The elements of a row-sum segment (R132). -/
def segElems (f : Fmt) : Nat := if f = .int4 then 128 else 64

/-- The row-sum segments of an activation row. -/
def rowSegs (m : EngineMode) (f : Fmt) : Nat := modeK m / segElems f

/-- The sum of some segment sums, 4 B each. -/
def segSums (n : Nat) (bs : List Byte) : Int := ((List.range n).map fun i => signedOf 32 (fieldAt bs (4 * i) 4)).sum

/-- Whether an activation row comes from the feed of a plan. -/
def fedSource : ActSource → Bool
  | .bench _ => false
  | .feed _ _ _ => true

/-- Whether a row is taken in the beat in which the other engine took the one before it (R80). -/
def sharesBeat (op : MatmulOp) (b : Bank) : Bool := op.sameBeat && b.openRow.any (· ≠ op.engine)

/-- The effect of MATMUL: one activation row into one accumulator row; nothing yet where it takes the feed of a plan and none that
feeds the engines is in force. -/
def matmul (d : Device) (q : Seat) (b : Bank) (op : MatmulOp) : Did :=
  let e := { b.eng op.engine with active := op.weights }
  let m := op.mode
  let wf := modeWeight m e.computing.fmt
  let xf := modeActivation m op.xFmt
  let segs := rowSegs m xf
  let sumOk := match op.rowSum with
    | some off => d.inShare q.ctx off (4 * segs)
    | none => true
  if fedSource op.source && !b.feeds false then .hold
  else
  match d.activations q b m xf op.source with
  | none => .fault St.bounds 0x04
  | some xs =>
    if !sumOk then .fault St.bounds 0x04
    else
      let a := e.updating
      let u := accRow e.computing m wf xf xs op.row.val op.clear (List.range (modeN m)) a.entries
      let before := if op.clear then 0 else tgetD a.rowSums op.row.val 0
      let sum := match op.rowSum with
        | some off => before + segSums segs (d.shareRead q.ctx q.core off (4 * segs))
        | none => before
      let a : AccBank := { entries := u.1, rowSums := tputD a.rowSums op.row.val sum 0 }
      let b := b.setEng op.engine (e.setUpdating a)
      .done (d.count q ((readTally xf xs).add u.2)) { b with openRow := if op.sameBeat then none else some op.engine }

/-! ### The drain stage (R130, R131) -/

/-- A drain parameter entry (R130). -/
structure DrainEntry where
  correction : Nat
  scale : Nat
  shift : Nat
  outZero : Nat
  wZero : Int
  deriving DecidableEq, Repr

/-- The entry that 16 bytes hold. -/
def drainEntryOf (bs : List Byte) : DrainEntry :=
  { correction := fieldAt bs 0 8, scale := fieldAt bs 8 4, shift := fieldAt bs 0xC 1 % 64,
    outZero := fieldAt bs 0xD 1, wZero := signedOf 16 (fieldAt bs 0xE 2) }

/-- Whether a format is an integer format. -/
def fmtInt (f : Fmt) : Bool :=
  match fmtKind f with
  | .int _ _ => true
  | .fp _ => false

/-- The output zero point, read as INT8 or UINT8 according to the output format. -/
def DrainEntry.y0 (e : DrainEntry) (f : Fmt) : Int := if f = .uint8 then (e.outZero : Int) else signedOf 8 e.outZero

/-- One output element of the four paths of R131: the accumulator entry's integer or FP32 value, and its row sum. -/
def drainElem (integer : Bool) (f : Fmt) (a : AccVal) (rowSum : Int) (e : DrainEntry) : Nat × Tally :=
  if integer then
    let s := a.asInt + signedOf 64 e.correction - e.wZero * rowSum
    if fmtInt f then formElem f (.ofRat ((s : Rat) * (e.scale : Rat) * pow2 (-(e.shift : Int)))) (e.y0 f)
    else
      let m := readF32 (BitVec.ofNat 32 e.scale)
      let r := formElem f ((Val.ofInt s).mul m.1) 0
      (r.1, m.2.add r.2)
  else
    let v := readF32 a.asFp
    let m := readF32 (BitVec.ofNat 32 e.scale)
    let c := readF32 (BitVec.ofNat 32 e.correction)
    let r := formElem f ((v.1.mul m.1).add c.1) (if fmtInt f then e.y0 f else 0)
    (r.1, v.2.add (m.2.add (c.2.add r.2)))

/-- The number of a SETREG register. -/
def coreRegKey : CoreReg → Nat
  | .drainTable e => e.val
  | .drainDest e => 2 + e.val
  | .drainStride e => 4 + e.val
  | .drainRows e => 6 + e.val
  | .drainFormat e => 8 + e.val
  | .drainMode e => 10 + e.val
  | .drainToVector e => 12 + e.val
  | .addressing k => 16 + k.val
  | .scale k => 32 + k.val
  | .conversion k => 48 + k.val

/-- The value of a SETREG register. -/
def Bank.setreg (b : Bank) (r : CoreReg) : Nat := (tgetD b.setregs (coreRegKey r) 0).toNat

/-- The format a number names, in the order of the table "Element formats". -/
def fmtOfNat : Nat → Fmt
  | 0 => .int4
  | 1 => .int8
  | 2 => .uint8
  | 3 => .int32
  | 4 => .e4m3
  | 5 => .e5m2
  | 6 => .bf16
  | 7 => .fp16
  | _ => .fp32

/-- The mode a number names, in the order of the table "Engine modes". -/
def modeOfNat : Nat → EngineMode
  | 0 => .int8
  | 1 => .int4
  | 2 => .sett4
  | 3 => .fp8
  | 4 => .bf16
  | _ => .fp16

/-- The elements of one drained row with what they counted. -/
def drainRow (a : AccBank) (m : EngineMode) (f : Fmt) (params : List Byte) (row : Nat) : List Nat × Tally :=
  let l := (List.range (modeN m)).map fun n =>
    drainElem (modeInt m) f (tgetD a.entries (64 * row + n) .zero) (tgetD a.rowSums row 0)
      (drainEntryOf (slice params (16 * n) 16))
  (l.map (·.1), Tally.total (l.map (·.2)))

/-- An element's bits as a lane holds them: integers extended by their sign (log entry 81). -/
def laneOfElem (f : Fmt) (bits : Nat) : Nat :=
  match fmtKind f with
  | .int lo _ => if lo < 0 then unsignedOf 32 (signedOf (fmtBits f) bits) else bits
  | .fp _ => bits

/-- The key of a lane of a vector register. -/
def laneKey (v lane : Nat) : Nat := v * 128 + lane

/-- The bank with lanes of a vector register written from a lane up. -/
def Bank.setLanes (b : Bank) (v : Nat) : Nat → List Nat → Bank
  | _, [] => b
  | lane, x :: l => Bank.setLanes { b with vregs := tputD b.vregs (laneKey (v % 32) (lane % 128)) (BitVec.ofNat 32 x) 0 } v (lane + 1) l

/-- The rows of a bank drained, `n` from a row up. -/
def drainRows (d : Device) (q : Seat) (b : Bank) (e : Fin 2) (a : AccBank) (params : List Byte) :
    Nat → Nat → Device × Bank
  | 0, _ => (d, b)
  | n + 1, row =>
    let m := modeOfNat (b.setreg (.drainMode e))
    let f := fmtOfNat (b.setreg (.drainFormat e))
    let r := drainRow a m f params row
    let d := d.count q r.2
    if b.setreg (.drainToVector e) % 2 = 1 then
      drainRows d q (b.setLanes (b.setreg (.drainDest e) + row) 0 (r.1.map (laneOfElem f))) e a params n (row + 1)
    else
      let at_ := b.setreg (.drainDest e) + row * b.setreg (.drainStride e)
      drainRows (d.shareWrite q.ctx q.core at_ (packElems f r.1)) q b e a params n (row + 1)

/-- The effect of ACCSWAP (R38): the banks swap roles, and the bank that took updates is drained row by row as the drain
registers say and left empty (log entries 12 and 20). -/
def accswap (d : Device) (q : Seat) (b : Bank) (e : Fin 2) : Did :=
  let g := b.eng e
  let a := g.updating
  let rows := min 256 (b.setreg (.drainRows e))
  let m := modeOfNat (b.setreg (.drainMode e))
  let f := fmtOfNat (b.setreg (.drainFormat e))
  let table := b.setreg (.drainTable e)
  let dest := b.setreg (.drainDest e)
  let last := dest + (rows - 1) * b.setreg (.drainStride e)
  let ok := decide (rows = 0) || (d.inShare q.ctx table (16 * modeN m) &&
    (b.setreg (.drainToVector e) % 2 = 1 || d.inShare q.ctx last (elemBytes f (modeN m))))
  if !ok then .fault St.bounds 0x04
  else
    let params := d.shareRead q.ctx q.core table (16 * modeN m)
    let r := drainRows d q b e a params rows 0
    let g := (g.setUpdating .empty)
    .done r.1 (r.2.setEng e { g with filling := !g.filling })

/-- The effect of SETREG (R80). -/
def setreg (d : Device) (b : Bank) (r : CoreReg) (v : Word) : Did :=
  .done d { b with setregs := tputD b.setregs (coreRegKey r) v 0 }

/-! ### The commands -/

/-- MATMUL. -/
def execMatmul (u : CoreUse) (op : MatmulOp) (s : State) : Host.Outcome State Fault Refusal :=
  actLive s fun d => d.issueEccIn u .exec (sharesBeat op) fun d q b => matmul d q b op

/-- WTLOAD. -/
def execWtload (u : CoreUse) (op : WtloadOp) (s : State) : Host.Outcome State Fault Refusal :=
  actLive s fun d => d.issueEcc u .exec fun d q b => wtload d q b op

/-- ACCSWAP. -/
def execAccswap (u : CoreUse) (engine : Fin 2) (s : State) : Host.Outcome State Fault Refusal :=
  actLive s fun d => d.issueEcc u .exec fun d q b => accswap d q b engine

/-- SETREG. -/
def execSetreg (u : CoreUse) (r : CoreReg) (value : Word) (s : State) : Host.Outcome State Fault Refusal :=
  actLive s fun d => d.issueEcc u .exec fun d _ b => setreg d b r value

end Sys2Proof.Machine
end

