-- ==== Sys2Proof/Machine/Vector.lean ====
section
/-!
DEFINITION. The vector unit: vector instructions, segment evaluation and product-table mode (R42 to R44, R140, R141, R143,
R145 to R148, R160 to R162).
-/

namespace Sys2Proof.Machine

/-! ### Lanes -/

/-- A lane of a vector register. -/
def Bank.lane (b : Bank) (v : Fin 32) (i : Nat) : Half := tgetD b.vregs (laneKey v.val i) 0

/-- The bank with all 128 lanes of a register set. -/
def Bank.setVreg (b : Bank) (v : Fin 32) (f : Nat → Half) : Bank :=
  b.setLanes v.val 0 ((List.range 128).map fun i => (f i).toNat)

/-- A lane read as FP32. -/
def Bank.f32 (b : Bank) (v : Fin 32) (i : Nat) : Val × Tally := readF32 (b.lane v i)

/-- A lane read as a 32-bit integer. -/
def Bank.i32 (b : Bank) (v : Fin 32) (i : Nat) : Int := (b.lane v i).toInt

/-- A 32-bit integer lane formed from an exact value: a sum that leaves the range takes the range end of its sign and counts as a
saturation (R125, R128). -/
def laneInt (v : Int) : Half × Tally :=
  let r := clampInt (-2147483648) 2147483647 v
  (BitVec.ofInt 32 r.1, .ofSat r.2)

/-- An element as a unit passes it on without arithmetic: an infinity is replaced and counted (R123), a NaN is written in the
canonical encoding and noted (R124). -/
def scrubElem (f : Fmt) (bits : Nat) : Nat × Tally :=
  match fmtKind f with
  | .fp l => let r := l.read bits; ((l.form r.1).1, r.2)
  | .int _ _ => (bits, .zero)

/-- A register set lane by lane from values and tallies. -/
def lanewise (d : Device) (q : Seat) (b : Bank) (v : Fin 32) (f : Nat → Half × Tally) : Did :=
  .done (d.count q (Tally.total ((List.range 128).map fun i => (f i).2))) (b.setVreg v fun i => (f i).1)

/-- The FP32 result of an exact value with the tallies of what was read for it. -/
def f32Result (v : Val) (ts : List Tally) : Half × Tally :=
  let r := formF32 v
  (r.1, (Tally.total ts).add r.2)

/-- The larger of two values: exact, with −0 below +0, and a NaN where either is one (R161). -/
def valMax : Val → Val → Val
  | .num s a, .num t b => if a < b || (a = b && s && !t) then .num t b else .num s a
  | _, _ => .nan

/-- One half of a lane as a BF16 or FP16 value. -/
def halfLane (bf16 : Bool) (h : Half) (hi : Bool) : Val × Tally :=
  let bits := if hi then h.toNat / 65536 else h.toNat % 65536
  (if bf16 then layoutBf16 else layoutFp16).read bits

/-- One byte of a lane as an 8-bit integer. -/
def byteLane (signed : Bool) (h : Half) (i : Nat) : Int :=
  let v := h.toNat / 256 ^ i % 256
  if signed then signedOf 8 v else (v : Int)

/-- The lanes an element format fills in one instruction: a format of 32 bits moves half a register in a beat (R42). -/
def fmtLanes (f : Fmt) : Nat := if fmtBits f = 32 then 64 else 128

/-! ### Q8B blocks (R145, R146) -/

/-- The code maximum of a tensor. -/
def q8bMax (signed : Bool) : Nat := if signed then 127 else 255

/-- The scale byte of a block whose largest magnitude is A (steps 1 and 2 of R146). -/
def q8bScale (m : Nat) (a : Rat) : Nat :=
  if a = 0 then 0
  else ((List.range 255).find? fun k => decide (a ≤ (m : Rat) * scaleVal (BitVec.ofNat 8 k))).getD 254

/-- The largest magnitude among values, NaNs aside. -/
def largestMag (l : List Val) : Rat :=
  l.foldl (fun a v => match v with
    | .nan => a
    | .num _ x => max a (if x < 0 then -x else x)) 0

/-- One block quantised: its scale byte, its codes, and what forming them counted. -/
def q8bBlock (signed : Bool) (l : List (Val × Tally)) : Nat × List Nat × Tally :=
  let vs := l.map (·.1)
  let a := largestMag vs
  let k := q8bScale (q8bMax signed) a
  let f : Fmt := if signed then .int8 else .uint8
  let rs := vs.map fun v => match v with
    | .nan => formElem f .nan 0
    | .num s x => if a = 0 then (0, .zero) else formElem f (.num s (x * pow2 (127 - (k : Int)))) 0
  (k, rs.map (·.1), Tally.total (l.map (·.2) ++ rs.map (·.2)))

/-! ### Vector instructions -/

/-- The tap of a walk plan that a vector instruction takes: sources of the block's channels, or none where the tap lies in
padding and `real` asks for real taps only. -/
def tapSources (w : WalkState) (i j r s g : Nat) (real : Bool) : Option (List FeedSrc) :=
  let p := w.op.plan
  if real && !(inputIdx p.height (planTapRow p i r) && inputIdx p.width (planTapCol p j s)) then none
  else some ((List.range p.block).map fun c => w.tap i j r s g c)

/-- The value of a lane as an element format reads it. -/
def laneVal (f : Fmt) (h : Half) : Val × Tally := readElem f (h.toNat % 2 ^ fmtBits f)

/-- The drain parameter entry that a lane takes from a table of `per` entries in the Bench. -/
def laneEntry (params : List Byte) (per i : Nat) : DrainEntry := drainEntryOf (slice params (16 * (i % max per 1)) 16)

/-- The quotient of an exact sum and a divisor of a pooling window. -/
def overN (v : Val) (n : Nat) : Val :=
  match v with
  | .nan => .nan
  | .num s x => .num s (x / (max n 1 : Nat))

/-- The real taps of the window of an output pixel (R161). -/
def realTaps (p : WalkPlan) (i j : Nat) : Nat :=
  ((List.range p.fh).filter fun r => inputIdx p.height (planTapRow p i r)).length *
    ((List.range p.fw).filter fun s => inputIdx p.width (planTapCol p j s)).length

/-- The divisor of the average that a lane forms (R161): the taps of the plan in force, the real taps of the window of its run of
block-width lanes, or the elements of a whole map. -/
def Bank.divisor (b : Bank) (n : AvgCount) (lane : Nat) : Nat :=
  match n, b.walk with
  | .whole k, _ => k
  | .all, some w => w.op.plan.fh * w.op.plan.fw
  | .real l, some w =>
    match l[lane / max 1 w.op.plan.block]? with
    | some (i, j) => realTaps w.op.plan i j
    | none => 1
  | _, none => 1

/-- The effect of the vector instructions that use no memory. -/
def vecReg (d : Device) (q : Seat) (b : Bank) : VecOp → Did
  | .fma r x y z => lanewise d q b r fun i =>
      let vx := b.f32 x i; let vy := b.f32 y i; let vz := b.f32 z i
      f32Result ((vx.1.mul vy.1).add vz.1) [vx.2, vy.2, vz.2]
  | .fmaHalf bf lo hi x y =>
      let part := fun (acc : Fin 32) (top : Bool) (i : Nat) =>
        let vx := halfLane bf (b.lane x i) top; let vy := halfLane bf (b.lane y i) top; let vz := b.f32 acc i
        f32Result ((vx.1.mul vy.1).add vz.1) [vx.2, vy.2, vz.2]
      let t := Tally.total ((List.range 128).map fun i => (part lo false i).2.add (part hi true i).2)
      .done (d.count q t) ((b.setVreg lo fun i => (part lo false i).1).setVreg hi fun i => (part hi true i).1)
  | .add r x y => lanewise d q b r fun i =>
      let vx := b.f32 x i; let vy := b.f32 y i
      f32Result (vx.1.add vy.1) [vx.2, vy.2]
  | .maxFp r x y => lanewise d q b r fun i =>
      let vx := b.f32 x i; let vy := b.f32 y i
      f32Result (valMax vx.1 vy.1) [vx.2, vy.2]
  | .maxInt r x y => lanewise d q b r fun i => (BitVec.ofInt 32 (max (b.i32 x i) (b.i32 y i)), .zero)
  | .macInt8 r x y sx sy => lanewise d q b r fun i =>
      let dot := ((List.range 4).map fun k => byteLane sx (b.lane x i) k * byteLane sy (b.lane y i) k).sum
      laneInt (b.i32 r i + dot)
  | .convert r x src dst => lanewise d q b r fun i =>
      let v := laneVal src (b.lane x i)
      let o := formElem dst v.1 0
      (BitVec.ofNat 32 (laneOfElem dst o.1), v.2.add o.2)
  | .depthFp r x0 w0 x1 w1 two => lanewise d q b r fun i =>
      let a := b.f32 r i; let x := b.f32 x0 i; let w := b.f32 w0 i
      let first := a.1.add (x.1.mul w.1)
      if two then
        let y := b.f32 x1 i; let v := b.f32 w1 i
        f32Result (first.add (y.1.mul v.1)) [a.2, x.2, w.2, y.2, v.2]
      else f32Result first [a.2, x.2, w.2]
  | .depthInt r x0 w0 x1 w1 two zx zw => lanewise d q b r fun i =>
      let term := fun (x w : Fin 32) => (b.i32 x i - zx) * (b.i32 w i - b.i32 zw i)
      laneInt (b.i32 r i + term x0 w0 + if two then term x1 w1 else 0)
  | .sumInt r x zx => lanewise d q b r fun i => laneInt (b.i32 r i + (b.i32 x i - zx))
  | .avgInt r x m shift n y0 f => lanewise d q b r fun i =>
      let v := ((b.i32 x i : Rat) * (m : Rat)) / ((2 ^ shift * max (b.divisor n i) 1 : Nat) : Rat)
      let o := formElem f (.ofRat v) y0
      (BitVec.ofNat 32 (laneOfElem f o.1), o.2)
  | .avgFp r x n f => lanewise d q b r fun i =>
      let v := b.f32 x i
      let o := formElem f (overN v.1 (b.divisor n i)) 0
      (BitVec.ofNat 32 (laneOfElem f o.1), v.2.add o.2)
  | .master r w x y bf => lanewise d q b r fun i =>
      let l := if bf then layoutBf16 else layoutFp32
      let vw := l.read ((b.lane w i).toNat % 2 ^ (l.low + 1)); let vx := b.f32 x i; let vy := b.f32 y i
      let o := l.form (vw.1.add (vx.1.mul vy.1))
      (BitVec.ofNat 32 o.1, Tally.total [vw.2, vx.2, vy.2, .ofSat o.2])
  | _ => .done d b

/-- The tap of the walk plan in force taken into lanes, alone or as the larger of tap and lane. -/
def vecFeed (d : Device) (q : Seat) (b : Bank) (r : Fin 32) (i j tr ts g lane : Nat) (largest : Bool) : Did :=
  if !b.feeds true then .hold
  else
  match b.walk with
  | none => .hold
  | some w =>
    let f := w.op.plan.fmt
    match tapSources w i j tr ts g largest with
    | none => .done d b
    | some src =>
      match d.feedAll q f src with
      | none => .fault St.bounds 0x04
      | some l =>
        if !largest then
          let es := l.map (scrubElem f)
          .done (d.count q (Tally.total (es.map (·.2)))) (b.setLanes r.val lane (es.map fun e => laneOfElem f e.1))
        else
          let rs := (List.range l.length).map fun k =>
            let old := laneVal f (b.lane r ((lane + k) % 128))
            let x := readElem f (l.getD k 0)
            let o := formElem f (valMax old.1 x.1) 0
            (laneOfElem f o.1, old.2.add (x.2.add o.2))
          .done (d.count q (Tally.total (rs.map (·.2)))) (b.setLanes r.val lane (rs.map (·.1)))

/-- The checks of the Q8B blocks of an instruction, block by block (R145). -/
def q8bCheck (b : Bank) (codes scales : Nat) (ks : List Byte) : Nat → Option Byte
  | 0 => none
  | n + 1 =>
    let blk := 3 - n
    match blockCheck (b.tagAt (codes + 32 * blk)) (b.tagAt (scales + blk)) (ks.getD blk 0) [] [] with
    | some c => some c
    | none => q8bCheck b codes scales ks n

/-- The effect of a vector instruction (R42). -/
def vecop (d : Device) (q : Seat) (b : Bank) (op : VecOp) : Did :=
  match op with
  | .load r off f upper =>
    let n := fmtLanes f
    if !d.inShare q.ctx off (elemBytes f n) then .fault St.bounds 0x04
    else
      let bs := d.shareRead q.ctx q.core off (elemBytes f n)
      let es := (List.range n).map fun i => scrubElem f (elemOf f bs i)
      .done (d.count q (Tally.total (es.map (·.2)))) (b.setLanes r.val (if upper && n = 64 then 64 else 0)
        (es.map fun e => laneOfElem f e.1))
  | .store r off f upper =>
    let n := fmtLanes f
    if !d.inShare q.ctx off (elemBytes f n) then .fault St.bounds 0x04
    else
      let base := if upper && n = 64 then 64 else 0
      let es := (List.range n).map fun i => scrubElem f ((b.lane r (base + i)).toNat % 2 ^ fmtBits f)
      .done ((d.shareWrite q.ctx q.core off (packElems f (es.map (·.1)))).count q (Tally.total (es.map (·.2)))) b
  | .feed r i j tr ts g lane => vecFeed d q b r i j tr ts g lane false
  | .feedMax r i j tr ts g lane => vecFeed d q b r i j tr ts g lane true
  | .requant r x table per integer f =>
    if !d.inShare q.ctx table (16 * (per.val + 1)) then .fault St.bounds 0x04
    else
      let params := d.shareRead q.ctx q.core table (16 * (per.val + 1))
      lanewise d q b r fun i =>
        let a := if integer then AccVal.int (b.i32 x i) else .fp (b.lane x i)
        let o := drainElem integer f a 0 (laneEntry params (per.val + 1) i)
        (BitVec.ofNat 32 (laneOfElem f o.1), o.2)
  | .quantQ8b x codes scales signed =>
    if !(d.inShare q.ctx codes 128 && d.inShare q.ctx scales 4) then .fault St.bounds 0x04
    else
      let blocks := (List.range 4).map fun k => q8bBlock signed ((List.range 32).map fun j => b.f32 x (32 * k + j))
      let d := d.shareWrite q.ctx q.core codes ((blocks.flatMap fun r => r.2.1).map (BitVec.ofNat 8))
      let d := d.shareWrite q.ctx q.core scales (blocks.map fun r => BitVec.ofNat 8 r.1)
      .done (d.count q (Tally.total (blocks.map fun r => r.2.2))) b
  | .dequantQ8b r codes scales signed =>
    if !(d.inShare q.ctx codes 128 && d.inShare q.ctx scales 4) then .fault St.bounds 0x04
    else
      let cs := d.shareRead q.ctx q.core codes 128
      let ks := d.shareRead q.ctx q.core scales 4
      match q8bCheck b codes scales ks 4 with
      | some cause => .fault St.streamTag cause
      | none => lanewise d q b r fun i =>
          let c := (cs.getD i 0).toNat
          let v : Int := if signed then signedOf 8 c else (c : Int)
          f32Result (.ofRat ((v : Rat) * scaleVal (ks.getD (i / 32) 0))) []
  | .gradient x g off largest first =>
    if !(d.inShare q.ctx off 128 && d.inShare q.ctx largest 4) then .fault St.bounds 0x04
    else
      let vs := (List.range 128).map fun i => b.f32 x i
      let rs := vs.map fun v => match v.1 with
        | .nan => formElem .e5m2 .nan 0
        | .num s y => formElem .e5m2 (.num s (y * pow2 (127 - (g : Int)))) 0
      let old := if first then (Val.num false 0, Tally.zero)
        else readF32 (BitVec.ofNat 32 (natOfBytes (d.shareRead q.ctx q.core largest 4)))
      let a := formF32 (vs.foldl (fun m v => valMax m v.1.abs) old.1.abs)
      let d := d.shareWrite q.ctx q.core off (rs.map fun r => BitVec.ofNat 8 r.1)
      let d := d.shareWrite q.ctx q.core largest (bytesOfNat 4 a.1.toNat)
      .done (d.count q (Tally.total (old.2 :: (vs.map (·.2) ++ rs.map (·.2))))) b
  | op => vecReg d q b op

/-! ### Segment evaluation (R43) -/

/-- The segment index of an FP32 input, an infinity having been replaced (R123). -/
def segIndex (x : Half) : Nat :=
  let bits := if x.toNat % 2 ^ 31 = 0x7F800000 then x.toNat - 1 else x.toNat
  bits / 2 ^ 22

/-- The effect of SEGEVAL. A segment holds its slope in bytes 0 to 3 and its intercept in bytes 4 to 7 (log entry 83). -/
def segeval (d : Device) (q : Seat) (b : Bank) (op : SegevalOp) : Did :=
  let n := min op.entries 1024
  if !d.inShare q.ctx op.table (8 * n) then .fault St.bounds 0x04
  else if (List.range 128).any fun i => decide (n ≤ segIndex (b.lane op.s i)) then .fault St.bounds 0x07
  else
    let bs := d.shareRead q.ctx q.core op.table (8 * n)
    lanewise d q b op.d fun i =>
      let x := b.f32 op.s i
      let k := segIndex (b.lane op.s i)
      let slope := readF32 (BitVec.ofNat 32 (fieldAt bs (8 * k) 4))
      let icept := readF32 (BitVec.ofNat 32 (fieldAt bs (8 * k + 4) 4))
      f32Result ((slope.1.mul x.1).add icept.1) [x.2, slope.2, icept.2]

/-! ### Product-table mode (R44, R140) -/

/-- The code value of a table entry: entry 8 is 0. -/
def tableCode (c : Nat) : Int := if c = 8 then 0 else signedOf 4 c

/-- The effect of PTBUILD: 8 BF16 activations make 8 tables of 16 products. -/
def ptbuild (d : Device) (q : Seat) (b : Bank) (off : Nat) : Did :=
  if !d.inShare q.ctx off 16 then .fault St.bounds 0x04
  else
    let bs := d.shareRead q.ctx q.core off 16
    let xs := (List.range 8).map fun t => layoutBf16.read (fieldAt bs (2 * t) 2)
    let es := (List.range 128).map fun i =>
      let c := tableCode (i % 16)
      let x := (xs.getD (i / 16) (.nan, .zero)).1
      (i, if i % 16 = 8 then ((0 : Half), Tally.zero) else formF32 ((Val.ofInt c).mul x))
    let d := d.count q (Tally.total (xs.map (·.2) ++ es.map fun e => e.2.2))
    .done d { b with tables := es.foldl (fun t e => tputD t e.1 e.2.1 0) b.tables }

/-- The sequence tag of a lane's block. -/
def Bank.laneTag (b : Bank) (codes lane : Nat) : Option Nat := b.tagAt (codes + 16 * lane)

/-- The code at a place of a lane's block: block i lies at 16 × i, its codes packed in order (R120, R134). -/
def laneCode (codes : List Byte) (lane j : Nat) : Nat := elemOf .int4 codes (32 * lane + j)

/-- The codes of a lane's block. -/
def laneCodes (codes : List Byte) (lane : Nat) : List Nat := (List.range 32).map (laneCode codes lane)

/-- The checks where lanes begin a block: tag, scale byte, escape count (R143), lane by lane. -/
def lanesBegin (b : Bank) (chunkAt scalesAt : Nat) (chunk scales : List Byte) : List Nat → Option Byte
  | [] => none
  | l :: ls =>
    match blockCheck (b.laneTag chunkAt l) (b.tagAt (scalesAt + l)) (scales.getD l 0)
        (if 4 < (escapesOf (laneCodes chunk l)).length then [0, 0, 0, 0, 0] else []) [] with
    | some c => some c
    | none => lanesBegin b chunkAt scalesAt chunk scales ls

/-- One lookup of each lane in ascending order: new lane values, tallies, or a stream fault. -/
def lanesLook (b : Bank) (op : PtlookOp) (codes : List Byte) :
    List Nat → List Spall → Except Byte (List (Half × Tally))
  | [], _ => .ok []
  | l :: ls, sp =>
    let c := laneCode codes l op.position.val
    let acc := b.f32 op.group l
    let k := tgetD b.laneScales l 0
    if isEscape c then
      match sp with
      | [] => .error causeSpallTag
      | e :: es =>
        if e.tag ≠ (b.laneTag op.codes l).getD 0 then .error causeSpallTag
        else if e.position ≠ op.position.val then .error causeSpallPosition
        else
          let v := readBf16 e.value
          let x := readF32 (tgetD b.tables (16 * op.table.val + 1) 0)
          match lanesLook b op codes ls es with
          | .error c => .error c
          | .ok r => .ok (f32Result ((v.1.mul x.1).add acc.1) [acc.2, v.2, x.2] :: r)
    else
      let t := readF32 (tgetD b.tables (16 * op.table.val + c) 0)
      match lanesLook b op codes ls sp with
      | .error c => .error c
      | .ok r => .ok (f32Result ((t.1.mul (.ofRat (scaleVal k))).add acc.1) [acc.2, t.2] :: r)

/-- The effect of PTLOOK. -/
def ptlook (d : Device) (q : Seat) (b : Bank) (op : PtlookOp) : Did :=
  if !d.inShare q.ctx op.codes 2048 then .fault St.bounds 0x04
  else
    let codes := d.shareRead q.ctx q.core op.codes 2048
    let escapes := (List.range 128).filter fun l => isEscape (laneCode codes l op.position.val)
    if !d.inShare q.ctx op.spalls (4 * escapes.length) then .fault St.bounds 0x04
    else
      let begin_ : Except (Byte × Byte) Bank := match op.scales with
        | none => .ok b
        | some off =>
          if !d.inShare q.ctx off 128 then .error (St.bounds, 0x04)
          else
            let ks := d.shareRead q.ctx q.core off 128
            match lanesBegin b op.codes off codes ks (List.range 128) with
            | some c => .error (St.streamTag, c)
            | none => .ok { b with laneScales :=
                (List.range 128).foldl (fun t l => tputD t l (ks.getD l 0) 0) b.laneScales }
      match begin_ with
      | .error e => .fault e.1 e.2
      | .ok b =>
        match lanesLook b op codes (List.range 128)
            (spallsOf (d.shareRead q.ctx q.core op.spalls (4 * escapes.length))) with
        | .error c => .fault St.streamTag c
        | .ok rs =>
          .done (d.count q (Tally.total (rs.map (·.2)))) (b.setLanes op.group.val 0 (rs.map fun r => r.1.toNat))

/-! ### The commands -/

/-- VECOP. -/
def execVecop (u : CoreUse) (op : VecOp) (s : State) : Host.Outcome State Fault Refusal :=
  actLive s fun d => d.issueEcc u .exec fun d q b => vecop d q b op

/-- SEGEVAL. -/
def execSegeval (u : CoreUse) (op : SegevalOp) (s : State) : Host.Outcome State Fault Refusal :=
  actLive s fun d => d.issueEcc u .exec fun d q b => segeval d q b op

/-- PTBUILD. -/
def execPtbuild (u : CoreUse) (offset : Nat) (s : State) : Host.Outcome State Fault Refusal :=
  actLive s fun d => d.issueEcc u .exec fun d q b => ptbuild d q b offset

/-- PTLOOK. -/
def execPtlook (u : CoreUse) (op : PtlookOp) (s : State) : Host.Outcome State Fault Refusal :=
  actLive s fun d => d.issueEcc u .exec fun d q b => ptlook d q b op

end Sys2Proof.Machine
end

