-- ==== Sys2Proof/Machine/Streamers.lean ====
section
/-!
DEFINITION. The streamers and synchronisation: transfers, walks, ordered accesses, digests and the operations on
synchronisation objects (R51 to R59, R81 to R87, R117, R132, R142, R151 to R159, R164 to R171, R187, R188, R218, R243).
-/

namespace Sys2Proof.Machine

/-! ### Where a transfer goes -/

/-- The role an instance uses in place of a role (R96, R116). -/
def Seat.roleOf (q : Seat) (r : Nat) : Nat := if q.replica then (q.slab.replicaMap.getD r 0).toNat % 16 else r

/-- The window that a role map binds a role to: [7] bound, [3:0] window. -/
def boundWindow (roleMap : List Byte) (r : Nat) : Option Nat :=
  let b := (roleMap.getD r 0).toNat
  if 128 ≤ b then some (b % 16) else none

/-- The base of a role in a run: the base the RUN moved it to, else that of its window (R78, R257). -/
def Device.roleBase (d : Device) (q : Seat) (r : Nat) : Option Nat :=
  match tget q.run.roleBases r with
  | some a => some a
  | none =>
    match boundWindow q.slab.roleMap r with
    | some w => (tget (d.ten (d.ctx q.ctx).tenancy).windows w).map (·.base)
    | none => none

/-- The physical address of the far end of a transfer; a share of another core holds its own offset. -/
def Device.farAddr (d : Device) (q : Seat) : Remote → Option Nat
  | .role r off => (d.roleBase q (q.roleOf r.val)).map (· + off)
  | .share k off =>
    ((if q.replica then q.slab.replicaCores else q.slab.primary)[k]?).map fun core => d.shareAddr q.ctx core off

/-- What stands in the way of an access. -/
inductive Veto where
  | fault (status detail : Byte)
  | ends (status detail : Byte)
  deriving DecidableEq, Repr

/-- What a veto makes of an access. -/
def Veto.did (d : Device) : Veto → Did
  | .fault s t => .fault s t
  | .ends s t => .ends d s t

/-- The sticky bit of a controller whose transaction failed (R277). -/
def Device.linkFailed (d : Device) : Pc → Device
  | .a => d.orReg Reg.hifSticky 0x40
  | .b => d.orReg Reg.hifSticky 0x80

/-- Whether a line of a range lies at a unit held offline. -/
def Device.rangeOff (d : Device) (a n : Nat) : Bool := (lineAddrs a n).any d.addrOff

/-- The checks of a streamer access to a role: the map (R14, R59), the windows (R243), side effects (R58), units held
offline (R313) and links (R276). -/
def Device.vetoRole (d : Device) (t a n : Nat) (write plain : Bool) : Option Veto :=
  match d.region a with
  | .reserved | .regs _ | .doorbell _ _ => some (.fault St.bounds 0x05)
  | r =>
    match (d.ten t).windowFor a n (!write) write with
    | none => some (.fault St.bounds 0x01)
    | some w =>
      if w.sideEffect && plain then some (.fault St.bounds 0x02)
      else if d.rangeOff a n then some (.ends St.unitOffline 0)
      else
        match r with
        | .outbound pc link => if d.linkUpAt pc link then none else some (.ends St.linkError 0x04)
        | _ => none

/-- The checks of a streamer access. -/
def Device.veto (d : Device) (q : Seat) (far : Remote) (a n : Nat) (write plain : Bool) : Option Veto :=
  match far with
  | .share _ off => if d.inShare q.ctx off n then none else some (.fault St.bounds 0x04)
  | .role _ _ => d.vetoRole (d.ctx q.ctx).tenancy a n write plain

/-- The device with the sticky bit that a link veto sets. -/
def Device.noteVeto (d : Device) (a : Nat) (v : Veto) : Device :=
  match v, d.region a with
  | .ends 0x0A _, .outbound pc _ => d.linkFailed pc
  | _, _ => d

/-! ### Issue -/

/-- The transfers a streamer has outstanding for the context of a bank. -/
def Bank.outstanding (b : Bank) (k : UnitKind) : List Transfer := b.transfers.filter fun t => t.unit = k

/-- The transfers that a streamer of a core has in flight, those of contexts outside their slice among them (R55, R218). -/
def Device.inFlight (d : Device) (core : Nat) (k : UnitKind) : List Transfer :=
  (d.banks.filter fun e => e.1 / 256 = core).flatMap fun e => e.2.outstanding k

/-- Whether the load streamer of a core has 32 transfers in flight (R55); `b` is the bank of the context it serves. -/
def Device.loadsFull (d : Device) (q : Seat) (b : Bank) : Bool :=
  let others := (d.banks.filter fun e => e.1 / 256 = q.core && e.1 % 256 ≠ q.ctx).map fun e => (e.2.outstanding .load).length
  decide (32 ≤ (b.outstanding .load).length + others.sum)

/-- The port of a core's cluster and the owner of its bucket (R188, R191). -/
def Device.bucketOwner (d : Device) (ctx : Nat) : Nat := if d.ctxLegacy ctx then 256 else ctx

/-- The bus address of an outbound address (R276). -/
def Device.busAddr (d : Device) (a : Nat) : Nat :=
  match d.region a with
  | .outbound .a _ => (a - 0x8000000000 + (d.reg Reg.hifPcaOutOffset).toNat) % 2 ^ 64
  | _ => (a - 0xC000000000 + (d.reg Reg.hifPcbOutOffset).toNat) % 2 ^ 64

/-- A read TLP sent for one line or less of an outbound range, and its wait for the completion. Plain lines are never merged
(R276). -/
def Device.emitRead (d : Device) (pc : Pc) (owner : OutOwner) (a n : Nat) : Device :=
  let o : Outbound := { id := d.nextId, pc := pc, owner := owner, addr := a, bytes := n, issued := d.alm.ticks, got := none }
  { d with outbound := d.outbound ++ [o], nextId := d.nextId + 1 }.emit (.tlpRead pc (d.busAddr a) n d.nextId)

/-- The read TLPs of a range, at most 64 B each. -/
def Device.emitReads (d : Device) (pc : Pc) (owner : OutOwner) (a n : Nat) : Device :=
  (List.range (ceilDiv n 64)).foldl (fun d i => d.emitRead pc owner (a + 64 * i) (min 64 (n - 64 * i))) d

/-- The write TLPs of bytes at an outbound address. -/
def Device.emitWrites (d : Device) (pc : Pc) (a : Nat) (bs : List Byte) : Device :=
  (List.range (ceilDiv bs.length 64)).foldl
    (fun d i => d.emit (.tlpWrite pc (d.busAddr a + 64 * i) ((bs.drop (64 * i)).take 64))) d

/-! ### The lines of a transfer -/

/-- The bytes between the rows of a walked map at its far side. -/
def walkPitch (op : WalkOp) : Nat :=
  if op.codec = .none && op.privileged.isEmpty then planRowBytes op.plan else op.pitch

/-- The offset of a group's segment, or of the region that holds it, within a row (R149, R167). -/
def walkRegion (op : WalkOp) (g : Nat) : Nat :=
  if op.codec = .none && op.privileged.isEmpty then g * planSegBytes op.plan else op.regions.getD g 0

/-- Whether a 64 B line of a row segment holds a column that a tap falls on, or that a padded tap of EDGE takes its value from
(R159; log entry 40). -/
def lineTouched (p : WalkPlan) (line : Nat) : Bool :=
  (List.range p.width).any fun x =>
    (planTouchesCol p x || (p.pad = .edge && planClampsCol p x)) &&
      decide (elemBytes p.fmt (x * p.block) < 64 * (line + 1)) && decide (64 * line < elemBytes p.fmt ((x + 1) * p.block))

/-- The lines of an uncompressed row segment that a walk fetches. -/
def walkLines (p : WalkPlan) : List Nat := (List.range (planSegBytes p / 64)).filter (lineTouched p)

/-- The codec of a group of a walked map: ZERO for a privileged group, whose zero value is the fill value of the map (R170). -/
def walkCodec (op : WalkOp) (g : Nat) : Codec :=
  if op.privileged.contains g then .zero op.plan.fmt (BitVec.ofNat 8 op.plan.fill) else op.codec

/-- A stored part of what a load reads: its offset at the far end, its codec, its uncompressed bytes, and the lines read of it
where it is stored uncompressed. -/
structure StoredPart where
  off : Nat
  codec : Codec
  bytes : Nat
  touched : List Nat

/-- The parts that a load reads, in order. -/
def Transfer.parts (t : Transfer) : List StoredPart :=
  match t.kind with
  | .walkRow op _ =>
    (List.range op.plan.groups).map fun g =>
      { off := walkRegion op g, codec := walkCodec op g, bytes := planSegBytes op.plan, touched := walkLines op.plan }
  | .plain codec _ _ => [{ off := 0, codec := codec, bytes := t.bytes, touched := List.range (t.bytes / 64) }]
  | .ordered => [{ off := 0, codec := .none, bytes := t.bytes, touched := [0] }]

/-- The offsets of the lines of parts that are known, `got` being what the lines read so far hold. -/
def partLines : List StoredPart → List Byte → List Nat
  | [], _ => []
  | p :: ps, got =>
    let r := codecLines p.codec p.bytes p.touched got
    r.1.map (fun l => p.off + 64 * l) ++ if r.2 then partLines ps (got.drop (64 * r.1.length)) else []

/-- The lines of a transfer issued so far. -/
def Transfer.sent (t : Transfer) : Nat := (t.issued.map (·.2)).sum

/-- The offsets of the lines that a transfer moves, as far as they are known; of one that is cut short those issued. -/
def Transfer.lines (t : Transfer) : List Nat :=
  let l := if t.unit = .store then (List.range (ceilDiv t.data.length 64)).map (64 * ·) else partLines t.parts t.data
  if t.cut then l.take t.sent else l

/-- The bytes of a line of a transfer: an ordered access may move less than 64. -/
def Transfer.lineBytes (t : Transfer) : Nat := if t.kind = .ordered then t.bytes else 64

/-- The most lines a streamer has outstanding: 256 reads (R52), 128 writes (R53). -/
def lineLimit : UnitKind → Nat
  | .store => 128
  | _ => 256

/-- The lines a streamer of a core has outstanding, whatever the context. -/
def Device.linesOut (d : Device) (core : Nat) (k : UnitKind) : Nat :=
  ((d.inFlight core k).map fun t => t.sent - t.done).sum

/-- A transfer that goes on as far as its streamer, its port and the units at its far end let it: lines issued in their order, an
outbound one as a TLP. A line at a unit held offline is not issued (R314, R316): the answer says whether one was met. -/
def Device.advance (d : Device) (core c : Nat) (t : Transfer) (room : Nat) : Bool × Device × Transfer :=
  let l := ((t.lines.drop t.sent).take room).map (t.far + ·)
  let online := l.takeWhile fun a => !d.addrOff a
  let r := d.linesIssue (core / 4) (d.bucketOwner c) online
  let ls := online.take r.1
  let d := if t.unit = .load then
      ls.foldl (fun d a => match d.region a with
        | .outbound pc _ => d.emitRead pc (.transfer core c t.id) a t.lineBytes
        | _ => d) r.2.2
    else r.2.2
  (decide (online.length < l.length) && ls.length = online.length, d,
    if ls.isEmpty then t
    else { t with issued := t.issued ++ [(d.alm.ticks, ls.length)], excess := t.excess || r.2.1 })

/-- A transfer issued: numbered, and its lines sent on as far as they go. A store's pages are marked in the log at issue (R273). -/
def Device.launch (d : Device) (q : Seat) (b : Bank) (k : UnitKind) (far near bytes farBytes : Nat) (kind : TransferKind)
    (data : List Byte) : Device × Bank :=
  let t : Transfer := { id := d.nextId, unit := k, far := far, near := near, bytes := bytes, kind := kind, data := data,
                        issued := [], done := 0, excess := false, cut := false }
  let d := { d with nextId := d.nextId + 1 }
  let d := if k = .store then d.logWrite (d.ctx q.ctx).tenancy far farBytes else d
  let out := ((d.inFlight q.core k).map fun t => t.sent - t.done).sum
  let r := d.advance q.core q.ctx t (lineLimit k - out)
  (r.2.1, { b with transfers := b.transfers ++ [r.2.2] })

/-! ### Row sums (R132) -/

/-- The sums of the segments of bytes, 4 B each. -/
def rowSums (f : Fmt) (bs : List Byte) : List Byte :=
  let n := bs.length / elemBytes f (segElems f)
  (List.range n).flatMap fun i =>
    let v := ((List.range (segElems f)).map fun j => intDot.intOf f (elemOf f bs (segElems f * i + j))).sum
    bytesOfNat 4 (unsignedOf 32 v)

/-- The bytes of a row-sum buffer for a transfer. -/
def rowSumBytes (f : Fmt) (n : Nat) : Nat := n / elemBytes f (segElems f) * 4

/-! ### XFER (R54, R55) -/

/-- The digest of a store streamer with the bytes it writes (R117). -/
def Bank.digestWith (b : Bank) (bs : List Byte) : Bank :=
  match b.digest with
  | some g => { b with digest := some { g with crc := crc64 g.crc bs } }
  | none => b

/-- The address that an instruction names as the base of a tensor: the window that the role map binds, or the share of another
core; a base that a RUN moved does not move it (R78, R142). -/
def Device.tensorBase (d : Device) (q : Seat) (far : Remote) (off : Nat) : Option Nat :=
  match far with
  | .role r _ =>
    match boundWindow q.slab.roleMap (q.roleOf r.val) with
    | some w => (tget (d.ten (d.ctx q.ctx).tenancy).windows w).map (·.base + off)
    | none => none
  | .share k _ => d.farAddr q (.share k off)

/-- The sequence tag of the first block that a transfer from an address brings in, with the bytes of a block and the number of
blocks (R142): the block's index from the tensor's base, modulo 64. -/
def Device.tensorTag (d : Device) (q : Seat) (op : XferOp) (a : Nat) : Option (Nat × Nat × Nat) :=
  match op.tensor with
  | none => none
  | some (off, size) =>
    (d.tensorBase q op.far off).map fun base =>
      ((((a : Int) - (base : Int)) / (max size 1 : Nat) % 64).toNat, max size 1, op.bytes / max size 1)

/-- The effect of XFER; one of length 0 is no size that the streamers take (log entry 93). -/
def xfer (d : Device) (q : Seat) (b : Bank) (store : Bool) (op : XferOp) : Did :=
  let k := if store then UnitKind.store else .load
  if !store && d.loadsFull q b then .hold
  else if op.bytes % 64 ≠ 0 || op.bytes = 0 || decide (65536 < op.bytes) then .ends d St.sizeUnsupported 0x01
  else
    match d.farAddr q op.far with
    | none => .fault St.bounds 0x01
    | some a =>
      if op.bench % 64 ≠ 0 || a % 64 ≠ 0 then .ends d St.sizeUnsupported 0x02
      else
        let sumOk := match op.rowSum with
          | some (off, f) => d.inShare q.ctx off (rowSumBytes f op.bytes)
          | none => true
        if !(d.inShare q.ctx op.bench op.bytes && sumOk) then .fault St.bounds 0x04
        else
          let data := if store then codecEncode op.codec (d.shareRead q.ctx q.core op.bench op.bytes) else []
          let n := if store then data.length else codecSize op.codec op.bytes
          match d.veto q op.far a (codecSize op.codec op.bytes) store true with
          | some v => v.did (d.noteVeto a v)
          | none =>
            let r := d.launch q (if store then b.digestWith data else b) k a op.bench op.bytes n
              (.plain op.codec op.rowSum (d.tensorTag q op a)) data
            .done r.1 r.2

/-! ### Synchronisation objects (R84 to R87) -/

/-- The key of a slab object of a context and its instance: 0 the primary, 1 the replica. -/
def objKey (ctx : Nat) (replica : Bool) (obj : Nat) : Nat := (2 * ctx + if replica then 1 else 0) * 65536 + obj

/-- The value of a seat's object. -/
def Device.obj (d : Device) (q : Seat) (o : Nat) : Half := tgetD d.objects (objKey q.ctx q.replica o) 0

/-- The device with a seat's object set. -/
def Device.setObj (d : Device) (q : Seat) (o : Nat) (v : Half) : Device :=
  { d with objects := tputD d.objects (objKey q.ctx q.replica o) v 0 }

/-- An object raised, or none where it would pass 0xFFFF_FFFF (R87). -/
def Device.addObj (d : Device) (q : Seat) (o : Nat) (n : Nat) : Option Device :=
  if 2 ^ 32 ≤ (d.obj q o).toNat + n then none else some (d.setObj q o (BitVec.ofNat 32 ((d.obj q o).toNat + n)))

/-- A unit that waits. -/
def Bank.wait (b : Bank) (k : UnitKind) (w : WaitCond) : Bank := b.setUnit k { b.unit k with waiting := some w }

/-- The effect of SIG. -/
def syncSig (d : Device) (q : Seat) (b : Bank) (o n : Nat) : Did :=
  match d.addObj q o n with
  | some d => .done d b
  | none => .fault St.bounds 0x06

/-- The effect of WAIT. -/
def syncWait (d : Device) (q : Seat) (b : Bank) (k : UnitKind) (o : Nat) (v : Half) : Did :=
  if v ≤ d.obj q o then .done d b else .done d (b.wait k (.atLeast o v))

/-- The effect of TAKE. -/
def syncTake (d : Device) (q : Seat) (b : Bank) (k : UnitKind) (o : Nat) (n : Half) : Did :=
  if n ≤ d.obj q o then .done (d.setObj q o (d.obj q o - n)) b else .done d (b.wait k (.taking o n))

/-- The effect of SIGDONE, which only the streamers have (R82). -/
def syncSigdone (d : Device) (q : Seat) (b : Bank) (k : UnitKind) (o : Nat) (n : BitVec 16) : Did :=
  if k = .exec then .hold
  else if (b.outstanding k).isEmpty then syncSig d q b o n.toNat
  else .done d (b.wait k (.done o n))

/-! ### WALK (R153, R154, R159) -/

/-- The rows of the walk in force issued one after another, each as one transfer (log entry 82) into the next slot once the slot's
object shows it free (R55); the unit waits where it does not. -/
def walkGo (q : Seat) : Nat → Device → Bank → Did
  | 0, d, b => .done d b
  | n + 1, d, b =>
    match b.walk with
    | none => .done d b
    | some w =>
      let op := w.op
      let rows := planRows op.plan
      match rows[w.next]? with
      | none => .done d b
      | some y =>
        if (d.obj q op.free).toNat = 0 || d.loadsFull q b then
          .done d (b.wait .load (.taking op.free 1))
        else
          let a := w.base + y * walkPitch op
          let slot := op.lines + w.next % op.plan.slots * planRowBytes op.plan
          let sumOk := match op.rowSum with
            | some (off, f) => d.inShare q.ctx off (op.plan.slots * rowSumBytes f (planRowBytes op.plan))
            | none => true
          if !(d.inShare q.ctx slot (planRowBytes op.plan) && sumOk) then .fault St.bounds 0x04
          else
            match d.vetoRole (d.ctx q.ctx).tenancy a (walkPitch op) false true with
            | some v => v.did (d.noteVeto a v)
            | none =>
              let d := d.setObj q op.free (d.obj q op.free - 1)
              let r := d.launch q b .load a slot (planRowBytes op.plan) (walkPitch op) (.walkRow op y) []
              walkGo q n r.1 { r.2 with walk := some { w with next := w.next + 1 } }

/-- The effect of WALK; one that breaks R152 stands in no slab that was admitted. -/
def walk (d : Device) (q : Seat) (b : Bank) (op : WalkOp) : Did :=
  if !walkOk op then .hold
  else
  match d.roleBase q (q.roleOf op.role.val) with
  | none => .fault St.bounds 0x01
  | some base =>
    walkGo q (planRows op.plan).length d { b with walk := some { op := op, base := base + op.base, next := 0 } }

/-- Whether the load streamer is still issuing rows of the walk in force. -/
def Bank.walking (b : Bank) : Bool :=
  match b.walk with
  | some w => decide (w.next < (planRows w.op.plan).length)
  | none => false

/-- The number of rows that the walk in force fetches. -/
def Bank.walkRows (b : Bank) : Nat :=
  match b.walk with
  | some w => (planRows w.op.plan).length
  | none => 0

/-! ### ORDERED (R56) -/

/-- Whether a size is one of an ordered access. -/
def orderedSize (n : Nat) : Bool := n = 4 || n = 8 || n = 16 || n = 32 || n = 64

/-- An ordered access issued: exactly once, with nothing of the streamer before it outstanding. -/
def orderedIssue (d : Device) (q : Seat) (b : Bank) (k : UnitKind) (op : OrderedOp) : Did :=
  if !orderedSize op.bytes then .ends d St.sizeUnsupported 0x01
  else
    match d.farAddr q op.far with
    | none => .fault St.bounds 0x01
    | some a =>
      if a % op.bytes ≠ 0 || op.bench % op.bytes ≠ 0 then .ends d St.sizeUnsupported 0x02
      else if !d.inShare q.ctx op.bench op.bytes then .fault St.bounds 0x04
      else
        match d.veto q op.far a op.bytes (k = .store) false with
        | some v => v.did (d.noteVeto a v)
        | none =>
          let data := if k = .store then d.shareRead q.ctx q.core op.bench op.bytes else []
          let r := d.launch q (b.digestWith data) k a op.bench op.bytes op.bytes .ordered data
          .done r.1 r.2

/-- The effect of ORDERED. -/
def orderedStart (d : Device) (q : Seat) (b : Bank) (k : UnitKind) (op : OrderedOp) : Did :=
  if (b.outstanding k).isEmpty then orderedIssue d q b k op else .done d (b.wait k (.ordered op))

/-! ### DIGEST (R117), LOOP (R81) and END (R83) -/

/-- The place of a result among a slab's results. -/
def Slab.resultAt (s : Slab) (id : BitVec 16) : Option Nat := placeOf (s.results.map fun r => r.id.toNat) id.toNat

/-- The key of a digest of an instance. -/
def digestKey (result : Nat) (replica : Bool) : Nat := 2 * result + if replica then 1 else 0

/-- The effect of DIGEST: opens a digest, or closes it and sends it to the checker. One opened again drops the open one, and a second
close replaces the digest sent (log entry 95). -/
def digest (d : Device) (q : Seat) (b : Bank) : DigestOp → Did
  | .start r => .done d { b with digest := some { result := r, crc := 0 } }
  | .stop =>
    match b.digest with
    | none => .done d b
    | some g =>
      let d := match q.slab.resultAt g.result with
        | some i => d.modRun q.ctx fun r => { r with digests := tput r.digests (digestKey i q.replica) g.crc }
        | none => d
      .done d { b with digest := none }

/-- The physical base of a context's serving table. -/
def Device.servingBase (d : Device) (c : Nat) : Option Nat :=
  match (d.ctx c).servingWindow with
  | some w => (tget (d.ten (d.ctx c).tenancy).windows w).map (·.base)
  | none => none

/-- The active slot count of a context's serving table (R94, R227). -/
def Device.activeCount (d : Device) (c : Nat) : Nat :=
  match d.servingBase c with
  | some a => natOfBytes (d.rd a 4)
  | none => 0

/-- The effect of LOOP: opens a counted loop, at most four deep. The active slot count is read through the core's port. -/
def loopOp (d : Device) (q : Seat) (b : Bank) (k : UnitKind) (n : LoopCount) : Did :=
  let u := b.unit k
  let push := fun (n : Nat) => Did.done d (b.setUnit k { u with loops := (n :: u.loops).take 4 })
  match n with
  | .fixed n => push n
  | .activeSlots =>
    match d.servingBase q.ctx with
    | none => push 0
    | some a =>
      if d.addrOff a then .ends d St.unitOffline 0
      else match d.lineIssue (q.core / 4) (d.bucketOwner q.ctx) a with
        | none => .hold
        | some (_, d) =>
          let n := d.activeCount q.ctx
          if (q.slab.loopMax.getD 0) < n then .fault St.bounds 0x03
          else .done (d.serve a 4 false) (b.setUnit k { u with loops := (n :: u.loops).take 4 })

/-- The effect of END. -/
def endOp (d : Device) (b : Bank) (k : UnitKind) : Did := .done d (b.setUnit k { b.unit k with ended := true })

/-! ### Completion of transfers (R109, R167, R218) -/

/-- The bytes of parts put into the Bench, one segment after another: of an uncompressed part the lines that were read. -/
def landParts (d : Device) (c core : Nat) (near : Nat) : List StoredPart → List Byte → Device
  | [], _ => d
  | p :: ps, got =>
    let n := (codecLines p.codec p.bytes p.touched got).1.length
    let d :=
      if p.codec = .none then
        (List.range n).foldl
          (fun d i => d.shareWrite c core (near + 64 * p.touched.getD i 0) (slice got (64 * i) 64)) d
      else d.shareWrite c core near (codecDecode p.codec p.bytes (got.take (64 * n)))
    landParts d c core (near + p.bytes) ps (got.drop (64 * n))

/-- The row sums of bytes written at a Bench offset (R132). -/
def Device.writeRowSums (d : Device) (c core off : Nat) (f : Fmt) (bs : List Byte) : Device :=
  d.shareWrite c core off (rowSums f bs)

/-- The data of a load put into the Bench: `stored` are the bytes read at the far end. -/
def landLoad (d : Device) (c core : Nat) (b : Bank) (t : Transfer) (stored : List Byte) : Device × Bank :=
  match t.kind with
  | .ordered => (d.shareWrite c core t.near stored, b)
  | .plain codec sums tensor =>
    let bs := codecDecode codec t.bytes stored
    let d := d.shareWrite c core t.near bs
    let d := match sums with
      | some (off, f) => d.writeRowSums c core off f bs
      | none => d
    (d, match tensor with
      | some tag => { b with bufferTags := tput b.bufferTags t.near tag }
      | none => { b with bufferTags := tdel b.bufferTags t.near })
  | .walkRow op _ =>
    let d := landParts d c core t.near t.parts stored
    match op.rowSum with
    | some (off, f) =>
      let n := rowSumBytes f (planRowBytes op.plan)
      let slot := (t.near - op.lines) / max 1 (planRowBytes op.plan)
      (d.writeRowSums c core (off + slot * n) f (d.shareRead c core t.near (planRowBytes op.plan)), b)
    | none => (d, b)

/-- Lines of a store put at the far end, or sent on the link. -/
def storeLine (d : Device) (a : Nat) (bs : List Byte) : Device :=
  match d.region a with
  | .outbound pc _ => d.emitWrites pc a bs
  | _ => d.wr a bs

/-- The full object of a walk's slot raised when a row has landed. -/
def walkLanded (d : Device) (c core : Nat) (t : Transfer) : Device :=
  match t.kind, d.seatIn c core with
  | .walkRow op _, some q =>
    match d.addObj q op.full 1 with
    | some d => d
    | none => d.ctxFault c core St.bounds 0x06
  | _, _ => d

/-- The bank without a transfer. -/
def Bank.retire (b : Bank) (id : Nat) : Bank := { b with transfers := b.transfers.filter fun t => t.id ≠ id }

/-- The device with a transfer of a bank replaced. -/
def Device.setTransfer (d : Device) (core c : Nat) (t : Transfer) : Device :=
  let b := d.bank core c
  d.setBank core c { b with transfers := b.transfers.map fun x => if x.id = t.id then t else x }

/-- The device with the lines of a transfer that wait given up; one with nothing outstanding is over. -/
def Device.cutTransfer (d : Device) (core c : Nat) (t : Transfer) : Device :=
  if t.sent ≤ t.done then d.setBank core c ((d.bank core c).retire t.id) else d.setTransfer core c { t with cut := true }

/-- The lines of a transfer that wait issued as far as they go; one that meets a unit held offline ends its run (R313). -/
def Device.reissue (d : Device) (core c : Nat) (t : Transfer) : Device :=
  if t.lines.length ≤ t.sent then d
  else
    let r := d.advance core c t (lineLimit t.unit - d.linesOut core t.unit)
    let d := r.2.1.setTransfer core c r.2.2
    if r.1 then (d.cutTransfer core c r.2.2).stopRun c St.unitOffline 0 else d

/-- Every waiting transfer of a core issued as far as it goes. -/
def Device.reissueCore (d : Device) (core : Nat) : Device :=
  d.banks.foldl (fun d e => if e.1 / 256 = core then
    e.2.transfers.foldl (fun d t => d.reissue core (e.1 % 256) t) d else d) d

/-- A transfer of a context whose last line has completed, whatever the core is then doing (R218): a load's data put into the
Bench, a store's chunk ended (R391). -/
def Device.complete (d : Device) (core c : Nat) (t : Transfer) : Device :=
  let b := (d.bank core c).retire t.id
  if t.cut then d.setBank core c b
  else if t.unit = .store then
    let d := d.setBank core c b
    if t.kind = .ordered then d else d.chunkEnd t.far
  else
    let r := landLoad d c core b t t.data
    walkLanded (r.1.setBank core c r.2) c core t

/-- The ticks at which the next lines to complete were issued, one a line. -/
def Transfer.issueTicks (t : Transfer) : List Nat := (t.issued.flatMap fun e => List.replicate e.2 e.1).drop t.done

/-- The device with lines of a result's bytes that have been written marked in the run (R106): 64 × the line within the result. -/
def Device.noteStored (d : Device) (core c a : Nat) : Device :=
  match d.seatIn c core with
  | none => d
  | some q =>
    if q.replica then d
    else
      (List.range q.slab.results.length).foldl (fun d i =>
        match q.slab.results[i]? with
        | none => d
        | some r =>
          match d.roleBase q r.role with
          | none => d
          | some base =>
            if base + r.offset < a + 64 && a < base + r.offset + r.bytes then
              d.modRun c fun x => { x with stored := tput x.stored i (addMember (tgetD x.stored i []) (a / 64)) }
            else d) d

/-- One line of a transfer completed: served, judged against its class's target (R194) or its window's latency (R245), and its
data moved. -/
def lineDone (core c : Nat) (d : Device) (t : Transfer) (off tick : Nat) : Device × Transfer :=
  let a := t.far + off
  let n := t.lineBytes
  let elapsed := (d.alm.ticks - tick) * 10
  let d := (d.serveLine a n (t.unit = .store)).checkLatency a elapsed
  let d := if d.inMemory a 1 then d else d.checkWindowLatency (d.ctx c).tenancy a elapsed
  if t.unit = .store then
    let bs := (t.data.drop (64 * t.done)).take n
    ((storeLine d a bs).noteStored core c a, { t with done := t.done + 1 })
  else (d, { t with data := t.data ++ d.rd a n, done := t.done + 1 })

/-- Lines of a transfer completed one after another. -/
def linesDone (core c : Nat) : List (Nat × Nat) → Device → Transfer → Device × Transfer
  | [], d, t => (d, t)
  | (off, tick) :: l, d, t =>
    let r := lineDone core c d t off tick
    linesDone core c l r.1 r.2

/-- The effect of lines of a transfer that have completed: the transfer ends with its last line, and what waits is issued. -/
def Device.progress (d : Device) (core c : Nat) (t : Transfer) : Device :=
  let d := d.setTransfer core c t
  let d := if t.lines.length ≤ t.done then d.complete core c t else d
  d.reissueCore core

/-- The effect of TRANSFER_COMPLETE: the next `lines` lines of a transfer complete. Nothing where no such transfer has as many
outstanding, behind a peer's chunk (R391), or where the lines are outbound reads, which their own completions end. -/
def transferComplete (d : Device) (core : Nat) (k : UnitKind) (c id lines : Nat) (ecc : Ecc) : Device :=
  match (d.bank core c).transfers.find? fun t => t.id = id && t.unit = k with
  | none => d
  | some t =>
    let l := ((t.lines.drop t.done).take lines).zip t.issueTicks
    let outRead := k = .load && d.isOutbound t.far
    if lines = 0 || decide (l.length < lines) || outRead || (t.kind ≠ .ordered && d.twinHeld t.far) then d
    else
      let source := if k = .store then benchAddr core 0 else t.far
      match ecc with
      | .uncorrectable i =>
        let b := (d.bank core c).retire id
        ((d.noteUe (source + i)).setBank core c b).ctxUncorr c core (d.eccDetail source)
      | _ =>
        let r := linesDone core c l (d.memEcc source ecc) t
        r.1.progress core c r.2

/-! ### A wait that ends (R86) -/

/-- What a waiting unit does when its condition holds, or none where it does not hold. -/
def released (d : Device) (q : Seat) (b : Bank) (k : UnitKind) (w : WaitCond) : Option Did :=
  let b' := b.setUnit k { b.unit k with waiting := none }
  match w with
  | .atLeast o v => if v ≤ d.obj q o then some (.done d b') else none
  | .taking o n =>
    if k = .load && b.walking then
      if (d.obj q o).toNat = 0 || d.loadsFull q b then none
      else some (walkGo q b.walkRows d b')
    else if n ≤ d.obj q o then some (.done (d.setObj q o (d.obj q o - n)) b') else none
  | .done o n => if (b.outstanding k).isEmpty then some (syncSig d q b' o n.toNat) else none
  | .ordered op => if (b.outstanding k).isEmpty then some (orderedIssue d q b' k op) else none

/-- The outcome of a released wait put into the device; the instruction has been counted when it was issued. -/
def Device.settleWait (d : Device) (q : Seat) : Did → Device
  | .done d' b => d'.setBank q.core q.ctx b
  | .fault status detail => d.ctxFault q.ctx q.core status detail
  | .ends d' status detail => d'.stopRun q.ctx status detail
  | .hold => d

/-- The effect of SYNC_WAIT_RELEASED. -/
def syncRelease (d : Device) (core : Nat) (k : UnitKind) : Device :=
  match d.seat core with
  | none => d
  | some q =>
    let b := d.bank core q.ctx
    match (b.unit k).waiting with
    | none => d
    | some w =>
      match released d q b k w with
      | none => d
      | some r => d.settleWait q r

/-! ### The commands -/

/-- LOOP. -/
def execLoop (u : CoreUse) (unit : UnitKind) (count : LoopCount) (s : State) : Host.Outcome State Fault Refusal :=
  actLive s fun d => d.issueEcc u unit fun d q b => loopOp d q b unit count

/-- END. -/
def execEnd (u : CoreUse) (unit : UnitKind) (s : State) : Host.Outcome State Fault Refusal :=
  actLive s fun d => d.issueEcc u unit fun d _ b => endOp d b unit

/-- XFER. -/
def execXfer (u : CoreUse) (store : Bool) (op : XferOp) (s : State) : Host.Outcome State Fault Refusal :=
  actLive s fun d => d.issueEcc u (if store then .store else .load) fun d q b => xfer d q b store op

/-- WALK. -/
def execWalk (u : CoreUse) (op : WalkOp) (s : State) : Host.Outcome State Fault Refusal :=
  actLive s fun d => d.issueEcc u .load fun d q b => walk d q b op

/-- ORDERED. -/
def execOrdered (u : CoreUse) (store : Bool) (op : OrderedOp) (s : State) : Host.Outcome State Fault Refusal :=
  actLive s fun d =>
    d.issueEcc u (if store then .store else .load) fun d q b => orderedStart d q b (if store then .store else .load) op

/-- DIGEST. -/
def execDigest (u : CoreUse) (op : DigestOp) (s : State) : Host.Outcome State Fault Refusal :=
  actLive s fun d => d.issueEcc u .store fun d q b => digest d q b op

/-- SIG. -/
def execSig (at_ : SyncAt) (n : BitVec 16) (s : State) : Host.Outcome State Fault Refusal :=
  actLive s fun d => d.issue at_.core at_.unit fun d q b => syncSig d q b at_.object n.toNat

/-- WAIT. -/
def execWait (at_ : SyncAt) (v : Half) (s : State) : Host.Outcome State Fault Refusal :=
  actLive s fun d => d.issue at_.core at_.unit fun d q b => syncWait d q b at_.unit at_.object v

/-- TAKE. -/
def execTake (at_ : SyncAt) (n : Half) (s : State) : Host.Outcome State Fault Refusal :=
  actLive s fun d => d.issue at_.core at_.unit fun d q b => syncTake d q b at_.unit at_.object n

/-- SET. -/
def execSet (at_ : SyncAt) (v : Half) (s : State) : Host.Outcome State Fault Refusal :=
  actLive s fun d => d.issue at_.core at_.unit fun d q b => .done (d.setObj q at_.object v) b

/-- SIGDONE. -/
def execSigdone (at_ : SyncAt) (n : BitVec 16) (s : State) : Host.Outcome State Fault Refusal :=
  actLive s fun d => d.issue at_.core at_.unit fun d q b => syncSigdone d q b at_.unit at_.object n

/-- SYNC_WAIT_RELEASED. -/
def execSyncWaitReleased (core : Fin 96) (unit : UnitKind) (s : State) : Host.Outcome State Fault Refusal :=
  actLive s fun d => syncRelease d core unit

/-- TRANSFER_COMPLETE. -/
def execTransferComplete (core : Fin 96) (unit : UnitKind) (ctx : Fin 256) (id : Nat) (ecc : Ecc) (s : State) (lines : Nat := 1) :
    Host.Outcome State Fault Refusal :=
  actLive s fun d => transferComplete d core unit ctx id lines ecc

end Sys2Proof.Machine
end

