-- ==== Sys2Proof/Machine/Rings.lean ====
section
/-!
DEFINITION. Rings: doorbells, completion entries, interrupts, ring faults, notices, and the head of a ring (R246 to R253,
R255, R256, R259 to R262, R265, R268).
-/

namespace Sys2Proof.Machine

/-! ### The rings of the device -/

/-- A ring by numbers. -/
def ringRefOf (t r : Nat) : RingRef := .ring (Fin.ofNat 64 t) (Fin.ofNat 17 r)

/-- The rings that are set up, by their number among the requesters of an arbiter: ring r of tenancy t is 17t + r, the administrative
ring comes last (log entry 85). -/
def Device.ringRefs (d : Device) : List (Nat × RingRef) :=
  (d.tenancies.flatMap fun t => t.2.rings.map fun r => (17 * t.1 + r.1, ringRefOf t.1 r.1)) ++ [(1088, .admin)]

/-- The requester that an arbiter grants: the first at or after its pointer, wrapping round (R70). -/
def grantOf (pointer : Nat) (asking : List (Nat × RingRef)) : Option (Nat × RingRef) :=
  match asking.find? fun e => pointer ≤ e.1 with
  | some e => some e
  | none => asking.head?

/-! ### Descriptors -/

/-- The opcode of a descriptor. -/
def QDesc.opcode (x : QDesc) : Nat := fieldAt x.raw 0x18 1
/-- Whether a descriptor asks for an interrupt. -/
def QDesc.notify (x : QDesc) : Bool := fieldAt x.raw 0x19 1 % 2 = 1
/-- A field of a descriptor. -/
def QDesc.field (x : QDesc) (off len : Nat) : Nat := fieldAt x.raw off len

/-- The tenancy byte of a ring: 0xFF for the administrative ring. -/
def ringTenancy : RingRef → Byte
  | .admin => 0xFF
  | .ring t _ => BitVec.ofNat 8 t.val

/-- The context byte of a ring: that of the context bound to it, else 0xFF. -/
def Device.ringContext (d : Device) (k : RingRef) : Byte :=
  match (d.ring k).ctx with
  | some c => BitVec.ofNat 8 c
  | none => 0xFF

/-- The tags of a completion of a descriptor: the descriptor's, with the context and tenancy of the ring (R255). -/
def Device.descTags (d : Device) (k : RingRef) (x : QDesc) : List Byte :=
  d.ringContext k :: ringTenancy k :: slice x.raw 2 22

/-- The bytes of a tag header. -/
def Tags.bytes (g : Tags) : List Byte :=
  [g.context, g.tenancy, BitVec.ofNat 8 ((if g.frameValid then 1 else 0) + if g.ingressFail then 2 else 0), g.seqTag] ++
    bytesOfNat 4 g.frameCounter.toNat ++ bytesOfNat 8 g.timestamp.toNat ++ bytesOfNat 4 g.frameCrc.toNat ++
    bytesOfNat 4 0

/-- The tag header that bytes hold. -/
def tagsOf (bs : List Byte) : Tags :=
  { context := bs.getD 0 0, tenancy := bs.getD 1 0, frameValid := (bs.getD 2 0).getLsbD 0,
    ingressFail := (bs.getD 2 0).getLsbD 1, seqTag := bs.getD 3 0, frameCounter := BitVec.ofNat 32 (fieldAt bs 4 4),
    timestamp := BitVec.ofNat 64 (fieldAt bs 8 8), frameCrc := BitVec.ofNat 32 (fieldAt bs 16 4) }

/-! ### Interrupts (R262) -/

/-- Whether a controller can send an MSI now: an endpoint with its link up and MSI enabled by the host. -/
def Device.canMsi (d : Device) (pc : Pc) : Bool :=
  d.role pc = 2 && d.linkUp pc && (match pc with
    | .a => d.links.msiA
    | .b => d.links.msiB)

/-- The signal of a tenancy sent, or held where its MSI cannot be sent. -/
def Device.signal (d : Device) (t : Nat) : Device :=
  let x := d.ten t
  let msi := fun (pc : Pc) =>
    if d.canMsi pc then d.emit (.msi pc x.vector.toNat) else d.setTen t { x with heldMsi := true }
  match x.target with
  | 0 => d.raise (t + 1)
  | 1 => msi .a
  | 2 => msi .b
  | _ => d

/-- The signal of the administrative ring sent, held, or discarded where its controller is no endpoint. -/
def Device.signalAdmin (d : Device) : Device :=
  let msi := fun (pc : Pc) =>
    if d.role pc ≠ 2 then d
    else if d.canMsi pc then d.emit (.msi pc 0)
    else { d with links := { d.links with adminHeld := true } }
  match d.fld Reg.hifAdminCtrl 4 2 with
  | 0 => d.raise 65
  | 1 => msi .a
  | 2 => msi .b
  | _ => d

/-- The signals held for a controller sent once it can send them. -/
def Device.releaseMsi (d : Device) (pc : Pc) : Device :=
  if !d.canMsi pc then d
  else
    let n := match pc with
      | .a => 1
      | .b => 2
    let d := (List.range 64).foldl (fun d t =>
      let x := d.ten t
      if x.heldMsi && x.target.toNat = n then (d.setTen t { x with heldMsi := false }).emit (.msi pc x.vector.toNat)
      else d) d
    if d.links.adminHeld && d.fld Reg.hifAdminCtrl 4 2 = n then
      { d with links := { d.links with adminHeld := false } }.emit (.msi pc 0)
    else d

/-! ### Completion entries (R260) -/

/-- The entries of a ring reserved by its queued descriptors. -/
def Ring.reserved (r : Ring) : Nat := (r.queued.map (·.reserved)).sum

/-- The free entries of a completion ring (R251). -/
def Ring.free (r : Ring) : Nat := 2 ^ r.n - (r.reserved + countDiff r.cqTail r.cqHead)

/-- The bytes of a completion entry. -/
def entryBytes (r : Ring) (tags : List Byte) (status detail kind : Byte) (index : Half) (payload : List Byte) : List Byte :=
  let phase := 1 - r.cqTail.toNat / 2 ^ r.n % 2
  slice tags 0 24 ++ [status, detail, kind, BitVec.ofNat 8 phase] ++ bytesOfNat 4 index.toNat ++ slice payload 0 32

/-- Whether an address lies in no range that a ring may use: the map alone checks the administrative ring (R265). -/
def Device.ringAddrOk (d : Device) (k : RingRef) (a n : Nat) (read write : Bool) : Bool :=
  match k with
  | .admin => match d.region a with
    | .reserved | .regs _ | .doorbell _ _ => false
    | _ => true
  | .ring t _ => d.allowed t a n read write

/-- Whether a ring access meets a link that is down (R276). -/
def Device.linkDown (d : Device) (a : Nat) : Option Pc :=
  match d.region a with
  | .outbound pc link => if d.linkUpAt pc link then none else some pc
  | _ => none

/-- Whether a read meets a link that is down, or a twin link, on which only writes travel (R276, R388). -/
def Device.readDown (d : Device) (a : Nat) : Option Pc :=
  match d.linkDown a, d.twinLinkOf a with
  | some pc, _ => some pc
  | none, some _ => some .b
  | none, none => none

/-- The device with the pages of a ring's write marked in its tenancy's log. -/
def Device.ringLog (d : Device) (k : RingRef) (a n : Nat) : Device :=
  match k with
  | .admin => d
  | .ring t _ => d.logWrite t a n

/-- The device with bytes written by the copy engine on behalf of a ring: through port 28, coherent with the host caches, or on a link
(R259, R288). -/
def Device.ringWrite (d : Device) (k : RingRef) (a : Nat) (bs : List Byte) : Device :=
  let d := d.ringLog k a bs.length
  match d.region a with
  | .outbound pc _ => d.emitWrites pc a bs
  | _ => (d.charge 28 a bs.length true).coWrite a bs

/-- The address of the next completion entry of a ring (R246). -/
def Ring.entryAt (r : Ring) : Nat := r.cqBase + 64 * (r.cqTail.toNat % 2 ^ r.n)

/-- Whether port 28 holds the line of a ring's next completion entry: what would write it waits (R190, R198, R259). -/
def Device.entryHeld (d : Device) (k : RingRef) : Bool := d.portHolds 28 (d.ring k).entryAt

/-- Puts an entry at the tail of a completion ring and counts it. A write that cannot be made is a failure to report, and no entry
(log entry 42). -/
def Device.putEntry (d : Device) (k : RingRef) (tags : List Byte) (status detail kind : Byte) (index : Half)
    (payload : List Byte) : Device × Bool :=
  let r := d.ring k
  match d.linkDown r.entryAt with
  | some pc => (d.linkFailed pc, false)
  | none =>
    if d.ringAddrOk k r.entryAt 64 false true && !d.addrOff r.entryAt then
      ((d.setRing k { r with cqTail := r.cqTail + 1 }).ringWrite k r.entryAt
        (entryBytes r tags status detail kind index payload), true)
    else (d, false)

/-- The bytes of a notice's payload. -/
def Notice.payload (n : Notice) : List Byte :=
  [n.kind, n.context, n.tenancy, n.ring] ++ bytesOfNat 4 n.sqHead.toNat ++ bytesOfNat 8 n.time.toNat ++ [n.core, n.cause]

/-- The administrative ring stopped by a fault (R265). -/
def Device.adminFault (d : Device) : Device :=
  { d with admin := { d.admin with state := .stopped } }.orReg Reg.hifSticky 2

/-- Held notices written, each into the next free entry, while the administrative ring runs; one that cannot be written stays held
(R268). -/
def Device.flushNotices : Nat → Device → Device
  | 0, d => d
  | n + 1, d =>
    match d.notices with
    | [] => d
    | x :: rest =>
      if d.admin.state ≠ .running || d.admin.free = 0 || d.entryHeld .admin then d
      else
        let p := d.putEntry .admin (0xFF :: 0xFF :: List.replicate 22 0) x.status x.detail 0x04 0xFFFFFFFF x.payload
        if p.2 then Device.flushNotices n ({ p.1 with notices := rest }).signalAdmin else p.1.adminFault

/-- A notice queued and written if it can be. -/
def Device.notice (d : Device) (n : Notice) : Device :=
  Device.flushNotices (d.notices.length + 1) { d with notices := d.notices ++ [n] }

/-- A ring fault (R253, R265): the ring stops with its cause; a second fault of a stopped ring starts nothing. -/
def Device.ringFault (d : Device) (k : RingRef) (cause : Byte) : Device :=
  match k with
  | .admin => if d.admin.state = .running then d.adminFault else d
  | .ring t r =>
    let x := d.ring k
    if x.state ≠ .running then d
    else
      let d := (d.setRing k { x with state := .stopped, cause := cause }).orReg Reg.hifSticky 1
      d.notice { kind := 0x02, context := d.ringContext k, tenancy := BitVec.ofNat 8 t.val, ring := BitVec.ofNat 8 r.val,
                 sqHead := x.sqHead, time := d.ns, core := 0xFF, cause := cause, status := 0, detail := 0 }

/-- An entry of a queued descriptor written, and whether it was: a failed write is a ring fault (R243, R277). -/
def Device.entry' (d : Device) (k : RingRef) (tags : List Byte) (status detail kind : Byte) (index : Half)
    (payload : List Byte) : Device × Bool :=
  let p := d.putEntry k tags status detail kind index payload
  if p.2 then p else (p.1.ringFault k 0x04, false)

/-- The device with the head descriptor's reservation lowered by one entry. -/
def Device.useEntry (d : Device) (k : RingRef) : Device :=
  let r := d.ring k
  match r.queued with
  | [] => d
  | x :: rest => d.setRing k { r with queued := { x with reserved := x.reserved - 1 } :: rest }

/-- The device with the head descriptor taken off a ring, having completed. -/
def Device.popHead (d : Device) (k : RingRef) : Device :=
  let r := d.ring k
  d.setRing k { r with queued := r.queued.drop 1, job := .idle }

/-- The interrupt of a descriptor whose last entry has been written. -/
def Device.notifyFor (d : Device) (k : RingRef) (x : QDesc) : Device :=
  if !x.notify then d
  else match k with
    | .admin => d.signalAdmin
    | .ring t _ => d.signal t

/-- The last entry of a descriptor written, with its interrupt where the entry was (R262). -/
def Device.lastEntry (d : Device) (k : RingRef) (x : QDesc) (tags : List Byte) (status detail kind : Byte)
    (payload : List Byte) : Device :=
  let p := d.entry' k tags status detail kind x.index payload
  if p.2 then p.1.notifyFor k x else p.1

/-- The head descriptor of a ring completed with a DONE entry. -/
def Device.done (d : Device) (k : RingRef) (status detail : Byte) (value : Nat) : Device :=
  match (d.ring k).queued with
  | [] => d
  | x :: _ =>
    let tags := d.descTags k x
    (d.popHead k).lastEntry k x tags status detail 0x03 (bytesOfNat 8 value ++ bytesOfNat 8 d.ns.toNat)

/-- The Foreman's job of a RUN at the head of a ring. -/
def Device.jobOf (d : Device) (k : RingRef) (x : QDesc) : Option FmJob :=
  match (d.ring k).ctx with
  | some c => d.jobs.find? fun j => j.ctx = c && j.index = x.index
  | none => none

/-- The start, in ns, of a job's run; all ones for a RUN that never started. -/
def startOf (j : Option FmJob) : Nat :=
  match j with
  | some { started := some t, .. } => t.toNat
  | _ => 2 ^ 64 - 1

/-- The RUN_END payload of a RUN that ran no slab: the saturations and the results of its graph package, 0 where none ran (R28,
R34; log entry 84). -/
def jobPayload (slab sat ok start : Nat) (now : Word) : List Byte :=
  bytesOfNat 4 sat ++ [BitVec.ofNat 8 slab, 0] ++ bytesOfNat 2 ok ++ bytesOfNat 8 start ++ bytesOfNat 8 now.toNat

/-- The results that a job's package declares, where its run has started. -/
def Device.jobResults (d : Device) (j : Option FmJob) : List (BitVec 16) :=
  match j with
  | some j =>
    if j.started.isNone then []
    else match tget (d.ctx j.ctx).loaded j.slab with
      | some (.package p) => p.results
      | _ => []
  | none => []

/-- The RESULT entry of a result of a job's package, which states no bound (R28), and whether it was written. -/
def Device.jobEntry (d : Device) (k : RingRef) (x : QDesc) (id : BitVec 16) (start : Nat) (status detail : Byte) :
    Device × Bool :=
  (d.useEntry k).entry' k (d.descTags k x) status detail 0x01 x.index
    (bytesOfNat 8 id.toNat ++ bytesOfNat 8 start ++ bytesOfNat 8 (2 ^ 64 - 1) ++ bytesOfNat 8 d.ns.toNat)

/-- The device without the Foreman's job of a RUN, whose pages no job pins any longer. -/
def Device.dropJob (d : Device) (k : RingRef) (x : QDesc) : Device :=
  match (d.ring k).ctx with
  | none => d
  | some c =>
    if !d.jobs.any (fun j => j.ctx = c && j.index = x.index) then d
    else
      let free := fun (p : Page) => if p.ctx = c then { p with pinned := false } else p
      { d with jobs := d.jobs.filter fun j => j.ctx ≠ c || j.index ≠ x.index
               pools := d.pools.map fun e => (e.1, e.2.map free) }

/-- The head descriptor completed with one entry: a RUN that ran no slab with RUN_END, any other with DONE (the text after the
table "Completion payloads"). -/
def Device.dismiss (d : Device) (k : RingRef) (status detail : Byte) : Device :=
  match (d.ring k).queued with
  | [] => d
  | x :: _ =>
    if x.opcode ≠ 3 then d.done k status detail 0
    else
      let tags := d.descTags k x
      let j := d.jobOf k x
      let d := (d.jobResults j).foldl (fun d id => (d.jobEntry k x id (startOf j) status detail).1) d
      let d := (d.dropJob k x).popHead k
      d.lastEntry k x tags status detail 0x02
        (jobPayload (x.field 0x20 1) ((j.map (·.sat)).getD 0) 0 (startOf j) d.ns)

/-! ### The check order of R256 -/

/-- Whether an opcode is allowed on a ring. -/
def opcodeAllowed (k : RingRef) (op : Nat) : Bool :=
  match k with
  | .admin => op = 0 || (0x81 ≤ op && op ≤ 0x8D)
  | .ring _ r => if r.val = 0 then op = 0 || op = 6 else op ≤ 6

/-- Whether a range of a descriptor's bytes is zero. -/
def zeroRange (raw : List Byte) (off n : Nat) : Bool := (slice raw off n).all (· = 0)

/-- Whether the body of a descriptor has only values in range and zero reserved bytes (check 4 of R256). -/
def bodyOk (d : Device) (raw : List Byte) : Bool :=
  let f := fieldAt raw
  let z := zeroRange raw
  let head := f 2 1 ≤ 3 && f 3 1 ≤ 63 && z 0x14 4 && f 0x19 1 ≤ 1 && z 0x1A 2
  head && match f 0x18 1 with
    | 0x01 => (slice raw 0x30 16).all fun b => b.toNat / 16 % 8 = 0
    | 0x02 => f 0x20 1 ≤ 7 && z 0x21 31
    | 0x03 => f 0x20 1 ≤ 7 && f 0x21 1 ≤ 3 && z 0x22 6 && z (0x28 + 8 * f 0x21 1) (24 - 8 * f 0x21 1) &&
        (List.range (f 0x21 1)).all fun e =>
          f (0x28 + 8 * e) 1 ≤ 15 && f (0x29 + 8 * e) 1 ≤ 1
    | 0x04 => z 0x34 12
    | 0x05 => z 0x22 30
    | 0x06 => z 0x34 12
    | 0x81 => f 0x20 1 ≤ 63 && f 0x21 1 ≤ 2 && z 0x23 29 &&
        (f 0x21 1 = 0 || ((1 ≤ f 0x22 1 && f 0x22 1 ≤ 31) && d.role (if f 0x21 1 = 1 then .a else .b) = 2))
    | 0x82 => f 0x20 1 ≤ 63 && z 0x21 31
    | 0x83 => f 0x20 1 ≤ 63 && f 0x21 1 ≤ 15 && f 0x22 1 ≤ 7 && z 0x23 1 && z 0x38 8 &&
        f 0x28 8 % 4096 = 0 && f 0x30 8 % 4096 = 0xFFF && f 0x28 8 ≤ f 0x30 8
    | 0x84 => f 0x20 1 ≤ 63 && f 0x21 1 ≤ 15 && z 0x22 30
    | 0x85 => f 0x20 1 ≤ 63 && f 0x21 1 ≤ 16 && z 0x23 5 && z 0x38 8 && (4 ≤ f 0x22 1 && f 0x22 1 ≤ 12) &&
        f 0x28 8 % (64 * 2 ^ f 0x22 1) = 0 && f 0x30 8 % (64 * 2 ^ f 0x22 1) = 0
    | 0x86 => f 0x20 1 ≤ 63 && f 0x21 1 ≤ 16 && z 0x22 30
    | 0x87 => f 0x21 1 ≤ 63 && (1 ≤ f 0x22 1 && f 0x22 1 ≤ 16) && (f 0x23 1 ≤ 15 || f 0x23 1 = 0xFF) && z 0x24 28
    | 0x88 => z 0x21 31
    | 0x89 | 0x8A => f 0x20 1 ≤ 63 && z 0x21 31
    | 0x8B | 0x8C => f 0x20 1 ≤ 63 && z 0x21 7 && z 0x30 16 && f 0x28 8 % 64 = 0
    | 0x8D => f 0x20 1 ≤ 63 && (1 ≤ f 0x21 1 && f 0x21 1 ≤ 3) && z 0x22 6 && z 0x30 16 &&
        (if f 0x21 1 = 3 then f 0x28 8 = 0 else f 0x28 8 % 64 = 0)
    | _ => z 0x20 32

/-- The first of checks 2 to 5 of R256, and of R266, that the head of a ring fails. -/
def Device.headVeto (d : Device) (k : RingRef) (x : QDesc) : Option (Byte × Byte) :=
  if !opcodeAllowed k x.opcode then some (St.refused, 0x40)
  else if BitVec.ofNat 8 (x.field 0 1) ≠ d.ringContext k || BitVec.ofNat 8 (x.field 1 1) ≠ ringTenancy k then
    some (St.refused, 0x41)
  else if !bodyOk d x.raw then some (St.refused, 0x4B)
  else
    match k with
    | .admin => if d.cfg ≠ .running && x.opcode ≠ 0 then some (St.refused, 0x4A) else none
    | .ring _ _ =>
      match (d.ring k).ctx with
      | some c => if x.opcode ≠ 0 && d.ctxOffline c then some (St.unitOffline, 0) else none
      | none => none

/-- Whether a ring's head is bound to a context that is being torn down or closed: it is neither taken up nor checked. -/
def Device.headHeld (d : Device) (k : RingRef) : Bool :=
  match (d.ring k).ctx with
  | some c => (d.ctx c).st ≠ .opened
  | none => false

/-- Heads that fail checks 2 to 5 completed one after another, `n` at most. -/
def Device.settleHead : Nat → Device → RingRef → Device
  | 0, d, _ => d
  | n + 1, d, k =>
    match (d.ring k).queued with
    | [] => d
    | x :: _ =>
      if (d.ring k).job ≠ .idle || d.headHeld k || d.entryHeld k then d
      else
        match d.headVeto k x with
        | some v => Device.settleHead n (d.dismiss k v.1 v.2) k
        | none => d

/-- The most descriptors a ring can have queued (R251). -/
def queueMax : Nat := 8

/-- The head descriptor completed, and the heads behind it checked. -/
def Device.finish (d : Device) (k : RingRef) (status detail : Byte) (value : Nat) : Device :=
  Device.settleHead queueMax (d.done k status detail value) k

/-- The head descriptor refused, and the heads behind it checked. -/
def Device.refuse (d : Device) (k : RingRef) (detail : Byte) : Device :=
  Device.settleHead queueMax (d.dismiss k St.refused detail) k

/-- The head of a ring where it is of one opcode and waits to be taken up, its completion entry at no line that port 28 holds. -/
def Device.headOf (d : Device) (k : RingRef) (op : Nat) : Option QDesc :=
  match (d.ring k).queued with
  | x :: _ => if x.opcode = op && (d.ring k).job = .idle && !d.headHeld k && !d.entryHeld k then some x else none
  | [] => none

/-- The effect of a descriptor taken up at the head of a ring, checks 2 to 5 of R256 first. -/
def Device.onHead (d : Device) (k : RingRef) (op : Nat) (f : Device → QDesc → Device) : Device :=
  match d.headOf k op with
  | some x =>
    match d.headVeto k x with
    | some _ => Device.settleHead queueMax d k
    | none => f d x
  | none => d

/-! ### Doorbells (R247, R248) -/

/-- A doorbell write that is ignored and counted. -/
def Device.dropDoorbell (d : Device) : Device := (d.addCount Reg.hifDbDropped 0 32 1).orReg Reg.hifSticky 4

/-- Whether a doorbell write reaches a running ring (R248, R265). -/
def Device.doorbellOpen (d : Device) (who : Who) (k : RingRef) : Bool :=
  match k with
  | .admin => d.admin.state = .running
  | .ring t _ =>
    (d.ten t).on && (d.ring k).state = .running && (match who with
      | .bridge pc => d.rdy pc
      | _ => true)

/-- A write to SQ_TAIL. -/
def sqTailWrite (d : Device) (who : Who) (k : RingRef) (v : Half) : Device :=
  let d := d.reply .written
  let r := d.ring k
  if !d.doorbellOpen who k then d.dropDoorbell
  else if 2 ^ r.n < countDiff v r.sqHead then d.ringFault k 0x01
  else d.setRing k { r with sqTail := v }

/-- A write to CQ_HEAD. -/
def cqHeadWrite (d : Device) (who : Who) (k : RingRef) (v : Half) : Device :=
  let d := d.reply .written
  let r := d.ring k
  if !d.doorbellOpen who k then d.dropDoorbell
  else if 2 ^ r.n < countDiff r.cqTail v then d.ringFault k 0x02
  else
    let d := d.setRing k { r with cqHead := v }
    if k = .admin then d.flushNotices d.notices.length else d

/-! ### Fetching (R251) -/

/-- The entries a descriptor will produce, or none where a LOAD or UNLOAD ahead of a RUN may still change the slab that the
RUN names (log entry 21). -/
def Device.entriesFor (d : Device) (k : RingRef) (x : QDesc) : Option Nat :=
  match k, (d.ring k).ctx with
  | .ring _ _, some c =>
    if x.opcode ≠ 3 then some 1
    else if (d.ring k).queued.any fun y => y.opcode = 1 || y.opcode = 2 then none
    else match tget (d.ctx c).loaded (x.field 0x20 1) with
      | some (.slab s) => some (s.results.length + 1)
      | some (.package p) => some (p.results.length + 1)
      | none => some 1
  | _, _ => some 1

/-- Whether a ring fetches at all: not while it is stopped, nor while its tenancy is frozen (R253, R269). -/
def Device.mayFetch (d : Device) (k : RingRef) : Bool :=
  (d.ring k).state = .running && (match k with
    | .admin => d.notices.isEmpty
    | .ring t _ => (d.ten t).on && !(d.ten t).frozen)

/-- Whether a ring may fetch now. -/
def Device.canFetch (d : Device) (k : RingRef) : Bool :=
  let r := d.ring k
  d.mayFetch k && r.sqHead ≠ r.sqTail && decide (r.queued.length < queueMax)

/-- The address of the next descriptor of a ring. -/
def Ring.fetchAt (r : Ring) : Nat := r.sqBase + 64 * (r.sqHead.toNat % 2 ^ r.n)

/-- Whether a ring waits on the copy engine for a fetch (R251, R259). -/
def Device.wantsFetch (d : Device) (k : RingRef) : Bool :=
  d.canFetch k && (d.ring k).free ≠ 0 && !d.outbound.any (fun o => o.owner = .fetch k) && !d.portHolds 28 (d.ring k).fetchAt

/-- Whether a ring waits on the copy engine for the next chunk of a COPY: not while a link still owes it data, while a peer's chunk
holds a plain copy back (R391), or while port 28 holds its next line. -/
def Device.wantsCopy (d : Device) (k : RingRef) : Bool :=
  match (d.ring k).job with
  | .copying src dst _ ordered moved _ =>
    !d.headHeld k && !d.entryHeld k && !d.outbound.any (fun o => o.owner = .copy k) && (ordered || !d.twinHeld dst) &&
      !d.portHolds 28 (src + moved) && !d.portHolds 28 (dst + moved)
  | _ => false

/-- The turn that the copy engine gives a ring, where it is the one granted (R70, R259). -/
def Device.engineTurn (d : Device) (k : RingRef) : Option Device :=
  match grantOf d.arb.engine (d.ringRefs.filter fun e => d.wantsFetch e.2 || d.wantsCopy e.2) with
  | some (i, j) => if j = k then some { d with arb := { d.arb with engine := (i + 1) % 1089 } } else none
  | none => none

/-- A fetched descriptor checked against its count and queued with its entries reserved (R251, R253). -/
def Device.enqueue (d : Device) (k : RingRef) (raw : List Byte) : Device :=
  let r := d.ring k
  let x : QDesc := { index := r.sqHead, raw := raw, reserved := 1 }
  if !d.mayFetch k then d
  else if fieldAt raw 0x1C 4 ≠ r.sqHead.toNat then d.ringFault k 0x03
  else
    match d.entriesFor k x with
    | none => d
    | some n =>
      if r.free < n then d
      else
        let d := d.setRing k { r with sqHead := r.sqHead + 1, queued := r.queued ++ [{ x with reserved := n }] }
        Device.settleHead queueMax d k

/-- The bytes of a descriptor asked for, or read and queued. -/
def Device.fetch (d : Device) (k : RingRef) (ecc : Ecc) : Device :=
  let a := (d.ring k).fetchAt
  match d.readDown a with
  | some pc => (d.linkFailed pc).ringFault k 0x04
  | none =>
    if !d.ringAddrOk k a 64 true false || d.addrOff a then d.ringFault k 0x04
    else
      match d.region a, ecc with
      | .outbound pc _, _ => d.emitRead pc (.fetch k) a 64
      | _, .uncorrectable _ => ((d.charge 28 a 64 false).memEcc a ecc).ringFault k 0x04
      | _, _ => ((d.charge 28 a 64 false).memEcc a ecc).enqueue k (d.coRead a 64)

/-- The effect of DESCRIPTOR_FETCH, in the turn that the copy engine gives the ring. -/
def descriptorFetch (d : Device) (k : RingRef) (ecc : Ecc) : Device :=
  if !d.wantsFetch k then d
  else match d.engineTurn k with
    | some d => d.fetch k ecc
    | none => d

/-! ### The commands -/

/-- SQ_TAIL_WRITE. -/
def execSqTailWrite (who : Who) (ring : RingRef) (value : Half) (s : State) : Host.Outcome State Fault Refusal :=
  actBy who s fun d => sqTailWrite d who ring value

/-- CQ_HEAD_WRITE. -/
def execCqHeadWrite (who : Who) (ring : RingRef) (value : Half) (s : State) : Host.Outcome State Fault Refusal :=
  actBy who s fun d => cqHeadWrite d who ring value

/-- DESCRIPTOR_FETCH. -/
def execDescriptorFetch (ring : RingRef) (ecc : Ecc) (s : State) : Host.Outcome State Fault Refusal :=
  actLive s fun d => descriptorFetch d ring ecc

/-- NOP (R256). -/
def execNop (ring : RingRef) (s : State) : Host.Outcome State Fault Refusal :=
  actLive s fun d => d.onHead ring 0 fun d _ => d.finish ring St.ok 0 0

end Sys2Proof.Machine
end

