-- ==== Sys2Proof/Machine/Runs.lean ====
section
/-!
DEFINITION. Runs: bounds walked through the calendar (R103 to R107), RUN and its start, delivery of results, the checker
(R117, R118, R320 to R325), supervision (R330 to R333), Vigil productions (R335 to R337), the ends of runs, and units taken
offline (R313).
-/

namespace Sys2Proof.Machine

/-! ### Walking the calendar (R103, R104) -/

/-- The floor count in force. -/
def Device.floorCount (d : Device) : Nat := d.fld Reg.pwrCounts 0 16

/-- The ticks a result's declaration needs at a floor count (R103). -/
def needTicks (floor : Nat) (r : ResultDecl) (ringLatency : Nat) : Nat :=
  ceilDiv (r.beats * 256) (max 1 floor) + ceilDiv (max r.latency r.replicaLatency + ringLatency) 10

/-- The usable intervals of a frame from an offset on. -/
def usableFrom (slices : List (Nat × Nat)) (t : Nat) : List (Nat × Nat) :=
  (slices.map fun s => (max t s.1, s.2 - 20)).filter fun s => decide (s.1 < s.2)

/-- The usable ticks of intervals. -/
def usableTotal (l : List (Nat × Nat)) : Nat := (l.map fun s => s.2 - s.1).sum

/-- The instant at which a need is met within intervals, or what is left of it. -/
def walkIn : List (Nat × Nat) → Nat → Nat ⊕ Nat
  | [], need => .inr need
  | s :: l, need => if need ≤ s.2 - s.1 then .inl (s.1 + need) else walkIn l (need - (s.2 - s.1))

/-- The bound instant of a run that starts at an offset in a frame of F ticks, counted from that frame's start (R104);
none for a context without usable time. -/
def walkCalendar (slices : List (Nat × Nat)) (frame start need : Nat) : Option Nat :=
  if need = 0 then some start
  else
    match walkIn (usableFrom slices start) need with
    | .inl t => some t
    | .inr left =>
      let whole := usableFrom slices 0
      let total := usableTotal whole
      if total = 0 then none
      else
        let k := (left - 1) / total
        match walkIn whole (left - k * total) with
        | .inl t => some (frame * (k + 1) + t)
        | .inr _ => none

/-- The latency of a context's completion ring: that of the outbound window it lies in, else 0 (R111). -/
def Device.ringLatency (d : Device) (t : Nat) (r : Ring) : Nat :=
  match d.region r.cqBase with
  | .outbound _ _ => (((d.ten t).windowFor r.cqBase 64 false true).map (·.latency)).getD 0
  | _ => 0

/-! ### The ring of a context -/

/-- The ring a context is bound to. -/
def Device.ctxRing (d : Device) (c : Nat) : RingRef := ringRefOf (d.ctx c).tenancy (d.ctx c).ring

/-- The slab of a context's run. -/
def Device.runSlab (d : Device) (c : Nat) : Option (Run × Slab) :=
  match (d.ctx c).run with
  | none => none
  | some r =>
    match tget (d.ctx c).loaded r.slab with
    | some (.slab s) => some (r, s)
    | _ => none

/-- Every core of a slab's instances. -/
def Slab.cores (s : Slab) : List Nat := s.primary ++ s.replicaCores

/-! ### Vigil productions (R335, R337) -/

/-- A production of a stream: its stamp, and while RUNNING its next due time. -/
def Device.produced (d : Device) (s : Nat) (time stamp : Word) : Device :=
  let d := d.setReg (Reg.vglLast s) stamp
  if d.cfg ≠ .running then d
  else
    let d := d.setReg (Reg.vglDue s) (time + BitVec.ofNat 64 (d.fld (Reg.vglPeriod s) 0 32))
    { d with safety := { d.safety with vigilArmed := addMember d.safety.vigilArmed s
                                       vigilMissed := dropMember d.safety.vigilMissed s } }

/-- The valid RESULT streams that name a result of a context (R334). -/
def Device.streamsOf (d : Device) (c : Nat) (id : BitVec 16) : List Nat :=
  (List.range 512).filter fun s =>
    d.regBit (Reg.vglCfg s) 63 && !d.regBit (Reg.vglCfg s) 61 && d.fld (Reg.vglCfg s) 48 8 = c &&
      d.fld (Reg.vglCfg s) 32 16 = id.toNat

/-! ### Results (R106, R260, R261) -/

/-- An instant held in ticks as Almanac nanoseconds (R360): the reading now, plus the ticks still to come times the
increment in force, rounded up. An instant that has passed has a negative number of ticks to come (log entry 29). -/
def Device.nsOf (d : Device) (tick : Nat) : Word :=
  let ahead : Int := ((tick : Int) - d.alm.ticks) * (d.reg Reg.almIncr).toNat
  BitVec.ofInt 64 (d.ns.toNat + -((-ahead) / (2 ^ 32 : Nat)))

/-- The Almanac nanoseconds of a run's bound for a result, or all ones where none is stated. -/
def Device.boundNs (d : Device) (r : Run) (i : Nat) : Word :=
  match tget r.bounds i with
  | some b => d.nsOf b
  | none => BitVec.ofNat 64 (2 ^ 64 - 1)

/-- The payload of a RESULT entry. -/
def resultPayload (r : Run) (x : ResultDecl) (bound now : Word) : List Byte :=
  bytesOfNat 8 x.id.toNat ++ bytesOfNat 8 r.startNs.toNat ++ bytesOfNat 8 bound.toNat ++ bytesOfNat 8 now.toNat

/-- The productions that a delivered result of a context makes (R335). -/
def Device.produce (d : Device) (c : Nat) (id : BitVec 16) (stamp : Word) : Device :=
  (d.streamsOf c id).foldl (fun d s => d.produced s d.ns stamp) d

/-- The RESULT entry of a result written with a status, and the productions it makes. An entry that could not be written is no
production, and its result does not count as delivered with OK (R106, R335). -/
def Device.resultEntry (d : Device) (c i : Nat) (status detail : Byte) : Device :=
  match d.runSlab c with
  | none => d
  | some (r, s) =>
    match s.results[i]? with
    | none => d
    | some x =>
      let k := d.ctxRing c
      let p := (d.useEntry k).entry' k r.tags.bytes status detail 0x01 r.index (resultPayload r x (d.boundNs r i) d.ns)
      let d := p.1.modRun c fun r => { r with delivered := tput r.delivered i (if p.2 then status else St.linkError) }
      if p.2 && status = St.ok && !r.tags.ingressFail && decide (d.ns ≤ d.boundNs r i) then d.produce c x.id r.tags.timestamp
      else d

/-- Whether a store transfer of a context that touches a result's bytes is outstanding. -/
def Device.resultPending (d : Device) (c : Nat) (q : Seat) (x : ResultDecl) : Bool :=
  match d.roleBase q (q.roleOf x.role) with
  | none => false
  | some base =>
    (d.ctxCores c).any fun core => (d.bank core c).transfers.any fun t =>
      t.unit = .store && overlaps t.far t.data.length (base + x.offset) x.bytes

/-- Whether a context has a store transfer outstanding. -/
def Device.storesPending (d : Device) (c : Nat) : Bool :=
  (d.ctxCores c).any fun core => (d.bank core c).transfers.any fun t => t.unit = .store

/-- Whether a context has any transfer outstanding. -/
def Device.transfersPending (d : Device) (c : Nat) : Bool :=
  (d.ctxCores c).any fun core => !(d.bank core c).transfers.isEmpty

/-- Whether a tag line of a run is still to come over a link. -/
def Device.tagsDue (d : Device) (c : Nat) : Bool :=
  d.outbound.any fun o => match o.owner with
    | .tag c' _ => c' = c
    | _ => false

/-- Whether every line of a result's bytes has been written (R106). -/
def Device.resultStored (d : Device) (r : Run) (i : Nat) (q : Seat) (x : ResultDecl) : Bool :=
  match d.roleBase q x.role with
  | none => x.bytes = 0
  | some base => (lineAddrs (base + x.offset) x.bytes).all fun a => (tgetD r.stored i []).contains (a / 64)

/-- The effect of RESULT_DELIVERED: written where every byte has been written and acknowledged, the check has released it, and the
run's tags are known (R106, R117, R255, R261). -/
def resultDelivered (d : Device) (c : Nat) (id : BitVec 16) : Device :=
  match d.runSlab c with
  | none => d
  | some (r, s) =>
    match s.resultAt id with
    | none => d
    | some i =>
      match s.results[i]? with
      | none => d
      | some x =>
        let q : Seat := { core := 0, ctx := c, slab := s, run := r, replica := false, slabCore := 0 }
        let checkOk := !x.checked || r.released.contains i
        if r.stopped.isSome || (tget r.delivered i).isSome || r.overrun = some .budget || !checkOk ||
            (d.ctx c).st ≠ .opened || d.resultPending c q x || !d.resultStored r i q x || d.tagsDue c ||
            d.entryHeld (d.ctxRing c) then d
        else d.resultEntry c i St.ok 0

/-! ### Units held offline (R313) -/

/-- A RUN that was taken up and has not started put back to the head of its ring, where check 5 meets it. -/
def Device.recheck (d : Device) (c : Nat) : Device :=
  let k := d.ctxRing c
  if (d.ctx c).st = .opened && (d.ctx c).run.isNone && (d.ring k).job = .running then
    Device.settleHead queueMax (d.setRing k { d.ring k with job := .idle }) k
  else d

/-- A unit taken offline; the runs of contexts resident on a cluster stop. -/
def Device.takeOffline (d : Device) (u : Nat) : Device :=
  let d := d.setUnitOff u true
  if 24 ≤ u then d
  else
    (List.range 256).foldl (fun d c =>
      if (d.ctx c).st = .opened && inMask (d.ctxMask c) u then (d.stopRun c St.unitOffline 0).recheck c else d) d

/-! ### The checker (R321 to R325) -/

/-- The bit a checked run enters its partition's history with, once every checked result has been judged. -/
def Run.verdict (r : Run) (s : Slab) : Option Bool :=
  let checked := (List.range s.results.length).filter fun i => (s.results[i]?).any (·.checked)
  if checked.all fun i => r.released.contains i || r.withheld.contains i then some (!r.withheld.isEmpty) else none

/-- The ones among the low bits of a history. -/
def histOnes (h : Word) (n : Nat) : Nat := countTrue ((List.range n).map fun i => h.getLsbD i)

/-- A partition fault (R324). -/
def Device.partitionFault (d : Device) (p : Nat) : Device :=
  let d := ((d.orReg Reg.chkSticky (2 ^ (16 + p))).latch 3).setReg (Reg.chkHist p) 0
  (maskClusters (d.partMask p)).foldl Device.takeOffline d

/-- A verdict entered into a partition's history (R323). -/
def Device.enterHistory (d : Device) (p : Nat) (one : Bool) : Device :=
  let h := (d.reg (Reg.chkHist p) <<< 1) ||| (if one then 1 else 0)
  let d := d.setReg (Reg.chkHist p) h
  if d.fld (Reg.chkPart p) 8 7 ≤ histOnes h (d.fld (Reg.chkPart p) 0 7) then d.partitionFault p else d

/-- The records of a disagreement (R322). -/
def Device.disagree (d : Device) (c : Nat) (r : Run) (x : ResultDecl) (prim repl : Word) : Device :=
  let p := d.ctxPart c
  let first := d.fld Reg.chkSticky 0 16 = 0
  let d := d.addCount (Reg.chkDisagree p) 0 16 1
  let d := d.setReg (Reg.chkLastFrame p) (wordOf r.tags.frameCounter)
  let d := d.recordIf first Reg.chkRecord
    (BitVec.ofNat 64 (r.tags.frameCounter.toNat * 2 ^ 32 + x.id.toNat * 2 ^ 16 + p * 2 ^ 12 + c))
  let d := d.recordIf first Reg.chkRecordTime d.ns
  let d := d.recordIf first Reg.chkRecordPrimary prim
  let d := d.recordIf first Reg.chkRecordReplica repl
  (d.orReg Reg.chkSticky (2 ^ p)).latch 4

/-- The effect of CHECKER_COMPARE. The entry of a mismatch is written once the result's stores have been acknowledged (R261). -/
def checkerCompare (d : Device) (c : Nat) (id : BitVec 16) : Device :=
  match d.runSlab c with
  | none => d
  | some (r, s) =>
    match s.resultAt id with
    | none => d
    | some i =>
      match s.results[i]?, tget r.digests (digestKey i false), tget r.digests (digestKey i true) with
      | some x, some a, some b =>
        let q : Seat := { core := 0, ctx := c, slab := s, run := r, replica := false, slabCore := 0 }
        if !x.checked || r.released.contains i || r.withheld.contains i || r.stopped.isSome ||
            (a ≠ b && (d.resultPending c q x || d.tagsDue c || d.entryHeld (d.ctxRing c))) then d
        else
          let d := if a = b then d.modRun c fun r => { r with released := addMember r.released i }
            else
              let d := d.disagree c r x a b
              (d.modRun c fun r => { r with withheld := addMember r.withheld i }).resultEntry c i St.checkMismatch 0
          match d.runSlab c with
          | some (r, s) =>
            match r.verdict s with
            | some one => d.enterHistory (d.ctxPart c) one
            | none => d
          | none => d
      | _, _, _ => d

/-! ### Supervision (R330 to R332) -/

/-- The budget of a slab: the largest declared beats. -/
def Slab.budget (s : Slab) : Nat := (s.results.map (·.beats)).foldl max 0

/-- The effect of BUDGET_OVERRUN. -/
def budgetOverrun (d : Device) (core : Nat) : Device :=
  match d.seat core with
  | none => d
  | some q =>
    if q.run.overrun = some .budget || decide (tgetD q.run.beats core 0 ≤ q.slab.budget) then d
    else (d.modRun q.ctx fun r => { r with overrun := some .budget }).addCount Reg.safSupOverruns 16 16 1

/-- The effect of DEADLINE_OVERRUN. -/
def deadlineOverrun (d : Device) (c : Nat) (id : BitVec 16) : Device :=
  match d.runSlab c with
  | none => d
  | some (r, s) =>
    match s.resultAt id with
    | none => d
    | some i =>
      match tget r.bounds i with
      | none => d
      | some b =>
        if d.alm.ticks < b || (tget r.delivered i).isSome || r.deadlines.contains i || r.stopped.isSome then d
        else
          (d.modRun c fun r => { r with deadlines := addMember r.deadlines i, overrun := some (r.overrun.getD .deadline) }).addCount
            Reg.safSupOverruns 0 16 1

/-- The overruns a history holds among its most recent runs. -/
def Device.overrunsIn (d : Device) (h : List Bool) : Nat := countTrue (h.take (d.fld Reg.safSupCtrl 0 7))

/-- A run entered into its context's overrun history; the teardown that supervision orders at the limit (R332). -/
def Device.superviseRun (d : Device) (c : Nat) (overran : Bool) : Device :=
  let x := d.ctx c
  let h := (overran :: x.history).take 64
  if overran && decide (d.fld Reg.safSupCtrl 8 6 ≤ d.overrunsIn h) then
    ((d.setCtx c { x with history := [] }).tearDown c 0xFF St.overrun 0 0).latch 11
  else d.setCtx c { x with history := h }

/-- A run that overran stopped at the end of its slice's usable time (R115, R331). -/
def Device.stopOverrun (d : Device) (c : Nat) : Device :=
  match (d.ctx c).run with
  | none => d
  | some r =>
    if r.overrun.isNone || r.stopped.isSome || (d.ctx c).st ≠ .opened then d
    else (d.stopRun c St.overrun 0).superviseRun c true

/-! ### RUN (R257) and the start of a run (R105, R255) -/

/-- The role entries of a RUN: role, tagged, offset. -/
def roleEntries (x : QDesc) : List (Nat × Bool × Nat) :=
  (List.range (x.field 0x21 1)).map fun e =>
    (x.field (0x28 + 8 * e) 1, x.field (0x29 + 8 * e) 1 % 2 = 1, x.field (0x2A + 8 * e) 6)

/-- Whether the role entries of a RUN are in order (R257). -/
def Device.rolesOk (d : Device) (t : Nat) (s : Slab) (l : List (Nat × Bool × Nat)) : Bool :=
  (l.map (·.1)).Nodup && l.all fun e =>
    match s.roles.find? (fun r => r.role = e.1), boundWindow s.roleMap e.1 with
    | some r, some w =>
      match tget (d.ten t).windows w with
      | some x => e.1 ≠ 0 && e.2.2 % 64 = 0 && decide (e.2.2 + r.size ≤ x.limit + 1 - x.base)
      | none => false
    | _, _ => false

/-- The effect of RUN at the head of a ring: taken up for its start, submitted to the Foreman, or refused. -/
def runTaken (d : Device) (k : RingRef) (x : QDesc) : Device :=
  match (d.ring k).ctx with
  | none => d
  | some c =>
    match tget (d.ctx c).loaded (x.field 0x20 1) with
    | none => d.refuse k 0x42
    | some (.slab s) =>
      if d.rolesOk (d.ctx c).tenancy s (roleEntries x) then d.setRing k { d.ring k with job := .running }
      else d.refuse k 0x43
    | some (.package p) =>
      if x.field 0x21 1 ≠ 0 then d.refuse k 0x43
      else
        let order := (d.jobs.map (·.order)).foldl max 0 + 1
        let j : FmJob := { started := none, ctx := c, slab := x.field 0x20 1, index := x.index, priority := p.priority, order := order,
                           done := 0, cluster := none, inputs := none, sat := 0 }
        { d.setRing k { d.ring k with job := .running } with jobs := d.jobs ++ [j] }

/-- The tag lines that a run reads, by role entry, with their addresses (R257). -/
def Device.tagAddrs (d : Device) (t : Nat) (s : Slab) (l : List (Nat × Bool × Nat)) : List (Nat × Nat) :=
  (l.zipIdx.filter (·.1.2.1)).filterMap fun e =>
    match boundWindow s.roleMap e.1.1 with
    | some w => (tget (d.ten t).windows w).map fun x => (e.2, x.base + e.1.2.2)
    | none => none

/-- The first tag line that a run may not read, with what stands in its way (R58, R243, R276, R313). -/
def Device.tagVeto (d : Device) (t : Nat) (s : Slab) (l : List (Nat × Bool × Nat)) : Option (Nat × Veto) :=
  (d.tagAddrs t s l).findSome? fun e => (d.vetoRole t e.2 64 false true).map fun v => (e.2, v)

/-- A run that may not read a tag line: a fault of its context, or its own end. -/
def Device.tagFault (d : Device) (c : Nat) : Option (Nat × Veto) → Device
  | none => d
  | some (a, .fault status detail) => (d.noteVeto a (.fault status detail)).ctxFault c 0xFF status detail
  | some (a, .ends status detail) => (d.noteVeto a (.ends status detail)).stopRun c status detail

/-- The frame fields a run takes: the smallest timestamp, then the smallest frame counter, then the lowest entry (R255). -/
def frameTags (own : Tags) : List Tags → Tags
  | [] => own
  | g :: gs =>
    let best := gs.foldl (fun b x =>
      if x.timestamp < b.timestamp || (x.timestamp = b.timestamp && decide (x.frameCounter < b.frameCounter)) then x else b) g
    { best with ingressFail := (g :: gs).any (·.ingressFail) }

/-- A run with a tag line read: its frame fields are those of the tag lines known so far. -/
def Run.withTag (r : Run) (e : Nat) (g : Tags) : Run :=
  let lines := tput r.tagLines e g
  { r with tagLines := lines
           tags := { frameTags r.own (tvals lines) with
                     context := r.tags.context, tenancy := r.tags.tenancy, seqTag := r.tags.seqTag } }

/-- The tag lines of a run that begins: one in memory is read at once, one behind a link is asked for (R276). -/
def Device.readTags (d : Device) (c : Nat) (l : List (Nat × Nat)) : Device :=
  l.foldl (fun d e =>
    match d.region e.2 with
    | .outbound pc _ => d.emitRead pc (.tag c e.1) e.2 64
    | _ => (d.serve e.2 64 false).modRun c fun r => r.withTag e.1 (tagsOf (d.rd e.2 24))) d

/-- What the codes report of the tag lines that a run reads from memory, 64 B for each in order: an uncorrectable word tears its
context down (R49, R174, R181). -/
def Device.tagEcc (d : Device) (c : Nat) (l : List (Nat × Nat)) (ecc : Ecc) : Device :=
  let at_ := fun i => ((l.map (·.2)).getD (i / 64) 0) + i % 64
  match ecc with
  | .clean => d
  | .corrected w => w.foldl (fun d i => d.memCe (at_ i)) d
  | .uncorrectable i => (d.noteUe (at_ i)).ctxUncorr c 0xFF (d.eccDetail (at_ i))

/-- A bank's units at the start of their programs (R83). -/
def Bank.restart (b : Bank) : Bank :=
  { b with exec := .fresh, load := .fresh, store := .fresh, walk := none, digest := none }

/-- A slab's objects at their initial values, for each instance (R84). -/
def Device.initObjects (d : Device) (c : Nat) (s : Slab) : Device :=
  (List.range s.objects.length).foldl (fun d i =>
    let v := ((s.objects[i]?).map (·.init)).getD 0
    let d := { d with objects := tputD d.objects (objKey c false i) v 0 }
    if s.replica then { d with objects := tputD d.objects (objKey c true i) v 0 } else d) d

/-- The step count of a serving table raised as a run starts (R228); a table at a unit held offline ends the run (R313). -/
def Device.countStep (d : Device) (c : Nat) : Device :=
  match d.servingBase c with
  | some a =>
    if d.addrOff a then d.stopRun c St.unitOffline 0
    else d.ringWrite (d.ctxRing c) (a + 8) (bytesOfNat 8 (natOfBytes (d.coRead (a + 8) 8) + 1))
  | none => d

/-- The absolute bounds of a run that starts now, in ticks, by result (R107). -/
def Device.runBounds (d : Device) (c : Nat) (s : Slab) : Table Nat :=
  (List.range s.results.length).filterMap fun i =>
    match s.results[i]? with
    | some r => (walkCalendar (d.slicesOf c) d.frameTicks (d.alm.ticks - d.cal.frameTick)
        (needTicks d.floorCount r (d.ringLatency (d.ctx c).tenancy (d.ring (d.ctxRing c))))).map fun b => (i, d.cal.frameTick + b)
    | none => none

/-- The bases that a RUN moves roles to (R257). -/
def Device.movedBases (d : Device) (t : Nat) (s : Slab) (l : List (Nat × Bool × Nat)) : Table Nat :=
  l.foldl (fun m e =>
    match boundWindow s.roleMap e.1 with
    | some w => match tget (d.ten t).windows w with
      | some y => tput m e.1 (y.base + e.2.2)
      | none => m
    | none => m) []

/-- The run of a slab that a RUN descriptor starts now. -/
def Device.newRun (d : Device) (c : Nat) (s : Slab) (x : QDesc) : Run :=
  let t := (d.ctx c).tenancy
  let own := tagsOf x.raw
  { slab := x.field 0x20 1, index := x.index, roleBases := d.movedBases t s (roleEntries x), own := own, tagLines := [],
    tags := { own with context := BitVec.ofNat 8 c, tenancy := BitVec.ofNat 8 t, seqTag := 0 },
    startTick := d.alm.ticks, startNs := d.ns, bounds := d.runBounds c s, stored := [], delivered := [], digests := [],
    released := [], withheld := [], deadlines := [], sat := 0, beats := [], overrun := none, stopped := none }

/-- The slab whose run may start now: the head of the context's ring is a RUN of it that has been taken up, and the context is in
usable slice time with no run in progress (R83, R105). Order is that of the ring's descriptors (R83, R252; log entry 86). -/
def Device.startable (d : Device) (c : Nat) : Option (QDesc × Slab) :=
  let k := d.ctxRing c
  match (d.ring k).queued with
  | [] => none
  | x :: _ =>
    match tget (d.ctx c).loaded (x.field 0x20 1) with
    | some (.slab s) =>
      if d.cfg ≠ .running || (d.ctx c).st ≠ .opened || (d.ring k).ctx ≠ some c || (d.ring k).job ≠ .running ||
          x.opcode ≠ 3 || (d.ctx c).run.isSome || !d.cal.started || !d.ctxUsable c || d.ctxOffline c then none
      else some (x, s)
    | _ => none

/-- The port through which a slab's run reads its tag lines: that of its first core's cluster. -/
def Slab.port (s : Slab) : Nat := s.primary.headD 0 / 4

/-- The effect of RUN_START (R83, R105, R107, R255): the tag lines in memory pass the port of the run's first cluster, and the run
waits with them. -/
def runStart (d : Device) (c : Nat) (ecc : Ecc) : Device :=
  match d.startable c with
  | none => d
  | some (x, s) =>
    let t := (d.ctx c).tenancy
    let entries := roleEntries x
    let lines := d.tagAddrs t s entries
    let issued := d.linesIssue s.port (d.bucketOwner c) (lines.map (·.2))
    if issued.1 < lines.length then d
    else
      let d := issued.2.2
      let r := d.newRun c s x
      let veto := d.tagVeto t s entries
      let d := d.initObjects c s
      let d := s.cores.foldl (fun d core => d.setBank core c (d.bank core c).restart) d
      let d := (d.setCtx c { d.ctx c with run := some r }).countStep c
      match veto with
      | some _ => d.tagFault c veto
      | none => (d.readTags c lines).tagEcc c lines ecc

/-! ### The end of a run (R83, R115, R260) -/

/-- Whether every unit of a slab's cores has executed END. -/
def Device.allEnded (d : Device) (c : Nat) (s : Slab) : Bool :=
  s.cores.all fun core =>
    let b := d.bank core c
    b.exec.ended && b.load.ended && b.store.ended

/-- The RESULT entries of the results that have none yet, with the run's final status. -/
def Device.endResults (d : Device) (c : Nat) (status detail : Byte) (n : Nat) : Device :=
  (List.range n).foldl (fun d i =>
    match (d.ctx c).run with
    | some r => if (tget r.delivered i).isSome then d else d.resultEntry c i status detail
    | none => d) d

/-- The RUN_END payload of a run that started. -/
def endPayload (r : Run) (now : Word) : List Byte :=
  let ok := (r.delivered.filter fun e => e.2 = St.ok).length
  bytesOfNat 4 r.sat.toNat ++ [BitVec.ofNat 8 r.slab, 0] ++ bytesOfNat 2 ok ++ bytesOfNat 8 r.startNs.toNat ++
    bytesOfNat 8 now.toNat

/-- A run ended with a status: its remaining entries, its RUN_END, and its descriptor's interrupt. The ring's next head is
left for the caller. -/
def Device.closeRun (d : Device) (c : Nat) (status detail : Byte) : Device :=
  match d.runSlab c with
  | none => d
  | some (_, s) =>
    let k := d.ctxRing c
    let d := d.endResults c status detail s.results.length
    match (d.ctx c).run, (d.ring k).queued with
    | some r, x :: _ =>
      let d := (d.popHead k).setCtx c { d.ctx c with run := none }
      d.lastEntry k x r.tags.bytes status detail 0x02 (endPayload r d.ns)
    | _, _ => d.setCtx c { d.ctx c with run := none }

/-- The effect of RUN_END. -/
def runEnd (d : Device) (c : Nat) : Device :=
  match d.runSlab c with
  | none => d
  | some (r, s) =>
    if (d.ctx c).st ≠ .opened || d.storesPending c || d.tagsDue c || d.entryHeld (d.ctxRing c) then d
    else
      let k := d.ctxRing c
      match r.stopped with
      | some (status, detail) =>
        let d := d.closeRun c status detail
        let d := if status = St.overrun then d else d.superviseRun c false
        Device.settleHead queueMax d k
      | none =>
        if !d.allEnded c s || r.delivered.length ≠ s.results.length then d
        else
          let d := d.closeRun c St.ok 0
          Device.settleHead queueMax (d.superviseRun c r.overrun.isSome) k

/-! ### The commands -/

/-- RUN. -/
def execRun (t : Fin 64) (r : Fin 17) (s : State) : Host.Outcome State Fault Refusal :=
  actLive s fun d => d.onHead (.ring t r) 3 fun d x => runTaken d (.ring t r) x

/-- RUN_START. -/
def execRunStart (ctx : Fin 256) (s : State) (ecc : Ecc := .clean) : Host.Outcome State Fault Refusal :=
  actLive s fun d => runStart d ctx ecc

/-- RESULT_DELIVERED. -/
def execResultDelivered (ctx : Fin 256) (result : BitVec 16) (s : State) : Host.Outcome State Fault Refusal :=
  actLive s fun d => resultDelivered d ctx result

/-- RUN_END. -/
def execRunEnd (ctx : Fin 256) (s : State) : Host.Outcome State Fault Refusal :=
  actLive s fun d => runEnd d ctx

/-- CHECKER_COMPARE. -/
def execCheckerCompare (ctx : Fin 256) (result : BitVec 16) (s : State) : Host.Outcome State Fault Refusal :=
  actLive s fun d => checkerCompare d ctx result

/-- BUDGET_OVERRUN. -/
def execBudgetOverrun (core : Fin 96) (s : State) : Host.Outcome State Fault Refusal :=
  actLive s fun d => budgetOverrun d core

/-- DEADLINE_OVERRUN. -/
def execDeadlineOverrun (ctx : Fin 256) (result : BitVec 16) (s : State) : Host.Outcome State Fault Refusal :=
  actLive s fun d => deadlineOverrun d ctx result

end Sys2Proof.Machine
end

