-- ==== Sys2Proof/Machine/Calendar.lean ====
section
/-!
DEFINITION. The calendar's events (R214 to R222) and holiday self-test (R340 to R346). An event that comes before its tick
changes nothing; that it does not come later is the sender's matter (log entry 17).
-/

namespace Sys2Proof.Machine

/-- The ticks since the current frame began. -/
def Device.frameOff (d : Device) : Nat := d.alm.ticks - d.cal.frameTick

/-- Whether the calendar runs and its frame has come to a tick. -/
def Device.calAt (d : Device) (t : Nat) : Bool := decide (d.cfg = .running) && d.cal.started && decide (t ≤ d.frameOff)

/-- The effect of CALENDAR_START (R216): frame 0 begins. -/
def calendarStart (d : Device) : Device :=
  if d.cfg ≠ .running || d.busy.isSome || d.cal.started || decide (d.ns < d.reg Reg.calStart) then d
  else
    { d with cal := { started := true, frameTick := d.alm.ticks, slices := [], usable := [] } }.setReg
      Reg.calFrameCount 1

/-- The effect of MAJOR_FRAME_START (R216): the next frame begins a frame's ticks after the last, once every slice of the
last has ended. -/
def majorFrameStart (d : Device) : Device :=
  if d.calAt d.frameTicks && d.cal.slices.isEmpty then
    { d with cal := { d.cal with frameTick := d.cal.frameTick + d.frameTicks } }.setReg Reg.calFrameCount
      (d.reg Reg.calFrameCount + 1)
  else d

/-- The effect of SLICE_START (R219). -/
def sliceStart (d : Device) (i : Nat) : Device :=
  match d.entry i with
  | some { kind := .holiday _, start := _, stop := _ } | none => d
  | some e =>
    if d.calAt e.start && decide (d.frameOff < e.stop) && !d.cal.slices.contains i then
      { d with cal := { d.cal with slices := addMember d.cal.slices i, usable := addMember d.cal.usable i } }
    else d

/-- The effect of the end of a slice's usable time (R217): its context issues nothing further, and a run of it that
overran is stopped (R331). -/
def usableEnd (d : Device) (i : Nat) (e : Entry) : Device :=
  if !d.cal.usable.contains i then d
  else
    let d := { d with cal := { d.cal with usable := dropMember d.cal.usable i } }
    match e.kind with
    | .slice c => d.stopOverrun c
    | _ => d

/-- The effect of SLICE_USABLE_END. -/
def sliceUsableEnd (d : Device) (i : Nat) : Device :=
  match d.entry i with
  | some e => if d.cal.slices.contains i && d.calAt (e.stop - 20) then usableEnd d i e else d
  | none => d

/-- The effect of SLICE_END (R218). -/
def sliceEnd (d : Device) (i : Nat) : Device :=
  match d.entry i with
  | some e =>
    if d.cal.slices.contains i && d.calAt e.stop then
      let d := usableEnd d i e
      { d with cal := { d.cal with slices := dropMember d.cal.slices i } }
    else d
  | none => d

/-! ### Holiday self-test -/

/-- The chunks of a cluster, in ascending number (R342). -/
def Device.chunksOf (d : Device) (c : Nat) : List Nat :=
  (List.range 256).filter fun k => d.regBit (Reg.safStestChunk k) 31 && d.fld (Reg.safStestChunk k) 24 5 = c

/-- The chunk that a cluster runs next: the deferred or following one, else its first. -/
def Device.nextChunk (d : Device) (c : Nat) (next : Option Nat) : Option Nat :=
  match (d.chunksOf c).find? fun k => decide (next.getD 0 ≤ k) with
  | some k => some k
  | none => (d.chunksOf c).head?

/-- Whether self-test runs (R346). -/
def Device.stestOn (d : Device) : Bool := d.regBit Reg.safStestCtrl 0

/-- The record of a failure or a lapse (R343, R345). -/
def Device.stestRecord (d : Device) (lapse : Bool) (c k : Nat) : Device :=
  let first := d.fld Reg.safFaultLatch 6 2 = 0
  (d.recordIf first Reg.safStestRecord
    (BitVec.ofNat 64 ((if lapse then 2 ^ 31 else 0) + c * 2 ^ 24 + k * 2 ^ 8))).latch (if lapse then 7 else 6)

/-- The sequencer past a chunk that completed or was skipped: the next chunk of the cycle, or the end of the cycle, whose
time is written where nothing in it was skipped (R342, R346). -/
def Device.pastChunk (d : Device) (c k : Nat) (skip : Bool) : Device :=
  let x := d.stest c
  let skipped := x.skipped || skip
  match (d.chunksOf c).find? fun j => decide (k < j) with
  | some j => d.setStest c { x with running := none, next := some j, defers := 0, skipped := skipped }
  | none =>
    let d := if skipped then d else d.setReg (Reg.safStestDone c) d.ns
    d.setStest c { x with running := none, next := none, defers := 0, skipped := false }

/-- The effect of HOLIDAY_SLOT_START. -/
def holidaySlotStart (d : Device) (i : Nat) : Device :=
  match d.entry i with
  | some { kind := .holiday c, start := a, stop := b } =>
    if d.calAt a && decide (d.frameOff < b - 20) && !d.cal.usable.contains i then
      let d := { d with cal := { d.cal with usable := addMember d.cal.usable i } }
      let x := d.stest c
      let k := if d.stestOn then d.nextChunk c x.next else none
      d.setStest c { x with entry := some i, running := k }
    else d
  | _ => d

/-- A running chunk aborted and deferred; the third deferral in a row is a lapse of coverage, and skips it (R343). -/
def Device.deferChunk (d : Device) (c k : Nat) : Device :=
  let d := d.addCount Reg.safStestDefers 0 16 1
  let x := d.stest c
  if 2 ≤ x.defers then (d.stestRecord true c k).pastChunk c k true
  else d.setStest c { x with running := none, next := some k, defers := x.defers + 1 }

/-- The effect of HOLIDAY_USABLE_END. -/
def holidayUsableEnd (d : Device) (i : Nat) : Device :=
  match d.entry i with
  | some { kind := .holiday c, start := _, stop := b } =>
    if d.calAt (b - 20) && d.cal.usable.contains i then
      let d := { d with cal := { d.cal with usable := dropMember d.cal.usable i } }
      let d := match (d.stest c).running with
        | some k => d.deferChunk c k
        | none => d
      d.setStest c { d.stest c with entry := none }
    else d
  | _ => d

/-- The self-test image as the boot placed it (R340, R400). -/
def Device.stestImage (d : Device) : List Byte := d.rd d.boot.stestBase (d.boot.sections.getD 3 (0, 0)).2

/-- Whether a chunk passed, by its kind: every digest of a known-answer test is the one that the image holds for the test, eight
engines or four vector units; every line of a march held. None where the result is not one of the chunk's kind. -/
def Device.chunkPassed (d : Device) (k : Nat) (x : ChunkResult) : Option Bool :=
  let kind := d.fld (Reg.safStestChunk k) 20 2
  let want := Config.stestDigest d.stestImage kind (d.fld (Reg.safStestChunk k) 8 8)
  match kind, x with
  | 0, .digests l => if l.length = 8 then some (l.all (· = want)) else none
  | 1, .digests l => if l.length = 4 then some (l.all (· = want)) else none
  | 2, .march held _ => some held
  | _, _ => none

/-- The corrected words that a march met counted at the cores of its cluster (R341). -/
def Device.marchCe (d : Device) (c : Nat) (x : ChunkResult) : Device :=
  match x with
  | .march _ l => (List.range 4).foldl (fun d i => d.benchCe (4 * c + i) (l.getD i 0)) d
  | .digests _ => d

/-- The effect of SELFTEST_CHUNK_DONE (R340, R345): a failure is recorded and takes the cluster offline, and the next chunk
starts. -/
def selftestChunkDone (d : Device) (c : Nat) (x : ChunkResult) : Device :=
  match (d.stest c).entry, (d.stest c).running.bind fun k => (d.chunkPassed k x).map fun pass => (k, pass) with
  | some _, some (k, pass) =>
    let d := d.marchCe c x
    let d := if pass then d else (d.stestRecord false c k).takeOffline c
    let d := d.pastChunk c k false
    let x := d.stest c
    d.setStest c { x with running := d.nextChunk c x.next }
  | _, _ => d

/-! ### The commands -/

/-- CALENDAR_START. -/
def execCalendarStart (s : State) : Host.Outcome State Fault Refusal := actLive s calendarStart

/-- MAJOR_FRAME_START. -/
def execMajorFrameStart (s : State) : Host.Outcome State Fault Refusal := actLive s majorFrameStart

/-- SLICE_START. -/
def execSliceStart (entry : Fin 1024) (s : State) : Host.Outcome State Fault Refusal :=
  actLive s fun d => sliceStart d entry

/-- SLICE_USABLE_END. -/
def execSliceUsableEnd (entry : Fin 1024) (s : State) : Host.Outcome State Fault Refusal :=
  actLive s fun d => sliceUsableEnd d entry

/-- SLICE_END. -/
def execSliceEnd (entry : Fin 1024) (s : State) : Host.Outcome State Fault Refusal :=
  actLive s fun d => sliceEnd d entry

/-- HOLIDAY_SLOT_START. -/
def execHolidaySlotStart (entry : Fin 1024) (s : State) : Host.Outcome State Fault Refusal :=
  actLive s fun d => holidaySlotStart d entry

/-- HOLIDAY_USABLE_END. -/
def execHolidayUsableEnd (entry : Fin 1024) (s : State) : Host.Outcome State Fault Refusal :=
  actLive s fun d => holidayUsableEnd d entry

/-- SELFTEST_CHUNK_DONE. -/
def execSelftestChunkDone (cluster : Fin 24) (result : ChunkResult) (s : State) : Host.Outcome State Fault Refusal :=
  actLive s fun d => selftestChunkDone d cluster result

end Sys2Proof.Machine
end

