-- ==== Sys2Proof/Machine/Slabs.lean ====
section
/-!
DEFINITION. The slab container (R73 to R77) and the declaration it holds (R84, R88 to R96): the fields of an image, and the
checks of reason FORMAT that its laid-out parts answer.
-/

namespace Sys2Proof.Machine

/-! ### The container (R73 to R77) -/

/-- The slab magic. -/
def slabMagic : Nat := 0x4C535653

/-- An entry of the section table (R75). -/
structure Section where
  kind : Nat
  index : Nat
  flags : Nat
  offset : Nat
  size : Nat
  dest : Nat
  deriving DecidableEq, Repr

/-- The sections of an image. -/
def sectionsOf (img : List Byte) : List Section :=
  (List.range (fieldAt img 0x14 2)).map fun i =>
    let e := slice img (fieldAt img 0x18 8 + 32 * i) 32
    { kind := fieldAt e 0 2, index := fieldAt e 2 2, flags := fieldAt e 4 4, offset := fieldAt e 8 8,
      size := fieldAt e 16 8, dest := fieldAt e 24 8 }

/-- The bytes of a section. -/
def Section.bytes (x : Section) (img : List Byte) : List Byte := slice img x.offset x.size

/-- Whether a section holds a program of a slab core. -/
def Section.isProgram (x : Section) : Bool := 1 ≤ x.kind && x.kind ≤ 3

/-- Whether total_size leaves an image to digest (R77). -/
def totalSizeOk (total : Nat) : Bool := total % 64 = 0 && 0x180 ≤ total && total ≤ 64 * 2 ^ 30

/-- Whether an image's digest and signature verify under a key (R77). -/
def signatureOk (img key : List Byte) : Bool :=
  let body := img.length - 128
  let digest := sha512 (img.take body)
  slice img body 64 = digest && edVerify key digest (slice img (body + 64) 64)

/-- The class codes that a unit's program may hold (R79). -/
def classOk (kind code : Nat) : Bool :=
  match kind with
  | 1 => (1 ≤ code && code ≤ 0x0A) || code = 0x0F
  | 2 => (0x21 ≤ code && code ≤ 0x25) || code = 0x2F
  | _ => code = 0x21 || (0x23 ≤ code && code ≤ 0x26) || code = 0x2F

/-- Whether every instruction of a program section has a class code of its unit. -/
def programCodesOk (x : Section) (img : List Byte) : Bool :=
  (List.range (x.size / 16)).all fun i => classOk x.kind ((img.drop (x.offset + 16 * i)).headD 0).toNat

/-- Whether the fields of a section are in range (R75, R76). -/
def Section.fieldsOk (x : Section) (img : List Byte) (cores lo hi : Nat) : Bool :=
  1 ≤ x.kind && x.kind ≤ 8 && x.offset % 64 = 0 && x.dest % 64 = 0 && lo ≤ x.offset && x.offset + x.size ≤ hi &&
    x.size % (if x.isProgram then 16 else if x.kind = 4 || x.kind = 5 then 8 else 1) = 0 &&
    (if x.isProgram || x.kind = 7 then decide (x.index < cores) else x.index = 0) &&
    (if x.kind = 6 then decide (x.flags < 16) else x.flags = 0) &&
    (x.kind = 6 || x.kind = 7 || x.dest = 0) &&
    (!x.isProgram || programCodesOk x img)

/-- Whether no two members of a list overlap. -/
def disjointSections : List Section → Bool
  | [] => true
  | x :: l => l.all (fun y => !overlaps x.offset x.size y.offset y.size) && disjointSections l

/-- The number of sections of a kind and index. -/
def sectionCount (l : List Section) (kind index : Nat) : Nat :=
  (l.filter fun x => x.kind = kind && x.index = index).length

/-- Whether the header and the section table keep their stated values (R74 to R76). -/
def containerOk (img : List Byte) : Bool :=
  let n := fieldAt img 0x14 2
  let table := fieldAt img 0x18 8
  let cores := fieldAt img 0x2E 2
  let l := sectionsOf img
  fieldAt img 4 2 = 1 && fieldAt img 6 2 = 0x100 && decide (fieldAt img 0x12 1 < 8) && fieldAt img 0x13 1 = 0 &&
    (slice img 0x30 208).all (· = 0) && 5 ≤ n && n ≤ 1024 && 1 ≤ cores && cores ≤ 96 &&
    table % 64 = 0 && 0x100 ≤ table && decide (table + 32 * n ≤ img.length - 128) &&
    l.all (fun x => x.fieldsOk img cores (table + 32 * n) (img.length - 128)) && disjointSections l &&
    (List.range cores).all (fun k => sectionCount l 1 k = 1 && sectionCount l 2 k = 1 && sectionCount l 3 k = 1) &&
    sectionCount l 4 0 = 1 && sectionCount l 5 0 = 1

/-! ### The declaration (R88 to R96) -/

/-- The records of a DECL section, or none where they do not fill it (R88). -/
def declRecords : Nat → List Byte → Option (List (Nat × List Byte))
  | _, [] => some []
  | 0, _ => none
  | n + 1, bs =>
    let len := fieldAt bs 4 4
    if bs.length < 8 || fieldAt bs 2 2 ≠ 0 || len < 8 || len % 8 ≠ 0 || bs.length < len then none
    else (declRecords n (bs.drop len)).map fun l => (fieldAt bs 0 2, slice bs 8 (len - 8)) :: l

/-- Whether a record's body has its length and zero padding. -/
def bodyPadded (body : List Byte) (n : Nat) : Bool := n ≤ body.length && (body.drop n).all (· = 0)

/-- What a declaration says. -/
structure Decl where
  reduction : Nat
  groups : List (Nat × Nat)
  share : Nat
  roles : List RoleDecl
  results : List ResultDecl
  loopMax : Option Nat
  replicaMap : List Byte
  deriving DecidableEq, Repr

/-- The die and cluster group of each slab core (R90). -/
def shapeGroups (cores : Nat) (body : List Byte) : List (Nat × Nat) :=
  (List.range cores).map fun k => (fieldAt body (8 + 4 * k) 1, fieldAt body (9 + 4 * k) 1)

/-- Whether a SHAPE record is in order. -/
def shapeOk (cores : Nat) (body : List Byte) : Bool :=
  let g := shapeGroups cores body
  bodyPadded body (8 + 4 * cores) &&
    (List.range cores).all (fun k => fieldAt body (10 + 4 * k) 2 = 0) &&
    g.all fun x => x.1 ≤ 3 && x.2 ≤ 23 && (g.filter fun y => y.2 = x.2).length ≤ 4 &&
      g.all fun y => y.2 ≠ x.2 || y.1 = x.1

/-- Whether a BENCH record is in order (R91). -/
def benchOk (cores : Nat) (body : List Byte) : Bool :=
  let n := fieldAt body 4 4
  let entry := fun k => slice body (8 + 8 * k) 8
  bodyPadded body (8 + 8 * n) &&
    (List.range n).all (fun k =>
      let e := entry k
      decide (fieldAt e 0 2 < cores) && fieldAt e 2 1 ≤ 1 && 1 ≤ fieldAt e 4 1 && fieldAt e 4 1 ≤ 32 &&
        fieldAt e 5 3 = 0) &&
    ((List.range n).map fun k => fieldAt (entry k) 0 4).Nodup

/-- The role that a WINDOW record declares (R92). -/
def roleOfRecord (body : List Byte) : RoleDecl :=
  { role := fieldAt body 0 1, memory := fieldAt body 1 1, plain := fieldAt body 2 1 % 2 = 1,
    ordered := fieldAt body 2 1 / 2 = 1, size := fieldAt body 8 8, readBytes := fieldAt body 16 8,
    writeBytes := fieldAt body 24 8, bandwidth := fieldAt body 32 8 }

/-- Whether a WINDOW record is in order. -/
def windowRecordOk (body : List Byte) : Bool :=
  bodyPadded body 40 && fieldAt body 0 1 ≤ 15 && fieldAt body 1 1 ≤ 2 && decide (fieldAt body 2 1 < 4) &&
    fieldAt body 3 5 = 0 && (fieldAt body 0 1 ≠ 0 || fieldAt body 1 1 = 0)

/-- The result that a RESULT record declares (R93). -/
def resultOfRecord (body : List Byte) : ResultDecl :=
  { id := BitVec.ofNat 16 (fieldAt body 0 2), checked := fieldAt body 2 2 % 2 = 1, role := fieldAt body 4 1,
    offset := fieldAt body 8 8, bytes := fieldAt body 16 8, beats := fieldAt body 24 8, latency := fieldAt body 32 8,
    replicaLatency := fieldAt body 40 8, deadline := fieldAt body 48 8 }

/-- Whether a RESULT record is in order; a checked result needs a replica (R117). -/
def resultRecordOk (replica : Bool) (body : List Byte) : Bool :=
  bodyPadded body 56 && decide (fieldAt body 2 2 < 2) && fieldAt body 5 3 = 0 && fieldAt body 8 8 % 64 = 0 &&
    (replica || (fieldAt body 2 2 = 0 && fieldAt body 40 8 = 0))

/-- The bodies of the records of a type. -/
def recordsOf (l : List (Nat × List Byte)) (t : Nat) : List (List Byte) := (l.filter fun e => e.1 = t).map (·.2)

/-- Whether the records of a declaration are in order (R89 to R96). -/
def recordsOk (cores : Nat) (replica serving : Bool) (l : List (Nat × List Byte)) : Bool :=
  let roles := (recordsOf l 3).map fun b => fieldAt b 0 1
  l.all (fun e => 1 ≤ e.1 && e.1 ≤ 6) &&
    (recordsOf l 1).length = 1 && (recordsOf l 1).all (shapeOk cores) &&
    (recordsOf l 2).length = 1 && (recordsOf l 2).all (benchOk cores) &&
    (recordsOf l 3).all windowRecordOk && roles.Nodup && roles.contains 0 &&
    1 ≤ (recordsOf l 4).length && (recordsOf l 4).length ≤ 256 &&
    (recordsOf l 4).all (fun b => resultRecordOk replica b && roles.contains (fieldAt b 4 1)) &&
    ((recordsOf l 4).map fun b => fieldAt b 0 2).Nodup &&
    (recordsOf l 5).all (fun b => bodyPadded b 8 && fieldAt b 0 4 = 1 && serving) &&
    (recordsOf l 6).length = (if replica then 1 else 0) &&
    (recordsOf l 6).all (fun b => bodyPadded b 16 && (b.take 16).all fun x => x.toNat ≤ 15)

/-- What the records of a declaration say. -/
def declOf (cores : Nat) (l : List (Nat × List Byte)) : Decl :=
  let body := fun t => (recordsOf l t).headD []
  { reduction := fieldAt (body 1) 0 8, groups := shapeGroups cores (body 1), share := fieldAt (body 2) 0 4,
    roles := (recordsOf l 3).map roleOfRecord, results := (recordsOf l 4).map resultOfRecord,
    loopMax := ((recordsOf l 5).map fun b => fieldAt b 4 4).foldl (fun m n => some (max n (m.getD 0))) none,
    replicaMap := if (recordsOf l 6).isEmpty then (List.range 16).map (BitVec.ofNat 8) else (body 6).take 16 }

/-- The section of a kind that a slab holds once. -/
def theSection (img : List Byte) (kind : Nat) : List Byte :=
  match (sectionsOf img).find? fun x => x.kind = kind with
  | some x => x.bytes img
  | none => []

/-- The die group and the initial value of each object of a SYNC section (R84). -/
def syncEntries (img : List Byte) : List (Nat × Half) :=
  let b := theSection img 4
  (List.range (b.length / 8)).map fun j => (fieldAt b (8 * j + 2) 1, BitVec.ofNat 32 (fieldAt b (8 * j + 4) 4))

/-- Whether a SYNC section is in order (R84). -/
def syncOk (img : List Byte) (groups : List (Nat × Nat)) : Bool :=
  let b := theSection img 4
  (List.range (b.length / 8)).all fun j =>
    fieldAt b (8 * j) 2 = j && fieldAt b (8 * j + 3) 1 = 0 && groups.any fun g => g.1 = fieldAt b (8 * j + 2) 1

/-- The declaration of an image all of whose laid-out parts keep the rules of reason FORMAT. -/
def declIn (img : List Byte) : Option Decl :=
  if !containerOk img then none
  else
    let cores := fieldAt img 0x2E 2
    let flags := fieldAt img 0x12 1
    let b := theSection img 5
    match declRecords b.length b with
    | none => none
    | some l =>
      if !recordsOk cores (flags / 2 % 2 = 1) (flags / 4 = 1) l then none
      else
        let x := declOf cores l
        let consts := (sectionsOf img).filter fun y => y.kind = 6
        if syncOk img x.groups && consts.all (fun y => x.roles.any fun r => r.role = y.flags % 16) then some x else none

end Sys2Proof.Machine
end

