-- ==== Sys2Proof/Machine/Teardown.lean ====
section
/-!
DEFINITION. Steps 3 to 8 of the teardown sequence (R223 to R226), which CLOSE shares (R267), and the release of what a slab's
admission reserved.
-/

namespace Sys2Proof.Machine

/-- The device without buckets that hold no grant of a context any longer (R189). -/
def Device.dropBuckets (d : Device) (c : Nat) : Device :=
  { d with buckets := d.buckets.filter fun e =>
      e.1 / 8 % 512 ≠ c || decide (d.bucketRate (e.1 / 8 / 512) c (e.1 % 8) ≠ 0) }

/-- The device with everything released that the slab or package at an index of a context reserved (R256). -/
def Device.release (d : Device) (c i : Nat) : Device :=
  (d.setCtx c { d.ctx c with loaded := tdel (d.ctx c).loaded i }).dropBuckets c

/-- The device without the pool pages of a context and its jobs. -/
def Device.dropPages (d : Device) (c : Nat) : Device :=
  { d with pools := d.pools.map fun e => (e.1, e.2.filter fun p => p.ctx ≠ c)
           jobs := d.jobs.filter fun j => j.ctx ≠ c }

/-- The device with the outbound reads of a ring forgotten: a completion that arrives later is discarded. -/
def Device.dropReads (d : Device) (k : RingRef) : Device :=
  { d with outbound := d.outbound.filter fun o =>
      o.owner ≠ .copy k && o.owner ≠ .image k && o.owner ≠ .fetch k && o.owner ≠ .restore k }

/-- The device with the tag reads of a context's run forgotten. -/
def Device.dropTags (d : Device) (c : Nat) : Device :=
  { d with outbound := d.outbound.filter fun o => match o.owner with
      | .tag c' _ => c' ≠ c
      | _ => true }

/-- Every queued descriptor of a ring completed with a status, in ring order. -/
def Device.discardAll : Nat → Device → RingRef → Byte → Byte → Device
  | 0, d, _, _, _ => d
  | n + 1, d, k, status, detail =>
    if (d.ring k).queued.isEmpty then d else Device.discardAll n (d.dismiss k status detail) k status detail

/-- A ring stopped with cause CLOSED. -/
def Device.stopRing (d : Device) (k : RingRef) : Device :=
  (d.dropReads k).setRing k { d.ring k with state := .stopped, cause := 0 }

/-- The effect of TEARDOWN_DRAINED (step 4): once every issued transfer has landed, the run completes with its status, the
other queued descriptors with TORN_DOWN or ABORTED, and the ring stops. -/
def teardownDrained (d : Device) (c : Nat) : Device :=
  match (d.ctx c).teardown with
  | none => d
  | some t =>
    if (d.ctx c).st ≠ .tearing || t.drained || d.transfersPending c || d.entryHeld (d.ctxRing c) then d
    else
      let k := d.ctxRing c
      let d := d.dropTags c
      let d := match (d.ctx c).run with
        | some r => d.closeRun c (r.stopped.getD (t.status, t.detail)).1 (r.stopped.getD (t.status, t.detail)).2
        | none => d
      let d := if t.close then d.discardAll queueMax k St.aborted 1 else d.discardAll queueMax k St.tornDown t.status
      let d := (d.stopRing k).dropPages c
      d.setCtx c { d.ctx c with teardown := some { t with drained := true } }

/-- The role that a slab's replica uses in place of a role (R96). -/
def Slab.mapped (s : Slab) (r : Nat) : Nat := (s.replicaMap.getD r 0).toNat % 16

/-- The uses that a slab's primary and replica make of roles: the role, its WINDOW record, and the cores (R189). The primary uses the
roles that are named, and every other role but the one that only the replica has in place of another; the replica uses the mapped roles,
each with a record of its own where there is one (R92, R96; log entry 24). -/
def Slab.uses (s : Slab) : List (Nat × RoleDecl × List Nat) :=
  let images := if s.replica then (s.named.map s.mapped) else []
  let prim := s.roles.filter fun r => s.named.contains r.role || !images.contains r.role
  prim.map (fun r => (r.role, r, s.primary)) ++
    if s.replica then prim.map fun r =>
      (s.mapped r.role, (s.roles.find? fun y => y.role = s.mapped r.role).getD r, s.replicaCores)
    else []

/-- The roles a slab's instances use. -/
def Slab.rolesUsed (s : Slab) : List Nat := s.uses.map (·.1)

/-- The windows of its tenancy that a context could write: those its loaded slabs bind and its serving window; a legacy
context's jobs could use them all. -/
def Device.boundWindows (d : Device) (c : Nat) : List Nat :=
  let x := d.ctx c
  let loaded := (tvals x.loaded).flatMap fun l => match l with
    | .slab s => s.rolesUsed.filterMap (boundWindow s.roleMap)
    | .package _ => List.range 16
  let serving := match x.servingWindow with
    | some w => [w]
    | none => []
  loaded ++ serving

/-- Memory of a window written to zero, except where its unit is held offline. -/
def Device.scrubRange (d : Device) (a n : Nat) : Device :=
  { d with mem := d.mem.filter fun m => m.1 < a || decide (a + n ≤ m.1) || d.addrOff m.1 }

/-- One window of a tenancy scrubbed, where it lies in DDR or the Quarry and allows write (step 6, R224, R272): its writes are
counted as served (R194), each in the class of its line. -/
def Device.scrubWindow (d : Device) (t w : Nat) : Device :=
  match tget (d.ten t).windows w with
  | some x =>
    let n := x.limit + 1 - x.base
    if x.write && d.inMemory x.base 1 then ((d.logWrite t x.base n).serve x.base n true).scrubRange x.base n else d
  | none => d

/-- Whether throttling holds a write of the scrub: a window that it writes has a line of a class that is throttled (R198). -/
def Device.scrubHeld (d : Device) (c : Nat) : Bool :=
  !(d.half0.steps.isEmpty && d.half1.steps.isEmpty) && (d.boundWindows c).any fun w =>
    match tget (d.ten (d.ctx c).tenancy).windows w with
    | some x => x.write && d.inMemory x.base 1 &&
        (lineAddrs x.base (x.limit + 1 - x.base)).any fun a => d.throttled a (d.classOf a) false
    | none => false

/-- The share of a context written to zero and its bank cleared on one core (step 5). -/
def Device.scrubCore (d : Device) (c core : Nat) : Device :=
  let d := { d with mem := memClear d.mem (d.shareAddr c core 0) (d.shareBytes c) }
  d.setBank core c Bank.empty

/-- Steps 5 to 7 on a context. -/
def Device.scrubContext (d : Device) (c : Nat) : Device :=
  let t := (d.ctx c).tenancy
  let d := (d.ctxCores c).foldl (fun d core => d.scrubCore c core) d
  let d := (d.boundWindows c).dedup.foldl (fun d w => d.scrubWindow t w) d
  let d := { d with objects := d.objects.filter fun e => e.1 / 131072 ≠ c }
  (d.setCtx c { d.ctx c with loaded := [], run := none }).dropBuckets c

/-- A context CLOSED and its ring bound to none (step 8). -/
def Device.shut (d : Device) (c : Nat) : Device :=
  let k := d.ctxRing c
  let d := d.setRing k { d.ring k with ctx := none }
  d.setCtx c { Ctx.closed with history := (d.ctx c).history }

/-- The effect of TEARDOWN_SCRUB_DONE (steps 5 to 8): nothing while a write of the scrub is held. -/
def teardownScrubDone (d : Device) (c : Nat) : Device :=
  match (d.ctx c).teardown with
  | none => d
  | some t =>
    if (d.ctx c).st ≠ .tearing || !t.drained || d.scrubHeld c || (t.close && d.entryHeld .admin) then d
    else
      let x := d.ctx c
      let head := (d.ring (d.ctxRing c)).sqHead
      let d := (d.scrubContext c).shut c
      if t.close then
        if d.admin.job = .closing c then d.finish .admin St.ok 0 0 else d
      else
        (d.raise 66).notice
          { kind := 0x01, context := BitVec.ofNat 8 c, tenancy := BitVec.ofNat 8 x.tenancy,
            ring := BitVec.ofNat 8 x.ring, sqHead := head, time := d.ns, core := t.core, cause := 0,
            status := t.status, detail := t.detail }

/-! ### The commands -/

/-- TEARDOWN_DRAINED. -/
def execTeardownDrained (ctx : Fin 256) (s : State) : Host.Outcome State Fault Refusal :=
  actLive s fun d => teardownDrained d ctx

end Sys2Proof.Machine
end

