-- ==== Sys2Proof/Machine/Programs.lean ====
section
/-!
DEFINITION. The programs of a slab (R78 to R82): the accesses that its streamer programs make at the largest loop counts, the checks
of R98 that rest on them, and the copies of the programs into role 0. The operand fields of an instruction are read by the functions
without a body of Config, since R79 does not lay them out (log entry 94).
-/

namespace Sys2Proof.Machine

/-! ### The accesses of a program (R81, R82, R98) -/

/-- What one instruction of a streamer program does to memory. -/
inductive StreamOp where
  | xfer (op : XferOp)
  | walk (op : WalkOp)
  | ordered (op : OrderedOp)
  | digest (op : DigestOp)
  deriving DecidableEq, Repr

/-- The instructions of a program section. -/
def instrsOf : Nat → List Byte → List (List Byte)
  | 0, _ => []
  | n + 1, bs => bs.take 16 :: instrsOf n (bs.drop 16)

/-- The largest count of a LOOP; none where its source has no LOOPMAX record (R81, R94). -/
def largestCount (most : Option Nat) : LoopCount → Option Nat
  | .fixed n => some n
  | .activeSlots => most

/-- Lists that are all there, one after another. -/
def joinAll {α : Type} : List (Option (List α)) → Option (List α)
  | [] => some []
  | none :: _ => none
  | some l :: rest => (joinAll rest).map (l ++ ·)

/-- The accesses of the instructions of a streamer program in their order, with `iters` the iterations of the open loops, innermost
first; none where a field lies outside its stated values or loops stand more than four deep (R79, R80, R82). -/
def streamOps (most : Option Nat) : Nat → List Nat → List (List Byte) → Option (List StreamOp)
  | 0, _, _ => some []
  | _, _, [] => some []
  | n + 1, iters, i :: rest =>
    let next := fun (x : Option StreamOp) => match x, streamOps most n iters rest with
      | some x, some l => some (x :: l)
      | _, _ => none
    match (i.headD 0).toNat with
    | 0x2F => some []
    | 0x21 => next ((Config.xferOf i iters).map .xfer)
    | 0x22 => next ((Config.walkOf i iters).map .walk)
    | 0x23 => next ((Config.orderedOf i iters).map .ordered)
    | 0x26 => next ((Config.digestOf i).map .digest)
    | 0x24 => if Config.syncFieldsOk i then streamOps most n iters rest else none
    | 0x25 =>
      match (Config.loopOf i).map fun x => (largestCount most x.1, x.2) with
      | some (some times, len) =>
        if 4 ≤ iters.length || decide (rest.length < len) then none
        else
          match joinAll ((List.range times).map fun t => streamOps most n (t :: iters) (rest.take len)),
              streamOps most n iters (rest.drop len) with
          | some a, some b => some (a ++ b)
          | _, _ => none
      | _ => none
    | _ => none

/-- Whether the fields of an EXEC program keep their stated values, its loops at most four deep (R79, R80). -/
def execOk (most : Option Nat) : Nat → Nat → List (List Byte) → Bool
  | 0, _, _ => true
  | _, _, [] => true
  | n + 1, depth, i :: rest =>
    if (i.headD 0).toNat ≠ 0x09 then Config.execFieldsOk i && execOk most n depth rest
    else
      match (Config.loopOf i).map fun x => (largestCount most x.1, x.2) with
      | some (some _, len) =>
        decide (depth < 4) && decide (len ≤ rest.length) && execOk most n (depth + 1) (rest.take len) &&
          execOk most n depth (rest.drop len)
      | _ => false

/-- The instructions of a section. -/
def Section.instrs (x : Section) (img : List Byte) : List (List Byte) := instrsOf (x.size / 16) (x.bytes img)

/-- A streamer program of a slab core, decoded. -/
structure Program where
  core : Nat
  store : Bool
  ops : List StreamOp
  deriving DecidableEq, Repr

/-- The streamer programs of a slab, or none where one breaks the rules of its fields. -/
def programsOf (img : List Byte) (most : Option Nat) : Option (List Program) :=
  joinAll (((sectionsOf img).filter fun x => x.kind = 2 || x.kind = 3).map fun x =>
    (streamOps most (x.size / 16) [] (x.instrs img)).map fun l => [{ core := x.index, store := x.kind = 3, ops := l }])

/-! ### What an access touches -/

/-- The far ends of an access with their bytes. -/
def StreamOp.far : StreamOp → List (Remote × Nat)
  | .xfer op => [(op.far, codecSize op.codec op.bytes)]
  | .walk op => [(.role op.role op.base, op.plan.height * walkPitch op)]
  | .ordered op => [(op.far, op.bytes)]
  | .digest _ => []

/-- The ranges of its own Bench share that an access touches. -/
def StreamOp.near : StreamOp → List (Nat × Nat)
  | .xfer op => (op.bench, op.bytes) :: (op.rowSum.map fun s => (s.1, rowSumBytes s.2 op.bytes)).toList
  | .walk op =>
    (op.lines, op.plan.slots * planRowBytes op.plan) ::
      (op.rowSum.map fun s => (s.1, op.plan.slots * rowSumBytes s.2 (planRowBytes op.plan))).toList
  | .ordered op => [(op.bench, op.bytes)]
  | .digest _ => []

/-- Whether an access is an ordered one. -/
def StreamOp.isOrdered : StreamOp → Bool
  | .ordered _ => true
  | _ => false

/-- The roles that an access names. -/
def StreamOp.roles (x : StreamOp) : List Nat :=
  x.far.filterMap fun e => match e.1 with
    | .role r _ => some r.val
    | .share _ _ => none

/-- The range of a role that an access touches. -/
def StreamOp.inRole (x : StreamOp) (role : Nat) : List (Nat × Nat) :=
  x.far.filterMap fun e => match e.1 with
    | .role r off => if r.val = role then some (off, e.2) else none
    | .share _ _ => none

/-! ### Reason FORMAT (R56, R79, R117, R133, R152, R167) -/

/-- Whether the codec options of an access keep R167 and R168. -/
def codecOk (bytes : Nat) : Codec → Bool
  | .zero f _ => fmtBits f = 8 || fmtBits f = 16
  | .none => true
  | .cut2 _ => bytes % 128 = 0
  | .cut3 _ => bytes % 192 = 0

/-- Whether the fields of an access keep their stated values. -/
def StreamOp.fieldsOk : StreamOp → Bool
  | .xfer op => codecOk op.bytes op.codec
  | .walk op => walkOk op
  | .ordered op => orderedSize op.bytes && op.bench % op.bytes = 0 && (match op.far with
      | .role _ off => off % op.bytes = 0
      | .share _ off => off % op.bytes = 0)
  | .digest _ => true

/-- What stands before, in and behind the digest of a result in a store program that opens and closes it once (R117). -/
def digestBody (id : BitVec 16) (ops : List StreamOp) : Option (List StreamOp × List StreamOp) :=
  let isOpen := fun (x : StreamOp) => decide (x = .digest (.start id))
  let isDigest := fun (x : StreamOp) => match x with
    | .digest _ => true
    | _ => false
  let before := ops.takeWhile fun x => !isOpen x
  match ops.drop before.length with
  | [] => none
  | _ :: rest =>
    let body := rest.takeWhile fun x => !isDigest x
    match rest.drop body.length with
    | .digest .stop :: behind => if behind.any isOpen then none else some (body, before ++ behind)
    | _ => none

/-- The end of what accesses write one after another of a role from an offset, in ascending order. -/
def writtenTo (role : Nat) : Nat → List StreamOp → Option Nat
  | off, [] => some off
  | off, x :: l =>
    match x.inRole role with
    | [(o, n)] => if o = off && x.far.length = 1 then writtenTo role (off + n) l else none
    | _ => none

/-- Whether no access of a list touches a result's bytes. -/
def sparesResult (x : ResultDecl) (ops : List StreamOp) : Bool :=
  ops.all fun o => (o.inRole x.role).all fun e => !overlaps e.1 e.2 x.offset x.bytes

/-- Whether one store program digests a checked result as R117 asks, and no other access writes a byte of it. -/
def digestOk (l : List Program) (x : ResultDecl) : Bool :=
  let stores := l.filter (·.store)
  match stores.filter fun p => p.ops.any fun o => decide (o = .digest (.start x.id)) with
  | [p] =>
    match digestBody x.id p.ops with
    | some (body, other) =>
      writtenTo x.role x.offset body = some (x.offset + x.bytes) && sparesResult x other &&
        (stores.filter fun y => y.core ≠ p.core).all fun y => sparesResult x y.ops
    | none => false
  | _ => false

/-- The streamer programs of a slab, all of whose programs keep the rules of reason FORMAT. -/
def programsIn (img : List Byte) (x : Decl) : Option (List Program) :=
  match programsOf img x.loopMax with
  | none => none
  | some l =>
    if ((sectionsOf img).filter fun y => y.kind = 1).all (fun y => execOk x.loopMax (y.size / 16) 0 (y.instrs img)) &&
        l.all (fun p => p.ops.all (·.fieldsOk)) && !Config.unsummedDrain img && (x.results.filter (·.checked)).all (digestOk l) then some l
    else none

/-! ### Reasons BENCH to EMPTY_OUTPUT on the programs -/

/-- Whether every access of the programs stays within the declared Bench share (reason BENCH). -/
def benchInside (share : Nat) (l : List Program) : Bool :=
  l.all fun p => p.ops.all fun o =>
    o.near.all (fun e => decide (e.1 + e.2 ≤ share)) && o.far.all fun e => match e.1 with
      | .share _ off => decide (off + e.2 ≤ share)
      | .role _ _ => true

/-- The roles that an instance of a slab has in place of a role: the primary's, and the replica's where there is one. -/
def Slab.instances (s : Slab) (r : Nat) : List Nat := if s.replica then [r, s.mapped r] else [r]

/-- The window of a tenancy that a role map binds a role to. -/
def Device.roleWindow (d : Device) (t : Nat) (roleMap : List Byte) (r : Nat) : Option Window :=
  match boundWindow roleMap r with
  | some w => tget (d.ten t).windows w
  | none => none

/-- Whether a test holds of every range that the programs name in a role, for each instance, and of the window it is bound to; an
unbound role fails. -/
def Device.eachAccess (d : Device) (t : Nat) (s : Slab) (l : List Program) (f : StreamOp → Window → Nat → Nat → Bool) : Bool :=
  l.all fun p => p.ops.all fun o => o.far.all fun e => match e.1 with
    | .share _ _ => true
    | .role r off => (s.instances r.val).all fun k => match d.roleWindow t s.roleMap k with
      | some w => f o w off e.2
      | none => false

/-- Whether a window lies in a memory that a streamer can address (R15, R59). -/
def Device.addressable (d : Device) (w : Window) : Bool := d.inMemory w.base 1 || d.isOutbound w.base

/-- Whether every address that the programs name lies within the window its role is bound to, in the DDR, the Quarry or an outbound
range (reason WINDOW; log entry 24). -/
def Device.accessesInside (d : Device) (t : Nat) (s : Slab) (l : List Program) : Bool :=
  d.eachAccess t s l fun _ w off n => d.addressable w && decide (w.base + off + n ≤ w.limit + 1)

/-- Whether ordered accesses alone reach windows with the side-effect attribute, and no others (R57). -/
def Device.sideEffectsKept (d : Device) (t : Nat) (s : Slab) (l : List Program) : Bool :=
  d.eachAccess t s l fun o w _ _ => w.sideEffect = o.isOrdered

/-- Whether a plain transfer keeps the sizes and the alignment of R54. -/
def StreamOp.transferOk : StreamOp → Bool
  | .xfer op =>
    op.bytes % 64 = 0 && decide (0 < op.bytes) && decide (op.bytes ≤ 65536) && op.bench % 64 = 0 && (match op.far with
      | .role _ off => off % 64 = 0
      | .share _ off => off % 64 = 0)
  | .walk op => op.base % 64 = 0 && op.lines % 64 = 0
  | _ => true

/-- Whether no operator of the walks has an empty output (R157). -/
def StreamOp.outputOk : StreamOp → Bool
  | .walk op => planH op.plan ≠ 0 && planW op.plan ≠ 0
  | _ => true

/-- Whether the EXEC programs make no reduction longer than R41 allows, and pool no map longer than R162 allows. -/
def reductionsOk (img : List Byte) : Bool :=
  ((sectionsOf img).filter fun x => x.kind = 1).all fun x =>
    let n := Config.reductions (x.bytes img)
    decide (n.1 ≤ 4194304) && decide (n.2 ≤ 8388608)

/-- The roles that the programs, the CONST sections and the results of a slab name, and role 0. -/
def namedRoles (img : List Byte) (x : Decl) (l : List Program) : List Nat :=
  let programs := l.flatMap fun p => p.ops.flatMap StreamOp.roles
  let consts := ((sectionsOf img).filter fun y => y.kind = 6).map fun y => y.flags % 16
  (0 :: (programs ++ consts ++ x.results.map (·.role))).dedup

/-! ### The copies into role 0 (R78) -/

/-- An instruction with its roles and offsets relocated: its class code stands, and no operand byte is laid out. -/
def relocate (bases : List Nat) (i : List Byte) : List Byte :=
  i.take 1 ++ (List.range 15).map fun j => Config.relocated i bases j

/-- The programs of a slab as they are copied into role 0's window: where each begins, and its bytes. A program lies within the window
(log entry 94). -/
def programCopies (img : List Byte) (bases : List Nat) (size : Nat) : List (Nat × List Byte) :=
  (sectionsOf img).zipIdx.filterMap fun e =>
    if !e.1.isProgram then none
    else
      let bs := ((e.1.instrs img).flatMap (relocate bases)).take size
      some (min (Config.programPlace img e.2) (size - bs.length), bs)

end Sys2Proof.Machine
end

