-- ==== Sys2Proof/Machine/Admission.lean ====
section
/-!
DEFINITION. Admission: the ordered checks of R98 and R234, placement (R100), objects and bandwidth (R84, R189, R196), stated
bounds (R106), the admission report (R99, R101), and the copies (R97, R116).
-/

namespace Sys2Proof.Machine

/-! ### Placement (R100) -/

/-- The distinct members of a list, ascending. -/
def ascending (l : List Nat) : List Nat := l.foldl addMember []

/-- The cluster groups of a die group. -/
def clusterGroups (groups : List (Nat × Nat)) (dg : Nat) : List Nat :=
  ascending ((groups.filter fun g => g.1 = dg).map (·.2))

/-- The clusters of a list that lie on a die. -/
def onDie (clusters : List Nat) (die : Nat) : List Nat := clusters.filter fun c => dieOfCluster c = die

/-- The cluster of each cluster group: die groups in ascending order go to the lowest die with clusters enough. -/
def placeGroups (groups : List (Nat × Nat)) (clusters : List Nat) : List Nat → List Nat → Option (Table Nat)
  | _, [] => some []
  | dies, dg :: rest =>
    let cgs := clusterGroups groups dg
    match dies.find? fun x => decide (cgs.length ≤ (onDie clusters x).length) with
    | none => none
    | some die =>
      (placeGroups groups clusters (dies.filter (· ≠ die)) rest).map fun m =>
        (cgs.zip (onDie clusters die)).foldl (fun m e => tput m e.1 e.2) m

/-- The cores of the slab cores, each the lowest of its cluster not yet used. -/
def placeCores (m : Table Nat) : List (Nat × Nat) → List Nat → List Nat
  | [], _ => []
  | g :: gs, used =>
    let c := tgetD m g.2 0
    let core := 4 * c + (used.filter (· = c)).length
    core :: placeCores m gs (c :: used)

/-- The placement of one copy of a slab on the clusters of some dies. -/
def placeOn (groups : List (Nat × Nat)) (clusters dies : List Nat) : Option (List Nat) :=
  (placeGroups groups clusters dies (ascending (groups.map (·.1)))).map fun m => placeCores m groups []

/-- The placement of a slab: the primary, and the replica on dies that hold no core of the primary. -/
def placeSlab (groups : List (Nat × Nat)) (clusters : List Nat) (replica : Bool) : Option (List Nat × List Nat) :=
  match placeOn groups clusters [0, 1, 2, 3] with
  | none => none
  | some prim =>
    if !replica then some (prim, [])
    else (placeOn groups clusters ([0, 1, 2, 3].filter fun x => !prim.any fun n => dieOfCore n = x)).map fun r => (prim, r)

/-! ### Roles and windows -/

/-- Whether a window lies in the memory that a WINDOW record names. -/
def Device.memoryIs (d : Device) (w : Window) (memory : Nat) : Bool :=
  match d.region w.base, d.region w.limit, memory with
  | .quarry _, .quarry _, 0 => true
  | .ddr _, .ddr _, 1 => true
  | .outbound _ _, .outbound _ _, 2 => true
  | _, _, _ => false

/-- The class of the valid regulation window that a bounds window lies wholly in; one that lies in none counts as BEST
(R187). -/
def Device.classOfWindow (d : Device) (w : Window) : Option Nat :=
  ((List.range 16).find? fun i => d.regBit (Reg.mrgWinAttr i) 0 &&
    (d.reg (Reg.mrgWinBase i)).toNat ≤ w.base && w.limit ≤ (d.reg (Reg.mrgWinLimit i)).toNat).map
    fun i => d.fld (Reg.mrgWinAttr i) 4 3

/-- The target of an address: DDR halves 0 and 1, Quarries 2 and 3. -/
def Device.targetOf (d : Device) (a : Nat) : Option Nat :=
  match d.region a with
  | .ddr h => some h
  | .quarry q => some (2 + q)
  | _ => none

/-- Whether a class gives a bound in a memory (R98 WINDOW, R110). -/
def Device.classBinds (d : Device) (c a : Nat) : Bool :=
  match d.classKind c with
  | 2 => true
  | 1 => decide ((if (d.targetOf a).getD 0 < 2 then 3000 else 800) ≤ d.fld (Reg.mrgClass c) 12 20)
  | _ => false

/-- Whether a use of a role passes reason WINDOW: its window's memory, size and class. -/
def Device.roleFits (d : Device) (t : Nat) (roleMap : List Byte) (role : Nat) (r : RoleDecl) : Bool :=
  match d.roleWindow t roleMap role with
  | none => false
  | some w =>
    d.memoryIs w r.memory && decide (r.size ≤ w.limit + 1 - w.base) &&
      (r.memory = 2 || match d.classOfWindow w with
        | some c => d.classBinds c w.base
        | none => false)

/-- Whether a REPLICA record keeps R96. A target role that has no WINDOW record of its own is judged by the window it is bound to
alone, against the record of the role it stands for (log entry 87). -/
def replicaMapOk (roles : List RoleDecl) (m : List Byte) : Bool :=
  (m.getD 0 0).toNat = 0 && roles.all fun r =>
    let k := (m.getD r.role 0).toNat
    r.writeBytes = 0 || (k ≠ r.role && match roles.find? fun x => x.role = k with
      | some x => x.memory = r.memory && decide (r.size ≤ x.size)
      | none => true)

/-- Whether the CONST sections of an image lie within their roles (log entry 25). -/
def constsFit (img : List Byte) (roles : List RoleDecl) : Bool :=
  (sectionsOf img).all fun x => x.kind ≠ 6 ||
    match roles.find? fun r => r.role = x.flags % 16 with
    | some r => decide (x.dest + x.size ≤ r.size)
    | none => false

/-! ### Objects and bandwidth (R84, R189, R196) -/

/-- The slabs loaded in every context. -/
def Device.allSlabs (d : Device) : List (Nat × Slab) :=
  d.ctxs.flatMap fun e => (tvals e.2.loaded).filterMap fun l => match l with
    | .slab s => some (e.1, s)
    | .package _ => none

/-- The objects that a slab holds on a die. -/
def Slab.objectsOn (s : Slab) (die : Nat) : Nat :=
  (s.objects.filter fun o => o.die = die).length + (s.objects.filter fun o => o.replicaDie = some die).length

/-- Whether each die has objects enough for a slab beside those reserved. -/
def Device.objectsFit (d : Device) (s : Slab) : Bool :=
  (List.range 4).all fun die =>
    decide (s.objectsOn die + (d.allSlabs.map fun e => e.2.objectsOn die).sum ≤ 4096)

/-- The rate that a slab of a context is granted in a class at a target, in B/s, each use counted in full. -/
def Device.slabRate (d : Device) (t : Nat) (s : Slab) (cls target : Nat) : Nat :=
  (s.uses.map fun u =>
    match d.roleWindow t s.roleMap u.1 with
    | some w => if d.classOfWindow w = some cls && d.targetOf w.base = some target then u.2.1.bandwidth else 0
    | none => 0).sum

/-- The reservation of a class at a target, in units of 10⁶ B/s. -/
def Device.resAt (d : Device) (cls : Nat) : Nat → Nat
  | 0 => d.fld (Reg.mrgClassResDdr0 cls) 0 32
  | 1 => d.fld (Reg.mrgClassResDdr1 cls) 0 32
  | 2 => d.fld (Reg.mrgClassResQry0 cls) 0 32
  | _ => d.fld (Reg.mrgClassResQry1 cls) 0 32

/-- The fixed and legacy grants of a class, in units of 10⁶ B/s. -/
def Device.fixedGrants (d : Device) (cls : Nat) : Nat :=
  ((List.range 13).map fun i => d.fld (Reg.mrgPortGrant (24 + i) cls) 0 32).sum + d.fld (Reg.mrgLegacyGrant cls) 0 32

/-- Whether a slab's grants fit beside those admitted in each class and target that they add to. -/
def Device.classesFit (d : Device) (t : Nat) (s : Slab) : Bool :=
  (List.range 8).all fun cls => (List.range 4).all fun target =>
    let new := d.slabRate t s cls target
    new = 0 ||
      decide (new + (d.allSlabs.map fun e => d.slabRate (d.ctx e.1).tenancy e.2 cls target).sum +
        d.fixedGrants cls * 1000000 ≤ d.resAt cls target * 1000000)

/-- The declared bandwidth of a slab whose copies have cores on a die. -/
def Slab.dieRate (s : Slab) (die : Nat) : Nat :=
  (s.uses.map fun u => if u.2.2.any fun n => dieOfCore n = die then u.2.1.bandwidth else 0).sum

/-- The declared bandwidth of a slab in one direction of the base-to-base link, from base die `src` (log entry 26). -/
def Device.linkRate (d : Device) (t : Nat) (s : Slab) (src : Nat) : Nat :=
  (s.uses.map fun u =>
    match d.roleWindow t s.roleMap u.1 with
    | none => 0
    | some w =>
      match d.targetOf w.base with
      | none => 0
      | some g =>
        let mem := g % 2
        let read := mem = src && (u.2.2.any fun n => dieOfCore n / 2 ≠ src) && u.2.1.readBytes ≠ 0
        let write := mem ≠ src && (u.2.2.any fun n => dieOfCore n / 2 = src) && u.2.1.writeBytes ≠ 0
        if read || write then u.2.1.bandwidth else 0).sum

/-- Whether the dies and the link carry a slab beside those admitted (80 % of 8 TB/s and of 1.5 TB/s). -/
def Device.diesFit (d : Device) (t : Nat) (s : Slab) : Bool :=
  (List.range 4).all (fun die =>
    s.dieRate die = 0 || decide (s.dieRate die + (d.allSlabs.map fun e => e.2.dieRate die).sum ≤ 6400000000000)) &&
  (List.range 2).all fun src =>
    d.linkRate t s src = 0 ||
      decide (d.linkRate t s src + (d.allSlabs.map fun e => d.linkRate (d.ctx e.1).tenancy e.2 src).sum ≤ 1200000000000)

/-- The grants of a slab at the cluster ports (R189). -/
def Device.grantsOf (d : Device) (t : Nat) (s : Slab) : List Grant :=
  s.uses.flatMap fun u =>
    match d.roleWindow t s.roleMap u.1 with
    | none => []
    | some w =>
      match d.targetOf w.base, d.classOfWindow w with
      | some _, some c =>
        let clusters := ascending (u.2.2.map (· / 4))
        if u.2.1.bandwidth = 0 then []
        else clusters.map fun k => { port := k, cls := c, rate := u.2.1.bandwidth * rateUnit / clusters.length }
      | _, _ => []

/-- The buckets that the grants of slabs fill at a port: pairs of context and class, as 8 × context + class. -/
def portBuckets (l : List (Nat × Slab)) (port : Nat) : List Nat :=
  ascending (l.flatMap fun e => (e.2.grants.filter fun g => g.port = port).map fun g => 8 * e.1 + g.cls)

/-- Whether no cluster port needs a 33rd bucket. -/
def Device.bucketsFit (d : Device) (c : Nat) (s : Slab) : Bool :=
  (List.range 24).all fun port => decide ((portBuckets ((c, s) :: d.allSlabs) port).length ≤ 32)

/-! ### Stated bounds (R103, R106) -/

/-- The ticks from a start to the bound instant. -/
def walkSpan (slices : List (Nat × Nat)) (frame need start : Nat) : Nat :=
  (walkCalendar slices frame start need).getD 0 - start

/-- The figures of a result, in ns: from slice starts, and from any usable tick, the last of each slice giving the most. -/
def statedBounds (slices : List (Nat × Nat)) (frame need : Nat) : Nat × Nat :=
  let aligned := (slices.map fun s => walkSpan slices frame need s.1).foldl max 0
  let worst := (slices.map fun s => walkSpan slices frame need (s.2 - 21)).foldl max aligned
  (10 * aligned, 10 * worst)

/-- The figures of each result of a slab on a ring. -/
def Device.boundsOf (d : Device) (c t : Nat) (ring : Ring) (results : List ResultDecl) : List (Nat × Nat) :=
  results.map fun r =>
    statedBounds (d.slicesOf c) d.frameTicks (needTicks d.floorCount r (d.ringLatency t ring))

/-! ### The checks of R98, in order -/

/-- The slab that an image, its declaration and a placement make. -/
def Device.slabOf (d : Device) (t image : Nat) (roleMap img : List Byte) (x : Decl) (l : List Program)
    (p : List Nat × List Nat) : Slab :=
  let flags := fieldAt img 0x12 1
  let dieOf := fun (cores : List Nat) (dg : Nat) =>
    ((x.groups.zip cores).find? fun e => e.1.1 = dg).map fun e => dieOfCore e.2
  let objects := (syncEntries img).map fun o =>
    { die := (dieOf p.1 o.1).getD 0, replicaDie := dieOf p.2 o.1, init := o.2 : SyncObj }
  let s : Slab :=
    { id := BitVec.ofNat 64 (fieldAt img 0x20 8), image := image, roleMap := roleMap, replica := flags / 2 % 2 = 1,
      oppoint := BitVec.ofNat 2 (d.fld Reg.pwrStatus 0 2), roles := x.roles, results := x.results, loopMax := x.loopMax,
      replicaMap := x.replicaMap, primary := p.1, replicaCores := p.2, grants := [], objects := objects,
      share := x.share, named := namedRoles img x l }
  { s with grants := d.grantsOf t s }

/-- The checks of reasons BENCH to SLICE on a slab whose format is in order; the reason of the first that fails. -/
def Device.slabVeto (d : Device) (c t : Nat) (img : List Byte) (x : Decl) (l : List Program) (s : Slab) : Option Byte :=
  let flags := fieldAt img 0x12 1
  if s.share > d.shareBytes c || (sectionsOf img).any (fun y => y.kind = 7 && decide (x.share < y.dest + y.size)) ||
      !benchInside x.share l then some 0x08
  else if !s.uses.all (fun u => d.roleFits t s.roleMap u.1 u.2.1) || !d.accessesInside t s l || !constsFit img x.roles ||
      (flags / 2 % 2 = 1 && !replicaMapOk x.roles x.replicaMap) then some 0x09
  else if !d.sideEffectsKept t s l then some 0x0A
  else if !l.all (fun p => p.ops.all (·.transferOk)) then some 0x0B
  else if decide (4194304 < x.reduction) || !reductionsOk img then some 0x0C
  else if !l.all (fun p => p.ops.all (·.outputOk)) then some 0x0D
  else if !d.objectsFit s then some 0x0E
  else if !d.classesFit t s || !d.diesFit t s || !d.bucketsFit c s then some 0x0F
  else if (d.slicesOf c).isEmpty then some 0x10
  else none

/-- The checks of R98 on an image whose bytes have been read: the slab, or the reason of the first that fails. -/
def Device.admitSlab (d : Device) (c t image : Nat) (roleMap img : List Byte) (ring : Ring) : Byte ⊕ Slab :=
  let flags := fieldAt img 0x12 1
  let key := fieldAt img 0x2C 2
  if fieldAt img 0 4 ≠ slabMagic || d.ctxLegacy c then .inl 0x01
  else if !totalSizeOk (fieldAt img 8 8) || decide (d.boot.slabKeys.length ≤ key) ||
      !signatureOk img (d.boot.slabKeys.getD key []) then .inl 0x02
  else
    match (declIn img).bind fun x => (programsIn img x).map fun l => (x, l) with
    | none => .inl 0x03
    | some (x, l) =>
      if fieldAt img 0x10 1 ≠ 0x08 || decide (d.part.stepping.toNat < fieldAt img 0x11 1) || fieldAt img 0x16 2 ≠ 1 then
        .inl 0x04
      else if (decide (flags % 2 = 1) != d.ctxSafety c) || (flags % 2 = 1 && flags / 2 % 2 = 0) ||
          (flags / 4 = 1 && !d.ctxServing c) then .inl 0x05
      else if 8 ≤ (d.ctx c).loaded.length then .inl 0x06
      else
        match placeSlab x.groups (maskClusters (d.ctxMask c)) (flags / 2 % 2 = 1) with
        | none => .inl 0x07
        | some p =>
          let s := d.slabOf t image roleMap img x l p
          match d.slabVeto c t img x l s with
          | some v => .inl v
          | none =>
            if ((d.boundsOf c t ring s.results).zip s.results).any fun e =>
                e.2.deadline ≠ 0 && decide (e.2.deadline < e.1.2) then .inl 0x11
            else .inr s

/-- The pages of a partition's Foreman pool. -/
def Device.poolPages (d : Device) (p : Nat) : Nat := d.fld (Reg.fmnPoolSize p) 0 32

/-- The bytes of a tenancy's DDR and Quarry windows. -/
def Device.memoryBytes (d : Device) (t : Nat) : Nat :=
  ((tvals (d.ten t).windows).map fun w => if d.inMemory w.base 1 then w.limit + 1 - w.base else 0).sum

/-- The checks of R234 on an image that does not begin with the slab magic. -/
def Device.admitPackage (d : Device) (c t image : Nat) (roleMap img : List Byte) : Byte ⊕ Package :=
  match Config.packageLength (img.take 256) with
  | none => .inl 0x01
  | some _ =>
    let x := Config.package img
    if !d.ctxLegacy c then .inl 0x01
    else if 8 ≤ (d.ctx c).loaded.length then .inl 0x06
    else if x.1 then .inl 0x20
    else if d.poolPages (d.ctxPart c) < x.2.1 then .inl 0x21
    else if d.shareBytes c < x.2.2.1 then .inl 0x22
    else if d.memoryBytes t < x.2.2.2.1 then .inl 0x23
    else .inr { image := image, roleMap := roleMap, raw := img, steps := x.2.2.2.2.1, priority := x.2.2.2.2.2.val,
                results := (Config.packageResults img).dedup }

/-- The checks of R98 or of R234 on an image. -/
def Device.admitted (d : Device) (c t image : Nat) (roleMap img : List Byte) (ring : Ring) : Byte ⊕ Loaded :=
  if fieldAt img 0 4 = slabMagic then
    match d.admitSlab c t image roleMap img ring with
    | .inl r => .inl r
    | .inr s => .inr (.slab s)
  else
    match d.admitPackage c t image roleMap img with
    | .inl r => .inl r
    | .inr p => .inr (.package p)

/-! ### Copies and the report -/

/-- The identifiers of the results that a load declares (R28, R93). -/
def loadedResults : Loaded → List (BitVec 16)
  | .slab s => s.results.map (·.id)
  | .package p => p.results

/-- The writes of an admission's copies: the programs and CONST sections into their roles, BENCHINIT sections into the
shares of the slab's cores (R78, R97, R116). -/
def Device.copiesOf (d : Device) (c t : Nat) (img : List Byte) : Loaded → List (Nat × List Byte)
  | .package _ => []
  | .slab s =>
    let base := fun r => ((d.roleWindow t s.roleMap r).map (·.base)).getD 0
    let size := ((d.roleWindow t s.roleMap 0).map fun w => w.limit + 1 - w.base).getD 0
    let programs := (programCopies img ((List.range 16).map base) size).map fun e => (base 0 + e.1, e.2)
    let sects := (sectionsOf img).flatMap fun x =>
      if x.kind = 6 then
        let r := x.flags % 16
        let q := (s.replicaMap.getD r 0).toNat % 16
        (base r + x.dest, x.bytes img) :: if s.replica && q ≠ r then [(base q + x.dest, x.bytes img)] else []
      else if x.kind = 7 then
        [s.primary, s.replicaCores].filterMap fun cores => (cores[x.index]?).map fun n =>
          (d.shareAddr c n x.dest, x.bytes img)
      else []
    programs ++ sects

/-- The first 32 bytes of an admission report. -/
def Device.reportHead (d : Device) (id cores : Nat) (reason : Byte) (results : Nat) : List Byte :=
  bytesOfNat 8 id ++ [reason, BitVec.ofNat 8 (d.fld Reg.pwrStatus 0 2)] ++ bytesOfNat 2 results ++ bytesOfNat 2 cores ++
    bytesOfNat 2 0 ++ bytesOfNat 8 d.ns.toNat ++ bytesOfNat 8 0

/-- The report of a refused load: the identifier and the cores of a slab's header, 0 of any other image. -/
def Device.refusalReport (d : Device) (img : List Byte) (reason : Byte) : List Byte :=
  if fieldAt img 0 4 = slabMagic then d.reportHead (fieldAt img 0x20 8) (fieldAt img 0x2E 2) reason 0
  else d.reportHead 0 0 reason 0

/-- The report of an admitted load, with the part that follows its head. -/
def Device.admittedReport (d : Device) (l : Loaded) (tail : List Byte) : List Byte :=
  match l with
  | .slab s => d.reportHead s.id.toNat s.primary.length 0 s.results.length ++ tail
  | .package _ => d.reportHead 0 0 0 0 ++ tail

/-- The part of an admission report after its first 32 bytes. -/
def Device.reportTail (d : Device) (c t : Nat) (ring : Ring) : Loaded → List Byte
  | .package _ => []
  | .slab s =>
    let bounds := d.boundsOf c t ring s.results
    (s.results.zip bounds).flatMap (fun e =>
      bytesOfNat 8 e.1.id.toNat ++ bytesOfNat 8 e.2.1 ++ bytesOfNat 8 e.2.2) ++
      (List.range s.primary.length).flatMap fun k =>
        [BitVec.ofNat 8 (s.primary.getD k 0),
         match s.replicaCores[k]? with
         | some n => BitVec.ofNat 8 n
         | none => 0xFF]

/-- The lowest free slab index of a context. -/
def Device.freeSlot (d : Device) (c : Nat) : Nat :=
  ((List.range 8).find? fun i => (tget (d.ctx c).loaded i).isNone).getD 0

end Sys2Proof.Machine
end

