-- ==== Sys2Proof/Machine/Descriptors.lean ====
section
/-!
DEFINITION. The descriptors of context rings and of ring 0: LOAD, UNLOAD, JOIN, LEAVE and COPY (R99, R102, R227 to R230, R256,
R258, R259).
-/

namespace Sys2Proof.Machine

/-- The tenancy and the context of a context ring. -/
def Device.ringOwner (d : Device) (k : RingRef) : Option (Nat × Nat) :=
  match k, (d.ring k).ctx with
  | .ring t _, some c => some (t.val, c)
  | _, _ => none

/-- What stands in the way of an access of a descriptor to a range: the windows (R243), units held offline (R313), links
(R276, R388). -/
def Device.descVeto (d : Device) (k : RingRef) (a n : Nat) (read write : Bool) : Option (Byte × Byte) :=
  if !d.ringAddrOk k a n read write then some (St.bounds, d.boundsDetail a)
  else if d.rangeOff a n then some (St.unitOffline, 0)
  else if (if read then d.readDown a else d.linkDown a).isSome then some (St.linkError, 0x04)
  else none

/-- The sticky bit of a link that stood in the way of an access. -/
def Device.noteLink (d : Device) (a : Nat) (v : Byte × Byte) : Device :=
  if v.1 ≠ St.linkError then d
  else match d.readDown a with
    | some pc => d.linkFailed pc
    | none => d

/-- The head of a ring completed with what stood in its way. -/
def Device.vetoed (d : Device) (k : RingRef) (a : Nat) (v : Byte × Byte) : Device :=
  (d.noteLink a v).finish k v.1 v.2 0

/-! ### LOAD (R97, R99, R256) -/

/-- What the code of a memory reports of what a descriptor reads at an address (R174, R181): an uncorrectable word completes the
descriptor with ECC_UNCORR, any other report lets its work go on. -/
def Device.descEcc (d : Device) (k : RingRef) (a : Nat) (ecc : Ecc) (f : Device → Device) : Device :=
  let d := d.memEcc a ecc
  match ecc with
  | .uncorrectable i => d.finish k St.eccUncorr (d.eccDetail (a + i)) 0
  | _ => f d

/-- Whether a job is an admission in progress. -/
def Job.isAdmission : Job → Bool
  | .reading _ => true
  | .admitting _ _ _ _ _ => true
  | .restoring _ _ _ _ _ => true
  | _ => false

/-- Whether an admission is in progress (R97). -/
def Device.admissionBusy (d : Device) : Bool :=
  d.admin.job.isAdmission || d.tenancies.any fun t => t.2.rings.any fun r => r.2.job.isAdmission

/-- Whether a ring asks the admission unit to take its LOAD up (R97). -/
def Device.wantsLoad (d : Device) (k : RingRef) : Bool := (d.headOf k 1).any fun x => (d.headVeto k x).isNone

/-- The turn that the admission unit gives a ring, where it is the one granted (R70, R97). -/
def Device.admissionTurn (d : Device) (k : RingRef) : Option Device :=
  match grantOf d.arb.admission (d.ringRefs.filter fun e => d.wantsLoad e.2) with
  | some (i, j) => if j = k then some { d with arb := { d.arb with admission := (i + 1) % 1089 } } else none
  | none => none

/-- The device with an admission report written: a plain write, through port 28 or on a link (R276, R289; log entry 85). -/
def Device.reportWrite (d : Device) (k : RingRef) (a : Nat) (bs : List Byte) : Device :=
  let d := d.ringLog k a bs.length
  match d.region a with
  | .outbound pc _ => d.emitWrites pc a bs
  | _ => (d.charge 28 a bs.length true).wr a bs

/-- A LOAD refused at step 3 or 4, with its report (R99). -/
def Device.refuseLoad (d : Device) (k : RingRef) (report : Nat) (img : List Byte) (reason : Byte) : Device :=
  (d.reportWrite k report (d.refusalReport img reason)).refuse k reason

/-- Steps 3 to 5 of a LOAD on an image that has been read. -/
def loadImage (d : Device) (k : RingRef) (x : QDesc) (img : List Byte) : Device :=
  match d.ringOwner k with
  | none => d
  | some (t, c) =>
    let report := x.field 0x28 8
    let ring := d.ring k
    match d.admitted c t (x.field 0x20 8) (slice x.raw 0x30 16) img ring with
    | .inl reason => d.refuseLoad k report img reason
    | .inr l =>
      let tail := d.reportTail c t ring l
      if 2 ^ ring.n < (loadedResults l).length + 1 then d.refuseLoad k report img 0x44
      else if !d.allowed t report (32 + tail.length) false true then d.finish k St.bounds 0x01 0
      else d.setRing k { ring with job := .admitting (d.freeSlot c) l report (d.copiesOf c t img l) tail }

/-- The length of the whole image that begins with 256 bytes (step 2). -/
def imageLength (head : List Byte) : Nat :=
  if fieldAt head 0 4 = slabMagic then max 256 (fieldAt head 8 8) else max 256 ((Config.packageLength head).getD 256)

/-- A read of part of an image over a link, which the head descriptor then waits for. -/
def Device.readOver (d : Device) (k : RingRef) (pc : Pc) (a n : Nat) (got : List Byte) : Device :=
  (d.emitReads pc (.image k) a n).setRing k { d.ring k with job := .reading got }

/-- Step 2 of a LOAD once the first 256 bytes of the image have been read: the whole image must lie in one window, and is
read. -/
def loadHead (d : Device) (k : RingRef) (x : QDesc) (head : List Byte) (ecc : Ecc) : Device :=
  let a := x.field 0x20 8
  let n := imageLength head
  match d.descVeto k a n true false with
  | some v => d.vetoed k a v
  | none =>
    match d.region a with
    | .outbound pc _ => if n ≤ 256 then loadImage d k x head else d.readOver k pc (a + 256) (n - 256) head
    | _ => (d.charge 28 a n false).descEcc k a (eccBefore n ecc) fun d => loadImage d k x (d.rd a n)

/-- The effect of LOAD at the head of a ring, in the turn that the admission unit gives it; it waits while another admission or a
change of operating point is in progress (R97, R415). -/
def loadTaken (d : Device) (k : RingRef) (x : QDesc) (ecc : Ecc) : Device :=
  if d.admissionBusy || d.gov.takeUp.isSome then d
  else
    match d.admissionTurn k with
    | none => d
    | some d =>
      let a := x.field 0x20 8
      let report := x.field 0x28 8
      match d.descVeto k report 32 false true with
      | some v => d.vetoed k report v
      | none =>
        match d.descVeto k a 256 true false with
        | some v => d.vetoed k a v
        | none =>
          match d.region a with
          | .outbound pc _ => d.readOver k pc a 256 []
          | _ =>
            match eccBefore 256 ecc with
            | .uncorrectable i => d.descEcc k a (.uncorrectable i) id
            | _ => loadHead d k x (d.rd a 256) ecc

/-- The image, or its head, that a link has brought whole (R256). -/
def imageArrived (d : Device) (k : RingRef) : Device :=
  match (d.ring k).queued, (d.ring k).job with
  | x :: _, .reading got =>
    let d := d.setRing k { d.ring k with job := .idle }
    if got.length ≤ 256 then loadHead d k x got .clean else loadImage d k x got
  | _, _ => d

/-- One write of an admission's copies: at the context's own port and bucket, or on a link (R97, R276). -/
def Device.copyIn (d : Device) (c t : Nat) (w : Nat × List Byte) : Device :=
  let d := d.logWrite t w.1 w.2.length
  match d.region w.1 with
  | .outbound pc _ => d.emitWrites pc w.1 w.2
  | _ =>
    let port := ((d.ctxCores c).headD 0) / 4
    ((d.linesIssue port (d.bucketOwner c) (lineAddrs w.1 w.2.length)).2.2.serve w.1 w.2.length true).wr w.1 w.2

/-- The first of an admission's copies that cannot be made: at a unit held offline (R313), or behind a link that is down (R276). -/
def Device.copyVeto (d : Device) (writes : List (Nat × List Byte)) : Option (Nat × Byte × Byte) :=
  writes.findSome? fun w =>
    if d.rangeOff w.1 w.2.length then some (w.1, St.unitOffline, 0)
    else if (d.linkDown w.1).isSome then some (w.1, St.linkError, 0x04)
    else none

/-- The effect of ADMISSION_COMPLETE (R97, R102): the copies, the report, and the LOAD's completion with the slab index; a copy that
cannot be made leaves nothing done. -/
def admissionComplete (d : Device) (k : RingRef) : Device :=
  match d.ringOwner k, (d.ring k).job with
  | some (t, c), .admitting slot l report writes tail =>
    if d.headHeld k || d.entryHeld k then d
    else
      match d.copyVeto writes with
      | some (a, v) => d.vetoed k a v
      | none =>
        let d := d.setCtx c { d.ctx c with loaded := tput (d.ctx c).loaded slot l }
        let d := writes.foldl (fun d w => d.copyIn c t w) d
        let d := d.reportWrite k report (d.admittedReport l tail)
        d.finish k St.ok 0 slot
  | _, _ => d

/-! ### UNLOAD -/

/-- The effect of UNLOAD. -/
def unloadTaken (d : Device) (k : RingRef) (x : QDesc) : Device :=
  match d.ringOwner k with
  | none => d
  | some (_, c) =>
    let i := x.field 0x20 1
    if (tget (d.ctx c).loaded i).isNone then d.refuse k 0x42 else (d.release c i).finish k St.ok 0 0

/-! ### Serving tables (R227 to R230) -/

/-- The active slots of a serving table at an address. -/
def Device.activeSlots (d : Device) (a : Nat) : List Nat :=
  (List.range (min 256 (natOfBytes (d.coRead a 4)))).map fun i => natOfBytes (d.coRead (a + 0x40 + 2 * i) 2)

/-- A serving table's active slots written: their number, and the list filled up with 0xFFFF. -/
def Device.writeActive (d : Device) (k : RingRef) (a : Nat) (slots : List Nat) : Device :=
  (d.ringWrite k a (bytesOfNat 4 slots.length)).ringWrite k (a + 0x40)
    ((slots.flatMap (bytesOfNat 2)) ++ List.replicate (512 - 2 * slots.length) 0xFF)

/-- The state byte of a slot of a serving table. -/
def Device.slotState (d : Device) (a i : Nat) : Byte := (d.coRead (a + 0x240 + 32 * i) 1).headD 0

/-- The work of a serving command on its context's table (R227 to R230): refused without one, ended where a unit of the table is held
offline (R313) or a word of it is uncorrectable (R174, R181), waiting while port 28 holds the table. -/
def Device.onTable (d : Device) (k : RingRef) (ecc : Ecc) (f : Device → Nat → Nat → Device) : Device :=
  match d.ringOwner k with
  | none => d
  | some (_, c) =>
    match d.ctxServing c, d.servingBase c with
    | true, some a =>
      if d.rangeOff a (0x240 + 32 * d.ctxSlots c) then d.finish k St.unitOffline 0 0
      else if d.portHolds 28 a then d
      else (d.charge 28 a 0x240 false).descEcc k a ecc fun d => f d c a
    | _, _ => d.refuse k 0x32

/-- The effect of JOIN. -/
def joinTaken (d : Device) (k : RingRef) (x : QDesc) (ecc : Ecc) : Device :=
  d.onTable k ecc fun d c a =>
    let act := d.activeSlots a
    match (List.range (d.ctxSlots c)).find? fun i => d.slotState a i = 0 with
    | none => d.refuse k 0x30
    | some i =>
      if d.ctxSlots c ≤ act.length then d.refuse k 0x30
      else
        let e := a + 0x240 + 32 * i
        let d := d.ringWrite k e [1, 0]
        let d := d.ringWrite k (e + 4) (slice x.raw 0x30 4 ++ slice x.raw 0x20 16)
        let d := d.ringWrite k (e + 0x18) (d.coRead (a + 8) 8)
        (d.writeActive k a (addMember act i)).finish k St.ok 0 i

/-- The effect of LEAVE. -/
def leaveTaken (d : Device) (k : RingRef) (x : QDesc) (ecc : Ecc) : Device :=
  d.onTable k ecc fun d c a =>
    let i := x.field 0x20 2
    if d.ctxSlots c ≤ i || d.slotState a i = 0 then d.refuse k 0x31
    else
      let d := d.ringWrite k (a + 0x240 + 32 * i) [0]
      (d.writeActive k a (dropMember (d.activeSlots a) i)).finish k St.ok 0 0

/-! ### COPY (R258, R259) -/

/-- Whether an address lies in a window of a tenancy with the side-effect attribute. -/
def Device.sideEffectAt (d : Device) (t a : Nat) : Bool :=
  (tvals (d.ten t).windows).any fun w => w.sideEffect && w.covers a 1

/-- The shape of a COPY that the device does not perform: SIZE_UNSUPPORTED's detail. -/
def copyShape (src dst len : Nat) (ordered : Bool) : Option Byte :=
  if ordered then
    if !orderedSize len then some 0x01
    else if src % len ≠ 0 || dst % len ≠ 0 then some 0x02
    else if overlaps src len dst len then some 0x04
    else none
  else if len % 64 ≠ 0 || len = 0 || decide (64 * 2 ^ 20 < len) then some 0x01
  else if src % 64 ≠ 0 || dst % 64 ≠ 0 then some 0x02
  else if overlaps src len dst len then some 0x04
  else none

/-- The effect of COPY at the head of a ring: its shape and windows are checked; its lines move in the turns that the copy engine gives
its ring. -/
def copyTaken (d : Device) (k : RingRef) (x : QDesc) : Device :=
  match k with
  | .admin => d
  | .ring t _ =>
    let src := x.field 0x20 8
    let dst := x.field 0x28 8
    let len := x.field 0x30 4
    let ordered := d.sideEffectAt t src || d.sideEffectAt t dst
    match copyShape src dst len ordered with
    | some v => d.finish k St.sizeUnsupported v 0
    | none =>
      if !d.ringAddrOk k src len true false then d.finish k St.bounds (d.boundsDetail src) 0
      else if !d.ringAddrOk k dst len false true then d.finish k St.bounds (d.boundsDetail dst) 0
      else d.setRing k { d.ring k with job := .copying src dst len ordered 0 [] }

/-- A COPY in progress: where from, where to, its length, and whether it is an ordered access. -/
structure CopyJob where
  src : Nat
  dst : Nat
  len : Nat
  ordered : Bool

/-- What stands in the way of a line of a copy at its issue. -/
def Device.copyLineVeto (d : Device) (k : RingRef) (j : CopyJob) (m n : Nat) : Option (Nat × Byte × Byte) :=
  match d.descVeto k (j.src + m) n true false, d.descVeto k (j.dst + m) n false true with
  | some v, _ => some (j.src + m, v)
  | none, some v => some (j.dst + m, v)
  | none, none => none

/-- Lines of a copy moved in ascending order from `m` bytes on, as far as they go: how many bytes have moved, and the status where the copy
has ended. Each line is checked at its issue (R258). A line waits for port 28, for a peer's chunk (R391), and for its data where the
source is a link, whose data so far is `got`; `bad` is the place of an uncorrectable word. Every 64 KiB is a chunk (R259). -/
def copyLines (k : RingRef) (j : CopyJob) (bad : Option Nat) :
    Nat → Device → Nat → List Byte → Device × Nat × Option (Byte × Byte)
  | 0, d, m, _ => (d, m, none)
  | n + 1, d, m, got =>
    let w := min 64 (j.len - m)
    let link := d.isOutbound (j.src + m)
    if w = 0 || (link && decide (got.length < w)) then (d, m, none)
    else
      match d.copyLineVeto k j m w with
      | some (a, v) => (d.noteLink a v, m, some v)
      | none =>
        if !j.ordered && d.twinHeld (j.dst + m) then (d, m, none)
        else
          match d.lineIssue 28 256 (j.src + m) with
          | none => (d, m, none)
          | some (_, d') =>
            if d'.portHolds 28 (j.dst + m) then (d, m, none)
            else if bad.any fun i => m ≤ i && i < m + w then
              (d'.memUe (j.src + bad.getD 0), m, some (St.eccUncorr, d.eccDetail (j.src + m)))
            else
              let line := if link then got.take w else d'.coRead (j.src + m) w
              let d := (d'.serve (j.src + m) w false).ringWrite k (j.dst + m) line
              let d := if !j.ordered && ((m + w) % 65536 = 0 || m + w = j.len) then d.chunkEnd (j.dst + m) else d
              copyLines k j bad n d (m + w) (got.drop w)

/-- The reads of a chunk's lines sent on a link, each line checked at its issue, up to the first that something stands in the way
of. -/
def copyReads (k : RingRef) (j : CopyJob) (pc : Pc) : Nat → Device → Nat → Device × Option (Nat × Byte × Byte)
  | 0, d, _ => (d, none)
  | n + 1, d, m =>
    let w := min 64 (j.len - m)
    match d.copyLineVeto k j m w with
    | some v => (d, some v)
    | none => copyReads k j pc n (d.emitRead pc (.copy k) (j.src + m) w) (m + w)

/-- The bytes of a copy's current chunk that are still to move. -/
def CopyJob.chunk (j : CopyJob) (m : Nat) : Nat := min j.len (65536 * (m / 65536 + 1)) - m

/-- The data of a copy moved as far as it goes: its descriptor completes with the bytes moved, or it waits for its next turn. -/
def Device.copyMove (d : Device) (k : RingRef) (j : CopyJob) (m : Nat) (got : List Byte) (ecc : Ecc) : Device :=
  let bad := match ecc with
    | .uncorrectable i => some (m + i)
    | _ => none
  let r := copyLines k j bad (ceilDiv (j.chunk m) 64) d m got
  let d := match ecc with
    | .corrected l => r.1.memCes (j.src + m) (l.filter fun i => m + i < r.2.1)
    | _ => r.1
  match r.2.2 with
  | some v => d.finish k v.1 v.2 r.2.1
  | none =>
    if r.2.1 = j.len then d.finish k St.ok 0 r.2.1
    else d.setRing k { d.ring k with job := .copying j.src j.dst j.len j.ordered r.2.1 (got.drop (r.2.1 - m)) }

/-- The effect of COPY_COMPLETE: the turn that the copy engine gives a ring moves the rest of one chunk (R259), or asks a link for
it. -/
def copyComplete (d : Device) (k : RingRef) (ecc : Ecc) : Device :=
  if !d.wantsCopy k then d
  else
    match (d.ring k).job, d.engineTurn k with
    | .copying src dst len ordered m got, some d =>
      let j : CopyJob := { src := src, dst := dst, len := len, ordered := ordered }
      match d.region src, got with
      | .outbound pc _, [] =>
        let r := copyReads k j pc (ceilDiv (j.chunk m) 64) d m
        match r.2 with
        | some (a, v) => if r.1.outbound.length = d.outbound.length then (r.1.noteLink a v).finish k v.1 v.2 m else r.1
        | none => r.1
      | _, _ => d.copyMove k j m got ecc
    | _, _ => d

/-- A copy whose link has failed: what has come moves, and the descriptor completes with the bytes moved (R258, R277). -/
def Device.copyFailed (d : Device) (k : RingRef) (detail : Byte) : Device :=
  match (d.ring k).job with
  | .copying src dst len ordered m got =>
    let j : CopyJob := { src := src, dst := dst, len := len, ordered := ordered }
    let r := copyLines k j none (ceilDiv got.length 64) d m got
    match r.2.2 with
    | some v => r.1.finish k v.1 v.2 r.2.1
    | none => r.1.finish k St.linkError detail r.2.1
  | _ => d

/-! ### The commands -/

/-- LOAD. -/
def execLoad (t : Fin 64) (r : Fin 17) (s : State) (ecc : Ecc := .clean) : Host.Outcome State Fault Refusal :=
  actLive s fun d => d.onHead (.ring t r) 1 fun d x => loadTaken d (.ring t r) x ecc

/-- ADMISSION_COMPLETE. -/
def execAdmissionComplete (t : Fin 64) (r : Fin 17) (s : State) : Host.Outcome State Fault Refusal :=
  actLive s fun d => admissionComplete d (.ring t r)

/-- UNLOAD. -/
def execUnload (t : Fin 64) (r : Fin 17) (s : State) : Host.Outcome State Fault Refusal :=
  actLive s fun d => d.onHead (.ring t r) 2 fun d x => unloadTaken d (.ring t r) x

/-- JOIN. -/
def execJoin (t : Fin 64) (r : Fin 17) (s : State) (ecc : Ecc := .clean) : Host.Outcome State Fault Refusal :=
  actLive s fun d => d.onHead (.ring t r) 4 fun d x => joinTaken d (.ring t r) x ecc

/-- LEAVE. -/
def execLeave (t : Fin 64) (r : Fin 17) (s : State) (ecc : Ecc := .clean) : Host.Outcome State Fault Refusal :=
  actLive s fun d => d.onHead (.ring t r) 5 fun d x => leaveTaken d (.ring t r) x ecc

/-- COPY. -/
def execCopy (ring : RingRef) (s : State) : Host.Outcome State Fault Refusal :=
  actLive s fun d => d.onHead ring 6 fun d x => copyTaken d ring x

/-- COPY_COMPLETE. -/
def execCopyComplete (ring : RingRef) (ecc : Ecc) (s : State) : Host.Outcome State Fault Refusal :=
  actLive s fun d => copyComplete d ring ecc

end Sys2Proof.Machine
end

