-- ==== Sys2Proof/Machine/Admin.lean ====
section
/-!
DEFINITION. The administrative ring and its commands (R240 to R245, R250, R253, R262, R265 to R273, R280).
-/

namespace Sys2Proof.Machine

/-! ### The ring itself (R265, R280) -/

/-- Whether the settings that a write of HIF_ADMIN_CTRL leaves let the ring be enabled (R280). -/
def Device.adminSettingsOk (d : Device) (v : Half) : Bool :=
  let w := wordOf v
  let n := bitsAt w 8 4
  bitsAt w 4 2 ≠ 3 && 4 ≤ n && n ≤ 12 && (d.reg Reg.hifAdminSqBase).toNat % (64 * 2 ^ n) = 0 &&
    (d.reg Reg.hifAdminCqBase).toNat % (64 * 2 ^ n) = 0

/-- The effect of a write of HIF_ADMIN_CTRL with enable 1: where the ring is disabled the settings are taken, and where they
keep R280 the ring runs with every count 0. -/
def adminRingEnable (d : Device) (v : Half) : Device :=
  let d := d.reply .written
  if d.regBit Reg.hifAdminCtrl 0 || !bitOf (wordOf v) 0 then d
  else
    let kept := wordOf v &&& 0xF30
    if !d.adminSettingsOk v then d.setReg Reg.hifAdminCtrl kept
    else
      let d := d.setReg Reg.hifAdminCtrl (kept ||| 1)
      { d with admin := { Ring.unset with
          n := bitsAt (wordOf v) 8 4, sqBase := (d.reg Reg.hifAdminSqBase).toNat
          cqBase := (d.reg Reg.hifAdminCqBase).toNat, state := .running } }.flushNotices d.notices.length

/-- The effect of a write of HIF_ADMIN_CTRL with enable 0: the ring is disabled, its counts as they stand; settings change only where
it was. -/
def adminRingDisable (d : Device) (v : Half) : Device :=
  let d := d.reply .written
  if bitOf (wordOf v) 0 then d
  else if d.regBit Reg.hifAdminCtrl 0 then
    let r := d.admin
    { d.clrReg Reg.hifAdminCtrl 1 with admin := { Ring.unset with
        n := r.n, sqBase := r.sqBase, cqBase := r.cqBase, sqTail := r.sqTail, sqHead := r.sqHead, cqHead := r.cqHead
        cqTail := r.cqTail } }.dropReads .admin
  else d.setReg Reg.hifAdminCtrl (wordOf v &&& 0xF30)

/-! ### Tenancies -/

/-- The effect of TENANCY_ON. -/
def tenancyOn (d : Device) (x : QDesc) : Device :=
  let t := x.field 0x20 1
  if (d.ten t).on then d.refuse .admin 0x47
  else
    let target := x.field 0x21 1
    (d.setTen t { Tenancy.off with
      on := true, target := BitVec.ofNat 2 target
      vector := BitVec.ofNat 5 (if target = 0 then 0 else x.field 0x22 1) }).finish .admin St.ok 0 0

/-- The contexts of a tenancy that are not CLOSED. -/
def Device.ctxsOf (d : Device) (t : Nat) : List Nat :=
  (d.ctxs.filter fun e => e.2.st ≠ .closed && e.2.tenancy = t).map (·.1)

/-- Whether any descriptor of a tenancy is queued. -/
def Tenancy.queued (x : Tenancy) : Bool := x.rings.any fun r => !r.2.queued.isEmpty

/-- The effect of TENANCY_OFF. -/
def tenancyOff (d : Device) (x : QDesc) : Device :=
  let t := x.field 0x20 1
  let y := d.ten t
  if !y.on || !(d.ctxsOf t).isEmpty || y.log.isSome || y.queued then d.refuse .admin 0x47
  else (d.setTen t Tenancy.off).finish .admin St.ok 0 0

/-! ### Windows (R242, R244) -/

/-- Whether two windows overlap. -/
def Window.meets (a b : Window) : Bool := a.base ≤ b.limit && b.base ≤ a.limit

/-- Whether a window index of a tenancy is in use. -/
def Device.windowInUse (d : Device) (t w : Nat) : Bool :=
  let x := d.ten t
  let holds := fun (r : Ring) => match tget x.windows w with
    | some y => y.covers r.sqBase 1 || y.covers r.cqBase 1
    | none => false
  x.log.isSome || (tvals x.rings).any (fun r => r.state ≠ .unset && holds r) ||
    (d.ctxsOf t).any fun c =>
      (d.ctx c).servingWindow = some w || (tvals (d.ctx c).loaded).any fun l => match l with
        | .slab s => (List.range 16).any fun r => boundWindow s.roleMap r = some w
        | .package _ => false

/-- Whether a window lies wholly in one range of the map that R244 allows. -/
def Device.windowPlaced (d : Device) (w : Window) : Bool :=
  match d.region w.base, d.region w.limit with
  | .ddr _, .ddr _ => true
  | .quarry _, .quarry _ => true
  | .bench _, .bench _ => true
  | .outbound .a _, .outbound .a _ => d.role .a ≠ 0
  | .outbound .b _, .outbound .b _ => d.role .b ≠ 0 && (d.role .b ≠ 3 || !w.read)
  | _, _ => false

/-- Whether a window overlaps a Foreman pool. -/
def Device.meetsPool (d : Device) (w : Window) : Bool :=
  (List.range 16).any fun p => d.partValid p && d.partLegacy p &&
    overlaps w.base (w.limit + 1 - w.base) (d.reg (Reg.fmnPoolBase p)).toNat (d.poolPages p * 0x10000)

/-- Whether a window breaks no placement rule of R244 at an index of a tenancy. -/
def Device.windowAllowed (d : Device) (t i : Nat) (w : Window) : Bool :=
  let others := (d.tenancies.filter fun e => e.1 ≠ t).flatMap fun e => tvals e.2.windows
  let out := match d.region w.base with
    | .outbound _ _ => true
    | _ => false
  let ddr := match d.region w.base with
    | .ddr _ => true
    | _ => false
  d.windowPlaced w && !((d.ten t).windows.any fun e => e.1 ≠ i && e.2.meets w) &&
    !(w.write && others.any w.meets) && !(w.read && !w.write && others.any fun y => y.write && y.meets w) &&
    !d.meetsPool w && (!w.sideEffect || ddr || out) && (w.latency = 0 || out)

/-- The window that a SET_WINDOW describes. -/
def windowOf (x : QDesc) : Window :=
  let a := x.field 0x22 1
  { base := x.field 0x28 8, limit := x.field 0x30 8, read := a % 2 = 1, write := a / 2 % 2 = 1,
    sideEffect := a / 4 % 2 = 1, latency := x.field 0x24 4 }

/-- Whether a tenancy has an admission in progress, which a command on its windows waits for (R266). -/
def Tenancy.admitting (x : Tenancy) : Bool := x.rings.any fun r => r.2.job.isAdmission

/-- The effect of SET_WINDOW. -/
def setWindow (d : Device) (x : QDesc) : Device :=
  let t := x.field 0x20 1
  let i := x.field 0x21 1
  let w := windowOf x
  if (d.ten t).admitting then d
  else if !(d.ten t).on then d.refuse .admin 0x47
  else if d.windowInUse t i then d.refuse .admin 0x46
  else if !d.windowAllowed t i w then d.refuse .admin 0x45
  else (d.setTen t { d.ten t with windows := tput (d.ten t).windows i w }).finish .admin St.ok 0 0

/-- The effect of CLEAR_WINDOW. -/
def clearWindow (d : Device) (x : QDesc) : Device :=
  let t := x.field 0x20 1
  let i := x.field 0x21 1
  if (d.ten t).admitting then d
  else if !(d.ten t).on then d.refuse .admin 0x47
  else if d.windowInUse t i then d.refuse .admin 0x46
  else (d.setTen t { d.ten t with windows := tdel (d.ten t).windows i }).finish .admin St.ok 0 0

/-! ### Rings (R250, R253) -/

/-- Whether the two rings of a pair lie in windows that allow their accesses. -/
def Device.ringPlaced (d : Device) (t n sq cq : Nat) : Bool :=
  d.allowed t sq (64 * 2 ^ n) true false && d.allowed t cq (64 * 2 ^ n) true true

/-- Whether the context bound to a ring is OPEN or TEARING. -/
def Device.ringBound (d : Device) (k : RingRef) : Bool :=
  match (d.ring k).ctx with
  | some c => (d.ctx c).st ≠ .closed
  | none => false

/-- The effect of SET_RING. -/
def setRingPair (d : Device) (x : QDesc) : Device :=
  let t := x.field 0x20 1
  let r := x.field 0x21 1
  let n := x.field 0x22 1
  let k := ringRefOf t r
  if !(d.ten t).on || d.ringBound k || !(d.ring k).queued.isEmpty then d.refuse .admin 0x47
  else if !d.ringPlaced t n (x.field 0x28 8) (x.field 0x30 8) then d.refuse .admin 0x45
  else
    ((d.dropReads k).setRing k { Ring.unset with
      n := n, sqBase := x.field 0x28 8, cqBase := x.field 0x30 8
      state := if r = 0 then .running else .stopped }).finish .admin St.ok 0 0

/-- A ring running again from the last accepted tail; RING_STATE still shows the cause of its last stop (R253). -/
def Device.rerun (d : Device) (k : RingRef) : Device :=
  let r := d.ring k
  (d.dropReads k).setRing k { r with state := .running, sqHead := r.sqTail }

/-- The effect of RESTART_RING: the ring must have been stopped by a fault. -/
def restartRing (d : Device) (x : QDesc) : Device :=
  let t := x.field 0x20 1
  let k := ringRefOf t (x.field 0x21 1)
  let r := d.ring k
  if !(d.ten t).on || r.state ≠ .stopped || r.cause = 0 then d.refuse .admin 0x47
  else (d.rerun k).finish .admin St.ok 0 0

/-! ### OPEN and CLOSE (R267) -/

/-- The bytes of an empty serving table. -/
def emptyTable (slots : Nat) : List Byte :=
  bytesOfNat 4 0 ++ bytesOfNat 2 slots ++ List.replicate 58 0 ++ List.replicate 512 0xFF ++ List.replicate (32 * slots) 0

/-- The serving window that OPEN needs for a serving context, where it is in order. -/
def Device.servingOk (d : Device) (c t w : Nat) : Bool :=
  match tget (d.ten t).windows w with
  | some x => x.write && d.inMemory x.base (x.limit + 1 - x.base) &&
      decide (0x240 + 32 * d.ctxSlots c ≤ x.limit + 1 - x.base)
  | none => false

/-- Whether OPEN may bind a context to a ring. -/
def Device.openOk (d : Device) (c t r w : Nat) : Bool :=
  let k := ringRefOf t r
  d.ctxValid c && decide ((d.ctx c).st = .closed) && (d.ten t).on && decide ((d.ring k).state ≠ .unset) &&
    (d.ring k).ctx.isNone && (!d.ctxServing c || d.servingOk c t w)

/-- A context bound to a ring of a tenancy, as OPEN leaves it. -/
def Device.bindCtx (d : Device) (c t r w : Nat) : Device :=
  let k := ringRefOf t r
  let d := d.setRing k { d.ring k with ctx := some c }
  d.setCtx c { Ctx.closed with
    st := .opened, tenancy := t, ring := r, history := (d.ctx c).history
    servingWindow := if d.ctxServing c then some w else none }

/-- Where OPEN writes the empty serving table of a context, if anywhere. -/
def Device.tableAt (d : Device) (c t w : Nat) : Option Nat :=
  if d.ctxServing c then (tget (d.ten t).windows w).map (·.base) else none

/-- The effect of OPEN: the serving table is written through port 28, and a unit of it that is held offline turns OPEN away (R313). -/
def openCtx (d : Device) (x : QDesc) : Device :=
  let c := x.field 0x20 1
  let t := x.field 0x21 1
  let r := x.field 0x22 1
  let w := x.field 0x23 1
  let k := ringRefOf t r
  if !d.openOk c t r w then d.refuse .admin 0x47
  else
    match d.tableAt c t w with
    | none => ((d.bindCtx c t r w).rerun k).finish .admin St.ok 0 0
    | some a =>
      if d.rangeOff a (0x240 + 32 * d.ctxSlots c) then d.finish .admin St.unitOffline 0 0
      else if d.portHolds 28 a then d
      else (((d.bindCtx c t r w).rerun k).ringWrite k a (emptyTable (d.ctxSlots c))).finish .admin St.ok 0 0

/-- The effect that CLOSE has on an OPEN context: its units stop, and it takes nothing more (log entry 27). -/
def Device.beginClose (d : Device) (c : Nat) : Device :=
  let x := d.ctx c
  d.setCtx c { x with
    st := .tearing
    run := x.run.map fun r => r.stop St.aborted 1
    teardown := some { status := St.aborted, detail := 1, core := 0xFF, close := true, drained := false } }

/-- The effect of CLOSE. -/
def closeCtx (d : Device) (x : QDesc) : Device :=
  let c := x.field 0x20 1
  if (d.ctx c).st ≠ .opened then d.refuse .admin 0x47
  else
    let d := d.beginClose c
    { d with admin := { d.admin with job := .closing c } }

/-! ### Freeze and log (R269, R272, R273) -/

/-- The device with the descriptor fetches of a tenancy's rings forgotten: its rings fetch nothing more (R269). -/
def Device.dropFetches (d : Device) (t : Nat) : Device :=
  { d with outbound := d.outbound.filter fun o => match o.owner with
      | .fetch (.ring t' _) => t'.val ≠ t
      | _ => true }

/-- The effect of FREEZE. -/
def freeze (d : Device) (x : QDesc) : Device :=
  let t := x.field 0x20 1
  if !(d.ten t).on || (d.ten t).frozen then d.refuse .admin 0x47
  else
    let d := (d.setTen t { d.ten t with frozen := true }).dropFetches t
    { d with admin := { d.admin with job := .freezing t } }

/-- The effect of FREEZE_COMPLETE. -/
def freezeComplete (d : Device) : Device :=
  match d.admin.job with
  | .freezing t =>
    if (d.ten t).queued || (d.ctxsOf t).any (fun c => (d.ctx c).st = .tearing) || d.entryHeld .admin then d
    else d.finish .admin St.ok 0 0
  | _ => d

/-- The effect of THAW. -/
def thaw (d : Device) (x : QDesc) : Device :=
  let t := x.field 0x20 1
  if !(d.ten t).on || !(d.ten t).frozen then d.refuse .admin 0x47
  else (d.setTen t { d.ten t with frozen := false }).finish .admin St.ok 0 0

/-- The bytes of a tenancy's bitmap. -/
def Tenancy.bitmapBytes (x : Tenancy) : Nat :=
  8 * ((tvals x.windows).map fun w => if w.write then w.logWords else 0).sum

/-- Whether a bitmap may lie at an address: in DDR, outside every tenancy's windows. -/
def Device.bitmapOk (d : Device) (t a : Nat) : Bool :=
  let n := max 1 (d.ten t).bitmapBytes
  (match d.region a, d.region (a + (n - 1)) with
    | .ddr _, .ddr _ => true
    | _, _ => false) &&
    !d.tenancies.any fun e => e.2.windows.any fun w => overlaps a n w.2.base (w.2.limit + 1 - w.2.base)

/-- The effect of LOG START. -/
def logStart (d : Device) (x : QDesc) : Device :=
  let t := x.field 0x20 1
  if !(d.ten t).on || (d.ten t).log.isSome then d.refuse .admin 0x47
  else if !d.bitmapOk t (x.field 0x28 8) then d.refuse .admin 0x4B
  else (d.setTen t { d.ten t with log := some (x.field 0x28 8) }).finish .admin St.ok 0 0

/-- The bitmap in force of a tenancy replaced, and the command waiting for the writes issued before. -/
def Device.retireLog (d : Device) (t : Nat) (new : Option Nat) : Device :=
  let old := (d.ten t).log.getD 0
  let d := d.setTen t { d.ten t with log := new }
  { d with admin := { d.admin with job := .logging t old d.nextId } }

/-- The effect of LOG SWAP. -/
def logSwap (d : Device) (x : QDesc) : Device :=
  let t := x.field 0x20 1
  if !(d.ten t).on || (d.ten t).log.isNone then d.refuse .admin 0x47
  else if !d.bitmapOk t (x.field 0x28 8) then d.refuse .admin 0x4B
  else d.retireLog t (some (x.field 0x28 8))

/-- The effect of LOG STOP. -/
def logStop (d : Device) (x : QDesc) : Device :=
  let t := x.field 0x20 1
  if !(d.ten t).on || (d.ten t).log.isNone then d.refuse .admin 0x47 else d.retireLog t none

/-- Whether a write that a tenancy's contexts issued before a number has not completed. -/
def Device.writesBefore (d : Device) (t mark : Nat) : Bool :=
  (d.ctxsOf t).any fun c => (d.ctxCores c).any fun core =>
    (d.bank core c).transfers.any fun x => x.unit = .store && decide (x.id < mark)

/-- The effect of LOG_SWAP_COMPLETE: every write issued before has completed, and no bit of the old bitmap waits at port 28 any
longer (R273). -/
def logSwapComplete (d : Device) : Device :=
  match d.admin.job with
  | .logging t old mark =>
    let d := Device.flushBits d.bitmapHeld d
    if d.writesBefore t mark || d.bitmapHeld.any (fun e => e.1 = old) || d.entryHeld .admin then d
    else d.finish .admin St.ok 0 0
  | _ => d

/-- The opcode of a LOG descriptor taken up where its op is the one named. -/
def Device.onLog (d : Device) (op : Nat) (f : Device → QDesc → Device) : Device :=
  match d.headOf .admin 0x8D with
  | some x => if x.field 0x21 1 = op then d.onHead .admin 0x8D f else d
  | none => d

/-! ### The commands -/

/-- ADMIN_RING_ENABLE. -/
def execAdminRingEnable (who : Who) (value : Half) (s : State) : Host.Outcome State Fault Refusal :=
  actBy who s fun d => adminRingEnable d value

/-- ADMIN_RING_DISABLE. -/
def execAdminRingDisable (who : Who) (value : Half) (s : State) : Host.Outcome State Fault Refusal :=
  actBy who s fun d => adminRingDisable d value

/-- TENANCY_ON. -/
def execTenancyOn (s : State) : Host.Outcome State Fault Refusal := actLive s fun d => d.onHead .admin 0x81 tenancyOn

/-- TENANCY_OFF. -/
def execTenancyOff (s : State) : Host.Outcome State Fault Refusal := actLive s fun d => d.onHead .admin 0x82 tenancyOff

/-- SET_WINDOW. -/
def execSetWindow (s : State) : Host.Outcome State Fault Refusal := actLive s fun d => d.onHead .admin 0x83 setWindow

/-- CLEAR_WINDOW. -/
def execClearWindow (s : State) : Host.Outcome State Fault Refusal :=
  actLive s fun d => d.onHead .admin 0x84 clearWindow

/-- SET_RING. -/
def execSetRing (s : State) : Host.Outcome State Fault Refusal := actLive s fun d => d.onHead .admin 0x85 setRingPair

/-- RESTART_RING. -/
def execRestartRing (s : State) : Host.Outcome State Fault Refusal :=
  actLive s fun d => d.onHead .admin 0x86 restartRing

/-- OPEN. -/
def execOpen (s : State) : Host.Outcome State Fault Refusal := actLive s fun d => d.onHead .admin 0x87 openCtx

/-- CLOSE. -/
def execClose (s : State) : Host.Outcome State Fault Refusal := actLive s fun d => d.onHead .admin 0x88 closeCtx

/-- FREEZE. -/
def execFreeze (s : State) : Host.Outcome State Fault Refusal := actLive s fun d => d.onHead .admin 0x89 freeze

/-- FREEZE_COMPLETE. -/
def execFreezeComplete (s : State) : Host.Outcome State Fault Refusal := actLive s freezeComplete

/-- THAW. -/
def execThaw (s : State) : Host.Outcome State Fault Refusal := actLive s fun d => d.onHead .admin 0x8A thaw

/-- LOG START. -/
def execLogStart (s : State) : Host.Outcome State Fault Refusal := actLive s fun d => d.onLog 1 logStart

/-- LOG SWAP. -/
def execLogSwap (s : State) : Host.Outcome State Fault Refusal := actLive s fun d => d.onLog 2 logSwap

/-- LOG_SWAP_COMPLETE. -/
def execLogSwapComplete (s : State) : Host.Outcome State Fault Refusal := actLive s logSwapComplete

/-- LOG STOP. -/
def execLogStop (s : State) : Host.Outcome State Fault Refusal := actLive s fun d => d.onLog 3 logStop

end Sys2Proof.Machine
end

