-- ==== Sys2Proof/Machine/SaveRestore.lean ====
section
/-!
DEFINITION. SAVE and RESTORE of a frozen tenancy (R270, R271).
-/

namespace Sys2Proof.Machine

/-- The bytes of a save record. -/
def recordBytes : Nat := 0x2000

/-- The code of a ring's state in a save record and in RING_STATE. -/
def ringStateCode : RingState → Nat
  | .unset => 0
  | .running => 1
  | .stopped => 2

/-- The code of a context's state (CAL_CTX_STATEn). -/
def ctxStateCode : CtxState → Nat
  | .closed => 0
  | .opened => 1
  | .tearing => 2

/-- A window's entry in a save record. -/
def savedWindow : Option Window → List Byte
  | none => List.replicate 32 0
  | some w =>
    let attr := 128 + (if w.read then 1 else 0) + (if w.write then 2 else 0) + if w.sideEffect then 4 else 0
    bytesOfNat 4 attr ++ bytesOfNat 4 w.latency ++ bytesOfNat 8 w.base ++ bytesOfNat 8 w.limit ++ bytesOfNat 8 0

/-- A ring's entry in a save record. -/
def savedRing (r : Ring) : List Byte :=
  if r.state = .unset then List.replicate 32 0
  else
    [1, BitVec.ofNat 8 r.n, BitVec.ofNat 8 (ringStateCode r.state), 0] ++ bytesOfNat 4 r.sqHead.toNat ++
      bytesOfNat 8 r.sqBase ++ bytesOfNat 8 r.cqBase ++ bytesOfNat 4 r.cqTail.toNat ++ bytesOfNat 4 r.cqHead.toNat

/-- A slab index's entry in a save record. -/
def savedSlab : Option Loaded → List Byte
  | none => List.replicate 24 0
  | some (.slab s) => bytesOfNat 8 s.image ++ slice s.roleMap 0 16
  | some (.package p) => bytesOfNat 8 p.image ++ slice p.roleMap 0 16

/-- The entry in a save record of the context bound to a ring. -/
def Device.savedCtx (d : Device) (k : RingRef) : List Byte :=
  match (d.ring k).ctx with
  | none => 0xFF :: List.replicate 255 0
  | some c =>
    let x := d.ctx c
    [BitVec.ofNat 8 c, BitVec.ofNat 8 (ctxStateCode x.st), BitVec.ofNat 8 x.loaded.length,
     match x.servingWindow with
     | some w => BitVec.ofNat 8 w
     | none => 0xFF] ++
      bytesOfNat 4 0 ++ bytesOfNat 8 (d.reg (Reg.calCtx c)).toNat ++
      (List.range 8).flatMap (fun i => savedSlab (tget x.loaded i)) ++ List.replicate 48 0

/-- The save record of a tenancy. -/
def Device.saveRecord (d : Device) (t : Nat) : List Byte :=
  let body := bytesOfNat 4 0x52535653 ++ bytesOfNat 2 1 ++ [BitVec.ofNat 8 t, 0] ++ bytesOfNat 8 d.ns.toNat ++
    List.replicate 48 0 ++ (List.range 16).flatMap (fun w => savedWindow (tget (d.ten t).windows w)) ++
    (List.range 17).flatMap (fun r => savedRing (d.ring (ringRefOf t r))) ++
    (List.range 16).flatMap (fun r => d.savedCtx (ringRefOf t (r + 1))) ++ List.replicate 2912 0
  body ++ sha512 body

/-- What a save record's place meets: an address outside DDR and the Quarry is out of range, a unit may be offline. -/
def Device.recordVeto (d : Device) (a : Nat) : Option (Byte × Byte) :=
  if !d.inMemory a recordBytes then some (St.refused, 0x4B)
  else if d.rangeOff a recordBytes then some (St.unitOffline, 0)
  else none

/-- The effect of SAVE: the record is written through port 28 (R259). -/
def save (d : Device) (x : QDesc) : Device :=
  let t := x.field 0x20 1
  let a := x.field 0x28 8
  if !(d.ten t).on || !(d.ten t).frozen then d.refuse .admin 0x47
  else
    match d.recordVeto a with
    | some v => d.finish .admin v.1 v.2 0
    | none => d.via 28 a recordBytes true fun d => (d.coWrite a (d.saveRecord t)).finish .admin St.ok 0 0

/-! ### RESTORE -/

/-- The window of a save record. -/
def restoredWindow (e : List Byte) : Option Window :=
  let a := fieldAt e 0 1
  if a < 128 then none
  else some { base := fieldAt e 8 8, limit := fieldAt e 16 8, read := a % 2 = 1, write := a / 2 % 2 = 1,
              sideEffect := a / 4 % 2 = 1, latency := fieldAt e 4 4 }

/-- The windows of a record set one after another, or none where one breaks R244. -/
def Device.restoreWindows (d : Device) (t : Nat) (rec : List Byte) : List Nat → Option Device
  | [] => some d
  | i :: rest =>
    match restoredWindow (slice rec (0x40 + 32 * i) 32) with
    | none => d.restoreWindows t rec rest
    | some w =>
      if w.base % 4096 = 0 && w.limit % 4096 = 0xFFF && w.base ≤ w.limit && d.windowAllowed t i w then
        (d.setTen t { d.ten t with windows := tput (d.ten t).windows i w }).restoreWindows t rec rest
      else none

/-- The rings of a record set with their counts, or none where one breaks R250. -/
def Device.restoreRings (d : Device) (t : Nat) (rec : List Byte) : List Nat → Option Device
  | [] => some d
  | r :: rest =>
    let e := slice rec (0x240 + 32 * r) 32
    if fieldAt e 0 1 = 0 then d.restoreRings t rec rest
    else
      let n := fieldAt e 1 1
      let sq := fieldAt e 8 8
      let cq := fieldAt e 16 8
      let head := BitVec.ofNat 32 (fieldAt e 4 4)
      if 4 ≤ n && n ≤ 12 && sq % (64 * 2 ^ n) = 0 && cq % (64 * 2 ^ n) = 0 && d.ringPlaced t n sq cq then
        (d.setRing (ringRefOf t r) { Ring.unset with
          n := n, sqBase := sq, cqBase := cq, sqTail := head, sqHead := head
          cqTail := BitVec.ofNat 32 (fieldAt e 24 4), cqHead := BitVec.ofNat 32 (fieldAt e 28 4)
          state := if fieldAt e 2 1 = 1 then .running else .stopped }).restoreRings t rec rest
      else none

/-- The context entries of a record: ring, context, serving window, and the entry's bytes. -/
def recordCtxs (rec : List Byte) : List (Nat × Nat × Nat × List Byte) :=
  (List.range 16).filterMap fun i =>
    let e := slice rec (0x460 + 256 * i) 256
    if fieldAt e 0 1 = 0xFF then none else some (i + 1, fieldAt e 0 1, fieldAt e 3 1, e)

/-- Whether the contexts that a record names are valid, CLOSED and configured as recorded, each named once. -/
def Device.recordMatches (d : Device) (rec : List Byte) : Bool :=
  ((recordCtxs rec).map fun e => e.2.1).Nodup && (recordCtxs rec).all fun e =>
    d.ctxValid e.2.1 && decide ((d.ctx e.2.1).st = .closed) && (d.reg (Reg.calCtx e.2.1)).toNat = fieldAt e.2.2.2 8 8

/-- The contexts of a record opened, their serving tables left as they are; none where one cannot be. -/
def Device.restoreCtxs (d : Device) (t : Nat) : List (Nat × Nat × Nat × List Byte) → Option Device
  | [] => some d
  | e :: rest =>
    if d.openOk e.2.1 t e.1 e.2.2.1 then ((d.bindCtx e.2.1 t e.1 e.2.2.1).rerun (ringRefOf t e.1)).restoreCtxs t rest
    else none

/-- Bytes of an image of a record: those that a link has brought, else those of memory. -/
def Device.imageBytes (d : Device) (images : List (Nat × List Byte)) (a n : Nat) : List Byte :=
  match images.find? fun e => e.1 = a with
  | some e => slice e.2 0 n
  | none => d.rd a n

/-- A slab of a record admitted again at its index; the reason where it is not. -/
def Device.readmit (d : Device) (images : List (Nat × List Byte)) (t r c i : Nat) (e : List Byte) : Byte ⊕ Device :=
  let ring := d.ring (ringRefOf t r)
  let a := fieldAt e 0 8
  let roleMap := slice e 8 16
  if !d.allowed t a 256 true false then .inl 0x45
  else
    let n := imageLength (d.imageBytes images a 256)
    if !d.allowed t a n true false then .inl 0x45
    else
      let img := d.imageBytes images a n
      match d.admitted c t a roleMap img ring with
      | .inl reason => .inl reason
      | .inr l =>
        let writes := d.copiesOf c t img l
        if 2 ^ ring.n < (loadedResults l).length + 1 then .inl 0x44
        else if (d.copyVeto writes).isSome then .inl 0x45
        else
          let d' := d.setCtx c { d.ctx c with loaded := tput (d.ctx c).loaded i l }
          .inr (writes.foldl (fun d w => d.copyIn c t w) d')

/-- The slabs of a record admitted again, in order; the reason of the first that is not. -/
def Device.readmitAll (d : Device) (images : List (Nat × List Byte)) (t : Nat) : List (Nat × Nat × Nat × List Byte) → Byte ⊕ Device
  | [] => .inr d
  | e :: rest =>
    if fieldAt e.2.2.2 0 8 = 0 then d.readmitAll images t rest
    else
      match d.readmit images t e.1 e.2.1 e.2.2.1 e.2.2.2 with
      | .inl reason => .inl reason
      | .inr d' => d'.readmitAll images t rest

/-- The slab entries of a record: ring, context, index, and the entry's bytes. -/
def recordSlabs (rec : List Byte) : List (Nat × Nat × Nat × List Byte) :=
  (recordCtxs rec).flatMap fun e => (List.range 8).map fun i => (e.1, e.2.1, i, slice e.2.2.2 (16 + 24 * i) 24)

/-- The steps of RESTORE on a record that is in order: the rebuilt device, or the detail of the refusal. -/
def Device.rebuild (d : Device) (images : List (Nat × List Byte)) (t : Nat) (rec : List Byte) : Byte ⊕ Device :=
  match d.restoreWindows t rec (List.range 16) with
  | none => .inl 0x45
  | some d1 =>
    match d1.restoreRings t rec (List.range 17) with
    | none => .inl 0x45
    | some d2 =>
      match d2.restoreCtxs t (recordCtxs rec) with
      | none => .inl 0x45
      | some d3 => d3.readmitAll images t (recordSlabs rec)

/-- Whether a record's digest, magic and format are right. -/
def recordOk (rec : List Byte) : Bool :=
  fieldAt rec 0 4 = 0x52535653 && fieldAt rec 4 2 = 1 && sha512 (rec.take 0x1FC0) = rec.drop 0x1FC0

/-- The images of a record that lie behind a link. -/
def Device.linkImages (d : Device) (rec : List Byte) : List Nat :=
  (((recordSlabs rec).map fun e => fieldAt e.2.2.2 0 8).filter d.isOutbound).dedup

/-- RESTORE as far as it goes with the images that links have brought: the next image is asked for, or the tenancy is rebuilt. -/
def Device.restoreFrom (d : Device) (t : Nat) (rec : List Byte) (images : List (Nat × List Byte)) : List Nat → Device
  | [] =>
    match d.rebuild images t rec with
    | .inl detail => d.refuse .admin detail
    | .inr d' => d'.finish .admin St.ok 0 0
  | a :: left =>
    match d.readDown a, d.region a with
    | none, .outbound pc _ =>
      (d.emitReads pc (.restore .admin) a 256).setRing .admin { d.admin with job := .restoring t rec images (a :: left) [] }
    | _, _ => (d.noteLink a (St.linkError, 0x04)).finish .admin St.linkError 0x04 0

/-- The effect of a part of an image that has come whole: the rest of it, or the next image, is asked for. -/
def restoreArrived (d : Device) : Device :=
  match d.admin.job with
  | .restoring t rec images (a :: left) part =>
    let n := imageLength (part.take 256)
    match d.region a with
    | .outbound pc _ =>
      if part.length < n then d.emitReads pc (.restore .admin) (a + part.length) (n - part.length)
      else d.restoreFrom t rec (images ++ [(a, part)]) left
    | _ => d
  | _ => d

/-- The effect of RESTORE; it waits while an admission or a change of operating point is in progress. The record is read through port
28 (R259), and every image behind a link before anything changes. -/
def restore (d : Device) (x : QDesc) (ecc : Ecc) : Device :=
  let t := x.field 0x20 1
  let a := x.field 0x28 8
  let y := d.ten t
  if d.admissionBusy || d.gov.takeUp.isSome then d
  else if !y.on || !y.frozen || !y.windows.isEmpty || !y.rings.isEmpty || !(d.ctxsOf t).isEmpty then
    d.refuse .admin 0x47
  else
    match d.recordVeto a with
    | some v => d.finish .admin v.1 v.2 0
    | none =>
      d.via 28 a recordBytes false fun d => d.descEcc .admin a ecc fun d =>
        let rec' := d.coRead a recordBytes
        if !recordOk rec' then d.refuse .admin 0x49
        else if !d.recordMatches rec' then d.refuse .admin 0x48
        else d.restoreFrom t rec' [] (d.linkImages rec')

/-! ### The commands -/

/-- SAVE. -/
def execSave (s : State) : Host.Outcome State Fault Refusal := actLive s fun d => d.onHead .admin 0x8B save

/-- RESTORE. -/
def execRestore (s : State) (ecc : Ecc := .clean) : Host.Outcome State Fault Refusal :=
  actLive s fun d => d.onHead .admin 0x8C fun d x => restore d x ecc

end Sys2Proof.Machine
end

