-- ==== Sys2Proof/Machine/Herald.lean ====
section
/-!
DEFINITION. The Herald: lines, sense, pending bits, claims, service and stamps (R293 to R304, R306, R446).
-/

namespace Sys2Proof.Machine

/-! ### Source settings -/

/-- The sense code of a source; a software source behaves as an edge source (R304). -/
def Device.sense (d : Device) (s : Nat) : Nat := if hrdSoftware s then 2 else d.fld (Reg.hrdSrc s) 0 3

/-- Whether a source senses a level. -/
def Device.levelSense (d : Device) (s : Nat) : Bool := d.sense s ≤ 1

/-- The priority of a source. -/
def Device.priority (d : Device) (s : Nat) : Nat := d.fld (Reg.hrdSrc s) 16 4

/-- Whether a source is owned by the island (R303). -/
def Device.islandOwned (d : Device) (s : Nat) : Bool := d.regBit (Reg.hrdSrc s) 31

/-- Whether a source is asserted: its filter output stands at the level it senses (R295). -/
def Device.asserted (d : Device) (s : Nat) : Bool :=
  d.levelSense s && (if d.sense s = 0 then d.herald.out.contains s else !d.herald.out.contains s)

/-- Whether a source is pending. -/
def Device.isPending (d : Device) (s : Nat) : Bool := d.herald.pend.contains s

/-- Whether a source is in service. -/
def Device.inService (d : Device) (s : Nat) : Bool := (tget d.herald.inserv s).isSome

/-! ### The lines of level sources -/

/-- Whether a CAN controller is on: it has a mode, and the configuration is RUNNING (R409, R411; log entry 28). -/
def Device.canOn (d : Device) (k : Nat) : Bool := d.cfg = .running && d.fld (Reg.gwyCanCtrl k) 0 2 ≠ 0

/-- Whether a frame queue has descriptors written back that software has not consumed. -/
def Device.queueWaits (d : Device) (q : Nat) : Bool := (d.queue q).head ≠ (d.queue q).seen

/-- The line of a source that shows a condition of the device, or none for a source that shows an event or a pin: 67, 70
and 71 of R294, 74 to 79 of R446, 128 to 143 of R386, 144 to 154 of R372, 176 to 182 of R390, 256 to 263 of R305. -/
def Device.line (d : Device) (s : Nat) : Option Bool :=
  let latch := fun (m : Nat) => some (decide (d.reg Reg.safFaultLatch &&& BitVec.ofNat 64 m ≠ 0))
  let twn := fun (lo : Nat) => some (decide (d.fld Reg.twnSticky lo 2 ≠ 0))
  match s with
  | 67 => some (d.reg Reg.pwrPaceFault ≠ 0)
  | 70 => some (d.reg Reg.hifSticky ≠ 0)
  | 71 => some (d.reg Reg.ddrSticky ≠ 0 || d.reg Reg.qrySticky ≠ 0 || d.reg Reg.cfgNumSticky ≠ 0)
  | 74 => latch 0x3
  | 75 => latch 0x18
  | 76 => latch 0x20
  | 77 => latch 0xC0
  | 78 => latch 0x100
  | 79 => some (d.safety.wdogHalf || d.safety.wdogExpired)
  | 152 => some (d.regBit Reg.tsnSticky 4)
  | 153 => some (d.regBit Reg.tsnSticky 1)
  | 154 => some (d.regBit Reg.tsnSticky 3)
  | 176 => twn 0
  | 177 => some (d.fld Reg.twnStatus 5 2 ≠ 0)
  | 178 => some (d.fld Reg.twnStatus 7 2 ≠ 0)
  | 179 => twn 2
  | 180 => twn 4
  | 181 => twn 6
  | 182 => twn 8
  | _ =>
    if 128 ≤ s && s < 144 then
      some ((d.canOn (s - 128) && (d.canCtl (s - 128)).conf ≠ .active) || d.queueWaits (32 + (s - 128)) ||
        d.regBit Reg.gwySticky 3)
    else if 144 ≤ s && s < 152 then some ((List.range 4).any fun i => d.queueWaits (4 * (s - 144) + i))
    else if 256 ≤ s && s < 264 then some (d.herald.intx.getLsbD (s - 256))
    else none

/-! ### Delivery (R297, R298) -/

/-- Whether the core of a target presents a hart (R293). -/
def Device.targetExists (d : Device) (t : Nat) : Bool :=
  if t < 48 then d.hostHart (t / 2) else d.islandHart (t - 48)

/-- Whether a source is eligible for a target. -/
def Device.eligible (d : Device) (t s : Nat) : Bool :=
  d.isPending s && !d.inService s && d.regBit (Reg.hrdEn t (s / 32)) (s % 32) &&
    decide (d.fld (Reg.hrdThreshold t) 0 4 < d.priority s)

/-- The sources eligible for a target, lowest number first. -/
def Device.eligibles (d : Device) (t : Nat) : List Nat :=
  if d.targetExists t then d.herald.pend.filter (d.eligible t) else []

/-- Whether a target's request line is high. -/
def Device.request (d : Device) (t : Nat) : Bool := !(d.eligibles t).isEmpty

/-- The source of highest priority of a list, the lowest number of those that tie (R298). -/
def Device.best (d : Device) : List Nat → Option Nat
  | [] => none
  | s :: l =>
    match d.best l with
    | some u => some (if d.priority s < d.priority u || (d.priority s = d.priority u && decide (u < s)) then u else s)
    | none => some s

/-- The device remembering which request lines have been high since their last claim read. -/
def Device.noteLines (d : Device) : Device :=
  if d.herald.pend.isEmpty then d
  else
    let seen := (List.range 52).filter fun t => d.herald.lineSeen.contains t || d.request t
    { d with herald := { d.herald with lineSeen := seen } }

/-! ### Pending bits (R296, R302) -/

/-- A pending bit set with its stamp. -/
def Device.pendSet (d : Device) (s : Nat) (stamp : Word) (byLevel : Bool) : Device :=
  let h := d.herald
  { d with herald := { h with
      pend := addMember h.pend s
      stamps := tputD h.stamps s stamp 0
      byLevel := if byLevel then addMember h.byLevel s else dropMember h.byLevel s } }

/-- A pending bit cleared. -/
def Device.pendClear (d : Device) (s : Nat) : Device :=
  let h := d.herald
  { d with herald := { h with pend := dropMember h.pend s, byLevel := dropMember h.byLevel s } }

/-- An edge event of a source, with the stamp it takes. -/
def Device.edge (d : Device) (s : Nat) (stamp : Word) : Device :=
  if d.isPending s then d.orReg (Reg.hrdLost (s / 32)) (2 ^ (s % 32)) else d.pendSet s stamp false

/-- A level source followed: pending while it is asserted and not in service, and no longer once a level that set it is
gone. -/
def Device.follow (d : Device) (s : Nat) : Device :=
  if !d.levelSense s then d
  else if d.asserted s then
    if d.inService s then d
    else if d.isPending s then { d with herald := { d.herald with byLevel := addMember d.herald.byLevel s } }
    else d.pendSet s (tgetD d.herald.sampled s 0) true
  else if d.herald.byLevel.contains s then d.pendClear s
  else d

/-! ### The glitch filter (R295) -/

/-- The length of a source's filter in ticks, F. -/
def Device.filterTicks (d : Device) (s : Nat) : Nat := d.fld (Reg.hrdSrc s) 8 8

/-- Whether a source is a pin. -/
def hrdPin (s : Nat) : Bool := 320 ≤ s && s < 352

/-- The key of the sample kept of a source's line at a level. -/
def sinceKey (s : Nat) (v : Bool) : Nat := 2 * s + v.toNat

/-- The first sample that a filter took of a level at which the line has stood ever since, or none while the line does not
stand there. A condition of the device is sampled at each tick; a pulse stands high until the filter has passed it on, and low
afterwards; the level of a pin comes from outside, and the command says that it has stood for as long as the filter needs
(log entry 88). -/
def Device.lineSince (d : Device) (s : Nat) (v : Bool) : Option Sample :=
  let held := tget d.herald.since (sinceKey s v)
  match d.line s with
  | some l => if l = v then some (held.getD d.sample) else none
  | none =>
    if hrdPin s then
      some { stamp := (d.alm.trail[d.filterTicks s]?).getD d.ns
             tick := max ((held.map (·.tick)).getD 0) (d.alm.ticks - d.filterTicks s) }
    else if v && !d.herald.raised.contains s then none
    else some (held.getD d.sample)

/-- Whether a filter output takes a value: F ticks have passed since its first sample, and every sample showed it. -/
def Device.lineMay (d : Device) (s : Nat) (v : Bool) : Bool :=
  match d.lineSince s v with
  | some w => decide (w.tick + d.filterTicks s ≤ d.alm.ticks)
  | none => false

/-- The reading of the Almanac when the filter first sampled the value that its output takes. -/
def Device.sampledAt (d : Device) (s : Nat) (v : Bool) : Word := ((d.lineSince s v).map (·.stamp)).getD d.ns

/-- The samples kept once an output has taken a value: its line's other level is sampled from the next tick on, but for a
further pulse that has come meanwhile. -/
def Device.sinceAfter (d : Device) (s : Nat) (v : Bool) : Table Sample :=
  let l := tdel d.herald.since (sinceKey s v)
  if !v && d.herald.raised.contains s then d.herald.since
  else tput l (sinceKey s (!v)) { stamp := d.ns, tick := d.alm.ticks + 1 }

/-- The filter output of a source at a new value. -/
def Device.setOut (d : Device) (s : Nat) (v : Bool) : Device :=
  let h := d.herald
  { d with herald := { h with
      out := if v then addMember h.out s else dropMember h.out s
      raised := if v then dropMember h.raised s else h.raised
      sampled := tputD h.sampled s (d.sampledAt s v) 0
      since := d.sinceAfter s v
      pins := if hrdPin s then
          (if v then h.pins ||| BitVec.ofNat 32 (2 ^ (s - 320)) else h.pins &&& ~~~(BitVec.ofNat 32 (2 ^ (s - 320))))
        else h.pins } }

/-- The sources whose line shows a condition of the device. -/
def conditionSources : List Nat :=
  [67, 70, 71] ++ List.range' 74 6 ++ List.range' 128 27 ++ List.range' 176 7 ++ List.range' 256 8

/-- One sample of a condition's line: a level other than the output's is kept from its first sample on, and the sample of a
level left again is dropped. -/
def Device.sampleLine (d : Device) (s : Nat) : Device :=
  let v := !d.herald.out.contains s
  let kept := tget d.herald.since (sinceKey s v)
  if d.line s = some v then
    (if (kept.map fun w => decide (w.tick < d.alm.ticks)) = some true then d
     else { d with herald := { d.herald with since := tput d.herald.since (sinceKey s v) d.sample } })
  else if kept.isNone then d
  else { d with herald := { d.herald with since := tdel d.herald.since (sinceKey s v) } }

/-- The filters' samples of a reference tick. -/
def Device.sampleLines (d : Device) : Device := conditionSources.foldl Device.sampleLine d

/-- Whether an edge sense answers to a change in a direction. -/
def edgeSense (code : Nat) (v : Bool) : Bool := (code = 2 && v) || (code = 3 && !v) || code = 4

/-- The effect of FILTER_OUTPUT_CHANGE. -/
def filterOutput (d : Device) (s : Nat) (v : Bool) : Device :=
  if !hrdSource s || hrdSoftware s || d.herald.out.contains s = v || !d.lineMay s v then d
  else
    let d := d.setOut s v
    let d := if edgeSense (d.sense s) v then d.edge s (tgetD d.herald.sampled s 0) else d.follow s
    d.noteLines

/-! ### Accesses (R293, R303) -/

/-- Whether an access to a target's registers is turned away: those of the island belong to island harts. -/
def targetDenied (who : Who) (t : Nat) : Bool := 48 ≤ t && !whoIsIsland who

/-- An access to a register of a target: denied, or without effect where the target is unused. -/
def Device.onTarget (d : Device) (who : Who) (t : Nat) (unused : Device → Device) (f : Device → Device) : Device :=
  if targetDenied who t then d.deny who else if d.targetExists t then f d else unused d

/-- A claim read (R298). -/
def Device.claim (d : Device) (t : Nat) : Device :=
  match d.best (d.eligibles t) with
  | none =>
    let high := d.herald.lineSeen.contains t
    ({ d with herald := { d.herald with lineSeen := dropMember d.herald.lineSeen t } }).reply
      (.value (if high then 1023 else 0))
  | some s =>
    let stamp := tgetD d.herald.stamps s 0
    let d := (d.pendClear s).setReg (Reg.hrdStamp s) stamp
    let h := d.herald
    let d := { d with herald := { h with
      inserv := tput h.inserv s t, stamps := tdel h.stamps s, lineSeen := dropMember h.lineSeen t } }
    d.noteLines.reply (.value (BitVec.ofNat 64 s))

/-- A read of HRD_CLAIMt. -/
def hrdClaim (d : Device) (who : Who) (t : Nat) : Device :=
  d.onTarget who t (·.reply (.value 0)) fun d => d.claim t

/-- A write to HRD_COMPLETEt (R300). -/
def hrdComplete (d : Device) (who : Who) (t : Nat) (v : Half) : Device :=
  d.onTarget who t (·.reply .written) fun d =>
    let d := d.reply .written
    let s := v.toNat % 1024
    if tget d.herald.inserv s = some t then
      let d := { d with herald := { d.herald with inserv := tdel d.herald.inserv s } }
      (d.follow s).noteLines
    else d

/-- The sources of a word that a value's bits name and the requester may touch (R294, R303). -/
def Device.namedSources (d : Device) (who : Who) (w : Nat) (v : Half) (owned : Bool) : List Nat :=
  ((List.range 32).filter fun i => v.getLsbD i).map (32 * w + ·) |>.filter fun s =>
    hrdSource s && (!owned || whoIsIsland who || !d.islandOwned s)

/-- A write to HRD_PEND_SETw (R301). -/
def hrdPendSet (d : Device) (who : Who) (w : Nat) (v : Half) : Device :=
  ((d.namedSources who w v true).foldl (fun d s => (d.edge s d.ns).follow s) (d.reply .written)).noteLines

/-- A write to HRD_PEND_CLRw (R301): a level source still asserted is pended again. -/
def hrdPendClr (d : Device) (who : Who) (w : Nat) (v : Half) : Device :=
  ((d.namedSources who w v true).foldl (fun d s => (d.pendClear s).follow s) (d.reply .written)).noteLines

/-- The bits of a word of enables that a write names. -/
def Device.enBits (d : Device) (who : Who) (w : Nat) (v : Half) : Nat :=
  (d.namedSources who w v false).foldl (fun m s => m ||| 2 ^ (s % 32)) 0

/-- A write to HRD_EN_SETt_w (R301). -/
def hrdEnSet (d : Device) (who : Who) (t w : Nat) (v : Half) : Device :=
  d.onTarget who t (·.reply .written) fun d => ((d.reply .written).orReg (Reg.hrdEn t w) (d.enBits who w v)).noteLines

/-- A write to HRD_EN_CLRt_w (R301). -/
def hrdEnClr (d : Device) (who : Who) (t w : Nat) (v : Half) : Device :=
  d.onTarget who t (·.reply .written) fun d => (d.reply .written).clrReg (Reg.hrdEn t w) (d.enBits who w v)

/-- A write to HRD_THRESHOLDt. -/
def hrdThreshold (d : Device) (who : Who) (t : Nat) (v : Half) : Device :=
  d.onTarget who t (·.reply .written) fun d => ((d.reply .written).setFld (Reg.hrdThreshold t) 0 4 v.toNat).noteLines

/-- A write to HRD_SRCs (R303, R306): only an island hart changes the island bit, and a reserved sense code is ignored. -/
def hrdSrcWrite (d : Device) (who : Who) (s : Nat) (v : Half) : Device :=
  let d := d.reply .written
  if !hrdSource s || 5 ≤ v.toNat % 8 || (d.islandOwned s && !whoIsIsland who) then d
  else
    let keep := lowBits (wordOf v) 31 &&& 0xFFF07
    let own := if whoIsIsland who then wordOf v &&& 0x80000000 else d.reg (Reg.hrdSrc s) &&& 0x80000000
    let d := d.setReg (Reg.hrdSrc s) (keep ||| own)
    (if d.herald.byLevel.contains s && !d.asserted s then d.pendClear s else d.follow s).noteLines

/-! ### Machine timers (R282, R306) -/

/-- Whether the time CSR has reached a target's compare value. -/
def Device.timerDue (d : Device) (t : Nat) : Bool := decide ((d.reg (Reg.hrdMtimecmp t)).toNat ≤ d.ns.toNat)

/-- Whether a target has a machine timer: the machine targets of cores that present a hart. -/
def Device.hasTimer (d : Device) (t : Nat) : Bool := (48 ≤ t || t % 2 = 0) && d.targetExists t

/-- The machine timer of a target pending or not, as the time now says. -/
def Device.timerFollow (d : Device) (t : Nat) : Device :=
  let l := d.herald.timers
  { d with herald := { d.herald with
      timers := if d.hasTimer t && d.timerDue t then addMember l t else dropMember l t } }

/-- A write to HRD_MTIMECMPt. -/
def hrdMtimecmp (d : Device) (who : Who) (t : Nat) (v : Word) : Device :=
  d.onTarget who t (·.reply .written) fun d => ((d.reply .written).setReg (Reg.hrdMtimecmp t) v).timerFollow t

/-! ### The commands -/

/-- FILTER_OUTPUT_CHANGE. -/
def execFilterOutputChange (source : Fin 1024) (value : Bool) (s : State) : Host.Outcome State Fault Refusal :=
  actLive s fun d => filterOutput d source value

/-- HRD_CLAIM. -/
def execHrdClaim (who : Who) (target : Fin 52) (s : State) : Host.Outcome State Fault Refusal :=
  actBy who s fun d => hrdClaim d who target

/-- HRD_COMPLETE. -/
def execHrdComplete (who : Who) (target : Fin 52) (value : Half) (s : State) : Host.Outcome State Fault Refusal :=
  actBy who s fun d => hrdComplete d who target value

/-- HRD_PEND_SET. -/
def execHrdPendSet (who : Who) (w : Fin 32) (value : Half) (s : State) : Host.Outcome State Fault Refusal :=
  actBy who s fun d => hrdPendSet d who w value

/-- HRD_PEND_CLR. -/
def execHrdPendClr (who : Who) (w : Fin 32) (value : Half) (s : State) : Host.Outcome State Fault Refusal :=
  actBy who s fun d => hrdPendClr d who w value

/-- HRD_EN_SET. -/
def execHrdEnSet (who : Who) (target : Fin 52) (w : Fin 32) (value : Half) (s : State) :
    Host.Outcome State Fault Refusal :=
  actBy who s fun d => hrdEnSet d who target w value

/-- HRD_EN_CLR. -/
def execHrdEnClr (who : Who) (target : Fin 52) (w : Fin 32) (value : Half) (s : State) :
    Host.Outcome State Fault Refusal :=
  actBy who s fun d => hrdEnClr d who target w value

/-- MACHINE_TIMER_PENDING. -/
def execMachineTimerPending (target : Fin 52) (s : State) : Host.Outcome State Fault Refusal :=
  actLive s fun d => if d.timerDue target then d.timerFollow target else d

end Sys2Proof.Machine
end

