-- ==== Sys2Proof/Machine/Almanac.lean ====
section
/-!
DEFINITION. The Almanac: its tick, its rate and steps, its comparators and output pulses, and the wake that a comparator or a
pin brings about in sleep (R355 to R363, R417).
-/

namespace Sys2Proof.Machine

/-! ### Wake (R417) -/

/-- A wake in sleep: its cause is latched, and RAIL_EN rises once it has been low for 10 ms. -/
def Device.wake (d : Device) (cmp : BitVec 8) (pins : BitVec 4) : Device :=
  if d.power.phase ≠ .asleep || (cmp = 0 && pins = 0) then d
  else
    let p := d.power
    { d with power := { p with
        wakeCmp := p.wakeCmp ||| cmp, wakePins := p.wakePins ||| pins, railEn := p.railEn || p.holdDone, start := .wake } }

/-! ### The tick (R355) -/

/-- The readings kept for pending stamps: as many as the longest filter looks back. -/
def trailLength : Nat := 256

/-- The counter at the next tick: the step asked for added to the integer part, and the increment added to the whole. -/
def Device.nextCount (d : Device) : BitVec 96 :=
  d.alm.count + (d.reg Reg.almIncr).setWidth 96 + (d.alm.nextLeap.setWidth 96 <<< 32)

/-- One reference tick of the Almanac: a step that still waits when the configuration is RUNNING is not taken (R358; log
entry 89). -/
def Device.almTick (d : Device) : Device :=
  let d := if d.cfg = .running then { d with alm := { d.alm with nextLeap := 0 } } else d
  let stepped := d.alm.nextLeap ≠ 0
  let n := d.nextCount
  let ns : Word := (n >>> 32).setWidth 64
  let d := { d with alm := { d.alm with
    count := n, nextLeap := 0, ticks := d.alm.ticks + 1, trail := (ns :: d.alm.trail).take trailLength } }
  if stepped then d.herald.timers.foldl (fun d t => d.timerFollow t) d else d

/-! ### Rate, steps and readings -/

/-- A refused write of the Almanac block: its bit set and source 104 raised. -/
def Device.almRefused (d : Device) (bit : Nat) : Device := (d.orReg Reg.almSticky (2 ^ bit)).raise 104

/-- A write to ALM_INCR (R357). -/
def almIncrWrite (d : Device) (v : Word) : Device :=
  let d := d.reply .written
  if 0x9FF7CED92 ≤ v.toNat && v.toNat ≤ 0xA0083126E then d.setReg Reg.almIncr v else d.almRefused 0

/-- A write to ALM_LEAP (R358). -/
def almLeapWrite (d : Device) (v : Word) : Device :=
  let d := d.reply .written
  if d.cfg = .running then d.almRefused 1 else { d with alm := { d.alm with nextLeap := d.alm.nextLeap + v } }

/-- A read of ALM_NOW (R359). -/
def almNowRead (d : Device) : Device :=
  (d.setReg Reg.almNowFrac (BitVec.ofNat 64 (d.alm.count.toNat % 2 ^ 32))).reply (.value d.ns)

/-! ### Comparators (R362, R363) -/

/-- The least compare value, reached by whole periods from the one that fired, that exceeds the Almanac. -/
def Device.nextCompare (d : Device) (k period : Nat) : Word :=
  let c := (d.reg (Reg.almCmp k)).toNat
  BitVec.ofNat 64 (c + period * ((d.ns.toNat - c) / period + 1))

/-- A comparator re-armed by its period, or disabled. -/
def Device.rearm (d : Device) (k : Nat) : Device :=
  let period := d.fld (Reg.almCmpPeriod k) 0 32
  if period = 0 then d.clrReg Reg.almCmpCtrl (2 ^ k) else d.setReg (Reg.almCmp k) (d.nextCompare k period)

/-- The pulse that the firing of comparator 0 or 1 starts. -/
def Device.pulse (d : Device) (k : Nat) : Device :=
  let width := d.fld Reg.almCmpCtrl 16 8
  if width = 0 || !d.regBit Reg.almCmpCtrl (8 + k) then d
  else if k = 0 then { d with alm := { d.alm with pulse0 := d.alm.ticks + width } }
  else if k = 1 then { d with alm := { d.alm with pulse1 := d.alm.ticks + width } }
  else d

/-- Whether a comparator's firing is due: it is enabled, its value is reached, and it has not fired in this tick. -/
def Device.fireDue (d : Device) (k : Nat) : Bool :=
  d.regBit Reg.almCmpCtrl k && decide ((d.reg (Reg.almCmp k)).toNat ≤ d.ns.toNat) &&
    decide (tget d.alm.fired k ≠ some d.alm.ticks)

/-- The effect of COMPARATOR_FIRE. -/
def comparatorFire (d : Device) (k : Nat) : Device :=
  if d.fireDue k then
    let wakes := d.regBit Reg.cfgWake k
    let d := { d with alm := { d.alm with fired := tput d.alm.fired k d.alm.ticks } }
    let d := if k < 2 then d.pulse k else d
    let d := (d.rearm k).raise (96 + k)
    if wakes then d.wake (BitVec.ofNat 8 (2 ^ k)) 0 else d
  else d

/-- Every firing that is due carried out, as it is before a write of a comparator's registers: a write in the tick of a firing
leaves the firing as the old values have it (R362). -/
def Device.fireAll (d : Device) : Device := (List.range 8).foldl comparatorFire d

/-- A write to ALM_CMPk_PERIOD. -/
def almCmpPeriodWrite (d : Device) (k : Nat) (v : Half) : Device :=
  let d := (comparatorFire d k).reply .written
  if v = 0 || (1000 ≤ v.toNat && v.toNat ≤ 4000000000) then d.setReg (Reg.almCmpPeriod k) (wordOf v) else d.almRefused 2

/-- A comparator's register written once every firing that is due has been carried out with the old values. -/
def Device.afterFirings (d : Device) (f : Device → Device) : Device := f d.fireAll

/-- The level of TIME_OUT0 or TIME_OUT1. -/
def Device.timeOut (d : Device) (k : Nat) : Bool := if k = 0 then d.alm.pulse0 ≠ 0 else d.alm.pulse1 ≠ 0

/-- The effect of TIME_OUT_PULSE_END: the pin goes low once the width has passed. -/
def timeOutPulseEnd (d : Device) (k : Nat) : Device :=
  if k = 0 then (if d.alm.pulse0 ≤ d.alm.ticks then { d with alm := { d.alm with pulse0 := 0 } } else d)
  else if d.alm.pulse1 ≤ d.alm.ticks then { d with alm := { d.alm with pulse1 := 0 } }
  else d

/-- The effect of a command of the always-on domain, which runs on VDD_AON and the reference. -/
def actAon (s : State) (f : Device → Device) : Host.Outcome State Fault Refusal :=
  act s fun d => if d.power.vddAon && d.power.refClk then f d else d

/-! ### The commands -/

/-- ALM_INCR_WRITE. -/
def execAlmIncrWrite (who : Who) (value : Word) (s : State) : Host.Outcome State Fault Refusal :=
  actBy who s fun d => almIncrWrite d value

/-- ALM_LEAP_WRITE. -/
def execAlmLeapWrite (who : Who) (value : Word) (s : State) : Host.Outcome State Fault Refusal :=
  actBy who s fun d => almLeapWrite d value

/-- ALM_NOW_READ. -/
def execAlmNowRead (who : Who) (s : State) : Host.Outcome State Fault Refusal := actBy who s almNowRead

/-- ALM_CMP_PERIOD_WRITE. -/
def execAlmCmpPeriodWrite (who : Who) (k : Fin 8) (value : Half) (s : State) : Host.Outcome State Fault Refusal :=
  actBy who s fun d => almCmpPeriodWrite d k value

/-- COMPARATOR_FIRE. -/
def execComparatorFire (k : Fin 8) (s : State) : Host.Outcome State Fault Refusal := actAon s fun d => comparatorFire d k

/-- TIME_OUT_PULSE_END. -/
def execTimeOutPulseEnd (k : Fin 2) (s : State) : Host.Outcome State Fault Refusal := actAon s fun d => timeOutPulseEnd d k

end Sys2Proof.Machine
end

