-- ==== Sys2Proof/Machine/Hosts.lean ====
section
/-!
DEFINITION. The host caches as the harts use them: cacheable accesses, atomic operations, cache-block operations, errors of a
line, and what a stopped pair loses (R282, R285 to R290, R307, R308, R347; log entry 79). Coherent device accesses stand in
Memories.
-/

namespace Sys2Proof.Machine

/-- The base die whose L3 a host core uses (R16, R282). -/
def coreDie (n : Fin 24) : Fin 2 := ⟨n.val / 12, by omega⟩

/-- The corrected words that a hart's access met in host caches or in island SRAM counted (R287, R308, R347). -/
def Device.hartCe (d : Device) (who : Who) (h : HartUse) : Device :=
  match who with
  | .host n => (d.addCount (Reg.safCeHost n) 0 16 h.l2).addCount Reg.safCeL3 (16 * (coreDie n).val) 16 h.l3
  | .island _ => d.addCount Reg.safCeIsland 0 16 h.sram
  | .bridge _ => d

/-! ### Lines -/

/-- A line of the host caches put in place of the one held. -/
def Device.putLine (d : Device) (line : Nat) (h : HostLine) : Device := { d with hostCache := tput d.hostCache (line / 64) h }

/-- A line read by a core: a changed copy of another core passes to the L3 of that core's die, which then shares it. -/
def HostLine.sharedBy (h : HostLine) (n : Fin 24) : HostLine :=
  let x : Option HostCache × List Nat :=
    match h.dirty with
    | some (.l2 k) => if k = n then (h.dirty, h.l3) else (some (.l3 (coreDie k)), addMember h.l3 (coreDie k))
    | c => (c, h.l3)
  { h with dirty := x.1, l2 := addMember h.l2 n, l3 := addMember x.2 (coreDie n) }

/-- A line changed by a core, whose L2 alone then holds it. -/
def ownedBy (n : Fin 24) (data : List Byte) : HostLine := { data := data, dirty := some (.l2 n), l2 := [n.val], l3 := [] }

/-- A line as it is fetched for a core. -/
def fetchedBy (n : Fin 24) (data : List Byte) : HostLine := { data := data, dirty := none, l2 := [n.val], l3 := [(coreDie n).val] }

/-- The bytes of a line with some replaced from an offset. -/
def splice (data : List Byte) (off : Nat) (bs : List Byte) : List Byte :=
  data.take off ++ bs ++ data.drop (off + bs.length)

/-- A core's cacheable access to a line: the line as the caches hold it, or fetched at the core's port, whose uncorrectable word
faults the access (R174, R181, R285). -/
def Device.withLine (d : Device) (n : Fin 24) (line : Nat) (ecc : Ecc) (f : HostLine → Device → Device) : Device :=
  match tget d.hostCache (line / 64) with
  | some h => f h d
  | none =>
    d.via (hostPort n) line 64 false fun d =>
      let h := fetchedBy n (d.rd line 64)
      let d := d.memEcc line ecc
      match ecc with
      | .uncorrectable _ => d.deny (.host n)
      | _ => f h d

/-! ### Reservations and atomic operations (R286) -/

/-- The reservations of other cores on a line ended by a core's write to it. -/
def Device.breakReservations (d : Device) (n : Fin 24) (line : Nat) : Device :=
  { d with reservations := d.reservations.filter fun e => e.1 = n.val || e.2 ≠ line / 64 }

/-- The value that an atomic operation on `k` bytes leaves. -/
def amoValue (f : Amo) (k old v : Nat) : Nat :=
  match f with
  | .swap => v
  | .add => (old + v) % 2 ^ (8 * k)
  | .xor => old ^^^ v
  | .and => old &&& v
  | .or => old ||| v
  | .min => if signedOf (8 * k) old ≤ signedOf (8 * k) v then old else v
  | .max => if signedOf (8 * k) old ≤ signedOf (8 * k) v then v else old
  | .minu => min old v
  | .maxu => max old v

/-! ### Cacheable accesses -/

/-- The line of an address. -/
def lineOf (a : Nat) : Nat := a / 64 * 64

/-- A core's cacheable read of `k` bytes, as a load-reserve where it reserves. -/
def Device.cachedRead (d : Device) (n : Fin 24) (a k : Nat) (ecc : Ecc) (reserve : Bool) : Device :=
  d.withLine n (lineOf a) ecc fun h d =>
    let d := d.putLine (lineOf a) (h.sharedBy n)
    let d := if reserve then { d with reservations := tput d.reservations n (a / 64) } else d
    d.reply (.value (BitVec.ofNat 64 (fieldAt h.data (a % 64) k)))

/-- A core's cacheable write: every other copy of the line is given up. -/
def Device.cachedWrite (d : Device) (n : Fin 24) (a : Nat) (h : HostLine) (bs : List Byte) : Device :=
  (d.putLine (lineOf a) (ownedBy n (splice h.data (a % 64) bs))).breakReservations n (lineOf a)

/-- A store-conditional of a core: 0 where its reservation of the line still stands and it stores, else 1. -/
def Device.cachedSc (d : Device) (n : Fin 24) (a : Nat) (bs : List Byte) : Device :=
  let held := tget d.reservations n = some (a / 64)
  let d := { d with reservations := tdel d.reservations n }
  if held then d.withLine n (lineOf a) .clean fun h d => (d.cachedWrite n a h bs).reply (.value 0)
  else d.reply (.value 1)

/-- A cache-block operation of a core on the line of an address (R290). -/
def Device.cacheBlock (d : Device) (n : Fin 24) (a : Nat) (op : StoreOp) : Device :=
  match tget d.hostCache (a / 64) with
  | none => d.reply .written
  | some h =>
    if op = .inval then { d with hostCache := tdel d.hostCache (a / 64) }.reply .written
    else
      let done := fun (d : Device) =>
        if op = .clean then (d.putLine (lineOf a) { h with dirty := none }).reply .written
        else { d with hostCache := tdel d.hostCache (a / 64) }.reply .written
      if h.dirty.isNone then done d
      else d.via (hostPort n) (lineOf a) 64 true fun d => done (d.wr (lineOf a) (h.data.take 64))

/-- What a core does at an address of main memory that it caches. -/
def Device.cachedStore (d : Device) (n : Fin 24) (a : Nat) (bs : List Byte) (op : StoreOp) : Device :=
  match op with
  | .store => d.withLine n (lineOf a) .clean fun h d => (d.cachedWrite n a h bs).reply .written
  | .amo f =>
    d.withLine n (lineOf a) .clean fun h d =>
      let old := fieldAt h.data (a % 64) bs.length
      (d.cachedWrite n a h (bytesOfNat bs.length (amoValue f bs.length old (natOfBytes bs)))).reply
        (.value (BitVec.ofNat 64 old))
  | .sc => d.cachedSc n a bs
  | _ => d.cacheBlock n a op

/-! ### Errors of lines and stopped pairs (R287, R307) -/

/-- Whether a cache holds a line. -/
def HostLine.heldIn (h : HostLine) : HostCache → Bool
  | .l2 n => h.l2.contains n.val
  | .l3 x => h.l3.contains x.val

/-- A line without the copy of one cache. -/
def HostLine.without (h : HostLine) : HostCache → HostLine
  | .l2 n => { h with l2 := dropMember h.l2 n }
  | .l3 x => { h with l3 := dropMember h.l3 x }

/-- A line held clean in a cache that an error ended there, fetched again by the access that found it: from another cache that
holds it, else from memory. -/
def Device.refetch (d : Device) (h : HostLine) (cache : HostCache) (n : Fin 24) (line : Nat) : Device :=
  let h := h.without cache
  if !(h.l2.isEmpty && h.l3.isEmpty) then d.putLine line (h.sharedBy n)
  else if d.addrOff line then { d with hostCache := tdel d.hostCache (line / 64) }.emit (.hartFault n.val)
  else (d.charge (hostPort n) line 64 false).putLine line (fetchedBy n (d.rd line 64))

/-- The effect of HOST_CACHE_UE: a clean line is fetched again; a changed one is discarded, and the access that found it
faults. -/
def hostCacheUe (d : Device) (cache : HostCache) (n : Fin 24) (a : Nat) : Device :=
  match tget d.hostCache (a / 64) with
  | none => d
  | some h =>
    if !h.heldIn cache then d
    else
      let d := d.latch 9
      if h.dirty = some cache then
        ({ d with hostCache := tdel d.hostCache (a / 64) }.raise 73).emit (.hartFault n.val)
      else d.refetch h cache n (lineOf a)

/-- A line once a pair's L2s hold nothing: one that they held changed is lost. -/
def HostLine.afterPair (h : HostLine) (p : Nat) : Option HostLine :=
  let lost := match h.dirty with
    | some (.l2 n) => decide (n.val / 2 = p)
    | _ => false
  let l2 := h.l2.filter fun n => n / 2 ≠ p
  if lost || (l2.isEmpty && h.l3.isEmpty) then none else some { h with l2 := l2 }

/-- The L2s of a pair invalidated without write-back (R307). -/
def Device.loseL2 (d : Device) (p : Nat) : Device :=
  { d with
    hostCache := d.hostCache.filterMap fun e => (e.2.afterPair p).map fun h => (e.1, h)
    reservations := d.reservations.filter fun e => e.1 / 2 ≠ p }

end Sys2Proof.Machine
end

