-- ==== Sys2Proof/Machine/Island.lean ====
section
/-!
DEFINITION. The safety island's mechanisms: lockstep comparators, the management path, the watchdog, the
checker test and the Vigil (R287, R307 to R316, R319, R326, R335 to R339).
-/

namespace Sys2Proof.Machine

/-! ### Lockstep (R307, R308, R312) -/

/-- Whether a host pair is compared: it exists as a pair, passed its test and is not stopped. -/
def Device.pairCompared (d : Device) (p : Nat) : Bool :=
  !d.splitCluster (p / 3) && !d.safety.hostStopped.getLsbD p && !d.unitOff (96 + p)

/-- The effect of LOCKSTEP_MISMATCH: what the pair's L2s hold changed is lost. -/
def lockstepMismatch (d : Device) (p : Nat) : Device :=
  if !d.pairCompared p then d
  else
    let d := d.loseL2 p
    let d := { d with safety := { d.safety with hostStopped := d.safety.hostStopped ||| BitVec.ofNat 12 (2 ^ p) } }
    ((d.orReg Reg.safCmp (2 ^ p)).latch 0).setUnitOff (96 + p) true

/-- The effect of ISLAND_LOCKSTEP_MISMATCH: a comparator of a split island compares nothing. -/
def islandLockstepMismatch (d : Device) (i : Nat) (fromSram : Bool) : Device :=
  if d.safety.islandStopped.getLsbD i || (d.boot.islandSplit && !fromSram) then d
  else
    let d := { d with safety := { d.safety with islandStopped := d.safety.islandStopped ||| BitVec.ofNat 2 (2 ^ i) } }
    let d := (d.orReg Reg.safCmp (2 ^ (12 + i))).latch 1
    if d.safety.islandStopped = 3 then d.latch 14 else d

/-- A unit brought back online. -/
def Device.bringOnline (d : Device) (u : Nat) : Device :=
  let d := d.setUnitOff u false
  { d with safety := { d.safety with offAtPoll := dropMember d.safety.offAtPoll u
                                     closedPorts := dropMember d.safety.closedPorts u } }

/-- One stopped pair reset and tested again: released where the test passes. The pairs of a split cluster have no comparator in
use, and none is tested (R310). -/
def Device.retestPair (d : Device) (pass : BitVec 12) (p : Nat) : Device :=
  if !d.safety.hostStopped.getLsbD p || d.splitCluster (p / 3) then d
  else if pass.getLsbD p then
    let d := (d.orReg Reg.safCmp (2 ^ (16 + p))).bringOnline (96 + p)
    { d with safety := { d.safety with hostStopped := d.safety.hostStopped &&& ~~~(BitVec.ofNat 12 (2 ^ p)) } }
  else d.clrReg Reg.safCmp (2 ^ (16 + p))

/-- A write to SAF_HOST_PAIR_RESET. -/
def hostPairReset (d : Device) (v : Half) (pass : BitVec 12) : Device :=
  ((List.range 12).filter fun p => v.getLsbD p).foldl (fun d p => d.retestPair pass p) (d.reply .written)

/-! ### The management path (R313 to R316) -/

/-- Whether a number is one of the table "Managed units". -/
def managedUnit (u : Nat) : Bool :=
  u < 24 || (32 ≤ u && u < 42) || u = 44 || u = 45 || (48 ≤ u && u < 52) || (64 ≤ u && u < 90) || (96 ≤ u && u < 108)

/-- The units that the bits of a word name and software may hold offline. -/
def unitsNamed (w : Nat) (v : Half) : List Nat :=
  (((List.range 32).filter fun i => v.getLsbD i).map (32 * w + ·)).filter fun u => managedUnit u && decide (u < 96)

/-- A write to SAF_UNIT_OFF_SETw. -/
def safUnitOffSet (d : Device) (w : Nat) (v : Half) : Device :=
  (unitsNamed w v).foldl Device.takeOffline (d.reply .written)

/-- A write to SAF_UNIT_OFF_CLRw. -/
def safUnitOffClr (d : Device) (w : Nat) (v : Half) : Device :=
  (unitsNamed w v).foldl Device.bringOnline (d.reply .written)

/-- A skew of a unit: its latch bit, and the record where none was set. -/
def Device.skew (d : Device) (kind u : Nat) : Device :=
  let first := !d.regBit Reg.safFaultLatch 8
  let d := d.recordIf first Reg.safSkewRecord (BitVec.ofNat 64 (kind * 256 + u))
  (d.recordIf first Reg.safSkewTime d.ns).latch 8

/-- One unit's answer judged (R315). -/
def Device.judgeAnswer (d : Device) (x : PollAnswer) : Device :=
  let u := x.unit
  if !managedUnit u then d
  else if !x.answered then
    let d := { d with safety := { d.safety with stoppedOnce := dropMember d.safety.stoppedOnce u } }
    if d.safety.silentOnce.contains u then d.skew 3 u
    else { d with safety := { d.safety with silentOnce := addMember d.safety.silentOnce u } }
  else
    let d := { d with safety := { d.safety with silentOnce := dropMember d.safety.silentOnce u } }
    if d.unitOff u then
      let d := { d with safety := { d.safety with stoppedOnce := dropMember d.safety.stoppedOnce u } }
      if x.accepted && d.safety.offAtPoll.contains u then
        let d := d.skew 1 u
        { d with safety := { d.safety with closedPorts := addMember d.safety.closedPorts u } }
      else d
    else if x.serving then { d with safety := { d.safety with stoppedOnce := dropMember d.safety.stoppedOnce u } }
    else if d.safety.stoppedOnce.contains u then d.skew 2 u
    else { d with safety := { d.safety with stoppedOnce := addMember d.safety.stoppedOnce u } }

/-- The effect of MANAGEMENT_POLL: the answers judged, and the units then offline remembered for the next interval. A unit
that the list does not name answered as it is held and took nothing. -/
def managementPoll (d : Device) (l : List PollAnswer) : Device :=
  let asked := fun (u : Nat) => l.any fun x => decide (x.unit = u)
  let d := { d with safety := { d.safety with
    stoppedOnce := d.safety.stoppedOnce.filter asked, silentOnce := d.safety.silentOnce.filter asked } }
  let d := l.foldl Device.judgeAnswer d
  { d with safety := { d.safety with offAtPoll := (List.range 128).filter d.unitOff } }

/-! ### The watchdog (R319) -/

/-- Whether the watchdog is enabled. -/
def Device.wdogOn (d : Device) : Bool := d.regBit Reg.safWdog 31

/-- The watchdog's whole period in reference ticks: units of 10 µs. -/
def Device.wdogWhole (d : Device) : Nat := d.fld Reg.safWdog 0 16 * 1000

/-- The watchdog's count: the ticks since its last restart; an expiry leaves it standing at the whole period. -/
def Device.wdogCount (d : Device) : Nat :=
  if d.safety.wdogExpired then d.wdogWhole else min (d.alm.ticks - d.safety.wdogFrom) d.wdogWhole

/-- The watchdog's count begun again. -/
def Device.wdogRestart (d : Device) : Device :=
  { d with safety := { d.safety with wdogFrom := d.alm.ticks, wdogHalf := false, wdogExpired := false } }

/-- A write to SAF_WDOG: fixed once enabled, and not enabled with a period of 0. -/
def wdogEnable (d : Device) (v : Half) : Device :=
  let d := d.reply .written
  if d.wdogOn || (v.getLsbD 31 && v.toNat % 2 ^ 16 = 0) then d
  else (d.setReg Reg.safWdog (wordOf v &&& 0x8000FFFF)).wdogRestart

/-- The watchdog expired. -/
def Device.wdogExpired (d : Device) : Device :=
  { d with safety := { d.safety with wdogExpired := true } }.latch 13

/-- A write to SAF_WDOG_KICK. -/
def wdogKick (d : Device) (v : Half) : Device :=
  let d := d.reply .written
  if !d.wdogOn then d
  else if v.toNat % 256 = 0xA5 then d.wdogRestart
  else d.wdogExpired

/-- The effect of WDOG_HALF_PERIOD: half the period has passed without a restart. -/
def wdogHalfPeriod (d : Device) : Device :=
  if d.wdogOn && decide (d.wdogWhole ≤ 2 * d.wdogCount) then { d with safety := { d.safety with wdogHalf := true } } else d

/-- The effect of WDOG_EXPIRE: the count stands at the whole period until the next restart. -/
def wdogExpire (d : Device) : Device :=
  if d.wdogOn && !d.safety.wdogExpired && decide (d.wdogWhole ≤ d.wdogCount) then d.wdogExpired else d

/-! ### The checker test (R326) -/

/-- A write to CHK_TEST: the two fixed digests that an injection presents differ, so the comparator fires. -/
def chkTestInject (d : Device) (v : Half) : Device :=
  let d := d.reply .written
  if v.getLsbD 0 then d.orReg Reg.chkTest 0x100 else d

/-! ### The Vigil (R334 to R339) -/

/-- Whether any miss bit of the Vigil is set. -/
def Device.anyMiss (d : Device) : Bool :=
  (List.range 16).any fun w => d.reg (Reg.vglMissAge w) ≠ 0 || d.reg (Reg.vglMissProd w) ≠ 0

/-- A miss of a stream. -/
def Device.vigilMiss (d : Device) (s : Nat) (production : Bool) : Device :=
  let first := !d.anyMiss
  let d := d.recordIf first Reg.vglRecord (BitVec.ofNat 64 (s + if production then 2 ^ 31 else 0))
  let d := d.recordIf first Reg.vglRecordTime d.ns
  let d := d.orReg (if production then Reg.vglMissProd (s / 32) else Reg.vglMissAge (s / 32)) (2 ^ (s % 32))
  let d := (d.addCount Reg.vglMisses (if production then 16 else 0) 16 1).latch 5
  if d.regBit (Reg.vglCfg s) 62 then d.orReg (Reg.vglSafeLatch (s / 32)) (2 ^ (s % 32)) else d

/-- A write to VGL_PRODUCEs. -/
def vglProduce (d : Device) (s : Nat) (v : Word) : Device :=
  let d := d.reply .written
  if d.regBit (Reg.vglCfg s) 63 && d.regBit (Reg.vglCfg s) 61 then d.produced s d.ns v else d

/-- A write to VGL_CONSUMEs. -/
def vglConsume (d : Device) (s : Nat) (v : Word) : Device :=
  let d := d.reply .written
  let age := d.fld (Reg.vglAge s) 0 32
  let a := d.ns.toNat
  if d.regBit (Reg.vglCfg s) 63 && age ≠ 0 && (decide (age + v.toNat < a) || decide (a < v.toNat)) then
    d.vigilMiss s false
  else d

/-- The effect of PRODUCTION_MISS: the due time of an armed stream with a period has passed, once. -/
def productionMiss (d : Device) (s : Nat) : Device :=
  if d.cfg = .running && d.regBit (Reg.vglCfg s) 63 && d.safety.vigilArmed.contains s &&
      !d.safety.vigilMissed.contains s && d.fld (Reg.vglPeriod s) 0 32 ≠ 0 && decide (d.reg (Reg.vglDue s) < d.ns) then
    { d with safety := { d.safety with vigilMissed := addMember d.safety.vigilMissed s } }.vigilMiss s true
  else d

/-! ### Island accesses (R353) -/

/-- A write that only an island hart makes: any other requester is turned away. -/
def islandWrite (who : Who) (f : Device → Device) (d : Device) : Device := if whoIsIsland who then f d else d.deny who

/-! ### The commands -/

/-- LOCKSTEP_MISMATCH. -/
def execLockstepMismatch (pair : Fin 12) (s : State) : Host.Outcome State Fault Refusal :=
  actLive s fun d => lockstepMismatch d pair

/-- ISLAND_LOCKSTEP_MISMATCH. -/
def execIslandLockstepMismatch (pair : Fin 2) (fromSram : Bool) (s : State) : Host.Outcome State Fault Refusal :=
  actLive s fun d => islandLockstepMismatch d pair fromSram

/-- HOST_CACHE_UE. -/
def execHostCacheUe (cache : HostCache) (hart : Fin 24) (s : State) (addr : Nat := 0) : Host.Outcome State Fault Refusal :=
  actLive s fun d => hostCacheUe d cache hart addr

/-- HOST_PAIR_RESET. -/
def execHostPairReset (who : Who) (value : Half) (pass : BitVec 12) (s : State) : Host.Outcome State Fault Refusal :=
  actBy who s (islandWrite who fun d => hostPairReset d value pass)

/-- MANAGEMENT_POLL. -/
def execManagementPoll (answers : List PollAnswer) (s : State) : Host.Outcome State Fault Refusal :=
  actPaced .managementPoll s fun d => managementPoll d answers

/-- SAF_UNIT_OFF_SET. -/
def execSafUnitOffSet (who : Who) (w : Fin 4) (value : Half) (s : State) : Host.Outcome State Fault Refusal :=
  actBy who s (islandWrite who fun d => safUnitOffSet d w value)

/-- SAF_UNIT_OFF_CLR. -/
def execSafUnitOffClr (who : Who) (w : Fin 4) (value : Half) (s : State) : Host.Outcome State Fault Refusal :=
  actBy who s (islandWrite who fun d => safUnitOffClr d w value)

/-- WDOG_ENABLE. -/
def execWdogEnable (who : Who) (value : Half) (s : State) : Host.Outcome State Fault Refusal :=
  actBy who s (islandWrite who fun d => wdogEnable d value)

/-- WDOG_KICK. -/
def execWdogKick (who : Who) (value : Half) (s : State) : Host.Outcome State Fault Refusal :=
  actBy who s (islandWrite who fun d => wdogKick d value)

/-- WDOG_HALF_PERIOD. -/
def execWdogHalfPeriod (s : State) : Host.Outcome State Fault Refusal := actLive s wdogHalfPeriod

/-- WDOG_EXPIRE. -/
def execWdogExpire (s : State) : Host.Outcome State Fault Refusal := actLive s wdogExpire

/-- CHK_TEST_INJECT. -/
def execChkTestInject (who : Who) (value : Half) (s : State) : Host.Outcome State Fault Refusal :=
  actBy who s fun d => chkTestInject d value

/-- VGL_PRODUCE. -/
def execVglProduce (who : Who) (stream : Fin 512) (value : Word) (s : State) : Host.Outcome State Fault Refusal :=
  actBy who s fun d => vglProduce d stream value

/-- VGL_CONSUME. -/
def execVglConsume (who : Who) (stream : Fin 512) (value : Word) (s : State) : Host.Outcome State Fault Refusal :=
  actBy who s fun d => vglConsume d stream value

/-- PRODUCTION_MISS. -/
def execProductionMiss (stream : Fin 512) (s : State) : Host.Outcome State Fault Refusal :=
  actLive s fun d => productionMiss d stream

end Sys2Proof.Machine
end

