-- ==== Sys2Proof/Machine/Power.lean ====
section
/-!
DEFINITION. Starts and what each keeps, supplies, the reference clock, and the end of sleep (R392, R417, R433, R438 to R441),
with the rule that a record register is held while the bits beside it are set (R67, R129, R207, R239, R281, R354, R418).
-/

namespace Sys2Proof.Machine

/-! ### Records held while a guard is set -/

/-- The register whose bits guard a record register, with the mask of those bits: the record is cleared when they read 0, and
only while they are set does it outlive a reset. -/
def recordGuard (a : Nat) : Option (Nat × Nat) :=
  if a = Reg.pwrPaceRecord || a = Reg.pwrPaceTime then some (Reg.pwrPaceFault, 0xF)
  else if a = Reg.cfgSatTotal then some (Reg.cfgNumSticky, 0x1)
  else if a = Reg.ddrUeAddr || a = Reg.ddrUeTime then some (Reg.ddrSticky, 0xFF00)
  else if a = Reg.qryUeAddr || a = Reg.qryUeTime then some (Reg.qrySticky, 0x3)
  else if a = Reg.calTdRecord || a = Reg.calTdTime then some (Reg.calSticky, 0x1)
  else if a = Reg.hifBridgeRecord || a = Reg.hifBridgeTime then some (Reg.hifSticky, 0x30)
  else if a = Reg.safSkewRecord || a = Reg.safSkewTime then some (Reg.safFaultLatch, 0x100)
  else if a = Reg.safStestRecord then some (Reg.safFaultLatch, 0xC0)
  else if a = Reg.chkRecord || a = Reg.chkRecordTime || a = Reg.chkRecordPrimary || a = Reg.chkRecordReplica then
    some (Reg.chkSticky, 0xFFFF)
  else if a = Reg.gwySizeRecord || a = Reg.gwySizeTime then some (Reg.gwySticky, 0x1)
  else if a = Reg.cfgRefusal then some (Reg.cfgSticky, 0x1)
  else none

/-- Whether any miss bit of the Vigil is set, from which VGL_RECORD is held. -/
def Device.vigilMissed (d : Device) : Bool :=
  (List.range 16).any fun w => d.reg (Reg.vglMissAge w) ≠ 0 || d.reg (Reg.vglMissProd w) ≠ 0

/-- Whether the throttle record of a class is held: its own bit, and for a BEST class those of the BEST steps. -/
def Device.throttleHeld (d : Device) (c : Nat) : Bool :=
  d.regBit Reg.mrgThrottleSticky (16 + c) || d.regBit Reg.mrgThrottleSticky (24 + c) ||
    (d.classKind c = 0 && d.fld Reg.mrgThrottleSticky 0 2 ≠ 0)

/-- Whether a register is a record, and whether its guard holds it. -/
def Device.recordHeld (d : Device) (a : Nat) : Option Bool :=
  match recordGuard a with
  | some (g, m) => some (decide (d.reg g &&& BitVec.ofNat 64 m ≠ 0))
  | none =>
    if a = Reg.vglRecord || a = Reg.vglRecordTime then some d.vigilMissed
    else if 0x600D40 ≤ a && a < 0x600D80 then some (d.throttleHeld ((a - 0x600D40) / 8))
    else none

/-- The device with every record cleared whose guard reads 0. -/
def Device.dropRecords (d : Device) : Device := { d with regs := d.regs.filter fun e => d.recordHeld e.1 ≠ some false }

/-! ### What a start keeps (R392) -/

/-- What a register holds after a reset: the sticky bits of a W1C-S register, a held record, or its reset value (R11). -/
def Device.kept (d : Device) (a : Nat) (v : Word) : Word :=
  match regRowAt a with
  | some r =>
    if r.sticky then v &&& BitVec.ofNat 64 r.w1c
    else if d.recordHeld a = some true then v
    else regReset a
  | none => regReset a

/-- The registers after a reset. -/
def Device.keptRegs (d : Device) : Table Word :=
  d.regs.filterMap fun e =>
    let v := d.kept e.1 e.2
    if v = regReset e.1 then none else some (e.1, v)

/-- Every unit outside the always-on domain reset: the Almanac, the sticky bits and records, the supplies, the part, the flash
devices and the strap stand; memory stands until the boot zeroes it. -/
def Device.resetUnits (d : Device) : Device :=
  { Device.reset with
    regs := d.keptRegs
    mem := d.mem
    power := d.power
    part := d.part
    boot := { Boot.none with flash := d.boot.flash }
    sec := { d.sec with identity := false, attest := none, writing := none }
    rank := d.rank
    alm := d.alm
    nextId := d.nextId
    freeIndex := d.freeIndex }

/-- A start begun: the units held in reset, and the kind of the start that follows. -/
def Device.hold (d : Device) (k : StartKind) : Device :=
  let d := d.resetUnits
  { d with power := { d.power with phase := .held, start := k } }

/-! ### Supplies -/

/-- The effect of POWER_ON: the always-on domain leaves its power-on reset. What flash and manufacture hold stands. -/
def powerOn (d : Device) : Device :=
  if d.power.vddAon && (d.power.railEn || d.power.phase ≠ .held) then d
  else
    { Device.reset with
      part := d.part
      boot := { Boot.none with flash := d.boot.flash }
      sec := { d.sec with identity := false, attest := none, writing := none }
      nextId := d.nextId
      freeIndex := d.freeIndex }

/-- The effect of LOSS_OF_VDD_AON: nothing runs and nothing is kept, until VDD_AON is applied again. -/
def lossOfVddAon (d : Device) : Device :=
  { Device.reset with
    power := { Power.reset with vddAon := false, railEn := false }
    part := d.part
    boot := { Boot.none with flash := d.boot.flash }
    sec := { d.sec with identity := false, attest := none, writing := none }
    nextId := d.nextId
    freeIndex := d.freeIndex }

/-- The effect of RAIL_EN_RELEASE. -/
def railEnRelease (d : Device) : Device :=
  if d.power.phase = .held && d.power.start = .powerOn then { d with power := { d.power with railEn := true } } else d

/-- The effect of WARM_RESET (R392). -/
def warmReset (d : Device) : Device := if d.power.phase = .asleep then d else d.hold .warmReset

/-- The start that a reset which interrupts another start leads to: a power-on stays one. -/
def Device.restartKind (d : Device) : StartKind := if d.power.phase = .held then d.power.start else .warmReset

/-- The effect of BROWN_OUT (R440, R441): PWR_GOOD falls; with RAIL_EN low the fall is part of a sleep entry. -/
def brownOut (d : Device) : Device :=
  if !d.power.railEn || d.power.phase = .asleep then { d with power := { d.power with pwrGood := false } }
  else
    let d := d.hold d.restartKind
    { d with power := { d.power with pwrGood := false } }

/-- The effect of RAIL_EN_HOLD_EXPIRE (R417): a wake latched meanwhile raises RAIL_EN. -/
def railEnHoldExpire (d : Device) : Device :=
  if d.power.phase ≠ .asleep then d
  else
    let woken := d.power.wakeCmp ≠ 0 || d.power.wakePins ≠ 0
    { d with power := { d.power with holdDone := true, railEn := d.power.railEn || woken } }

/-- The effect of WAKE_PIN: the pin has held its level for 100 ticks. -/
def wakePin (d : Device) (k : Nat) : Device :=
  if d.regBit Reg.cfgWake (8 + k) then d.wake 0 (BitVec.ofNat 4 (2 ^ k)) else d

/-! ### The commands -/

/-- POWER_ON. -/
def execPowerOn (s : State) : Host.Outcome State Fault Refusal := act s powerOn

/-- RAIL_EN_RELEASE. -/
def execRailEnRelease (s : State) : Host.Outcome State Fault Refusal := actAon s railEnRelease

/-- WARM_RESET. -/
def execWarmReset (s : State) : Host.Outcome State Fault Refusal := actAon s warmReset

/-- BROWN_OUT. -/
def execBrownOut (s : State) : Host.Outcome State Fault Refusal := act s fun d => if d.power.vddAon then brownOut d else d

/-- REF_CLK_STOP (R433). -/
def execRefClkStop (s : State) : Host.Outcome State Fault Refusal :=
  act s fun d => { d with power := { d.power with refClk := false } }

/-- REF_CLK_RETURN (R433). -/
def execRefClkReturn (s : State) : Host.Outcome State Fault Refusal :=
  act s fun d => { d with power := { d.power with refClk := true } }

/-- WAKE_PIN. -/
def execWakePin (k : Fin 4) (s : State) : Host.Outcome State Fault Refusal := actAon s fun d => wakePin d k

/-- RAIL_EN_HOLD_EXPIRE. -/
def execRailEnHoldExpire (s : State) : Host.Outcome State Fault Refusal := actAon s railEnHoldExpire

/-- LOSS_OF_VDD_AON. -/
def execLossOfVddAon (s : State) : Host.Outcome State Fault Refusal := act s lossOfVddAon

end Sys2Proof.Machine
end

