-- ==== Sys2Proof/Machine/Security.lean ====
section
/-!
DEFINITION. The security block: the identity, attestation, and the replay-protected record (R398, R399, R401 to R404).
-/

namespace Sys2Proof.Machine

/-! ### Keys (R401) -/

/-- The bytes of a text. -/
def textBytes (t : List Char) : List Byte := t.map fun c => BitVec.ofNat 8 c.toNat

/-- Where the device area of the boot flash lies, and its size (R394). -/
def deviceArea : Nat := 0x8000000

/-- The size of the device area. -/
def deviceAreaBytes : Nat := 0x1000

/-- The helper data of the device area. -/
def Device.helperData (d : Device) : List Byte := memRead d.boot.flash deviceArea deviceAreaBytes

/-- Whether the device area holds helper data: some byte of it is neither erased nor zero (log entry 90). -/
def Device.hasHelper (d : Device) : Bool :=
  d.boot.flash.any fun c => decide (deviceArea ≤ c.1) && decide (c.1 < deviceArea + deviceAreaBytes) &&
    decide (c.2 ≠ 0xFF) && decide (c.2 ≠ 0)

/-- A key derived from a label and the seed that the PUF gives with helper data. -/
def derivedKey (helper : List Byte) (label : List Char) : List Byte :=
  (sha512 (bytesOfNat 32 (Config.pufSeed helper).toNat ++ textBytes label)).take 32

/-- The identity private key. -/
def identityKey (helper : List Byte) : List Byte := derivedKey helper ['S', 'V', '8', '-', 'I', 'D']

/-- K_rp. -/
def recordKey (helper : List Byte) : List Byte := derivedKey helper ['S', 'V', '8', '-', 'R', 'P']

/-! ### The replay-protected record (R398) -/

/-- The bytes of a record, with the nonce it carries and its mac under a key. -/
def RpRecord.bytes (r : RpRecord) (key : List Byte) (nonce : BitVec 128) : List Byte :=
  let head := bytesOfNat 4 r.floor.toNat ++ [BitVec.ofNat 8 r.revoke.toNat] ++ bytesOfNat 3 0 ++
    bytesOfNat 4 r.counter.toNat ++ bytesOfNat 4 0 ++ bytesOfNat 16 nonce.toNat
  head ++ hmacSha256 key head

/-- What the bytes of a record say. -/
def recordOf (bs : List Byte) : RpRecord :=
  { floor := BitVec.ofNat 32 (fieldAt bs 0 4), revoke := BitVec.ofNat 4 (fieldAt bs 4 1)
    counter := BitVec.ofNat 32 (fieldAt bs 8 4) }

/-- Whether a record read authenticates: it carries the nonce of its request and the mac of its bytes. -/
def recordAuthentic (key : List Byte) (nonce : BitVec 128) (bs : List Byte) : Bool :=
  bs.length = 64 && fieldAt bs 0x10 16 = nonce.toNat && slice bs 0x20 32 = hmacSha256 key (slice bs 0 0x20)

/-- A free nonce used. -/
def Device.useNonce (d : Device) : BitVec 128 × Device := (Config.nonce d.freeIndex, { d with freeIndex := d.freeIndex + 1 })

/-- The device having sent an authenticated read. -/
def Device.readRecord (d : Device) : Device :=
  let n := d.useNonce
  n.2.emit (.flashCommand 0x9A (bytesOfNat 16 n.1.toNat))

/-- The device having sent an authenticated write of a record. -/
def Device.writeRecord (d : Device) (r : RpRecord) : Device :=
  let n := d.useNonce
  n.2.emit (.flashCommand 0x9B (r.bytes (recordKey d.helperData) n.1))

/-- What the device takes from the record of an authenticated read, where it authenticates. -/
def Device.checkedRecord (d : Device) (bs : List Byte) : Option RpRecord :=
  if recordAuthentic (recordKey d.helperData) d.useNonce.1 bs then some (recordOf bs) else none

/-! ### Registers that hold bytes -/

/-- Words of four bytes each put into registers from an offset up. -/
def Device.putBytes (d : Device) (a : Nat) (bs : List Byte) : Nat → Device
  | 0 => d
  | n + 1 =>
    let d := Device.putBytes d a bs n
    d.setReg (a + 4 * n) (BitVec.ofNat 64 (fieldAt bs (4 * n) 4))

/-- The bytes that `n` registers of four bytes hold. -/
def Device.getBytes (d : Device) (a n : Nat) : List Byte :=
  (List.range n).flatMap fun i => bytesOfNat 4 (d.reg (a + 4 * i)).toNat

/-! ### Attestation (R403) -/

/-- The refusal of an ATTEST. -/
def Device.attestRefused (d : Device) : Device := d.orReg Reg.secSticky 0x10

/-- The effect of ATTEST. -/
def attest (d : Device) : Device :=
  let d := d.reply .written
  let a := (d.reg Reg.secAttAddr).toNat
  if !d.sec.identity || d.sec.attest.isSome || a % 64 ≠ 0 || !d.inMemory a 512 then d.attestRefused
  else { d with sec := { d.sec with attest := some a } }.orReg Reg.secStatus 4

/-- The part identity that CFG_IDENT shows (R4). -/
def Device.ident (d : Device) : Word :=
  BitVec.ofNat 64 (0x8000000 + d.part.grade.toNat * 2 ^ 20 + d.part.stepping.toNat * 2 ^ 16 +
    d.part.romEdition.toNat * 2 ^ 8)

/-- The code of a configuration state (R405). -/
def cfgCode : CfgState → Nat
  | .empty => 0
  | .loading => 1
  | .sealed => 2
  | .running => 3
  | .refused => 4

/-- The bytes of a report that its signature covers. -/
def Device.reportBody (d : Device) : List Byte :=
  bytesOfNat 4 0x41535653 ++ bytesOfNat 2 1 ++ [BitVec.ofNat 8 (cfgCode d.cfg), if d.boot.slot then 1 else 0] ++
    bytesOfNat 4 d.ident.toNat ++ bytesOfNat 4 d.boot.version.toNat ++ bytesOfNat 4 d.boot.floor.toNat ++ bytesOfNat 4 0 ++
    bytesOfNat 8 d.ns.toNat ++ d.getBytes (Reg.secNonce 0) 8 ++ d.getBytes (Reg.secIdPub 0) 8 ++
    (d.boot.measurements.flatMap fun m => slice m 0 64) ++ d.getBytes (Reg.secCfgDigest 0) 16 ++ slice d.boot.ownerKey 0 32

/-- The effect of ATTEST_COMPLETE. -/
def attestComplete (d : Device) : Device :=
  match d.sec.attest with
  | none => d
  | some a =>
    let body := d.reportBody
    let d := d.wr a (body ++ edSign (identityKey d.helperData) (sha512 body))
    { d with sec := { d.sec with attest := none } }.clrReg Reg.secStatus 4

/-! ### The rollback floor (R404) -/

/-- The record that a RAISE_FLOOR asks for. -/
def Device.wantedRecord (d : Device) (r : RpRecord) : RpRecord :=
  { floor := BitVec.ofNat 32 (d.fld Reg.secFloorReq 0 32)
    revoke := r.revoke ||| BitVec.ofNat 4 (d.fld Reg.secFloorReq 32 4)
    counter := r.counter + 1 }

/-- The effect of RAISE_FLOOR: floor_done speaks of the last one, so a refused one leaves it 0. -/
def raiseFloor (d : Device) : Device :=
  let d := (d.reply .written).clrReg Reg.secStatus 8
  match d.sec.record, d.sec.writing with
  | some r, none =>
    let w := d.wantedRecord r
    if d.boot.version < w.floor || w.floor < r.floor || w.revoke.getLsbD d.boot.rootIndex.toNat then d
    else { d with sec := { d.sec with writing := some w } }.writeRecord w
  | _, _ => d

/-- The effect of FLOOR_WRITE_COMPLETE: the flash answers the write with a status, and the record read back must authenticate
as the one written. -/
def floorWriteComplete (d : Device) (status : Byte) (record : List Byte) : Device :=
  match d.sec.writing with
  | none => d
  | some w =>
    let written := status = 0 && d.checkedRecord record = some w
    let d := d.readRecord
    if written then
      { d with sec := { d.sec with writing := none, record := some w } }.orReg Reg.secStatus 8
    else { d with sec := { d.sec with writing := none } }.orReg Reg.secSticky 8

/-! ### The commands -/

/-- A command of the security block, which the fabric bridge cannot reach (R279, R419). -/
def secAccess (who : Who) (f : Device → Device) (d : Device) : Device := if whoIsBridge who then d.deny who else f d

/-- ATTEST. -/
def execAttest (who : Who) (s : State) : Host.Outcome State Fault Refusal := actBy who s (secAccess who attest)

/-- ATTEST_COMPLETE. -/
def execAttestComplete (s : State) : Host.Outcome State Fault Refusal := actLive s attestComplete

/-- RAISE_FLOOR: island harts alone. -/
def execRaiseFloor (who : Who) (s : State) : Host.Outcome State Fault Refusal :=
  actBy who s fun d => if whoIsIsland who then raiseFloor d else d.deny who

/-- FLOOR_WRITE_COMPLETE. -/
def execFloorWriteComplete (status : Byte) (s : State) (record : List Byte := []) : Host.Outcome State Fault Refusal :=
  actLive s fun d => floorWriteComplete d status record

end Sys2Proof.Machine
end

