-- ==== Sys2Proof/Machine/BootFlow.lean ====
section
/-!
DEFINITION. The boot: the signed image and its checks, the choice of slot, and the boot sequence from the comparator tests to
EMPTY (R180, R310, R311, R393 to R402, R413).
-/

namespace Sys2Proof.Machine

/-! ### The flash image (R394 to R396) -/

/-- The size of a slot. -/
def slotBytes : Nat := 0x4000000

/-- Bytes of the boot flash at an offset in a slot. -/
def Device.slotRead (d : Device) (slot : Bool) (off n : Nat) : List Byte :=
  memRead d.boot.flash ((if slot then slotBytes else 0) + off) n

/-- The header of a slot. -/
def Device.header (d : Device) (slot : Bool) : List Byte := d.slotRead slot 0 512

/-- The offset and size of a section that a header names. -/
def sectionOf (h : List Byte) (i : Nat) : Nat × Nat := (fieldAt h (0x70 + 80 * i) 8, fieldAt h (0x78 + 80 * i) 8)

/-- The digest of a section that a header names. -/
def sectionDigest (h : List Byte) (i : Nat) : List Byte := slice h (0x80 + 80 * i) 64

/-- The bytes of a section of a slot. -/
def Device.sectionBytes (d : Device) (slot : Bool) (i : Nat) : List Byte :=
  let s := sectionOf (d.header slot) i
  d.slotRead slot s.1 s.2

/-- Whether a range of bytes is zero. -/
def zeroSpan (bs : List Byte) (off n : Nat) : Bool := (slice bs off n).all (· = 0)

/-- Check 1 of R397: the fixed fields and the section entries. -/
def headerOk (h : List Byte) : Bool :=
  let s := (List.range 4).map (sectionOf h)
  fieldAt h 0 4 = 0x46535653 && fieldAt h 4 2 = 1 && fieldAt h 6 2 = 0x200 && zeroSpan h 0x0D 3 && zeroSpan h 0x1B0 16 &&
    (s.all fun x => x.1 % 0x1000 = 0 && decide (x.1 + x.2 ≤ slotBytes) && !overlaps 0 512 x.1 x.2) &&
    ((List.range 4).all fun i => (List.range i).all fun j =>
      !overlaps (sectionOf h i).1 (sectionOf h i).2 (sectionOf h j).1 (sectionOf h j).2) &&
    decide ((sectionOf h 1).2 ≤ 0x80000)

/-- The revoked root keys and the floor of the record. -/
def Device.recordNow (d : Device) : RpRecord := d.sec.record.getD { floor := 0, revoke := 0, counter := 0 }

/-- Check 2: the root key is not revoked and owner_cert verifies with it. -/
def Device.ownerOk (d : Device) (h : List Byte) : Bool :=
  let r := fieldAt h 0x0C 1
  decide (r < 4) && !d.recordNow.revoke.getLsbD r &&
    edVerify (d.part.rootKeys.getD r []) (sha512 (slice h 0x0C 36)) (slice h 0x30 64)

/-- Check 3: the header's signature. -/
def headerSigned (h : List Byte) : Bool := edVerify (slice h 0x10 32) (sha512 (slice h 0 0x1C0)) (slice h 0x1C0 64)

/-- The DDR half size of a density. -/
def halfOfDensity (n : Nat) : Nat :=
  match n with
  | 0 => 0x400000000
  | 1 => 0x800000000
  | 2 => 0xC00000000
  | _ => 0x1000000000

/-- Whether a boot configuration block meets R396. -/
def bootBlockOk (b : List Byte) : Bool :=
  let f := fieldAt b
  b.length = 2048 && f 0 4 = 0x43535653 && f 4 2 = 1 && f 6 2 = 0x800 && f 8 1 < 16 && f 9 1 < 2 &&
    f 0x0A 1 / 4 % 4 = 0 && f 0x0A 1 / 16 < 3 && f 0x0B 1 % 4 ≠ 3 && f 0x0B 1 / 4 % 4 = 0 && f 0x0B 1 / 16 < 4 &&
    (1 ≤ f 0x0C 1 && f 0x0C 1 ≤ 3) && f 0x0D 1 ≤ 16 && f 0x0E 1 ≤ 8 && zeroSpan b 0x0F 1 && zeroSpan b 0x14 4 &&
    f 0x18 8 % 0x1000 = 0 && f 0x20 8 % 0x10000 = 0 && zeroSpan b 0x28 24 && zeroSpan b 0x440 960

/-- Whether the images of a block lie in the populated DDR and in one Quarry. -/
def imagesPlaced (h b : List Byte) : Bool :=
  let host := fieldAt b 0x18 8
  let stest := fieldAt b 0x20 8
  let hostEnd := host + (sectionOf h 2).2
  let stestEnd := stest + (sectionOf h 3).2
  decide (hostEnd ≤ 2 * halfOfDensity (fieldAt b 0x0A 1 % 4)) &&
    ((0x4000000000 ≤ stest && stestEnd ≤ 0x400C000000) || (0x400C000000 ≤ stest && stestEnd ≤ 0x4018000000))

/-- Checks 1 to 5 of R397 over a slot, in their order. -/
def Device.slotOk (d : Device) (slot : Bool) : Bool :=
  let h := d.header slot
  headerOk h && d.ownerOk h && headerSigned h && decide (d.recordNow.floor.toNat ≤ fieldAt h 8 4) &&
    (let b := d.sectionBytes slot 0
     sha512 b = sectionDigest h 0 && bootBlockOk b && imagesPlaced h b)

/-! ### The choice of slot (steps 4 and 5 of R400) -/

/-- What a booted image gives the device (R393). -/
def Device.takeImage (d : Device) (slot : Bool) : Device :=
  let h := d.header slot
  let b := d.sectionBytes slot 0
  let f := fieldAt b
  let boot : Boot := { d.boot with
    slot := slot
    version := BitVec.ofNat 32 (fieldAt h 8 4)
    floor := d.recordNow.floor
    rootIndex := BitVec.ofNat 2 (fieldAt h 0x0C 1)
    ownerKey := slice h 0x10 32
    hostSplit := BitVec.ofNat 4 (f 8 1)
    islandSplit := f 9 1 = 1
    density := BitVec.ofNat 2 (f 0x0A 1)
    rate := BitVec.ofNat 2 (f 0x0A 1 / 16)
    pcaRole := BitVec.ofNat 2 (f 0x0B 1)
    pcbRole := BitVec.ofNat 2 (f 0x0B 1 / 16)
    maxOpp := BitVec.ofNat 2 (f 0x0C 1)
    slabKeys := (List.range (f 0x0D 1)).map fun i => slice b (0x40 + 32 * i) 32
    cfgDigests := (List.range (f 0x0E 1)).map fun i => slice b (0x240 + 64 * i) 64
    ctlSafe := BitVec.ofNat 16 (f 0x10 2)
    ctlFollow := BitVec.ofNat 16 (f 0x12 2)
    hostEntry := f 0x18 8
    stestBase := f 0x20 8
    sections := (List.range 4).map (sectionOf h)
    measurements := (List.range 4).map (sectionDigest h) }
  let d := { d with boot := boot }
  let d := d.setReg Reg.secVersion (wordOf boot.version)
  let d := d.setReg Reg.secFloor (wordOf boot.floor)
  let d := d.setFld Reg.secStatus 8 1 (if slot then 1 else 0)
  let d := d.setFld Reg.secStatus 4 2 boot.rootIndex.toNat
  (List.range 4).foldl (fun d m => d.putBytes (Reg.secMeas m 0) (sectionDigest h m) 16) d

/-- A slot found bad. -/
def Device.slotBad (d : Device) (slot : Bool) : Device := d.orReg Reg.secSticky (if slot then 4 else 2)

/-- The boot stopped (R400). -/
def Device.stopBoot (d : Device) : Device := { d with power := { d.power with phase := .bootStopped } }

/-- The host comparators of paired clusters tested, and the pairs that fail held back (R310, R311). -/
def Device.testHosts (d : Device) : Device :=
  let d := d.setFld Reg.safCmp 16 12 0
  let d := { d with safety := { d.safety with hostStopped := 0 } }
  (List.range 12).foldl (fun d p =>
    let d := d.setUnitOff (96 + p) false
    if d.splitCluster (p / 3) then d
    else if d.boot.hostPass.getLsbD p then d.orReg Reg.safCmp (2 ^ (16 + p))
    else { d with safety := { d.safety with hostStopped := d.safety.hostStopped ||| BitVec.ofNat 12 (2 ^ p) } }.setUnitOff
      (96 + p) true) d

/-- The slot taken and the boot carried on to the training of memory. -/
def Device.bootSlot (d : Device) (slot : Bool) : Device :=
  let d := (d.takeImage slot).testHosts
  { d with power := { d.power with phase := .training } }

/-- The slot that the ROM takes first: the higher security version, or slot 0 on a tie. -/
def Device.firstSlot (d : Device) : Bool := decide (fieldAt (d.header false) 8 4 < fieldAt (d.header true) 8 4)

/-- Step 4: the first slot, else the other, else the boot stops. -/
def Device.chooseSlot (d : Device) : Device :=
  let first := d.firstSlot
  if d.slotOk first then d.bootSlot first
  else
    let d := d.slotBad first
    if d.slotOk !first then { d with boot := { d.boot with triedOther := true } }.bootSlot (!first)
    else (d.slotBad !first).stopBoot

/-! ### Steps 1 to 3: comparators, identity, record -/

/-- The helper data of an enrolment (R394, R401). -/
def newHelper : List Byte := (List.range deviceAreaBytes).map Config.helperByte

/-- The helper data written to the device area at the enrolment of a blank part. -/
def Device.writeHelper (d : Device) : Device :=
  { d with boot := { d.boot with flash := memWrite d.boot.flash deviceArea newHelper } }.emit
    (.flashWrite deviceArea newHelper)

/-- The enrolment of a blank part: the helper data, the key, and the first record. -/
def Device.enrol (d : Device) : Device :=
  let r : RpRecord := { floor := 0, revoke := 0, counter := 1 }
  let d := d.writeHelper
  let d := d.emit (.flashCommand 0x9C (recordKey d.helperData))
  { d with sec := { d.sec with record := some r } }.writeRecord r

/-- The identity shown (R401, R402). -/
def Device.identify (d : Device) : Device :=
  let d := { d with sec := { d.sec with identity := true } }
  (d.orReg Reg.secStatus 2).putBytes (Reg.secIdPub 0) (edPublic (identityKey d.helperData)) 8

/-- Step 3 on a blank part: the boot stops where the flash refuses the key or the record (log entry 90). -/
def Device.enrolled (d : Device) (b : BootInputs) : Device × Bool :=
  let d := (d.enrol.identify).orReg Reg.secStatus 1
  if b.keyStatus = 0 && b.writeStatus = 0 then (d, true) else (d.orReg Reg.secSticky 8, false)

/-- Step 3, and whether the boot goes on: the record that the read answers must authenticate under the key of the helper data
(R398, R400 to R402). -/
def Device.readIdentity (d : Device) (b : BootInputs) : Device × Bool :=
  if b.record.isNone && !d.hasHelper then d.enrolled b
  else
    let taken := b.record.bind d.checkedRecord
    let d := if d.hasHelper then d.orReg Reg.secStatus 1 else d
    let d := d.readRecord
    if !b.pufOk then (d.orReg Reg.secSticky 1, b.record.isNone)
    else if taken.isSome then ({ d with sec := { d.sec with record := taken } }.identify, true)
    else (d.identify.orReg Reg.secSticky 8, false)

/-- The cause of a start (R392, R417). -/
def Device.causeOf (d : Device) : Word :=
  match d.power.start with
  | .powerOn => 0x10000
  | .warmReset => 0x20000
  | .wake => BitVec.ofNat 64 (0x40000 + d.power.wakePins.toNat * 256 + d.power.wakeCmp.toNat)

/-- The effect of BOOT_START. -/
def bootStart (d : Device) (b : BootInputs) : Device :=
  if !(d.power.railEn && (d.power.phase = .held || d.power.phase = .asleep)) then d
  else
    let cause := d.causeOf
    let d := if d.power.phase = .asleep then d.resetUnits else d
    let d := { d with power := { d.power with pwrGood := true, phase := .held, wakeCmp := 0, wakePins := 0 } }
    let d := { d with rank := b.rankHigh, boot := { d.boot with flash := b.flash, hostPass := b.hostPass } }
    let d := d.setReg Reg.cfgWakeCause cause
    let d := d.setFld Reg.safCmp 28 2 b.islandPass.toNat
    let d := d.setFld Reg.twnStatus 0 1 (if b.rankHigh then 1 else 0)
    if b.islandPass ≠ 3 then d.stopBoot
    else
      let p := d.readIdentity b
      if p.2 then p.1.chooseSlot else p.1.stopBoot

/-! ### Steps 6 to 9 -/

/-- Whether all eight channels are trained. -/
def Device.ddrReady (d : Device) : Bool := d.regBit Reg.ddrStatus 16

/-- The effect of DDR_TRAINING_DONE. -/
def ddrTrainingDone (d : Device) (failed : BitVec 8) : Device :=
  if d.power.phase ≠ .training then d
  else
    let d := d.orReg Reg.ddrSticky failed.toNat
    let d := d.setReg Reg.ddrStatus (BitVec.ofNat 64 ((255 - failed.toNat) + if failed = 0 then 2 ^ 16 else 0))
    { d with power := { d.power with phase := .zeroing } }

/-- The memory that step 7 leaves: every Quarry line and Bench zero, and DDR too unless its training failed. -/
def Device.zeroedMem (d : Device) : List Host.Cell :=
  if d.ddrReady then [] else d.mem.filter fun c => c.1 < 0x4000000000

/-- The effect of MEMORY_ZEROED: no data survives from before the start in what step 7 writes. -/
def memoryZeroed (d : Device) : Device :=
  if d.power.phase = .zeroing then { d with mem := d.zeroedMem, power := { d.power with phase := .copying } } else d

/-- Whether a section of the booted slot matches its digest. -/
def Device.sectionMatches (d : Device) (i : Nat) : Bool :=
  sha512 (d.sectionBytes d.boot.slot i) = sectionDigest (d.header d.boot.slot) i

/-- Check 6 of R397, over the sections that are copied. -/
def Device.copiesMatch (d : Device) : Bool := [1, 2, 3].all fun i => (i = 2 && !d.ddrReady) || d.sectionMatches i

/-- The section bytes at their destinations. -/
def Device.copySections (d : Device) : Device :=
  let s := d.boot.slot
  let d := { d with islandSram := memWrite [] 0 (d.sectionBytes s 1) }
  let d := if d.ddrReady then d.wr d.boot.hostEntry (d.sectionBytes s 2) else d
  d.wr d.boot.stestBase (d.sectionBytes s 3)

/-- The other slot taken after a digest failed: training is repeated where its DDR settings differ. -/
def Device.otherSlot (d : Device) : Device :=
  let bad := d.boot.slot
  let d := d.slotBad bad
  if d.boot.triedOther then d.stopBoot
  else if !d.slotOk !bad then (d.slotBad !bad).stopBoot
  else
    let rate := d.boot.rate
    let density := d.boot.density
    let d := { d with boot := { d.boot with triedOther := true } }.bootSlot (!bad)
    if d.boot.rate = rate && d.boot.density = density then { d with power := { d.power with phase := .zeroing } } else d

/-- No host pair released: every one is held back. -/
def Device.holdHosts (d : Device) : Device :=
  (List.range 12).foldl (fun d p => d.setUnitOff (96 + p) true) { d with safety := { d.safety with hostStopped := 0xFFF } }

/-- Every VDD_ENG regulator commanded to 0.550 V (R413). -/
def Device.firstRails (d : Device) : Device :=
  (List.range 4).foldl (fun d i => (d.setReg (Reg.pwrRail i) 550).emit (.avs i 550)) d

/-- Step 9: the checker tested, FAULT_N released, the images started, and EMPTY reached. -/
def Device.bootDone (d : Device) (fires : Bool) : Device :=
  let d := if fires then (d.orReg Reg.chkTest 0x100).orReg Reg.safPins 1 else d
  let d := if d.ddrReady then d else d.holdHosts
  ({ d with power := { d.power with phase := .up } }.firstRails).enter .empty

/-- The effect of SECTIONS_COPIED. -/
def sectionsCopied (d : Device) (fires : Bool) : Device :=
  if d.power.phase ≠ .copying then d
  else if d.copiesMatch then (d.copySections).bootDone fires
  else d.otherSlot

/-! ### The commands -/

/-- BOOT_START. -/
def execBootStart (b : BootInputs) (s : State) : Host.Outcome State Fault Refusal := actAon s fun d => bootStart d b

/-- DDR_TRAINING_DONE. -/
def execDdrTrainingDone (failed : BitVec 8) (s : State) : Host.Outcome State Fault Refusal :=
  actAon s fun d => ddrTrainingDone d failed

/-- MEMORY_ZEROED. -/
def execMemoryZeroed (s : State) : Host.Outcome State Fault Refusal := actAon s memoryZeroed

/-- SECTIONS_COPIED. -/
def execSectionsCopied (checkerFires : Bool) (s : State) : Host.Outcome State Fault Refusal :=
  actAon s fun d => sectionsCopied d checkerFires

end Sys2Proof.Machine
end

