-- ==== Sys2Proof/Machine/Governor.lean ====
section
/-!
DEFINITION. The pace governor and the operating points: windows, rail steps, pace faults, the take-up of a point, and what RUN
and STOP do with it (R62 to R65, R67, R347, R411 to R415).
-/

namespace Sys2Proof.Machine

/-! ### The operating points -/

/-- The floor, guard and release counts of an operating point (the table "Beat rates"). -/
def pointCounts : Nat → Nat × Nat × Nat
  | 1 => (1792, 1864, 1972)
  | 2 => (2688, 2796, 2957)
  | 3 => (3456, 3595, 3802)
  | _ => (0, 0, 0)

/-- The minimum, start and ceiling of VDD_ENG in mV at an operating point (R63). -/
def pointVolts : Nat → Nat × Nat × Nat
  | 1 => (550, 600, 680)
  | 2 => (620, 700, 780)
  | 3 => (700, 800, 900)
  | _ => (550, 550, 550)

/-- The operating point in force; 0 for none. -/
def Device.point (d : Device) : Nat := d.fld Reg.pwrStatus 0 2

/-- The highest operating point that the boot configuration and the grade allow (R3, R397). -/
def Device.highestPoint (d : Device) : Nat := min d.boot.maxOpp.toNat (if d.part.grade = 2 then 2 else 3)

/-! ### Rails -/

/-- One die of the governor. -/
def Device.die (d : Device) (i : Fin 4) : DieGov := d.gov.dies[i]

/-- The device with one die of the governor replaced. -/
def Device.setDie (d : Device) (i : Fin 4) (x : DieGov) : Device :=
  { d with gov := { d.gov with dies := d.gov.dies.set i x } }

/-- The rail of a die in mV. -/
def Device.rail (d : Device) (i : Fin 4) : Nat := (d.reg (Reg.pwrRail i)).toNat

/-- One step of a rail towards a target; any change makes the window in progress a settling one and starts the count of rule
3 again. -/
def Device.stepRail (d : Device) (i : Fin 4) (target : Nat) : Device :=
  let v := if d.rail i < target then d.rail i + 5 else d.rail i - 5
  let d := d.setDie i { d.die i with settling := true, clean := 0 }
  ((d.setReg (Reg.pwrRail i) (BitVec.ofNat 64 v)).noted (.rail i)).emit (.avs i v)

/-- A ramp begun with its first step; a rail already at the target ramps nowhere. -/
def Device.startRamp (d : Device) (i : Fin 4) (target : Nat) : Device :=
  if d.rail i = target then d.setDie i { d.die i with ramp := none }
  else (d.setDie i { d.die i with ramp := some target }).stepRail i target

/-- The four dies. -/
def allDies : List (Fin 4) := [0, 1, 2, 3]

/-- Whether no rail is ramping. -/
def Device.railsStand (d : Device) : Bool := allDies.all fun i => (d.die i).ramp.isNone

/-- The governor's own raising step counted. -/
def Device.countRaise (d : Device) : Device := d.addCount Reg.pwrGovSteps 0 16 1

/-- The governor's own lowering step counted. -/
def Device.countLower (d : Device) : Device := d.addCount Reg.pwrGovSteps 16 16 1

/-! ### The take-up of a point (R414) -/

/-- A take-up begun: rails below the new start voltage go up to it, rails above the new ceiling down to it. -/
def Device.beginTakeUp (d : Device) (p : BitVec 2) : Device :=
  let v := pointVolts p.toNat
  let d := { d with gov := { d.gov with asked := none, takeUp := some p } }
  allDies.foldl (fun d i =>
    if d.rail i < v.2.1 then d.startRamp i v.2.1
    else if v.2.2 < d.rail i then d.startRamp i v.2.2
    else d) d

/-- The counts of a point put in force. -/
def Device.forcePoint (d : Device) (p : Nat) : Device :=
  let c := pointCounts p
  let d := d.setReg Reg.pwrStatus (if p = 0 then 0 else BitVec.ofNat 64 (0x10 + p))
  d.setReg Reg.pwrCounts (BitVec.ofNat 64 (if p = 0 then 0 else c.2.1 * 2 ^ 16 + c.1))

/-! ### RUN's end (R337, R374, R412) -/

/-- The frame queues of valid queue registers running, with every count 0. -/
def Device.startQueues (d : Device) : Device :=
  (List.range 48).foldl (fun d q =>
    let ctrl := if q < 32 then Reg.tsnQCtrl q else Reg.gwyHqCtrl (q - 32)
    d.setQueue q (if d.regBit ctrl 0 then { FrameQueue.unset with state := .running } else FrameQueue.unset)) d

/-- The CAN controllers with their transmit queues empty; their error counts and what has come of them stay (R379). -/
def quietCan (can : Table CanCtl) : Table CanCtl :=
  can.filterMap fun e =>
    let c := { e.2 with txq := [] }
    if c = CanCtl.idle then none else some (e.1, c)

/-- What entering RUNNING sets: due times to all ones, streams, queues, controllers and gates at their starts. -/
def Device.startUnits (d : Device) : Device :=
  let d := { d with regs := d.regs.filter fun e => !(0x510000 ≤ e.1 && e.1 < 0x514000 && e.1 % 32 = 24) }
  let d := { d with safety := { d.safety with vigilArmed := [], vigilMissed := [] } }
  let d := { d with cal := Calendar.reset, csi := [], can := quietCan d.can, acf := [], sw := Switch.reset, pools := [], jobs := [] }
  (d.setReg Reg.cfgCtlOut (d.boot.ctlSafe.setWidth 64)).startQueues

/-- RUN completed. -/
def Device.enterRunning (d : Device) : Device := { d.startUnits with busy := none }.enter .running

/-- The end of a take-up: the new counts in force, RUN completed or the change request done. -/
def Device.switchCounts (d : Device) (p : BitVec 2) : Device :=
  let d : Device := { d.forcePoint p.toNat with gov := { d.gov with takeUp := none } }
  let d := allDies.foldl (fun d i => d.setDie i { d.die i with settling := false, clean := 0 }) d
  if d.busy = some .run then d.enterRunning else d.setFld Reg.cfgOppStatus 4 2 1

/-! ### Windows (R62, R65) -/

/-- The count of a core in the window that has ended. -/
def countOf (counts : List (BitVec 16)) (core : Nat) : Nat := (counts.getD core 0).toNat

/-- The counts of a die's cores. -/
def dieCounts (counts : List (BitVec 16)) (i : Fin 4) : List Nat := (List.range 24).map fun k => countOf counts (24 * i + k)

/-- PWR_CORE_RATEn of every core after a window in which an operating point is in force (R67; log entry 56). -/
def Device.noteRates (d : Device) (counts : List (BitVec 16)) : Device :=
  (List.range 96).foldl (fun d n =>
    let c := countOf counts n
    d.setReg (Reg.pwrCoreRate n) (BitVec.ofNat 64 (min c (d.fld (Reg.pwrCoreRate n) 16 16) * 2 ^ 16 + c))) d

/-- A pace fault of a die: the records, and the ramp to a ceiling, which during a take-up is the new point's (log entry 56). -/
def Device.paceFault (d : Device) (i : Fin 4) (core count ceiling : Nat) : Device :=
  let first := d.reg Reg.pwrPaceFault = 0
  let d := d.recordIf first Reg.pwrPaceRecord (BitVec.ofNat 64 (count * 2 ^ 16 + core))
  let d := d.recordIf first Reg.pwrPaceTime d.ns
  let d := (d.orReg Reg.pwrPaceFault (2 ^ i.val)).latch 2
  if d.rail i < ceiling && (d.die i).ramp ≠ some ceiling then
    let d := d.startRamp i ceiling
    if d.gov.takeUp.isSome then d else d.countRaise
  else d

/-- The first core of a die below a floor count, with its count. -/
def slowCore (counts : List (BitVec 16)) (i : Fin 4) (floor : Nat) : Option (Nat × Nat) :=
  ((List.range 24).find? fun k => decide (countOf counts (24 * i + k) < floor)).map fun k =>
    (24 * i + k, countOf counts (24 * i + k))

/-- The end of a window on a die between a change request and the switch of counts: rule 1 alone, with the lower of the two
floors (R414; log entry 56). -/
def Device.takeUpWindow (d : Device) (counts : List (BitVec 16)) (p : BitVec 2) (i : Fin 4) : Device :=
  if d.point = 0 then d
  else
    match slowCore counts i (min (pointCounts d.point).1 (pointCounts p.toNat).1) with
    | some x => d.paceFault i x.1 x.2 (pointVolts p.toNat).2.2
    | none => d

/-- The end of a window on a die at a point in force: rules 1 to 3 of R62. -/
def Device.dieWindow (d : Device) (counts : List (BitVec 16)) (i : Fin 4) : Device :=
  let c := pointCounts d.point
  let v := pointVolts d.point
  let g := d.die i
  let l := dieCounts counts i
  let settling := g.settling || g.ramp.isSome
  let d := d.setDie i { g with settling := false }
  match slowCore counts i c.1 with
  | some x => (d.setDie i { d.die i with clean := 0 }).paceFault i x.1 x.2 v.2.2
  | none =>
    if settling then d
    else if l.any (fun n => decide (n < c.2.1)) && decide (d.rail i < v.2.2) then (d.stepRail i v.2.2).countRaise
    else
      let clean := if l.all fun n => decide (c.2.2 ≤ n) then min 64 (g.clean + 1) else 0
      let d := d.setDie i { d.die i with clean := clean }
      if clean = 64 && !d.regBit Reg.pwrPaceFault i && decide (v.1 < d.rail i) then (d.stepRail i v.1).countLower else d

/-- Whether some loaded native slab was admitted under a point of a higher floor rate (R108). -/
def Device.boundsHeld (d : Device) (p : Nat) : Bool :=
  d.ctxs.any fun x => x.2.loaded.any fun l => match l.2 with
    | .slab s => decide (p < s.oppoint.toNat)
    | .package _ => false

/-- A change request refused for a cause (R415). -/
def Device.refuseChange (d : Device) (cause p : Nat) : Device :=
  (d.setReg Reg.cfgOppStatus (BitVec.ofNat 64 (cause * 256 + 0x30 + p))).orReg Reg.cfgSticky 2

/-- A change request that waited for an admission, once none is in progress: begun, or refused where a slab admitted meanwhile
holds bounds that the point would break (R108, R415). -/
def Device.beginPending (d : Device) : Device :=
  match d.gov.asked with
  | none => d
  | some p =>
    if d.admissionBusy || d.busy.isSome then d
    else if d.boundsHeld p.toNat then
      { d with gov := { d.gov with asked := none } }.refuseChange 2 p.toNat
    else d.beginTakeUp p

/-- The end of a window with a point asked for: its counts are taken once every rail has stood through it. -/
def Device.askedWindow (d : Device) (counts : List (BitVec 16)) (p : BitVec 2) : Device :=
  let stood := d.railsStand
  let d := allDies.foldl (fun d i => d.takeUpWindow counts p i) d
  if d.gov.takeUp.isNone then d.beginPending
  else if stood && d.railsStand then d.switchCounts p
  else d

/-- Whether a window ends at the tick that is current, and has not been taken: windows cover 256 ticks each from the always-on
domain's reset on (R62). -/
def Device.windowDue (d : Device) : Bool := d.alm.ticks % 256 = 0 && decide (d.gov.window < d.alm.ticks / 256)

/-- The effect of GOVERNOR_WINDOW_END; the counts of cores are those of the windows in which the governor is active (log entry
56). -/
def governorWindowEnd (d : Device) (counts : List (BitVec 16)) : Device :=
  if !d.windowDue then d
  else
    let d := { d with gov := { d.gov with window := d.alm.ticks / 256 } }
    let d := if d.point = 0 then d else d.noteRates counts
    match d.gov.wanted with
    | some p => d.askedWindow counts p
    | none => if d.point = 0 then d else allDies.foldl (fun d i => d.dieWindow counts i) d

/-! ### STOP (R411) -/

/-- Whether every context is CLOSED. -/
def Device.allClosed (d : Device) : Bool := d.ctxs.all fun x => x.2.st = .closed

/-- Steps 2 to 4 of STOP: tenancies off, calendar, cameras, queues and gateway stopped, rails commanded down. -/
def Device.stopUnits (d : Device) : Device :=
  let d : Device := { d with
    tenancies := []
    outbound := d.outbound.filter fun o => o.owner = .fetch .admin
    cal := Calendar.reset
    queues := d.queues.map fun q => (q.1, if q.2.state = .unset then q.2 else { q.2 with state := .stopped, waiting := [] })
    csi := d.csi.map fun x => (x.1, { x.2 with frame := none })
    can := quietCan d.can
    acf := []
    sw := Switch.reset
    gov := { d.gov with asked := none, takeUp := none } }
  let d := (List.range 24).foldl (fun d c => d.setStest c { d.stest c with entry := none, running := none }) d
  allDies.foldl (fun d i => d.startRamp i 550) (d.forcePoint 0)

/-- STOP carried on as far as it can be: once every context is CLOSED, and EMPTY once the rails stand. -/
def Device.stopProgress (d : Device) : Device :=
  if d.busy ≠ some .stop || !d.allClosed then d
  else
    let d := if d.point = 0 then d else d.stopUnits
    if d.railsStand then { d with busy := none }.enter .empty else d

/-! ### Rail steps (R65, R411, R414) -/

/-- The effect of RAIL_STEP: the next step of a ramp, or its end once the last step has had its 2 µs. A step of R65 is counted, but
none of a take-up, and none of STOP's, which come once no point is in force (R67). Before the last step has had its 2 µs nothing
changes. -/
def railStep (d : Device) (i : Fin 4) : Device :=
  match (d.die i).ramp with
  | none => d
  | some target =>
    if d.tooSoon (.rail i) then d
    else if d.rail i = target then (d.setDie i { d.die i with ramp := none }).stopProgress
    else
      let d := d.stepRail i target
      if d.gov.takeUp.isNone && decide (d.point ≠ 0) then d.countRaise else d

/-! ### Change requests (R415) -/

/-- The first cause for which a request is refused, in the order of R415. -/
def Device.oppVeto (d : Device) (p : Nat) : Option Nat :=
  if d.cfg ≠ .running || d.busy.isSome then some 4
  else if p = 0 then some 5
  else if d.highestPoint < p then some 1
  else if d.gov.wanted.isSome then some 3
  else if p ≠ d.point && d.boundsHeld p then some 2
  else none

/-- A write to CFG_OPP_REQ. -/
def cfgOppReq (d : Device) (v : Half) : Device :=
  let d := d.reply .written
  let p := v.toNat % 4
  match d.oppVeto p with
  | some cause => d.refuseChange cause p
  | none =>
    if p = d.point then d.setReg Reg.cfgOppStatus (BitVec.ofNat 64 (0x10 + p))
    else
      let d := d.setReg Reg.cfgOppStatus (BitVec.ofNat 64 (0x20 + p))
      if d.admissionBusy then { d with gov := { d.gov with asked := some (BitVec.ofNat 2 p) } }
      else d.beginTakeUp (BitVec.ofNat 2 p)

/-! ### The commands -/

/-- GOVERNOR_WINDOW_END. -/
def execGovernorWindowEnd (counts : List (BitVec 16)) (s : State) : Host.Outcome State Fault Refusal :=
  actIf (Instr.governorWindowEnd counts).wellFormed s fun d => governorWindowEnd d counts

/-- RAIL_STEP. -/
def execRailStep (die : Fin 4) (s : State) : Host.Outcome State Fault Refusal := actLive s fun d => railStep d die

/-- CFG_OPP_REQ. -/
def execCfgOppReq (who : Who) (value : Half) (s : State) : Host.Outcome State Fault Refusal :=
  actBy who s fun d => cfgOppReq d value

end Sys2Proof.Machine
end

