-- ==== Sys2Proof/Machine/Seal.lean ====
section
/-!
DEFINITION. The configuration image and the checks of the seal (R186, R195, R206, R208 to R210, R215, R232, R280, R323, R332,
R367, R368, R378, R380, R382, R407, R408, R424, R447).
-/

namespace Sys2Proof.Machine

/-! ### The configuration image (R407, R424) -/

/-- The value of an image register: HIF_PCx_CTRL shows its role, with link_up taken as 0. -/
def Device.imageValue (d : Device) (a : Nat) : Word :=
  if a = Reg.hifPcaCtrl then d.reg a ||| d.boot.pcaRole.setWidth 64
  else if a = Reg.hifPcbCtrl then d.reg a ||| d.boot.pcbRole.setWidth 64
  else d.reg a

/-- The bytes that the configuration image takes from an offset: those of the image register that starts there. -/
def Device.imageAt (d : Device) (a : Nat) : List Byte :=
  match regRowAt a with
  | some r => if r.image then bytesOfNat r.bytes (d.imageValue a).toNat else []
  | none => []

/-- The configuration image: every image register of every block, in ascending address. -/
def Device.image (d : Device) : List Byte := (List.range (18 * 0x40000)).flatMap fun k => d.imageAt (4 * k)

/-- The digest that CFG_SEAL_DIGEST holds. -/
def Device.sealDigest (d : Device) : List Byte := d.getBytes (Reg.cfgSealDigest 0) 16

/-! ### A failed check -/

/-- The first index below `n` at which a check fails. -/
def firstFail (n : Nat) (bad : Nat → Bool) : Option Nat := (List.range n).find? bad

/-- The first index at which an entry fails alone or conflicts with one of lower number. -/
def firstConflict (n : Nat) (bad : Nat → Bool) (meets : Nat → Nat → Bool) : Option Nat :=
  firstFail n fun i => bad i || (List.range i).any fun j => meets i j

/-- The first failure of a list of sub-checks. -/
def firstOf (l : List (Option Nat)) : Option Nat := l.findSome? id

/-- A check of the whole configuration, whose index is 0. -/
def whole (bad : Bool) : Option Nat := if bad then some 0 else none

/-! ### REGULATION and CAPACITY (R186, R195, R206, R447) -/

/-- Whether a regulation window is valid. -/
def Device.mrgValid (d : Device) (w : Nat) : Bool := d.regBit (Reg.mrgWinAttr w) 0

/-- The base of a regulation window. -/
def Device.mrgBase (d : Device) (w : Nat) : Nat := (d.reg (Reg.mrgWinBase w)).toNat

/-- The last byte of a regulation window. -/
def Device.mrgLimit (d : Device) (w : Nat) : Nat := (d.reg (Reg.mrgWinLimit w)).toNat

/-- Whether a valid regulation window fails alone. -/
def Device.mrgBad (d : Device) (w : Nat) : Bool :=
  d.mrgValid w &&
    (decide (d.mrgLimit w < d.mrgBase w) ||
      match d.targetOf (d.mrgBase w), d.targetOf (d.mrgLimit w) with
      | some a, some b => a ≠ b
      | _, _ => true)

/-- Whether two valid regulation windows overlap. -/
def Device.mrgMeets (d : Device) (i j : Nat) : Bool :=
  d.mrgValid i && d.mrgValid j && decide (d.mrgBase i ≤ d.mrgLimit j) && decide (d.mrgBase j ≤ d.mrgLimit i)

/-- Whether a class has a code or reservations that its kind forbids. -/
def Device.classBad (d : Device) (c : Nat) : Bool :=
  d.classKind c = 3 || (d.classKind c = 0 && (List.range 4).any fun t => d.resAt c t ≠ 0)

/-- The sub-checks of REGULATION. -/
def Device.sealRegulation (d : Device) : Option Nat :=
  firstOf [firstConflict 16 d.mrgBad d.mrgMeets, whole (d.classKind (d.fld Reg.mrgCtrl 0 3) ≠ 0),
    whole (!(1000 ≤ d.fld Reg.ddrCntWindow 0 20 && d.fld Reg.ddrCntWindow 0 20 ≤ 1000000)), firstFail 8 d.classBad]

/-- The derated DDR bandwidth in units of 10⁶ B/s (R184). -/
def Device.ddrRate (d : Device) : Nat :=
  match d.boot.rate with
  | 0 => 307200
  | 1 => 358400
  | _ => 409600

/-- 80 % of a target's capacity, in units of 10⁶ B/s. -/
def Device.capacity (d : Device) (target : Nat) : Nat := if target < 2 then d.ddrRate * 4 / 10 else 12800000

/-- Whether a class has a window on a target. -/
def Device.classOn (d : Device) (c target : Nat) : Bool :=
  (List.range 16).any fun w => d.mrgValid w && d.fld (Reg.mrgWinAttr w) 4 3 = c && d.targetOf (d.mrgBase w) = some target

/-- The sub-checks of CAPACITY. -/
def Device.sealCapacity (d : Device) : Option Nat :=
  firstOf [
    firstFail 4 fun t => decide (d.capacity t < ((List.range 8).map fun c => if d.classKind c = 0 then 0 else d.resAt c t).sum),
    firstFail 8 fun c => (List.range 4).any fun t => d.classOn c t && decide (d.resAt c t < d.fixedGrants c)]

/-! ### PARTITION and CALENDAR (R208 to R210, R215) -/

/-- Whether a valid partition names no cluster. -/
def Device.partBad (d : Device) (p : Nat) : Bool := d.partValid p && d.partMask p = 0

/-- Whether two valid partitions name the same cluster. -/
def Device.partMeets (d : Device) (i j : Nat) : Bool := d.partValid i && d.partValid j && d.partMask i &&& d.partMask j ≠ 0

/-- Whether a valid context breaks R209. -/
def Device.ctxBad (d : Device) (n : Nat) : Bool :=
  d.ctxValid n &&
    (let mask := d.ctxMask n
     let p := d.ctxPart n
     let base := d.fld (Reg.calCtx n) 32 4
     let len := d.fld (Reg.calCtx n) 40 5
     !d.partValid p || mask = 0 || mask &&& d.partMask p ≠ mask || decide (16 < base + len) || decide (len < 4) ||
       ((d.ctxSafety n || d.ctxServing n) && d.partLegacy p) ||
       (d.ctxSafety n && decide (((maskClusters mask).map dieOfCluster).dedup.length ≤ 1)))

/-- The valid contexts resident on a core. -/
def Device.residents (d : Device) (core : Nat) : List Nat :=
  (List.range 256).filter fun c => d.ctxValid c && inMask (d.ctxMask c) (core / 4)

/-- Whether a core breaks R210. -/
def Device.coreBad (d : Device) (core : Nat) : Bool :=
  let l := d.residents core
  decide (4 < l.length) || l.any fun a => l.any fun b =>
    decide (a < b) && overlaps (d.shareBase a) (d.shareBytes a) (d.shareBase b) (d.shareBytes b)

/-- The sub-checks of PARTITION. -/
def Device.sealPartition (d : Device) : Option Nat :=
  firstOf [firstConflict 16 d.partBad d.partMeets, firstFail 256 d.ctxBad, firstFail 96 d.coreBad]

/-- Whether a valid calendar entry fails alone. -/
def Device.entryBad (d : Device) (i : Nat) : Bool :=
  match d.entry i with
  | none => false
  | some e =>
    (d.regBit (Reg.calEntry i) 62 && d.regBit (Reg.calEntry i) 61) || decide (e.stop ≤ e.start) ||
      decide (d.frameTicks < e.stop) ||
      match e.kind with
      | .slice c => !d.ctxValid c || d.ctxLegacy c
      | .pool p => decide (16 ≤ p) || !(d.partValid p && d.partLegacy p)
      | .holiday c => decide (23 < c)

/-- Whether two valid entries cover a core at one time. -/
def Device.entryMeets (d : Device) (i j : Nat) : Bool :=
  match d.entry i, d.entry j with
  | some a, some b =>
    decide (a.start < b.stop) && decide (b.start < a.stop) && decide (d.entryMask a &&& d.entryMask b ≠ 0)
  | _, _ => false

/-- The check of the calendar (log entry 96). -/
def Device.sealCalendar (d : Device) : Option Nat :=
  firstOf [whole (!(1 ≤ d.fld Reg.calFrame 0 14 && d.fld Reg.calFrame 0 14 ≤ 10000)),
    firstConflict 1024 d.entryBad d.entryMeets]

/-! ### POOL, HOST_IF and SAFETY (R232, R280, R323, R332) -/

/-- Whether a range lies within one Quarry and one valid regulation window. -/
def Device.inOneWindow (d : Device) (a n : Nat) : Bool :=
  decide (0 < n) && (match d.region a, d.region (a + n - 1) with
    | .quarry x, .quarry y => x = y
    | _, _ => false) &&
  (List.range 16).any fun w => d.mrgValid w && decide (d.mrgBase w ≤ a) && decide (a + n - 1 ≤ d.mrgLimit w)

/-- The check of the Foreman pools. -/
def Device.sealPool (d : Device) : Option Nat :=
  firstFail 16 fun p => d.partValid p && d.partLegacy p &&
    !d.inOneWindow (d.reg (Reg.fmnPoolBase p)).toNat (d.poolPages p * 0x10000)

/-- The check of the host interface. -/
def Device.sealHostIf (d : Device) : Option Nat :=
  whole ([Reg.hifPcaCtrl, Reg.hifPcbCtrl].any fun a => !(5 ≤ d.fld a 16 16 && d.fld a 16 16 ≤ 5000))

/-- Whether a partition's checker settings break R323. -/
def Device.chkBad (d : Device) (p : Nat) : Bool :=
  let w := d.fld (Reg.chkPart p) 0 7
  let t := d.fld (Reg.chkPart p) 8 7
  !(2 ≤ w && w ≤ 64) || !(2 ≤ t && t ≤ 64) || decide (w < t)

/-- The sub-checks of SAFETY. -/
def Device.sealSafety (d : Device) : Option Nat :=
  let w := d.fld Reg.safSupCtrl 0 7
  let l := d.fld Reg.safSupCtrl 8 6
  let size := (d.boot.sections.getD 3 (0, 0)).2
  let base := d.fld Reg.safStestRegion 16 32 * 0x10000
  let region := d.fld Reg.safStestRegion 48 16 * 0x10000
  firstOf [firstFail 16 d.chkBad, whole (!(1 ≤ w && w ≤ 64) || !(1 ≤ l && l ≤ 63) || decide (w < l)),
    firstFail 256 fun k => d.regBit (Reg.safStestChunk k) 31 && d.fld (Reg.safStestChunk k) 20 2 = 3,
    whole (size ≠ 0 && !(decide (base ≤ d.boot.stestBase) && decide (d.boot.stestBase + size ≤ base + region) &&
      d.inOneWindow base region))]

/-! ### NETWORK (R367, R368, R378, R380, R382 and the CAN bit timing) -/

/-- Whether two valid forwarding entries have one key. -/
def Device.fdbMeets (d : Device) (i j : Nat) : Bool :=
  let k := d.reg (Reg.tsnFdbKey i)
  bitOf k 63 && k = d.reg (Reg.tsnFdbKey j)

/-- Whether the intervals of a port's gate list do not add up to its cycle. -/
def Device.gclBad (d : Device) (n : Nat) : Bool :=
  let len := d.fld (Reg.tsnGclLen n) 0 9
  len ≠ 0 && ((List.range (min len 256)).map fun e => d.fld (Reg.tsnGcl n e) 0 24 * 10).sum ≠ d.fld (Reg.tsnGclCycle n) 0 32

/-- Whether an ACF stream is in use in a direction. -/
def Device.acfDir (d : Device) (s : Nat) (transmit : Bool) : Bool :=
  d.regBit (Reg.gwyAcfCtrl s) 0 && d.regBit (Reg.gwyAcfCtrl s) 1 = transmit

/-- Whether a gateway port is a source. -/
def Device.isSource (d : Device) (p : Nat) : Bool := p < 16 || (p < 48 && d.acfDir (p - 16) false) || decide (56 ≤ p)

/-- Whether a gateway port is a destination. -/
def Device.isDestination (d : Device) (p : Nat) : Bool := p < 16 || (p < 48 && d.acfDir (p - 16) true) || decide (48 ≤ p && p < 56)

/-- Whether a route entry is valid. -/
def Device.routeValid (d : Device) (i : Nat) : Bool := d.regBit (Reg.gwyRouteMatch i) 31

/-- The valid destinations of a route entry, in order. -/
def Device.routeDests (d : Device) (i : Nat) : List Word :=
  ((List.range 4).map fun j => d.reg (Reg.gwyRouteDest i j)).filter fun w => bitOf w 63

/-- Whether a valid route entry matches no source or sends to no destination (R380). -/
def Device.routePortsBad (d : Device) (i : Nat) : Bool :=
  d.routeValid i && (!d.isSource (d.fld (Reg.gwyRouteMatch i) 24 6) ||
    (d.routeDests i).any fun w => !d.isDestination (bitsAt w 48 6))

/-- Whether a destination of a valid route entry breaks R382. -/
def Device.routeFormBad (d : Device) (i : Nat) : Bool :=
  d.routeValid i && (d.routeDests i).any fun w =>
    (!bitOf w 62 && !bitOf w 61 && decide (0x7FF < bitsAt w 0 29)) ||
      (bitOf w 60 && decide (bitsAt w 48 6 < 16) && d.fld (Reg.gwyCanCtrl (bitsAt w 48 6)) 0 2 = 1)

/-- Whether a camera stream is enabled. -/
def Device.csiEnabled (d : Device) (s : Nat) : Bool := d.regBit (Reg.csiSctrl s) 0

/-- The stride of a stream's buffers. -/
def Device.csiStride (d : Device) (s : Nat) : Nat := d.fld (Reg.csiSstride s) 0 32

/-- The frame length of a stream. -/
def Device.csiLength (d : Device) (s : Nat) : Nat := d.fld (Reg.csiSlen s) 0 32

/-- The number of buffers of a stream. -/
def Device.csiBuffers (d : Device) (s : Nat) : Nat := d.fld (Reg.csiSctrl s) 8 7

/-- Whether an enabled camera stream breaks the first rule of R378. -/
def Device.csiBad (d : Device) (s : Nat) : Bool :=
  let n := d.csiBuffers s
  let len := d.csiLength s
  let base := d.reg (Reg.csiSbase s)
  d.csiEnabled s && (!(2 ≤ n && n ≤ 64) || !(16 ≤ len && len ≤ 67108800) || base.toNat % 64 ≠ 0 || bitsAt base 48 16 ≠ 0 ||
    d.csiStride s % 64 ≠ 0 || decide (d.csiStride s < 64 + ceilDiv len 64 * 64))

/-- Whether a valid frame queue has a bad size or base. -/
def queueBad (ctrl base : Word) : Bool :=
  let n := bitsAt ctrl 4 4
  bitOf ctrl 0 && (!(4 ≤ n && n ≤ 12) || base.toNat % (32 * 2 ^ n) ≠ 0)

/-- Whether an enabled controller has a bit-timing field of zero. -/
def Device.canTimingBad (d : Device) (k : Nat) : Bool :=
  let n := fun lo len => d.fld (Reg.gwyCanNbt k) lo len = 0
  let t := fun lo len => d.fld (Reg.gwyCanDbt k) lo len = 0
  d.fld (Reg.gwyCanCtrl k) 0 2 ≠ 0 && (n 24 7 || n 17 7 || n 8 9 || n 0 8 || t 20 4 || t 16 4 || t 8 5 || t 0 5)

/-- The checks of NETWORK, in the order in which the table of R408 names their rules (log entry 96). -/
def Device.sealNetwork (d : Device) : Option Nat :=
  firstOf [
    firstConflict 4096 (fun _ => false) d.fdbMeets,
    firstFail 10 d.gclBad,
    firstFail 4096 d.routePortsBad,
    firstFail 4096 d.routeFormBad,
    firstFail 64 d.csiBad,
    firstFail 64 fun s => d.csiEnabled s && d.fld (Reg.csiPortCtrl (s / 16)) 0 2 = 0,
    firstFail 4 fun p => d.fld (Reg.csiPortCtrl p) 0 2 ≠ 0 &&
      !(8 ≤ d.fld (Reg.csiPortCtrl p) 2 9 && d.fld (Reg.csiPortCtrl p) 2 9 ≤ 450),
    firstFail 32 fun q => queueBad (d.reg (Reg.tsnQCtrl q)) (d.reg (Reg.tsnQBase q)),
    firstFail 16 fun k => queueBad (d.reg (Reg.gwyHqCtrl k)) (d.reg (Reg.gwyHqBase k)),
    firstFail 32 fun s => d.regBit (Reg.gwyAcfCtrl s) 0 && decide (100 < d.fld (Reg.gwyAcfCtrl s) 8 8),
    firstFail 16 d.canTimingBad]

/-! ### The seal (R408) -/

/-- The first check that fails, with its reason and index; `digest` is that of the image. -/
def Device.sealVeto (d : Device) (digest : List Byte) : Option (Nat × Nat) :=
  let opp := d.fld Reg.cfgOpp 0 2
  let l : List (Nat × Option Nat) := [
    (0x01, whole (digest ≠ d.sealDigest)),
    (0x02, whole (!d.boot.cfgDigests.isEmpty && !d.boot.cfgDigests.contains digest)),
    (0x03, whole (opp = 0 || decide (d.highestPoint < opp))),
    (0x04, whole !d.ddrReady),
    (0x05, d.sealRegulation),
    (0x06, d.sealCapacity),
    (0x07, d.sealPartition),
    (0x08, d.sealCalendar),
    (0x09, d.sealPool),
    (0x0A, d.sealHostIf),
    (0x0B, d.sealSafety),
    (0x0C, d.sealNetwork)]
  l.findSome? fun c => c.2.map fun i => (c.1, i)

end Sys2Proof.Machine
end

