-- ==== Sys2Proof/Machine/Configure.lean ====
section
/-!
DEFINITION. The configuration commands: LOAD, SEAL, RUN, STOP, SLEEP and RESET, the CTL_OUT outputs, and the end of a context's
scrub, on which STOP may wait (R405 to R412, R416, R418).
-/

namespace Sys2Proof.Machine

/-- A write to CFG_CMD recorded (R406). -/
def Device.result (d : Device) (n : BitVec 3) : Device := { d with lastResult := n }

/-- A command of CFG_CMD taken where its conditions hold, in the order of R406: busy, requester, state. -/
def Device.command (d : Device) (who : Who) (islandOnly : Bool) (states : List CfgState) (f : Device → Device) : Device :=
  let d := d.reply .written
  if d.busy.isSome then d.result 3
  else if islandOnly && !whoIsIsland who then d.result 2
  else if !states.contains d.cfg then d.result 1
  else f (d.result 0)

/-- The effect of LOAD: register values are kept. -/
def cfgLoad (d : Device) (who : Who) : Device := d.command who false [.empty, .refused] fun d => d.enter .loading

/-- The effect of SEAL: its checks run until SEAL_COMPLETE. -/
def cfgSeal (d : Device) (who : Who) : Device := d.command who false [.loading] fun d => { d with busy := some .seal }

/-- A refused seal. -/
def Device.refuseSeal (d : Device) (reason index : Nat) : Device :=
  let d := d.setReg Reg.cfgRefusal (BitVec.ofNat 64 (index * 2 ^ 16 + reason))
  { d.orReg Reg.cfgSticky 1 with busy := none }.enter .refused

/-- The end of a seal whose image has a digest: refused by the first check that fails, else SEALED. -/
def Device.sealEnd (d : Device) (digest : List Byte) : Device :=
  match d.sealVeto digest with
  | some v => d.refuseSeal v.1 v.2
  | none => { d.putBytes (Reg.secCfgDigest 0) digest 16 with busy := none }.enter .sealed

/-- The effect of SEAL_COMPLETE. -/
def sealComplete (d : Device) : Device := if d.busy ≠ some .seal then d else d.sealEnd (sha512 d.image)

/-- The effect of RUN: the operating point of CFG_OPP is taken up, and RUNNING follows the switch of counts. -/
def cfgRun (d : Device) (who : Who) : Device :=
  d.command who true [.sealed] fun d => { d with busy := some .run }.beginTakeUp (BitVec.ofNat 2 (d.fld Reg.cfgOpp 0 2))

/-- Every OPEN context closed as by CLOSE. -/
def Device.closeAll (d : Device) : Device :=
  d.ctxs.foldl (fun d x => if x.2.st = .opened then d.beginClose x.1 else d) d

/-- The effect of STOP. -/
def cfgStop (d : Device) (who : Who) : Device :=
  d.command who false [.sealed, .running, .refused] fun d =>
    if d.cfg = .running then ({ d with busy := some .stop }.closeAll).stopProgress else d.enter .empty

/-- The effect of SLEEP (R416): the units stop, RAIL_EN falls, and the contents of DDR and the Quarry are lost. -/
def cfgSleep (d : Device) (who : Who) : Device :=
  d.command who true [.empty] fun d =>
    if d.fld Reg.cfgWake 0 12 = 0 then d.result 4
    else
      { d with
        mem := []
        power := { d.power with
          railEn := false, pwrGood := false, phase := .asleep, start := .wake, holdDone := false, wakeCmp := 0, wakePins := 0 } }

/-- The effect of RESET: a warm reset. -/
def cfgReset (d : Device) (who : Who) : Device :=
  d.command who true [.empty, .loading, .sealed, .running, .refused] fun d => (d.hold .warmReset).reply .written

/-- A write to CFG_CMD: the command it names, or an unknown code. -/
def cfgCmd (d : Device) (who : Who) (v : Half) : Device :=
  match v.toNat % 16 with
  | 1 => cfgLoad d who
  | 2 => cfgSeal d who
  | 3 => cfgRun d who
  | 4 => cfgStop d who
  | 5 => cfgSleep d who
  | 6 => cfgReset d who
  | _ => (d.reply .written).result 5

/-! ### CTL_OUT (R410) -/

/-- A write to CFG_CTL_OUT_SET. -/
def cfgCtlOutSet (d : Device) (v : Half) : Device :=
  let d := d.reply .written
  if d.cfg = .running then d.orReg Reg.cfgCtlOut (v.toNat % 2 ^ 16) else d

/-- A write to CFG_CTL_OUT_CLR. -/
def cfgCtlOutClr (d : Device) (v : Half) : Device :=
  let d := d.reply .written
  if d.cfg = .running then d.clrReg Reg.cfgCtlOut (v.toNat % 2 ^ 16) else d

/-! ### The commands -/

/-- CFG_LOAD. -/
def execCfgLoad (who : Who) (s : State) : Host.Outcome State Fault Refusal := actBy who s fun d => cfgLoad d who

/-- SEAL. -/
def execSeal (who : Who) (s : State) : Host.Outcome State Fault Refusal := actBy who s fun d => cfgSeal d who

/-- SEAL_COMPLETE. -/
def execSealComplete (s : State) : Host.Outcome State Fault Refusal := actLive s sealComplete

/-- CFG_RUN. -/
def execCfgRun (who : Who) (s : State) : Host.Outcome State Fault Refusal := actBy who s fun d => cfgRun d who

/-- CFG_STOP. -/
def execCfgStop (who : Who) (s : State) : Host.Outcome State Fault Refusal := actBy who s fun d => cfgStop d who

/-- SLEEP. -/
def execSleep (who : Who) (s : State) : Host.Outcome State Fault Refusal := actBy who s fun d => cfgSleep d who

/-- RESET. -/
def execReset (who : Who) (s : State) : Host.Outcome State Fault Refusal := actBy who s fun d => cfgReset d who

/-- CFG_CTL_OUT_SET. -/
def execCfgCtlOutSet (who : Who) (value : Half) (s : State) : Host.Outcome State Fault Refusal :=
  actBy who s fun d => cfgCtlOutSet d value

/-- CFG_CTL_OUT_CLR. -/
def execCfgCtlOutClr (who : Who) (value : Half) (s : State) : Host.Outcome State Fault Refusal :=
  actBy who s fun d => cfgCtlOutClr d value

/-- TEARDOWN_SCRUB_DONE: a STOP that waits for the context goes on. -/
def execTeardownScrubDone (ctx : Fin 256) (s : State) : Host.Outcome State Fault Refusal :=
  actLive s fun d => (teardownScrubDone d ctx).stopProgress

end Sys2Proof.Machine
end

