-- ==== Sys2Proof/Machine/Queues.lean ====
section
/-!
DEFINITION. Frame queues (R371, R372, R386): their pages, their descriptors, write-back, and frames handed to receive
queues. Queues 0 to 31 are the switch's, 32 to 47 the gateway's host queues 0 to 15.
-/

namespace Sys2Proof.Machine

/-! ### Settings -/

/-- The control register of a queue. -/
def Device.qCtrl (d : Device) (q : Nat) : Word := d.reg (if q < 32 then Reg.tsnQCtrl q else Reg.gwyHqCtrl (q - 32))

/-- The ring base of a queue. -/
def Device.qBase (d : Device) (q : Nat) : Nat :=
  d.fld (if q < 32 then Reg.tsnQBase q else Reg.gwyHqBase (q - 32)) 0 48

/-- The number n of a queue of 2ⁿ descriptors. -/
def Device.qLog (d : Device) (q : Nat) : Nat := bitsAt (d.qCtrl q) 4 4

/-- The tenancy whose windows check a queue. -/
def Device.qTenancy (d : Device) (q : Nat) : Nat := bitsAt (d.qCtrl q) 8 6

/-- Whether a queue receives: switch queues 0 to 15, host queues 0 to 7. -/
def qReceives (q : Nat) : Bool := q < 16 || (decide (32 ≤ q) && decide (q < 40))

/-- The largest frame that a receive queue's buffers hold (R372). -/
def Device.qBuffer (d : Device) (q : Nat) : Nat := if bitOf (d.qCtrl q) 16 then 16384 else 2048

/-- Whether a queue takes descriptors: it runs, and the configuration does. -/
def Device.qRuns (d : Device) (q : Nat) : Bool :=
  decide (d.cfg = .running) && decide (d.busy ≠ some .stop) && decide ((d.queue q).state = .running)

/-- The port of the regulators that a queue's accesses pass: that of its switch port; the gateway, which joins the switch at internal
port 11, shares that port's (R188; log entry 76). -/
def qPort (q : Nat) : Nat := if q < 32 then 30 + q % 16 / 8 else 31

/-- A frame dropped at a switch port (R370). -/
def Device.dropFrame (d : Device) (port : Nat) : Device := (d.addCount (Reg.tsnDrop port) 0 32 1).orReg Reg.tsnSticky 2

/-- A queue stopped, with its block's queue-fault bit (R371); the frames that a switch queue had accepted are dropped (R370). -/
def Device.stopQueue (d : Device) (q : Nat) : Device :=
  let d := if q < 16 then (d.queue q).waiting.foldl (fun d _ => d.dropFrame (10 + q / 8)) d else d
  let d := d.setQueue q { d.queue q with
    state := .stopped, waiting := [], departing := false, desc := none, got := [], back := none }
  if q < 32 then d.orReg Reg.tsnSticky 1 else d.orReg Reg.gwySticky 8

/-! ### Counts (R371) -/

/-- A write to Q_TAIL. -/
def qTailWrite (d : Device) (q : Nat) (v : Half) : Device :=
  let d := d.reply .written
  let x := d.queue q
  if x.state = .unset then d
  else if countDiff v x.head ≤ 2 ^ d.qLog q then d.setQueue q { x with tail := v }
  else if x.state = .running then d.stopQueue q
  else d

/-- A write to Q_SEEN. -/
def qSeenWrite (d : Device) (q : Nat) (v : Half) : Device :=
  let d := d.reply .written
  let x := d.queue q
  if x.state = .unset then d
  else if countDiff x.head v ≤ 2 ^ d.qLog q then d.setQueue q { x with seen := v }
  else if x.state = .running then d.stopQueue q
  else d

/-! ### Descriptors -/

/-- The address of the descriptor of a count. -/
def Device.qAddr (d : Device) (q : Nat) (c : Half) : Nat := d.qBase q + 32 * (c.toNat % 2 ^ d.qLog q)

/-- Whether an access to the descriptor at the head fails: its tenancy is off, the ring lies in no one window that allows read
and write, or the access itself meets the map, a unit held offline or a link that is down. -/
def Device.qVeto (d : Device) (q : Nat) : Option Veto :=
  let x := d.ten (d.qTenancy q)
  if !x.on || (x.windowFor (d.qBase q) (32 * 2 ^ d.qLog q) true true).isNone then some (.fault St.bounds 0x01)
  else d.vetoRole (d.qTenancy q) (d.qAddr q (d.queue q).head) 32 false false

/-- The device with bytes written for a queue, logged (R272) and plain (R289). -/
def Device.qWrite (d : Device) (q a : Nat) (bs : List Byte) : Device :=
  let d := d.logWrite (d.qTenancy q) a bs.length
  match d.region a with
  | .outbound pc _ => d.emitWrites pc a bs
  | _ => d.wr a bs

/-- Bytes with some of them replaced from an offset up. -/
def putAt (raw : List Byte) (off : Nat) (bs : List Byte) : List Byte := raw.take off ++ bs ++ raw.drop (off + bs.length)

/-- The bytes of a descriptor written back: status, detail, phase, and the fields that the frame gives. -/
def backBytes (raw : List Byte) (c : Half) (n : Nat) (status detail : Byte) (fields : List (Nat × List Byte)) : List Byte :=
  let raw := fields.foldl (fun r f => putAt r f.1 f.2) raw
  putAt (putAt (putAt raw 0x0B [status]) 0x0E [detail]) 0x0F [BitVec.ofNat 8 (1 - c.toNat / 2 ^ n % 2)]

/-- The write-back that a queue has due carried out, where its port lets it, and Q_HEAD advanced. -/
def Device.settleBack (d : Device) (q : Nat) : Device :=
  let x := d.queue q
  let a := d.qAddr q x.head
  match x.back with
  | none => d
  | some bs =>
    match d.qVeto q with
    | some v => (d.noteVeto a v).stopQueue q
    | none =>
      if d.portHolds (qPort q) a then d
      else
        ((d.charge (qPort q) a 32 true).qWrite q a bs).setQueue q { x with
          head := x.head + 1, departing := false, desc := none, got := [], back := none }

/-- The write-backs of every queue that wait for their ports. -/
def Device.settleBacks (d : Device) : Device := d.queues.foldl (fun d e => d.settleBack e.1) d

/-- The descriptor at the head written back in place. -/
def Device.writeBack (d : Device) (q : Nat) (raw : List Byte) (status detail : Byte) (fields : List (Nat × List Byte)) :
    Device :=
  let x := d.queue q
  (d.setQueue q { x with back := some (backBytes raw x.head (d.qLog q) status detail fields) }).settleBack q

/-- The fields that hold a stamp. -/
def stampFields : Option (Word × BitVec 16) → List (Nat × List Byte)
  | some t => [(0x10, bytesOfNat 8 t.1.toNat), (0x18, bytesOfNat 4 (t.2.toNat * 65536))]
  | none => []

/-- The Almanac now, as a stamp: integer nanoseconds and the upper 16 bits of the fraction. -/
def Device.stamp (d : Device) : Word × BitVec 16 := (d.ns, BitVec.ofNat 16 (d.alm.count.toNat / 65536))

/-- A stamp from a 64.32 count moved by nanoseconds (R364, R365). -/
def stampOf (count : BitVec 96) (add sub : Nat) : Word × BitVec 16 :=
  let c := count + BitVec.ofNat 96 (add * 2 ^ 32) - BitVec.ofNat 96 (sub * 2 ^ 32)
  (BitVec.ofNat 64 (c.toNat / 2 ^ 32), BitVec.ofNat 16 (c.toNat / 65536))

/-! ### Receive -/

/-- A frame handed to a receive queue waits for the descriptor it takes. -/
def Device.deliver (d : Device) (q : Nat) (f : RxFrame) : Device :=
  let x := d.queue q
  d.setQueue q { x with waiting := x.waiting ++ [f] }

/-- The descriptors posted to a receive queue that no accepted frame takes. -/
def FrameQueue.posted (x : FrameQueue) : Nat := countDiff x.tail x.head - x.waiting.length

/-- The first waiting frame of a receive queue put into the buffer of the descriptor at the head. -/
def qFill (d : Device) (q : Nat) (raw : List Byte) : Device :=
  let x := d.queue q
  match x.waiting with
  | [] => d
  | f :: rest =>
    let a := fieldAt raw 0 8
    let taken := fun (d : Device) => d.setQueue q { d.queue q with waiting := rest }
    let lost := fun (s t : Byte) =>
      let d := if q < 32 then d.dropFrame (10 + q / 8) else d
      (taken d).writeBack q raw s t []
    match d.vetoRole (d.qTenancy q) a f.bytes.length true false with
    | some (.fault s t) => lost s t
    | some (.ends 0x0A t) => (d.noteVeto a (.ends 0x0A t)).stopQueue q
    | some (.ends s t) => lost s t
    | none =>
      d.via (qPort q) a f.bytes.length true fun d =>
      ((taken d).qWrite q a f.bytes).writeBack q raw St.ok 0
        ([(0x08, bytesOfNat 2 f.bytes.length), (0x0C, [f.port])] ++ (if q < 32 then [(0x0D, [f.cls])] else []) ++
          stampFields f.stamp ++ [(0x1C, bytesOfNat 4 f.canId.toNat)])

/-! ### Taking a descriptor -/

/-- Whether a queue waits for a read over a link. -/
def Device.qReading (d : Device) (q : Nat) : Bool :=
  d.outbound.any fun o => match o.owner with
    | .queueDesc p => p = q
    | .queueData p => p = q
    | _ => false

/-- Whether a queue can take the descriptor at its head now, or go on with it. -/
def Device.qReady (d : Device) (q : Nat) : Bool :=
  let x := d.queue q
  d.qRuns q && x.head ≠ x.tail && !x.departing && x.back.isNone && !d.qReading q && (!qReceives q || !x.waiting.isEmpty)

/-- A link failed during a read of a queue: the queue stops. -/
def qReadFailed (d : Device) (q : Nat) : Device := if d.qRuns q then d.stopQueue q else d

/-- The bytes of a frame to send, read through the queue's port and handed on; a failed check or an uncorrectable word writes the
descriptor back (R174, R181). -/
def Device.qFetch (d : Device) (q : Nat) (raw : List Byte) (n : Nat) (ecc : Ecc) (send : Device → List Byte → Device) :
    Device :=
  let a := fieldAt raw 0 8
  match d.vetoRole (d.qTenancy q) a n false false with
  | some (.fault s t) => d.writeBack q raw s t []
  | some (.ends 0x0A t) => (d.noteVeto a (.ends 0x0A t)).stopQueue q
  | some (.ends s t) => d.writeBack q raw s t []
  | none =>
    match d.region a with
    | .outbound pc _ => d.emitReads pc (.queueData q) a n
    | _ =>
      d.via (qPort q) a n false fun d =>
        let d := d.memEcc a ecc
        match ecc with
        | .uncorrectable i => d.writeBack q raw St.eccUncorr (d.eccDetail (a + i)) []
        | _ => send d (d.rd a n)

/-! ### The commands -/

/-- Q_TAIL_WRITE. -/
def execQTailWrite (who : Who) (q : QueueRef) (value : Half) (s : State) : Host.Outcome State Fault Refusal :=
  actBy who s fun d => qTailWrite d (queueKey q) value

/-- Q_SEEN_WRITE. -/
def execQSeenWrite (who : Who) (q : QueueRef) (value : Half) (s : State) : Host.Outcome State Fault Refusal :=
  actBy who s fun d => qSeenWrite d (queueKey q) value

end Sys2Proof.Machine
end

