-- ==== Sys2Proof/Machine/Switch.lean ====
section
/-!
DEFINITION. The TSN switch: ingress with policing and recovery, forwarding by the static table, gate lists, departures and their
timestamps (R364 to R370, R372). Frames are held without their FCS, whose 4 bytes count in every size.
-/

namespace Sys2Proof.Machine

/-! ### Frames -/

/-- The big-endian number in `len` bytes of a frame. -/
def beAt (bs : List Byte) (off len : Nat) : Nat := natOfBytesBe (slice bs off len)

/-- Whether a frame carries a VLAN tag. -/
def tagged (bs : List Byte) : Bool := beAt bs 12 2 = 0x8100

/-- The offset of a frame's Ethertype, behind its VLAN tag if it has one. -/
def etherAt (bs : List Byte) : Nat := if tagged bs then 16 else 12

/-- The VID of a frame; an untagged frame has VID 0 (log entry 31). -/
def vidOf (bs : List Byte) : Nat := if tagged bs then beAt bs 14 2 % 4096 else 0

/-- The class of a frame: its PCP, or the class given where it has no tag. -/
def pcpOf (bs : List Byte) (untagged : Nat) : Nat := if tagged bs then beAt bs 14 1 / 32 else untagged

/-- The size of a frame, FCS included. -/
def frameSize (bs : List Byte) : Nat := bs.length + 4

/-! ### The frame memory (R366, R370) -/

/-- The numbers and sizes of the frames the switch holds: those that wait at egress and those that wait for a receive
descriptor. -/
def Device.heldFrames (d : Device) : List (Nat × Nat) :=
  ((d.sw.egress.flatMap fun e => e.2.map fun f => (f.id, frameSize f.bytes)) ++
    (d.queues.filter fun e => e.1 < 32).flatMap fun e => e.2.waiting.map fun f => (f.id, frameSize f.bytes)).eraseDups

/-- The bytes of the frame memory in use; a frame that several ports wait for is held once. -/
def Device.frameBytes (d : Device) : Nat := (d.heldFrames.map (·.2)).sum

/-- The size of the frame memory. -/
def frameMemory : Nat := 4194304

/-! ### Streams (R369) -/

/-- The entry of the static table that a frame matches: its ACT register. -/
def Device.fdbMatch (d : Device) (bs : List Byte) : Option Word :=
  let key := BitVec.ofNat 64 (2 ^ 63 + vidOf bs * 2 ^ 48 + beAt bs 0 6)
  (d.regs.find? fun e => decide (0xC10000 ≤ e.1) && decide (e.1 < 0xC20000) && e.1 % 16 = 0 && e.2 = key).map
    fun e => d.reg (e.1 + 8)

/-- The stream handle that a table entry identifies, if it is in use. -/
def Device.streamFor (d : Device) (entry : Word) : Option Nat :=
  let h := bitsAt entry 48 8
  if bitOf entry 63 && d.regBit (Reg.tsnStream h) 63 then some h else none

/-- The tokens of a stream's policer now, in thousandths of a bit: 1 Mb/s gives one a nanosecond. -/
def Device.tokens (d : Device) (h : Nat) : Nat :=
  let burst := d.fld (Reg.tsnStream h) 0 16 * 64 * 8000
  match tget d.sw.policers h with
  | none => burst
  | some p => min burst (p.tokens + (d.ns - p.last).toNat * d.fld (Reg.tsnStream h) 16 16)

/-- A frame held to its stream's largest size and rate. -/
def Device.police (d : Device) (h : Nat) (bs : List Byte) : Bool × Device :=
  if !d.regBit (Reg.tsnStream h) 60 then (true, d)
  else if d.fld (Reg.tsnStream h) 32 14 < frameSize bs then (false, d)
  else
    let have_ := d.tokens h
    let need := frameSize bs * 8000
    if have_ < need then (false, d)
    else (true, { d with sw := { d.sw with policers := tput d.sw.policers h { tokens := have_ - need, last := d.ns } } })

/-- What recovery makes of a frame: passed, a duplicate, or outside the history. -/
inductive Recovered where
  | pass | duplicate | outside
  deriving DecidableEq, Repr

/-- The vector recovery of IEEE 802.1CB with a history of 32 (log entry 30). -/
def recover (r : Option CbRecovery) (n : BitVec 16) : Recovered × Option CbRecovery :=
  match r with
  | none => (.pass, some { seq := n, history := [] })
  | some c =>
    let delta := signedOf 16 (n - c.seq).toNat
    if delta = 0 then (.duplicate, some c)
    else if 32 ≤ delta || delta ≤ -32 then (.outside, some c)
    else if 0 < delta then
      (.pass, some { seq := n, history := ((List.replicate (delta.toNat - 1) false ++ [true]) ++ c.history).take 31 })
    else
      let k := (-delta).toNat - 1
      if c.history.getD k false then (.duplicate, some c)
      else (.pass, some { c with history := ((c.history ++ List.replicate 31 false).take 31).set k true })

/-- The sequence number of a frame's R-TAG, if it carries one. -/
def rTagOf (bs : List Byte) : Option (BitVec 16) :=
  if beAt bs (etherAt bs) 2 = 0xF1C1 then some (BitVec.ofNat 16 (beAt bs (etherAt bs + 4) 2)) else none

/-- A frame's duplicates removed at ingress. -/
def Device.recoverFrame (d : Device) (h : Nat) (bs : List Byte) : Recovered × Device :=
  match d.regBit (Reg.tsnStream h) 61, rTagOf bs with
  | true, some n =>
    let p := recover (tget d.sw.recovery h) n
    (p.1, match p.2 with
      | some c => { d with sw := { d.sw with recovery := tput d.sw.recovery h c } }
      | none => d)
  | _, _ => (.pass, d)

/-- A frame with an R-TAG of a sequence number placed on it. -/
def withRTag (bs : List Byte) (n : BitVec 16) : List Byte :=
  bs.take (etherAt bs) ++ bytesBe 2 0xF1C1 ++ bytesBe 2 0 ++ bytesBe 2 n.toNat ++ bs.drop (etherAt bs)

/-- A frame numbered by its stream. -/
def Device.generate (d : Device) (h : Nat) (bs : List Byte) : List Byte × Device :=
  if !d.regBit (Reg.tsnStream h) 62 then (bs, d)
  else
    let n := tgetD d.sw.nextSeq h 0
    (withRTag bs n, { d with sw := { d.sw with nextSeq := tputD d.sw.nextSeq h (n + 1) 0 } })

/-! ### Forwarding (R367, R372) -/

/-- The receiving ACF stream that takes a frame at internal port 11 (R384). -/
def Device.acfStreamOf (d : Device) (bs : List Byte) : Option Nat :=
  if beAt bs (etherAt bs) 2 ≠ 0x22F0 then none
  else (List.range 32).find? fun s =>
    d.regBit (Reg.gwyAcfCtrl s) 0 && !d.regBit (Reg.gwyAcfCtrl s) 1 &&
      (d.reg (Reg.gwyAcfSid s)).toNat = beAt bs (etherAt bs + 6) 8

/-- A frame that reaches an internal port: taken by an ACF stream of port 11, whose own event carries it, accepted by the
receive queue of its class, or dropped. -/
def Device.toInternal (d : Device) (port cls : Nat) (f : RxFrame) : Device :=
  let q := 8 * (port - 10) + cls
  if port = 11 && (d.acfStreamOf f.bytes).isSome then d
  else if !d.qRuns q || (d.queue q).posted = 0 || d.qBuffer q < f.bytes.length then d.dropFrame port
  else d.deliver q f

/-- A frame placed at an egress port. -/
def Device.toEgress (d : Device) (port cls : Nat) (f : EgressFrame) : Device :=
  let k := 8 * port + cls
  { d with sw := { d.sw with egress := tputD d.sw.egress k (tgetD d.sw.egress k [] ++ [f]) [] } }

/-- A frame forwarded to one port; a port held offline forwards nothing (R313), and the frame is dropped there (R370). -/
def Device.forward (d : Device) (ingress cls : Nat) (f : RxFrame) (port : Nat) : Device :=
  if 10 ≤ port then d.toInternal port cls { f with port := BitVec.ofNat 8 ingress }
  else if d.unitOff (80 + port) then d.dropFrame port
  else d.toEgress port cls { id := f.id, bytes := f.bytes, oneStep := false, origin := none }

/-- The ports a table entry forwards a frame to. -/
def portsOf (entry : Word) (ingress : Nat) : List Nat := (List.range 12).filter fun p => bitOf entry p && p ≠ ingress

/-- A frame stored and forwarded, once its entry and stream have passed it. -/
def Device.store (d : Device) (ingress untagged : Nat) (stamp : Option (Word × BitVec 16)) (entry : Word) (bs : List Byte) :
    Device :=
  if frameMemory < d.frameBytes + frameSize bs then d.dropFrame ingress
  else
    let cls := pcpOf bs untagged
    let f : RxFrame := { id := d.nextId, bytes := bs, port := BitVec.ofNat 8 ingress, cls := BitVec.ofNat 8 cls,
                         stamp := stamp, canId := 0 }
    (portsOf entry ingress).foldl (fun d p => d.forward ingress cls f p) { d with nextId := d.nextId + 1 }

/-- A whole frame that has entered the switch by table lookup. -/
def Device.switchFrame (d : Device) (ingress untagged : Nat) (stamp : Option (Word × BitVec 16)) (bs : List Byte) : Device :=
  match d.fdbMatch bs with
  | none => d.dropFrame ingress
  | some entry =>
    match d.streamFor entry with
    | none => d.store ingress untagged stamp entry bs
    | some h =>
      let p := d.police h bs
      if !p.1 then (p.2.dropFrame ingress).orReg Reg.tsnSticky 4
      else
        let r := p.2.recoverFrame h bs
        match r.1 with
        | .duplicate => r.2
        | .outside => (r.2.dropFrame ingress).orReg Reg.tsnSticky 8
        | .pass =>
          let g := r.2.generate h bs
          g.2.store ingress untagged stamp entry g.1

/-- Whether a switch port takes part: the configuration runs, and an external port is enabled and not held offline. -/
def Device.portOn (d : Device) (port : Nat) : Bool :=
  decide (d.cfg = .running) && decide (d.busy ≠ some .stop) &&
    (decide (10 ≤ port) || (d.regBit (Reg.tsnPortCtrl port) 0 && !d.unitOff (80 + port)))

/-- Whether the link of a port is up; the internal ports have none. -/
def Device.portLink (d : Device) (port : Nat) : Bool := decide (10 ≤ port) || d.regBit Reg.tsnStatus port

/-- The effect of ETH_FRAME_RECEIVE. -/
def ethFrameReceive (d : Device) (port : Nat) (f : EthFrame) : Device :=
  if !d.portLink port then d
  else if !d.portOn port || !f.fcsOk || frameSize f.bytes < 64 || 9216 < frameSize f.bytes then d.dropFrame port
  else
    let stamp := if port < 10 then some (stampOf f.sfd 0 (d.fld (Reg.tsnPortLat port) 0 16)) else none
    d.switchFrame port 0 stamp f.bytes

/-! ### Gate lists (R368) -/

/-- The entries a port's gate list has in use. -/
def Device.gclLength (d : Device) (n : Nat) : Nat := d.fld (Reg.tsnGclLen n) 0 9

/-- The gates of an entry. -/
def Device.gclGates (d : Device) (n e : Nat) : Nat := d.fld (Reg.tsnGcl n e) 24 8

/-- The interval of an entry in nanoseconds. -/
def Device.gclNs (d : Device) (n e : Nat) : Nat := 10 * d.fld (Reg.tsnGcl n e) 0 24

/-- The gate states of a port: every gate open without a list and before its first cycle (log entry 32). -/
def Device.gates (d : Device) (n : Nat) : Nat :=
  match tgetD d.sw.gate n 0 with
  | 0 => 0xFF
  | e + 1 => if d.gclLength n = 0 then 0xFF else d.gclGates n e

/-- Whether a gate of a port is open. -/
def Device.gateOpen (d : Device) (n cls : Nat) : Bool := d.gates n / 2 ^ cls % 2 = 1

/-- The Almanac time into the cycle at which an entry ends. -/
def Device.entryEnd (d : Device) (n e : Nat) : Nat := ((List.range (e + 1)).map (d.gclNs n)).sum

/-- The nanoseconds since the port's present cycle began. -/
def Device.gclPhase (d : Device) (n : Nat) : Nat :=
  (d.ns - d.reg (Reg.tsnGclBase n)).toNat % max 1 (d.fld (Reg.tsnGclCycle n) 0 32)

/-- The entry of a port's list that holds now: the first whose end the cycle has not come to. -/
def Device.gclEntryNow (d : Device) (n : Nat) : Nat :=
  ((List.range (d.gclLength n)).find? fun e => decide (d.gclPhase n < d.entryEnd n e)).getD (d.gclLength n - 1)

/-- The nanoseconds for which a gate stays open through entries that follow one another, `k` of them from entry `e`. -/
def Device.openFor (d : Device) (n cls : Nat) : Nat → Nat → Nat
  | 0, _ => 0
  | k + 1, e =>
    if d.gclGates n e / 2 ^ cls % 2 = 0 then 0
    else d.gclNs n e + d.openFor n cls k ((e + 1) % d.gclLength n)

/-- The nanoseconds before an open gate closes, or none where it stays open: before the list's start the gate is open up to it, and
for as long as the first entries then leave it open (log entry 32). -/
def Device.closesIn (d : Device) (n cls : Nat) : Option Nat :=
  let len := d.gclLength n
  if len = 0 || (List.range len).all fun e => d.gclGates n e / 2 ^ cls % 2 = 1 then none
  else
    match tgetD d.sw.gate n 0 with
    | 0 => some ((d.reg (Reg.tsnGclBase n)).toNat - d.ns.toNat + d.openFor n cls len 0)
    | e + 1 => some (d.entryEnd n e - d.gclPhase n + d.openFor n cls (len - 1) ((e + 1) % len))

/-- A port's rate in Mb/s. -/
def Device.portRate (d : Device) (n : Nat) : Nat :=
  match d.fld (Reg.tsnPortCtrl n) 1 3 with
  | 0 => 10
  | 1 => 100
  | 2 => 1000
  | 3 => 2500
  | 4 => 5000
  | 5 => 10000
  | _ => 25000

/-- Whether a frame of a class may start on a port now: its gate is open and the frame can finish before it closes. -/
def Device.mayStart (d : Device) (n cls : Nat) : Bool :=
  match tgetD d.sw.egress (8 * n + cls) [] with
  | [] => false
  | f :: _ =>
    d.gateOpen n cls && (match d.closesIn n cls with
      | none => true
      | some left => decide (ceilDiv (frameSize f.bytes * 8000) (d.portRate n) ≤ left))

/-- The effect of GATE_LIST_ENTRY: the entry that holds at the Almanac time takes force; before the list's start none does. -/
def gateListEntry (d : Device) (n : Nat) : Device :=
  let len := d.gclLength n
  if d.cfg ≠ .running || d.busy = some .stop || len = 0 || decide (d.ns < d.reg (Reg.tsnGclBase n)) then d
  else { d with sw := { d.sw with gate := tput d.sw.gate n (d.gclEntryNow n + 1) } }

/-! ### Departures (R365) -/

/-- Whether a frame is a one-step Sync: Ethertype 0x88F7, messageType Sync, twoStepFlag 0. -/
def isOneStep (bs : List Byte) : Bool :=
  let p := etherAt bs + 2
  beAt bs (etherAt bs) 2 = 0x88F7 && beAt bs p 1 % 16 = 0 && beAt bs (p + 6) 1 / 2 % 2 = 0

/-- A one-step Sync with its departure time written: originTimestamp, and the fraction added to correctionField. -/
def oneStepBytes (bs : List Byte) (t : Word × BitVec 16) : List Byte :=
  let p := etherAt bs + 2
  let bs := putAt bs (p + 8) (bytesBe 8 ((beAt bs (p + 8) 8 + t.2.toNat) % 2 ^ 64))
  putAt bs (p + 34) (bytesBe 6 (t.1.toNat / 1000000000) ++ bytesBe 4 (t.1.toNat % 1000000000))

/-- Whether a frame that waits at a port was directed there by a descriptor that still waits for it. -/
def Device.departsFor (d : Device) (f : EgressFrame) : Option (Nat × List Byte) :=
  match f.origin with
  | some (q, c, raw) =>
    if d.qRuns q && (d.queue q).departing && (d.queue q).head = c && (d.queue q).back.isNone then some (q, raw) else none
  | none => none

/-- The effect of FRAME_TRANSMITTED: the first frame of a class leaves a port, and the descriptor that named the port is
written back with the departure time. -/
def frameTransmitted (d : Device) (n cls : Nat) : Device :=
  let k := 8 * n + cls
  match tgetD d.sw.egress k [] with
  | [] => d
  | f :: rest =>
    if !d.portOn n || !d.portLink n || !d.mayStart n cls || (List.range 8).any (fun c => decide (cls < c) && d.mayStart n c)
    then d
    else
      let t := stampOf d.alm.count (d.fld (Reg.tsnPortLat n) 16 16) 0
      let bs := if f.oneStep && isOneStep f.bytes then oneStepBytes f.bytes t else f.bytes
      let d := { d with sw := { d.sw with egress := tputD d.sw.egress k rest [] } }.emit (.frame n bs)
      match d.departsFor f with
      | some (q, raw) => d.writeBack q raw St.ok 0 ([(0x0D, [BitVec.ofNat 8 cls])] ++ stampFields (some t))
      | none => d

/-- The frames directed to a port that has gone offline: written back with UNIT_OFFLINE, and not sent (R372). -/
def Device.offlineEgress (d : Device) : Device :=
  d.sw.egress.foldl (fun d e =>
    if !d.unitOff (80 + e.1 / 8) then d
    else
      let d' := { d with sw := { d.sw with egress := tputD d.sw.egress e.1 (e.2.filter fun f => (d.departsFor f).isNone) [] } }
      (e.2.filterMap d.departsFor).foldl (fun d x => d.writeBack x.1 x.2 St.unitOffline 0 []) d') d

/-! ### Transmit queues (R372) -/

/-- The bytes of a transmit descriptor's frame sent: directed to one port, or by table lookup. -/
def tsnSend (d : Device) (q : Nat) (raw bs : List Byte) : Device :=
  let port := fieldAt raw 0x0C 1
  let ingress := 10 + (q - 16) / 8
  let cls := pcpOf bs (q % 8)
  if port = 0xFF then
    (d.switchFrame ingress (q % 8) none bs).writeBack q raw St.ok 0 [(0x0D, [BitVec.ofNat 8 cls])]
  else if frameMemory < d.frameBytes + frameSize bs then
    (d.dropFrame ingress).writeBack q raw St.ok 0 [(0x0D, [BitVec.ofNat 8 cls])]
  else
    let x := d.queue q
    let f : EgressFrame :=
      { id := d.nextId, bytes := bs, oneStep := fieldAt raw 0x0A 1 % 2 = 1, origin := some (q, x.head, raw) }
    ({ d with nextId := d.nextId + 1 }.toEgress port cls f).setQueue q { x with departing := true }

/-- A transmit descriptor of the switch taken: its length, its flag and its port are checked first (log entry 91). -/
def tsnTake (d : Device) (q : Nat) (raw : List Byte) (ecc : Ecc) : Device :=
  let len := fieldAt raw 8 2
  let port := fieldAt raw 0x0C 1
  if len < 60 || 9212 < len || (fieldAt raw 0x0A 1 % 2 = 1 && port = 0xFF) || (10 ≤ port && port ≠ 0xFF) then
    d.writeBack q raw St.sizeUnsupported 0x01 []
  else if port < 10 && d.unitOff (80 + port) then d.writeBack q raw St.unitOffline 0 []
  else d.qFetch q raw len ecc fun d bs => tsnSend d q raw bs

/-- The effect of ETH_LINK_CHANGE. -/
def ethLinkChange (d : Device) (port : Nat) (up : Bool) : Device :=
  if d.regBit Reg.tsnStatus port = up then d
  else (d.setFld Reg.tsnStatus port 1 (if up then 1 else 0)).orReg Reg.tsnSticky 16

/-! ### The commands -/

/-- ETH_FRAME_RECEIVE. -/
def execEthFrameReceive (port : Fin 12) (frame : EthFrame) (s : State) : Host.Outcome State Fault Refusal :=
  actLive s fun d => ethFrameReceive d port frame

/-- FRAME_TRANSMITTED. -/
def execFrameTransmitted (port : Fin 10) (cls : Fin 8) (s : State) : Host.Outcome State Fault Refusal :=
  actLive s fun d => frameTransmitted d port cls

/-- GATE_LIST_ENTRY. -/
def execGateListEntry (port : Fin 10) (s : State) : Host.Outcome State Fault Refusal :=
  actLive s fun d => gateListEntry d port

/-- ETH_LINK_CHANGE. -/
def execEthLinkChange (port : Fin 10) (up : Bool) (s : State) : Host.Outcome State Fault Refusal :=
  actLive s fun d => ethLinkChange d port up

end Sys2Proof.Machine
end

