-- ==== Sys2Proof/Machine/Csi.lean ====
section
/-!
DEFINITION. The camera ports: frames, their buffers and tag lines, drops, release, and the ingress checks (R327 to R329, R373 to
R377). Stream 16p + v is virtual channel v of port p.
-/

namespace Sys2Proof.Machine

/-! ### Streams and buffers -/

/-- The port of a stream. -/
def csiPort (s : Nat) : Nat := s / 16

/-- Whether a stream takes packets: the configuration runs, its port has lanes, and it is enabled. -/
def Device.csiOn (d : Device) (s : Nat) : Bool :=
  decide (d.cfg = .running) && decide (d.busy ≠ some .stop) && d.fld (Reg.csiPortCtrl (csiPort s)) 0 2 ≠ 0 && d.csiEnabled s

/-- Whether a stream drives its port's frame-start and frame-end sources. -/
def Device.csiLead (d : Device) (s : Nat) : Bool := d.fld (Reg.csiPortCtrl (csiPort s)) 12 4 = s % 16

/-- The tenancy whose windows check a stream's buffers. -/
def Device.csiTenancy (d : Device) (s : Nat) : Nat := d.fld (Reg.csiSctrl s) 16 6

/-- Whether a stream's frames take the ingress checks. -/
def Device.csiChecked (d : Device) (s : Nat) : Bool := d.regBit (Reg.csiSctrl s) 1

/-- The address of the buffer that a stream's next frame goes to. -/
def Device.csiBuffer (d : Device) (s : Nat) : Nat :=
  d.fld (Reg.csiSbase s) 0 64 + (d.stream s).fill.toNat % max 1 (d.csiBuffers s) * d.csiStride s

/-- A frame dropped whole (R376). -/
def Device.csiDrop (d : Device) (s : Nat) : Device :=
  let d := d.setStream s { d.stream s with frame := none }
  let d := (d.addCount (Reg.csiSdrop s) 0 32 1).orReg Reg.csiSticky (2 ^ (4 + csiPort s))
  d.raise (163 + 4 * csiPort s)

/-- Bytes written through the port's regulator into the buffer of a stream's frame, or the frame dropped where the write fails. -/
def Device.csiPut (d : Device) (s off : Nat) (bs : List Byte) (go : Device → Device) : Device :=
  let a := d.csiBuffer s + off
  match d.vetoRole (d.csiTenancy s) a bs.length true false with
  | some (.fault _ _) => (d.orReg Reg.csiSticky (2 ^ (12 + csiPort s))).csiDrop s
  | some v => (d.noteVeto a v).csiDrop s
  | none =>
    d.via (32 + csiPort s) a bs.length true fun d =>
      let d := d.logWrite (d.csiTenancy s) a bs.length
      go (match d.region a with
        | .outbound pc _ => d.emitWrites pc a bs
        | _ => d.wr a bs)

/-! ### Frames -/

/-- The frame in progress of a stream, if there is one, dropped: its frame end is missing or a packet of it failed. -/
def Device.csiMissing (d : Device) (s : Nat) : Device := if (d.stream s).frame.isSome then d.csiDrop s else d

/-- The effect of FRAME_START: the stamp is that of the sample that the source's filter takes of the pulse (R302, R374). -/
def frameStart (d : Device) (s : Nat) : Device :=
  if !d.csiOn s then d
  else
    let d := if d.csiLead s then d.raise (160 + 4 * csiPort s) else d
    let d := d.csiMissing s
    let x := d.stream s
    if d.unitOff (48 + csiPort s) || countDiff x.fill x.rel = d.csiBuffers s then d.csiDrop s
    else d.setStream s { x with frame := some { stamp := d.sample.stamp, bytes := [] } }

/-- A packet error of a port: its count, and its sticky bit. -/
def Device.packetError (d : Device) (p lo : Nat) : Device :=
  (d.addCount (Reg.csiPortErr p) lo 16 1).orReg Reg.csiSticky (2 ^ p)

/-- The effect of CSI_LONG_PACKET. -/
def csiLongPacket (d : Device) (s : Nat) (k : CsiPacket) : Device :=
  if !d.csiOn s then d
  else if !k.headerOk then (d.packetError (csiPort s) 0).csiMissing s
  else if !k.stored then (d.orReg Reg.csiSticky (2 ^ (8 + csiPort s))).csiMissing s
  else
    let selected := d.regBit (Reg.csiSdt s) k.dataType.val
    if !k.crcOk then
      let d := d.packetError (csiPort s) 16
      if selected then d.csiMissing s else d
    else
      match (d.stream s).frame with
      | none => d
      | some f =>
        if !selected then d
        else if d.unitOff (48 + csiPort s) || d.csiLength s < f.bytes.length + k.payload.length then d.csiDrop s
        else
          d.csiPut s (64 + f.bytes.length) k.payload fun d =>
            d.setStream s { d.stream s with frame := some { f with bytes := f.bytes ++ k.payload } }

/-! ### Ingress checks (R327 to R329) -/

/-- The frame counter, timestamp and CRC of a frame's trailer, its last 16 bytes. -/
def trailerOf (bs : List Byte) : Half × Word × Half :=
  let t := slice (bs.drop (bs.length - 16)) 0 16
  (BitVec.ofNat 32 (fieldAt t 0 4), BitVec.ofNat 64 (fieldAt t 4 8), BitVec.ofNat 32 (fieldAt t 12 4))

/-- A frame's time T: the trailer's in SENSOR mode, the frame-start stamp in DEVICE mode. -/
def Device.frameTime (d : Device) (s : Nat) (f : CsiFrame) : Word :=
  if d.regBit (Reg.csiSctrl s) 2 then (trailerOf f.bytes).2.1 else f.stamp

/-- The first of SHORT and CRC that a frame fails. -/
def Device.formCause (d : Device) (s : Nat) (f : CsiFrame) : Option Nat :=
  if f.bytes.length < d.csiLength s then some 1
  else if crc32c (f.bytes.take (f.bytes.length - 4)) ≠ (trailerOf f.bytes).2.2 then some 2
  else none

/-- The first of the checks against the last frame that a frame fails. -/
def Device.orderCause (d : Device) (s : Nat) (count : Half) (t : Word) : Option Nat :=
  match (d.stream s).last with
  | none => none
  | some (c, u) =>
    let interval := d.fld (Reg.csiSintvl s) 0 32
    if count = c then some 3
    else if 1 + d.fld (Reg.csiSctrl s) 24 8 < countDiff count c then some 4
    else if t ≤ u then some 5
    else if interval ≠ 0 && interval < t.toNat - u.toNat then some 6
    else none

/-- AGE, in SENSOR mode only. -/
def Device.ageCause (d : Device) (s : Nat) (t : Word) : Option Nat :=
  if d.regBit (Reg.csiSctrl s) 2 &&
      (d.fld (Reg.csiSage s) 0 32 < d.ns.toNat - t.toNat || d.ns.toNat + 1000 < t.toNat) then some 7
  else none

/-- The first ingress check that a frame fails, in order. -/
def Device.ingressCause (d : Device) (s : Nat) (f : CsiFrame) : Option Nat :=
  let t := d.frameTime s f
  ((d.formCause s f).or (d.orderCause s (trailerOf f.bytes).1 t)).or (d.ageCause s t)

/-- What a failed ingress check records. -/
def Device.ingressFailed (d : Device) (s cause : Nat) : Device :=
  ((d.orReg Reg.safE2e (2 ^ (cause - 1))).latch 10).raise (162 + 4 * csiPort s)

/-! ### Hand-over (R375) -/

/-- The tags of a frame of a stream. -/
def Device.frameTags (d : Device) (s : Nat) (f : CsiFrame) (fails : Bool) : Tags :=
  let t := trailerOf f.bytes
  let checked := d.csiChecked s
  { context := 0xFF, tenancy := BitVec.ofNat 8 (d.csiTenancy s), frameValid := checked, ingressFail := checked && fails,
    seqTag := 0, frameCounter := if checked then t.1 else (d.stream s).fill,
    timestamp := if checked then d.frameTime s f else f.stamp, frameCrc := if checked then t.2.2 else 0 }

/-- A frame handed over: its tag line written, then CSI_SFILL raised. -/
def Device.handOver (d : Device) (s : Nat) (f : CsiFrame) (fails : Bool) : Device :=
  d.csiPut s 0 ((d.frameTags s f fails).bytes ++ List.replicate 40 0) fun d =>
    let x := d.stream s
    d.setStream s { x with fill := x.fill + 1, frame := none }

/-- A checked frame that has passed SHORT and CRC becomes the reference of the next one. -/
def Device.takeReference (d : Device) (s : Nat) (f : CsiFrame) : Device :=
  if (d.formCause s f).isSome then d
  else d.setStream s { d.stream s with last := some ((trailerOf f.bytes).1, d.frameTime s f) }

/-- The effect of FRAME_END. -/
def frameEnd (d : Device) (s : Nat) : Device :=
  if !d.csiOn s then d
  else
    let d := if d.csiLead s then d.raise (161 + 4 * csiPort s) else d
    match (d.stream s).frame with
    | none => d
    | some f =>
      if d.unitOff (48 + csiPort s) then d.csiDrop s
      else if !d.csiChecked s then
        if f.bytes.length < d.csiLength s then d.csiDrop s else d.handOver s f false
      else
        match d.ingressCause s f with
        | none => (d.takeReference s f).handOver s f false
        | some c => ((d.takeReference s f).ingressFailed s c).handOver s f true

/-! ### Release (R377) -/

/-- A write to CSI_SREL. -/
def csiSrelWrite (d : Device) (s : Nat) (v : Half) : Device :=
  let d := d.reply .written
  let x := d.stream s
  if countDiff x.fill v ≤ countDiff x.fill x.rel then d.setStream s { x with rel := v } else d.orReg Reg.csiSticky 0x10000

/-! ### The commands -/

/-- The stream of a virtual channel of a port. -/
def streamNumber (port : Fin 4) (vc : Fin 16) : Nat := 16 * port.val + vc.val

/-- FRAME_START. -/
def execFrameStart (port : Fin 4) (vc : Fin 16) (s : State) : Host.Outcome State Fault Refusal :=
  actLive s fun d => frameStart d (streamNumber port vc)

/-- CSI_LONG_PACKET. -/
def execCsiLongPacket (port : Fin 4) (vc : Fin 16) (packet : CsiPacket) (s : State) : Host.Outcome State Fault Refusal :=
  actLive s fun d => csiLongPacket d (streamNumber port vc) packet

/-- FRAME_END. -/
def execFrameEnd (port : Fin 4) (vc : Fin 16) (s : State) : Host.Outcome State Fault Refusal :=
  actLive s fun d => frameEnd d (streamNumber port vc)

/-- CSI_SREL_WRITE. -/
def execCsiSrelWrite (who : Who) (stream : Fin 64) (value : Half) (s : State) : Host.Outcome State Fault Refusal :=
  actBy who s fun d => csiSrelWrite d stream value

end Sys2Proof.Machine
end

