-- ==== Sys2Proof/Machine/Gateway.lean ====
section
/-!
DEFINITION. The CAN FD controllers, the gateway's routing table, ACF streams and host queues (R371, R379 to R386). The fault
confinement counts and the layout of ACF frames are those of the standards named there (log entry 30).
-/

namespace Sys2Proof.Machine

/-! ### Drops (R383) -/

/-- A frame or copy dropped for its size; destination 0x3F stands for a frame dropped before routing. -/
def Device.sizeDrop (d : Device) (src dst : Nat) (f : CanFrame) (time : Word) : Device :=
  let first := !d.regBit Reg.gwySticky 0
  let rec_ := src * 2 ^ 56 + dst * 2 ^ 48 + min f.data.length 255 * 2 ^ 40 + (if f.ide then 2 ^ 29 else 0) + f.id.toNat
  let d := d.recordIf first Reg.gwySizeRecord (BitVec.ofNat 64 rec_)
  let d := d.recordIf first Reg.gwySizeTime time
  (d.addCount Reg.gwySizeDrops 0 32 1).orReg Reg.gwySticky 1

/-- A frame or copy dropped for another reason. -/
def Device.otherDrop (d : Device) (bit : Nat) : Device := (d.addCount Reg.gwyOtherDrops 0 32 1).orReg Reg.gwySticky (2 ^ bit)

/-- The CAN FD set of data lengths. -/
def lengthOk (n : Nat) : Bool := n ≤ 8 || [12, 16, 20, 24, 32, 48, 64].contains n

/-! ### Transmit queues (R385) -/

/-- The frames a transmit queue holds. -/
def txQueueSize : Nat := 64

/-- The rank of a frame in arbitration: its first 11 identifier bits, base before extended, then the rest. -/
def arbRank (f : CanFrame) : Nat :=
  if f.ide then f.id.toNat / 2 ^ 18 * 2 ^ 19 + 2 ^ 18 + f.id.toNat % 2 ^ 18 else f.id.toNat * 2 ^ 19

/-- The frame a queue offers: the one of lowest rank, the earliest of those that tie. -/
def offered : List CanFrame → Option CanFrame
  | [] => none
  | f :: l =>
    match offered l with
    | some g => some (if arbRank g < arbRank f then g else f)
    | none => some f

/-- A copy put into a controller's transmit queue. -/
def Device.toCan (d : Device) (k : Nat) (f : CanFrame) : Device :=
  let c := d.canCtl k
  if txQueueSize ≤ c.txq.length then d.otherDrop 2 else d.setCan k { c with txq := c.txq ++ [f] }

/-! ### ACF streams (R384) -/

/-- The bytes of a transmitting stream's frame before its messages: Ethernet header, VLAN tag, AVTP header. -/
def Device.acfHead (d : Device) (s len : Nat) (seq : Byte) : List Byte :=
  let c := Reg.gwyAcfCtrl s
  let sid := bytesBe 8 (d.reg (Reg.gwyAcfSid s)).toNat
  bytesBe 6 (d.fld (Reg.gwyAcfDmac s) 0 48) ++ bytesBe 6 Config.deviceMac.toNat ++ bytesBe 2 0x8100 ++
    bytesBe 2 (d.fld c 16 3 * 8192 + d.fld c 20 12) ++ bytesBe 2 0x22F0 ++
    (if d.regBit c 2 then [0x05, 0x80, seq, 0] ++ sid ++ bytesBe 4 0 ++ bytesBe 4 0 ++ bytesBe 2 len ++ bytesBe 2 0
     else [0x82, BitVec.ofNat 8 (0x80 + len / 256 % 8), BitVec.ofNat 8 len, seq] ++ sid)

/-- The bytes of a transmitting stream's frame. -/
def Device.acfFrame (d : Device) (s : Nat) (x : AcfTx) : List Byte := d.acfHead s x.messages.length x.seq ++ x.messages

/-- The gathered frame of a stream sent into the switch at internal port 11. -/
def Device.acfSend (d : Device) (s : Nat) : Device :=
  let x := tgetD d.acf s AcfTx.empty
  if x.messages.isEmpty then d
  else
    let bs := d.acfFrame s x
    let d := { d with acf := tputD d.acf s { messages := [], seq := x.seq + 1 } AcfTx.empty }
    d.switchFrame 11 0 none (bs ++ List.replicate (60 - bs.length) 0)

/-- An ACF_CAN message of a copy: mtv set, the copy's time, its bus, identifier and data. -/
def acfMessage (f : CanFrame) (time : Word) (bus : Nat) : List Byte :=
  let pad := (4 - f.data.length % 4) % 4
  let b := fun (x : Bool) (n : Nat) => if x then n else 0
  bytesBe 2 (512 + (16 + f.data.length + pad) / 4) ++
    [BitVec.ofNat 8 (pad * 64 + 32 + b f.rtr 16 + b f.ide 8 + b f.brs 4 + b f.fdf 2), BitVec.ofNat 8 (bus % 32)] ++
    bytesBe 8 time.toNat ++ bytesBe 4 f.id.toNat ++ f.data ++ List.replicate pad 0

/-- A copy gathered by a transmitting stream: its frame so far is sent first where it would exceed 1,500 B. -/
def Device.toAcf (d : Device) (s : Nat) (f : CanFrame) (time : Word) (bus : Nat) : Device :=
  let m := acfMessage f time bus
  let d := if 1500 < (d.acfFrame s (tgetD d.acf s AcfTx.empty)).length + m.length then d.acfSend s else d
  let x := tgetD d.acf s AcfTx.empty
  { d with acf := tputD d.acf s { x with messages := x.messages ++ m } AcfTx.empty }

/-! ### Routing (R381, R382) -/

/-- The can_id field of a frame. -/
def canIdOf (f : CanFrame) : Half :=
  BitVec.ofNat 32 (f.id.toNat + (if f.ide then 2 ^ 29 else 0) + (if f.fdf then 2 ^ 30 else 0) + (if f.brs then 2 ^ 31 else 0))

/-- A copy handed to a host queue, which drops none (R385). -/
def Device.toHost (d : Device) (k src : Nat) (f : CanFrame) (time : Word × BitVec 16) : Device :=
  if !d.qRuns (32 + k) then d
  else
    d.deliver (32 + k) { id := 0, bytes := f.data, port := BitVec.ofNat 8 src, cls := 0, stamp := some time,
                         canId := canIdOf f }

/-- The lowest-numbered valid entry that a frame matches, by the offset of its MATCH register. -/
def Device.routeFor (d : Device) (src : Nat) (f : CanFrame) : Option Nat :=
  (d.regs.find? fun e =>
    decide (0xB10000 ≤ e.1) && decide (e.1 < 0xB50000) && e.1 % 64 = 0 && bitOf e.2 31 && bitsAt e.2 24 6 = src &&
      bitOf e.2 30 == f.ide && (f.id ^^^ (d.reg (e.1 + 4)).setWidth 29) &&& (d.reg (e.1 + 8)).setWidth 29 = 0).map (·.1)

/-- The copy of a frame that a destination asks for. A copy for a host queue keeps the bit-rate switch that was received,
as the worked example of R386 shows (log entry 33); a remote frame stays in classic format. -/
def copyFor (f : CanFrame) (w : Word) : CanFrame :=
  let fd := bitOf w 60 && !f.rtr
  let host := decide (48 ≤ bitsAt w 48 6)
  { f with id := if bitOf w 62 then f.id else BitVec.ofNat 29 (bitsAt w 0 29)
           ide := if bitOf w 62 then f.ide else bitOf w 61
           fdf := fd
           brs := fd && (if host then f.brs else bitOf w 59) }

/-- One copy of a frame sent to a destination. -/
def Device.sendCopy (d : Device) (src : Nat) (f : CanFrame) (time : Word × BitVec 16) (bus : Nat) (w : Word) : Device :=
  let port := bitsAt w 48 6
  let g := copyFor f w
  if !bitOf w 60 && 8 < f.data.length then d.sizeDrop src port f time.1
  else if port < 16 then d.toCan port g
  else if port < 48 then d.toAcf (port - 16) g time.1 bus
  else d.toHost (port - 48) src g time

/-- A frame from a source routed. -/
def Device.route (d : Device) (src : Nat) (f : CanFrame) (time : Word × BitVec 16) (bus : Nat) : Device :=
  match d.routeFor src f with
  | some off =>
    (((List.range 4).map fun j => d.reg (off + 16 + 8 * j)).filter fun w => bitOf w 63).foldl
      (fun d w => d.sendCopy src f time bus w) d
  | none =>
    if d.regBit Reg.gwyCtrl 0 then d.toHost (d.fld Reg.gwyCtrl 8 3) src f time else d.otherDrop 1

/-- A frame from an ACF stream or a host queue routed, or dropped for its length. -/
def Device.routeChecked (d : Device) (src : Nat) (f : CanFrame) (time : Word × BitVec 16) (bus : Nat) : Device :=
  if lengthOk f.data.length then d.route src f time bus else d.sizeDrop src 0x3F f time.1

/-- Whether the gateway runs. -/
def Device.gatewayOn (d : Device) : Bool := decide (d.cfg = .running) && decide (d.busy ≠ some .stop)

/-! ### Controllers (R379) -/

/-- The mode of a controller: 0 off, 1 classic, 2 FD, 3 FD listen only. -/
def Device.canMode (d : Device) (k : Nat) : Nat := d.fld (Reg.gwyCanCtrl k) 0 2

/-- Whether a controller takes part on its bus. -/
def Device.canUp (d : Device) (k : Nat) : Bool :=
  d.gatewayOn && d.canMode k ≠ 0 && !d.unitOff (64 + k) && decide ((d.canCtl k).conf ≠ .busOff) &&
    decide ((d.canCtl k).txErr ≤ 255)

/-- A controller's confinement state from its error counts: passive above 127. -/
def CanCtl.judged (c : CanCtl) : CanCtl :=
  if c.conf = .busOff then c
  else { c with conf := if 127 < c.txErr || 127 < c.rxErr then .passive else .active }

/-- A controller that has received a frame: its receive error count falls. -/
def CanCtl.received (c : CanCtl) : CanCtl :=
  { c with rxErr := if 127 < c.rxErr then 119 else c.rxErr - 1 }.judged

/-- A controller that has detected an error: a transmitter counts 8, a receiver 1, or 8 for a severe error. Above 255 the
transmit count calls for bus off, which CAN_BUS_OFF enters. -/
def CanCtl.erred (c : CanCtl) (transmitter severe : Bool) : CanCtl :=
  (if transmitter then { c with txErr := c.txErr + 8 }
   else { c with rxErr := min 255 (c.rxErr + if severe then 8 else 1) }).judged

/-- The effect of CAN_FRAME_RECEIVED; a controller in classic mode takes no FD frame. -/
def canFrameReceived (d : Device) (k : Nat) (f : CanFrame) : Device :=
  if !d.canUp k || (f.fdf && d.canMode k = 1) then d
  else (d.setCan k (d.canCtl k).received).route k f d.stamp k

/-- The effect of CAN_FRAME_TRANSMITTED: the frame offered wins arbitration and leaves. -/
def canFrameTransmitted (d : Device) (k : Nat) : Device :=
  let c := d.canCtl k
  match offered c.txq with
  | none => d
  | some f =>
    if !d.canUp k || d.canMode k = 3 then d
    else (d.setCan k { c with txq := c.txq.erase f, txErr := c.txErr - 1 }.judged).emit (.can k f)

/-- The effect of CAN_ERROR_DETECTED. -/
def canErrorDetected (d : Device) (k : Nat) (transmitter severe : Bool) : Device :=
  if d.canUp k then d.setCan k ((d.canCtl k).erred transmitter severe) else d

/-- The effect of CAN_BUS_OFF: a controller whose transmit error count has passed 255 goes off its bus. -/
def canBusOff (d : Device) (k : Nat) : Device :=
  let c := d.canCtl k
  if d.gatewayOn && d.canMode k ≠ 0 && !d.unitOff (64 + k) && decide (c.conf ≠ .busOff) && decide (255 < c.txErr) then
    d.setCan k { c with conf := .busOff, txErr := 255 }
  else d

/-- The effect of BUS_OFF_RECOVERY: automatic where auto_recover is set, else where a write of the mode has started it. -/
def busOffRecovery (d : Device) (k : Nat) : Device :=
  let c := d.canCtl k
  if c.conf = .busOff && d.canOn k && !d.unitOff (64 + k) && (c.restart || d.regBit (Reg.gwyCanCtrl k) 2) then
    d.setCan k { c with conf := .active, txErr := 0, rxErr := 0, restart := false }
  else d

/-! ### Received ACF frames (R384) -/

/-- The frame and bus that an ACF_CAN or ACF_CAN_BRIEF message carries, with the bytes behind it, or none where it is malformed. -/
def acfParse (bs : List Byte) : Option (CanFrame × Nat × List Byte) :=
  let type := beAt bs 0 1 / 2
  let len := 4 * (beAt bs 0 2 % 512)
  let head := if type = 1 then 16 else 8
  let flags := beAt bs 2 1
  let pad := flags / 64
  if (type ≠ 1 && type ≠ 2) || len < head + pad || bs.length < len then none
  else
    some ({ id := BitVec.ofNat 29 (beAt bs (head - 4) 4), ide := flags / 8 % 2 = 1, fdf := flags / 2 % 2 = 1,
            brs := flags / 4 % 2 = 1, rtr := flags / 16 % 2 = 1, data := slice bs head (len - pad - head) },
          beAt bs 3 1 % 32, bs.drop len)

/-- The messages of a received frame routed one after another, `n` at most. -/
def acfMessages (s : Nat) (time : Word × BitVec 16) : Nat → Device → List Byte → Device
  | 0, d, _ => d
  | n + 1, d, bs =>
    if bs.isEmpty then d
    else
      match acfParse bs with
      | none => d.otherDrop 4
      | some (f, bus, rest) => acfMessages s time n (d.routeChecked (16 + s) f time bus) rest

/-- The messages of a frame's AVTP control data, or none where its subtype or its length field disagrees. -/
def Device.acfData (d : Device) (s : Nat) (bs : List Byte) : Option (List Byte) :=
  let p := etherAt bs + 2
  let tscf := d.regBit (Reg.gwyAcfCtrl s) 2
  let start := p + if tscf then 24 else 12
  let len := if tscf then beAt bs (p + 20) 2 else beAt bs (p + 1) 2 % 2048
  if beAt bs p 1 ≠ (if tscf then 0x05 else 0x82) || bs.length < start + len then none else some (slice bs start len)

/-- The effect of ACF_FRAME_RECEIVE. -/
def acfFrameReceive (d : Device) (f : EthFrame) : Device :=
  if !d.gatewayOn then d
  else
    match d.acfStreamOf f.bytes with
    | none => d
    | some s =>
      match d.acfData s f.bytes with
      | none => d.otherDrop 4
      | some bs => acfMessages s (stampOf f.sfd 0 0) (bs.length + 1) d bs

/-- The effect of ACF_HOLD_EXPIRE. -/
def acfHoldExpire (d : Device) (s : Nat) : Device := if d.gatewayOn && d.acfDir s true then d.acfSend s else d

/-! ### Host queues (R386) -/

/-- The frame that a host queue's descriptor describes. -/
def hostFrame (raw data : List Byte) : CanFrame :=
  let w := BitVec.ofNat 32 (fieldAt raw 0x1C 4)
  { id := w.setWidth 29, ide := w.getLsbD 29, fdf := w.getLsbD 30, brs := w.getLsbD 31, rtr := false, data := data }

/-- The bytes of a host queue's frame routed with the time of its descriptor's fetch, and the descriptor written back. -/
def gwySend (d : Device) (q : Nat) (raw bs : List Byte) (fetched : BitVec 96) : Device :=
  let k := q - 32
  let time := stampOf fetched 0 0
  (d.route (48 + k) (hostFrame raw bs) time (16 + (k - 8))).writeBack q raw St.ok 0 (stampFields (some time))

/-- A descriptor of a host queue taken: a length outside the CAN FD set goes no further (log entry 91). -/
def gwyTake (d : Device) (q : Nat) (raw : List Byte) (fetched : BitVec 96) (ecc : Ecc) : Device :=
  let len := fieldAt raw 8 2
  if !lengthOk len then
    (d.sizeDrop (16 + q) 0x3F (hostFrame raw (List.replicate len 0)) (stampOf fetched 0 0).1).writeBack q raw
      St.sizeUnsupported 0x01 []
  else if len = 0 then gwySend d q raw [] fetched
  else d.qFetch q raw len ecc fun d bs => gwySend d q raw bs fetched

/-- What a descriptor that has been fetched asks for. -/
def queueGot (d : Device) (q : Nat) (raw : List Byte) (fetched : BitVec 96) (ecc : Ecc) : Device :=
  if qReceives q then qFill d q raw else if q < 32 then tsnTake d q raw ecc else gwyTake d q raw fetched ecc

/-- The bytes of a frame that a transmit queue has read. -/
def queueSend (d : Device) (q : Nat) (raw bs : List Byte) (fetched : BitVec 96) : Device :=
  if q < 32 then tsnSend d q raw bs else gwySend d q raw bs fetched

/-- A descriptor whose bytes are there: held with the time of its fetch while what it asks for is done. -/
def queueHas (d : Device) (q : Nat) (raw : List Byte) (ecc : Ecc) : Device :=
  queueGot (d.setQueue q { d.queue q with desc := some (raw, d.alm.count) }) q raw d.alm.count ecc

/-- The effect of QUEUE_DESCRIPTOR_TAKEN: the descriptor at the head is fetched, or one that was fetched goes on where its port let
it no further. What the memory's code reports counts from the first byte of the descriptor, with the frame's bytes behind it. -/
def queueDescriptorTaken (d : Device) (q : Nat) (ecc : Ecc) : Device :=
  if !d.qReady q then d
  else
    match (d.queue q).desc with
    | some (raw, fetched) => queueGot d q raw fetched (eccAfter 32 ecc)
    | none =>
      let a := d.qAddr q (d.queue q).head
      match d.qVeto q with
      | some v => (d.noteVeto a v).stopQueue q
      | none =>
        match d.region a with
        | .outbound pc _ => d.emitReads pc (.queueDesc q) a 32
        | _ =>
          d.via (qPort q) a 32 false fun d =>
            let d := d.memEcc a (eccBefore 32 ecc)
            match eccBefore 32 ecc with
            | .uncorrectable i => d.writeBack q (d.rd a 32) St.eccUncorr (d.eccDetail (a + i)) []
            | _ => queueHas d q (d.rd a 32) (eccAfter 32 ecc)

/-! ### The commands -/

/-- CAN_FRAME_RECEIVED. -/
def execCanFrameReceived (k : Fin 16) (frame : CanFrame) (s : State) : Host.Outcome State Fault Refusal :=
  actIf (Instr.wellFormed (.canFrameReceived k frame)) s fun d => canFrameReceived d k frame

/-- CAN_FRAME_TRANSMITTED. -/
def execCanFrameTransmitted (k : Fin 16) (s : State) : Host.Outcome State Fault Refusal :=
  actLive s fun d => canFrameTransmitted d k

/-- CAN_BUS_OFF. -/
def execCanBusOff (k : Fin 16) (s : State) : Host.Outcome State Fault Refusal :=
  actLive s fun d => canBusOff d k

/-- CAN_ERROR_DETECTED. -/
def execCanErrorDetected (k : Fin 16) (transmitter severe : Bool) (s : State) : Host.Outcome State Fault Refusal :=
  actLive s fun d => canErrorDetected d k transmitter severe

/-- BUS_OFF_RECOVERY. -/
def execBusOffRecovery (k : Fin 16) (s : State) : Host.Outcome State Fault Refusal :=
  actLive s fun d => busOffRecovery d k

/-- ACF_FRAME_RECEIVE. -/
def execAcfFrameReceive (frame : EthFrame) (s : State) : Host.Outcome State Fault Refusal :=
  actLive s fun d => acfFrameReceive d frame

/-- ACF_HOLD_EXPIRE. -/
def execAcfHoldExpire (stream : Fin 32) (s : State) : Host.Outcome State Fault Refusal :=
  actLive s fun d => acfHoldExpire d stream

/-- QUEUE_DESCRIPTOR_TAKEN. -/
def execQueueDescriptorTaken (q : QueueRef) (s : State) (ecc : Ecc := .clean) : Host.Outcome State Fault Refusal :=
  actLive s fun d => queueDescriptorTaken d (queueKey q) ecc

end Sys2Proof.Machine
end

