-- ==== Sys2Proof/Machine/Twin.lean ====
section
/-!
DEFINITION. The twin link: the status block, its polls and their judgement, chunks and back-off (R387 to R391).
-/

namespace Sys2Proof.Machine

/-- Whether PCB is a twin. -/
def Device.isTwin (d : Device) : Bool := d.role .b = 3

/-- Whether a twin link is up; link 1 exists only where the lanes are split. -/
def Device.twinUp (d : Device) (l : Nat) : Bool :=
  d.isTwin && (if l = 0 then d.links.pcb0 else d.regBit Reg.twnCtrl 0 && d.links.pcb1)

/-! ### The status block (R389) -/

/-- Whether some of sixteen words is nonzero. -/
def Device.anyWord (d : Device) (r : Nat → Nat) : Bool := (List.range 16).any fun w => d.reg (r w) ≠ 0

/-- The lowest Vigil stream with a miss, or 0x1FF. -/
def Device.lowestMiss (d : Device) : Nat :=
  ((List.range 512).find? fun s =>
    d.regBit (Reg.vglMissAge (s / 32)) (s % 32) || d.regBit (Reg.vglMissProd (s / 32)) (s % 32)).getD 0x1FF

/-- A Boolean as a bit. -/
def bitN (b : Bool) (i : Nat) : Nat := if b then 2 ^ i else 0

/-- The words of the status block. -/
def Device.statusBlock (d : Device) : List Half :=
  let pins := bitN (!d.faultLow) 0 + bitN (!d.safeLow) 1 + bitN d.rank 2
  let vigil := bitN (d.anyWord Reg.vglMissAge) 0 + bitN (d.anyWord Reg.vglMissProd) 1 + bitN d.vglSafe 2 + d.lowestMiss * 65536
  [BitVec.ofNat 32 (1 + pins * 2 ^ 16 + cfgCode d.cfg * 2 ^ 24), d.hwCount, d.ns.setWidth 32, (d.ns >>> 32).setWidth 32,
   halfOf (d.reg Reg.twnHeartbeat), halfOf (d.reg Reg.safFaultLatch), BitVec.ofNat 32 vigil,
   BitVec.ofNat 32 (d.fld (Reg.safUnitOff 0) 0 24)] ++ (List.range 8).map fun j => halfOf (d.reg (Reg.twnSw j))

/-- The device with a block put into sixteen registers. -/
def Device.setBlock (d : Device) (r : Nat → Nat) (block : List Half) : Device :=
  (List.range 16).foldl (fun d w => d.setReg (r w) (wordOf (block.getD w 0))) d

/-- The block that TWN_OWN shows. -/
def Device.ownBlock (d : Device) : List Half := (List.range 16).map fun w => halfOf (d.reg (Reg.twnOwn w))

/-- The effect of TWIN_STATUS_REFRESH. -/
def twinStatusRefresh (d : Device) : Device :=
  if !d.isTwin || d.tooSoon .twinRefresh then d
  else
    let d := d.noted .twinRefresh
    let d := { d with hwCount := d.hwCount + 1 }
    d.setBlock Reg.twnOwn d.statusBlock

/-! ### Polls (R389, R390) -/

/-- The effect of TWIN_POLL: a read of the peer's block on every link that is up. -/
def twinPoll (d : Device) : Device :=
  if !d.isTwin || d.tooSoon .twinPoll then d
  else
    [0, 1].foldl (fun d l => if d.twinUp l then (d.setTwin l { d.twin l with polling := true }).emit (.twinPoll l) else d)
      (d.noted .twinPoll)

/-- The effect of TWIN_POLL_REQUEST: the block as last refreshed, with the Almanac at the answer. -/
def twinPollRequest (d : Device) (l : Nat) : Device :=
  if !d.twinUp l then d
  else d.emit (.twinBlock l ((d.ownBlock.set 2 (d.ns.setWidth 32)).set 3 ((d.ns >>> 32).setWidth 32)))

/-- The device with a sticky bit of a link where a condition holds. -/
def Device.twinNote (d : Device) (c : Bool) (bit : Nat) : Device := if c then d.orReg Reg.twnSticky (2 ^ bit) else d

/-- The polls answered in a row without a change of heartbeat, after one more answer. -/
def hbRun (x : TwinLink) (heartbeat : Half) : Nat := if x.heartbeat = some heartbeat then x.hbSame + 1 else 0

/-- The effect of TWIN_POLL_ANSWER. -/
def twinPollAnswer (d : Device) (l : Nat) (block : List Half) : Device :=
  let x := d.twin l
  if !x.polling then d
  else
    let pins := (block.getD 0 0).toNat / 2 ^ 16 % 8
    let count := block.getD 1 0
    let heart := block.getD 4 0
    let same := hbRun x heart
    let d := d.setTwin l { x with polling := false, missed := 0, hwCount := some count, heartbeat := some heart, hbSame := same }
    let d := d.setBlock (Reg.twnPeer l) block
    let d := d.setFld Reg.twnStatus (3 + l) 1 1
    let d := d.setFld Reg.twnStatus (5 + l) 1 (1 - pins % 2)
    let d := d.setFld Reg.twnStatus (7 + l) 1 (1 - pins / 2 % 2)
    let d := d.twinNote (x.hwCount = some count) (2 + l)
    let d := d.twinNote (decide (max 1 (d.fld Reg.twnCtrl 8 8) ≤ same)) (4 + l)
    d.twinNote ((pins / 4 % 2 = 1) == d.rank) (6 + l)

/-- The effect of TWIN_POLL_TIMEOUT: a poll missed, the second in a row losing the peer. -/
def twinPollTimeout (d : Device) (l : Nat) : Device :=
  let x := d.twin l
  if !x.polling then d
  else
    let d := d.setTwin l { x with polling := false, missed := x.missed + 1 }
    if 1 ≤ x.missed then (d.setFld Reg.twnStatus (3 + l) 1 0).orReg Reg.twnSticky (2 ^ l) else d

/-! ### Chunks (R391) -/

/-- The rings of every tenancy, with the administrative ring. -/
def Device.allRings (d : Device) : List Ring := d.admin :: d.tenancies.flatMap fun t => t.2.rings.map (·.2)

/-- Whether a chunk of this device towards a peer is in progress: a copy or a store of a streamer, ordered ones apart. -/
def Device.ownChunk (d : Device) (l : Nat) : Bool :=
  (d.allRings.any fun r => match r.job with
    | .copying _ dst _ ordered _ _ => !ordered && decide (d.twinLinkOf dst = some l)
    | _ => false) ||
  d.banks.any fun b => b.2.transfers.any fun t => t.unit = .store && t.kind ≠ .ordered && d.twinLinkOf t.far = some l

/-- The effect of TWIN_BACKOFF: the device of low rank backs off while the peer's chunk is in progress. -/
def twinBackoff (d : Device) (l : Nat) : Device :=
  let x := d.twin l
  if !d.isTwin || d.rank || !x.peerChunk || x.backedOff || !d.ownChunk l then d
  else ((d.setTwin l { x with backedOff := true }).addCount Reg.twnBackoffs 0 32 1).orReg Reg.twnSticky (2 ^ (8 + l))

/-- The effect of TWIN_CHUNK_END: the peer's chunk is over, and a chunk backed off goes on. -/
def twinChunkEnd (d : Device) (l : Nat) : Device :=
  if d.isTwin then d.setTwin l { d.twin l with peerChunk := false, backedOff := false } else d

/-! ### The commands -/

/-- TWIN_STATUS_REFRESH. -/
def execTwinStatusRefresh (s : State) : Host.Outcome State Fault Refusal := actLive s twinStatusRefresh

/-- TWIN_POLL. -/
def execTwinPoll (s : State) : Host.Outcome State Fault Refusal := actLive s twinPoll

/-- TWIN_POLL_REQUEST. -/
def execTwinPollRequest (link : Fin 2) (s : State) : Host.Outcome State Fault Refusal :=
  actLive s fun d => twinPollRequest d link

/-- TWIN_POLL_ANSWER. -/
def execTwinPollAnswer (link : Fin 2) (block : List Half) (s : State) : Host.Outcome State Fault Refusal :=
  actIf (Instr.wellFormed (.twinPollAnswer link block)) s fun d => twinPollAnswer d link block

/-- TWIN_POLL_TIMEOUT. -/
def execTwinPollTimeout (link : Fin 2) (s : State) : Host.Outcome State Fault Refusal :=
  actLive s fun d => twinPollTimeout d link

/-- TWIN_CHUNK_END. -/
def execTwinChunkEnd (link : Fin 2) (s : State) : Host.Outcome State Fault Refusal :=
  actLive s fun d => twinChunkEnd d link

/-- TWIN_BACKOFF. -/
def execTwinBackoff (link : Fin 2) (s : State) : Host.Outcome State Fault Refusal :=
  actLive s fun d => twinBackoff d link

end Sys2Proof.Machine
end

