-- ==== Sys2Proof/Machine/Foreman.lean ====
section
/-!
DEFINITION. The Foreman: pools, paging, the steps of jobs, pre-emption and forced eviction (R232 to R237). What a step needs
and writes is the SV-5 package's own matter, which the spec does not give: free values (log entry 18).
-/

namespace Sys2Proof.Machine

/-! ### Pages -/

/-- The size of a page. -/
def pageBytes : Nat := 65536

/-- The pages of a partition's pool that are in use. -/
def Device.pool (d : Device) (p : Nat) : List Page := tgetD d.pools p []

/-- The device with a partition's pages replaced. -/
def Device.setPool (d : Device) (p : Nat) (l : List Page) : Device := { d with pools := tputD d.pools p l [] }

/-- The address of a place in a pool. -/
def Device.slotAddr (d : Device) (p slot : Nat) : Nat := d.fld (Reg.fmnPoolBase p) 16 32 * pageBytes + slot * pageBytes

/-- The place of page n in a list of windows, whole pages of each in turn. -/
def pageIn : List Window → Nat → Option Nat
  | [], _ => none
  | w :: ws, n =>
    let k := (w.limit + 1 - w.base) / pageBytes
    if n < k then some (w.base + n * pageBytes) else pageIn ws (n - k)

/-- The DDR backing of a page of a context: the tenancy's DDR windows in rising index (log entry 35). -/
def Device.backing (d : Device) (c n : Nat) : Option Nat :=
  pageIn ((tvals (d.ten (d.ctx c).tenancy).windows).filter fun w => match d.region w.base with
    | .ddr _ => true
    | _ => false) n

/-- The page of a context in a pool. -/
def Device.pageOf (d : Device) (p c n : Nat) : Option Page := (d.pool p).find? fun x => x.ctx = c && x.page = n

/-- The lowest place of a pool that no page takes. -/
def Device.freePlace (d : Device) (p : Nat) : Option Nat :=
  (List.range (d.poolPages p)).find? fun k => (d.pool p).all fun x => x.slot ≠ k

/-- The page last used longest ago of those that no job step pins. -/
def oldestPage : List Page → Option Page
  | [] => none
  | x :: l =>
    match oldestPage l with
    | some y => if x.pinned || y.used < x.used then some y else some x
    | none => if x.pinned then none else some x

/-! ### Jobs -/

/-- The package of a job. -/
def Device.jobPackage (d : Device) (j : FmJob) : Option Package :=
  match tget (d.ctx j.ctx).loaded j.slab with
  | some (.package p) => some p
  | _ => none

/-- The image of a job's package, as its load read it. -/
def Device.jobImage (d : Device) (j : FmJob) : List Byte := ((d.jobPackage j).map (·.raw)).getD []

/-- The pages a job's next step needs. -/
def Device.jobPages (d : Device) (j : FmJob) : List Nat := Config.stepPages (d.jobImage j) j.done

/-- The pages a job's next step needs that the pool does not hold. -/
def Device.missing (d : Device) (p : Nat) (j : FmJob) : List Nat :=
  (d.jobPages j).filter fun n => (d.pageOf p j.ctx n).isNone

/-- Whether a job is its context's first and its context is OPEN in a partition: a job that is ready, runs, or was pre-empted. -/
def Device.jobReady (d : Device) (p : Nat) (j : FmJob) : Bool :=
  d.ctxPart j.ctx = p && decide ((d.ctx j.ctx).st = .opened) && !d.ctxOffline j.ctx &&
    d.jobs.all fun i => i.ctx ≠ j.ctx || decide (j.order ≤ i.order)

/-- The ready jobs of a partition. -/
def Device.readyJobs (d : Device) (p : Nat) : List FmJob := d.jobs.filter (d.jobReady p)

/-- The device with a job replaced. -/
def Device.setJob (d : Device) (j : FmJob) : Device :=
  { d with jobs := d.jobs.map fun i => if i.ctx = j.ctx && i.index = j.index then j else i }

/-- The job of highest priority, the earliest submitted of those that tie. -/
def bestJob : List FmJob → Option FmJob
  | [] => none
  | j :: l =>
    match bestJob l with
    | some i => if j.priority < i.priority || (j.priority = i.priority && i.order < j.order) then some i else some j
    | none => some j

/-- A context's pages with their pins set as a function says, and the device's order of use counted on. -/
def Device.pin (d : Device) (p c : Nat) (f : Page → Page) : Device :=
  { d.setPool p ((d.pool p).map fun x => if x.ctx = c then f x else x) with nextId := d.nextId + 1 }

/-- A job's RUN ended with a status by an access that failed (R313), once its entry can be written. -/
def Device.jobFail (d : Device) (j : FmJob) (status detail : Byte) : Device :=
  let k := d.ctxRing j.ctx
  if d.entryHeld k then d else Device.settleHead queueMax (d.dismiss k status detail) k

/-- The pool addresses of the pages a job's next step needs. -/
def Device.jobSlots (d : Device) (p : Nat) (j : FmJob) : List Nat :=
  (d.jobPages j).filterMap fun n => (d.pageOf p j.ctx n).map fun x => d.slotAddr p x.slot

/-- Whether a port holds the first line of one of some pages (R191, R198). -/
def Device.pagesHeld (d : Device) (port : Nat) (l : List Nat) : Bool := l.any fun a => d.portHolds port a

/-- Pages charged to a cluster's share of the legacy grant (R191). -/
def Device.chargePages (d : Device) (port : Nat) (l : List Nat) (write : Bool) : Device :=
  l.foldl (fun d a => d.charge port a pageBytes write) d

/-- The step of a job on a cluster begun where none of its pages is missing: it takes the pages as they stand (R237), through the
cluster's port. -/
def Device.beginStep (d : Device) (p cluster : Nat) (j : FmJob) : Device :=
  let at_ := d.jobSlots p j
  if j.inputs.isSome || !(d.missing p j).isEmpty || d.pagesHeld cluster at_ then d
  else if at_.any fun a => d.rangeOff a pageBytes then d.jobFail j St.unitOffline 0
  else
    (d.chargePages cluster at_ false).setJob
      { j with inputs := some (at_.map fun a => d.rd a pageBytes), started := j.started.or (some d.ns) }

/-- A job put on a cluster: the pages its step needs are pinned and used, and its step begins once none is missing. -/
def Device.startJob (d : Device) (p cluster : Nat) (j : FmJob) : Device :=
  let need := d.jobPages j
  let j' : FmJob := { j with cluster := some cluster }
  let d' := d.pin p j.ctx fun x => if need.contains x.page then { x with pinned := true, used := d.nextId } else x
  (d'.setJob j').beginStep p cluster j'

/-! ### Write-back (R233, R236) -/

/-- Where a page that its context has written is copied back. -/
def Device.backAt (d : Device) (x : Page) : Option Nat := if x.dirty then d.backing x.ctx x.page else none

/-- A page copied back and its place freed. One whose place or backing is at a unit held offline is lost, and the run of its context
ends (log entry 92). -/
def Device.evict (d : Device) (p : Nat) (x : Page) : Device :=
  let d' := d.setPool p ((d.pool p).filter fun y => y.slot ≠ x.slot)
  let src := d.slotAddr p x.slot
  match d.backAt x with
  | none => d'
  | some a =>
    if d.rangeOff src pageBytes || d.rangeOff a pageBytes then
      match (d.readyJobs p).find? fun j => j.ctx = x.ctx with
      | some j => d'.jobFail j St.unitOffline 0
      | none => d'
    else (d'.tenWrite (d.ctx x.ctx).tenancy a (d.rd src pageBytes)).addCount Reg.fmnPageOuts 0 32 1

/-! ### Blocked contexts (R236) -/

/-- Whether a job's next step needs pages that cannot be freed: the pool is full and every page of it pinned. -/
def Device.blocked (d : Device) (p : Nat) (j : FmJob) : Bool :=
  !(d.missing p j).isEmpty && (d.freePlace p).isNone && (d.pool p).all (·.pinned)

/-- The order of the last step of a job's context; 0 where it has run none. -/
def Device.lastStep (d : Device) (j : FmJob) : Nat := tgetD d.lastSteps j.ctx 0

/-- The job whose context has least recently run a step. -/
def Device.stalestJob (d : Device) : List FmJob → Option FmJob
  | [] => none
  | j :: l =>
    match d.stalestJob l with
    | some i => if d.lastStep i < d.lastStep j then some i else some j
    | none => some j

/-- The written pages of a context in a pool. -/
def Device.writtenPages (d : Device) (p c : Nat) : List Nat :=
  ((d.pool p).filter fun x => x.ctx = c && (d.backAt x).isSome).map fun x => d.slotAddr p x.slot

/-- Where every context with a ready or pre-empted job is blocked, a victim gives up all of its pages, once the port of the cluster that
writes them back lets it. -/
def Device.forceVictim (d : Device) (p port : Nat) : Device :=
  let l := d.readyJobs p
  if !l.all (d.blocked p) then d
  else
    match d.stalestJob l with
    | none => d
    | some j =>
      let back := ((d.pool p).filter fun x => x.ctx = j.ctx).filterMap d.backAt
      if d.pagesHeld port (d.writtenPages p j.ctx) || d.pagesHeld port back then d
      else
        let d' := (d.chargePages port (d.writtenPages p j.ctx) false).chargePages port back true
        let d' := d'.setJob { j with cluster := none, inputs := none }
        let d' := ((d.pool p).filter fun x => x.ctx = j.ctx).foldl (fun d x => d.evict p x) d'
        (d'.addCount Reg.fmnForced 0 32 1).orReg Reg.fmnSticky (2 ^ p)

/-! ### Paging (R233) -/

/-- Whether the Foreman of a partition works: in a pool slice of a legacy partition. -/
def Device.foremanOn (d : Device) (p : Nat) : Bool :=
  decide (d.cfg = .running) && d.partValid p && d.partLegacy p &&
    d.cal.slices.any fun i => (d.entry i).any fun e => e.kind = .pool p

/-- A page copied into a free place of the pool through a cluster's port, pinned by the step it is for; the step begins with the last
of its pages. An uncorrectable word ends the context alone (R174). -/
def Device.pageIn' (d : Device) (p cluster slot a : Nat) (j : FmJob) (n : Nat) (ecc : Ecc) : Device :=
  let dst := d.slotAddr p slot
  if d.rangeOff a pageBytes || d.rangeOff dst pageBytes then d.jobFail j St.unitOffline 0
  else
    d.viaMove cluster a dst pageBytes fun d =>
      let d := d.memEcc a ecc
      match ecc with
      | .uncorrectable i => d.ctxFault j.ctx (4 * cluster) St.eccUncorr (d.eccDetail (a + i))
      | _ =>
        let d := (d.wr dst (d.rd a pageBytes)).addCount Reg.fmnPageIns 0 32 1
        let x : Page := { slot := slot, ctx := j.ctx, page := n, dirty := false, pinned := true, used := d.nextId }
        let d : Device := { d.setPool p (d.pool p ++ [x]) with nextId := d.nextId + 1 }
        d.beginStep p cluster j

/-- A page of the pool given up for another, once it has been copied back where it must be. -/
def Device.freePage (d : Device) (p cluster : Nat) (x : Page) (f : Device → Device) : Device :=
  match d.backAt x with
  | none => f (d.evict p x)
  | some a => d.viaMove cluster (d.slotAddr p x.slot) a pageBytes fun d => f (d.evict p x)

/-- The effect of FOREMAN_PAGE_IN: a page that the next step of a job on a cluster needs. -/
def foremanPageIn (d : Device) (p c n : Nat) (ecc : Ecc) : Device :=
  match (d.readyJobs p).find? fun j => j.ctx = c && j.cluster.isSome with
  | none => d
  | some j =>
    let cluster := j.cluster.getD 0
    if !d.foremanOn p || !(d.missing p j).contains n then d
    else
      match d.backing c n with
      | none => d
      | some a =>
        match d.freePlace p with
        | some slot => d.pageIn' p cluster slot a j n ecc
        | none =>
          match oldestPage (d.pool p) with
          | some x => d.freePage p cluster x fun d => d.pageIn' p cluster x.slot a j n ecc
          | none => d.forceVictim p cluster

/-! ### Steps (R235, R237) -/

/-- The pages that a job's step writes, at its end, with their bytes. -/
def Device.stepOutputs (d : Device) (p : Nat) (j : FmJob) : List (Page × List Byte) :=
  (Config.stepBytes (d.jobImage j) j.done (j.inputs.getD [])).filterMap fun o =>
    (d.pageOf p j.ctx o.1).map fun x => (x, slice o.2 0 pageBytes)

/-- One output page of a step written. -/
def Device.writePage (d : Device) (p : Nat) (o : Page × List Byte) : Device :=
  let d := d.wr (d.slotAddr p o.1.slot) o.2
  d.setPool p ((d.pool p).map fun y => if y.slot = o.1.slot then { y with dirty := true } else y)

/-- The RESULT entries of a job that has completed: how many were delivered with OK, and their productions (R28, R335). -/
def Device.jobDeliver (d : Device) (k : RingRef) (x : QDesc) (j : FmJob) : Device × Nat :=
  let tags := tagsOf (d.descTags k x)
  (d.jobResults (some j)).foldl (fun (e : Device × Nat) id =>
    let w := e.1.jobEntry k x id (startOf (some j)) St.ok 0
    if w.2 then (if tags.ingressFail then w.1 else w.1.produce j.ctx id tags.timestamp, e.2 + 1) else (w.1, e.2)) (d, 0)

/-- A job that has run its last step completed: its results, and its RUN_END (log entry 84). -/
def Device.jobDone (d : Device) (j : FmJob) : Device :=
  let k := d.ctxRing j.ctx
  match (d.ring k).queued with
  | [] => d
  | x :: _ =>
    let tags := d.descTags k x
    let r := d.jobDeliver k x j
    let d := (r.1.dropJob k x).popHead k
    Device.settleHead queueMax
      (d.lastEntry k x tags St.ok 0 0x02 (jobPayload (x.field 0x20 1) j.sat r.2 (startOf (some j)) d.ns)) k

/-- The ready jobs of a partition that a cluster can run: those of the contexts resident on it (R209, R211). -/
def Device.jobsFor (d : Device) (p cluster : Nat) : List FmJob := (d.readyJobs p).filter fun j => inMask (d.ctxMask j.ctx) cluster

/-- The cluster's next job: it goes on with its own, or a job of higher priority pre-empts it. -/
def Device.nextJob (d : Device) (p cluster : Nat) : Device :=
  let own := (d.readyJobs p).find? fun j => j.cluster = some cluster
  match own, bestJob ((d.jobsFor p cluster).filter fun j => j.cluster.isNone) with
  | none, none => d
  | none, some i => d.startJob p cluster i
  | some j, none => d.startJob p cluster j
  | some j, some i =>
    if j.priority < i.priority then
      ((d.pin p j.ctx fun x => { x with pinned := true }).setJob { j with cluster := none }).startJob p cluster i
    else d.startJob p cluster j

/-- Whether a job has run every step of its package. -/
def Device.lastDone (d : Device) (j : FmJob) : Bool := (d.jobPackage j).all fun q => decide (q.steps ≤ j.done)

/-- The saturations of an ended step counted (R34, R128). -/
def Device.countSats (d : Device) (n : Nat) : Device :=
  if n = 0 then d else (d.addCount Reg.cfgSatTotal 0 32 n).orReg Reg.cfgNumSticky 1

/-- The end of the step of the job on a cluster: its outputs, and its RUN completed at its last step. -/
def Device.endStep (d : Device) (p cluster : Nat) (j : FmJob) : Device :=
  let out := d.stepOutputs p j
  let sats := Config.stepSats (d.jobImage j) j.done (j.inputs.getD [])
  let need := d.jobPages j
  let now := d.nextId
  let d := (d.chargePages cluster (out.map fun o => d.slotAddr p o.1.slot) true).countSats sats
  let d := (out.foldl (fun d o => d.writePage p o) d).pin p j.ctx fun x =>
    { x with pinned := false, used := if need.contains x.page then now else x.used }
  let j' : FmJob := { j with done := j.done + 1, inputs := none, sat := holdAdd 32 j.sat sats }
  let d := { d.setJob j' with lastSteps := tput d.lastSteps j.ctx now }
  if d.lastDone j' then d.jobDone j' else d

/-- What the end of a step waits for: the pages it writes at the cluster's port, and at the last step the port of the entries. -/
def Device.stepHeld (d : Device) (p cluster : Nat) (j : FmJob) : Bool :=
  d.pagesHeld cluster ((d.stepOutputs p j).map fun o => d.slotAddr p o.1.slot) ||
    (d.lastDone { j with done := j.done + 1 } && d.entryHeld (d.ctxRing j.ctx))

/-- The effect of FOREMAN_STEP_END. Where the cluster runs no job, it is the Foreman's choice of its first one; where its job's step has
not begun, the step begins. -/
def foremanStepEnd (d : Device) (p cluster : Nat) : Device :=
  if !d.foremanOn p || !inMask (d.partMask p) cluster || d.unitOff cluster then d
  else
    match (d.readyJobs p).find? fun j => j.cluster = some cluster with
    | some j =>
      if j.inputs.isNone then (d.beginStep p cluster j).forceVictim p cluster
      else if d.stepHeld p cluster j then d
      else if (d.stepOutputs p j).any fun o => d.rangeOff (d.slotAddr p o.1.slot) pageBytes then d.jobFail j St.unitOffline 0
      else ((d.endStep p cluster j).nextJob p cluster).forceVictim p cluster
    | none => (d.nextJob p cluster).forceVictim p cluster

/-! ### The commands -/

/-- FOREMAN_PAGE_IN. -/
def execForemanPageIn (p : Fin 16) (ctx : Fin 256) (page : Nat) (s : State) (ecc : Ecc := .clean) : Host.Outcome State Fault Refusal :=
  actLive s fun d => foremanPageIn d p ctx page ecc

/-- FOREMAN_STEP_END. -/
def execForemanStepEnd (p : Fin 16) (cluster : Fin 24) (s : State) : Host.Outcome State Fault Refusal :=
  actLive s fun d => foremanStepEnd d p cluster

end Sys2Proof.Machine
end

