-- ==== Sys2Proof/Machine/Registers.lean ====
section
/-!
DEFINITION. Accesses to the physical address map by a requester: register blocks with their field types, write rules and views
(R8 to R14, R303, R306, R353, R418, R425), doorbell pages (R240, R246 to R248), and memory and outbound ranges for harts (R286; log
entry 79).
-/

namespace Sys2Proof.Machine

/-! ### Write rules (R425) -/

/-- Whether a row's RW fields take a write now. -/
def Device.mayWrite (d : Device) (who : Who) : WriteRule → Bool
  | .whileLoading => d.cfg = .loading
  | .islandWhileLoading => decide (d.cfg = .loading) && whoIsIsland who
  | .always => true
  | .islandAlways => whoIsIsland who
  | .adminDisabled => !d.regBit Reg.hifAdminCtrl 0
  | .special => true

/-- The register slot of an offset (R422). -/
def slotOf (a : Nat) : Nat := a / 0x100000

/-- Whether a requester can clear the sticky fields of a block: those of CHK and VGL yield to island harts alone (R353). -/
def mayClear (who : Who) (a : Nat) : Bool := (slotOf a ≠ 0x0F && slotOf a ≠ 0x05) || whoIsIsland who

/-- Whether a write is turned away: to SAF by any other than an island hart (R353), to a register that only island harts write
by a host hart (R418), and anything of SAF and SEC from a fabric bridge (R279). -/
def writeDenied (who : Who) (r : RegRow) : Bool :=
  (slotOf r.off = 0x0E && !whoIsIsland who) || (slotOf r.off = 0x11 && whoIsBridge who) ||
    (r.rule = .islandAlways && !whoIsIsland who && !whoIsBridge who)

/-- A write by field types (R11): RW fields take the value where the rule lets them, W1C fields clear where it has a 1. A record
whose guard is then clear is cleared with it. -/
def Device.plainWrite (d : Device) (who : Who) (r : RegRow) (a : Nat) (v : Word) : Device :=
  let d := d.reply .written
  let old := d.reg a
  let rw := BitVec.ofNat 64 (if d.mayWrite who r.rule then r.rw else 0)
  let clr := BitVec.ofNat 64 (if mayClear who a then r.w1c else 0)
  let new := ((old &&& ~~~rw) ||| (v &&& rw)) &&& ~~~(v &&& clr)
  (d.setReg a new).dropRecords

/-- A write to SEC_CMD: 1 is ATTEST, 2 RAISE_FLOOR, which takes an island hart. -/
def secCmd (d : Device) (who : Who) (v : Half) : Device :=
  match v.toNat % 4 with
  | 1 => attest (d.reply .written)
  | 2 => if whoIsIsland who then raiseFloor (d.reply .written) else d.deny who
  | _ => d.reply .written

/-- A write to HIF_ADMIN_CTRL. -/
def adminCtrlWrite (d : Device) (v : Half) : Device := if v.getLsbD 0 then adminRingEnable d v else adminRingDisable d v

/-- A write to GWY_CANk_CTRL; a write of the mode of a controller that is bus off starts its recovery (R379). -/
def Device.canCtrlWrite (d : Device) (who : Who) (r : RegRow) (a : Nat) (v : Word) : Device :=
  let k := r.index1 a
  let c := d.canCtl k
  let d' := d.plainWrite who r a v
  if c.conf = .busOff && d.mayWrite who r.rule then d'.setCan k { c with restart := true } else d'

/-- A write to the register of a row. The registers whose writes do more than their field types say go to their own
operations; which bits a write to SAF_HOST_PAIR_RESET meets is what the comparators last reported. -/
def Device.writeRow (d : Device) (who : Who) (r : RegRow) (a : Nat) (v : Word) : Device :=
  let h := halfOf v
  let i := r.index1 a
  let j := r.index2 a
  match r.off with
  | 0x8 => cfgCmd d who h
  | 0x14 => cfgOppReq d h
  | 0x2c => cfgCtlOutSet d h
  | 0x30 => cfgCtlOutClr d h
  | 0x200010 => almIncrWrite d v
  | 0x200018 => almLeapWrite d v
  | 0x200020 => d.afterFirings fun d => d.plainWrite who r a v
  | 0x200040 => d.afterFirings fun d => d.plainWrite who r a v
  | 0x200048 => almCmpPeriodWrite d i h
  | 0x300000 => hrdSrcWrite d who i h
  | 0x301080 => hrdPendSet d who i h
  | 0x301100 => hrdPendClr d who i h
  | 0x302000 => d.onTarget who i (·.reply .written) (·.reply .written)
  | 0x304000 => hrdEnSet d who i j h
  | 0x306000 => hrdEnClr d who i j h
  | 0x310000 => hrdThreshold d who i h
  | 0x310004 => d.onTarget who i (·.reply .written) (·.reply .written)
  | 0x310008 => hrdComplete d who i h
  | 0x310010 => hrdMtimecmp d who i v
  | 0x520000 => vglConsume d i v
  | 0x530000 => vglProduce d i v
  | 0x900000 => adminCtrlWrite d h
  | 0x900018 => sqTailWrite d who .admin h
  | 0x90001c => cqHeadWrite d who .admin h
  | 0xb00100 => d.canCtrlWrite who r a v
  | 0xb80000 => qTailWrite d (32 + i) h
  | 0xb80004 => qSeenWrite d (32 + i) h
  | 0xc80000 => qTailWrite d i h
  | 0xc80004 => qSeenWrite d i h
  | 0xd40004 => csiSrelWrite d i h
  | 0xe00010 => wdogEnable d h
  | 0xe00014 => wdogKick d h
  | 0xe0001c => hostPairReset d h d.boot.hostPass
  | 0xe00050 => safUnitOffSet d i h
  | 0xe00060 => safUnitOffClr d i h
  | 0xf00004 => chkTestInject d h
  | 0x1100010 => secCmd d who h
  | _ => d.plainWrite who r a v

/-! ### Views: registers that show other state -/

/-- Sixteen or more bits of a list of numbers, as the bits of word `w` of 32. -/
def wordBits (l : List Nat) (w : Nat) : Word :=
  BitVec.ofNat 64 (((l.filter fun s => s / 32 = w).map fun s => 2 ^ (s % 32)).sum)

/-- The code of a ring's or queue's state. -/
def ringCode : RingState → Nat
  | .unset => 0
  | .running => 1
  | .stopped => 2

/-- The code of a context's state (R212). -/
def ctxCode : CtxState → Nat
  | .closed => 0
  | .opened => 1
  | .tearing => 2

/-- CAL_CTX_STATEn. -/
def Device.ctxView (d : Device) (c : Nat) : Nat :=
  let x := d.ctx c
  ctxCode x.st + (if x.st = .closed then 0xFF else x.tenancy) * 2 ^ 8 + x.loaded.length * 2 ^ 16

/-- HIF_TN_STATEt. -/
def Device.tenView (d : Device) (t : Nat) : Nat :=
  let x := d.ten t
  bitN x.on 0 + bitN x.frozen 1 + bitN x.log.isSome 2 + x.vector.toNat * 2 ^ 8 + x.target.toNat * 2 ^ 16

/-- HIF_PCx_CTRL: its settings with role, link_up and rdy. -/
def Device.pcView (d : Device) (c : Pc) : Nat :=
  (d.reg (if c = .a then Reg.hifPcaCtrl else Reg.hifPcbCtrl)).toNat + (d.role c).toNat + bitN (d.role c ≠ 0 && d.linkUp c) 4 +
    bitN (d.rdy c) 5

/-- GWY_CANk_STATUS; a transmit error count that has passed 255 shows as 255 until the controller is bus off. -/
def Device.canView (d : Device) (k : Nat) : Nat :=
  let c := d.canCtl k
  let code := if !d.canOn k then 3 else match c.conf with
    | .active => 0
    | .passive => 1
    | .busOff => 2
  code + min 255 c.txErr * 2 ^ 8 + c.rxErr * 2 ^ 16

/-- MRG_THROTTLE_STATE. -/
def Device.throttleView (d : Device) : Nat :=
  let bits := fun (h : HalfReg) (best target : Nat) =>
    (h.steps.map fun s => if s = 8 then 2 ^ best else 2 ^ (target + s)).sum
  bits d.half0 0 16 + bits d.half1 1 24

/-- Whether a sticky field of a block is set (R348). -/
def Device.blockSticky (d : Device) (slot : Nat) : Bool :=
  d.regs.any fun e => slotOf e.1 = slot && (regRowAt e.1).any fun r => r.sticky && e.2 &&& BitVec.ofNat 64 r.w1c ≠ 0

/-- SAF_STICKY_SUMMARY. -/
def Device.summary (d : Device) : Nat :=
  (([0x01, 0x00, 0x06, 0x07, 0x08, 0x04, 0x10, 0x09, 0x03, 0x0F, 0x05, 0x0E, 0x02, 0x0A, 0x0B, 0x0C, 0x0D, 0x11].zipIdx).map
    fun e => bitN (d.blockSticky e.1) e.2).sum

/-- CFG_STATE. -/
def Device.cfgView (d : Device) : Nat := cfgCode d.cfg + bitN d.busy.isSome 4 + d.lastResult.toNat * 2 ^ 8

/-- TWN_STATUS. -/
def Device.twinView (d : Device) : Nat :=
  (d.reg Reg.twnStatus).toNat / 8 * 8 + bitN d.rank 0 + bitN (d.twinUp 0) 1 + bitN (d.twinUp 1) 2

/-- A count of a frame queue's page. -/
def Device.queueView (d : Device) (q k : Nat) : Nat :=
  let x := d.queue q
  match k with
  | 0 => x.tail.toNat
  | 1 => x.seen.toNat
  | 2 => x.head.toNat
  | _ => ringCode x.state

/-- What the register of a row shows. -/
def Device.view (d : Device) (r : RegRow) (a : Nat) : Word :=
  let i := r.index1 a
  let n := BitVec.ofNat 64
  match r.off with
  | 0x0 => d.ident
  | 0x4 => n d.cfgView
  | 0x28 => if d.cfg = .running then d.reg a else d.boot.ctlSafe.setWidth 64
  | 0x38 => n (d.boot.ctlSafe.toNat + d.boot.ctlFollow.toNat * 2 ^ 16)
  | 0xc0 => n (d.boot.hostSplit.toNat + bitN d.boot.islandSplit 8)
  | 0x200000 => d.ns
  | 0x301000 => wordBits d.herald.pend i
  | 0x301180 => wordBits (d.herald.inserv.map (·.1)) i
  | 0x403000 => n (d.ctxView i)
  | 0x600d00 => n d.throttleView
  | 0x700000 => n (d.boot.rate.toNat + d.boot.density.toNat * 2 ^ 4)
  | 0x900000 => d.reg a ||| n (ringCode d.admin.state * 4)
  | 0x900018 => wordOf d.admin.sqTail
  | 0x90001c => wordOf d.admin.cqHead
  | 0x900020 => wordOf d.admin.sqHead
  | 0x900040 => n (d.pcView .a)
  | 0x900044 => n (d.pcView .b)
  | 0x900100 => n (d.tenView i)
  | 0xa00004 => n d.twinView
  | 0xb0010c => n (d.canView i)
  | 0xb80000 => n (d.queueView (32 + i) 0)
  | 0xb80004 => n (d.queueView (32 + i) 1)
  | 0xb80008 => n (d.queueView (32 + i) 2)
  | 0xb8000c => n (d.queueView (32 + i) 3)
  | 0xc80000 => n (d.queueView i 0)
  | 0xc80004 => n (d.queueView i 1)
  | 0xc80008 => n (d.queueView i 2)
  | 0xc8000c => n (d.queueView i 3)
  | 0xd40000 => wordOf (d.stream i).fill
  | 0xd40004 => wordOf (d.stream i).rel
  | 0xe00000 => n ((d.reg a).toNat % 8 + bitN (!d.faultLow) 8 + bitN (!d.safeLow) 9)
  | 0xe00038 => n d.summary
  | _ => d.reg a

/-- Whether a row belongs to a Herald target, whose registers have an owner and a hart (R293, R303). -/
def targetRow (r : RegRow) : Bool :=
  [0x302000, 0x304000, 0x306000, 0x310000, 0x310004, 0x310008, 0x310010].contains r.off

/-- RC fields returned to their reset value by a read (R11, R13). -/
def Device.readClears (d : Device) (r : RegRow) (a : Nat) : Device :=
  if r.rc = 0 then d
  else
    let rc := BitVec.ofNat 64 r.rc
    d.setReg a ((d.reg a &&& ~~~rc) ||| (regReset a &&& rc))

/-- A read of the register of a row. -/
def Device.readRow (d : Device) (who : Who) (r : RegRow) (a : Nat) : Device :=
  if r.off = 0x310004 then hrdClaim d who (r.index1 a)
  else if r.off = 0x200000 then almNowRead d
  else if targetRow r then
    d.onTarget who (r.index1 a) (·.reply (.value 0)) fun d => d.reply (.value (d.view r a))
  else (d.readClears r a).reply (.value (d.view r a))

/-! ### Register accesses (R9 to R11) -/

/-- Whether an access is a naturally aligned one of 4 or 8 bytes. -/
def regSized (a n : Nat) : Bool := (n = 4 || n = 8) && a % n = 0

/-- Whether every byte of an access is unassigned. -/
def allUnassigned (a n : Nat) : Bool := (List.range n).all fun i => !regByteAssigned (a + i)

/-- A write of `n` bytes at an offset of the register blocks; the SAF block takes none but an island hart's (R353). -/
def regWrite (d : Device) (who : Who) (a n : Nat) (v : Word) : Device :=
  if !regSized a n then d.deny who
  else
    match regRowAt a with
    | some r =>
      if r.bytes ≠ n || writeDenied who r then d.deny who
      else d.writeRow who r a (if n = 4 then wordOf (halfOf v) else v)
    | none => if allUnassigned a n && (slotOf a ≠ 0x0E || whoIsIsland who) then d.reply .written else d.deny who

/-- A read of `n` bytes at an offset of the register blocks. -/
def regRead (d : Device) (who : Who) (a n : Nat) : Device :=
  if !regSized a n || (whoIsBridge who && (slotOf a = 0x0E || slotOf a = 0x11)) then d.deny who
  else
    match regRowAt a with
    | some r => if r.bytes ≠ n then d.deny who else d.readRow who r a
    | none => if allUnassigned a n then d.reply (.value 0) else d.deny who

/-! ### Doorbell pages -/

/-- RING_STATE of a ring: 0b11 while it runs and its tenancy is frozen. -/
def Device.ringView (d : Device) (t r : Nat) : Nat :=
  let x := d.ring (ringRefOf t r)
  (if x.state = .running && (d.ten t).frozen then 3 else ringCode x.state) + x.cause.toNat * 2 ^ 8

/-- A write of 4 bytes to a doorbell page. -/
def pageWrite (d : Device) (who : Who) (t off : Nat) (v : Word) : Device :=
  let k := ringRefOf t (off / 0x40)
  if 0x440 ≤ off then d.reply .written
  else match off % 0x40 with
    | 0 => sqTailWrite d who k (halfOf v)
    | 4 => cqHeadWrite d who k (halfOf v)
    | _ => d.reply .written

/-- A read of 4 bytes of a doorbell page. -/
def pageRead (d : Device) (t off : Nat) : Device :=
  let r := off / 0x40
  let x := d.ring (ringRefOf t r)
  let v : Nat := if 0x440 ≤ off then 0 else match off % 0x40 with
    | 0 => x.sqTail.toNat
    | 4 => x.cqHead.toNat
    | 8 => x.sqHead.toNat
    | 12 => d.ringView t r
    | _ => 0
  d.reply (.value (BitVec.ofNat 64 v))

/-! ### Memory and outbound ranges (R276, R286, R313, R314) -/

/-- Whether a hart's access has a size and an alignment it can have. -/
def hartSized (a n : Nat) : Bool := (n = 1 || n = 2 || n = 4 || n = 8) && a % n = 0

/-- Whether a hart's access meets a unit held offline; an island hart still reaches the Bench of an offline cluster, but no port that
the management path has closed (R314, R316). -/
def Device.hartOff (d : Device) (who : Who) (a : Nat) : Bool :=
  match d.region a with
  | .bench core => d.safety.closedPorts.contains (core / 4) || (d.unitOff (core / 4) && !whoIsIsland who)
  | _ => d.addrOff a

/-- Whether an operation is one on a cache block, which has no size of its own. -/
def blockOp : StoreOp → Bool
  | .clean | .flush | .inval => true
  | _ => false

/-- Whether an operation is a plain store. -/
def plainOp : StoreOp → Bool
  | .store => true
  | _ => false

/-- Whether a host hart may carry out an atomic operation, with a load-reserve among them: of 4 or 8 bytes, on main memory that its page
does not mark IO (the table "Host physical attributes"). -/
def Device.atomicOk (d : Device) (who : Who) (a n : Nat) (attr : PageAttr) : Bool :=
  !(whoIsIsland who || whoIsBridge who) && d.inMemory a n && (n = 4 || n = 8) && attr ≠ .io

/-- The host core of a requester. -/
def whoCore : Who → Option Nat
  | .host n => some n.val
  | _ => none

/-- An uncached store or atomic operation of a hart on memory, once its port has let it through. -/
def Device.uncachedStore (d : Device) (who : Who) (a : Nat) (bs : List Byte) (op : StoreOp) : Device :=
  let broken := fun (d : Device) =>
    { d with reservations := d.reservations.filter fun e => e.2 ≠ a / 64 || decide (some e.1 = whoCore who) }
  match op with
  | .amo f =>
    let old := natOfBytes (d.rd a bs.length)
    (broken (d.wr a (bytesOfNat bs.length (amoValue f bs.length old (natOfBytes bs))))).reply (.value (BitVec.ofNat 64 old))
  | .sc =>
    match whoCore who with
    | some n =>
      let held := tget d.reservations n = some (a / 64)
      let d := { d with reservations := tdel d.reservations n }
      if held then (broken (d.wr a bs)).reply (.value 0) else d.reply (.value 1)
    | none => d.deny who
  | _ => (broken (d.wr a bs)).reply .written

/-- A store of a hart to the memory it may cache, by the marking of its page. -/
def Device.memoryStore (d : Device) (who : Who) (a : Nat) (bs : List Byte) (op : StoreOp) (attr : PageAttr) : Device :=
  match who, attr with
  | .host n, .pma => d.cachedStore n a bs op
  | _, _ => d.via (whoPort who) a bs.length true fun d => d.uncachedStore who a bs op

/-- A hart's write, atomic operation or cache-block operation in memory or an outbound range. -/
def hartWrite (d : Device) (who : Who) (a n : Nat) (v : Word) (op : StoreOp) (attr : PageAttr) : Device :=
  let bs := bytesOfNat n v.toNat
  if blockOp op then
    match who with
    | .host k => if d.inMemory a 1 && !d.addrOff a then d.cacheBlock k a op else if d.hartOff who a then d.deny who else d.reply .written
    | _ => d.deny who
  else if whoIsBridge who || !hartSized a n || d.hartOff who a || !(plainOp op || d.atomicOk who a n attr) then d.deny who
  else
    match d.region a with
    | .outbound pc link => if d.linkUpAt pc link then (d.emitWrites pc a bs).reply .written else d.deny who
    | .bench _ => (d.wr a bs).reply .written
    | _ => d.memoryStore who a bs op attr

/-- An uncached read of a hart, which an uncorrectable word faults (R174, R181). -/
def Device.uncachedRead (d : Device) (who : Who) (a n : Nat) (ecc : Ecc) : Device :=
  let v := BitVec.ofNat 64 (natOfBytes (d.rd a n))
  let d := d.memEcc a ecc
  match ecc with
  | .uncorrectable _ => d.deny who
  | _ => d.reply (.value v)

/-- A read of a hart in the memory it may cache, as a load-reserve where it reserves. -/
def Device.memoryRead (d : Device) (who : Who) (a n : Nat) (ecc : Ecc) (reserve : Bool) (attr : PageAttr) : Device :=
  match who, attr with
  | .host k, .pma => d.cachedRead k a n ecc reserve
  | .host k, _ =>
    d.via (whoPort who) a n false fun d =>
      (if reserve then { d with reservations := tput d.reservations k (a / 64) } else d).uncachedRead who a n ecc
  | _, _ => d.via (whoPort who) a n false fun d => d.uncachedRead who a n ecc

/-- A hart's read of memory, or of an outbound range, whose completion answers it; a twin link carries no read (R388). -/
def hartRead (d : Device) (who : Who) (a n : Nat) (ecc : Ecc) (reserve : Bool) (attr : PageAttr) : Device :=
  if whoIsBridge who || !hartSized a n || d.hartOff who a || (reserve && !d.atomicOk who a n attr) then d.deny who
  else
    match d.region a with
    | .outbound pc _ => if (d.readDown a).isSome then d.deny who else d.emitRead pc (.hart who) a n
    | .bench _ => d.uncachedRead who a n ecc
    | _ => d.memoryRead who a n ecc reserve attr

/-- An operation that is no plain store where nothing is cached: one on a cache block has no effect, an atomic one faults. -/
def Device.ioBlock (d : Device) (who : Who) (op : StoreOp) : Device := if blockOp op then d.reply .written else d.deny who

/-- A write of `n` bytes at a physical address. Registers and doorbell pages have no atomic operations and are not cached (R286). -/
def busWrite (d : Device) (who : Who) (a n : Nat) (v : Word) (op : StoreOp) (attr : PageAttr) : Device :=
  match d.region a with
  | .reserved => d.deny who
  | .regs off => if plainOp op then regWrite d who off n v else d.ioBlock who op
  | .doorbell t off =>
    if !plainOp op then d.ioBlock who op
    else if n = 4 && off % 4 = 0 then pageWrite d who t off v
    else d.deny who
  | _ => hartWrite d who a n v op attr

/-- A read of `n` bytes at a physical address. -/
def busRead (d : Device) (who : Who) (a n : Nat) (ecc : Ecc) (reserve : Bool) (attr : PageAttr) : Device :=
  match d.region a with
  | .reserved => d.deny who
  | .regs off => if reserve then d.deny who else regRead d who off n
  | .doorbell t off => if !reserve && n = 4 && off % 4 = 0 then pageRead d t off else d.deny who
  | _ => hartRead d who a n ecc reserve attr

/-- Whether a read is one that the island's ROM answers after it has stopped the boot: of the SAF or the SEC block (R400). -/
def Device.romAnswers (d : Device) (who : Who) (a : Nat) : Bool :=
  d.power.vddAon && d.power.refClk && decide (d.power.phase = .bootStopped) && whoIsIsland who &&
    match d.region a with
    | .regs off => slotOf off = 0x0E || slotOf off = 0x11
    | _ => false

/-! ### The commands -/

/-- REGISTER_WRITE. -/
def execRegisterWrite (who : Who) (addr bytes : Nat) (value : Word) (s : State) (op : StoreOp := .store) (hart : HartUse := {}) :
    Host.Outcome State Fault Refusal :=
  actBy who s fun d => busWrite (d.hartCe who hart) who addr bytes value op hart.attr

/-- READ_CLEAR. -/
def execReadClear (who : Who) (addr bytes : Nat) (ecc : Ecc) (s : State) (reserve : Bool := false) (hart : HartUse := {}) :
    Host.Outcome State Fault Refusal :=
  act s fun d =>
    if (d.live || d.romAnswers who addr) && d.present who then
      busRead (d.hartCe who hart) who addr bytes ecc reserve hart.attr
    else d

end Sys2Proof.Machine
end

