-- ==== Sys2Proof/Machine/Pcie.lean ====
section
/-!
DEFINITION. PCIe: links, outbound completions and timeouts (R276 to R278), message-signalled and INTx interrupts of root
ports (R305), MSI of endpoints (R262), and the fabric bridge's inbound requests (R279, R281, R421).
-/

namespace Sys2Proof.Machine

/-! ### Links (R262, R278) -/

/-- The number of a controller. -/
def pcIndex : Pc → Nat
  | .a => 0
  | .b => 1

/-- Whether a controller's link, or one of a twin's two, is up as last reported. -/
def Device.linkState (d : Device) : Pc → Nat → Bool
  | .a, _ => d.links.pca
  | .b, 0 => d.links.pcb0
  | .b, _ => d.links.pcb1

/-- The links with one of them up or down. -/
def Links.put (x : Links) (up : Bool) : Pc → Nat → Links
  | .a, _ => { x with pca := up }
  | .b, 0 => { x with pcb0 := up }
  | .b, _ => { x with pcb1 := up }

/-- A twin link that went down: no poll is outstanding and no chunk in progress. -/
def Device.dropTwin (d : Device) (l : Nat) : Device :=
  d.setTwin l { d.twin l with polling := false, backedOff := false, peerChunk := false }

/-- The effect of PCIE_LINK_CHANGE; link 1 of a twin comes up only where its lanes are split. -/
def pcieLinkChange (d : Device) (pc : Pc) (link : Nat) (up : Bool) : Device :=
  if d.role pc = 0 || d.linkState pc link = up ||
      (link = 1 && !(pc = .b && d.isTwin && (!up || d.regBit Reg.twnCtrl 0))) then d
  else
    let d : Device := { d with links := d.links.put up pc link }
    let d := d.raise (264 + 2 * pcIndex pc)
    let d := if pc = .b && d.isTwin && !up then d.dropTwin link else d
    if up then d.releaseMsi pc else d

/-- The effect of MSI_ENABLED. -/
def msiEnabled (d : Device) (pc : Pc) : Device :=
  if d.role pc ≠ 2 then d
  else
    let d : Device := { d with links := match pc with
      | .a => { d.links with msiA := true }
      | .b => { d.links with msiB := true } }
    d.releaseMsi pc

/-! ### Interrupts of a root port (R305) -/

/-- The bus address that takes message-signalled interrupts. -/
def Device.msiAddr (d : Device) (pc : Pc) : Word := d.reg (if pc = .a then Reg.hrdMsiAddrPca else Reg.hrdMsiAddrPcb)

/-- Completion codes of PCIe (log entry 30): successful, Unsupported Request, Completer Abort. -/
def cplOk : Byte := 0
/-- Unsupported Request. -/
def cplUnsupported : Byte := 1
/-- Completer Abort. -/
def cplAbort : Byte := 4

/-- The effect of ROOT_PORT_MSI: a write to the address; one of another size completes with Unsupported Request. -/
def rootPortMsi (d : Device) (pc : Pc) (addr : Word) (bytes : Nat) (data : Half) : Device :=
  if d.role pc ≠ 1 || !d.linkUp pc || addr ≠ d.msiAddr pc then d
  else if bytes = 4 then d.raise (192 + 32 * pcIndex pc + data.toNat % 32)
  else d.emit (.completion pc cplUnsupported [])

/-- The effect of INTX_MESSAGE. -/
def intxMessage (d : Device) (pc : Pc) (line : Nat) (assert : Bool) : Device :=
  if d.role pc ≠ 1 || !d.linkUp pc then d
  else
    let bit := BitVec.ofNat 8 (2 ^ (4 * pcIndex pc + line))
    { d with herald := { d.herald with
        intx := if assert then d.herald.intx ||| bit else d.herald.intx &&& ~~~bit } }

/-! ### Outbound completions (R276, R277) -/

/-- The device without an outbound read. -/
def Device.dropOutbound (d : Device) (id : Nat) : Device := { d with outbound := d.outbound.filter fun o => o.id ≠ id }

/-- The tenancy whose window an outbound read lies in. -/
def Device.ownerTenancy (d : Device) : OutOwner → Option Nat
  | .transfer _ c _ => some (d.ctx c).tenancy
  | .copy (.ring t _) => some t
  | .image (.ring t _) => some t
  | .fetch (.ring t _) => some t
  | .tag c _ => some (d.ctx c).tenancy
  | .queueDesc q => some (d.qTenancy q)
  | .queueData q => some (d.qTenancy q)
  | _ => none

/-- The transfer of a streamer that an outbound read carries. -/
def Device.ownTransfer (d : Device) (core c id : Nat) : Option Transfer :=
  (d.bank core c).transfers.find? fun t => t.id = id

/-- Whether a read of an owner is outstanding. -/
def Device.reading (d : Device) (w : OutOwner) : Bool := d.outbound.any fun o => o.owner = w

/-- Data of an image that a LOAD reads (R256). -/
def Device.imageData (d : Device) (k : RingRef) (data : List Byte) : Device :=
  match (d.ring k).job with
  | .reading got =>
    let d := d.setRing k { d.ring k with job := .reading (got ++ data) }
    if d.reading (.image k) then d else imageArrived d k
  | _ => d

/-- Data of an image that a RESTORE reads (R271). -/
def Device.restoreData (d : Device) (k : RingRef) (data : List Byte) : Device :=
  match d.admin.job with
  | .restoring t rec images left part =>
    let d := d.setRing .admin { d.admin with job := .restoring t rec images left (part ++ data) }
    if d.reading (.restore k) then d else restoreArrived d
  | _ => d

/-- Data of a frame that a transmit queue reads (R371). -/
def Device.queueBytes (d : Device) (q : Nat) (data : List Byte) : Device :=
  if !d.qRuns q then d
  else
    let x := d.queue q
    let got := x.got ++ data
    if d.reading (.queueData q) then d.setQueue q { x with got := got }
    else match x.desc with
      | some (raw, fetched) => queueSend (d.setQueue q { x with got := [] }) q raw got fetched
      | none => d

/-- The data of one outbound read handed to its owner. -/
def Device.outDone (d : Device) (w : OutOwner) (data : List Byte) : Device :=
  match w with
  | .transfer core c id =>
    match d.ownTransfer core c id with
    | some t => d.progress core c { t with data := t.data ++ data, done := t.done + 1 }
    | none => d
  | .copy k =>
    match (d.ring k).job with
    | .copying src dst len ordered moved got =>
      d.setRing k { d.ring k with job := .copying src dst len ordered moved (got ++ data) }
    | _ => d
  | .image k => d.imageData k data
  | .fetch k => d.enqueue k data
  | .tag c e => d.modRun c fun r => r.withTag e (tagsOf data)
  | .restore k => d.restoreData k data
  | .queueDesc q => if d.qRuns q then queueHas d q data .clean else d
  | .queueData q => d.queueBytes q data
  | .hart who => if d.present who then d.reply (.value (BitVec.ofNat 64 (natOfBytes data))) else d

/-- The data that has come for an owner's reads handed on in the order of their issue, `n` reads at most. -/
def Device.deliverReads : Nat → Device → OutOwner → Device
  | 0, d, _ => d
  | n + 1, d, w =>
    match d.outbound.find? fun o => o.owner = w with
    | some { id := id, got := some data, .. } => Device.deliverReads n ((d.dropOutbound id).outDone w data) w
    | _ => d

/-- The data of a completion kept with its read, and handed on once that of every earlier read of its owner has come. -/
def Device.outArrived (d : Device) (o : Outbound) (data : List Byte) : Device :=
  let keep := fun (x : Outbound) => if x.id = o.id then { x with got := some data } else x
  let d := { d with outbound := d.outbound.map keep }
  Device.deliverReads d.outbound.length d o.owner

/-- A failed outbound read: the sticky bit of its controller, the other reads of its owner given up, and the end its owner comes
to. -/
def Device.outFailed (d : Device) (o : Outbound) (detail : Byte) : Device :=
  let d := d.linkFailed o.pc
  let d := { d with outbound := d.outbound.filter fun x => x.owner ≠ o.owner }
  match o.owner with
  | .transfer core c id => (d.setBank core c ((d.bank core c).retire id)).stopRun c St.linkError detail
  | .copy k => d.copyFailed k detail
  | .image k => d.finish k St.linkError detail 0
  | .fetch k => d.ringFault k 0x04
  | .tag c _ => d.stopRun c St.linkError detail
  | .restore k => d.finish k St.linkError detail 0
  | .queueDesc q => qReadFailed d q
  | .queueData q => qReadFailed d q
  | .hart who => if d.present who then d.deny who else d

/-- The latency of an outbound read's window checked at its completion (R245). -/
def Device.outLatency (d : Device) (o : Outbound) : Device :=
  match d.ownerTenancy o.owner with
  | some t => d.checkWindowLatency t o.addr ((d.alm.ticks - o.issued) * 10)
  | none => d

/-- The effect of OUTBOUND_COMPLETION; a completion of a read that is no longer waited for is discarded. -/
def outboundCompletion (d : Device) (id : Nat) (status : CplStatus) (data : List Byte) : Device :=
  match d.outbound.find? fun o => o.id = id && o.got.isNone with
  | none => d
  | some o =>
    let d := d.outLatency o
    match status with
    | .ok => d.outArrived o (slice data 0 o.bytes)
    | .unsupported => d.outFailed o 0x02
    | .abort => d.outFailed o 0x03
    | .poisoned => d.outFailed o 0x05

/-- The outbound timeout of a controller in reference ticks. -/
def Device.outTimeout (d : Device) (pc : Pc) : Nat :=
  d.fld (if pc = .a then Reg.hifPcaCtrl else Reg.hifPcbCtrl) 16 16 * 1000

/-- The effect of OUTBOUND_TIMEOUT. -/
def outboundTimeout (d : Device) (id : Nat) : Device :=
  match d.outbound.find? fun o => o.id = id && o.got.isNone with
  | none => d
  | some o => if d.alm.ticks - o.issued < d.outTimeout o.pc then d else d.outFailed o 0x01

/-! ### The fabric bridge (R279) -/

/-- A range of the map, for the rule that a request lies within one. -/
def rangeOf : Region → Nat
  | .ddr h => h
  | .quarry q => 2 + q
  | .bench _ => 4
  | .regs off => 16 + slotOf off
  | .doorbell _ _ => 5
  | .outbound .a _ => 6
  | .outbound .b l => 7 + l
  | .reserved => 9

/-- The tenancy whose windows check a controller's inbound memory requests. -/
def Device.inTenancy (d : Device) (pc : Pc) : Nat := d.fld (if pc = .a then Reg.hifPcaCtrl else Reg.hifPcbCtrl) 8 6

/-- The device address of a request (R275): through a BAR of an endpoint's function, where it lies within it; a root port's and a
twin's requests carry it as it is. -/
def Device.inboundAddr (d : Device) (pc : Pc) (q : Inbound) : Option Nat :=
  if d.role pc = 2 then
    match q.bar with
    | .registers => if q.addr < 0x10000000 then some (0x5000000000 + q.addr) else none
    | .doorbells => if q.addr < 0x40000 then some (0x6000000000 + q.addr) else none
    | .memory => if q.addr < 2 ^ 40 then some q.addr else none
    | .map => none
  else if q.bar = .map then some q.addr
  else none

/-- Whether a request's size is one the bridge carries out. -/
def inboundSized (q : Inbound) : Bool :=
  1 ≤ q.length && (if q.kind = .write then q.length ≤ 512 && q.contiguous else q.length ≤ 4096)

/-- Whether a request is a memory read or write that its controller takes: a twin's link carries no read (R388). -/
def Device.inboundKindOk (d : Device) (pc : Pc) (q : Inbound) : Bool :=
  q.kind = .write || (q.kind = .read && d.role pc ≠ 3)

/-- What a request to a register block lacks: SAF and SEC are closed to the bridge, and others take accesses under R9. -/
def regInboundVeto (off n : Nat) : Option Nat :=
  if slotOf off = 0x0E || slotOf off = 0x11 then some 4
  else if !regSized off n then some 1
  else match regRowAt off with
    | some r => if r.bytes = n then none else some 1
    | none => if allUnassigned off n then none else some 1

/-- The cause for which the bridge turns a request to a device address away, if any: kind, size, crossing, map, window, SAF or SEC
(log entry 36). The memory BAR reaches nothing but what the windows of the inbound tenancy hold (R275). -/
def Device.inboundVeto (d : Device) (pc : Pc) (q : Inbound) (a : Nat) : Option Nat :=
  if !d.inboundKindOk pc q then some 5
  else if !inboundSized q then some 1
  else if rangeOf (d.region a) ≠ rangeOf (d.region (a + q.length - 1)) then some 2
  else
    match d.region a with
    | .reserved | .outbound _ _ => some 3
    | .regs off => if q.bar = .memory then some 3 else regInboundVeto off q.length
    | .doorbell _ off =>
      if q.bar = .memory then some 3 else if q.length = 4 && off % 4 = 0 then none else some 1
    | _ => if d.allowed (d.inTenancy pc) a q.length (q.kind = .read) (q.kind = .write) then none else some 3

/-- A request turned away: its record if it is the first, its bridge bit, and a completion or an error report. -/
def Device.rejectInbound (d : Device) (pc : Pc) (q : Inbound) (a cause : Nat) : Device :=
  let first := d.fld Reg.hifSticky 4 2 = 0
  let rec_ := (if q.kind = .write then 2 ^ 63 else 0) + pcIndex pc * 2 ^ 62 + cause * 2 ^ 48 + a % 2 ^ 48
  let d := d.recordIf first Reg.hifBridgeRecord (BitVec.ofNat 64 rec_)
  let d := d.recordIf first Reg.hifBridgeTime d.ns
  let d := d.orReg Reg.hifSticky (2 ^ (4 + pcIndex pc))
  if q.posted then d.raise (265 + 2 * pcIndex pc)
  else d.emit (.completion pc (if cause = 3 then cplUnsupported else cplAbort) [])

/-- The completion of a request that is not posted. -/
def Device.completeInbound (d : Device) (pc : Pc) (q : Inbound) (status : Byte) (data : List Byte) : Device :=
  if q.posted then d else d.emit (.completion pc status data)

/-- A register or doorbell access of the bridge, completed by its answer. -/
def Device.inboundAccess (d : Device) (pc : Pc) (q : Inbound) (a : Nat) : Device :=
  if q.kind = .write then
    let d := busWrite d (.bridge pc) a q.length (BitVec.ofNat 64 (natOfBytes q.data)) .store .pma
    d.completeInbound pc q (if d.answer = .error then cplAbort else cplOk) []
  else
    let d := busRead d (.bridge pc) a q.length .clean false .pma
    match d.answer with
    | .value v => d.completeInbound pc q cplOk (bytesOfNat q.length v.toNat)
    | _ => d.completeInbound pc q cplAbort []

/-- A memory request of the bridge, through its port and coherent with the host caches (R188, R272, R288); a unit held offline, or an
uncorrectable word read, answers with Completer Abort (R174, R313). -/
def Device.inboundMemory (d : Device) (pc : Pc) (q : Inbound) (a : Nat) : Device :=
  if d.rangeOff a q.length then d.completeInbound pc q cplAbort []
  else if q.kind = .write then
    d.via (bridgePort pc) a q.length true fun d =>
      ((d.logWrite (d.inTenancy pc) a q.length).coWrite a q.data).completeInbound pc q cplOk []
  else
    d.via (bridgePort pc) a q.length false fun d =>
      let d := d.memEcc a q.ecc
      match q.ecc with
      | .uncorrectable _ => d.completeInbound pc q cplAbort []
      | _ => (d.dropLines a q.length).completeInbound pc q cplOk (d.coRead a q.length)

/-- A request carried out. -/
def Device.carryInbound (d : Device) (pc : Pc) (q : Inbound) (a : Nat) : Device :=
  match d.region a with
  | .regs _ | .doorbell _ _ => d.inboundAccess pc q a
  | _ => d.inboundMemory pc q a

/-- Whether a request goes to a root port's interrupt address, which R305 keeps from memory. -/
def Device.isMsi (d : Device) (pc : Pc) (q : Inbound) : Bool := d.role pc = 1 && q.addr = (d.msiAddr pc).toNat

/-- A peer's chunk is in progress on a twin link once part of it has arrived (R391). -/
def Device.noteChunk (d : Device) (pc : Pc) (q : Inbound) : Device :=
  if pc = .b && d.isTwin && q.kind = .write then d.setTwin q.link { d.twin q.link with peerChunk := true } else d

/-- A byte of an endpoint's configuration space: its vendor, its device 0x0008 and its class code 0x12_0000 (R275); the spec gives the
others no value. -/
def configByte (i : Nat) : Byte :=
  match i with
  | 0 => Config.vendorId.setWidth 8
  | 1 => (Config.vendorId >>> 8).setWidth 8
  | 2 => 0x08
  | 3 => 0x00
  | 9 => 0x00
  | 10 => 0x00
  | 11 => 0x12
  | _ => Config.configByte i

/-- The effect of INBOUND_REQUEST. A read of an endpoint's configuration space is answered by its controller. -/
def inboundRequest (d : Device) (pc : Pc) (q : Inbound) : Device :=
  if d.role pc = 0 || !d.linkUpAt pc q.link then d
  else if q.kind = .config && d.role pc = 2 then
    d.emit (.completion pc cplOk ((List.range q.length).map fun i => configByte (q.addr + i)))
  else if d.unitOff (pcUnit pc) then d.completeInbound pc q cplAbort []
  else if d.isMsi pc q then
    if q.kind = .write then rootPortMsi d pc (d.msiAddr pc) q.length (BitVec.ofNat 32 (natOfBytes q.data))
    else d.emit (.completion pc cplUnsupported [])
  else
    let d := d.noteChunk pc q
    match d.inboundAddr pc q with
    | none => d.rejectInbound pc q q.addr (if d.inboundKindOk pc q then 3 else 5)
    | some a =>
      match d.inboundVeto pc q a with
      | some cause => d.rejectInbound pc q a cause
      | none => d.carryInbound pc q a

/-! ### The commands -/

/-- PCIE_LINK_CHANGE. -/
def execPcieLinkChange (pc : Pc) (link : Fin 2) (up : Bool) (s : State) : Host.Outcome State Fault Refusal :=
  actLive s fun d => pcieLinkChange d pc link up

/-- OUTBOUND_COMPLETION. -/
def execOutboundCompletion (id : Nat) (status : CplStatus) (data : List Byte) (s : State) :
    Host.Outcome State Fault Refusal :=
  actLive s fun d => outboundCompletion d id status data

/-- OUTBOUND_TIMEOUT. -/
def execOutboundTimeout (id : Nat) (s : State) : Host.Outcome State Fault Refusal :=
  actLive s fun d => outboundTimeout d id

/-- INBOUND_REQUEST. -/
def execInboundRequest (pc : Pc) (req : Inbound) (s : State) : Host.Outcome State Fault Refusal :=
  actIf (Instr.wellFormed (.inboundRequest pc req)) s fun d => inboundRequest d pc req

/-- ROOT_PORT_MSI. -/
def execRootPortMsi (pc : Pc) (busAddr : Word) (bytes : Nat) (data : Half) (s : State) : Host.Outcome State Fault Refusal :=
  actLive s fun d => rootPortMsi d pc busAddr bytes data

/-- INTX_MESSAGE. -/
def execIntxMessage (pc : Pc) (line : Fin 4) (assert : Bool) (s : State) : Host.Outcome State Fault Refusal :=
  actLive s fun d => intxMessage d pc line assert

/-- MSI_ENABLED. -/
def execMsiEnabled (pc : Pc) (s : State) : Host.Outcome State Fault Refusal :=
  actLive s fun d => msiEnabled d pc

end Sys2Proof.Machine
end

