-- ==== Sys2Proof/Machine/Tick.lean ====
section
/-!
DEFINITION. One tick of the 100 MHz reference, which is what a step does when no command waits (log entry 1): the Almanac counts
(R355, R358), the port regulators' buckets fill (R188), what waits at a port is issued where the port lets it, in a fixed order, the
Herald samples its lines (R295), and frames directed to a port held offline are written back (R372).
-/

namespace Sys2Proof.Machine

/-- Every waiting transfer issued as far as its port lets it go. -/
def Device.reissueAll (d : Device) : Device :=
  d.banks.foldl (fun d e => e.2.transfers.foldl (fun d t => d.reissue (e.1 / 256) (e.1 % 256) t) d) d

/-- What waits at the ports of the regulators issued as far as they let it. -/
def Device.drain (d : Device) : Device :=
  let d := d.refill.reissueAll
  (Device.flushBits d.bitmapHeld d).settleBacks

/-- One reference tick. -/
def Device.tick (d : Device) : Device :=
  let d := d.almTick
  if d.live then d.drain.offlineEgress.sampleLines else d

/-- The step of a block whose queue is empty. -/
def execTick (s : State) : Host.Outcome State Fault Refusal := actAon s Device.tick

end Sys2Proof.Machine
end

