-- ==== Sys2Proof/Machine/Dispatch.lean ====
section
/-!
DEFINITION. The dispatch: one arm for each command.
-/

namespace Sys2Proof.Machine

/-- The effect of a command on everything but the queue of waiting commands. -/
def exec (i : Instr) (s : State) : Host.Outcome State Fault Refusal :=
  match i with
  | .powerOn => Sys2Proof.Machine.execPowerOn s
  | .railEnRelease => Sys2Proof.Machine.execRailEnRelease s
  | .bootStart b => Sys2Proof.Machine.execBootStart b s
  | .ddrTrainingDone failed => Sys2Proof.Machine.execDdrTrainingDone failed s
  | .memoryZeroed => Sys2Proof.Machine.execMemoryZeroed s
  | .sectionsCopied checkerFires => Sys2Proof.Machine.execSectionsCopied checkerFires s
  | .warmReset => Sys2Proof.Machine.execWarmReset s
  | .brownOut => Sys2Proof.Machine.execBrownOut s
  | .refClkStop => Sys2Proof.Machine.execRefClkStop s
  | .refClkReturn => Sys2Proof.Machine.execRefClkReturn s
  | .registerWrite who addr bytes value op hart => Sys2Proof.Machine.execRegisterWrite who addr bytes value s op hart
  | .readClear who addr bytes ecc reserve hart => Sys2Proof.Machine.execReadClear who addr bytes ecc s reserve hart
  | .governorWindowEnd counts => Sys2Proof.Machine.execGovernorWindowEnd counts s
  | .railStep die => Sys2Proof.Machine.execRailStep die s
  | .matmul u op => Sys2Proof.Machine.execMatmul u op s
  | .wtload u op => Sys2Proof.Machine.execWtload u op s
  | .accswap u engine => Sys2Proof.Machine.execAccswap u engine s
  | .vecop u op => Sys2Proof.Machine.execVecop u op s
  | .segeval u op => Sys2Proof.Machine.execSegeval u op s
  | .ptbuild u offset => Sys2Proof.Machine.execPtbuild u offset s
  | .ptlook u op => Sys2Proof.Machine.execPtlook u op s
  | .setreg u r value => Sys2Proof.Machine.execSetreg u r value s
  | .loop u unit count => Sys2Proof.Machine.execLoop u unit count s
  | .end_ u unit => Sys2Proof.Machine.execEnd u unit s
  | .xfer u store op => Sys2Proof.Machine.execXfer u store op s
  | .walk u op => Sys2Proof.Machine.execWalk u op s
  | .ordered u store op => Sys2Proof.Machine.execOrdered u store op s
  | .digest u op => Sys2Proof.Machine.execDigest u op s
  | .sig at_ n => Sys2Proof.Machine.execSig at_ n s
  | .wait at_ v => Sys2Proof.Machine.execWait at_ v s
  | .take at_ n => Sys2Proof.Machine.execTake at_ n s
  | .set at_ v => Sys2Proof.Machine.execSet at_ v s
  | .sigdone at_ n => Sys2Proof.Machine.execSigdone at_ n s
  | .syncWaitReleased core unit => Sys2Proof.Machine.execSyncWaitReleased core unit s
  | .transferComplete core unit ctx id ecc lines => Sys2Proof.Machine.execTransferComplete core unit ctx id ecc s lines
  | .calendarStart => Sys2Proof.Machine.execCalendarStart s
  | .majorFrameStart => Sys2Proof.Machine.execMajorFrameStart s
  | .sliceStart entry => Sys2Proof.Machine.execSliceStart entry s
  | .sliceUsableEnd entry => Sys2Proof.Machine.execSliceUsableEnd entry s
  | .sliceEnd entry => Sys2Proof.Machine.execSliceEnd entry s
  | .holidaySlotStart entry => Sys2Proof.Machine.execHolidaySlotStart entry s
  | .holidayUsableEnd entry => Sys2Proof.Machine.execHolidayUsableEnd entry s
  | .selftestChunkDone cluster result => Sys2Proof.Machine.execSelftestChunkDone cluster result s
  | .runStart ctx ecc => Sys2Proof.Machine.execRunStart ctx s ecc
  | .resultDelivered ctx result => Sys2Proof.Machine.execResultDelivered ctx result s
  | .runEnd ctx => Sys2Proof.Machine.execRunEnd ctx s
  | .checkerCompare ctx result => Sys2Proof.Machine.execCheckerCompare ctx result s
  | .budgetOverrun core => Sys2Proof.Machine.execBudgetOverrun core s
  | .deadlineOverrun ctx result => Sys2Proof.Machine.execDeadlineOverrun ctx result s
  | .teardownDrained ctx => Sys2Proof.Machine.execTeardownDrained ctx s
  | .teardownScrubDone ctx => Sys2Proof.Machine.execTeardownScrubDone ctx s
  | .sqTailWrite who ring value => Sys2Proof.Machine.execSqTailWrite who ring value s
  | .cqHeadWrite who ring value => Sys2Proof.Machine.execCqHeadWrite who ring value s
  | .descriptorFetch ring ecc => Sys2Proof.Machine.execDescriptorFetch ring ecc s
  | .nop ring => Sys2Proof.Machine.execNop ring s
  | .load t r ecc => Sys2Proof.Machine.execLoad t r s ecc
  | .admissionComplete t r => Sys2Proof.Machine.execAdmissionComplete t r s
  | .unload t r => Sys2Proof.Machine.execUnload t r s
  | .run t r => Sys2Proof.Machine.execRun t r s
  | .join t r ecc => Sys2Proof.Machine.execJoin t r s ecc
  | .leave t r ecc => Sys2Proof.Machine.execLeave t r s ecc
  | .copy ring => Sys2Proof.Machine.execCopy ring s
  | .copyComplete ring ecc => Sys2Proof.Machine.execCopyComplete ring ecc s
  | .adminRingEnable who value => Sys2Proof.Machine.execAdminRingEnable who value s
  | .adminRingDisable who value => Sys2Proof.Machine.execAdminRingDisable who value s
  | .tenancyOn => Sys2Proof.Machine.execTenancyOn s
  | .tenancyOff => Sys2Proof.Machine.execTenancyOff s
  | .setWindow => Sys2Proof.Machine.execSetWindow s
  | .clearWindow => Sys2Proof.Machine.execClearWindow s
  | .setRing => Sys2Proof.Machine.execSetRing s
  | .restartRing => Sys2Proof.Machine.execRestartRing s
  | .open_ => Sys2Proof.Machine.execOpen s
  | .close => Sys2Proof.Machine.execClose s
  | .freeze => Sys2Proof.Machine.execFreeze s
  | .freezeComplete => Sys2Proof.Machine.execFreezeComplete s
  | .thaw => Sys2Proof.Machine.execThaw s
  | .save => Sys2Proof.Machine.execSave s
  | .restore ecc => Sys2Proof.Machine.execRestore s ecc
  | .logStart => Sys2Proof.Machine.execLogStart s
  | .logSwap => Sys2Proof.Machine.execLogSwap s
  | .logSwapComplete => Sys2Proof.Machine.execLogSwapComplete s
  | .logStop => Sys2Proof.Machine.execLogStop s
  | .pcieLinkChange pc link up => Sys2Proof.Machine.execPcieLinkChange pc link up s
  | .outboundCompletion id status data => Sys2Proof.Machine.execOutboundCompletion id status data s
  | .outboundTimeout id => Sys2Proof.Machine.execOutboundTimeout id s
  | .inboundRequest pc req => Sys2Proof.Machine.execInboundRequest pc req s
  | .rootPortMsi pc busAddr bytes data => Sys2Proof.Machine.execRootPortMsi pc busAddr bytes data s
  | .intxMessage pc line assert => Sys2Proof.Machine.execIntxMessage pc line assert s
  | .lockstepMismatch pair => Sys2Proof.Machine.execLockstepMismatch pair s
  | .islandLockstepMismatch pair fromSram => Sys2Proof.Machine.execIslandLockstepMismatch pair fromSram s
  | .hostCacheUe cache hart addr => Sys2Proof.Machine.execHostCacheUe cache hart s addr
  | .hostPairReset who value pass => Sys2Proof.Machine.execHostPairReset who value pass s
  | .filterOutputChange source value => Sys2Proof.Machine.execFilterOutputChange source value s
  | .hrdClaim who target => Sys2Proof.Machine.execHrdClaim who target s
  | .hrdComplete who target value => Sys2Proof.Machine.execHrdComplete who target value s
  | .hrdPendSet who w value => Sys2Proof.Machine.execHrdPendSet who w value s
  | .hrdPendClr who w value => Sys2Proof.Machine.execHrdPendClr who w value s
  | .hrdEnSet who target w value => Sys2Proof.Machine.execHrdEnSet who target w value s
  | .hrdEnClr who target w value => Sys2Proof.Machine.execHrdEnClr who target w value s
  | .machineTimerPending target => Sys2Proof.Machine.execMachineTimerPending target s
  | .managementPoll answers => Sys2Proof.Machine.execManagementPoll answers s
  | .safUnitOffSet who w value => Sys2Proof.Machine.execSafUnitOffSet who w value s
  | .safUnitOffClr who w value => Sys2Proof.Machine.execSafUnitOffClr who w value s
  | .wdogEnable who value => Sys2Proof.Machine.execWdogEnable who value s
  | .wdogKick who value => Sys2Proof.Machine.execWdogKick who value s
  | .wdogHalfPeriod => Sys2Proof.Machine.execWdogHalfPeriod s
  | .wdogExpire => Sys2Proof.Machine.execWdogExpire s
  | .chkTestInject who value => Sys2Proof.Machine.execChkTestInject who value s
  | .vglProduce who stream value => Sys2Proof.Machine.execVglProduce who stream value s
  | .vglConsume who stream value => Sys2Proof.Machine.execVglConsume who stream value s
  | .productionMiss stream => Sys2Proof.Machine.execProductionMiss stream s
  | .almIncrWrite who value => Sys2Proof.Machine.execAlmIncrWrite who value s
  | .almLeapWrite who value => Sys2Proof.Machine.execAlmLeapWrite who value s
  | .almNowRead who => Sys2Proof.Machine.execAlmNowRead who s
  | .almCmpPeriodWrite who k value => Sys2Proof.Machine.execAlmCmpPeriodWrite who k value s
  | .comparatorFire k => Sys2Proof.Machine.execComparatorFire k s
  | .timeOutPulseEnd k => Sys2Proof.Machine.execTimeOutPulseEnd k s
  | .ethFrameReceive port frame => Sys2Proof.Machine.execEthFrameReceive port frame s
  | .frameTransmitted port cls => Sys2Proof.Machine.execFrameTransmitted port cls s
  | .gateListEntry port => Sys2Proof.Machine.execGateListEntry port s
  | .ethLinkChange port up => Sys2Proof.Machine.execEthLinkChange port up s
  | .qTailWrite who q value => Sys2Proof.Machine.execQTailWrite who q value s
  | .qSeenWrite who q value => Sys2Proof.Machine.execQSeenWrite who q value s
  | .queueDescriptorTaken q ecc => Sys2Proof.Machine.execQueueDescriptorTaken q s ecc
  | .frameStart port vc => Sys2Proof.Machine.execFrameStart port vc s
  | .csiLongPacket port vc packet => Sys2Proof.Machine.execCsiLongPacket port vc packet s
  | .frameEnd port vc => Sys2Proof.Machine.execFrameEnd port vc s
  | .csiSrelWrite who stream value => Sys2Proof.Machine.execCsiSrelWrite who stream value s
  | .canFrameReceived k frame => Sys2Proof.Machine.execCanFrameReceived k frame s
  | .canFrameTransmitted k => Sys2Proof.Machine.execCanFrameTransmitted k s
  | .canBusOff k => Sys2Proof.Machine.execCanBusOff k s
  | .acfFrameReceive frame => Sys2Proof.Machine.execAcfFrameReceive frame s
  | .acfHoldExpire stream => Sys2Proof.Machine.execAcfHoldExpire stream s
  | .twinStatusRefresh => Sys2Proof.Machine.execTwinStatusRefresh s
  | .twinPoll => Sys2Proof.Machine.execTwinPoll s
  | .twinPollRequest link => Sys2Proof.Machine.execTwinPollRequest link s
  | .twinPollAnswer link block => Sys2Proof.Machine.execTwinPollAnswer link block s
  | .twinPollTimeout link => Sys2Proof.Machine.execTwinPollTimeout link s
  | .twinChunkEnd link => Sys2Proof.Machine.execTwinChunkEnd link s
  | .twinBackoff link => Sys2Proof.Machine.execTwinBackoff link s
  | .cfgLoad who => Sys2Proof.Machine.execCfgLoad who s
  | .seal who => Sys2Proof.Machine.execSeal who s
  | .sealComplete => Sys2Proof.Machine.execSealComplete s
  | .cfgRun who => Sys2Proof.Machine.execCfgRun who s
  | .cfgStop who => Sys2Proof.Machine.execCfgStop who s
  | .sleep who => Sys2Proof.Machine.execSleep who s
  | .reset who => Sys2Proof.Machine.execReset who s
  | .cfgOppReq who value => Sys2Proof.Machine.execCfgOppReq who value s
  | .cfgCtlOutSet who value => Sys2Proof.Machine.execCfgCtlOutSet who value s
  | .cfgCtlOutClr who value => Sys2Proof.Machine.execCfgCtlOutClr who value s
  | .wakePin k => Sys2Proof.Machine.execWakePin k s
  | .railEnHoldExpire => Sys2Proof.Machine.execRailEnHoldExpire s
  | .attest who => Sys2Proof.Machine.execAttest who s
  | .attestComplete => Sys2Proof.Machine.execAttestComplete s
  | .raiseFloor who => Sys2Proof.Machine.execRaiseFloor who s
  | .floorWriteComplete status record => Sys2Proof.Machine.execFloorWriteComplete status s record
  | .ddrTempRead channel above85 above95 => Sys2Proof.Machine.execDdrTempRead channel above85 above95 s
  | .ddrCountWindowEnd w => Sys2Proof.Machine.execDdrCountWindowEnd w s
  | .quarryPatrol q line ecc => Sys2Proof.Machine.execQuarryPatrol q line ecc s
  | .ddrPatrol channel addr ecc => Sys2Proof.Machine.execDdrPatrol channel addr ecc s
  | .ddrRefresh channel managed => Sys2Proof.Machine.execDdrRefresh channel managed s
  | .foremanPageIn p ctx page ecc => Sys2Proof.Machine.execForemanPageIn p ctx page s ecc
  | .foremanStepEnd p cluster => Sys2Proof.Machine.execForemanStepEnd p cluster s
  | .lossOfVddAon => Sys2Proof.Machine.execLossOfVddAon s
  | .canErrorDetected k transmitter severe => Sys2Proof.Machine.execCanErrorDetected k transmitter severe s
  | .busOffRecovery k => Sys2Proof.Machine.execBusOffRecovery k s
  | .msiEnabled pc => Sys2Proof.Machine.execMsiEnabled pc s

end Sys2Proof.Machine
end

