-- ==== Sys2Proof/Safety.lean ====
section
/-!
DEFINITION. What the claims about runs say of a state: a safe step, and the canonical form of the device's stores.
-/

namespace Sys2Proof

/-- A step is safe when it gives a next state: the command at the front was carried out, or the queue was empty. -/
def SafeStep (s : Machine.State) : Prop := ∃ t, Machine.step s = .next t

/-- The commands of the always-on domain and of the boot, which act on a device that is not live. -/
def Instr.alwaysOn : Instr → Bool
  | .powerOn | .lossOfVddAon | .railEnRelease | .railEnHoldExpire | .refClkStop | .refClkReturn => true
  | .warmReset | .brownOut | .wakePin _ | .comparatorFire _ | .timeOutPulseEnd _ => true
  | .bootStart _ | .ddrTrainingDone _ | .memoryZeroed | .sectionsCopied _ => true
  | _ => false

namespace Machine

/-- The canonical form of the memory, the island's SRAM and the register store: addresses strictly rising, no byte listed
that reads as an unlisted one, and no register listed at its reset value. Equal contents are then equal data. -/
def StoresCanonical (mem sram : List Host.Cell) (regs : Table Word) : Prop :=
  Memory.wf mem = true ∧ Memory.wf sram = true ∧ Table.canon regReset regs

/-- A device whose stores are canonical. -/
def Device.Canonical (d : Device) : Prop := StoresCanonical d.mem d.islandSram d.regs

/-- The turn of a unit of a core: the device is live, the core has seat `q` in the run of the context it serves (R217, R219),
and the unit neither waits nor has ended (R80, R83). -/
def Device.mayIssue (d : Device) (core : Nat) (k : UnitKind) (q : Seat) : Prop :=
  d.live = true ∧ d.seat core = some q ∧ ((d.bank core q.ctx).unit k).ended = false ∧
    ((d.bank core q.ctx).unit k).waiting = none

/-- No code reports an error of the words an instruction of a core touches (R49, R213). -/
def cleanUse (u : CoreUse) : Prop := u.bench = .clean ∧ u.bank = .clean

/-! ### Completion of a ring's head (R251, R256, R260, R262) -/

/-- The next completion entry of a ring can be written: it lies in the DDR or the Quarry, within what the ring may write, at no
unit held offline, and no log of the ring's tenancy is in force. -/
def Device.entryOpen (d : Device) (k : RingRef) : Prop :=
  (d.ring k).state ≠ .unset ∧ d.inMemory (d.ring k).entryAt 64 = true ∧
    d.ringAddrOk k (d.ring k).entryAt 64 false true = true ∧ d.addrOff (d.ring k).entryAt = false ∧
    ∀ t r, k = .ring t r → (d.ten t).log = none

/-- A line of memory in a BEST class that is not throttled: a port lets it through at once and takes no credit for it (R188,
R198). -/
def Device.openLine (d : Device) (a : Nat) : Prop :=
  d.inMemory a 1 = true ∧ d.classKind (d.classOf a) = 0 ∧ d.throttled a (d.classOf a) false = false

/-- The device with the head descriptor of a ring completed: its entry stands at the tail of the completion ring, written through port
28 and coherently with the host caches (R259, R288), the tail and the queue are one on, its interrupt is sent where it asks for one,
and the heads behind it are checked. -/
def Device.completed (d : Device) (k : RingRef) (x : QDesc) (tags : List Byte) (status detail kind : Byte)
    (payload : List Byte) : Device :=
  let r := d.ring k
  let d := d.setRing k { r with cqTail := r.cqTail + 1, queued := r.queued.drop 1, job := .idle }
  let d := (d.charge 28 r.entryAt 64 true).coWrite r.entryAt (entryBytes r tags status detail kind x.index payload)
  Device.settleHead queueMax (d.notifyFor k x) k

/-- The device with the head descriptor of a ring completed with a DONE entry. -/
def Device.doneWith (d : Device) (k : RingRef) (x : QDesc) (status detail : Byte) (value : Nat) : Device :=
  d.completed k x (d.descTags k x) status detail 0x03 (bytesOfNat 8 value ++ bytesOfNat 8 d.ns.toNat)

/-- A live device whose ring has a descriptor of an opcode at its head that is taken up: nothing before it is in progress, the
ring's context is OPEN, and checks 2 to 5 of R256 pass. -/
def Device.takes (d : Device) (k : RingRef) (op : Nat) (x : QDesc) : Prop :=
  d.live = true ∧ d.headOf k op = some x ∧ d.headVeto k x = none

/-- The rows of the register map whose writes do more, or other, than their field types say, by offset. -/
def specialRows : List Nat :=
  [0x8, 0x14, 0x2c, 0x30, 0x200010, 0x200018, 0x200020, 0x200040, 0x200048, 0x300000, 0x301080, 0x301100, 0x302000, 0x304000, 0x306000,
   0x310000, 0x310004, 0x310008, 0x310010, 0x520000, 0x530000] ++
  [0x900000, 0x900018, 0x90001c, 0xb00100, 0xb80000, 0xb80004, 0xc80000, 0xc80004, 0xd40004, 0xe00010, 0xe00014, 0xe0001c, 0xe00050,
   0xe00060, 0xf00004, 0x1100010]

end Machine

end Sys2Proof
end

