-- ==== Sys2Proof/Certificates/Slice0/Obligations.lean ====
section
/-!
DEFINITION. The statements for the provers. Each docstring says what its statement claims and which rules it rests on.
-/

open Sys2Proof Sys2Proof.Machine

/-- For every device, command and rest of the queue, a step is exec of the front command on the device with the rest of the
queue. (95_what_each_step_holds.md) -/
def Obligations.StepRunsFront : Prop :=
  ∀ (d : Device) (c : Instr) (rest : List Instr), step ⟨d, c :: rest⟩ = exec c ⟨d, rest⟩

/-- Every well-formed command answers a next state whose queue is the one it was given, and every other command answers the
fault illFormed. (95_what_each_step_holds.md) -/
def Obligations.WellFormedCompletes : Prop :=
  ∀ (i : Instr) (s : State),
    (i.wellFormed = true → ∃ t, exec i s = .next t ∧ t.pending = s.pending) ∧
    (i.wellFormed = false → exec i s = .fault .illFormed)

/-- From every state whose waiting commands are all well formed, as many steps as there are waiting commands give a next state
with an empty queue, and every step on the way is safe. (95_what_each_step_holds.md) -/
def Obligations.QueueDrains : Prop :=
  ∀ s : State, (∀ c ∈ s.pending, c.wellFormed = true) →
    ∃ t, Host.Core.run Sys2Proof.core s.pending.length s = .next t ∧ t.pending = []

/-- The reset state has an empty queue, canonical stores, every register at its reset value and every byte of memory zero (the
model's choice for memory that nothing has written, log entry 3). (13_register_summary.md) -/
def Obligations.ResetStores : Prop :=
  State.reset.pending = [] ∧ State.reset.dev.Canonical ∧ (∀ a, State.reset.dev.reg a = regReset a) ∧
    ∀ a, memByte State.reset.dev.mem a = 0

/-- For every state with canonical stores, if a step answers a next state then its stores are canonical: addresses strictly
rising, no byte listed that reads as an unlisted one, no register listed at its reset value. (13_register_summary.md,
06_memory_system.md) -/
def Obligations.StoresStayCanonical : Prop :=
  ∀ s t : State, s.dev.Canonical → step s = .next t → t.dev.Canonical

/-- On an empty queue, with VDD_AON and the reference present, a step adds ALM_INCR to the 96-bit counter and, outside RUNNING,
ALM_LEAP's waiting sum to its integer part, and counts the tick; the supplies, the configuration, the boot and the security
state stand, and on a device that is not live everything but the Almanac does. Without them the device keeps its whole state
(log entry 1: a step on an empty queue is a tick; log entry 89: a step that still waits in RUNNING is dropped). (R355) -/
def Obligations.TickAddsIncrement : Prop :=
  ∀ d : Device,
    ((d.power.vddAon && d.power.refClk) = true → ∃ t, step ⟨d, []⟩ = .next t ∧ t.pending = [] ∧
      t.dev.alm.count = d.alm.count + (d.reg Reg.almIncr).setWidth 96 +
        (if d.cfg = .running then (0 : BitVec 96) else d.alm.nextLeap.setWidth 96 <<< 32) ∧
      t.dev.alm.nextLeap = 0 ∧ t.dev.alm.ticks = d.alm.ticks + 1 ∧ t.dev.power = d.power ∧ t.dev.cfg = d.cfg ∧
      t.dev.boot = d.boot ∧ t.dev.sec = d.sec ∧
      (d.live = false → t.dev.mem = d.mem ∧ t.dev.regs = d.regs ∧ t.dev.ctxs = d.ctxs ∧ t.dev.tenancies = d.tenancies)) ∧
    ((d.power.vddAon && d.power.refClk) = false → step ⟨d, []⟩ = .next ⟨d.begun, []⟩)

/-- A well-formed command that is none of the always-on domain's and the boot's fifteen, and no read that the island's ROM
answers after it has stopped the boot, leaves a device that is not live as it was, with no answer and nothing sent (log
entry 5). Such a read of SAF or SEC by an island hart that is present answers what it reads. (R433, R438, R400) -/
def Obligations.DeadDeviceStands : Prop :=
  ∀ (i : Instr) (s : State), i.wellFormed = true → s.dev.live = false →
    (i.alwaysOn = false → (∀ who a n e r h, i = .readClear who a n e r h → s.dev.romAnswers who a = false) →
      exec i s = .next { s with dev := s.dev.begun }) ∧
    ∀ who a n e r h, i = .readClear who a n e r h → s.dev.romAnswers who a = true → s.dev.present who = true →
      exec i s = .next { s with dev := busRead (s.dev.begun.hartCe who h) who a n e r h.attr }

/-- REF_CLK_STOP and REF_CLK_RETURN change the reference alone; RAIL_EN_RELEASE raises RAIL_EN of a device held for a power-on
start; RAIL_EN_HOLD_EXPIRE ends the hold and raises RAIL_EN where a wake was latched. Nothing else of the device changes.
(R433, R438, R439, 14_package_electrical.md) -/
def Obligations.SuppliesAndReference : Prop :=
  ∀ s : State,
    exec .refClkStop s = .next { s with dev := { s.dev.begun with power := { s.dev.power with refClk := false } } } ∧
    exec .refClkReturn s = .next { s with dev := { s.dev.begun with power := { s.dev.power with refClk := true } } } ∧
    ((s.dev.power.vddAon && s.dev.power.refClk) = true → s.dev.power.phase = .held → s.dev.power.start = .powerOn →
      exec .railEnRelease s =
        .next { s with dev := { s.dev.begun with power := { s.dev.power with railEn := true } } }) ∧
    ((s.dev.power.vddAon && s.dev.power.refClk) = true → s.dev.power.phase = .asleep →
      exec .railEnHoldExpire s = .next { s with dev := { s.dev.begun with power := { s.dev.power with
        holdDone := true, railEn := s.dev.power.railEn || (decide (s.dev.power.wakeCmp ≠ 0) || decide (s.dev.power.wakePins ≠ 0)) } } })

/-- POWER_ON on a device without VDD_AON, or held with RAIL_EN low, and LOSS_OF_VDD_AON leave every register at its reset value,
the Almanac at 0, memory empty, nothing configured, and only what flash and manufacture hold: the part, the boot flash with
its helper data, and the stored record. POWER_ON leaves VDD_AON present and a power-on start to come; LOSS_OF_VDD_AON, on
every device, leaves it absent. (R355, R392, R441, 14_package_electrical.md) -/
def Obligations.PowerStarts : Prop :=
  ∀ s : State,
    let leaves := fun (i : Instr) (on : Bool) => ∃ t, exec i s = .next t ∧ (∀ a, t.dev.reg a = regReset a) ∧
      t.dev.alm = Almanac.reset ∧ t.dev.mem = [] ∧ t.dev.cfg = .empty ∧ t.dev.ctxs = [] ∧ t.dev.tenancies = [] ∧
      t.dev.herald = Herald.reset ∧ t.dev.part = s.dev.part ∧ t.dev.boot.flash = s.dev.boot.flash ∧
      t.dev.sec.record = s.dev.sec.record ∧ t.dev.helperData = s.dev.helperData ∧ t.dev.power.railEn = false ∧
      t.dev.power.phase = .held ∧ t.dev.power.start = .powerOn ∧ t.dev.power.vddAon = on ∧ t.pending = s.pending
    ((s.dev.power.vddAon = false ∨ (s.dev.power.railEn = false ∧ s.dev.power.phase = .held)) → leaves .powerOn true) ∧
    leaves .lossOfVddAon false

/-- WARM_RESET outside sleep, and BROWN_OUT with RAIL_EN high outside sleep, on a device with canonical stores: every W1C-S
register keeps its sticky bits, every other register that is no held record takes its reset value, the Almanac's counter,
the part and the boot flash stand, the device holds for a start with no context, tenancy or configuration, and after a
brown-out PWR_GOOD is low and RAIL_EN still high. (R392, R440, 12_startup_security_power.md) -/
def Obligations.WarmStartsKeep : Prop :=
  ∀ s : State, s.dev.Canonical → (s.dev.power.vddAon && s.dev.power.refClk) = true → s.dev.power.phase ≠ .asleep →
    let holds := fun (i : Instr) (k : StartKind) (good : Bool) => ∃ t, exec i s = .next t ∧ t.dev.power.phase = .held ∧
      t.dev.cfg = .empty ∧ t.dev.ctxs = [] ∧ t.dev.tenancies = [] ∧ t.dev.alm = s.dev.alm ∧ t.dev.part = s.dev.part ∧
      t.dev.boot.flash = s.dev.boot.flash ∧ t.dev.sec.record = s.dev.sec.record ∧ t.dev.power.railEn = s.dev.power.railEn ∧
      t.dev.power.start = k ∧ t.dev.power.pwrGood = good ∧ t.pending = s.pending ∧
      (∀ a r, regRowAt a = some r → r.sticky = true → t.dev.reg a = s.dev.reg a &&& BitVec.ofNat 64 r.w1c) ∧
      ∀ a r, regRowAt a = some r → r.sticky = false → s.dev.recordHeld a ≠ some true → t.dev.reg a = regReset a
    holds .warmReset .warmReset s.dev.power.pwrGood ∧
    (s.dev.power.railEn = true → holds .brownOut s.dev.restartKind false)

/-- BOOT_START with RAIL_EN high on a device that is held or asleep raises PWR_GOOD, records the strap and the cause of the
start, and stops where an island comparator failed its test. Where both passed, the PUF gives its seed, helper data stand in
the flash and the record that the read returns authenticates, it takes the record and the identity, and goes on to train
memory from the first slot whose header, certificate and configuration block pass, or stops where neither does.
DDR_TRAINING_DONE then shows the channels trained and failed; MEMORY_ZEROED leaves zero in every byte of the Quarries and
Benches, and of the DDR unless its training failed; SECTIONS_COPIED, where every copied section matches its digest, puts the
island and self-test sections in place and ends the boot in EMPTY with VDD_ENG at 0.550 V and Herald source 72 raised, and
stops the boot where one does not match and both slots have been tried. (R400, R397, R310, R392, R413,
12_startup_security_power.md) -/
def Obligations.BootSteps : Prop :=
  ∀ s : State, (s.dev.power.vddAon && s.dev.power.refClk) = true →
    (s.dev.power.railEn = true → s.dev.power.phase = .held ∨ s.dev.power.phase = .asleep → ∀ b : BootInputs,
      let f := { s.dev with boot := { s.dev.boot with flash := b.flash } }
      (b.islandPass ≠ 3 → ∃ t, exec (.bootStart b) s = .next t ∧ t.dev.power.phase = .bootStopped ∧
        t.dev.power.pwrGood = true ∧ t.dev.rank = b.rankHigh ∧ t.dev.reg Reg.cfgWakeCause = s.dev.causeOf ∧
        t.dev.boot.flash = b.flash) ∧
      (b.islandPass = 3 → b.pufOk = true → f.hasHelper = true → ∀ bytes x, b.record = some bytes →
        f.checkedRecord bytes = some x →
        let e := { f with sec := { f.sec with record := some x } }
        ∃ t, exec (.bootStart b) s = .next t ∧ t.dev.power.pwrGood = true ∧ t.dev.rank = b.rankHigh ∧
          t.dev.reg Reg.cfgWakeCause = s.dev.causeOf ∧ t.dev.boot.flash = b.flash ∧ t.dev.sec.record = some x ∧
          t.dev.sec.identity = true ∧ t.dev.mem = s.dev.mem ∧
          (if e.slotOk e.firstSlot = true then t.dev.power.phase = .training ∧ t.dev.boot.slot = e.firstSlot
           else if e.slotOk (!e.firstSlot) = true then t.dev.power.phase = .training ∧ t.dev.boot.slot = !e.firstSlot
           else t.dev.power.phase = .bootStopped))) ∧
    (s.dev.power.phase = .training → ∀ failed : BitVec 8, ∃ t, exec (.ddrTrainingDone failed) s = .next t ∧
      t.dev.power.phase = .zeroing ∧ t.dev.ddrReady = decide (failed = 0) ∧ t.dev.mem = s.dev.mem ∧
      ∀ c < 8, t.dev.regBit Reg.ddrStatus c = !failed.getLsbD c ∧
        t.dev.regBit Reg.ddrSticky c = (s.dev.regBit Reg.ddrSticky c || failed.getLsbD c)) ∧
    (s.dev.power.phase = .zeroing → ∃ t, exec .memoryZeroed s = .next t ∧ t.dev.power.phase = .copying ∧
      t.dev.regs = s.dev.regs ∧ ∀ a, memByte t.dev.mem a =
        if s.dev.ddrReady = true ∨ 0x4000000000 ≤ a then 0 else memByte s.dev.mem a) ∧
    (s.dev.power.phase = .copying → ∀ fires,
      (s.dev.copiesMatch = true → ∃ t, exec (.sectionsCopied fires) s = .next t ∧
        t.dev.power.phase = .up ∧ t.dev.cfg = .empty ∧ 72 ∈ t.dev.herald.raised ∧ (∀ die < 4, t.dev.reg (Reg.pwrRail die) = 550) ∧
        t.dev.islandSram = memWrite [] 0 (s.dev.sectionBytes s.dev.boot.slot 1) ∧
        t.dev.rd s.dev.boot.stestBase (s.dev.sectionBytes s.dev.boot.slot 3).length = s.dev.sectionBytes s.dev.boot.slot 3) ∧
      (s.dev.copiesMatch = false → s.dev.boot.triedOther = true → ∃ t, exec (.sectionsCopied fires) s = .next t ∧
        t.dev.power.phase = .bootStopped ∧ t.dev.mem = s.dev.mem))

/-- In sleep, an enabled wake pin sets its bit of the latched wakes; RAIL_EN rises at once where the 10 ms have passed, and
otherwise stays as it was until RAIL_EN_HOLD_EXPIRE, which then raises it. A pin that is not enabled changes nothing. (R417) -/
def Obligations.WakesLatch : Prop :=
  ∀ (s : State) (k : Fin 4), (s.dev.power.vddAon && s.dev.power.refClk) = true → s.dev.power.phase = .asleep →
    (s.dev.regBit Reg.cfgWake (8 + k) = true → ∃ t, exec (.wakePin k) s = .next t ∧
      t.dev.power.wakePins = s.dev.power.wakePins ||| BitVec.ofNat 4 (2 ^ k.val) ∧
      t.dev.power.railEn = (s.dev.power.railEn || s.dev.power.holdDone) ∧ t.dev.power.phase = .asleep ∧
      ∃ u, exec .railEnHoldExpire t = .next u ∧ u.dev.power.railEn = true) ∧
    (s.dev.regBit Reg.cfgWake (8 + k) = false →
      exec (.wakePin k) s = .next { s with dev := s.dev.begun })

/-- Each write in range has its effect and one out of range, or a step in RUNNING, is ignored, sets its bit of ALM_STICKY and
raises source 104; a read of ALM_NOW answers the integer nanoseconds and latches the fraction. Nothing else of the device
changes, but that a firing which is due in the tick of a write to ALM_CMPk_PERIOD takes place with the old period (log entry
70). (R357) -/
def Obligations.AlmanacAccesses : Prop :=
  ∀ (who : Who) (s : State), s.dev.live = true → s.dev.present who = true →
    (∀ v : Word, exec (.almIncrWrite who v) s = .next { s with dev := (
      let d := s.dev.begun.reply .written
      if 0x9FF7CED92 ≤ v.toNat ∧ v.toNat ≤ 0xA0083126E then (d.setReg Reg.almIncr v) else (d.orReg Reg.almSticky 1).raise 104) }) ∧
    (∀ v : Word, exec (.almLeapWrite who v) s = .next { s with dev := (
      let d := s.dev.begun.reply .written
      if d.cfg = .running then ((d.orReg Reg.almSticky 2).raise 104) else
        { d with alm := { d.alm with nextLeap := d.alm.nextLeap + v } }) }) ∧
    (∀ (k : Fin 8) (v : Half),
      let fits := v = 0 ∨ (1000 ≤ v.toNat ∧ v.toNat ≤ 4000000000)
      (s.dev.fireDue k = false → exec (.almCmpPeriodWrite who k v) s = .next { s with dev := (
        let d := s.dev.begun.reply .written
        if fits then (d.setReg (Reg.almCmpPeriod k) (wordOf v)) else (d.orReg Reg.almSticky 4).raise 104) }) ∧
      (s.dev.fireDue k = true → ∃ t u, exec (.almCmpPeriodWrite who k v) s = .next t ∧
        exec (.comparatorFire k) s = .next u ∧ 96 + k.val ∈ t.dev.herald.raised ∧
        (fits → ∀ a, t.dev.reg a = if a = Reg.almCmpPeriod k then wordOf v else u.dev.reg a) ∧
        (¬ fits → 104 ∈ t.dev.herald.raised ∧ t.dev.regBit Reg.almSticky 2 = true ∧
          ∀ a, a ≠ Reg.almSticky → t.dev.reg a = u.dev.reg a))) ∧
    exec (.almNowRead who) s = .next { s with dev := (
      let d := s.dev.begun.reply (.value s.dev.ns)
      d.setReg Reg.almNowFrac (BitVec.ofNat 64 (s.dev.alm.count.toNat % 2 ^ 32))) }

/-- With the reference, an enabled comparator whose compare value the Almanac has reached, and which has not fired in this tick,
raises source 96 + k; with no period its enable is cleared, else whole periods are added to its compare value until it
exceeds the Almanac (while the sum fits 64 bits). One that is not enabled, or not reached, changes nothing. Comparators 0
and 1, with their output enabled and a width that is not 0, drive their pin high until width ticks later; with a width of 0,
or the output disabled, the pin stays as it was. At the end of the pulse the pin is low, and before it TIME_OUT_PULSE_END
changes nothing. (R362, R363) -/
def Obligations.ComparatorFires : Prop :=
  ∀ (s : State) (k : Fin 8), (s.dev.power.vddAon && s.dev.power.refClk) = true →
    let due := s.dev.regBit Reg.almCmpCtrl k = true ∧ (s.dev.reg (Reg.almCmp k)).toNat ≤ s.dev.ns.toNat ∧
      tget s.dev.alm.fired k ≠ some s.dev.alm.ticks
    let period := s.dev.fld (Reg.almCmpPeriod k) 0 32
    (due → s.dev.ns.toNat + period < 2 ^ 64 → ∃ t, exec (.comparatorFire k) s = .next t ∧ (96 + k.val) ∈ t.dev.herald.raised ∧
      t.dev.alm.count = s.dev.alm.count ∧ (∀ a, memByte t.dev.mem a = memByte s.dev.mem a) ∧
      (period = 0 → t.dev.regBit Reg.almCmpCtrl k = false ∧ t.dev.reg (Reg.almCmp k) = s.dev.reg (Reg.almCmp k)) ∧
      (period ≠ 0 → s.dev.ns.toNat < (t.dev.reg (Reg.almCmp k)).toNat ∧
        (t.dev.reg (Reg.almCmp k)).toNat ≤ s.dev.ns.toNat + period ∧
        (t.dev.reg (Reg.almCmp k)).toNat % period = (s.dev.reg (Reg.almCmp k)).toNat % period)) ∧
    (¬ due → exec (.comparatorFire k) s = .next { s with dev := s.dev.begun }) ∧
    ∀ i : Fin 2, let stop := if i.val = 0 then s.dev.alm.pulse0 else s.dev.alm.pulse1
      (k.val = i.val → due → ∃ t, exec (.comparatorFire k) s = .next t ∧
        (if s.dev.regBit Reg.almCmpCtrl (8 + k) = true ∧ s.dev.fld Reg.almCmpCtrl 16 8 ≠ 0 then
          (if i.val = 0 then t.dev.alm.pulse0 else t.dev.alm.pulse1) = s.dev.alm.ticks + s.dev.fld Reg.almCmpCtrl 16 8
        else t.dev.timeOut i = s.dev.timeOut i)) ∧
      ∃ t, exec (.timeOutPulseEnd i) s = .next t ∧
        (stop ≤ s.dev.alm.ticks → t.dev.timeOut i = false) ∧ (s.dev.alm.ticks < stop → t.dev.timeOut i = s.dev.timeOut i) ∧
        t.dev.regs = s.dev.regs ∧ t.dev.mem = s.dev.mem

/-- A claim read of a target that its requester may use: where an eligible source is above every other in priority, or equal and
lower in number, the read answers its number, clears its pending bit, puts it in service for the target and copies its stamp
into HRD_STAMPs, and no other pending bit, register or byte of memory changes; where none is eligible, it answers 1,023 if
the request line has been high since the previous claim read and 0 otherwise, and no pending bit, service or register
changes. (R298) -/
def Obligations.HeraldClaim : Prop :=
  ∀ (who : Who) (t : Fin 52) (s : State), s.dev.live = true → s.dev.present who = true →
    targetDenied who t = false → s.dev.targetExists t = true →
    (∀ x, s.dev.eligible t x = true →
      (∀ u, s.dev.eligible t u = true → u ≠ x →
        s.dev.priority u < s.dev.priority x ∨ (s.dev.priority u = s.dev.priority x ∧ x < u)) →
      ∃ n, exec (.hrdClaim who t) s = .next n ∧ n.dev.answer = .value (BitVec.ofNat 64 x) ∧ x ∉ n.dev.herald.pend ∧
        tget n.dev.herald.inserv x = some t ∧ n.dev.reg (Reg.hrdStamp x) = tgetD s.dev.herald.stamps x 0 ∧
        (∀ u ≠ x, (u ∈ n.dev.herald.pend ↔ u ∈ s.dev.herald.pend)) ∧
        (∀ a ≠ Reg.hrdStamp x, n.dev.reg a = s.dev.reg a) ∧ n.dev.mem = s.dev.mem) ∧
    ((∀ u, s.dev.eligible t u = false) → ∃ n, exec (.hrdClaim who t) s = .next n ∧
      n.dev.answer = .value (if s.dev.herald.lineSeen.contains t.val then 1023 else 0) ∧
      n.dev.herald.pend = s.dev.herald.pend ∧ n.dev.herald.inserv = s.dev.herald.inserv ∧
      n.dev.regs = s.dev.regs ∧ n.dev.mem = s.dev.mem)

/-- A write of a source number in service for the target ends its service: an edge source keeps its pending bit, a level source
that is asserted is pending afterwards. A write of a number not in service for the target changes nothing. No register and
no byte of memory changes. (R300) -/
def Obligations.HeraldComplete : Prop :=
  ∀ (who : Who) (t : Fin 52) (s : State) (v : Half), s.dev.live = true → s.dev.present who = true →
    targetDenied who t = false → s.dev.targetExists t = true → v.toNat < 1024 →
    (tget s.dev.herald.inserv v.toNat = some t.val → ∃ n, exec (.hrdComplete who t v) s = .next n ∧
      tget n.dev.herald.inserv v.toNat = none ∧ n.dev.answer = .written ∧ n.dev.regs = s.dev.regs ∧ n.dev.mem = s.dev.mem ∧
      (s.dev.levelSense v.toNat = false → n.dev.herald.pend = s.dev.herald.pend) ∧
      (s.dev.asserted v.toNat = true → v.toNat ∈ n.dev.herald.pend)) ∧
    (tget s.dev.herald.inserv v.toNat ≠ some t.val →
      exec (.hrdComplete who t v) s = .next { s with dev := s.dev.begun.reply .written })

/-- Of the sources without level sense, and so of every software source, a write to HRD_PEND_SETw pends exactly those it names
and may touch: one not pending takes the reading of the Almanac as its stamp, one pending already has its bit of HRD_LOST
set, and no other pending bit changes. A write to HRD_PEND_CLRw clears exactly those it names and may touch. A bit of an
island-owned source has no effect unless an island hart writes it. (R301, R303, R304) -/
def Obligations.HeraldPendWrites : Prop :=
  ∀ (who : Who) (w : Fin 32) (v : Half) (s : State), s.dev.live = true → s.dev.present who = true →
    let named := fun u : Nat => u / 32 = w.val ∧ v.getLsbD (u % 32) = true ∧ hrdSource u = true ∧
      (whoIsIsland who = true ∨ s.dev.islandOwned u = false)
    (∃ n, exec (.hrdPendSet who w v) s = .next n ∧ n.dev.answer = .written ∧ n.dev.mem = s.dev.mem ∧
      ∀ u, s.dev.levelSense u = false →
        (u ∈ n.dev.herald.pend ↔ u ∈ s.dev.herald.pend ∨ named u) ∧
        (named u → u ∉ s.dev.herald.pend → tgetD n.dev.herald.stamps u 0 = s.dev.ns) ∧
        (named u → u ∈ s.dev.herald.pend → n.dev.regBit (Reg.hrdLost (u / 32)) (u % 32) = true)) ∧
    (∃ n, exec (.hrdPendClr who w v) s = .next n ∧ n.dev.answer = .written ∧ n.dev.mem = s.dev.mem ∧
      n.dev.regs = s.dev.regs ∧
      ∀ u, s.dev.levelSense u = false → (u ∈ n.dev.herald.pend ↔ u ∈ s.dev.herald.pend ∧ ¬ named u))

/-- A write to HRD_EN_SETt_w or HRD_EN_CLRt_w of a target that its requester may use sets or clears exactly the enable bits it
names of numbers that are sources, and no other register, pending bit or byte of memory changes. One for a target of the
island made from outside the island changes nothing and answers an error. (R301, R294) -/
def Obligations.HeraldEnables : Prop :=
  ∀ (who : Who) (t : Fin 52) (w : Fin 32) (v : Half) (s : State), s.dev.live = true → s.dev.present who = true →
    (targetDenied who t = false → s.dev.targetExists t = true →
      (∃ n, exec (.hrdEnSet who t w v) s = .next n ∧ n.dev.answer = .written ∧ n.dev.mem = s.dev.mem ∧
        n.dev.herald.pend = s.dev.herald.pend ∧ (∀ a ≠ Reg.hrdEn t w, n.dev.reg a = s.dev.reg a) ∧
        ∀ i < 32, n.dev.regBit (Reg.hrdEn t w) i =
          (s.dev.regBit (Reg.hrdEn t w) i || (v.getLsbD i && hrdSource (32 * w + i)))) ∧
      (∃ n, exec (.hrdEnClr who t w v) s = .next n ∧ n.dev.answer = .written ∧ n.dev.mem = s.dev.mem ∧
        n.dev.herald = s.dev.herald ∧ (∀ a ≠ Reg.hrdEn t w, n.dev.reg a = s.dev.reg a) ∧
        ∀ i < 32, n.dev.regBit (Reg.hrdEn t w) i =
          (s.dev.regBit (Reg.hrdEn t w) i && !(v.getLsbD i && hrdSource (32 * w + i))))) ∧
    (targetDenied who t = true → ∀ i ∈ [Instr.hrdEnSet who t w v, Instr.hrdEnClr who t w v, Instr.hrdClaim who t,
        Instr.hrdComplete who t v],
      exec i s = .next { s with dev := s.dev.begun.reply .error })

/-- A rise of the filter output of a source of rising sense whose line has risen sets its pending bit with the reading at the
first sample as its stamp, or, where the bit is set already, sets its bit of HRD_LOST; a rise of one of level sense that is
not in service pends it. A fall of a level source's output clears a pending bit that the level set. Other pending bits, and
memory, stand. (R296, R302) -/
def Obligations.HeraldFilterOutput : Prop :=
  ∀ (x : Fin 1024) (s : State), s.dev.live = true → hrdSource x = true → hrdSoftware x = false →
    (s.dev.herald.out.contains x.val = false → s.dev.lineMay x true = true →
      ∃ n, exec (.filterOutputChange x true) s = .next n ∧ n.dev.mem = s.dev.mem ∧
        n.dev.herald.out.contains x.val = true ∧ (∀ u ≠ x.val, (u ∈ n.dev.herald.pend ↔ u ∈ s.dev.herald.pend)) ∧
        (s.dev.sense x = 2 → x.val ∈ n.dev.herald.pend ∧
          (x.val ∉ s.dev.herald.pend → tgetD n.dev.herald.stamps x 0 = s.dev.sampledAt x true ∧ n.dev.regs = s.dev.regs) ∧
          (x.val ∈ s.dev.herald.pend → n.dev.regBit (Reg.hrdLost (x / 32)) (x % 32) = true ∧
            n.dev.herald.stamps = s.dev.herald.stamps)) ∧
        (s.dev.sense x = 0 → s.dev.inService x = false → x.val ∈ n.dev.herald.pend)) ∧
    (s.dev.herald.out.contains x.val = true → s.dev.lineMay x false = true → s.dev.sense x = 0 →
      ∃ n, exec (.filterOutputChange x false) s = .next n ∧ n.dev.mem = s.dev.mem ∧ n.dev.regs = s.dev.regs ∧
        n.dev.herald.out.contains x.val = false ∧
        (s.dev.herald.byLevel.contains x.val = true → x.val ∉ n.dev.herald.pend) ∧
        (s.dev.herald.byLevel.contains x.val = false → n.dev.herald.pend = s.dev.herald.pend))

/-- MACHINE_TIMER_PENDING of a target that has a machine timer makes its timer pending where the integer nanoseconds have
reached HRD_MTIMECMPt, and changes no other timer, register, pending bit or byte of memory; before that it changes nothing.
(R306, 09_host_complex_herald.md) -/
def Obligations.MachineTimer : Prop :=
  ∀ (t : Fin 52) (s : State), s.dev.live = true → s.dev.hasTimer t = true →
    ((s.dev.reg (Reg.hrdMtimecmp t)).toNat ≤ s.dev.ns.toNat → ∃ n, exec (.machineTimerPending t) s = .next n ∧
      t.val ∈ n.dev.herald.timers ∧ (∀ u ≠ t.val, (u ∈ n.dev.herald.timers ↔ u ∈ s.dev.herald.timers)) ∧
      n.dev.regs = s.dev.regs ∧ n.dev.mem = s.dev.mem ∧ n.dev.herald.pend = s.dev.herald.pend) ∧
    (s.dev.ns.toNat < (s.dev.reg (Reg.hrdMtimecmp t)).toNat →
      exec (.machineTimerPending t) s = .next { s with dev := s.dev.begun })

/-- A MATMUL whose unit may issue, with its activations and its row sums within the share, and with a plan that feeds the
engines in force where it takes the feed: entry n of the row becomes its old value, or zero after a clear, with the products
of column n of the computing weight register added (the exact integer dot product in the integer modes), for every column;
the row-sum entry of the row has the sums of the row's segments added, or is kept, or is cleared; the other rows, the other
accumulator bank and the other engine stand, and so do memory and the synchronisation objects. One that takes the feed of no
plan changes nothing. (R36, R37, R39, R132, 02_cores_and_engines.md) -/
def Obligations.MatmulAccumulates : Prop :=
  ∀ (u : CoreUse) (op : MatmulOp) (s : State) (q : Seat) (xs : List Nat), s.dev.mayIssue u.core .exec q → cleanUse u →
    let b := s.dev.bank u.core q.ctx
    let e := { b.eng op.engine with active := op.weights }
    let xf := modeActivation op.mode op.xFmt
    let wf := modeWeight op.mode e.computing.fmt
    s.dev.activations q b op.mode xf op.source = some xs →
    (∀ off, op.rowSum = some off → s.dev.inShare q.ctx off (4 * rowSegs op.mode xf) = true) →
    (fedSource op.source = true → b.feeds false = false → exec (.matmul u op) s = .next { s with dev := s.dev.begun }) ∧
    ((fedSource op.source = true → b.feeds false = true) → ∃ t, exec (.matmul u op) s = .next t ∧ t.dev.mem = s.dev.mem ∧ t.dev.objects = s.dev.objects ∧
      (let b' := t.dev.bank u.core q.ctx
       let e' := b'.eng op.engine
       (∀ n < modeN op.mode,
          let old := if op.clear then AccVal.zero else tgetD e.updating.entries (64 * op.row.val + n) .zero
          tgetD e'.updating.entries (64 * op.row.val + n) .zero = (accUpdate e.computing op.mode wf xf xs n old).1 ∧
          (modeInt op.mode = true → tgetD e'.updating.entries (64 * op.row.val + n) .zero =
            .int (old.asInt + intDot xf wf xs (e.computing.column op.mode wf n)))) ∧
       (∀ k, k / 64 ≠ op.row.val → tgetD e'.updating.entries k .zero = tgetD e.updating.entries k .zero) ∧
       tgetD e'.updating.rowSums op.row.val 0 = (if op.clear then 0 else tgetD e.updating.rowSums op.row.val 0) +
         (op.rowSum.map fun off => segSums (rowSegs op.mode xf)
           (s.dev.shareRead q.ctx u.core off (4 * rowSegs op.mode xf))).getD 0 ∧
       (∀ k ≠ op.row.val, tgetD e'.updating.rowSums k 0 = tgetD e.updating.rowSums k 0) ∧
       e'.filling = e.filling ∧ e'.computing = e.computing ∧
       (if e.filling then e'.a0 = e.a0 else e'.a1 = e.a1) ∧ b'.eng (1 - op.engine) = b.eng (1 - op.engine) ∧
       b'.exec.position = b.exec.position + 1))

/-- A WTLOAD of a mode other than Sett4, with its codes within the share, puts the codes of the Bench into the register the
engine does not compute from and leaves the computing register, the accumulators and memory as they were. An ACCSWAP whose
drain parameters lie within the share, and its results too where they go to the Bench, makes the other bank take updates
with its contents as they were, leaves the drained bank empty, and, draining to the Bench, changes no byte outside the
drained rows. (R37, R38, R137, 02_cores_and_engines.md) -/
def Obligations.WeightsAndSwap : Prop :=
  ∀ (u : CoreUse) (s : State) (q : Seat), s.dev.mayIssue u.core .exec q → cleanUse u →
    let b := s.dev.bank u.core q.ctx
    (∀ op : WtloadOp, op.mode ≠ .sett4 →
      s.dev.inShare q.ctx op.codes (tileBytes op.mode (modeWeight op.mode op.fmt)) = true →
      ∃ t, exec (.wtload u op) s = .next t ∧ t.dev.mem = s.dev.mem ∧
        (let g := b.eng op.engine
         let g' := (t.dev.bank u.core q.ctx).eng op.engine
         let w : WeightReg := { mode := op.mode, fmt := modeWeight op.mode op.fmt, scales := [], spalls := [], data := (
           s.dev.shareRead q.ctx u.core op.codes (tileBytes op.mode (modeWeight op.mode op.fmt))) }
         g'.computing = g.computing ∧ (if g.active then g'.w0 = w else g'.w1 = w) ∧ g'.active = g.active ∧
         g'.a0 = g.a0 ∧ g'.a1 = g.a1 ∧
         (t.dev.bank u.core q.ctx).eng (1 - op.engine) = b.eng (1 - op.engine))) ∧
    (∀ e : Fin 2,
      let m := modeOfNat (b.setreg (.drainMode e))
      let f := fmtOfNat (b.setreg (.drainFormat e))
      let rows := min 256 (b.setreg (.drainRows e))
      let dest := b.setreg (.drainDest e)
      let stride := b.setreg (.drainStride e)
      (rows = 0 ∨ (s.dev.inShare q.ctx (b.setreg (.drainTable e)) (16 * modeN m) = true ∧
        (b.setreg (.drainToVector e) % 2 = 1 ∨
          s.dev.inShare q.ctx (dest + (rows - 1) * stride) (elemBytes f (modeN m)) = true))) →
      ∃ t, exec (.accswap u e) s = .next t ∧
        (let g := b.eng e
         let g' := (t.dev.bank u.core q.ctx).eng e
         g'.filling = !g.filling ∧ g'.w0 = g.w0 ∧ g'.w1 = g.w1 ∧
         (if g.filling then g'.a1 = AccBank.empty ∧ g'.a0 = g.a0 else g'.a0 = AccBank.empty ∧ g'.a1 = g.a1)) ∧
        (b.setreg (.drainToVector e) % 2 ≠ 1 → ∀ a,
          (∀ r < rows, a < s.dev.shareAddr q.ctx u.core (dest + r * stride) ∨
            s.dev.shareAddr q.ctx u.core (dest + r * stride) + elemBytes f (modeN m) ≤ a) →
          memByte t.dev.mem a = memByte s.dev.mem a))

/-- For the FP32 fused multiply-add, addition and maximum, the 32-bit integer maximum, and for a segment evaluation whose table
lies in the share and covers every index, each of the 128 lanes of the destination takes the value its rule gives from the
same lane of the sources; every other register, the engines and memory stand. (R42, R43, 02_cores_and_engines.md) -/
def Obligations.VectorLanes : Prop :=
  ∀ (u : CoreUse) (s : State) (q : Seat), s.dev.mayIssue u.core .exec q → cleanUse u →
    let b := s.dev.bank u.core q.ctx
    let lanes := fun (i : Instr) (d : Fin 32) (f : Nat → Half) => ∃ t, exec i s = .next t ∧ t.dev.mem = s.dev.mem ∧
      (let b' := t.dev.bank u.core q.ctx
       (∀ l < 128, b'.lane d l = f l) ∧ (∀ v ≠ d, ∀ l < 128, b'.lane v l = b.lane v l) ∧ b'.eng0 = b.eng0 ∧ b'.eng1 = b.eng1 ∧
         b'.setregs = b.setregs ∧ b'.exec.position = b.exec.position + 1)
    (∀ d x y z, lanes (.vecop u (.fma d x y z)) d fun l =>
      (formF32 (((b.f32 x l).1.mul (b.f32 y l).1).add (b.f32 z l).1)).1) ∧
    (∀ d x y, lanes (.vecop u (.add d x y)) d fun l => (formF32 ((b.f32 x l).1.add (b.f32 y l).1)).1) ∧
    (∀ d x y, lanes (.vecop u (.maxFp d x y)) d fun l => (formF32 (valMax (b.f32 x l).1 (b.f32 y l).1)).1) ∧
    (∀ d x y, lanes (.vecop u (.maxInt d x y)) d fun l => BitVec.ofInt 32 (max (b.i32 x l) (b.i32 y l))) ∧
    (∀ op : SegevalOp, op.entries ≤ 1024 → s.dev.inShare q.ctx op.table (8 * op.entries) = true →
      (∀ l < 128, segIndex (b.lane op.s l) < op.entries) →
      let bs := s.dev.shareRead q.ctx u.core op.table (8 * op.entries)
      lanes (.segeval u op) op.d fun l =>
        let k := segIndex (b.lane op.s l)
        (formF32 (((readF32 (BitVec.ofNat 32 (fieldAt bs (8 * k) 4))).1.mul (b.f32 op.s l).1).add
          (readF32 (BitVec.ofNat 32 (fieldAt bs (8 * k + 4) 4))).1)).1)

/-- A PTBUILD within the share makes entry c of table t the FP32 product of code value c and activation t (entry 8 being +0, the
model's reading), and changes no byte of memory. A PTLOOK within the share that begins no block and meets no escape code
adds to each lane of its accumulator the entry of the code at its position of the lane's block, scaled by the lane's scale,
with every other register and memory as they were. (R44, R140, 02_cores_and_engines.md) -/
def Obligations.ProductTables : Prop :=
  ∀ (u : CoreUse) (s : State) (q : Seat), s.dev.mayIssue u.core .exec q → cleanUse u →
    let b := s.dev.bank u.core q.ctx
    (∀ off, s.dev.inShare q.ctx off 16 = true → ∃ t, exec (.ptbuild u off) s = .next t ∧ t.dev.mem = s.dev.mem ∧
      (t.dev.bank u.core q.ctx).vregs = b.vregs ∧ ∀ k < 8, ∀ c < 16,
        tgetD (t.dev.bank u.core q.ctx).tables (16 * k + c) 0 = if c = 8 then 0 else
          (formF32 ((Val.ofInt (tableCode c)).mul
            (layoutBf16.read (fieldAt (s.dev.shareRead q.ctx u.core off 16) (2 * k) 2)).1)).1) ∧
    (∀ op : PtlookOp, op.scales = none → s.dev.inShare q.ctx op.codes 2048 = true → s.dev.inShare q.ctx op.spalls 0 = true →
      let codes := s.dev.shareRead q.ctx u.core op.codes 2048
      (∀ l < 128, isEscape (laneCode codes l op.position.val) = false) →
      ∃ t, exec (.ptlook u op) s = .next t ∧ t.dev.mem = s.dev.mem ∧
        (∀ l < 128, (t.dev.bank u.core q.ctx).lane op.group l = (formF32 (((readF32
          (tgetD b.tables (16 * op.table.val + laneCode codes l op.position.val) 0)).1.mul (.ofRat (scaleVal (tgetD b.laneScales l 0)))).add
          (b.f32 op.group l).1)).1) ∧
        (∀ v ≠ op.group, ∀ l < 128, (t.dev.bank u.core q.ctx).lane v l = b.lane v l) ∧
        (t.dev.bank u.core q.ctx).tables = b.tables)

/-- SETREG sets its register and no other; a LOOP with a count written in it opens a loop of that count; one that takes the
active slot count, read through the core's port, opens a loop of it where it is within the declared maximum, and otherwise
tears the context down with status BOUNDS without starting the loop; it ends the run with UNIT_OFFLINE where the table is at
a unit held offline, and waits while its port holds the read. END ends the unit, which then issues nothing. Memory stands.
(R80, R81, R83, 03_schedule_contract.md) -/
def Obligations.SequencerControl : Prop :=
  ∀ (u : CoreUse) (k : UnitKind) (s : State) (q : Seat), s.dev.mayIssue u.core k q → cleanUse u →
    let b := s.dev.bank u.core q.ctx
    (k = .exec → ∀ (r : CoreReg) (v : Word), ∃ t, exec (.setreg u r v) s = .next t ∧ t.dev.mem = s.dev.mem ∧
      (t.dev.bank u.core q.ctx).setreg r = v.toNat ∧
      (∀ r' ≠ r, (t.dev.bank u.core q.ctx).setreg r' = b.setreg r') ∧ (t.dev.bank u.core q.ctx).vregs = b.vregs) ∧
    (∀ c : LoopCount,
      let n := match c with
        | .fixed n => n
        | .activeSlots => s.dev.activeCount q.ctx
      let port := fun a => s.dev.lineIssue (u.core.val / 4) (s.dev.bucketOwner q.ctx) a
      ((c = .activeSlots → ∀ a, s.dev.servingBase q.ctx = some a →
          n ≤ q.slab.loopMax.getD 0 ∧ s.dev.addrOff a = false ∧ (port a).isSome = true) →
        ∃ t, exec (.loop u k c) s = .next t ∧ t.dev.mem = s.dev.mem ∧
        ((t.dev.bank u.core q.ctx).unit k).loops = (n :: (b.unit k).loops).take 4 ∧
        ((t.dev.bank u.core q.ctx).unit k).position = (b.unit k).position + 1) ∧
      (c = .activeSlots → ∀ a, s.dev.servingBase q.ctx = some a →
        (s.dev.addrOff a = true → ∃ t, exec (.loop u k c) s = .next t ∧ t.dev.mem = s.dev.mem ∧
          (t.dev.ctx q.ctx).run.bind (·.stopped) = some (St.unitOffline, 0) ∧ t.dev.bank u.core q.ctx = b) ∧
        (s.dev.addrOff a = false → port a = none → exec (.loop u k c) s = .next { s with dev := s.dev.begun }) ∧
        (s.dev.addrOff a = false → (port a).isSome = true → q.slab.loopMax.getD 0 < n → ∃ t, exec (.loop u k c) s = .next t ∧
          (t.dev.ctx q.ctx).st = .tearing ∧ (t.dev.ctx q.ctx).teardown.map (fun x => (x.status, x.detail)) = some (St.bounds, 3) ∧
          t.dev.bank u.core q.ctx = b))) ∧
    (∃ t, exec (.end_ u k) s = .next t ∧ t.dev.mem = s.dev.mem ∧ ((t.dev.bank u.core q.ctx).unit k).ended = true ∧
      ∀ f, t.dev.issue u.core k f = t.dev)

/-- For a unit that may issue: SIG, and SIGDONE of a streamer with nothing outstanding, add to the counter, or, where the sum
would pass 0xFFFF_FFFF, leave it and tear the context down with status BOUNDS; SET sets it; WAIT goes on where the counter
has reached its value and otherwise waits; TAKE subtracts where it can and otherwise waits; SIGDONE with transfers
outstanding waits for them, and the execute unit, which has no SIGDONE, does nothing at one. No operation changes another
object or a byte of memory. (R87) -/
def Obligations.SyncOperations : Prop :=
  ∀ (a : SyncAt) (s : State) (q : Seat), s.dev.mayIssue a.core a.unit q →
    let v := (s.dev.obj q a.object).toNat
    let b := s.dev.bank a.core q.ctx
    let done := fun (i : Instr) (x : Half) (w : Option WaitCond) => ∃ t, exec i s = .next t ∧ t.dev.mem = s.dev.mem ∧
      t.dev.obj q a.object = x ∧ (∀ o ≠ a.object, t.dev.obj q o = s.dev.obj q o) ∧
      ((t.dev.bank a.core q.ctx).unit a.unit).waiting = w ∧
      ((t.dev.bank a.core q.ctx).unit a.unit).position = (b.unit a.unit).position + 1
    let torn := fun i : Instr => ∃ t, exec i s = .next t ∧ t.dev.objects = s.dev.objects ∧ t.dev.mem = s.dev.mem ∧
      (t.dev.ctx q.ctx).st = .tearing ∧ (t.dev.ctx q.ctx).teardown.map (fun x => (x.status, x.detail)) = some (St.bounds, 6)
    (∀ n : BitVec 16, (v + n.toNat < 2 ^ 32 → done (.sig a n) (BitVec.ofNat 32 (v + n.toNat)) none) ∧
      (2 ^ 32 ≤ v + n.toNat → torn (.sig a n))) ∧
    (∀ x : Half, done (.set a x) x none) ∧
    (∀ x : Half, done (.wait a x) (s.dev.obj q a.object) (if x.toNat ≤ v then none else some (.atLeast a.object x))) ∧
    (∀ n : Half, done (.take a n) (if n.toNat ≤ v then s.dev.obj q a.object - n else s.dev.obj q a.object)
      (if n.toNat ≤ v then none else some (.taking a.object n))) ∧
    (a.unit = .exec → ∀ n : BitVec 16, exec (.sigdone a n) s = .next { s with dev := s.dev.begun }) ∧
    (a.unit ≠ .exec → ∀ n : BitVec 16,
      (b.outstanding a.unit = [] → v + n.toNat < 2 ^ 32 → done (.sigdone a n) (BitVec.ofNat 32 (v + n.toNat)) none) ∧
      (b.outstanding a.unit = [] → 2 ^ 32 ≤ v + n.toNat → torn (.sigdone a n)) ∧
      (b.outstanding a.unit ≠ [] → done (.sigdone a n) (s.dev.obj q a.object) (some (.done a.object n))))

/-- SYNC_WAIT_RELEASED of a unit that waits for a counter to reach a value lets it go on where the counter has reached it, and
of one that waits to take an amount, outside a walk, subtracts the amount in the same step; where the condition does not
hold nothing changes. (R85, R86, 03_schedule_contract.md) -/
def Obligations.WaitReleased : Prop :=
  ∀ (core : Fin 96) (k : UnitKind) (s : State) (q : Seat) (o : Nat) (n : Half), s.dev.live = true →
    s.dev.seat core = some q →
    let b := s.dev.bank core q.ctx
    let held := exec (.syncWaitReleased core k) s = .next { s with dev := s.dev.begun }
    ((b.unit k).waiting = some (.atLeast o n) →
      (n ≤ s.dev.obj q o → ∃ t, exec (.syncWaitReleased core k) s = .next t ∧
        ((t.dev.bank core q.ctx).unit k).waiting = none ∧ t.dev.objects = s.dev.objects ∧ t.dev.mem = s.dev.mem ∧
        ((t.dev.bank core q.ctx).unit k).position = (b.unit k).position) ∧
      (s.dev.obj q o < n → held)) ∧
    ((b.unit k).waiting = some (.taking o n) → b.walking = false →
      (n ≤ s.dev.obj q o → ∃ t, exec (.syncWaitReleased core k) s = .next t ∧
        ((t.dev.bank core q.ctx).unit k).waiting = none ∧ t.dev.obj q o = s.dev.obj q o - n ∧
        (∀ o' ≠ o, t.dev.obj q o' = s.dev.obj q o') ∧ t.dev.mem = s.dev.mem) ∧
      (s.dev.obj q o < n → held))

/-- A transfer of a multiple of 64 B up to 64 KiB, aligned at both ends, within the share and open to its access, is put in
flight with its number, ends, kind and, for a store, the encoded bytes of the Bench, no more of its lines being issued than
its streamer may still have outstanding; a load waits while 32 are in flight on the core. An ordered access of a legal size,
naturally aligned, goes out only where its streamer has nothing outstanding, and otherwise waits. One of another size or
alignment ends the run with SIZE_UNSUPPORTED and moves nothing (a plain transfer of no bytes among them, by log entry 93).
Where no log is in force no byte of memory changes at issue. (R52, R53, R54, R56, R188, 02_cores_and_engines.md) -/
def Obligations.TransfersIssue : Prop :=
  ∀ (u : CoreUse) (store : Bool) (s : State) (q : Seat),
    let k := if store then UnitKind.store else .load
    s.dev.mayIssue u.core k q → cleanUse u →
    let b := s.dev.bank u.core q.ctx
    let quiet := (s.dev.ten (s.dev.ctx q.ctx).tenancy).log = none
    let flies := fun (i : Instr) (far near n : Nat) (kind : TransferKind) (data : List Byte) => ∃ t x, exec i s = .next t ∧
      (t.dev.bank u.core q.ctx).transfers = b.transfers ++ [x] ∧ x.id = s.dev.nextId ∧ s.dev.nextId < t.dev.nextId ∧
      x.unit = k ∧ x.far = far ∧ x.near = near ∧ x.bytes = n ∧ x.kind = kind ∧ x.data = data ∧ x.done = 0 ∧
      x.sent ≤ lineLimit k - s.dev.linesOut u.core k ∧ x.sent ≤ x.lines.length ∧ (quiet → t.dev.mem = s.dev.mem)
    let sized := fun (i : Instr) (detail : Byte) => ∃ t, exec i s = .next t ∧ t.dev.mem = s.dev.mem ∧ t.dev.sent = [] ∧
      (t.dev.ctx q.ctx).run.bind (·.stopped) = some (St.sizeUnsupported, detail) ∧
      (t.dev.bank u.core q.ctx).transfers = b.transfers
    (∀ op : XferOp,
      (store = false → s.dev.loadsFull q b = true → exec (.xfer u store op) s = .next { s with dev := s.dev.begun }) ∧
      ((store = true ∨ s.dev.loadsFull q b = false) →
      (op.bytes % 64 = 0 → 0 < op.bytes → op.bytes ≤ 65536 → ∀ a, s.dev.farAddr q op.far = some a →
        (op.bench % 64 = 0 → a % 64 = 0 → s.dev.inShare q.ctx op.bench op.bytes = true →
          (∀ p, op.rowSum = some p → s.dev.inShare q.ctx p.1 (rowSumBytes p.2 op.bytes) = true) →
          s.dev.veto q op.far a (codecSize op.codec op.bytes) store true = none →
          flies (.xfer u store op) a op.bench op.bytes (.plain op.codec op.rowSum (s.dev.tensorTag q op a))
            (if store then codecEncode op.codec (s.dev.shareRead q.ctx u.core op.bench op.bytes) else [])) ∧
        (op.bench % 64 ≠ 0 ∨ a % 64 ≠ 0 → sized (.xfer u store op) 2)) ∧
      (op.bytes % 64 ≠ 0 ∨ op.bytes = 0 ∨ 65536 < op.bytes → sized (.xfer u store op) 1))) ∧
    (∀ op : OrderedOp,
      (b.outstanding k = [] → orderedSize op.bytes = false → sized (.ordered u store op) 1) ∧
      (b.outstanding k = [] → orderedSize op.bytes = true → ∀ a, s.dev.farAddr q op.far = some a →
        (a % op.bytes ≠ 0 ∨ op.bench % op.bytes ≠ 0 → sized (.ordered u store op) 2) ∧
        (a % op.bytes = 0 → op.bench % op.bytes = 0 → s.dev.inShare q.ctx op.bench op.bytes = true →
        s.dev.veto q op.far a op.bytes store false = none →
        flies (.ordered u store op) a op.bench op.bytes .ordered
          (if store then s.dev.shareRead q.ctx u.core op.bench op.bytes else []))) ∧
      (b.outstanding k ≠ [] → ∃ t, exec (.ordered u store op) s = .next t ∧ t.dev.mem = s.dev.mem ∧
        ((t.dev.bank u.core q.ctx).unit k).waiting = some (.ordered op) ∧
        (t.dev.bank u.core q.ctx).transfers = b.transfers))

/-- A WALK within its limits whose role is bound fetches nothing while the object of its free slots is 0 or 32 transfers are in
flight on the core, and waits to take 1 from the object; with the object at 1 and fewer transfers in flight, and its first
slot and row open to it, it takes the 1 and puts exactly its first row in flight into its first slot, and then waits for the
next slot where rows are left. A load transfer waits likewise while 32 are in flight. (A row of a walk is one transfer by
log entry 82.) (R55) -/
def Obligations.WalkWaitsForSlots : Prop :=
  ∀ (u : CoreUse) (op : WalkOp) (s : State) (q : Seat) (base y : Nat) (ys : List Nat), s.dev.mayIssue u.core .load q →
    cleanUse u → s.dev.roleBase q (q.roleOf op.role.val) = some base → planRows op.plan = y :: ys → walkOk op = true →
    let b := s.dev.bank u.core q.ctx
    let full := s.dev.loadsFull q b
    (full = true → ∀ x : XferOp, exec (.xfer u false x) s = .next { s with dev := s.dev.begun }) ∧
    (s.dev.obj q op.free = 0 ∨ full = true → ∃ t, exec (.walk u op) s = .next t ∧ t.dev.mem = s.dev.mem ∧ t.dev.objects = s.dev.objects ∧
      (t.dev.bank u.core q.ctx).transfers = b.transfers ∧ (t.dev.bank u.core q.ctx).load.waiting = some (.taking op.free 1) ∧
      (t.dev.bank u.core q.ctx).walk = some { op := op, base := base + op.base, next := 0 }) ∧
    (s.dev.obj q op.free = 1 → full = false → s.dev.inShare q.ctx op.lines (planRowBytes op.plan) = true →
      (∀ p, op.rowSum = some p → s.dev.inShare q.ctx p.1 (op.plan.slots * rowSumBytes p.2 (planRowBytes op.plan)) = true) →
      s.dev.vetoRole (s.dev.ctx q.ctx).tenancy (base + op.base + y * walkPitch op) (walkPitch op) false true = none →
      ∃ t x, exec (.walk u op) s = .next t ∧ (t.dev.bank u.core q.ctx).transfers = b.transfers ++ [x] ∧
        x.far = base + op.base + y * walkPitch op ∧ x.near = op.lines ∧ x.bytes = planRowBytes op.plan ∧ x.unit = .load ∧
        t.dev.obj q op.free = 0 ∧ t.dev.mem = s.dev.mem ∧
        (t.dev.bank u.core q.ctx).walk = some { op := op, base := base + op.base, next := 1 } ∧
        (t.dev.bank u.core q.ctx).load.waiting = if ys = [] then none else some (.taking op.free 1))

/-- TRANSFER_COMPLETE of all the lines of a plain transfer without codec or row sums, of which all lines have been issued and
none has completed, with clean codes and behind no peer's chunk: a load, which is no outbound read, puts the bytes of its
far end into the Bench at its near end, a store to no outbound range puts the bytes it carries at its far end, the transfer
is outstanding no longer, and every byte outside the range written reads as before. One that names more lines than are
outstanding changes nothing. (R52, R53, R54, R106, 02_cores_and_engines.md) -/
def Obligations.TransferLands : Prop :=
  ∀ (core : Fin 96) (k : UnitKind) (c : Fin 256) (id : Nat) (s : State) (x : Transfer) (tensor : Option (Nat × Nat × Nat)),
    s.dev.live = true → ((s.dev.bank core c).transfers.find? fun t => decide (t.id = id) && decide (t.unit = k)) = some x →
    x.kind = .plain .none none tensor → x.done = 0 → x.cut = false → x.sent = x.lines.length → 0 < x.lines.length →
    s.dev.twinHeld x.far = false →
    let all := Instr.transferComplete core k c id .clean x.lines.length
    (∀ n, x.lines.length < n →
      exec (.transferComplete core k c id .clean n) s = .next { s with dev := s.dev.begun }) ∧
    (k = .load → s.dev.isOutbound x.far = false → x.data = [] → x.bytes % 64 = 0 → ∃ t, exec all s = .next t ∧
      (∀ y ∈ (t.dev.bank core c).transfers, y.id ≠ id) ∧
      t.dev.shareRead c core x.near x.bytes = s.dev.rd x.far x.bytes ∧
      ∀ a, (a < s.dev.shareAddr c core x.near ∨ s.dev.shareAddr c core x.near + x.bytes ≤ a) →
        memByte t.dev.mem a = memByte s.dev.mem a) ∧
    (k = .store → (∀ off ∈ x.lines, s.dev.isOutbound (x.far + off) = false) → ∃ t, exec all s = .next t ∧
      (∀ y ∈ (t.dev.bank core c).transfers, y.id ≠ id) ∧
      t.dev.rd x.far x.data.length = x.data ∧
      ∀ a, (a < x.far ∨ x.far + x.data.length ≤ a) → memByte t.dev.mem a = memByte s.dev.mem a)

/-- A DIGEST of a store streamer opens a digest of its result with an empty CRC; one that closes the open digest of a result of
the slab gives the run the digest of the instance, and closes it. Memory and the transfers stand. (R117,
03_schedule_contract.md) -/
def Obligations.StoreDigests : Prop :=
  ∀ (u : CoreUse) (s : State) (q : Seat), s.dev.mayIssue u.core .store q → cleanUse u →
    let b := s.dev.bank u.core q.ctx
    (∀ r, ∃ t, exec (.digest u (.start r)) s = .next t ∧ t.dev.mem = s.dev.mem ∧
      (t.dev.bank u.core q.ctx).digest = some { result := r, crc := 0 } ∧
      (t.dev.bank u.core q.ctx).transfers = b.transfers) ∧
    (∀ g i, b.digest = some g → q.slab.resultAt g.result = some i →
      ∃ t, exec (.digest u .stop) s = .next t ∧ t.dev.mem = s.dev.mem ∧ (t.dev.bank u.core q.ctx).digest = none ∧
        (t.dev.ctx q.ctx).run.bind (fun r => tget r.digests (digestKey i q.replica)) = some g.crc)

/-- In RUNNING: CALENDAR_START at or after CAL_START begins frame 0 at the tick in force; MAJOR_FRAME_START begins the next
frame a frame's ticks after the last once no slice of it is in progress; SLICE_START of a slice of a context or pool begins
it with usable time; SLICE_USABLE_END, 20 ticks before its end, ends the usable time, and stops with OVERRUN a run of its
context that overran; SLICE_END ends the slice. Each changes nothing before its tick. Nothing but the calendar, and the
stopped run, changes. (R216, R217, R218, R219, R331, 07_contexts_and_calendar.md) -/
def Obligations.CalendarSlices : Prop :=
  ∀ (s : State) (i : Fin 1024), s.dev.live = true → s.dev.cfg = .running →
    let d := s.dev.begun
    let next := fun (c : Instr) (x : Calendar) => exec c s = .next { s with dev := { d with cal := x } }
    (s.dev.busy = none → s.dev.cal.started = false → s.dev.reg Reg.calStart ≤ s.dev.ns →
      exec .calendarStart s = .next { s with dev := (
        { d with cal := { started := true, frameTick := s.dev.alm.ticks, slices := [], usable := [] } }.setReg
          Reg.calFrameCount 1) }) ∧
    (s.dev.ns < s.dev.reg Reg.calStart → exec .calendarStart s = .next { s with dev := d }) ∧
    (s.dev.cal.started = true →
      (s.dev.cal.slices = [] → s.dev.frameTicks ≤ s.dev.frameOff → exec .majorFrameStart s = .next { s with dev := (
        { d with cal := { s.dev.cal with frameTick := s.dev.cal.frameTick + s.dev.frameTicks } }.setReg
          Reg.calFrameCount (s.dev.reg Reg.calFrameCount + 1)) }) ∧
      (s.dev.frameOff < s.dev.frameTicks → exec .majorFrameStart s = .next { s with dev := d }) ∧
      ∀ e, s.dev.entry i = some e → (∀ c, e.kind ≠ .holiday c) →
        (e.start ≤ s.dev.frameOff → s.dev.frameOff < e.stop → i.val ∉ s.dev.cal.slices →
          next (.sliceStart i) { s.dev.cal with
            slices := addMember s.dev.cal.slices i, usable := addMember s.dev.cal.usable i }) ∧
        (s.dev.frameOff < e.start → exec (.sliceStart i) s = .next { s with dev := d }) ∧
        (i.val ∈ s.dev.cal.slices → i.val ∈ s.dev.cal.usable →
          (∀ c, e.kind = .slice c → ∀ r, (s.dev.ctx c).run = some r → r.overrun = none) →
          (e.stop - 20 ≤ s.dev.frameOff →
            next (.sliceUsableEnd i) { s.dev.cal with usable := dropMember s.dev.cal.usable i }) ∧
          (e.stop ≤ s.dev.frameOff → next (.sliceEnd i) { s.dev.cal with
            slices := dropMember s.dev.cal.slices i, usable := dropMember s.dev.cal.usable i })) ∧
        (i.val ∈ s.dev.cal.slices → i.val ∈ s.dev.cal.usable → e.stop - 20 ≤ s.dev.frameOff →
          ∀ c r, e.kind = .slice c → (s.dev.ctx c).st = .opened → (s.dev.ctx c).run = some r → r.overrun.isSome = true →
            r.stopped = none → ∃ t, exec (.sliceUsableEnd i) s = .next t ∧ i.val ∉ t.dev.cal.usable ∧
              (t.dev.ctx c).run.map (·.stopped) = some (some (St.overrun, 0)) ∧ t.dev.mem = s.dev.mem))

/-- At the start of a holiday slot of a cluster, with self-test enabled, the sequencer takes up the cluster's next chunk. A
chunk still running at the end of the usable time is deferred and counted; the third deferral in a row sets coverage_lapse
and skips the chunk. A chunk that is done, with a result of its kind, is followed by the next of the cycle; one that failed,
every digest of a known-answer test being the image's where it passed, sets stest_fail and takes the cluster offline, and
the last of a cycle without a skip writes the time to SAF_STEST_DONEc. Memory and every calendar slice stand. (R342, R343,
R345, R346, 10_safety.md) -/
def Obligations.HolidaySlots : Prop :=
  ∀ (s : State) (i : Fin 1024) (c : Fin 24) (a b : Nat), s.dev.live = true → s.dev.cfg = .running →
    s.dev.cal.started = true → s.dev.entry i = some { kind := .holiday c, start := a, stop := b } →
    (a ≤ s.dev.frameOff → s.dev.frameOff < b - 20 → i.val ∉ s.dev.cal.usable → s.dev.stestOn = true →
      ∃ t, exec (.holidaySlotStart i) s = .next t ∧ i.val ∈ t.dev.cal.usable ∧ t.dev.cal.slices = s.dev.cal.slices ∧
        t.dev.mem = s.dev.mem ∧ (t.dev.stest c).entry = some i.val ∧
        (t.dev.stest c).running = s.dev.nextChunk c (s.dev.stest c).next) ∧
    (b - 20 ≤ s.dev.frameOff → i.val ∈ s.dev.cal.usable → ∀ k, (s.dev.stest c).running = some k →
      ∃ t, exec (.holidayUsableEnd i) s = .next t ∧ i.val ∉ t.dev.cal.usable ∧ t.dev.cal.slices = s.dev.cal.slices ∧
        t.dev.mem = s.dev.mem ∧ (t.dev.stest c).entry = none ∧ (t.dev.stest c).running = none ∧
        t.dev.fld Reg.safStestDefers 0 16 = min 0xFFFF (s.dev.fld Reg.safStestDefers 0 16 + 1) ∧
        ((s.dev.stest c).defers < 2 →
          (t.dev.stest c).next = some k ∧ (t.dev.stest c).defers = (s.dev.stest c).defers + 1) ∧
        (2 ≤ (s.dev.stest c).defers → t.dev.regBit Reg.safFaultLatch 7 = true ∧ (t.dev.stest c).defers = 0)) ∧
    (∀ (k : Nat) (x : ChunkResult), (s.dev.stest c).entry.isSome = true → (s.dev.stest c).running = some k →
      (s.dev.chunkPassed k x = none → exec (.selftestChunkDone c x) s = .next { s with dev := s.dev.begun }) ∧
      ∀ pass, s.dev.chunkPassed k x = some pass → ∃ t, exec (.selftestChunkDone c x) s = .next t ∧ t.dev.cal = s.dev.cal ∧ (pass = true → t.dev.mem = s.dev.mem) ∧
        (t.dev.stest c).defers = 0 ∧
        (pass = false → t.dev.regBit Reg.safFaultLatch 6 = true ∧ t.dev.unitOff c = true) ∧
        ((∀ j ∈ s.dev.chunksOf c, j ≤ k) → (s.dev.stest c).skipped = false → t.dev.reg (Reg.safStestDone c) = s.dev.ns) ∧
        ((s.dev.stest c).skipped = true → t.dev.reg (Reg.safStestDone c) = s.dev.reg (Reg.safStestDone c)))

/-- A RUN that is taken up names a loaded slab with role entries in order and then waits for its start; it is refused with
SLAB_INDEX where nothing is loaded and with ROLE_OFFSET where its entries are not in order or name roles of a package; one
that names a package is submitted to the Foreman. RUN_START in usable time of the context, with every condition of R105 and
tag lines it may read, waits while the port of its first cluster holds one of those lines, and otherwise starts the run (in
the order of the ring's descriptors, log entry 86): it takes the tick and the time as its start, the tags of R255 with its
own context and tenancy, the bounds of the calendar walk, the objects at their initial values, and every unit of every core
at the start of its program; other contexts, registers and banks stand. (R83, R84, R104, R105, R107, R255, R257,
03_schedule_contract.md, 08_host_interface.md) -/
def Obligations.RunsStart : Prop :=
  ∀ s : State, (∀ (t : Fin 64) (r : Fin 17) (x : QDesc) (c : Nat), s.dev.takes (.ring t r) 3 x →
      (s.dev.ring (.ring t r)).ctx = some c →
      let k := RingRef.ring t r
      let d := s.dev.begun
      let refused := fun detail : Byte => s.dev.entryOpen k → s.dev.jobOf k x = none → exec (.run t r) s = .next { s with dev := (
        d.completed k x (d.descTags k x) St.refused detail 0x02 (jobPayload (x.field 0x20 1) 0 0 (2 ^ 64 - 1) d.ns)) }
      (∀ y, tget (s.dev.ctx c).loaded (x.field 0x20 1) = some (.slab y) →
        (s.dev.rolesOk (s.dev.ctx c).tenancy y (roleEntries x) = true →
          exec (.run t r) s = .next { s with dev := d.setRing k { d.ring k with job := .running } }) ∧
        (s.dev.rolesOk (s.dev.ctx c).tenancy y (roleEntries x) = false → refused 0x43)) ∧
      (tget (s.dev.ctx c).loaded (x.field 0x20 1) = none → refused 0x42) ∧
      (∀ p, tget (s.dev.ctx c).loaded (x.field 0x20 1) = some (.package p) → (x.field 0x21 1 ≠ 0 → refused 0x43) ∧
        (x.field 0x21 1 = 0 → ∃ t', exec (.run t r) s = .next t' ∧ (t'.dev.ring k).job = .running ∧ t'.dev.mem = s.dev.mem ∧
          ∃ j, t'.dev.jobs = s.dev.jobs ++ [j] ∧ j.ctx = c ∧ j.priority = p.priority ∧ j.slab = x.field 0x20 1 ∧ j.index = x.index ∧ j.done = 0 ∧ j.started = none))) ∧
    (∀ (c : Fin 256) (x : QDesc) (rest : List QDesc) (y : Slab),
      let d := s.dev
      let k := d.ctxRing c
      let ten := (d.ctx c).tenancy
      d.live = true → d.cfg = .running → (d.ring k).queued = x :: rest → x.opcode = 3 → (d.ring k).job = .running →
      (d.ring k).ctx = some c.val → (d.ctx c).st = .opened → (d.ctx c).run = none → d.cal.started = true →
      d.ctxUsable c = true → d.ctxOffline c = false → tget (d.ctx c).loaded (x.field 0x20 1) = some (.slab y) →
      d.tagVeto ten y (roleEntries x) = none → (∀ a, d.servingBase c = some a → d.addrOff a = false) →
      let lines := d.tagAddrs ten y (roleEntries x)
      let issued := (d.linesIssue y.port (d.bucketOwner c) (lines.map (·.2))).1
      (issued < lines.length → ∀ e, exec (.runStart c e) s = .next { s with dev := d.begun }) ∧
      (lines.length ≤ issued → ∃ n r, exec (.runStart c .clean) s = .next n ∧ (n.dev.ctx c).run = some r ∧ r.slab = x.field 0x20 1 ∧ r.index = x.index ∧
        r.startTick = d.alm.ticks ∧ r.startNs = d.ns ∧ r.tags.context = BitVec.ofNat 8 c ∧
        r.tags.tenancy = BitVec.ofNat 8 ten ∧ r.tags.seqTag = 0 ∧ r.stopped = none ∧ r.delivered = [] ∧ r.sat = 0 ∧
        ((roleEntries x).any (·.2.1) = false → r.tags.timestamp = (tagsOf x.raw).timestamp) ∧
        (∀ i z, y.results[i]? = some z → tget r.bounds i =
          (walkCalendar (d.slicesOf c) d.frameTicks (d.alm.ticks - d.cal.frameTick)
            (needTicks d.floorCount z (d.ringLatency ten (d.ring k)))).map fun b => d.cal.frameTick + b) ∧
        (∀ i o, i < 65536 → y.objects[i]? = some o → tgetD n.dev.objects (objKey c false i) 0 = o.init) ∧
        (∀ core ∈ y.cores, (n.dev.bank core c).exec = .fresh ∧ (n.dev.bank core c).load = .fresh ∧
          (n.dev.bank core c).store = .fresh ∧ (n.dev.bank core c).eng0 = (d.bank core c).eng0) ∧
        (∀ c' : Fin 256, c' ≠ c → n.dev.ctx c' = d.ctx c' ∧ ∀ core, n.dev.bank core c' = d.bank core c') ∧
        n.dev.regs = d.regs ∧ n.dev.tenancies = d.tenancies ∧
        (d.servingBase c = none → n.dev.mem = d.mem) ∧
        (∀ a, d.servingBase c = some a → d.isOutbound (a + 8) = false → (d.ten ten).log = none →
          n.dev.rd (a + 8) 8 = bytesOfNat 8 (natOfBytes (d.coRead (a + 8) 8) + 1))))

/-- RESULT_DELIVERED, once every byte of the result has been written and no store of it is outstanding, every tag line has come,
the port lets the entry through and, where the result is checked, the checker has released it, writes one RESULT entry with
status OK, the tags and the bound, counts it, and makes the productions of the streams that name it; before that it writes
nothing. RUN_END, once every unit has ended, every store has landed and every result has its entry, writes the RUN_END
entry, takes the descriptor off the ring and enters the run into its context's history; the heads behind it are then
checked. (R83, R118, R260, R261, R337, R331, 08_host_interface.md) -/
def Obligations.ResultsAndRunEnd : Prop :=
  ∀ (c : Fin 256) (s : State) (r : Run) (y : Slab), s.dev.live = true → s.dev.runSlab c = some (r, y) →
    (s.dev.ctx c).st = .opened → s.dev.entryOpen (s.dev.ctxRing c) →
    let d := s.dev
    let waits := d.tagsDue c = true ∨ d.entryHeld (d.ctxRing c) = true
    let k := d.ctxRing c
    let R := d.ring k
    (∀ (id : BitVec 16) (i : Nat) (z : ResultDecl), y.resultAt id = some i → y.results[i]? = some z → r.stopped = none →
      tget r.delivered i = none →
      (let q : Seat := { core := 0, ctx := c, slab := y, run := r, replica := false, slabCore := 0 }
       (r.overrun ≠ some .budget → (z.checked = true → i ∈ r.released) → d.resultPending c q z = false →
         d.resultStored r i q z = true → ¬ waits →
         ∃ n r', exec (.resultDelivered c id) s = .next n ∧ (n.dev.ctx c).run = some r' ∧ tget r'.delivered i = some St.ok ∧
           r'.tags = r.tags ∧ r'.stopped = none ∧ (n.dev.ring k).cqTail = R.cqTail + 1 ∧
           n.dev.mem = (d.coWrite R.entryAt
             (entryBytes R r.tags.bytes St.ok 0 0x01 r.index (resultPayload r z (d.boundNs r i) d.ns))).mem ∧
           (r.tags.ingressFail = false → d.ns ≤ d.boundNs r i → ∀ w ∈ d.streamsOf c z.id,
             n.dev.reg (Reg.vglLast w) = r.tags.timestamp) ∧
           (∀ c' ≠ c.val, n.dev.ctx c' = d.ctx c')) ∧
       ((z.checked = true ∧ i ∉ r.released) ∨ d.resultPending c q z = true ∨ d.resultStored r i q z = false ∨ waits →
         exec (.resultDelivered c id) s = .next { s with dev := d.begun }))) ∧
    (d.storesPending c = true ∨ waits → exec (.runEnd c) s = .next { s with dev := d.begun }) ∧
    (d.storesPending c = false → ¬ waits → r.stopped = none → r.overrun = none → d.allEnded c y = true →
      r.delivered.length = y.results.length → (∀ i < y.results.length, (tget r.delivered i).isSome = true) →
      ∀ x rest, R.queued = x :: rest →
      ∃ (n : State) (m : Device), exec (.runEnd c) s = .next n ∧ n.dev = Device.settleHead queueMax m k ∧ (m.ctx c).run = none ∧
        (m.ctx c).history = (false :: (d.ctx c).history).take 64 ∧ (m.ctx c).st = .opened ∧
        m.ring k = { R with cqTail := R.cqTail + 1, queued := rest, job := .idle } ∧
        m.mem = (d.coWrite R.entryAt (entryBytes R r.tags.bytes St.ok 0 0x02 r.index (endPayload r d.ns))).mem ∧
        ∀ c' ≠ c.val, m.ctx c' = d.ctx c')

/-- CHECKER_COMPARE of a checked result with both digests releases it where they are equal; where they differ it waits for the
result's stores, the tag lines and the ring's port, and then withholds the result, whose entry takes CHECK_MISMATCH, counts
the disagreement of the context's partition and sets its sticky bit and the fault latch. BUDGET_OVERRUN of a core whose
beats exceed the budget, and DEADLINE_OVERRUN at a bound whose result has not been delivered, mark the run and count the
overrun; before that, and a second time, they change nothing. (R321, R322, R323, R330, R332, 10_safety.md) -/
def Obligations.CheckerAndSupervision : Prop :=
  ∀ s : State, s.dev.live = true →
    let d := s.dev.begun
    (∀ (c : Fin 256) (r : Run) (y : Slab) (id : BitVec 16) (i : Nat) (z : ResultDecl) (a b : Word),
      s.dev.runSlab c = some (r, y) → y.resultAt id = some i → y.results[i]? = some z → z.checked = true →
      r.stopped = none → tget r.digests (digestKey i false) = some a → tget r.digests (digestKey i true) = some b →
      i ∉ r.released → i ∉ r.withheld →
      let p := s.dev.ctxPart c
      let q : Seat := { core := 0, ctx := c, slab := y, run := r, replica := false, slabCore := 0 }
      let waits := s.dev.resultPending c q z = true ∨ s.dev.tagsDue c = true ∨ s.dev.entryHeld (s.dev.ctxRing c) = true
      (a ≠ b → waits → exec (.checkerCompare c id) s = .next { s with dev := d }) ∧
      (a = b → ∃ n r', exec (.checkerCompare c id) s = .next n ∧ (n.dev.ctx c).run = some r' ∧ i ∈ r'.released ∧
        r'.withheld = r.withheld ∧ n.dev.reg (Reg.chkDisagree p) = s.dev.reg (Reg.chkDisagree p)) ∧
      (a ≠ b → ¬ waits → s.dev.entryOpen (s.dev.ctxRing c) → ∃ n r', exec (.checkerCompare c id) s = .next n ∧ (n.dev.ctx c).run = some r' ∧ i ∈ r'.withheld ∧
        i ∉ r'.released ∧ tget r'.delivered i = some St.checkMismatch ∧ n.dev.regBit Reg.safFaultLatch 4 = true ∧
        n.dev.regBit Reg.chkSticky p = true ∧
        n.dev.fld (Reg.chkDisagree p) 0 16 = min 0xFFFF (s.dev.fld (Reg.chkDisagree p) 0 16 + 1) ∧
        n.dev.reg (Reg.chkLastFrame p) = wordOf r.tags.frameCounter)) ∧
    (∀ (core : Fin 96) (q : Seat), s.dev.seat core = some q →
      (q.run.overrun ≠ some .budget → q.slab.budget < tgetD q.run.beats core 0 →
        exec (.budgetOverrun core) s = .next { s with dev := (
          (d.setCtx q.ctx { d.ctx q.ctx with run := some { q.run with overrun := some .budget } }).addCount
            Reg.safSupOverruns 16 16 1) }) ∧
      (q.run.overrun = some .budget ∨ tgetD q.run.beats core 0 ≤ q.slab.budget →
        exec (.budgetOverrun core) s = .next { s with dev := d })) ∧
    (∀ (c : Fin 256) (r : Run) (y : Slab) (id : BitVec 16) (i b : Nat), s.dev.runSlab c = some (r, y) →
      y.resultAt id = some i → tget r.bounds i = some b →
      (b ≤ s.dev.alm.ticks → tget r.delivered i = none → i ∉ r.deadlines → r.stopped = none →
        exec (.deadlineOverrun c id) s = .next { s with dev := (
          (d.setCtx c { d.ctx c with run := some { r with
            deadlines := addMember r.deadlines i, overrun := some (r.overrun.getD .deadline) } }).addCount
            Reg.safSupOverruns 0 16 1) }) ∧
      (s.dev.alm.ticks < b ∨ (tget r.delivered i).isSome = true ∨ i ∈ r.deadlines →
        exec (.deadlineOverrun c id) s = .next { s with dev := d }))

/-- TEARDOWN_DRAINED, once no transfer of the context is outstanding and the port lets its ring's entries through, completes
every queued descriptor, stops the ring, drops the context's reads, pool pages and jobs, and marks the teardown drained;
before that it changes nothing. TEARDOWN_SCRUB_DONE changes nothing while a write of the scrub or, for a CLOSE, the
administrative entry is held at its port; else it leaves zero in every byte of the context's share on each of its cores and
of each writable DDR or Quarry window it was bound to (where no unit is offline), its banks cleared and the context CLOSED,
with every other byte, every other context and every other bank as they were; a teardown that is no CLOSE then raises source
66 and queues its notice. (R223, R224, R225, 07_contexts_and_calendar.md) -/
def Obligations.TeardownOfOneContext : Prop :=
  ∀ (c : Fin 256) (s : State) (x : Teardown), s.dev.live = true → (s.dev.ctx c).teardown = some x →
    (s.dev.ctx c).st = .tearing →
    let d := s.dev
    let k := d.ctxRing c
    (x.drained = false →
      (d.transfersPending c = true ∨ d.entryHeld k = true → exec (.teardownDrained c) s = .next { s with dev := d.begun }) ∧
      (d.transfersPending c = false → d.entryHeld k = false → (d.ring k).queued.length ≤ queueMax → ∃ n, exec (.teardownDrained c) s = .next n ∧
        (n.dev.ctx c).teardown = some { x with drained := true } ∧ (n.dev.ctx c).st = .tearing ∧
        (n.dev.ring k).queued = [] ∧ (n.dev.ring k).state = .stopped ∧ (n.dev.ring k).cause = 0 ∧
        (∀ o ∈ n.dev.outbound, o.owner ≠ .copy k ∧ o.owner ≠ .image k ∧ o.owner ≠ .fetch k ∧ o.owner ≠ .restore k ∧
          ∀ e, o.owner ≠ .tag c e) ∧
        (∀ j ∈ n.dev.jobs, j.ctx ≠ c) ∧ (∀ e ∈ n.dev.pools, ∀ p ∈ e.2, p.ctx ≠ c) ∧
        (∀ c' ≠ c.val, n.dev.ctx c' = d.ctx c') ∧ n.dev.banks = d.banks ∧ n.dev.objects = d.objects)) ∧
    (x.drained = true → d.scrubHeld c = true ∨ (x.close = true ∧ d.entryHeld .admin = true) →
      exec (.teardownScrubDone c) s = .next { s with dev := d.begun }) ∧
    (x.drained = true → d.scrubHeld c = false → (x.close = true → d.entryHeld .admin = false) → (d.ten (d.ctx c).tenancy).log = none →
      let note : Notice :=
        { kind := 0x01, context := BitVec.ofNat 8 c, tenancy := BitVec.ofNat 8 (d.ctx c).tenancy
          ring := BitVec.ofNat 8 (d.ctx c).ring, sqHead := (d.ring k).sqHead, time := d.ns, core := x.core, cause := 0
          status := x.status, detail := x.detail }
      ∃ (n : State) (m : Device), exec (.teardownScrubDone c) s = .next n ∧ (x.close = false → n.dev = (m.raise 66).notice note) ∧
      (x.close = true → d.admin.job ≠ .closing c → n.dev = m) ∧
      m.ctx c = { Ctx.closed with history := (d.ctx c).history } ∧ (m.ring k).ctx = none ∧ m.regs = d.regs ∧
      (∀ core ∈ d.ctxCores c, m.bank core c = Bank.empty ∧
        ∀ off < d.shareBytes c, memByte m.mem (d.shareAddr c core off) = 0) ∧
      (∀ w ∈ d.boundWindows c, ∀ y, tget (d.ten (d.ctx c).tenancy).windows w = some y → y.write = true →
        d.inMemory y.base 1 = true → ∀ a, y.base ≤ a → a ≤ y.limit → d.addrOff a = false → memByte m.mem a = 0) ∧
      (∀ a, (∀ core ∈ d.ctxCores c, a < d.shareAddr c core 0 ∨ d.shareAddr c core 0 + d.shareBytes c ≤ a) →
        (∀ w ∈ d.boundWindows c, ∀ y, tget (d.ten (d.ctx c).tenancy).windows w = some y → a < y.base ∨ y.limit < a) →
        memByte m.mem a = memByte d.mem a) ∧
      ∀ c' : Fin 256, c' ≠ c → m.ctx c' = d.ctx c' ∧ ∀ core, m.bank core c' = d.bank core c')

/-- A write that reaches a running ring is taken where the count it gives is no further from the other end than the ring is
long, modulo 2³²; one that fails its check is not taken and stops the ring, with cause TAIL or CQ_HEAD on a ring of a
tenancy. A write that reaches no running ring changes only the count of ignored writes and its sticky bit. (R247) -/
def Obligations.DoorbellWrites : Prop :=
  ∀ (who : Who) (k : RingRef) (v : Half) (s : State), s.dev.live = true → s.dev.present who = true →
    let d := s.dev.begun.reply .written
    let r := s.dev.ring k
    (s.dev.doorbellOpen who k = true →
      ((v - r.sqHead).toNat ≤ 2 ^ r.n →
        exec (.sqTailWrite who k v) s = .next { s with dev := d.setRing k { r with sqTail := v } }) ∧
      ((r.cqTail - v).toNat ≤ 2 ^ r.n → (∃ t j, k = .ring t j) →
        exec (.cqHeadWrite who k v) s = .next { s with dev := d.setRing k { r with cqHead := v } }) ∧
      ((r.cqTail - v).toNat ≤ 2 ^ r.n → k = .admin → ∃ t, exec (.cqHeadWrite who k v) s = .next t ∧ t.dev.admin.cqHead = v ∧
        t.dev.answer = .written) ∧
      ((r.cqTail - v).toNat ≤ 2 ^ r.n → k = .admin → s.dev.notices = [] →
        exec (.cqHeadWrite who k v) s = .next { s with dev := d.setRing k { r with cqHead := v } }) ∧
      (2 ^ r.n < (v - r.sqHead).toNat → ∃ t, exec (.sqTailWrite who k v) s = .next t ∧
        (t.dev.ring k).state = .stopped ∧ (t.dev.ring k).sqTail = r.sqTail ∧
        (k ≠ .admin → (t.dev.ring k).cause = 0x01 ∧ t.dev.regBit Reg.hifSticky 0 = true)) ∧
      (2 ^ r.n < (r.cqTail - v).toNat → ∃ t, exec (.cqHeadWrite who k v) s = .next t ∧
        (t.dev.ring k).state = .stopped ∧ (t.dev.ring k).cqHead = r.cqHead ∧
        (k ≠ .admin → (t.dev.ring k).cause = 0x02 ∧ t.dev.regBit Reg.hifSticky 0 = true))) ∧
    (s.dev.doorbellOpen who k = false → ∀ i ∈ [Instr.sqTailWrite who k v, Instr.cqHeadWrite who k v],
      exec i s = .next { s with dev := (d.addCount Reg.hifDbDropped 0 32 1).orReg Reg.hifSticky 4 })

/-- DESCRIPTOR_FETCH of a ring that waits on the copy engine and has its turn, whose next descriptor lies in memory that the
ring may read: one that carries its own count is queued with its entries reserved, where the completion ring has that many
free, and is left where it has not; one that carries another count stops the ring with cause COUNT, and an uncorrectable
word stops it with cause ACCESS. Out of its turn, or where it does not wait on the engine, a ring fetches nothing. A NOP
that is taken up writes one DONE entry with status OK and is off its ring. (R70, R251, R252, R253, R256, R259, R260,
08_host_interface.md) -/
def Obligations.DescriptorFetches : Prop :=
  ∀ (k : RingRef) (s : State), s.dev.live = true →
    let d := s.dev.begun
    let r := s.dev.ring k
    (s.dev.wantsFetch k = false ∨ d.engineTurn k = none → ∀ e, exec (.descriptorFetch k e) s = .next { s with dev := d }) ∧
    (∀ g, s.dev.wantsFetch k = true → d.engineTurn k = some g → s.dev.inMemory r.fetchAt 64 = true →
      s.dev.ringAddrOk k r.fetchAt 64 true false = true → s.dev.addrOff r.fetchAt = false →
      let m := g.charge 28 r.fetchAt 64 false
      let raw := s.dev.coRead r.fetchAt 64
      let x : QDesc := { index := r.sqHead, raw := raw, reserved := 1 }
      let stopped := fun (e : Ecc) (cause : Byte) => ∃ t, exec (.descriptorFetch k e) s = .next t ∧
        (t.dev.ring k).state = .stopped ∧ (t.dev.ring k).sqHead = r.sqHead ∧ (t.dev.ring k).queued = r.queued ∧
        (k ≠ .admin → (t.dev.ring k).cause = cause)
      (∀ i, stopped (.uncorrectable i) 0x04) ∧
      (fieldAt raw 0x1C 4 ≠ r.sqHead.toNat → stopped .clean 0x03) ∧
      (fieldAt raw 0x1C 4 = r.sqHead.toNat → ∀ n, s.dev.entriesFor k x = some n →
        (n ≤ r.free → exec (.descriptorFetch k .clean) s = .next { s with dev := (
          Device.settleHead queueMax (m.setRing k { r with
            sqHead := r.sqHead + 1, queued := r.queued ++ [{ x with reserved := n }] }) k) }) ∧
        (r.free < n → exec (.descriptorFetch k .clean) s = .next { s with dev := m }))) ∧
    (∀ y, s.dev.takes k 0 y → s.dev.entryOpen k →
      exec (.nop k) s = .next { s with dev := d.doneWith k y St.ok 0 0 })

/-- A COPY that is taken up: a shape the device does not perform completes with SIZE_UNSUPPORTED, ranges that its ring may not
read or write complete with BOUNDS, and any other copy is issued and changes nothing else. COPY_COMPLETE changes nothing out
of the ring's turn of the copy engine, or while the next line waits at port 28. In its turn, with the lines of its chunk in
memory, open to it and in a class that port 28 lets through at once, it moves the rest of the chunk: the destination holds
the bytes that the source held, coherently with the host caches, every other byte is as it was but for a line that a host
cache writes back, and the descriptor completes with all its bytes moved or waits for its next turn. Where a word is
uncorrectable, the lines before its own are moved and counted, and the descriptor completes with ECC_UNCORR. (R70, R256,
R258, R259, R288, 08_host_interface.md) -/
def Obligations.Copies : Prop :=
  ∀ (t : Fin 64) (j : Fin 17) (s : State),
    let k := RingRef.ring t j
    let d := s.dev.begun
    s.dev.entryOpen k →
    (∀ x, s.dev.takes k 6 x →
      let src := x.field 0x20 8
      let dst := x.field 0x28 8
      let len := x.field 0x30 4
      let ordered := s.dev.sideEffectAt t src || s.dev.sideEffectAt t dst
      (∀ v, copyShape src dst len ordered = some v →
        exec (.copy k) s = .next { s with dev := d.doneWith k x St.sizeUnsupported v 0 }) ∧
      (copyShape src dst len ordered = none →
        (s.dev.ringAddrOk k src len true false = false →
          exec (.copy k) s = .next { s with dev := d.doneWith k x St.bounds (s.dev.boundsDetail src) 0 }) ∧
        (s.dev.ringAddrOk k src len true false = true → s.dev.ringAddrOk k dst len false true = false →
          exec (.copy k) s = .next { s with dev := d.doneWith k x St.bounds (s.dev.boundsDetail dst) 0 }) ∧
        (s.dev.ringAddrOk k src len true false = true → s.dev.ringAddrOk k dst len false true = true →
          exec (.copy k) s = .next { s with dev := d.setRing k { d.ring k with
            job := .copying src dst len ordered 0 [] } }))) ∧
    (s.dev.live = true → s.dev.wantsCopy k = false ∨ d.engineTurn k = none →
      ∀ e, exec (.copyComplete k e) s = .next { s with dev := d }) ∧
    (∀ x rest src dst len ordered m g, s.dev.live = true → (s.dev.ring k).queued = x :: rest →
      (s.dev.ring k).job = .copying src dst len ordered m [] → copyShape src dst len ordered = none → m % 64 = 0 → m < len →
      s.dev.wantsCopy k = true → d.engineTurn k = some g → s.dev.isOutbound src = false →
      let n := min len (65536 * (m / 65536 + 1)) - m
      (∀ o < n, o % 64 = 0 → s.dev.openLine (src + m + o) ∧ s.dev.openLine (dst + m + o) ∧
        s.dev.descVeto k (src + m + o) (min 64 (n - o)) true false = none ∧
        s.dev.descVeto k (dst + m + o) (min 64 (n - o)) false true = none) →
      let moved := fun (y : Device) (b : Nat) => y.ring k = s.dev.ring k ∧ y.ctxs = s.dev.ctxs ∧
        y.rd (dst + m) b = s.dev.coRead (src + m) b ∧
        ∀ a, (a < dst + m ∨ dst + m + b ≤ a) → memByte y.mem a = memByte (s.dev.dropLines (dst + m) b).mem a
      (∃ (y : Device) (z : State), exec (.copyComplete k .clean) s = .next z ∧ moved y n ∧ y.regs = s.dev.regs ∧
        z.dev = if m + n = len then y.doneWith k x St.ok 0 len
          else y.setRing k { s.dev.ring k with job := .copying src dst len ordered (m + n) [] }) ∧
      ∀ i < n, let b := 64 * (i / 64)
        ∃ (y : Device) (z : State), exec (.copyComplete k (.uncorrectable i)) s = .next z ∧ moved y b ∧
          z.dev = y.doneWith k x St.eccUncorr (s.dev.eccDetail (src + m + b)) (m + b))

/-- A LOAD that is taken up waits while an admission or a change of operating point is in progress or it is not its ring's turn.
In its turn, with its report and its whole image in memory that its ring may use: where a check of R98 fails, or its results
need more entries than the ring has, the report with that reason is written, the descriptor is refused with that detail, and
nothing else of memory changes; where all pass the admission goes on, or completes with BOUNDS where its whole report does
not fit; an uncorrectable word of the image completes it with ECC_UNCORR. ADMISSION_COMPLETE, once the port lets the entry
through, puts the load at its index, writes its copies and then its report, and completes with the index as value; a copy
that cannot be made completes it with what stands in the way, nothing done. UNLOAD of an index that holds a load releases
it, and of an empty one is refused with SLAB_INDEX. (R70, R97, R98, R99, R102, R256, R313, 03_schedule_contract.md,
08_host_interface.md) -/
def Obligations.LoadsAndUnloads : Prop :=
  ∀ (t : Fin 64) (j : Fin 17) (c : Nat) (s : State),
    let k := RingRef.ring t j
    let d := s.dev.begun
    let r := s.dev.ring k
    s.dev.entryOpen k → r.ctx = some c →
    (∀ x, s.dev.takes k 1 x →
      (s.dev.admissionBusy = true ∨ s.dev.gov.takeUp.isSome = true ∨ d.admissionTurn k = none →
        ∀ e, exec (.load t j e) s = .next { s with dev := d }) ∧
      ∀ g, s.dev.admissionBusy = false → s.dev.gov.takeUp = none → d.admissionTurn k = some g →
      let a := x.field 0x20 8
      let report := x.field 0x28 8
      let n := imageLength (s.dev.rd a 256)
      s.dev.descVeto k report 32 false true = none → s.dev.inMemory report 32 = true →
      s.dev.descVeto k a 256 true false = none → s.dev.descVeto k a n true false = none → s.dev.inMemory a n = true →
      let e := g.charge 28 a n false
      let img := s.dev.rd a n
      let refused := fun reason : Byte => ∃ (m : Device) (z : State), exec (.load t j .clean) s = .next z ∧
        m.mem = memWrite s.dev.mem report (e.refusalReport img reason) ∧ m.ring k = r ∧ m.ctxs = s.dev.ctxs ∧
        m.regs = s.dev.regs ∧ z.dev = m.doneWith k x St.refused reason 0
      let checked := e.admitted c t a (slice x.raw 0x30 16) img r
      (∀ i < n, ∃ (m : Device) (z : State), exec (.load t j (.uncorrectable i)) s = .next z ∧ m.mem = s.dev.mem ∧
        m.ring k = r ∧ m.ctxs = s.dev.ctxs ∧ z.dev = m.doneWith k x St.eccUncorr (s.dev.eccDetail (a + i)) 0) ∧
      (∀ reason, checked = .inl reason → refused reason) ∧
      (∀ l, checked = .inr l →
        let tail := e.reportTail c t r l
        (2 ^ r.n < (loadedResults l).length + 1 → refused 0x44) ∧
        ((loadedResults l).length + 1 ≤ 2 ^ r.n →
          (s.dev.allowed t report (32 + tail.length) false true = false →
            exec (.load t j .clean) s = .next { s with dev := e.doneWith k x St.bounds 0x01 0 }) ∧
          (s.dev.allowed t report (32 + tail.length) false true = true →
            exec (.load t j .clean) s = .next { s with dev := e.setRing k { r with job := (
              .admitting (e.freeSlot c) l report (e.copiesOf c t img l) tail) } })))) ∧
    (∀ x rest slot l report writes tail, s.dev.live = true → r.queued = x :: rest →
      r.job = .admitting slot l report writes tail →
      (s.dev.headHeld k = true ∨ s.dev.entryHeld k = true →
        exec (.admissionComplete t j) s = .next { s with dev := d }) ∧
      (s.dev.headHeld k = false → s.dev.entryHeld k = false →
        (∀ a v, s.dev.copyVeto writes = some (a, v) →
          exec (.admissionComplete t j) s = .next { s with dev := (d.noteLink a v).doneWith k x v.1 v.2 0 }) ∧
        (s.dev.copyVeto writes = none → s.dev.isOutbound report = false → (∀ w ∈ writes, s.dev.isOutbound w.1 = false) →
          ∃ (m : Device) (z : State), exec (.admissionComplete t j) s = .next z ∧ z.dev = m.doneWith k x St.ok 0 slot ∧
            m.mem = memWrite (writes.foldl (fun m w => memWrite m w.1 w.2) s.dev.mem) report (d.admittedReport l tail) ∧
            m.ctx c = { s.dev.ctx c with loaded := tput (s.dev.ctx c).loaded slot l } ∧ m.ring k = r ∧
            m.regs = s.dev.regs ∧ ∀ c' ≠ c, m.ctx c' = s.dev.ctx c'))) ∧
    (∀ x, s.dev.takes k 2 x →
      (tget (s.dev.ctx c).loaded (x.field 0x20 1) = none →
        exec (.unload t j) s = .next { s with dev := d.doneWith k x St.refused 0x42 0 }) ∧
      ((tget (s.dev.ctx c).loaded (x.field 0x20 1)).isSome = true → ∃ (m : Device) (n : State), exec (.unload t j) s = .next n ∧
        n.dev = m.doneWith k x St.ok 0 0 ∧ m.mem = s.dev.mem ∧ m.ring k = r ∧ m.objects = s.dev.objects ∧
        m.ctx c = { s.dev.ctx c with loaded := tdel (s.dev.ctx c).loaded (x.field 0x20 1) } ∧
        ∀ c' ≠ c, m.ctx c' = s.dev.ctx c'))

/-- On a serving context whose table lies in memory with no unit of it offline, and whose port lets the table through: a JOIN
with a slot free takes the lowest, marks it in use with the request and the tag of its descriptor and the step at which it
joined, adds it to the active list in rising order, and completes with its number; a LEAVE of a slot in use frees it and
takes it off the list. No byte outside the table changes, as an access coherent with the host caches reads it, but for the
completion entry. A JOIN with no slot free and a LEAVE of a slot that is not in use are refused and change no byte of the
table. Without a table they are refused with NO_SERVING, and while port 28 holds the table they wait. (R227, R228, R229,
R230, R313, 07_contexts_and_calendar.md) -/
def Obligations.ServingSlots : Prop :=
  ∀ (t : Fin 64) (j : Fin 17) (c : Nat) (s : State),
    let k := RingRef.ring t j
    let d := s.dev.begun
    let slots := s.dev.ctxSlots c
    s.dev.entryOpen k → (s.dev.ring k).ctx = some c →
    (∀ x op i, s.dev.takes k op x → (op = 4 ∧ i = Instr.join t j .clean) ∨ (op = 5 ∧ i = Instr.leave t j .clean) →
      (s.dev.ctxServing c = false ∨ s.dev.servingBase c = none →
        exec i s = .next { s with dev := d.doneWith k x St.refused 0x32 0 }) ∧
      (∀ a, s.dev.ctxServing c = true → s.dev.servingBase c = some a →
        (s.dev.rangeOff a (0x240 + 32 * slots) = true →
          exec i s = .next { s with dev := d.doneWith k x St.unitOffline 0 0 }) ∧
        (s.dev.rangeOff a (0x240 + 32 * slots) = false → s.dev.portHolds 28 a = true →
          exec i s = .next { s with dev := d }))) ∧
    (∀ a, s.dev.ctxServing c = true → s.dev.servingBase c = some a → s.dev.rangeOff a (0x240 + 32 * slots) = false →
      s.dev.portHolds 28 a = false → (∀ b, a ≤ b → b < a + 0x240 + 32 * slots → s.dev.isOutbound b = false) →
      let refused := fun (i : Instr) (x : QDesc) (detail : Byte) => ∃ (m : Device) (n : State), exec i s = .next n ∧
        n.dev = m.doneWith k x St.refused detail 0 ∧ m.mem = s.dev.mem ∧ m.ctxs = s.dev.ctxs ∧ m.ring k = s.dev.ring k ∧
        m.regs = s.dev.regs
      let changed := fun (i : Instr) (x : QDesc) (value slot : Nat) (l : List Nat) (rest : Device → Prop) =>
        ∃ (m : Device) (n : State), exec i s = .next n ∧ n.dev = m.doneWith k x St.ok 0 value ∧ m.activeSlots a = l ∧
          m.regs = s.dev.regs ∧ m.ctxs = s.dev.ctxs ∧ m.ring k = s.dev.ring k ∧
          (∀ n < slots, n ≠ slot → m.slotState a n = s.dev.slotState a n) ∧
          (∀ b, b < a ∨ a + 0x240 + 32 * slots ≤ b → m.coRead b 1 = s.dev.coRead b 1) ∧ rest m
      (∀ x, s.dev.takes k 4 x →
        (∀ i < slots, s.dev.slotState a i = 0 → (∀ n < i, s.dev.slotState a n ≠ 0) → (s.dev.activeSlots a).length < slots →
          changed (.join t j .clean) x i i (addMember (s.dev.activeSlots a) i) fun m => m.slotState a i = 1 ∧
            m.rd (a + 0x240 + 32 * i + 8) 16 = slice x.raw 0x20 16 ∧ m.rd (a + 0x240 + 32 * i + 4) 4 = slice x.raw 0x30 4 ∧
            m.rd (a + 0x240 + 32 * i + 0x18) 8 = s.dev.coRead (a + 8) 8) ∧
        ((∀ n < slots, s.dev.slotState a n ≠ 0) ∨ slots ≤ (s.dev.activeSlots a).length →
          refused (.join t j .clean) x 0x30)) ∧
      (∀ x, s.dev.takes k 5 x →
        let i := x.field 0x20 2
        (i < slots → s.dev.slotState a i ≠ 0 →
          changed (.leave t j .clean) x 0 i (dropMember (s.dev.activeSlots a) i) fun m => m.slotState a i = 0) ∧
        (slots ≤ i ∨ s.dev.slotState a i = 0 → refused (.leave t j .clean) x 0x31)))

/-- HIF_ADMIN_CTRL written with enable 1 while the ring is disabled takes the settings and, where they are in order, starts the
ring with every count 0; with enable 0 it disables a running ring, whose counts read as they stand. TENANCY_ON, TENANCY_OFF,
SET_WINDOW, CLEAR_WINDOW, SET_RING and RESTART_RING, taken up where their conditions hold, change their own tenancy, window
or ring as they say and complete with status OK; where the tenancy is in the wrong state, or the window is in use or cannot
be placed, they are refused with the detail that names it and change nothing but the ring. (R240, R242, R244, R250, R253,
R265, R266, R280, 08_host_interface.md) -/
def Obligations.AdminTenancies : Prop :=
  ∀ s : State,
    let d := s.dev.begun
    (∀ (who : Who) (v : Half), s.dev.live = true → s.dev.present who = true →
      (s.dev.regBit Reg.hifAdminCtrl 0 = false → v.getLsbD 0 = true → s.dev.notices = [] →
        (s.dev.adminSettingsOk v = true → exec (.adminRingEnable who v) s = .next { s with dev := (
          { (d.reply .written).setReg Reg.hifAdminCtrl ((wordOf v &&& 0xF30) ||| 1) with admin := { Ring.unset with
              n := bitsAt (wordOf v) 8 4, sqBase := (s.dev.reg Reg.hifAdminSqBase).toNat
              cqBase := (s.dev.reg Reg.hifAdminCqBase).toNat, state := .running } }) }) ∧
        (s.dev.adminSettingsOk v = false → exec (.adminRingEnable who v) s = .next { s with dev := (
          (d.reply .written).setReg Reg.hifAdminCtrl (wordOf v &&& 0xF30)) })) ∧
      (s.dev.regBit Reg.hifAdminCtrl 0 = true → v.getLsbD 0 = false → ∃ t, exec (.adminRingDisable who v) s = .next t ∧
        t.dev.admin = { Ring.unset with
            n := s.dev.admin.n, sqBase := s.dev.admin.sqBase, cqBase := s.dev.admin.cqBase, sqTail := s.dev.admin.sqTail
            sqHead := s.dev.admin.sqHead, cqHead := s.dev.admin.cqHead, cqTail := s.dev.admin.cqTail } ∧ t.dev.regBit Reg.hifAdminCtrl 0 = false ∧ t.dev.mem = s.dev.mem ∧
        t.dev.tenancies = s.dev.tenancies ∧ t.dev.notices = s.dev.notices ∧ ∀ a ≠ Reg.hifAdminCtrl, t.dev.reg a = s.dev.reg a)) ∧
    (s.dev.entryOpen .admin → ∀ x : QDesc,
      let t := x.field 0x20 1
      let i := x.field 0x21 1
      let T := s.dev.ten t
      let k := ringRefOf t i
      let done := fun (c : Instr) (e : Device) => exec c s = .next { s with dev := e.doneWith .admin x St.ok 0 0 }
      let refused := fun (c : Instr) (v : Byte) => exec c s = .next { s with dev := d.doneWith .admin x St.refused v 0 }
      (s.dev.takes .admin 0x81 x →
        (T.on = false → done .tenancyOn (d.setTen t { Tenancy.off with
          on := true, target := BitVec.ofNat 2 i, vector := if i = 0 then 0 else BitVec.ofNat 5 (x.field 0x22 1) })) ∧
        (T.on = true → refused .tenancyOn 0x47)) ∧
      (s.dev.takes .admin 0x82 x →
        (T.on = true → s.dev.ctxsOf t = [] → T.log = none → T.queued = false → done .tenancyOff (d.setTen t Tenancy.off)) ∧
        (T.on = false ∨ s.dev.ctxsOf t ≠ [] ∨ T.log.isSome = true ∨ T.queued = true → refused .tenancyOff 0x47)) ∧
      (s.dev.takes .admin 0x83 x → T.admitting = false →
        (T.on = true → s.dev.windowInUse t i = false → s.dev.windowAllowed t i (windowOf x) = true →
          done .setWindow (d.setTen t { T with windows := tput T.windows i (windowOf x) })) ∧
        (T.on = false → refused .setWindow 0x47) ∧
        (T.on = true → s.dev.windowInUse t i = true → refused .setWindow 0x46) ∧
        (T.on = true → s.dev.windowInUse t i = false → s.dev.windowAllowed t i (windowOf x) = false →
          refused .setWindow 0x45)) ∧
      (s.dev.takes .admin 0x84 x → T.admitting = false →
        (T.on = true → s.dev.windowInUse t i = false →
          done .clearWindow (d.setTen t { T with windows := tdel T.windows i })) ∧
        (T.on = true → s.dev.windowInUse t i = true → refused .clearWindow 0x46)) ∧
      (s.dev.takes .admin 0x85 x → T.on = true → s.dev.ringBound k = false → (s.dev.ring k).queued = [] →
        (s.dev.ringPlaced t (x.field 0x22 1) (x.field 0x28 8) (x.field 0x30 8) = true →
          ∃ (m : Device) (n : State), exec .setRing s = .next n ∧ n.dev = m.doneWith .admin x St.ok 0 0 ∧ m.mem = s.dev.mem ∧
            m.regs = s.dev.regs ∧ (∀ k' ≠ k, m.ring k' = s.dev.ring k') ∧
            m.ring k = { Ring.unset with n := x.field 0x22 1, sqBase := x.field 0x28 8, cqBase := x.field 0x30 8
                                         state := if i = 0 then .running else .stopped }) ∧
        (s.dev.ringPlaced t (x.field 0x22 1) (x.field 0x28 8) (x.field 0x30 8) = false → refused .setRing 0x45)) ∧
      (s.dev.takes .admin 0x86 x →
        (T.on = true → (s.dev.ring k).state = .stopped → (s.dev.ring k).cause ≠ 0 →
          ∃ (m : Device) (n : State), exec .restartRing s = .next n ∧ n.dev = m.doneWith .admin x St.ok 0 0 ∧
            m.mem = s.dev.mem ∧ m.regs = s.dev.regs ∧ (∀ k' ≠ k, m.ring k' = s.dev.ring k') ∧
            m.ring k = { s.dev.ring k with state := .running, sqHead := (s.dev.ring k).sqTail }) ∧
        (T.on = false ∨ (s.dev.ring k).state ≠ .stopped ∨ (s.dev.ring k).cause = 0 → refused .restartRing 0x47)))

/-- OPEN of a valid CLOSED context to a free ring of a tenancy that is on binds it, starts the ring from its last accepted tail,
and, for a serving context, writes an empty serving table, which an offline unit turns away with UNIT_OFFLINE and a held
line of port 28 delays; CLOSE of an OPEN context stops its run with ABORTED and begins its teardown; FREEZE freezes a
tenancy and drops its fetches in flight, and completes once nothing of it is queued and none of its contexts is being torn
down; THAW lets it run again. Each is refused with STATE where its condition fails, and changes no other context, ring or
byte. (R210, R267, R269, 08_host_interface.md) -/
def Obligations.AdminContexts : Prop :=
  ∀ (s : State) (x : QDesc),
    let d := s.dev.begun
    let refused := fun (c : Instr) => exec c s = .next { s with dev := d.doneWith .admin x St.refused 0x47 0 }
    s.dev.entryOpen .admin →
    (s.dev.takes .admin 0x87 x →
      let c := x.field 0x20 1
      let t := x.field 0x21 1
      let r := x.field 0x22 1
      let w := x.field 0x23 1
      let k := ringRefOf t r
      (s.dev.openOk c t r w = false → refused .open_) ∧
      (s.dev.openOk c t r w = true →
        let opened := fun mem : List Host.Cell => ∃ (m : Device) (n : State), exec .open_ s = .next n ∧
          n.dev = m.doneWith .admin x St.ok 0 0 ∧ m.mem = mem ∧
          m.ctx c = { Ctx.closed with st := .opened, tenancy := t, ring := r, history := (s.dev.ctx c).history
                                      servingWindow := if s.dev.ctxServing c then some w else none } ∧
          (∀ c' ≠ c, m.ctx c' = s.dev.ctx c') ∧ (∀ k' ≠ k, m.ring k' = s.dev.ring k') ∧ m.regs = s.dev.regs ∧
          m.ring k = { s.dev.ring k with ctx := some c, state := .running, sqHead := (s.dev.ring k).sqTail }
        (s.dev.ctxServing c = false → opened s.dev.mem) ∧
        (s.dev.ctxServing c = true → ∀ y, tget (s.dev.ten t).windows w = some y →
          let table := emptyTable (s.dev.ctxSlots c)
          let off := s.dev.rangeOff y.base table.length
          (off = true → exec .open_ s = .next { s with dev := d.doneWith .admin x St.unitOffline 0 0 }) ∧
          (off = false → s.dev.portHolds 28 y.base = true → exec .open_ s = .next { s with dev := d }) ∧
          (off = false → s.dev.portHolds 28 y.base = false → (s.dev.ten t).log = none →
            opened (s.dev.coWrite y.base table).mem)))) ∧
    (s.dev.takes .admin 0x88 x →
      let c := x.field 0x20 1
      ((s.dev.ctx c).st ≠ .opened → refused .close) ∧
      ((s.dev.ctx c).st = .opened → ∃ n, exec .close s = .next n ∧ n.dev.admin = { s.dev.admin with job := .closing c } ∧
        (n.dev.ctx c).st = .tearing ∧ (n.dev.ctx c).loaded = (s.dev.ctx c).loaded ∧
        (n.dev.ctx c).teardown.map (fun y => (y.status, y.detail, y.close, y.drained)) = some (St.aborted, 1, true, false) ∧
        (∀ r, (s.dev.ctx c).run = some r → r.stopped = none →
          (n.dev.ctx c).run.map (·.stopped) = some (some (St.aborted, 1))) ∧
        (∀ c' ≠ c, n.dev.ctx c' = s.dev.ctx c') ∧ n.dev.mem = s.dev.mem ∧ n.dev.regs = s.dev.regs ∧
        n.dev.tenancies = s.dev.tenancies)) ∧
    (s.dev.takes .admin 0x89 x →
      let t := x.field 0x20 1
      ((s.dev.ten t).on = true → (s.dev.ten t).frozen = false → exec .freeze s = .next { s with dev := (
        { (d.setTen t { d.ten t with frozen := true }).dropFetches t with
          admin := { d.admin with job := .freezing t } }) }) ∧
      ((s.dev.ten t).on = false ∨ (s.dev.ten t).frozen = true → refused .freeze)) ∧
    (∀ t rest, s.dev.live = true → s.dev.admin.job = .freezing t → s.dev.admin.queued = x :: rest →
      ((s.dev.ten t).queued = false → (∀ c ∈ s.dev.ctxsOf t, (s.dev.ctx c).st ≠ .tearing) → s.dev.entryHeld .admin = false →
        exec .freezeComplete s = .next { s with dev := d.doneWith .admin x St.ok 0 0 }) ∧
      ((s.dev.ten t).queued = true ∨ (∃ c ∈ s.dev.ctxsOf t, (s.dev.ctx c).st = .tearing) ∨ s.dev.entryHeld .admin = true →
        exec .freezeComplete s = .next { s with dev := d })) ∧
    (s.dev.takes .admin 0x8A x →
      let t := x.field 0x20 1
      ((s.dev.ten t).on = true → (s.dev.ten t).frozen = true → exec .thaw s = .next { s with dev := (
        (d.setTen t { d.ten t with frozen := false }).doneWith .admin x St.ok 0 0) }) ∧
      ((s.dev.ten t).on = false ∨ (s.dev.ten t).frozen = false → refused .thaw))

/-- SAVE of a frozen tenancy writes an 8 KiB record that carries the magic, the format, the tenancy and a right digest, as
RESTORE demands, and no other byte. RESTORE of a record that rebuilds the tenancy completes with its windows and the
geometry of its rings as recorded, an image behind a link being asked for first; a record whose magic, format or digest is
wrong is refused with RECORD, one whose contexts do not match with CONFIG, and an uncorrectable word completes it with
ECC_UNCORR, each changing nothing of the tenancy. LOG START puts a bitmap in force; LOG SWAP and LOG STOP replace it, and
complete once no write issued before is outstanding and no bit of the old bitmap waits at port 28. (R270, R271, R272, R273,
08_host_interface.md) -/
def Obligations.SaveRestoreAndLog : Prop :=
  ∀ (s : State) (x : QDesc),
    let d := s.dev.begun
    let t := x.field 0x20 1
    let a := x.field 0x28 8
    let T := s.dev.ten t
    let refused := fun (c : Instr) (v : Byte) => exec c s = .next { s with dev := d.doneWith .admin x St.refused v 0 }
    s.dev.entryOpen .admin →
    (s.dev.takes .admin 0x8B x →
      (T.on = true → T.frozen = true → s.dev.recordVeto a = none → (∀ o < recordBytes, o % 64 = 0 → s.dev.openLine (a + o)) →
        ∃ (m : Device) (n : State), exec .save s = .next n ∧ n.dev = m.doneWith .admin x St.ok 0 0 ∧
          recordOk (m.rd a recordBytes) = true ∧ fieldAt (m.rd a recordBytes) 6 1 = t % 256 ∧
          (∀ b, b < a ∨ a + recordBytes ≤ b → memByte m.mem b = memByte s.dev.mem b) ∧ m.regs = s.dev.regs ∧
          m.tenancies = s.dev.tenancies ∧ m.ctxs = s.dev.ctxs) ∧
      (T.on = false ∨ T.frozen = false → refused .save 0x47)) ∧
    (s.dev.takes .admin 0x8C x →
      (s.dev.admissionBusy = true ∨ s.dev.gov.takeUp.isSome = true → ∀ e, exec (.restore e) s = .next { s with dev := d }) ∧
      (s.dev.admissionBusy = false → s.dev.gov.takeUp = none →
        (T.on = false ∨ T.frozen = false ∨ T.windows ≠ [] ∨ T.rings ≠ [] → ∀ e, refused (.restore e) 0x47) ∧
        (T.on = true → T.frozen = true → T.windows = [] → T.rings = [] → s.dev.ctxsOf t = [] →
          (∀ v, s.dev.recordVeto a = some v →
            ∀ e, exec (.restore e) s = .next { s with dev := d.doneWith .admin x v.1 v.2 0 }) ∧
          (s.dev.recordVeto a = none → (∀ o < recordBytes, o % 64 = 0 → s.dev.openLine (a + o)) →
            let p := (d.pass 28 a recordBytes false).2
            let rc := s.dev.coRead a recordBytes
            let ends := fun (e : Ecc) (status detail : Byte) => ∃ (m : Device) (n : State), exec (.restore e) s = .next n ∧
              m.mem = s.dev.mem ∧ m.tenancies = s.dev.tenancies ∧ m.ctxs = s.dev.ctxs ∧
              n.dev = m.doneWith .admin x status detail 0
            (∀ i < recordBytes, ends (.uncorrectable i) St.eccUncorr (s.dev.eccDetail (a + i))) ∧
            (recordOk rc = false → ends .clean St.refused 0x49) ∧
            (recordOk rc = true → s.dev.recordMatches rc = false → ends .clean St.refused 0x48) ∧
            (recordOk rc = true → s.dev.recordMatches rc = true →
              (s.dev.linkImages rc = [] →
                (∀ v, p.rebuild [] t rc = .inl v →
                  exec (.restore .clean) s = .next { s with dev := p.doneWith .admin x St.refused v 0 }) ∧
                ∀ e, p.rebuild [] t rc = .inr e →
                  exec (.restore .clean) s = .next { s with dev := e.doneWith .admin x St.ok 0 0 } ∧
                  (∀ w < 16, tget (e.ten t).windows w = restoredWindow (slice rc (0x40 + 32 * w) 32)) ∧
                  ∀ r < 17, fieldAt rc (0x240 + 32 * r) 1 ≠ 0 →
                    (e.ring (ringRefOf t r)).n = fieldAt rc (0x241 + 32 * r) 1 ∧
                    (e.ring (ringRefOf t r)).sqBase = fieldAt rc (0x248 + 32 * r) 8 ∧
                    (e.ring (ringRefOf t r)).cqBase = fieldAt rc (0x250 + 32 * r) 8) ∧
              (∀ b more pc l, s.dev.linkImages rc = b :: more → s.dev.region b = .outbound pc l → s.dev.readDown b = none →
                exec (.restore .clean) s = .next { s with dev := ((p.emitReads pc (.restore .admin) b 256).setRing .admin
                  { s.dev.admin with job := .restoring t rc [] (b :: more) [] }) })))))) ∧
    (s.dev.takes .admin 0x8D x →
      (x.field 0x21 1 = 1 →
        (T.on = false ∨ T.log ≠ none → refused .logStart 0x47) ∧
        (T.on = true → T.log = none →
          (s.dev.bitmapOk t a = true →
            exec .logStart s = .next { s with dev := (d.setTen t { T with log := some a }).doneWith .admin x St.ok 0 0 }) ∧
          (s.dev.bitmapOk t a = false → refused .logStart 0x4B))) ∧
      (x.field 0x21 1 = 2 →
        (T.on = false ∨ T.log = none → refused .logSwap 0x47) ∧
        (T.on = true → ∀ old, T.log = some old →
          (s.dev.bitmapOk t a = true → exec .logSwap s = .next { s with dev := (
            { d.setTen t { T with log := some a } with admin := { d.admin with job := .logging t old d.nextId } }) }) ∧
          (s.dev.bitmapOk t a = false → refused .logSwap 0x4B))) ∧
      (x.field 0x21 1 = 3 →
        (T.on = false ∨ T.log = none → refused .logStop 0x47) ∧
        (T.on = true → ∀ old, T.log = some old → exec .logStop s = .next { s with dev := (
          { d.setTen t { T with log := none } with admin := { d.admin with job := .logging t old d.nextId } }) }))) ∧
    (∀ t old mark rest, s.dev.live = true → s.dev.admin.job = .logging t old mark → s.dev.admin.queued = x :: rest →
      let e := Device.flushBits d.bitmapHeld d
      let waits := s.dev.writesBefore t mark = true ∨ (∃ b ∈ e.bitmapHeld, b.1 = old) ∨ e.entryHeld .admin = true
      (waits → exec .logSwapComplete s = .next { s with dev := e }) ∧
      (¬ waits → exec .logSwapComplete s = .next { s with dev := e.doneWith .admin x St.ok 0 0 }))

/-- An access to a reserved address, one that is not a naturally aligned access of the width of the register it covers, and a
write to SAF by any other than an island hart answer an error and change nothing. One that covers only unassigned bytes
reads as 0 and ignores writes, but for a write to SAF. An atomic operation on a register answers an error, and one on a
cache block has no effect. A read answers what the register shows and returns its RC fields to their reset values; a write
to a register without an operation of its own gives its RW fields the value where the state lets it, clears the W1C fields
that it has a 1 for, and leaves every other bit, memory and the Herald as they were. A host core's store to a line that the
host caches hold leaves memory as it is: the line holds the bytes, changed, in that core's L2 alone, and no other core's
reservation of it stands; a load of a held line answers its bytes. (R9, R10, R11, R14, R303, R353, 00_scope.md) -/
def Obligations.RegisterAccesses : Prop :=
  ∀ (who : Who) (n : Nat) (v : Word) (e : Ecc) (h : HartUse) (s : State), s.dev.live = true → s.dev.present who = true →
    let d := s.dev.begun.hartCe who h
    let write := fun a : Nat => Instr.registerWrite who a n v .store h
    let read := fun a : Nat => Instr.readClear who a n e false h
    let x := if n = 4 then wordOf (halfOf v) else v
    (∀ a, s.dev.region a = .reserved → ∀ i ∈ [write a, read a], exec i s = .next { s with dev := d.reply .error }) ∧
    (∀ a off, s.dev.region a = .regs off →
      (regSized off n = false ∨ (regRowAt off).any (fun r => r.bytes ≠ n) = true →
        ∀ i ∈ [write a, read a], exec i s = .next { s with dev := d.reply .error }) ∧
      (∀ op, op ≠ .store → exec (.registerWrite who a n v op h) s = .next { s with dev := (
        d.reply (if blockOp op then .written else .error)) }) ∧
      (exec (.readClear who a n e true h) s = .next { s with dev := d.reply .error }) ∧
      (regSized off n = true → regRowAt off = none → allUnassigned off n = true → whoIsBridge who = false →
        exec (write a) s = .next { s with dev := (
          d.reply (if slotOf off ≠ 0x0E ∨ whoIsIsland who = true then .written else .error)) } ∧
        exec (read a) s = .next { s with dev := d.reply (.value 0) }) ∧
      ∀ r, regSized off n = true → regRowAt off = some r → r.bytes = n →
        (slotOf r.off = 0x0E → whoIsIsland who = false →
          exec (write a) s = .next { s with dev := d.reply .error }) ∧
        (r.off ≠ 0x310004 → r.off ≠ 0x200000 → targetRow r = false → whoIsBridge who = false →
          ∃ t, exec (read a) s = .next t ∧ t.dev.answer = .value (d.view r off) ∧ t.dev.mem = s.dev.mem ∧
            t.dev.herald = s.dev.herald ∧ (∀ b ≠ off, t.dev.reg b = d.reg b) ∧
            ∀ i < 64, (t.dev.reg off).getLsbD i =
              if r.rc.testBit i then (regReset off).getLsbD i else (d.reg off).getLsbD i) ∧
        (r.off ∉ specialRows → writeDenied who r = false → s.dev.recordHeld off = none →
          ∃ t, exec (write a) s = .next t ∧ t.dev.answer = .written ∧ t.dev.mem = s.dev.mem ∧
            t.dev.herald = s.dev.herald ∧ (∀ b ≠ off, s.dev.recordHeld b = none → t.dev.reg b = d.reg b) ∧
            ∀ i < 64, (t.dev.reg off).getLsbD i =
              if r.w1c.testBit i && mayClear who off && x.getLsbD i then false
              else if r.rw.testBit i && s.dev.mayWrite who r.rule then x.getLsbD i else (d.reg off).getLsbD i)) ∧
    ∀ (c : Fin 24) (a : Nat) (l : HostLine), who = .host c → h.attr = .pma → s.dev.inMemory a n = true → hartSized a n = true →
      s.dev.addrOff a = false → tget s.dev.hostCache (a / 64) = some l →
      (∃ t, exec (write a) s = .next t ∧ t.dev.answer = .written ∧ t.dev.mem = s.dev.mem ∧
        tget t.dev.hostCache (a / 64) = some { data := splice l.data (a % 64) (bytesOfNat n v.toNat)
                                               dirty := some (.l2 c), l2 := [c.val], l3 := [] } ∧
        (∀ b ≠ a / 64, tget t.dev.hostCache b = tget s.dev.hostCache b) ∧
        ∀ w ∈ t.dev.reservations, w.2 = a / 64 → w.1 = c.val) ∧
      ∃ t, exec (read a) s = .next t ∧ t.dev.answer = .value (BitVec.ofNat 64 (fieldAt l.data (a % 64) n)) ∧
        t.dev.mem = s.dev.mem ∧ (∃ m, tget t.dev.hostCache (a / 64) = some m ∧ m.data = l.data ∧ c.val ∈ m.l2) ∧
        ∀ b ≠ a / 64, tget t.dev.hostCache b = tget s.dev.hostCache b

/-- A change of a link raises the controller's link source; an endpoint whose host enables MSI sends the signals held for it; a
root port takes a write of 4 B to its interrupt address as the MSI source its data selects, completes another size with
Unsupported Request, and drives its INTx levels from its messages. An outbound read ends once: its data reach the transfer,
the copy or the hart that waits for them, in the order of the reads, a timeout that has passed stops the run of its context
with LINK_ERROR and detail TIMEOUT, and an event for a read that is not waited for changes nothing. (R262, R276, R277, R278,
R305, 08_host_interface.md, 09_host_complex_herald.md) -/
def Obligations.PcieEvents : Prop :=
  ∀ s : State, s.dev.live = true →
    let d := s.dev.begun
    (∀ (pc : Pc) (up : Bool), s.dev.role pc ≠ 0 →
      (s.dev.linkState pc 0 ≠ up → ∃ t, exec (.pcieLinkChange pc 0 up) s = .next t ∧
        t.dev.linkState pc 0 = up ∧ (264 + 2 * pcIndex pc) ∈ t.dev.herald.raised ∧ t.dev.mem = s.dev.mem ∧
        t.dev.regs = s.dev.regs ∧ (up = false → t.dev.tenancies = s.dev.tenancies ∧ t.dev.sent = [])) ∧
      (s.dev.linkState pc 0 = up → exec (.pcieLinkChange pc 0 up) s = .next { s with dev := d })) ∧
    (∀ pc : Pc, s.dev.role pc = 2 → ∃ t, exec (.msiEnabled pc) s = .next t ∧
      (if pc = .a then t.dev.links.msiA else t.dev.links.msiB) = true ∧ t.dev.regs = s.dev.regs ∧ t.dev.mem = s.dev.mem ∧
      (s.dev.linkUp pc = true → ∀ T < 64, (s.dev.ten T).heldMsi = true → (s.dev.ten T).target.toNat = pcIndex pc + 1 →
        (t.dev.ten T).heldMsi = false ∧ Output.msi pc (s.dev.ten T).vector.toNat ∈ t.dev.sent)) ∧
    (∀ (pc : Pc) (line : Fin 4) (on : Bool) (bytes : Nat) (data : Half), s.dev.role pc = 1 → s.dev.linkUp pc = true →
      (bytes = 4 → exec (.rootPortMsi pc (s.dev.msiAddr pc) bytes data) s = .next { s with dev := (
        d.raise (192 + 32 * pcIndex pc + data.toNat % 32)) }) ∧
      (bytes ≠ 4 → exec (.rootPortMsi pc (s.dev.msiAddr pc) bytes data) s = .next { s with dev := (
        d.emit (.completion pc cplUnsupported [])) }) ∧
      (∀ a ≠ s.dev.msiAddr pc, exec (.rootPortMsi pc a bytes data) s = .next { s with dev := d }) ∧
      ∃ t, exec (.intxMessage pc line on) s = .next t ∧
        (∀ i < 8, t.dev.herald.intx.getLsbD i =
          if i = 4 * pcIndex pc + line then on else s.dev.herald.intx.getLsbD i) ∧
        { t.dev with herald := { t.dev.herald with intx := s.dev.herald.intx } } = d) ∧
    (∀ (id : Nat) (st : CplStatus) (data : List Byte), s.dev.outbound.find? (fun o => o.id = id && o.got.isNone) = none →
      ∀ i ∈ [Instr.outboundCompletion id st data, Instr.outboundTimeout id], exec i s = .next { s with dev := d }) ∧
    (∀ (id : Nat) (data : List Byte) (o : Outbound), s.dev.outbound.find? (fun o => o.id = id && o.got.isNone) = some o →
      let only := ∀ p ∈ s.dev.outbound, p.owner = o.owner → p.id = id
      (∀ who, o.owner = .hart who → s.dev.present who = true → only → ∃ t, exec (.outboundCompletion id .ok data) s = .next t ∧
        t.dev.answer = .value (BitVec.ofNat 64 (natOfBytes (slice data 0 o.bytes))) ∧
        { t.dev with answer := .none, outbound := s.dev.outbound } = d ∧ ∀ p ∈ t.dev.outbound, p.id ≠ id) ∧
      (∀ k src dst len ordered moved got, o.owner = .copy k → only →
        (s.dev.ring k).job = .copying src dst len ordered moved got → ∃ t, exec (.outboundCompletion id .ok data) s = .next t ∧
          (t.dev.ring k).job = .copying src dst len ordered moved (got ++ slice data 0 o.bytes) ∧
          (∀ p ∈ t.dev.outbound, p.id ≠ id) ∧ t.dev.mem = s.dev.mem ∧ t.dev.ctxs = s.dev.ctxs) ∧
      (∀ core c x, o.owner = .transfer core c id → only → s.dev.ownTransfer core c id = some x → x.unit = .load →
        x.kind = .ordered → x.data = [] → x.done = 0 → x.sent = 1 → x.cut = false →
        (∀ e ∈ s.dev.banks, ∀ y ∈ e.2.transfers, y.lines.length ≤ y.sent) →
        ∃ t, exec (.outboundCompletion id .ok data) s = .next t ∧ (∀ p ∈ t.dev.outbound, p.id ≠ id) ∧
          t.dev.mem = memWrite s.dev.mem (s.dev.shareAddr c core x.near) (slice data 0 o.bytes) ∧
          t.dev.bank core c = (s.dev.bank core c).retire id ∧ t.dev.ctxs = s.dev.ctxs) ∧
      (s.dev.alm.ticks - o.issued < s.dev.outTimeout o.pc →
        exec (.outboundTimeout id) s = .next { s with dev := d }) ∧
      (s.dev.outTimeout o.pc ≤ s.dev.alm.ticks - o.issued → ∀ core c r, o.owner = .transfer core c id → only →
        (s.dev.ctx c).run = some r → r.stopped = none → ∃ t, exec (.outboundTimeout id) s = .next t ∧
          (∀ p ∈ t.dev.outbound, p.id ≠ id) ∧ (t.dev.ctx c).run.map (·.stopped) = some (some (St.linkError, 1)) ∧
          t.dev.mem = s.dev.mem ∧ t.dev.bank core c = (s.dev.bank core c).retire id ∧
          t.dev.regBit Reg.hifSticky (6 + pcIndex o.pc) = true))

/-- On a controller with a role and its link up: a read of an endpoint's configuration space answers its bytes; a controller
held offline completes with Completer Abort and does nothing else; a write of 4 B to a root port's interrupt address raises
the source that its data selects. For any other request, where no cause of R279 stands in its way at its device address, and
its lines are open to the bridge's port: a write to memory puts its bytes there and no others but what a host cache writes
back, and a read answers the newest bytes there, or Completer Abort where a word of them is uncorrectable; one that meets a
unit held offline completes with Completer Abort. Where a cause does, or the request lies outside its BAR, nothing of memory
changes, the controller's bridge bit is set, a request that is not posted completes with an error, and the first such
request is recorded. (R272, R275, R279, R281, R288, R305, R313, R388, R421, 08_host_interface.md) -/
def Obligations.InboundRequests : Prop :=
  ∀ (pc : Pc) (q : Inbound) (s : State), (Instr.inboundRequest pc q).wellFormed = true → s.dev.live = true →
    s.dev.role pc ≠ 0 → s.dev.linkUpAt pc q.link = true →
    let d := s.dev.begun
    let ends := fun (e : Device) (status : Byte) (data : List Byte) =>
      if q.posted then e else e.emit (.completion pc status data)
    let e := d.noteChunk pc q
    (q.kind = .config → s.dev.role pc = 2 → exec (.inboundRequest pc q) s = .next { s with dev := (
      d.emit (.completion pc cplOk ((List.range q.length).map fun i => configByte (q.addr + i)))) }) ∧
    (q.kind ≠ .config ∨ s.dev.role pc ≠ 2 →
      (s.dev.unitOff (pcUnit pc) = true → exec (.inboundRequest pc q) s = .next { s with dev := ends d cplAbort [] }) ∧
      (s.dev.unitOff (pcUnit pc) = false → s.dev.isMsi pc q = true → s.dev.linkUp pc = true → q.kind = .write → q.length = 4 →
        exec (.inboundRequest pc q) s = .next { s with dev := (
          d.raise (192 + 32 * pcIndex pc + natOfBytes q.data % 32)) }) ∧
      (s.dev.unitOff (pcUnit pc) = false → s.dev.isMsi pc q = false →
        let rejected := fun (a cause : Nat) => ∃ t, exec (.inboundRequest pc q) s = .next t ∧ t.dev.mem = s.dev.mem ∧
          t.dev.ctxs = s.dev.ctxs ∧ t.dev.tenancies = s.dev.tenancies ∧ t.dev.regBit Reg.hifSticky (4 + pcIndex pc) = true ∧
          (q.posted = false → t.dev.sent = [.completion pc (if cause = 3 then cplUnsupported else cplAbort) []]) ∧
          (q.posted = true → (265 + 2 * pcIndex pc) ∈ t.dev.herald.raised) ∧
          (s.dev.fld Reg.hifSticky 4 2 = 0 → t.dev.reg Reg.hifBridgeRecord = BitVec.ofNat 64 (
            (if q.kind = .write then 2 ^ 63 else 0) + pcIndex pc * 2 ^ 62 + cause * 2 ^ 48 + a % 2 ^ 48)) ∧
          (s.dev.fld Reg.hifSticky 4 2 ≠ 0 → t.dev.reg Reg.hifBridgeRecord = s.dev.reg Reg.hifBridgeRecord)
        (s.dev.inboundAddr pc q = none → rejected q.addr (if s.dev.inboundKindOk pc q then 3 else 5)) ∧
        ∀ a, s.dev.inboundAddr pc q = some a →
          (∀ cause, s.dev.inboundVeto pc q a = some cause → rejected a cause) ∧
          (s.dev.inboundVeto pc q a = none → s.dev.inMemory a 1 = true →
            (s.dev.rangeOff a q.length = true → exec (.inboundRequest pc q) s = .next { s with dev := ends e cplAbort [] }) ∧
            (s.dev.rangeOff a q.length = false → (∀ l ∈ lineAddrs a q.length, s.dev.openLine l) →
              (q.kind = .write → (s.dev.ten (s.dev.inTenancy pc)).log = none → ∃ t, exec (.inboundRequest pc q) s = .next t ∧
                t.dev.mem = (s.dev.coWrite a q.data).mem ∧ t.dev.regs = s.dev.regs ∧ t.dev.herald = s.dev.herald ∧
                t.dev.sent = if q.posted then [] else [.completion pc cplOk []]) ∧
              (q.kind = .read → q.posted = false →
                ((∀ i, q.ecc ≠ .uncorrectable i) → ∃ t, exec (.inboundRequest pc q) s = .next t ∧
                  t.dev.mem = (s.dev.dropLines a q.length).mem ∧
                  t.dev.sent = [.completion pc cplOk (s.dev.coRead a q.length)]) ∧
                (∀ i < q.length, q.ecc = .uncorrectable i → ∃ t, exec (.inboundRequest pc q) s = .next t ∧
                  t.dev.mem = s.dev.mem ∧ t.dev.sent = [.completion pc cplAbort []] ∧
                  t.dev.regBit Reg.safFaultLatch 9 = true))))))

/-- Where no window of 256 ticks has just ended, GOVERNOR_WINDOW_END changes nothing. At the end of a window with a point in
force and none asked for, PWR_CORE_RATEn takes the core's count and the lower of its minimum and that count; a die with a
core below the floor has a pace fault with its latch bit, and no die without one; with a point asked for and every rail
standing through a window with no core below the lower of the two floors, the new counts are in force and the change is
done. A rail that ramps moves 5 mV towards its target and announces the step, at the earliest 2 µs after its last step,
before which RAIL_STEP changes nothing; at its target its ramp ends. A change request is refused with its first cause and
sticky bit, done at once where the point is in force, and otherwise in progress, waiting for an admission that is in
progress. Memory and the contexts stand. (R62, R65, R67, R413, R414, R415, 02_cores_and_engines.md,
12_startup_security_power.md) -/
def Obligations.GovernorWindows : Prop :=
  ∀ s : State, s.dev.live = true →
    let d := s.dev.begun
    (∀ counts : List (BitVec 16), counts.length = 96 → s.dev.windowDue = false →
      exec (.governorWindowEnd counts) s = .next { s with dev := d }) ∧
    (∀ (counts : List (BitVec 16)) (p : BitVec 2), counts.length = 96 → s.dev.windowDue = true → s.dev.gov.takeUp = some p →
      s.dev.point ≠ 0 → s.dev.busy = none → s.dev.railsStand = true →
      (∀ n < 96, min (pointCounts s.dev.point).1 (pointCounts p.toNat).1 ≤ countOf counts n) →
      ∃ t, exec (.governorWindowEnd counts) s = .next t ∧ t.dev.point = p.toNat ∧ t.dev.gov.takeUp = none ∧
        t.dev.reg Reg.pwrCounts = BitVec.ofNat 64 ((pointCounts p.toNat).2.1 * 2 ^ 16 + (pointCounts p.toNat).1) ∧
        t.dev.fld Reg.cfgOppStatus 4 2 = 1 ∧ t.dev.mem = s.dev.mem ∧ t.dev.ctxs = s.dev.ctxs) ∧
    (∀ counts : List (BitVec 16), counts.length = 96 → s.dev.windowDue = true → s.dev.gov.wanted = none → s.dev.point ≠ 0 →
      ∃ t, exec (.governorWindowEnd counts) s = .next t ∧ t.dev.mem = s.dev.mem ∧ t.dev.ctxs = s.dev.ctxs ∧
        (∀ n < 96, t.dev.fld (Reg.pwrCoreRate n) 0 16 = countOf counts n ∧
          t.dev.fld (Reg.pwrCoreRate n) 16 16 = min (countOf counts n) (s.dev.fld (Reg.pwrCoreRate n) 16 16)) ∧
        (∀ i : Fin 4, (∃ k < 24, countOf counts (24 * i + k) < (pointCounts s.dev.point).1) →
          t.dev.regBit Reg.pwrPaceFault i = true ∧ t.dev.regBit Reg.safFaultLatch 2 = true) ∧
        ((∀ n < 96, (pointCounts s.dev.point).1 ≤ countOf counts n) →
          t.dev.reg Reg.pwrPaceFault = s.dev.reg Reg.pwrPaceFault)) ∧
    (s.dev.gov.wanted = none → s.dev.point = 0 → s.dev.windowDue = true → ∀ counts : List (BitVec 16), counts.length = 96 →
      exec (.governorWindowEnd counts) s = .next { s with dev := (
        { d with gov := { d.gov with window := s.dev.alm.ticks / 256 } }) }) ∧
    (∀ (i : Fin 4) (target : Nat), (s.dev.die i).ramp = some target →
      (s.dev.tooSoon (.rail i) = true → exec (.railStep i) s = .next { s with dev := d }) ∧
      (s.dev.tooSoon (.rail i) = false → s.dev.rail i ≠ target → s.dev.rail i < 2000 → 5 ≤ s.dev.rail i → ∃ t, exec (.railStep i) s = .next t ∧
        t.dev.rail i = (if s.dev.rail i < target then s.dev.rail i + 5 else s.dev.rail i - 5) ∧
        t.dev.sent = [.avs i (t.dev.rail i)] ∧ t.dev.mem = s.dev.mem ∧ t.dev.ctxs = s.dev.ctxs ∧
        ∀ j ≠ i, t.dev.rail j = s.dev.rail j ∧ t.dev.die j = s.dev.die j) ∧
      (s.dev.tooSoon (.rail i) = false → s.dev.rail i = target → s.dev.busy ≠ some .stop → exec (.railStep i) s = .next { s with dev := (
        d.setDie i { d.die i with ramp := none }) })) ∧
    (∀ (who : Who) (v : Half), s.dev.present who = true →
      let p := v.toNat % 4
      (∀ cause, s.dev.oppVeto p = some cause → ∃ t, exec (.cfgOppReq who v) s = .next t ∧ t.dev.answer = .written ∧
        t.dev.regBit Reg.cfgSticky 1 = true ∧ t.dev.reg Reg.cfgOppStatus = BitVec.ofNat 64 (cause * 256 + 0x30 + p) ∧
        t.dev.gov = s.dev.gov ∧ t.dev.mem = s.dev.mem ∧
        ∀ a, a ≠ Reg.cfgSticky → a ≠ Reg.cfgOppStatus → t.dev.reg a = s.dev.reg a) ∧
      (s.dev.oppVeto p = none →
        (p = s.dev.point → exec (.cfgOppReq who v) s = .next { s with dev := (
          (d.reply .written).setReg Reg.cfgOppStatus (BitVec.ofNat 64 (0x10 + p))) }) ∧
        (p ≠ s.dev.point → s.dev.admissionBusy = false → ∃ t, exec (.cfgOppReq who v) s = .next t ∧
          t.dev.gov.takeUp = some (BitVec.ofNat 2 p) ∧ t.dev.fld Reg.cfgOppStatus 4 2 = 2 ∧ t.dev.mem = s.dev.mem ∧
          t.dev.reg Reg.pwrCounts = s.dev.reg Reg.pwrCounts) ∧
        (p ≠ s.dev.point → s.dev.admissionBusy = true → exec (.cfgOppReq who v) s = .next { s with dev := (
          { (d.reply .written).setReg Reg.cfgOppStatus (BitVec.ofNat 64 (0x20 + p)) with
            gov := { d.gov with asked := some (BitVec.ofNat 2 p) } }) })))

/-- A mismatch of a compared host pair stops the pair, sets its bit and the latch, takes the pair offline, and loses what its
L2s hold; one of an island pair stops it, and the latch of a lost island is set when both have stopped. An uncorrectable
line of a host cache sets the ECC latch: changed there it is discarded with source 73 and a fault of the access that found
it; clean it is fetched again, from another cache or from memory. A pair reset brings back exactly the stopped pairs it
names, of clusters that are not split, whose comparators passed their test. A production miss counts once, with its miss bit
and the Vigil's latch. Memory stands. (R287, R307, R308, R310, R312, R337, R339, 10_safety.md) -/
def Obligations.IslandMismatches : Prop :=
  ∀ s : State, s.dev.live = true →
    let d := s.dev.begun
    (∀ p : Fin 12,
      (s.dev.pairCompared p = true → ∃ t, exec (.lockstepMismatch p) s = .next t ∧
        t.dev.safety.hostStopped = s.dev.safety.hostStopped ||| BitVec.ofNat 12 (2 ^ p.val) ∧
        t.dev.regBit Reg.safCmp p = true ∧ t.dev.regBit Reg.safFaultLatch 0 = true ∧ t.dev.unitOff (96 + p) = true ∧
        (∀ e ∈ t.dev.hostCache, ∀ n ∈ e.2.l2, n / 2 ≠ p.val) ∧
        t.dev.mem = s.dev.mem ∧ t.dev.ctxs = s.dev.ctxs ∧ t.dev.herald = s.dev.herald) ∧
      (s.dev.pairCompared p = false → exec (.lockstepMismatch p) s = .next { s with dev := d })) ∧
    (∀ (i : Fin 2) (fromSram : Bool), s.dev.safety.islandStopped.getLsbD i = false →
      (s.dev.boot.islandSplit = false ∨ fromSram = true) → ∃ t, exec (.islandLockstepMismatch i fromSram) s = .next t ∧
        t.dev.safety.islandStopped.getLsbD i = true ∧ t.dev.regBit Reg.safCmp (12 + i) = true ∧
        t.dev.regBit Reg.safFaultLatch 1 = true ∧ t.dev.mem = s.dev.mem ∧
        (s.dev.safety.islandStopped ≠ 0 → t.dev.regBit Reg.safFaultLatch 14 = true) ∧
        (s.dev.safety.islandStopped = 0 → t.dev.regBit Reg.safFaultLatch 14 = s.dev.regBit Reg.safFaultLatch 14)) ∧
    (∀ (c : HostCache) (n : Fin 24) (a : Nat),
      ((∀ l, tget s.dev.hostCache (a / 64) = some l → l.heldIn c = false) →
        exec (.hostCacheUe c n a) s = .next { s with dev := d }) ∧
      ∀ l, tget s.dev.hostCache (a / 64) = some l → l.heldIn c = true →
        ∃ t, exec (.hostCacheUe c n a) s = .next t ∧ t.dev.regBit Reg.safFaultLatch 9 = true ∧ t.dev.mem = s.dev.mem ∧
          (∀ b ≠ a / 64, tget t.dev.hostCache b = tget s.dev.hostCache b) ∧
          (l.dirty = some c → 73 ∈ t.dev.herald.raised ∧ tget t.dev.hostCache (a / 64) = none ∧
            t.dev.sent = [.hartFault n.val]) ∧
          (l.dirty ≠ some c → t.dev.herald = s.dev.herald ∧ (s.dev.addrOff (lineOf a) = false → t.dev.sent = [] ∧
            ∃ m, tget t.dev.hostCache (a / 64) = some m ∧ n.val ∈ m.l2 ∧
              m.data = if (l.without c).l2 = [] ∧ (l.without c).l3 = [] then s.dev.rd (lineOf a) 64 else l.data))) ∧
    (∀ (who : Who) (v : Half) (pass : BitVec 12), s.dev.present who = true →
      (whoIsIsland who = false → exec (.hostPairReset who v pass) s = .next { s with dev := d.reply .error }) ∧
      (whoIsIsland who = true → ∃ t, exec (.hostPairReset who v pass) s = .next t ∧ t.dev.answer = .written ∧
        t.dev.mem = s.dev.mem ∧ t.dev.ctxs = s.dev.ctxs ∧
        ∀ p < 12, t.dev.safety.hostStopped.getLsbD p =
            (s.dev.safety.hostStopped.getLsbD p && !(v.getLsbD p && pass.getLsbD p && !s.dev.splitCluster (p / 3))) ∧
          (v.getLsbD p = true → s.dev.splitCluster (p / 3) = false → s.dev.safety.hostStopped.getLsbD p = true →
            t.dev.regBit Reg.safCmp (16 + p) = pass.getLsbD p ∧
            (pass.getLsbD p = true → t.dev.unitOff (96 + p) = false)))) ∧
    (∀ x : Fin 512, s.dev.cfg = .running → s.dev.regBit (Reg.vglCfg x) 63 = true → x.val ∈ s.dev.safety.vigilArmed →
      x.val ∉ s.dev.safety.vigilMissed → s.dev.fld (Reg.vglPeriod x) 0 32 ≠ 0 →
      (s.dev.reg (Reg.vglDue x) < s.dev.ns → ∃ t, exec (.productionMiss x) s = .next t ∧ x.val ∈ t.dev.safety.vigilMissed ∧
        t.dev.regBit (Reg.vglMissProd (x / 32)) (x % 32) = true ∧ t.dev.regBit Reg.safFaultLatch 5 = true ∧
        t.dev.fld Reg.vglMisses 16 16 = min 0xFFFF (s.dev.fld Reg.vglMisses 16 16 + 1) ∧
        (s.dev.regBit (Reg.vglCfg x) 62 = true → t.dev.regBit (Reg.vglSafeLatch (x / 32)) (x % 32) = true) ∧
        t.dev.mem = s.dev.mem ∧ exec (.productionMiss x) t = .next { t with dev := t.dev.begun }) ∧
      (s.dev.ns ≤ s.dev.reg (Reg.vglDue x) → exec (.productionMiss x) s = .next { s with dev := d }))

/-- A poll less than 10 µs after the last changes nothing. Else a poll sets the skew latch where an offline unit has accepted a
request, or where a unit answers stopped, or does not answer, at two polls in a row (a poll without an answer ends a row of
stopped ones), and in the first case closes its port; a poll in which every unit answers as it is held sets none.
SAF_UNIT_OFF_SET and SAF_UNIT_OFF_CLR of an island hart hold offline, and bring back, exactly the units they name, and are
turned away from others. A checker test fires and changes nothing else. A write to VGL_PRODUCEs of a valid software stream
stamps it and arms its next due time; one to VGL_CONSUMEs is an age miss exactly where the stamp is too old or lies ahead.
(R313, R315, R316, R326, R335, R338, R339, 10_safety.md) -/
def Obligations.ManagementAndVigil : Prop :=
  ∀ s : State, s.dev.live = true →
    let d := s.dev.begun
    (∀ l : List PollAnswer, s.dev.tooSoon .managementPoll = true → exec (.managementPoll l) s = .next { s with dev := d }) ∧
    (∀ (u : Fin 128) (accepted serving answered : Bool), s.dev.tooSoon .managementPoll = false → managedUnit u = true →
      let a : PollAnswer := { unit := u, accepted := accepted, serving := serving, answered := answered }
      ∃ t, exec (.managementPoll [a]) s = .next t ∧ t.dev.mem = s.dev.mem ∧ t.dev.ctxs = s.dev.ctxs ∧
        t.dev.safety.offAtPoll = (List.range 128).filter s.dev.unitOff ∧
        (t.dev.regBit Reg.safFaultLatch 8 = (s.dev.regBit Reg.safFaultLatch 8 ||
          (if answered = false then decide (u.val ∈ s.dev.safety.silentOnce)
           else if s.dev.unitOff u = true then accepted && decide (u.val ∈ s.dev.safety.offAtPoll)
           else !serving && decide (u.val ∈ s.dev.safety.stoppedOnce)))) ∧
        (answered = true → s.dev.unitOff u = true → accepted = true → u.val ∈ s.dev.safety.offAtPoll →
          u.val ∈ t.dev.safety.closedPorts) ∧
        (answered = false → u.val ∉ t.dev.safety.stoppedOnce)) ∧
    (∀ (who : Who) (w : Fin 4) (v : Half), s.dev.present who = true →
      (whoIsIsland who = false → ∀ i ∈ [Instr.safUnitOffSet who w v, Instr.safUnitOffClr who w v],
        exec i s = .next { s with dev := d.reply .error }) ∧
      (whoIsIsland who = true →
        (∃ t, exec (.safUnitOffSet who w v) s = .next t ∧ ∀ u < 128, t.dev.unitOff u =
          (s.dev.unitOff u || (decide (u / 32 = w) && v.getLsbD (u % 32) && managedUnit u && decide (u < 96)))) ∧
        (∃ t, exec (.safUnitOffClr who w v) s = .next t ∧ t.dev.mem = s.dev.mem ∧ t.dev.ctxs = s.dev.ctxs ∧
          ∀ u < 128, t.dev.unitOff u =
            (s.dev.unitOff u && !(decide (u / 32 = w) && v.getLsbD (u % 32) && managedUnit u && decide (u < 96)))))) ∧
    (∀ (who : Who) (v : Half), s.dev.present who = true →
      exec (.chkTestInject who v) s = .next { s with dev := (
        if v.getLsbD 0 then ((d.reply .written).orReg Reg.chkTest 0x100) else d.reply .written) }) ∧
    (∀ (who : Who) (x : Fin 512) (v : Word), s.dev.present who = true → s.dev.regBit (Reg.vglCfg x) 63 = true →
      (s.dev.regBit (Reg.vglCfg x) 61 = true → ∃ t, exec (.vglProduce who x v) s = .next t ∧ t.dev.reg (Reg.vglLast x) = v ∧
        t.dev.mem = s.dev.mem ∧ t.dev.herald = s.dev.herald ∧
        (s.dev.cfg = .running → x.val ∈ t.dev.safety.vigilArmed ∧ x.val ∉ t.dev.safety.vigilMissed ∧
          t.dev.reg (Reg.vglDue x) = s.dev.ns + BitVec.ofNat 64 (s.dev.fld (Reg.vglPeriod x) 0 32))) ∧
      (let age := s.dev.fld (Reg.vglAge x) 0 32
       let old := age ≠ 0 ∧ (age + v.toNat < s.dev.ns.toNat ∨ s.dev.ns.toNat < v.toNat)
       (¬ old → exec (.vglConsume who x v) s = .next { s with dev := d.reply .written }) ∧
       (old → ∃ t, exec (.vglConsume who x v) s = .next t ∧ t.dev.regBit (Reg.vglMissAge (x / 32)) (x % 32) = true ∧
         t.dev.regBit Reg.safFaultLatch 5 = true ∧ t.dev.mem = s.dev.mem ∧
         t.dev.fld Reg.vglMisses 0 16 = min 0xFFFF (s.dev.fld Reg.vglMisses 0 16 + 1) ∧
         (s.dev.regBit (Reg.vglCfg x) 62 = true → t.dev.regBit (Reg.vglSafeLatch (x / 32)) (x % 32) = true))))

/-- An island hart enables the watchdog by a write with a period that is not 0; once enabled, a further write changes nothing. A
kick of an enabled watchdog with the key restarts its count, with any other value makes it expire with its latch bit; a kick
of one that is not enabled changes nothing. Half a period without a restart asserts source 79 until the next restart, and a
whole one sets the latch; neither comes before its ticks have passed. A requester outside the island is turned away. (R319,
R353, 10_safety.md) -/
def Obligations.Watchdog : Prop :=
  ∀ (who : Who) (v : Half) (s : State), s.dev.live = true → s.dev.present who = true →
    let d := s.dev.begun
    (whoIsIsland who = false → ∀ i ∈ [Instr.wdogEnable who v, Instr.wdogKick who v],
      exec i s = .next { s with dev := d.reply .error }) ∧
    (whoIsIsland who = true →
      (s.dev.wdogOn = false → v.getLsbD 31 = true → v.toNat % 2 ^ 16 ≠ 0 → ∃ t, exec (.wdogEnable who v) s = .next t ∧
        t.dev.wdogOn = true ∧ t.dev.fld Reg.safWdog 0 16 = v.toNat % 2 ^ 16 ∧
        t.dev.safety = { s.dev.safety with wdogFrom := s.dev.alm.ticks, wdogHalf := false, wdogExpired := false } ∧
        t.dev.mem = s.dev.mem ∧ (∀ a ≠ Reg.safWdog, t.dev.reg a = s.dev.reg a) ∧
        ∀ w, exec (.wdogEnable who w) t = .next { t with dev := t.dev.begun.reply .written }) ∧
      (s.dev.wdogOn = false → v.toNat % 2 ^ 16 = 0 → v.getLsbD 31 = true →
        exec (.wdogEnable who v) s = .next { s with dev := d.reply .written }) ∧
      (s.dev.wdogOn = false → exec (.wdogKick who v) s = .next { s with dev := d.reply .written }) ∧
      (s.dev.wdogOn = true →
        (v.toNat % 256 = 0xA5 → exec (.wdogKick who v) s = .next { s with dev := (
          { d.reply .written with safety := { s.dev.safety with
            wdogFrom := s.dev.alm.ticks, wdogHalf := false, wdogExpired := false } }) }) ∧
        (v.toNat % 256 ≠ 0xA5 → ∃ t, exec (.wdogKick who v) s = .next t ∧ t.dev.safety.wdogExpired = true ∧
          t.dev.regBit Reg.safFaultLatch 13 = true ∧ t.dev.line 79 = some true ∧ t.dev.mem = s.dev.mem))) ∧
    (s.dev.wdogOn = true →
      (s.dev.wdogWhole ≤ 2 * s.dev.wdogCount → ∃ t, exec .wdogHalfPeriod s = .next t ∧ t.dev.safety = { s.dev.safety with wdogHalf := true } ∧
        t.dev.line 79 = some true ∧ t.dev.regs = s.dev.regs ∧ t.dev.mem = s.dev.mem) ∧
      (s.dev.safety.wdogExpired = false → s.dev.wdogWhole ≤ s.dev.wdogCount → ∃ t, exec .wdogExpire s = .next t ∧
        t.dev.safety = { s.dev.safety with wdogExpired := true } ∧ t.dev.regBit Reg.safFaultLatch 13 = true ∧
        t.dev.mem = s.dev.mem ∧ ∀ a ≠ Reg.safFaultLatch, t.dev.reg a = s.dev.reg a) ∧
      (s.dev.wdogCount < s.dev.wdogWhole → exec .wdogExpire s = .next { s with dev := d } ∧
        (2 * s.dev.wdogCount < s.dev.wdogWhole → exec .wdogHalfPeriod s = .next { s with dev := d }))) ∧
    (s.dev.wdogOn = false → ∀ i ∈ [Instr.wdogHalfPeriod, Instr.wdogExpire], exec i s = .next { s with dev := d })

/-- A write to Q_TAIL or Q_SEEN within the queue's length is taken; one beyond it stops a running queue with its block's queue-
fault bit; an unset queue is unchanged. A queue that is not ready, because it does not run, has no posted descriptor, waits
for a departure, a write-back or a read, or has no frame, changes nothing; one whose descriptor cannot be reached stops; one
whose descriptor's line waits at its port changes neither memory nor any queue. A descriptor with an uncorrectable word is
written back with ECC_UNCORR. A ready receive queue writes the waiting frame to the buffer, then the descriptor back with
its length, port, class, stamp and identifier. A ready transmit queue writes SIZE_UNSUPPORTED back for a length outside its
limits, and for a port or a flag that the switch does not take, and UNIT_OFFLINE for a port held offline; else a directed
frame of the switch goes to its port and the descriptor waits for the departure, and a frame of a host queue is routed and
the descriptor written back with the time of its fetch. Head and memory move by one descriptor and nothing else is stored.
The status and details written back for a frame that no table of the spec gives one are the model's choice (log entry 91).
(R264, R371, R372, R385, R386, 11_time_and_networks.md) -/
def Obligations.FrameQueues : Prop :=
  ∀ (q : QueueRef) (s : State), s.dev.live = true →
    let d := s.dev.begun
    let k := queueKey q
    let x := s.dev.queue k
    let at_ := s.dev.qAddr k x.head
    let passes := fun (a n : Nat) => s.dev.openLine a ∧ ∀ l ∈ lineAddrs a n, s.dev.openLine l
    let next := { x with head := x.head + 1, departing := false, desc := none, got := [], back := none }
    let stops := fun (i : Instr) => ∃ t, exec i s = .next t ∧ t.dev.mem = s.dev.mem ∧
      t.dev.queue k = { x with state := .stopped, waiting := [], departing := false, desc := none, got := [], back := none } ∧
      t.dev.regBit (if k < 32 then Reg.tsnSticky else Reg.gwySticky) (if k < 32 then 0 else 3) = true ∧
      ∀ p ≠ k, t.dev.queue p = s.dev.queue p
    (∀ (who : Who) (v : Half), s.dev.present who = true →
      (x.state = .unset → ∀ i ∈ [Instr.qTailWrite who q v, Instr.qSeenWrite who q v],
        exec i s = .next { s with dev := d.reply .written }) ∧
      (x.state ≠ .unset → countDiff v x.head ≤ 2 ^ s.dev.qLog k →
        exec (.qTailWrite who q v) s = .next { s with dev := (d.reply .written).setQueue k { x with tail := v } }) ∧
      (x.state ≠ .unset → countDiff x.head v ≤ 2 ^ s.dev.qLog k →
        exec (.qSeenWrite who q v) s = .next { s with dev := (d.reply .written).setQueue k { x with seen := v } }) ∧
      (x.state = .running → 2 ^ s.dev.qLog k < countDiff v x.head → stops (.qTailWrite who q v)) ∧
      (x.state = .running → 2 ^ s.dev.qLog k < countDiff x.head v → stops (.qSeenWrite who q v))) ∧
    (s.dev.qReady k = false → ∀ e, exec (.queueDescriptorTaken q e) s = .next { s with dev := d }) ∧
    (s.dev.qReady k = true → x.desc = none →
      ((s.dev.qVeto k).isSome = true → stops (.queueDescriptorTaken q .clean)) ∧
      (∀ l, lineAddrs at_ 32 = [l] → s.dev.qVeto k = none → s.dev.inMemory at_ 32 = true →
        s.dev.portDone (qPort k) at_ 32 = 0 → s.dev.portHolds (qPort k) l = true →
        ∃ t, exec (.queueDescriptorTaken q .clean) s = .next t ∧ t.dev.mem = s.dev.mem ∧ t.dev.queues = s.dev.queues) ∧
      (s.dev.qVeto k = none → s.dev.inMemory at_ 32 = true → (s.dev.ten (s.dev.qTenancy k)).log = none → passes at_ 32 →
        let raw := s.dev.rd at_ 32
        let buf := fieldAt raw 0 8
        let len := fieldAt raw 8 2
        let port := fieldAt raw 0x0C 1
        let back := fun (st detail : Byte) (f : List (Nat × List Byte)) => backBytes raw x.head (s.dev.qLog k) st detail f
        let ends := fun (e : Ecc) (st detail : Byte) => ∃ t, exec (.queueDescriptorTaken q e) s = .next t ∧ t.dev.sw = s.dev.sw ∧
          t.dev.can = s.dev.can ∧ t.dev.acf = s.dev.acf ∧ t.dev.queue k = next ∧ t.dev.mem = memWrite s.dev.mem at_ (back st detail [])
        (∀ i < 32, ends (.uncorrectable i) St.eccUncorr (s.dev.eccDetail (at_ + i))) ∧
        (∀ f rest, qReceives k = true → x.waiting = f :: rest → s.dev.inMemory buf 1 = true → passes buf f.bytes.length →
          s.dev.vetoRole (s.dev.qTenancy k) buf f.bytes.length true false = none →
          ∃ t, exec (.queueDescriptorTaken q .clean) s = .next t ∧ t.dev.sent = [] ∧ t.dev.regs = s.dev.regs ∧
            t.dev.queue k = { next with waiting := rest } ∧
            t.dev.mem = memWrite (memWrite s.dev.mem buf f.bytes) at_ (back St.ok 0
              ([(0x08, bytesOfNat 2 f.bytes.length), (0x0C, [f.port])] ++ (if k < 32 then [(0x0D, [f.cls])] else []) ++
                stampFields f.stamp ++ [(0x1C, bytesOfNat 4 f.canId.toNat)]))) ∧
        (qReceives k = false → k < 32 → (len < 60 ∨ 9212 < len ∨ (fieldAt raw 0x0A 1 % 2 = 1 ∧ port = 0xFF) ∨
          (10 ≤ port ∧ port ≠ 0xFF)) → ends .clean St.sizeUnsupported 1) ∧
        (qReceives k = false → k < 32 → 60 ≤ len → len ≤ 9212 → port < 10 → s.dev.unitOff (80 + port) = true →
          ends .clean St.unitOffline 0) ∧
        (qReceives k = false → 32 ≤ k → lengthOk len = false → ends .clean St.sizeUnsupported 1 ∧
          ∃ t, exec (.queueDescriptorTaken q .clean) s = .next t ∧ t.dev.regBit Reg.gwySticky 0 = true) ∧
        (s.dev.vetoRole (s.dev.qTenancy k) buf len false false = none → s.dev.inMemory buf 1 = true → passes buf len →
          (qReceives k = false → k < 32 → 60 ≤ len → len ≤ 9212 → port < 10 →
            s.dev.unitOff (80 + port) = false → s.dev.frameBytes + (len + 4) ≤ frameMemory →
            ∃ t, exec (.queueDescriptorTaken q .clean) s = .next t ∧ t.dev.mem = s.dev.mem ∧ t.dev.regs = s.dev.regs ∧
              t.dev.queue k = { x with departing := true, desc := some (raw, s.dev.alm.count) } ∧
              let e := 8 * port + pcpOf (s.dev.rd buf len) (k % 8)
              tgetD t.dev.sw.egress e [] = tgetD s.dev.sw.egress e [] ++
                [{ id := s.dev.nextId, bytes := s.dev.rd buf len, oneStep := decide (fieldAt raw 0x0A 1 % 2 = 1),
                   origin := some (k, x.head, raw) }]) ∧
          (∀ off w, qReceives k = false → 32 ≤ k → lengthOk len = true → len ≠ 0 →
            let f := hostFrame raw (s.dev.rd buf len)
            s.dev.routeFor (16 + k) f = some off →
            (((List.range 4).map fun j => s.dev.reg (off + 16 + 8 * j)).filter fun w => bitOf w 63) = [w] →
            bitsAt w 48 6 < 16 → (bitOf w 60 = true ∨ len ≤ 8) → (s.dev.canCtl (bitsAt w 48 6)).txq.length < txQueueSize →
            ∃ t, exec (.queueDescriptorTaken q .clean) s = .next t ∧ t.dev.regs = s.dev.regs ∧ t.dev.queue k = next ∧
              (t.dev.canCtl (bitsAt w 48 6)).txq = (s.dev.canCtl (bitsAt w 48 6)).txq ++ [copyFor f w] ∧
              t.dev.mem = memWrite s.dev.mem at_ (back St.ok 0 (stampFields (some (stampOf s.dev.alm.count 0 0))))))))

/-- A frame at a port without a link changes nothing; one at a port that takes no part, with a bad FCS, of a bad size, or
without a table entry is dropped and counted. A good frame whose entry forwards it to one external port, with no stream, is
stored at that port and class. The first frame of a class leaves an external port when its gate allows it and no higher
class may start; it is sent, with its departure time in a one-step Sync, memory stands where no descriptor waits for it, and
else the descriptor is written back with its departure. A port that may not start changes nothing. A gate list takes up the
entry whose interval the Almanac time lies in, and none before its start. A link change shows in TSN_STATUS and sets its
sticky bit. (R365, R366, R367, R368, R370, 11_time_and_networks.md) -/
def Obligations.SwitchFrames : Prop :=
  ∀ s : State, s.dev.live = true →
    let d := s.dev.begun
    let on := fun (n : Nat) => s.dev.portLink n = true ∧ s.dev.portOn n = true
    (∀ (p : Fin 12) (f : EthFrame),
      let bad := s.dev.portOn p = false ∨ f.fcsOk = false ∨ frameSize f.bytes < 64 ∨ 9216 < frameSize f.bytes
      let dropped := exec (.ethFrameReceive p f) s = .next { s with dev := d.dropFrame p }
      (s.dev.portLink p = false → exec (.ethFrameReceive p f) s = .next { s with dev := d }) ∧
      (s.dev.portLink p = true → bad → dropped) ∧
      (s.dev.portLink p = true → ¬ bad → s.dev.fdbMatch f.bytes = none → dropped) ∧
      (∀ entry (n : Fin 10), s.dev.portLink p = true → ¬ bad → s.dev.fdbMatch f.bytes = some entry →
        s.dev.streamFor entry = none → portsOf entry p = [n.val] → s.dev.unitOff (80 + n) = false →
        s.dev.frameBytes + frameSize f.bytes ≤ frameMemory →
        ∃ t, exec (.ethFrameReceive p f) s = .next t ∧ t.dev.mem = s.dev.mem ∧ t.dev.regs = s.dev.regs ∧
          t.dev.queues = s.dev.queues ∧ tgetD t.dev.sw.egress (8 * n + pcpOf f.bytes 0) [] =
            tgetD s.dev.sw.egress (8 * n + pcpOf f.bytes 0) [] ++
              [{ id := s.dev.nextId, bytes := f.bytes, oneStep := false, origin := none }] ∧
          ∀ e ≠ 8 * n.val + pcpOf f.bytes 0, tgetD t.dev.sw.egress e [] = tgetD s.dev.sw.egress e [])) ∧
    (∀ (n : Fin 10) (c : Fin 8),
      let k := 8 * n.val + c.val
      (tgetD s.dev.sw.egress k [] = [] ∨ ¬ on n ∨ s.dev.mayStart n c = false ∨ (∃ h : Fin 8, c < h ∧ s.dev.mayStart n h = true) →
        exec (.frameTransmitted n c) s = .next { s with dev := d }) ∧
      (∀ f rest, tgetD s.dev.sw.egress k [] = f :: rest → on n → s.dev.mayStart n c = true →
        (∀ h : Fin 8, c < h → s.dev.mayStart n h = false) →
        let time := stampOf s.dev.alm.count (s.dev.fld (Reg.tsnPortLat n) 16 16) 0
        ∃ t, exec (.frameTransmitted n c) s = .next t ∧ tgetD t.dev.sw.egress k [] = rest ∧
          (∀ e ≠ k, tgetD t.dev.sw.egress e [] = tgetD s.dev.sw.egress e []) ∧
          .frame n (if f.oneStep && isOneStep f.bytes then oneStepBytes f.bytes time else f.bytes) ∈ t.dev.sent ∧
          (f.origin = none → t.dev.mem = s.dev.mem ∧ t.dev.queues = s.dev.queues ∧ t.dev.regs = s.dev.regs) ∧
          ∀ q h raw, f.origin = some (q, h, raw) → s.dev.qRuns q = true → (s.dev.queue q).departing = true →
            (s.dev.queue q).head = h → (s.dev.queue q).back = none → s.dev.qVeto q = none →
            s.dev.portHolds (qPort q) (s.dev.qAddr q h) = false → s.dev.inMemory (s.dev.qAddr q h) 32 = true →
            (s.dev.ten (s.dev.qTenancy q)).log = none → t.dev.regs = s.dev.regs ∧
              t.dev.queue q = { s.dev.queue q with head := h + 1, departing := false, desc := none, got := [] } ∧
              t.dev.mem = memWrite s.dev.mem (s.dev.qAddr q h) (backBytes raw h (s.dev.qLog q) St.ok 0
                ([(0x0D, [BitVec.ofNat 8 c])] ++ stampFields (some time))))) ∧
    (∀ n : Fin 10,
      (s.dev.cfg = .running → s.dev.busy ≠ some .stop → s.dev.gclLength n ≠ 0 →
        s.dev.reg (Reg.tsnGclBase n) ≤ s.dev.ns →
        ∀ e < s.dev.gclLength n, (∀ j < e, s.dev.entryEnd n j ≤ s.dev.gclPhase n) →
          s.dev.gclPhase n < s.dev.entryEnd n e →
          exec (.gateListEntry n) s = .next { s with dev := (
            { d with sw := { s.dev.sw with gate := tput s.dev.sw.gate n (e + 1) } }) }) ∧
      (s.dev.gclLength n = 0 ∨ s.dev.ns < s.dev.reg (Reg.tsnGclBase n) → exec (.gateListEntry n) s = .next { s with dev := d }) ∧
      ∀ up : Bool,
        (s.dev.regBit Reg.tsnStatus n = up → exec (.ethLinkChange n up) s = .next { s with dev := d }) ∧
        (s.dev.regBit Reg.tsnStatus n ≠ up → ∃ t, exec (.ethLinkChange n up) s = .next t ∧ t.dev.mem = s.dev.mem ∧
          t.dev.regBit Reg.tsnStatus n = up ∧ t.dev.regBit Reg.tsnSticky 4 = true ∧ t.dev.sw = s.dev.sw ∧
          (∀ m < 10, m ≠ n.val → t.dev.regBit Reg.tsnStatus m = s.dev.regBit Reg.tsnStatus m) ∧
          ∀ a, a ≠ Reg.tsnStatus → a ≠ Reg.tsnSticky → t.dev.reg a = s.dev.reg a))

/-- Packets of a stream that takes none change nothing. A frame start begins a frame with the Almanac's time, in place of one
whose end is missing, or drops it where no buffer is free. A packet of a selected type in order is written behind the
64-byte tag line and the bytes before it; one with a wrong CRC counts, and drops the frame if its type is selected; one with
a wrong header counts and drops the frame; one of another type changes nothing. A whole unchecked frame gets its tag line
and CSI_SFILL rises; a short one is dropped. A drop counts and raises source 163 + 4p. A CSI_SREL value between the last one
and CSI_SFILL is taken, and any other sets bit 16 of CSI_STICKY. (R373, R374, R375, R376, R377, 11_time_and_networks.md) -/
def Obligations.CameraFrames : Prop :=
  ∀ s : State, s.dev.live = true →
    let d := s.dev.begun
    let passes := fun (a n : Nat) => ∀ l ∈ lineAddrs a n, s.dev.openLine l
    (∀ (p : Fin 4) (v : Fin 16),
      let n := 16 * p.val + v.val
      let x := s.dev.stream n
      let frames := fun (t : State) (f : Option CsiFrame) => t.dev.stream n = { x with frame := f } ∧
        ∀ m ≠ n, t.dev.stream m = s.dev.stream m
      let drops := fun (i : Instr) => ∃ t, exec i s = .next t ∧ frames t none ∧ t.dev.mem = s.dev.mem ∧
        t.dev.fld (Reg.csiSdrop n) 0 32 = min 0xFFFFFFFF (s.dev.fld (Reg.csiSdrop n) 0 32 + 1) ∧
        t.dev.regBit Reg.csiSticky (4 + p) = true ∧ 163 + 4 * p.val ∈ t.dev.herald.raised
      (s.dev.csiOn n = false → ∀ k : CsiPacket, ∀ i ∈ [Instr.frameStart p v, Instr.csiLongPacket p v k, Instr.frameEnd p v],
        exec i s = .next { s with dev := d }) ∧
      (s.dev.csiOn n = true → s.dev.unitOff (48 + p) = false →
        (countDiff x.fill x.rel ≠ s.dev.csiBuffers n → ∃ t, exec (.frameStart p v) s = .next t ∧ t.dev.mem = s.dev.mem ∧
          frames t (some { stamp := s.dev.ns, bytes := [] }) ∧
          (x.frame = none → t.dev.regs = s.dev.regs) ∧ (s.dev.csiLead n = true → 160 + 4 * p.val ∈ t.dev.herald.raised)) ∧
        (countDiff x.fill x.rel = s.dev.csiBuffers n → x.frame = none → drops (.frameStart p v)) ∧
        (∀ (f : CsiFrame) (k : CsiPacket), x.frame = some f →
          (k.headerOk = false → drops (.csiLongPacket p v k)) ∧
          (k.headerOk = true → k.stored = true →
            let selected := s.dev.regBit (Reg.csiSdt n) k.dataType.val
            let buf := s.dev.csiBuffer n + (64 + f.bytes.length)
            (k.crcOk = false → selected = true → drops (.csiLongPacket p v k)) ∧
            (k.crcOk = true → selected = false → exec (.csiLongPacket p v k) s = .next { s with dev := d }) ∧
            (k.crcOk = true → selected = true → s.dev.csiLength n < f.bytes.length + k.payload.length →
              drops (.csiLongPacket p v k)) ∧
            (k.crcOk = true → selected = true → f.bytes.length + k.payload.length ≤ s.dev.csiLength n →
              s.dev.vetoRole (s.dev.csiTenancy n) buf k.payload.length true false = none → s.dev.inMemory buf 1 = true →
              passes buf k.payload.length → (s.dev.ten (s.dev.csiTenancy n)).log = none → ∃ t, exec (.csiLongPacket p v k) s = .next t ∧
                frames t (some { f with bytes := f.bytes ++ k.payload }) ∧ t.dev.regs = s.dev.regs ∧
                t.dev.mem = memWrite s.dev.mem buf k.payload))) ∧
        (x.frame = none → ∃ t, exec (.frameEnd p v) s = .next t ∧ t.dev.csi = s.dev.csi ∧ t.dev.mem = s.dev.mem ∧
          t.dev.regs = s.dev.regs) ∧
        ∀ f : CsiFrame, x.frame = some f → s.dev.csiChecked n = false →
          (f.bytes.length < s.dev.csiLength n → drops (.frameEnd p v)) ∧
          (s.dev.csiLength n ≤ f.bytes.length →
            s.dev.vetoRole (s.dev.csiTenancy n) (s.dev.csiBuffer n) 64 true false = none →
            s.dev.inMemory (s.dev.csiBuffer n) 1 = true → passes (s.dev.csiBuffer n) 64 →
            (s.dev.ten (s.dev.csiTenancy n)).log = none →
            ∃ t, exec (.frameEnd p v) s = .next t ∧ t.dev.stream n = { x with fill := x.fill + 1, frame := none } ∧
              t.dev.regs = s.dev.regs ∧ (s.dev.csiLead n = true → 161 + 4 * p.val ∈ t.dev.herald.raised) ∧
              t.dev.mem = memWrite s.dev.mem (s.dev.csiBuffer n)
                (({ context := 0xFF, tenancy := BitVec.ofNat 8 (s.dev.csiTenancy n), frameValid := false,
                    ingressFail := false, seqTag := 0, frameCounter := x.fill, timestamp := f.stamp, frameCrc := 0 } :
                    Tags).bytes ++ List.replicate 40 0)))) ∧
    (∀ (who : Who) (n : Fin 64) (v : Half), s.dev.present who = true →
      let x := s.dev.stream n
      (countDiff x.fill v ≤ countDiff x.fill x.rel → exec (.csiSrelWrite who n v) s = .next { s with dev := (
        (d.reply .written).setStream n { x with rel := v }) }) ∧
      (countDiff x.fill x.rel < countDiff x.fill v → exec (.csiSrelWrite who n v) s = .next { s with dev := (
        (d.reply .written).orReg Reg.csiSticky 0x10000) }))

/-- A frame at a controller that takes part is routed: its copy for one controller joins that transmit queue, and a frame
without a route and without a default host queue is dropped and counted. The frame of lowest rank leaves, except from a
controller that only listens. An error raises an error count and the confinement state follows the counts; a transmit count
above 255 takes the controller off its bus, and bus off is kept until recovery, which needs auto_recover or a write of the
mode and clears the counts. Nothing else moves, and a controller that takes no part changes nothing. A received ACF frame of
a stream is routed message by message, and dropped and counted where it is malformed. At the end of its hold a transmitting
stream sends what it has gathered, and its sequence number goes on. (R379, R381, R382, R383, R384, R385,
11_time_and_networks.md) -/
def Obligations.CanAndAcf : Prop :=
  ∀ s : State, s.dev.live = true →
    let d := s.dev.begun
    let sole := fun (off : Nat) (w : Word) =>
      (((List.range 4).map fun j => s.dev.reg (off + 16 + 8 * j)).filter fun w => bitOf w 63) = [w]
    let joins := fun (t : State) (f : CanFrame) (w : Word) => let j := bitsAt w 48 6
      (t.dev.canCtl j).txq = (s.dev.canCtl j).txq ++ [copyFor f w] ∧ t.dev.mem = s.dev.mem ∧ t.dev.regs = s.dev.regs ∧
        t.dev.acf = s.dev.acf ∧ t.dev.queues = s.dev.queues
    let fits := fun (f : CanFrame) (w : Word) => bitsAt w 48 6 < 16 ∧ (bitOf w 60 = true ∨ f.data.length ≤ 8) ∧
      (s.dev.canCtl (bitsAt w 48 6)).txq.length < txQueueSize
    let lost := fun (t : State) (bit : Nat) => t.dev.regBit Reg.gwySticky bit = true ∧ t.dev.mem = s.dev.mem ∧
      t.dev.acf = s.dev.acf ∧ t.dev.queues = s.dev.queues ∧
      t.dev.fld Reg.gwyOtherDrops 0 32 = min 0xFFFFFFFF (s.dev.fld Reg.gwyOtherDrops 0 32 + 1)
    (∀ k : Fin 16,
      let c := s.dev.canCtl k
      (∀ f : CanFrame, Instr.wellFormed (.canFrameReceived k f) = true →
        (s.dev.canUp k = false ∨ (f.fdf = true ∧ s.dev.canMode k = 1) →
          exec (.canFrameReceived k f) s = .next { s with dev := d }) ∧
        (s.dev.canUp k = true → (f.fdf = true → s.dev.canMode k ≠ 1) →
          (∀ off w, s.dev.routeFor k f = some off → sole off w → fits f w →
            ∃ t, exec (.canFrameReceived k f) s = .next t ∧ joins t f w ∧ (t.dev.canCtl k).rxErr ≤ max c.rxErr 119) ∧
          (s.dev.routeFor k f = none → s.dev.regBit Reg.gwyCtrl 0 = false →
            ∃ t, exec (.canFrameReceived k f) s = .next t ∧ lost t 1 ∧ t.dev.canCtl k = c.received))) ∧
      (s.dev.canUp k = false ∨ s.dev.canMode k = 3 ∨ c.txq = [] →
        exec (.canFrameTransmitted k) s = .next { s with dev := d }) ∧
      (s.dev.canUp k = true → s.dev.canMode k ≠ 3 → c.txq ≠ [] → ∃ f ∈ c.txq, (∀ g ∈ c.txq, arbRank f ≤ arbRank g) ∧
        ∃ t, exec (.canFrameTransmitted k) s = .next t ∧ t.dev.sent = [.can k f] ∧ (t.dev.canCtl k).txq = c.txq.erase f ∧
          (t.dev.canCtl k).txErr = c.txErr - 1 ∧ t.dev.mem = s.dev.mem ∧ t.dev.regs = s.dev.regs ∧
          ∀ j ≠ k.val, t.dev.canCtl j = s.dev.canCtl j) ∧
      (s.dev.canUp k = false → ∀ a b, exec (.canErrorDetected k a b) s = .next { s with dev := d }) ∧
      (s.dev.canUp k = true →
        (∀ a b : Bool, ∃ t, exec (.canErrorDetected k a b) s = .next t ∧ (t.dev.canCtl k).txq = c.txq ∧
          (t.dev.canCtl k).txErr = (if a then c.txErr + 8 else c.txErr) ∧
          (t.dev.canCtl k).rxErr = (if a then c.rxErr else min 255 (c.rxErr + if b then 8 else 1)) ∧
          ((t.dev.canCtl k).conf = .passive ↔ 127 < (t.dev.canCtl k).txErr ∨ 127 < (t.dev.canCtl k).rxErr) ∧
          t.dev.mem = s.dev.mem ∧ t.dev.regs = s.dev.regs ∧ ∀ j ≠ k.val, t.dev.canCtl j = s.dev.canCtl j)) ∧
      (let leaves := s.dev.gatewayOn = true ∧ s.dev.canMode k ≠ 0 ∧ s.dev.unitOff (64 + k) = false ∧ c.conf ≠ .busOff ∧ 255 < c.txErr
       (leaves → exec (.canBusOff k) s = .next { s with dev := d.setCan k { c with conf := .busOff, txErr := 255 } }) ∧
       (¬ leaves → exec (.canBusOff k) s = .next { s with dev := d })) ∧
      (let returns := c.conf = .busOff ∧ s.dev.canOn k = true ∧ s.dev.unitOff (64 + k) = false ∧
         (c.restart = true ∨ s.dev.regBit (Reg.gwyCanCtrl k) 2 = true)
       (returns → exec (.busOffRecovery k) s = .next { s with dev := (
         d.setCan k { c with conf := .active, txErr := 0, rxErr := 0, restart := false }) }) ∧
       (¬ returns → exec (.busOffRecovery k) s = .next { s with dev := d }))) ∧
    (∀ f : EthFrame,
      (s.dev.gatewayOn = false ∨ s.dev.acfStreamOf f.bytes = none → exec (.acfFrameReceive f) s = .next { s with dev := d }) ∧
      ∀ n, s.dev.gatewayOn = true → s.dev.acfStreamOf f.bytes = some n →
        (s.dev.acfData n f.bytes = none → ∃ t, exec (.acfFrameReceive f) s = .next t ∧ lost t 4 ∧ t.dev.can = s.dev.can) ∧
        ∀ m g bus off w, s.dev.acfData n f.bytes = some m → m ≠ [] → acfParse m = some (g, bus, []) →
          lengthOk g.data.length = true → s.dev.routeFor (16 + n) g = some off → sole off w → fits g w →
          ∃ t, exec (.acfFrameReceive f) s = .next t ∧ joins t g w) ∧
    (∀ n : Fin 32,
      let x := tgetD s.dev.acf n AcfTx.empty
      (s.dev.gatewayOn = false ∨ s.dev.acfDir n true = false ∨ x.messages = [] →
        exec (.acfHoldExpire n) s = .next { s with dev := d }) ∧
      (s.dev.gatewayOn = true → s.dev.acfDir n true = true → x.messages ≠ [] →
        ∃ t, exec (.acfHoldExpire n) s = .next t ∧ t.dev.mem = s.dev.mem ∧ t.dev.can = s.dev.can ∧
          tgetD t.dev.acf n AcfTx.empty = { messages := [], seq := x.seq + 1 } ∧
          (∀ m ≠ n.val, tgetD t.dev.acf m AcfTx.empty = tgetD s.dev.acf m AcfTx.empty) ∧
          (s.dev.fdbMatch (s.dev.acfFrame n x ++ List.replicate (60 - (s.dev.acfFrame n x).length) 0) = none →
            t.dev.fld (Reg.tsnDrop 11) 0 32 = min 0xFFFFFFFF (s.dev.fld (Reg.tsnDrop 11) 0 32 + 1))))

/-- A refresh less than 5 µs after the last, and a poll less than 20 µs after the last, change nothing. Else a refresh counts
hw_count up and puts the status block into TWN_OWN, and a poll is sent on every link that is up, and a poll request is
answered with the block as last refreshed and the Almanac now. An answer to an outstanding poll is put into TWN_PEER, ends
the poll, sets peer_ok, the peer's pin bits and the sticky bits of a standing hw_count, a standing heartbeat and an equal
rank. A second poll in a row without an answer clears peer_ok and sets its sticky bit. The device of low rank backs off its
own chunk once while the peer's is in progress; the end of the peer's chunk ends both. A device without a twin, or a link
without a poll, changes nothing, and memory stands. (R387, R389, R390, R391, 11_time_and_networks.md) -/
def Obligations.TwinPolls : Prop :=
  ∀ s : State, s.dev.live = true →
    let d := s.dev.begun
    let stands := fun (i : Instr) => exec i s = .next { s with dev := d }
    (s.dev.isTwin = false → stands .twinStatusRefresh ∧ stands .twinPoll ∧
      ∀ l : Fin 2, stands (.twinPollRequest l) ∧ stands (.twinChunkEnd l) ∧ stands (.twinBackoff l)) ∧
    (s.dev.tooSoon .twinRefresh = true → stands .twinStatusRefresh) ∧ (s.dev.tooSoon .twinPoll = true → stands .twinPoll) ∧
    (s.dev.isTwin = true → s.dev.tooSoon .twinRefresh = false → ∃ t, exec .twinStatusRefresh s = .next t ∧ t.dev.hwCount = s.dev.hwCount + 1 ∧
      t.dev.ownBlock = { d with hwCount := s.dev.hwCount + 1 }.statusBlock ∧ t.dev.mem = s.dev.mem ∧
      ∀ a, (∀ w < 16, a ≠ Reg.twnOwn w) → t.dev.reg a = s.dev.reg a) ∧
    (s.dev.tooSoon .twinPoll = false → ∃ t, exec .twinPoll s = .next t ∧ t.dev.regs = s.dev.regs ∧ t.dev.mem = s.dev.mem ∧ ∀ l : Fin 2,
      (t.dev.twin l).polling = (s.dev.twinUp l || (s.dev.twin l).polling) ∧
      (Output.twinPoll l ∈ t.dev.sent ↔ s.dev.twinUp l = true)) ∧
    ∀ l : Fin 2,
      let x := s.dev.twin l
      (s.dev.twinUp l = true → exec (.twinPollRequest l) s = .next { s with dev := (
        { d with sent := [.twinBlock l ((s.dev.ownBlock.set 2 (s.dev.ns.setWidth 32)).set 3 ((s.dev.ns >>> 32).setWidth 32))] }) }) ∧
      (x.polling = false → stands (.twinPollTimeout l) ∧
        ∀ b : List Half, b.length = 16 → stands (.twinPollAnswer l b)) ∧
      (x.polling = true →
        (∀ b : List Half, b.length = 16 → ∃ t, exec (.twinPollAnswer l b) s = .next t ∧ t.dev.mem = s.dev.mem ∧
          (t.dev.twin l).polling = false ∧ (t.dev.twin l).missed = 0 ∧ (t.dev.twin l).hwCount = some (b.getD 1 0) ∧
          (∀ w < 16, t.dev.reg (Reg.twnPeer l w) = wordOf (b.getD w 0)) ∧
          t.dev.regBit Reg.twnStatus (3 + l) = true ∧
          t.dev.regBit Reg.twnStatus (5 + l) = !(b.getD 0 0).getLsbD 16 ∧
          t.dev.regBit Reg.twnStatus (7 + l) = !(b.getD 0 0).getLsbD 17 ∧
          t.dev.regBit Reg.twnSticky (2 + l) = (s.dev.regBit Reg.twnSticky (2 + l) || decide (x.hwCount = some (b.getD 1 0))) ∧
          t.dev.regBit Reg.twnSticky (4 + l) = (s.dev.regBit Reg.twnSticky (4 + l) ||
            decide (x.heartbeat = some (b.getD 4 0) ∧ max 1 (s.dev.fld Reg.twnCtrl 8 8) ≤ x.hbSame + 1)) ∧
          t.dev.regBit Reg.twnSticky (6 + l) = (s.dev.regBit Reg.twnSticky (6 + l) || ((b.getD 0 0).getLsbD 18 == s.dev.rank)) ∧
          ∀ a, a ≠ Reg.twnStatus → a ≠ Reg.twnSticky → (∀ w < 16, a ≠ Reg.twnPeer l w) → t.dev.reg a = s.dev.reg a) ∧
        (x.missed = 0 → exec (.twinPollTimeout l) s = .next { s with dev := (
          d.setTwin l { x with polling := false, missed := 1 }) }) ∧
        (x.missed ≠ 0 → ∃ t, exec (.twinPollTimeout l) s = .next t ∧ t.dev.regBit Reg.twnStatus (3 + l) = false ∧
          t.dev.regBit Reg.twnSticky l = true ∧ t.dev.twin l = { x with polling := false, missed := x.missed + 1 } ∧
          t.dev.mem = s.dev.mem)) ∧
      (s.dev.isTwin = true →
        exec (.twinChunkEnd l) s = .next { s with dev := d.setTwin l { x with peerChunk := false, backedOff := false } } ∧
        (s.dev.rank = true ∨ x.peerChunk = false ∨ x.backedOff = true ∨ s.dev.ownChunk l = false → stands (.twinBackoff l)) ∧
        (s.dev.rank = false → x.peerChunk = true → x.backedOff = false → s.dev.ownChunk l = true →
          ∃ t, exec (.twinBackoff l) s = .next t ∧ t.dev.twin l = { x with backedOff := true } ∧ t.dev.mem = s.dev.mem ∧
            t.dev.fld Reg.twnBackoffs 0 32 = min 0xFFFFFFFF (s.dev.fld Reg.twnBackoffs 0 32 + 1) ∧
            t.dev.regBit Reg.twnSticky (8 + l) = true))

/-- A command written while another is busy, by a requester that may not write it, or in a state that does not take it only
records its result. LOAD leads to LOADING with every register value and count kept. SEAL makes its checks, and its
completion leads to SEALED, with the digest shown, where every check passes, else to REFUSED with the first failure in
CFG_REFUSAL. RUN takes the operating point of CFG_OPP up. STOP leads from SEALED and REFUSED to EMPTY, and in RUNNING tears
every OPEN context down. SLEEP lowers RAIL_EN and loses memory, where a wake is enabled. RESET holds the units in reset,
memory standing. The outputs of CTL_OUT change in RUNNING only. Each of the others leaves memory and contexts as they are.
(R405, R406, R408, R410, R412, R416, R440, 12_startup_security_power.md) -/
def Obligations.ConfigurationCommands : Prop :=
  ∀ (who : Who) (s : State), s.dev.live = true → s.dev.present who = true →
    let d := s.dev.begun
    let r := d.reply .written
    (∀ e ∈ [(Instr.cfgLoad who, false, [CfgState.empty, .refused]), (.seal who, false, [.loading]),
          (.cfgRun who, true, [.sealed]), (.cfgStop who, false, [.sealed, .running, .refused]), (.sleep who, true, [.empty]),
          (.reset who, true, [.empty, .loading, .sealed, .running, .refused])],
      (s.dev.busy ≠ none → exec e.1 s = .next { s with dev := { r with lastResult := 3 } }) ∧
      (s.dev.busy = none → e.2.1 = true → whoIsIsland who = false → exec e.1 s = .next { s with dev := { r with lastResult := 2 } }) ∧
      (s.dev.busy = none → (e.2.1 = true → whoIsIsland who = true) → s.dev.cfg ∉ e.2.2 →
        exec e.1 s = .next { s with dev := { r with lastResult := 1 } })) ∧
    (s.dev.busy = none →
      (s.dev.cfg = .empty ∨ s.dev.cfg = .refused → ∃ t, exec (.cfgLoad who) s = .next t ∧ t.dev.cfg = .loading ∧
        t.dev.queues = s.dev.queues ∧ t.dev.csi = s.dev.csi ∧ t.dev.regs = s.dev.regs ∧ t.dev.mem = s.dev.mem ∧ t.dev.ctxs = s.dev.ctxs ∧
        t.dev.lastResult = 0 ∧ 72 ∈ t.dev.herald.raised) ∧
      (s.dev.cfg = .loading → exec (.seal who) s = .next { s with dev := { r with lastResult := 0, busy := some .seal } }) ∧
      (s.dev.cfg = .sealed → whoIsIsland who = true → ∃ t, exec (.cfgRun who) s = .next t ∧ t.dev.busy = some .run ∧
        t.dev.cfg = .sealed ∧ t.dev.gov.takeUp = some (BitVec.ofNat 2 (s.dev.fld Reg.cfgOpp 0 2)) ∧ t.dev.mem = s.dev.mem ∧
        t.dev.ctxs = s.dev.ctxs ∧ t.dev.lastResult = 0) ∧
      (s.dev.cfg = .sealed ∨ s.dev.cfg = .refused →
        exec (.cfgStop who) s = .next { s with dev := ({ r with lastResult := 0 }.enter .empty) }) ∧
      (s.dev.cfg = .running → (∃ c, (s.dev.ctx c).st = .opened) → ∃ t, exec (.cfgStop who) s = .next t ∧
        t.dev.busy = some .stop ∧ t.dev.cfg = .running ∧ t.dev.mem = s.dev.mem ∧ t.dev.regs = s.dev.regs ∧
        (∀ c, (s.dev.ctx c).st = .opened → (t.dev.ctx c).st = .tearing ∧
          (t.dev.ctx c).teardown.map (·.status) = some St.aborted) ∧
        ∀ c, (s.dev.ctx c).st ≠ .opened → (∀ e ∈ s.dev.ctxs, e.1 = c → e.2.st ≠ .opened) → t.dev.ctx c = s.dev.ctx c) ∧
      (s.dev.cfg = .empty → whoIsIsland who = true →
        (s.dev.fld Reg.cfgWake 0 12 = 0 → exec (.sleep who) s = .next { s with dev := { r with lastResult := 4 } }) ∧
        (s.dev.fld Reg.cfgWake 0 12 ≠ 0 → ∃ t, exec (.sleep who) s = .next t ∧ t.dev.power.railEn = false ∧
          t.dev.power.phase = .asleep ∧ t.dev.mem = [] ∧ t.dev.regs = s.dev.regs ∧ t.dev.alm = s.dev.alm ∧
          t.dev.live = false)) ∧
      (whoIsIsland who = true → ∃ t, exec (.reset who) s = .next t ∧ t.dev.power.phase = .held ∧
        t.dev.power.start = .warmReset ∧ t.dev.cfg = .empty ∧ t.dev.ctxs = [] ∧ t.dev.mem = s.dev.mem ∧
        t.dev.alm = s.dev.alm ∧ t.dev.live = false)) ∧
    (s.dev.busy ≠ some .seal → exec .sealComplete s = .next { s with dev := d }) ∧
    (s.dev.busy = some .seal → ∃ t, exec .sealComplete s = .next t ∧ t.dev.busy = none ∧ t.dev.mem = s.dev.mem ∧
      t.dev.ctxs = s.dev.ctxs ∧ 72 ∈ t.dev.herald.raised ∧ ∀ digest, digest = sha512 d.image →
        (d.sealVeto digest = none → t.dev.cfg = .sealed ∧ t.dev.getBytes (Reg.secCfgDigest 0) 16 = digest) ∧
        ∀ k i, d.sealVeto digest = some (k, i) → t.dev.cfg = .refused ∧ t.dev.regBit Reg.cfgSticky 0 = true ∧
          t.dev.reg Reg.cfgRefusal = BitVec.ofNat 64 (i * 2 ^ 16 + k)) ∧
    (∀ v : Half,
      (s.dev.cfg = .running →
        exec (.cfgCtlOutSet who v) s = .next { s with dev := (
          r.setReg Reg.cfgCtlOut (s.dev.reg Reg.cfgCtlOut ||| (v.setWidth 16).setWidth 64)) } ∧
        exec (.cfgCtlOutClr who v) s = .next { s with dev := (
          r.setReg Reg.cfgCtlOut (s.dev.reg Reg.cfgCtlOut &&& ~~~((v.setWidth 16).setWidth 64))) }) ∧
      (s.dev.cfg ≠ .running → ∀ i ∈ [Instr.cfgCtlOutSet who v, Instr.cfgCtlOutClr who v],
        exec i s = .next { s with dev := r }))

/-- ATTEST from the fabric bridge is turned away. With an identity, no attestation in progress and a 64-byte-aligned target of
512 bytes in the DDR or the Quarry it begins one; else it sets the refused bit. Its completion writes the report and its
signature at the target and ends it. RAISE_FLOOR, from an island hart, asks the flash for the record with the new floor, the
revocations added and the counter one up, unless the floor would pass the running version or fall, or the running root key
would be revoked. Whatever becomes of it, floor_done is 0 from then on until a write succeeds. The end of the write takes
the record over where the flash answers with status 0 and the record read back authenticates as the one written, and sets
the sticky bit where not. Registers of no other block and no context change. (R398, R401, R403, R404,
12_startup_security_power.md) -/
def Obligations.AttestationAndFloor : Prop :=
  ∀ s : State, s.dev.live = true →
    let d := s.dev.begun
    let target := (s.dev.reg Reg.secAttAddr).toNat
    (∀ who : Who, s.dev.present who = true →
      let r := d.reply .written
      (whoIsBridge who = true → exec (.attest who) s = .next { s with dev := d.reply .error }) ∧
      (whoIsBridge who = false →
        (s.dev.sec.identity = true → s.dev.sec.attest = none → target % 64 = 0 → s.dev.inMemory target 512 = true →
          exec (.attest who) s = .next { s with dev := (
            { r with sec := { s.dev.sec with attest := some target } }.orReg Reg.secStatus 4) }) ∧
        (s.dev.sec.identity = false ∨ s.dev.sec.attest ≠ none ∨ target % 64 ≠ 0 ∨ s.dev.inMemory target 512 = false →
          exec (.attest who) s = .next { s with dev := r.orReg Reg.secSticky 0x10 })) ∧
      (whoIsIsland who = false → exec (.raiseFloor who) s = .next { s with dev := d.reply .error }) ∧
      (whoIsIsland who = true →
        (s.dev.sec.record = none ∨ s.dev.sec.writing ≠ none → exec (.raiseFloor who) s = .next { s with dev := r.clrReg Reg.secStatus 8 }) ∧
        ∀ x w, s.dev.sec.record = some x → s.dev.sec.writing = none →
          w = RpRecord.mk (BitVec.ofNat 32 (s.dev.fld Reg.secFloorReq 0 32))
            (x.revoke ||| BitVec.ofNat 4 (s.dev.fld Reg.secFloorReq 32 4)) (x.counter + 1) →
          let bad := s.dev.boot.version < w.floor ∨ w.floor < x.floor ∨ w.revoke.getLsbD s.dev.boot.rootIndex.toNat = true
          (bad → exec (.raiseFloor who) s = .next { s with dev := r.clrReg Reg.secStatus 8 }) ∧
          (¬ bad → ∃ t, exec (.raiseFloor who) s = .next t ∧ t.dev.sec.writing = some w ∧ t.dev.sec.record = some x ∧
            t.dev.regBit Reg.secStatus 3 = false ∧ t.dev.sent = [.flashCommand 0x9B (w.bytes (recordKey s.dev.helperData) (Config.nonce s.dev.freeIndex))] ∧
            t.dev.freeIndex = s.dev.freeIndex + 1 ∧ t.dev.mem = s.dev.mem ∧
            ∀ a ≠ Reg.secStatus, t.dev.reg a = s.dev.reg a))) ∧
    (s.dev.sec.attest = none → exec .attestComplete s = .next { s with dev := d }) ∧
    (∀ a, s.dev.sec.attest = some a → ∃ t, exec .attestComplete s = .next t ∧ t.dev.sec = { s.dev.sec with attest := none } ∧
      t.dev.mem = memWrite s.dev.mem a (s.dev.reportBody ++ edSign (identityKey s.dev.helperData) (sha512 s.dev.reportBody)) ∧
      t.dev.regBit Reg.secStatus 2 = false ∧ t.dev.ctxs = s.dev.ctxs ∧ ∀ b ≠ Reg.secStatus, t.dev.reg b = s.dev.reg b) ∧
    ∀ (status : Byte) (bytes : List Byte),
      (s.dev.sec.writing = none → exec (.floorWriteComplete status bytes) s = .next { s with dev := d }) ∧
      ∀ w, s.dev.sec.writing = some w → ∃ t, exec (.floorWriteComplete status bytes) s = .next t ∧ t.dev.sec.writing = none ∧
        let ok := status = 0 ∧ recordAuthentic (recordKey s.dev.helperData) (Config.nonce s.dev.freeIndex) bytes = true ∧
          recordOf bytes = w
        (ok → t.dev.sec.record = some w) ∧ (¬ ok → t.dev.sec.record = s.dev.sec.record) ∧ t.dev.mem = s.dev.mem ∧
        t.dev.sent = [.flashCommand 0x9A (bytesOfNat 16 (Config.nonce s.dev.freeIndex).toNat)] ∧
        (ok → t.dev.regBit Reg.secStatus 3 = true) ∧ (¬ ok → t.dev.regBit Reg.secSticky 3 = true) ∧
        ∀ a, a ≠ Reg.secStatus → a ≠ Reg.secSticky → t.dev.reg a = s.dev.reg a

/-- A temperature reading, a patrol of a channel and the end of a count window change nothing less than 1 ms, 20 µs and
DDR_CNT_WINDOW ticks after the last. Else a temperature reading sets the channel's hot bit, and above 95 degrees its sticky
bit. A refresh counts and changes nothing else. A clean patrol changes nothing, a corrected word counts, and an
uncorrectable one is recorded, the first with its address and time. The end of a count window shows the counts; a half with
a short class takes the step that throttles BEST if it is not in force, with its records and source 69; a half without one
counts a clean window, and each from the 64th on undoes the last step. Where the Foreman works, a page that the next step of
a job on a cluster needs is copied into a free place of the pool and counted; a page that no step needs changes nothing. A
free cluster takes the ready job of highest priority of the contexts resident on it; a job whose pages are all there begins
its step with the pages as they stand; the end of a step counts it and keeps a job that is not done on its cluster. What a
step needs and writes is the model's free value (log entry 18). (R174, R181, R182, R183, R194, R197, R198, R199, R233, R235,
06_memory_system.md, 07_contexts_and_calendar.md) -/
def Obligations.MemoryUnitsAndForeman : Prop :=
  ∀ s : State, s.dev.live = true →
    let d := s.dev.begun
    let corrects := fun (i : Instr) (a n : Nat) => ∃ t, exec i s = .next t ∧ t.dev.mem = s.dev.mem ∧
      t.dev.fld a 0 16 = min 0xFFFF (s.dev.fld a 0 16 + n) ∧ ∀ b ≠ a, t.dev.reg b = s.dev.reg b
    (∀ c : Fin 8, (s.dev.tooSoon (.temperature c) = true → ∀ hot tooHot, exec (.ddrTempRead c hot tooHot) s = .next { s with dev := d }) ∧
      (s.dev.tooSoon (.patrol c) = true → ∀ a e, exec (.ddrPatrol c a e) s = .next { s with dev := d }) ∧
      (s.dev.tooSoon .countWindow = true → ∀ w, exec (.ddrCountWindowEnd w) s = .next { s with dev := d })) ∧
    (∀ (c : Fin 8) (hot tooHot : Bool), s.dev.tooSoon (.temperature c) = false → ∃ t, exec (.ddrTempRead c hot tooHot) s = .next t ∧ t.dev.mem = s.dev.mem ∧
      t.dev.regBit Reg.ddrStatus (8 + c) = (hot || tooHot) ∧
      t.dev.regBit Reg.ddrSticky (16 + c) = (s.dev.regBit Reg.ddrSticky (16 + c) || tooHot) ∧
      ∀ a, a ≠ Reg.ddrStatus → a ≠ Reg.ddrSticky → t.dev.reg a = s.dev.reg a) ∧
    (∀ (c : Fin 8) (m : Bool), exec (.ddrRefresh c m) s = .next { s with dev := (
      let k := 2 * c.val + if m then 1 else 0
      { d with refreshes := tputD s.dev.refreshes k (tgetD s.dev.refreshes k 0 + 1) 0 }) }) ∧
    (∀ (q : Fin 2) (l : Fin 3145728),
      let a := 0x4000000000 + q.val * 0xC000000 + 64 * l.val
      exec (.quarryPatrol q l .clean) s = .next { s with dev := d } ∧
      (∀ w, (∀ i ∈ w, i < 64) → corrects (.quarryPatrol q l (.corrected w)) (Reg.qryCe q) w.length) ∧
      ∀ i < 64, ∃ t, exec (.quarryPatrol q l (.uncorrectable i)) s = .next t ∧ t.dev.mem = s.dev.mem ∧
        t.dev.regBit Reg.qrySticky q = true ∧ t.dev.regBit Reg.safFaultLatch 9 = true ∧
        (if s.dev.fld Reg.qrySticky 0 2 = 0 then
          t.dev.reg Reg.qryUeAddr = BitVec.ofNat 64 (a + i) ∧ t.dev.reg Reg.qryUeTime = s.dev.ns
        else t.dev.reg Reg.qryUeAddr = s.dev.reg Reg.qryUeAddr ∧ t.dev.reg Reg.qryUeTime = s.dev.reg Reg.qryUeTime)) ∧
    (∀ (c : Fin 8) (a : Nat), a < 2 * s.dev.ddrHalf → s.dev.channelOf a = c.val → a % 64 = 0 → s.dev.tooSoon (.patrol c) = false →
      exec (.ddrPatrol c a .clean) s = .next { s with dev := d.noted (.patrol c) } ∧
      (∀ w, (∀ i ∈ w, i < 64) → corrects (.ddrPatrol c a (.corrected w)) (Reg.ddrCe c) w.length) ∧
      ∀ i < 64, ∃ t, exec (.ddrPatrol c a (.uncorrectable i)) s = .next t ∧ t.dev.mem = s.dev.mem ∧
        t.dev.regBit Reg.ddrSticky (8 + c) = true ∧ t.dev.regBit Reg.safFaultLatch 9 = true ∧
        (s.dev.fld Reg.ddrSticky 8 8 = 0 → t.dev.reg Reg.ddrUeAddr = BitVec.ofNat 64 (a + i) ∧ t.dev.reg Reg.ddrUeTime = s.dev.ns)) ∧
    (∀ w : DdrWindow, s.dev.tooSoon .countWindow = false → ∃ t, exec (.ddrCountWindowEnd w) s = .next t ∧ t.dev.mem = s.dev.mem ∧ t.dev.ctxs = s.dev.ctxs ∧
      (∀ i c : Fin 8, t.dev.reg (Reg.ddrBytes i c) = BitVec.ofNat 64 (s.dev.servedBytes i c % 2 ^ 32)) ∧
      (∀ (i : Fin 2) (c : Fin 8), t.dev.reg (Reg.qryBytes i c) = BitVec.ofNat 64 (s.dev.servedBytes (8 + i) c / 64 % 2 ^ 32)) ∧
      t.dev.served = [] ∧
      ∀ i : Fin 2, let h := fun (d : Device) => if i = 0 then d.half0 else d.half1
        (s.dev.shortClasses w i = [] → (h t.dev).clean = min 64 ((h s.dev).clean + 1) ∧
          (h t.dev).steps = (if 63 ≤ (h s.dev).clean then (h s.dev).steps.drop 1 else (h s.dev).steps)) ∧
        (s.dev.shortClasses w i ≠ [] → (h t.dev).clean = 0 ∧
          (8 ∉ (h s.dev).steps → (h t.dev).steps = 8 :: (h s.dev).steps ∧ 69 ∈ t.dev.herald.raised ∧
            t.dev.regBit Reg.safFaultLatch 12 = true ∧ t.dev.regBit Reg.mrgThrottleSticky i = true) ∧
          ∀ c : Fin 8, c.val ∈ s.dev.shortClasses w i → t.dev.regBit Reg.mrgShortSticky (8 * i + c) = true)) ∧
    (∀ (p : Fin 16) (c : Fin 256) (n a slot : Nat) (j : FmJob), s.dev.foremanOn p = true →
      ((s.dev.readyJobs p).find? fun j => j.ctx = c.val && j.cluster.isSome) = some j → s.dev.backing c n = some a →
      s.dev.freePlace p = some slot → a % 64 = 0 → s.dev.rangeOff a pageBytes = false →
      s.dev.rangeOff (s.dev.slotAddr p slot) pageBytes = false →
      (∀ o < pageBytes, o % 64 = 0 → s.dev.openLine (a + o) ∧ s.dev.openLine (s.dev.slotAddr p slot + o)) →
      ∃ t, exec (.foremanPageIn p c n .clean) s = .next t ∧
        (n ∉ s.dev.missing p j → t = { s with dev := d }) ∧
        (n ∈ s.dev.missing p j → t.dev.fld Reg.fmnPageIns 0 32 = min 0xFFFFFFFF (s.dev.fld Reg.fmnPageIns 0 32 + 1) ∧
          (∃ x ∈ t.dev.pool p, x.slot = slot ∧ x.ctx = j.ctx ∧ x.page = n) ∧
          ((∃ m ∈ s.dev.missing p j, m ≠ n) →
            t.dev.mem = memWrite s.dev.mem (s.dev.slotAddr p slot) (s.dev.rd a pageBytes)))) ∧
    ∀ (p : Fin 16) (k : Fin 24) (j : FmJob), s.dev.foremanOn p = true → inMask (s.dev.partMask p) k = true →
      s.dev.unitOff k = false → (s.dev.freePlace p).isSome = true →
      (∀ y ∈ s.dev.pool p, s.dev.rangeOff (s.dev.slotAddr p y.slot) pageBytes = false ∧
        s.dev.portHolds k (s.dev.slotAddr p y.slot) = false) →
      let keeps := fun (t : State) (done : Nat) (f : FmJob → Prop) =>
        ∃ i ∈ t.dev.jobs, i.ctx = j.ctx ∧ i.index = j.index ∧ i.cluster = some k.val ∧ i.done = done ∧ f i
      let own := (s.dev.readyJobs p).find? fun j => j.cluster = some k.val
      (own = none → bestJob ((s.dev.jobsFor p k).filter fun j => j.cluster.isNone) = some j →
        ∃ t, exec (.foremanStepEnd p k) s = .next t ∧ t.dev.mem = s.dev.mem ∧ t.dev.regs = s.dev.regs ∧
          keeps t j.done fun _ => True) ∧
      (own = some j → j.inputs = none → ∃ t, exec (.foremanStepEnd p k) s = .next t ∧ t.dev.mem = s.dev.mem ∧
        (s.dev.missing p j ≠ [] → t = { s with dev := d }) ∧
        (s.dev.missing p j = [] →
          keeps t j.done fun i => i.inputs = some ((s.dev.jobSlots p j).map fun a => s.dev.rd a pageBytes))) ∧
      (own = some j → j.inputs.isSome = true → ((s.dev.jobsFor p k).filter fun j => j.cluster.isNone) = [] →
        (∃ q, s.dev.jobPackage j = some q ∧ j.done + 1 < q.steps) → ∃ t, exec (.foremanStepEnd p k) s = .next t ∧
          keeps t (j.done + 1) fun _ => True)
end

