-- ==== Sys2Proof/Laws/Store.lean ====
section
/-!
SUPPORT. The laws of sparse tables and of memory: what reads after writes give, and that every operation keeps the canonical
form.
-/

namespace Sys2Proof.Machine

variable {α : Type}

/-! ### Sorted tables -/

/-- A table sorted from a bound is sorted from every lower one. -/
theorem tsortedFrom_mono {lo lo' : Nat} {m : Table α} (h : tsortedFrom lo m = true) (hle : lo' ≤ lo) :
    tsortedFrom lo' m = true := by
  cases m with
  | nil => rfl
  | cons e m =>
    simp only [tsortedFrom, Bool.and_eq_true, decide_eq_true_eq] at h ⊢
    exact ⟨by omega, h.2⟩

/-- Setting a key at or above the bound keeps a table sorted. -/
theorem tsortedFrom_tput {lo k : Nat} {m : Table α} (v : α) (h : tsortedFrom lo m = true) (hk : lo ≤ k) :
    tsortedFrom lo (tput m k v) = true := by
  induction m generalizing lo with
  | nil => simp [tput, tsortedFrom, hk]
  | cons e m ih =>
    obtain ⟨j, w⟩ := e
    simp only [tsortedFrom, Bool.and_eq_true, decide_eq_true_eq] at h
    unfold tput
    split
    · simp only [tsortedFrom, Bool.and_eq_true, decide_eq_true_eq]
      exact ⟨hk, by omega, h.2⟩
    · split
      · subst_vars
        simp only [tsortedFrom, Bool.and_eq_true, decide_eq_true_eq]
        exact ⟨hk, h.2⟩
      · simp only [tsortedFrom, Bool.and_eq_true, decide_eq_true_eq]
        exact ⟨h.1, ih h.2 (by omega)⟩

/-- Every part of a sorted table that a filter leaves is sorted. -/
theorem tsortedFrom_filter {lo : Nat} {m : Table α} (p : Nat × α → Bool) (h : tsortedFrom lo m = true) :
    tsortedFrom lo (m.filter p) = true := by
  induction m generalizing lo with
  | nil => rfl
  | cons e m ih =>
    obtain ⟨j, w⟩ := e
    simp only [tsortedFrom, Bool.and_eq_true, decide_eq_true_eq] at h
    rw [List.filter_cons]
    split
    · simp only [tsortedFrom, Bool.and_eq_true, decide_eq_true_eq]
      exact ⟨h.1, ih h.2⟩
    · exact tsortedFrom_mono (ih h.2) (by omega)

/-- Deleting a key is filtering it out. -/
theorem tdel_eq_filter (m : Table α) (k : Nat) : tdel m k = m.filter fun e => decide (e.1 ≠ k) := by
  induction m with
  | nil => rfl
  | cons e m ih =>
    obtain ⟨j, w⟩ := e
    by_cases h : j = k <;> simp [tdel, h, ih]

/-! ### Canonical tables -/

/-- The entries that setting a key lists are the new one and old ones. -/
theorem mem_tput {m : Table α} {k : Nat} {v : α} {e : Nat × α} (h : e ∈ tput m k v) : e = (k, v) ∨ e ∈ m := by
  induction m with
  | nil => simpa [tput] using h
  | cons x m ih =>
    obtain ⟨j, w⟩ := x
    unfold tput at h
    split at h
    · simpa using h
    · split at h
      · rcases List.mem_cons.1 h with h | h
        · exact .inl h
        · exact .inr (List.mem_cons_of_mem _ h)
      · rcases List.mem_cons.1 h with h | h
        · exact .inr (by simp [h])
        · exact (ih h).imp_right (List.mem_cons_of_mem _)

/-- The empty table is canonical. -/
theorem Table.canon_nil (empty : Nat → α) : Table.canon empty [] := ⟨rfl, by simp⟩

/-- Filtering keeps the canonical form. -/
theorem Table.canon_filter {empty : Nat → α} {m : Table α} (p : Nat × α → Bool) (h : m.canon empty) :
    Table.canon empty (m.filter p) :=
  ⟨tsortedFrom_filter p h.1, fun e he => h.2 e (List.mem_of_mem_filter he)⟩

/-- Setting a key keeps the canonical form. -/
theorem Table.canon_tputD [DecidableEq α] {empty : Nat → α} {m : Table α} (k : Nat) (v : α) (h : m.canon empty) :
    Table.canon empty (tputD m k v (empty k)) := by
  unfold tputD
  split
  · rw [tdel_eq_filter]
    exact Table.canon_filter _ h
  · refine ⟨tsortedFrom_tput v h.1 (Nat.zero_le k), fun e he => ?_⟩
    rcases mem_tput he with rfl | he
    · assumption
    · exact h.2 e he

/-! ### Memory keeps its canonical form -/

/-- Memory is canonical as a table exactly where its check says so. -/
theorem Memory.wf_iff (m : List Host.Cell) : Memory.wf m = true ↔ Table.canon (fun _ => (0 : Byte)) m := by
  simp [Memory.wf, Table.canon, List.all_eq_true]

/-- Memory that lists nothing is canonical. -/
theorem Memory.wf_nil : Memory.wf [] = true := rfl

/-- Writing one byte keeps memory canonical. -/
theorem Memory.wf_memPut {m : List Host.Cell} (a : Nat) (b : Byte) (h : Memory.wf m = true) :
    Memory.wf (memPut m a b) = true := by
  rw [Memory.wf_iff] at h ⊢
  exact Table.canon_tputD a b h

/-- Writing bytes keeps memory canonical. -/
theorem Memory.wf_memWrite {m : List Host.Cell} (a : Nat) (bs : List Byte) (h : Memory.wf m = true) :
    Memory.wf (memWrite m a bs) = true := by
  induction bs generalizing m a with
  | nil => exact h
  | cons b bs ih => exact ih (a + 1) (Memory.wf_memPut a b h)

/-- Any filter keeps memory canonical. -/
theorem Memory.wf_filter {m : List Host.Cell} (p : Host.Cell → Bool) (h : Memory.wf m = true) :
    Memory.wf (m.filter p) = true := by
  rw [Memory.wf_iff] at h ⊢
  exact Table.canon_filter p h

/-- Clearing a range keeps memory canonical. -/
theorem Memory.wf_memClear {m : List Host.Cell} (a n : Nat) (h : Memory.wf m = true) :
    Memory.wf (memClear m a n) = true := Memory.wf_filter _ h

/-! ### Reads after writes -/

/-- A key below the bound of a sorted table is not listed. -/
theorem tget_eq_none_of_lt {lo k : Nat} {m : Table α} (h : tsortedFrom lo m = true) (hk : k < lo) : tget m k = none := by
  induction m generalizing lo with
  | nil => rfl
  | cons e m ih =>
    obtain ⟨j, w⟩ := e
    simp only [tsortedFrom, Bool.and_eq_true, decide_eq_true_eq] at h
    rw [tget, if_neg (by omega)]
    exact ih h.2 (by omega)

/-- Reading the key just set. -/
theorem tget_tput_self (m : Table α) (k : Nat) (v : α) : tget (tput m k v) k = some v := by
  induction m with
  | nil => simp [tput, tget]
  | cons e m ih =>
    obtain ⟨j, w⟩ := e
    unfold tput
    split
    · simp [tget]
    · split
      · simp [tget]
      · rw [tget, if_neg (by omega)]
        exact ih

/-- Reading another key after a set. -/
theorem tget_tput_ne (m : Table α) {k k' : Nat} (v : α) (h : k' ≠ k) : tget (tput m k v) k' = tget m k' := by
  induction m with
  | nil => simp [tput, tget, Ne.symm h]
  | cons e m ih =>
    obtain ⟨j, w⟩ := e
    unfold tput
    split
    · rw [tget, if_neg (Ne.symm h)]
    · split
      · subst_vars
        simp [tget, Ne.symm h]
      · simp only [tget, ih]

/-- Reading another key after a deletion. -/
theorem tget_tdel_ne (m : Table α) {k k' : Nat} (h : k' ≠ k) : tget (tdel m k) k' = tget m k' := by
  induction m with
  | nil => rfl
  | cons e m ih =>
    obtain ⟨j, w⟩ := e
    by_cases hj : j = k
    · simp [tdel, tget, hj, ih, Ne.symm h]
    · simp [tdel, tget, hj, ih]

/-- Reading a deleted key. -/
theorem tget_tdel_self (m : Table α) (k : Nat) : tget (tdel m k) k = none := by
  induction m with
  | nil => rfl
  | cons e m ih =>
    obtain ⟨j, w⟩ := e
    by_cases hj : j = k <;> simp [tdel, tget, hj, ih]

/-- A table with empty values reads back what was set. -/
@[simp] theorem tgetD_tputD_self [DecidableEq α] (m : Table α) (k : Nat) (v e : α) : tgetD (tputD m k v e) k e = v := by
  unfold tgetD tputD
  split <;> simp_all [tget_tdel_self, tget_tput_self]

/-- A set leaves every other key of a table as it was. -/
@[simp] theorem tget_tputD_ne [DecidableEq α] (m : Table α) {k k' : Nat} (v e : α) (h : k' ≠ k) :
    tget (tputD m k v e) k' = tget m k' := by
  unfold tputD
  split
  · exact tget_tdel_ne m h
  · exact tget_tput_ne m v h

/-- A set leaves the value at every other key of a table as it was. -/
@[simp] theorem tgetD_tputD_ne [DecidableEq α] (m : Table α) {k k' : Nat} (v e e' : α) (h : k' ≠ k) :
    tgetD (tputD m k v e) k' e' = tgetD m k' e' := by
  simp [tgetD, h]

/-- A byte just written reads back. -/
@[simp] theorem memByte_memPut_self (m : List Host.Cell) (a : Nat) (b : Byte) : memByte (memPut m a b) a = b :=
  tgetD_tputD_self m a b 0

/-- A write of one byte leaves every other byte as it was. -/
@[simp] theorem memByte_memPut_ne (m : List Host.Cell) {a a' : Nat} (b : Byte) (h : a' ≠ a) :
    memByte (memPut m a b) a' = memByte m a' :=
  tgetD_tputD_ne m b 0 0 h

/-- A write leaves every byte outside its range as it was. -/
theorem memByte_memWrite_out (m : List Host.Cell) (a : Nat) (bs : List Byte) (a' : Nat)
    (h : a' < a ∨ a + bs.length ≤ a') : memByte (memWrite m a bs) a' = memByte m a' := by
  induction bs generalizing m a with
  | nil => rfl
  | cons b bs ih =>
    simp only [List.length_cons] at h
    rw [memWrite, ih (memPut m a b) (a + 1) (by omega), memByte_memPut_ne _ _ (by omega)]

/-- A write puts its bytes in its range. -/
theorem memByte_memWrite_in (m : List Host.Cell) (a : Nat) (bs : List Byte) (i : Nat) (h : i < bs.length) :
    memByte (memWrite m a bs) (a + i) = bs[i] := by
  induction bs generalizing m a i with
  | nil => simp at h
  | cons b bs ih =>
    cases i with
    | zero => rw [memWrite, memByte_memWrite_out _ _ _ _ (by omega)]; simp
    | succ i =>
      have := ih (memPut m a b) (a + 1) i (by simpa using h)
      rw [memWrite, show a + (i + 1) = a + 1 + i by omega, this]
      rfl

/-- Bytes read as many as asked. -/
@[simp] theorem memRead_length (m : List Host.Cell) (a n : Nat) : (memRead m a n).length = n := by
  induction n generalizing a with
  | zero => rfl
  | succ n ih => simp [memRead, ih]

/-- Reading a range just written gives what was written. -/
theorem memRead_memWrite (m : List Host.Cell) (a : Nat) (bs : List Byte) :
    memRead (memWrite m a bs) a bs.length = bs := by
  induction bs generalizing m a with
  | nil => rfl
  | cons b bs ih =>
    rw [List.length_cons, memRead, memWrite, ih, memByte_memWrite_out _ _ _ _ (by omega)]
    simp

/-- A rising list's new member is a member, and nothing else changes. -/
@[simp] theorem mem_addMember (l : List Nat) (k x : Nat) : x ∈ addMember l k ↔ x = k ∨ x ∈ l := by
  induction l with
  | nil => simp [addMember]
  | cons j l ih =>
    unfold addMember
    split
    · simp
    · split
      · subst_vars; simp
      · simp [ih]; tauto

/-- A dropped member is gone, and nothing else changes. -/
@[simp] theorem mem_dropMember (l : List Nat) (k x : Nat) : x ∈ dropMember l k ↔ x ∈ l ∧ x ≠ k := by
  simp [dropMember]

end Sys2Proof.Machine
end

