-- ==== Sys2Proof/Laws/Canonical.lean ====
section
/-!
SUPPORT. The canonical form of the device's stores under the primitive updates: each lemma says that one operation keeps it.
-/

namespace Sys2Proof.Machine

/-- Whether a device is canonical depends on its three stores alone. -/
theorem Device.canonical_mk {regs mem islandSram power cfg busy lastResult part boot sec rank alm herald gov cal banks objects buckets ctxs
    tenancies admin notices outbound links sw queues csi can acf twin0 twin1 hwCount safety half0 half1 served
    portWaits refreshes paced bitmapHeld arb hostCache reservations pools jobs lastSteps nextId freeIndex answer
    sent} :
    Device.Canonical ⟨regs, mem, islandSram, power, cfg, busy, lastResult, part, boot, sec, rank, alm, herald, gov, cal, banks,
      objects, buckets, ctxs, tenancies, admin, notices, outbound, links, sw, queues, csi, can, acf, twin0,
      twin1, hwCount, safety, half0, half1, served, portWaits, refreshes, paced, bitmapHeld, arb, hostCache,
      reservations, pools, jobs, lastSteps, nextId, freeIndex, answer, sent⟩ ↔ StoresCanonical mem islandSram regs :=
  Iff.rfl

/-- A canonical device has canonical stores. -/
theorem Device.stores_canonical {d : Device} (h : d.Canonical) : StoresCanonical d.mem d.islandSram d.regs := h

/-- Noting when a duty was done keeps the stores canonical. -/
theorem Device.noted_canonical {d : Device} (h : d.Canonical) (k : Duty) : (d.noted k).Canonical := h

/-- Setting a register keeps the stores canonical. -/
theorem Device.setReg_canonical {d : Device} (h : d.Canonical) (a : Nat) (v : Word) : (d.setReg a v).Canonical :=
  ⟨h.1, h.2.1, Table.canon_tputD a v h.2.2⟩

/-- Writing memory keeps the stores canonical. -/
theorem Device.wr_canonical {d : Device} (h : d.Canonical) (a : Nat) (bs : List Byte) : (d.wr a bs).Canonical :=
  ⟨Memory.wf_memWrite a bs h.1, h.2⟩

/-- A fold of steps that keep the stores canonical keeps them canonical. -/
theorem foldl_canonical {α : Type} {f : Device → α → Device} (hf : ∀ d x, d.Canonical → (f d x).Canonical) (l : List α)
    {d : Device} (h : d.Canonical) : (l.foldl f d).Canonical := by
  induction l generalizing d with
  | nil => exact h
  | cons x l ih => exact ih (hf d x h)

/-- A fold over a device and a count keeps the stores canonical where each step does. -/
theorem foldl_fst_canonical {α β : Type} {f : Device × β → α → Device × β}
    (hf : ∀ e x, e.1.Canonical → (f e x).1.Canonical) (l : List α) {e : Device × β} (h : e.1.Canonical) :
    (l.foldl f e).1.Canonical := by
  induction l generalizing e with
  | nil => exact h
  | cons x l ih => exact ih (hf e x h)

/-- Empty stores are canonical. -/
theorem Device.reset_canonical : Device.reset.Canonical := ⟨rfl, rfl, Table.canon_nil _⟩

/-- Dropping registers that a test picks keeps the stores canonical. -/
theorem stores_canonical_filter {mem sram : List Host.Cell} {regs : Table Word} (p : Nat × Word → Bool)
    (h : StoresCanonical mem sram regs) : StoresCanonical mem sram (regs.filter p) :=
  ⟨h.1, h.2.1, Table.canon_filter p h.2.2⟩

/-- Dropping memory that a test picks keeps the stores canonical. -/
theorem stores_canonical_mem {mem sram : List Host.Cell} {regs : Table Word} (p : Host.Cell → Bool)
    (h : StoresCanonical mem sram regs) : StoresCanonical (mem.filter p) sram regs :=
  ⟨Memory.wf_filter p h.1, h.2⟩

/-- Clearing a range of memory keeps the stores canonical. -/
theorem stores_canonical_clear {mem sram : List Host.Cell} {regs : Table Word} (a n : Nat)
    (h : StoresCanonical mem sram regs) : StoresCanonical (memClear mem a n) sram regs :=
  stores_canonical_mem _ h

/-- Zeroed memory keeps the stores canonical. -/
theorem stores_canonical_empty {mem sram : List Host.Cell} {regs : Table Word} (h : StoresCanonical mem sram regs) :
    StoresCanonical [] sram regs :=
  ⟨rfl, h.2⟩

/-- Bytes put into a zeroed SRAM keep the stores canonical. -/
theorem stores_canonical_sram {mem sram : List Host.Cell} {regs : Table Word} (a : Nat) (bs : List Byte)
    (h : StoresCanonical mem sram regs) : StoresCanonical mem (memWrite [] a bs) regs :=
  ⟨h.1, Memory.wf_memWrite a bs rfl, h.2.2⟩

/-- A command's effect keeps the stores canonical where its function does. -/
theorem act_canonical {s t : State} {f : Device → Device} (hf : ∀ d, d.Canonical → (f d).Canonical)
    (h : s.dev.Canonical) (e : act s f = .next t) : t.dev.Canonical := by
  cases e
  exact hf _ h

/-- The same for a command of a unit that needs a live device. -/
theorem actLive_canonical {s t : State} {f : Device → Device} (hf : ∀ d, d.Canonical → (f d).Canonical)
    (h : s.dev.Canonical) (e : actLive s f = .next t) : t.dev.Canonical :=
  act_canonical (fun d hd => by split; exacts [hf d hd, hd]) h e

/-- The same for a duty at a fixed spacing. -/
theorem actPaced_canonical {k : Duty} {s t : State} {f : Device → Device} (hf : ∀ d, d.Canonical → (f d).Canonical)
    (h : s.dev.Canonical) (e : actPaced k s f = .next t) : t.dev.Canonical :=
  actLive_canonical (fun d hd => by split; exacts [hd, hf _ (Device.noted_canonical hd k)]) h e

/-- The same for an access. -/
theorem actBy_canonical {who : Who} {s t : State} {f : Device → Device} (hf : ∀ d, d.Canonical → (f d).Canonical)
    (h : s.dev.Canonical) (e : actBy who s f = .next t) : t.dev.Canonical :=
  actLive_canonical (fun d hd => by split; exacts [hf d hd, hd]) h e

/-- The same for a command with limits on its operands. -/
theorem actIf_canonical {ok : Bool} {s t : State} {f : Device → Device} (hf : ∀ d, d.Canonical → (f d).Canonical)
    (h : s.dev.Canonical) (e : actIf ok s f = .next t) : t.dev.Canonical := by
  unfold actIf at e
  split at e
  · exact actLive_canonical hf h e
  · cases e

end Sys2Proof.Machine
end

