-- ==== Sys2Proof/Laws/CanonOps.lean ====
section
/-!
SUPPORT. The operations and meanings of Machine/Ops.lean keep the stores canonical.
-/

namespace Sys2Proof.Machine

theorem Device.setFld_canonical {d : Device} (h : d.Canonical) (a : Nat) (lo : Nat) (len : Nat) (v : Nat) :
    Device.Canonical (Device.setFld d a lo len v) := by
  unfold Device.setFld
  repeat' first
    | with_reducible assumption
    | with_reducible apply Device.setReg_canonical

theorem Device.orReg_canonical {d : Device} (h : d.Canonical) (a : Nat) (mask : Nat) :
    Device.Canonical (Device.orReg d a mask) := by
  unfold Device.orReg
  repeat' first
    | with_reducible assumption
    | with_reducible apply Device.setReg_canonical

theorem Device.clrReg_canonical {d : Device} (h : d.Canonical) (a : Nat) (mask : Nat) :
    Device.Canonical (Device.clrReg d a mask) := by
  unfold Device.clrReg
  repeat' first
    | with_reducible assumption
    | with_reducible apply Device.setReg_canonical

theorem Device.addCount_canonical {d : Device} (h : d.Canonical) (a : Nat) (lo : Nat) (len : Nat) (n : Nat) :
    Device.Canonical (Device.addCount d a lo len n) := by
  unfold Device.addCount
  repeat' first
    | with_reducible assumption
    | with_reducible apply Device.setFld_canonical

theorem Device.recordIf_canonical {d : Device} (h : d.Canonical) (c : Bool) (a : Nat) (v : Word) :
    Device.Canonical (Device.recordIf d c a v) := by
  unfold Device.recordIf
  repeat' first
    | with_reducible assumption
    | with_reducible apply Device.setReg_canonical
    | simp only [Device.canonical_mk]
    | with_reducible apply Device.stores_canonical
    | with_reducible apply stores_canonical_filter
    | with_reducible apply stores_canonical_mem
    | with_reducible apply stores_canonical_clear
    | with_reducible apply Device.reset_canonical
    | with_reducible apply stores_canonical_sram
    | with_reducible apply stores_canonical_empty
    | split

theorem Device.raise_canonical {d : Device} (h : d.Canonical) (s : Nat) :
    Device.Canonical (Device.raise d s) := by
  unfold Device.raise
  repeat' first
    | with_reducible assumption
    | simp only [Device.canonical_mk]
    | with_reducible apply Device.stores_canonical

theorem Device.latch_canonical {d : Device} (h : d.Canonical) (k : Nat) :
    Device.Canonical (Device.latch d k) := by
  unfold Device.latch
  repeat' first
    | with_reducible assumption
    | with_reducible apply Device.orReg_canonical

theorem Device.emit_canonical {d : Device} (h : d.Canonical) (o : Output) :
    Device.Canonical (Device.emit d o) := by
  unfold Device.emit
  repeat' first
    | with_reducible assumption
    | simp only [Device.canonical_mk]
    | with_reducible apply Device.stores_canonical

theorem Device.reply_canonical {d : Device} (h : d.Canonical) (x : Answer) :
    Device.Canonical (Device.reply d x) := by
  unfold Device.reply
  repeat' first
    | with_reducible assumption
    | simp only [Device.canonical_mk]
    | with_reducible apply Device.stores_canonical

theorem Device.enter_canonical {d : Device} (h : d.Canonical) (c : CfgState) :
    Device.Canonical (Device.enter d c) := by
  unfold Device.enter
  repeat' first
    | with_reducible assumption
    | with_reducible apply Device.raise_canonical
    | simp only [Device.canonical_mk]
    | with_reducible apply Device.stores_canonical

theorem Device.setCtx_canonical {d : Device} (h : d.Canonical) (c : Nat) (x : Ctx) :
    Device.Canonical (Device.setCtx d c x) := by
  unfold Device.setCtx
  repeat' first
    | with_reducible assumption
    | simp only [Device.canonical_mk]
    | with_reducible apply Device.stores_canonical

theorem Device.setTen_canonical {d : Device} (h : d.Canonical) (t : Nat) (x : Tenancy) :
    Device.Canonical (Device.setTen d t x) := by
  unfold Device.setTen
  repeat' first
    | with_reducible assumption
    | simp only [Device.canonical_mk]
    | with_reducible apply Device.stores_canonical

theorem Device.setRing_canonical {d : Device} (h : d.Canonical) (k : RingRef) (x : Ring) :
    Device.Canonical (Device.setRing d k x) := by
  unfold Device.setRing
  repeat' first
    | with_reducible assumption
    | with_reducible apply Device.setTen_canonical
    | simp only [Device.canonical_mk]
    | with_reducible apply Device.stores_canonical
    | with_reducible apply stores_canonical_filter
    | with_reducible apply stores_canonical_mem
    | with_reducible apply stores_canonical_clear
    | with_reducible apply Device.reset_canonical
    | with_reducible apply stores_canonical_sram
    | with_reducible apply stores_canonical_empty
    | split

theorem Device.setBank_canonical {d : Device} (h : d.Canonical) (core : Nat) (ctx : Nat) (b : Bank) :
    Device.Canonical (Device.setBank d core ctx b) := by
  unfold Device.setBank
  repeat' first
    | with_reducible assumption
    | simp only [Device.canonical_mk]
    | with_reducible apply Device.stores_canonical

theorem Device.setQueue_canonical {d : Device} (h : d.Canonical) (q : Nat) (x : FrameQueue) :
    Device.Canonical (Device.setQueue d q x) := by
  unfold Device.setQueue
  repeat' first
    | with_reducible assumption
    | simp only [Device.canonical_mk]
    | with_reducible apply Device.stores_canonical

theorem Device.setStream_canonical {d : Device} (h : d.Canonical) (s : Nat) (x : CsiStream) :
    Device.Canonical (Device.setStream d s x) := by
  unfold Device.setStream
  repeat' first
    | with_reducible assumption
    | simp only [Device.canonical_mk]
    | with_reducible apply Device.stores_canonical

theorem Device.setCan_canonical {d : Device} (h : d.Canonical) (k : Nat) (x : CanCtl) :
    Device.Canonical (Device.setCan d k x) := by
  unfold Device.setCan
  repeat' first
    | with_reducible assumption
    | simp only [Device.canonical_mk]
    | with_reducible apply Device.stores_canonical

theorem Device.setStest_canonical {d : Device} (h : d.Canonical) (c : Nat) (x : Stest) :
    Device.Canonical (Device.setStest d c x) := by
  unfold Device.setStest
  repeat' first
    | with_reducible assumption
    | simp only [Device.canonical_mk]
    | with_reducible apply Device.stores_canonical

theorem Device.setTwin_canonical {d : Device} (h : d.Canonical) (l : Nat) (x : TwinLink) :
    Device.Canonical (Device.setTwin d l x) := by
  unfold Device.setTwin
  repeat' first
    | with_reducible assumption
    | simp only [Device.canonical_mk]
    | with_reducible apply Device.stores_canonical
    | with_reducible apply stores_canonical_filter
    | with_reducible apply stores_canonical_mem
    | with_reducible apply stores_canonical_clear
    | with_reducible apply Device.reset_canonical
    | with_reducible apply stores_canonical_sram
    | with_reducible apply stores_canonical_empty
    | split

theorem Device.setUnitOff_canonical {d : Device} (h : d.Canonical) (u : Nat) (off : Bool) :
    Device.Canonical (Device.setUnitOff d u off) := by
  unfold Device.setUnitOff
  repeat' first
    | with_reducible assumption
    | with_reducible apply Device.orReg_canonical
    | with_reducible apply Device.clrReg_canonical
    | simp only [Device.canonical_mk]
    | with_reducible apply Device.stores_canonical
    | with_reducible apply stores_canonical_filter
    | with_reducible apply stores_canonical_mem
    | with_reducible apply stores_canonical_clear
    | with_reducible apply Device.reset_canonical
    | with_reducible apply stores_canonical_sram
    | with_reducible apply stores_canonical_empty
    | split

theorem Device.chunkEnd_canonical {d : Device} (h : d.Canonical) (a : Nat) :
    Device.Canonical (Device.chunkEnd d a) := by
  unfold Device.chunkEnd
  repeat' first
    | with_reducible assumption
    | with_reducible apply Device.emit_canonical
    | simp only [Device.canonical_mk]
    | with_reducible apply Device.stores_canonical
    | with_reducible apply stores_canonical_filter
    | with_reducible apply stores_canonical_mem
    | with_reducible apply stores_canonical_clear
    | with_reducible apply Device.reset_canonical
    | with_reducible apply stores_canonical_sram
    | with_reducible apply stores_canonical_empty
    | split

theorem Device.deny_canonical {d : Device} (h : d.Canonical) (x1 : Who) :
    Device.Canonical (Device.deny d x1) := by
  unfold Device.deny
  repeat' first
    | with_reducible assumption
    | with_reducible apply Device.reply_canonical

theorem Device.begun_canonical {d : Device} (h : d.Canonical) :
    Device.Canonical (Device.begun d) := by
  unfold Device.begun
  repeat' first
    | with_reducible assumption
    | simp only [Device.canonical_mk]
    | with_reducible apply Device.stores_canonical

end Sys2Proof.Machine
end

