-- ==== Sys2Proof/Laws/CanonContexts.lean ====
section
/-!
SUPPORT. The operations and meanings of Machine/Contexts.lean keep the stores canonical.
-/

namespace Sys2Proof.Machine

theorem Device.benchCe_canonical {d : Device} (h : d.Canonical) (core : Nat) (n : Nat) :
    Device.Canonical (Device.benchCe d core n) := by
  unfold Device.benchCe
  repeat' first
    | with_reducible assumption
    | with_reducible apply Device.addCount_canonical

theorem Device.bankCe_canonical {d : Device} (h : d.Canonical) (core : Nat) (n : Nat) :
    Device.Canonical (Device.bankCe d core n) := by
  unfold Device.bankCe
  repeat' first
    | with_reducible assumption
    | with_reducible apply Device.addCount_canonical

theorem Device.stopRun_canonical {d : Device} (h : d.Canonical) (c : Nat) (status : Byte) (detail : Byte) :
    Device.Canonical (Device.stopRun d c status detail) := by
  unfold Device.stopRun
  repeat' first
    | with_reducible assumption
    | with_reducible apply Device.setCtx_canonical

theorem Device.noteTeardown_canonical {d : Device} (h : d.Canonical) (c : Nat) (core : Nat) (status : Byte) (detail : Byte) :
    Device.Canonical (Device.noteTeardown d c core status detail) := by
  unfold Device.noteTeardown
  repeat' first
    | with_reducible assumption
    | with_reducible apply Device.addCount_canonical
    | with_reducible apply Device.recordIf_canonical
    | with_reducible apply Device.orReg_canonical

theorem Device.tearDown_canonical {d : Device} (h : d.Canonical) (c : Nat) (core : Nat) (status : Byte) (detail : Byte) (recorded : Byte) :
    Device.Canonical (Device.tearDown d c core status detail recorded) := by
  unfold Device.tearDown
  repeat' first
    | with_reducible assumption
    | with_reducible apply Device.addCount_canonical
    | with_reducible apply Device.setCtx_canonical
    | with_reducible apply Device.noteTeardown_canonical
    | dsimp only
    | with_reducible apply Device.stores_canonical
    | with_reducible apply stores_canonical_filter
    | with_reducible apply stores_canonical_mem
    | with_reducible apply stores_canonical_clear
    | with_reducible apply Device.reset_canonical
    | with_reducible apply stores_canonical_sram
    | with_reducible apply stores_canonical_empty
    | split

theorem Device.ctxFault_canonical {d : Device} (h : d.Canonical) (c : Nat) (core : Nat) (status : Byte) (detail : Byte) :
    Device.Canonical (Device.ctxFault d c core status detail) := by
  unfold Device.ctxFault
  repeat' first
    | with_reducible assumption
    | with_reducible apply Device.orReg_canonical
    | with_reducible apply Device.tearDown_canonical
    | simp only [Device.canonical_mk]
    | with_reducible apply Device.stores_canonical
    | with_reducible apply stores_canonical_filter
    | with_reducible apply stores_canonical_mem
    | with_reducible apply stores_canonical_clear
    | with_reducible apply Device.reset_canonical
    | with_reducible apply stores_canonical_sram
    | with_reducible apply stores_canonical_empty
    | split

theorem Device.ctxUncorr_canonical {d : Device} (h : d.Canonical) (c : Nat) (core : Nat) (detail : Byte) :
    Device.Canonical (Device.ctxUncorr d c core detail) := by
  unfold Device.ctxUncorr
  repeat' first
    | with_reducible assumption
    | with_reducible apply Device.tearDown_canonical
    | with_reducible apply Device.latch_canonical

theorem Device.modRun_canonical {d : Device} (h : d.Canonical) (c : Nat) (f : Run → Run) :
    Device.Canonical (Device.modRun d c f) := by
  unfold Device.modRun
  repeat' first
    | with_reducible assumption
    | with_reducible apply Device.setCtx_canonical

theorem Device.shareWrite_canonical {d : Device} (h : d.Canonical) (c : Nat) (core : Nat) (off : Nat) (bs : List Byte) :
    Device.Canonical (Device.shareWrite d c core off bs) := by
  unfold Device.shareWrite
  repeat' first
    | with_reducible assumption
    | with_reducible apply Device.wr_canonical

theorem Device.countBeat_canonical {d : Device} (h : d.Canonical) (q : Seat) (k : UnitKind) :
    Device.Canonical (Device.countBeat d q k) := by
  unfold Device.countBeat
  repeat' first
    | with_reducible assumption
    | with_reducible apply Device.modRun_canonical
    | simp only [Device.canonical_mk]
    | with_reducible apply Device.stores_canonical
    | with_reducible apply stores_canonical_filter
    | with_reducible apply stores_canonical_mem
    | with_reducible apply stores_canonical_clear
    | with_reducible apply Device.reset_canonical
    | with_reducible apply stores_canonical_sram
    | with_reducible apply stores_canonical_empty
    | split

/-- Whether the device that an instruction leaves, where it leaves one, is canonical. -/
def Did.Canonical : Did → Prop
  | .done d _ => d.Canonical
  | .ends d _ _ => d.Canonical
  | .fault _ _ => True
  | .hold => True

theorem Did.canonical_done {d : Device} {b : Bank} : (Did.done d b).Canonical ↔ d.Canonical := Iff.rfl

theorem Did.canonical_ends {d : Device} {st x : Byte} : (Did.ends d st x).Canonical ↔ d.Canonical := Iff.rfl

theorem Did.canonical_fault {st x : Byte} : (Did.fault st x).Canonical ↔ True := Iff.rfl

theorem Did.canonical_hold : Did.hold.Canonical ↔ True := Iff.rfl

theorem Device.settle_canonical {d : Device} (h : d.Canonical) (q : Seat) (k : UnitKind) {x : Did} (hx : x.Canonical) :
    (d.settle q k x).Canonical := by
  cases x with
  | done d' b => exact Device.setBank_canonical hx _ _ _
  | fault status detail => exact Device.ctxFault_canonical h _ _ _ _
  | ends d' status detail => exact Device.stopRun_canonical hx _ _ _
  | hold => exact h

theorem Device.issueIn_canonical {d : Device} (h : d.Canonical) (core : Nat) (k : UnitKind) (shared : Bank → Bool) (f : Device → Seat → Bank → Did) (h4 : ∀ x0 x1 x2, x0.Canonical → Did.Canonical (f x0 x1 x2)) :
    Device.Canonical (Device.issueIn d core k shared f) := by
  unfold Device.issueIn
  repeat' first
    | with_reducible assumption
    | with_reducible apply h4
    | with_reducible apply Device.countBeat_canonical
    | with_reducible apply Device.settle_canonical
    | dsimp only
    | with_reducible apply Device.stores_canonical
    | with_reducible apply stores_canonical_filter
    | with_reducible apply stores_canonical_mem
    | with_reducible apply stores_canonical_clear
    | with_reducible apply Device.reset_canonical
    | with_reducible apply stores_canonical_sram
    | with_reducible apply stores_canonical_empty
    | simp only [Did.canonical_done, Did.canonical_ends, Did.canonical_fault, Did.canonical_hold]
    | split

theorem Device.issue_canonical {d : Device} (h : d.Canonical) (core : Nat) (k : UnitKind) (f : Device → Seat → Bank → Did) (h3 : ∀ x0 x1 x2, x0.Canonical → Did.Canonical (f x0 x1 x2)) :
    Device.Canonical (Device.issue d core k f) := by
  unfold Device.issue
  repeat' first
    | with_reducible assumption
    | with_reducible apply h3
    | with_reducible apply Device.issueIn_canonical

theorem Device.issueEccIn_canonical {d : Device} (h : d.Canonical) (u : CoreUse) (k : UnitKind) (shared : Bank → Bool) (f : Device → Seat → Bank → Did) (h4 : ∀ x0 x1 x2, x0.Canonical → Did.Canonical (f x0 x1 x2)) :
    Device.Canonical (Device.issueEccIn d u k shared f) := by
  unfold Device.issueEccIn
  repeat' first
    | with_reducible assumption
    | with_reducible apply h4
    | with_reducible apply Device.ctxUncorr_canonical
    | with_reducible apply Device.benchCe_canonical
    | with_reducible apply Device.bankCe_canonical
    | with_reducible apply Device.issueIn_canonical
    | dsimp only
    | with_reducible apply Device.stores_canonical
    | with_reducible apply stores_canonical_filter
    | with_reducible apply stores_canonical_mem
    | with_reducible apply stores_canonical_clear
    | with_reducible apply Device.reset_canonical
    | with_reducible apply stores_canonical_sram
    | with_reducible apply stores_canonical_empty
    | simp only [Did.canonical_done, Did.canonical_ends, Did.canonical_fault, Did.canonical_hold]
    | split

theorem Device.issueEcc_canonical {d : Device} (h : d.Canonical) (u : CoreUse) (k : UnitKind) (f : Device → Seat → Bank → Did) (h3 : ∀ x0 x1 x2, x0.Canonical → Did.Canonical (f x0 x1 x2)) :
    Device.Canonical (Device.issueEcc d u k f) := by
  unfold Device.issueEcc
  repeat' first
    | with_reducible assumption
    | with_reducible apply h3
    | with_reducible apply Device.issueEccIn_canonical

theorem Device.count_canonical {d : Device} (h : d.Canonical) (q : Seat) (t : Tally) :
    Device.Canonical (Device.count d q t) := by
  unfold Device.count
  repeat' first
    | with_reducible assumption
    | with_reducible apply Device.orReg_canonical
    | with_reducible apply Device.addCount_canonical
    | with_reducible apply Device.modRun_canonical
    | dsimp only
    | with_reducible apply Device.stores_canonical
    | with_reducible apply stores_canonical_filter
    | with_reducible apply stores_canonical_mem
    | with_reducible apply stores_canonical_clear
    | with_reducible apply Device.reset_canonical
    | with_reducible apply stores_canonical_sram
    | with_reducible apply stores_canonical_empty
    | split

end Sys2Proof.Machine
end

