-- ==== Sys2Proof/Laws/CanonMemories.lean ====
section
/-!
SUPPORT. The operations and meanings of Machine/Memories.lean keep the stores canonical.
-/

namespace Sys2Proof.Machine

theorem Device.memCe_canonical {d : Device} (h : d.Canonical) (a : Nat) :
    Device.Canonical (Device.memCe d a) := by
  unfold Device.memCe
  repeat' first
    | with_reducible assumption
    | with_reducible apply Device.addCount_canonical
    | with_reducible apply Device.benchCe_canonical
    | simp only [Device.canonical_mk]
    | with_reducible apply Device.stores_canonical
    | with_reducible apply stores_canonical_filter
    | with_reducible apply stores_canonical_mem
    | with_reducible apply stores_canonical_clear
    | with_reducible apply Device.reset_canonical
    | with_reducible apply stores_canonical_sram
    | with_reducible apply stores_canonical_empty
    | split

theorem Device.noteUe_canonical {d : Device} (h : d.Canonical) (a : Nat) :
    Device.Canonical (Device.noteUe d a) := by
  unfold Device.noteUe
  repeat' first
    | with_reducible assumption
    | with_reducible apply Device.recordIf_canonical
    | with_reducible apply Device.latch_canonical
    | with_reducible apply Device.orReg_canonical
    | dsimp only
    | with_reducible apply Device.stores_canonical
    | with_reducible apply stores_canonical_filter
    | with_reducible apply stores_canonical_mem
    | with_reducible apply stores_canonical_clear
    | with_reducible apply Device.reset_canonical
    | with_reducible apply stores_canonical_sram
    | with_reducible apply stores_canonical_empty
    | split

theorem Device.memUe_canonical {d : Device} (h : d.Canonical) (a : Nat) :
    Device.Canonical (Device.memUe d a) := by
  unfold Device.memUe
  repeat' first
    | with_reducible assumption
    | with_reducible apply Device.ctxUncorr_canonical
    | with_reducible apply Device.noteUe_canonical
    | simp only [Device.canonical_mk]
    | with_reducible apply Device.stores_canonical
    | with_reducible apply stores_canonical_filter
    | with_reducible apply stores_canonical_mem
    | with_reducible apply stores_canonical_clear
    | with_reducible apply Device.reset_canonical
    | with_reducible apply stores_canonical_sram
    | with_reducible apply stores_canonical_empty
    | split

theorem Device.memCes_canonical {d : Device} (h : d.Canonical) (a : Nat) (l : List Nat) :
    Device.Canonical (Device.memCes d a l) := by
  unfold Device.memCes
  repeat' first
    | with_reducible assumption
    | with_reducible apply Device.memCe_canonical
    | simp only [Device.canonical_mk]
    | with_reducible apply Device.stores_canonical
    | with_reducible apply stores_canonical_filter
    | with_reducible apply stores_canonical_mem
    | with_reducible apply stores_canonical_clear
    | with_reducible apply Device.reset_canonical
    | with_reducible apply stores_canonical_sram
    | with_reducible apply stores_canonical_empty
    | split
    | dsimp only
    | with_reducible apply foldl_canonical
    | intro _

theorem Device.memEcc_canonical {d : Device} (h : d.Canonical) (a : Nat) (x2 : Ecc) :
    Device.Canonical (Device.memEcc d a x2) := by
  unfold Device.memEcc
  repeat' first
    | with_reducible assumption
    | with_reducible apply Device.memCes_canonical
    | with_reducible apply Device.memUe_canonical
    | simp only [Device.canonical_mk]
    | with_reducible apply Device.stores_canonical
    | with_reducible apply stores_canonical_filter
    | with_reducible apply stores_canonical_mem
    | with_reducible apply stores_canonical_clear
    | with_reducible apply Device.reset_canonical
    | with_reducible apply stores_canonical_sram
    | with_reducible apply stores_canonical_empty
    | split

theorem Device.useCredit_canonical {d : Device} (h : d.Canonical) (k : Nat) (n : Nat) :
    Device.Canonical (Device.useCredit d k n) := by
  unfold Device.useCredit
  repeat' first
    | with_reducible assumption
    | simp only [Device.canonical_mk]
    | with_reducible apply Device.stores_canonical

theorem Device.refill_canonical {d : Device} (h : d.Canonical) :
    Device.Canonical (Device.refill d) := by
  unfold Device.refill
  repeat' first
    | with_reducible assumption
    | simp only [Device.canonical_mk]
    | with_reducible apply Device.stores_canonical

theorem Device.lineIssue_canonical {d : Device} (h : d.Canonical) {port owner a : Nat} {x : Bool} {r : Device}
    (e : d.lineIssue port owner a = some (x, r)) : r.Canonical := by
  have key : r = d ∨ ∃ k n, r = d.useCredit k n := by
    unfold Device.lineIssue at e
    generalize creditLine = c at e
    dsimp only at e
    repeat' split at e
    all_goals first
      | (injection e with e; injection e with _ e; exact .inl e.symm)
      | (injection e with e; injection e with _ e; exact .inr ⟨_, _, e.symm⟩)
      | contradiction
  rcases key with k | ⟨i, n, k⟩
  · exact k ▸ h
  · exact k ▸ Device.useCredit_canonical h i n

theorem Device.linesIssue_canonical {d : Device} (h : d.Canonical) (port owner : Nat) (l : List Nat) :
    (d.linesIssue port owner l).2.2.Canonical := by
  induction l generalizing d with
  | nil => exact h
  | cons a l ih =>
    unfold Device.linesIssue
    split
    · exact h
    · rename_i e
      exact ih (Device.lineIssue_canonical h e)

theorem Device.dropLine_canonical {d : Device} (h : d.Canonical) (line : Nat) :
    Device.Canonical (Device.dropLine d line) := by
  unfold Device.dropLine
  repeat' first
    | with_reducible assumption
    | with_reducible apply Device.wr_canonical
    | simp only [Device.canonical_mk]
    | with_reducible apply Device.stores_canonical
    | with_reducible apply stores_canonical_filter
    | with_reducible apply stores_canonical_mem
    | with_reducible apply stores_canonical_clear
    | with_reducible apply Device.reset_canonical
    | with_reducible apply stores_canonical_sram
    | with_reducible apply stores_canonical_empty
    | split

theorem Device.dropLines_canonical {d : Device} (h : d.Canonical) (a : Nat) (n : Nat) :
    Device.Canonical (Device.dropLines d a n) := by
  unfold Device.dropLines
  repeat' first
    | with_reducible assumption
    | with_reducible apply Device.dropLine_canonical
    | simp only [Device.canonical_mk]
    | with_reducible apply Device.stores_canonical
    | with_reducible apply stores_canonical_filter
    | with_reducible apply stores_canonical_mem
    | with_reducible apply stores_canonical_clear
    | with_reducible apply Device.reset_canonical
    | with_reducible apply stores_canonical_sram
    | with_reducible apply stores_canonical_empty
    | split
    | dsimp only
    | with_reducible apply foldl_canonical
    | intro _

theorem Device.coWrite_canonical {d : Device} (h : d.Canonical) (a : Nat) (bs : List Byte) :
    Device.Canonical (Device.coWrite d a bs) := by
  unfold Device.coWrite
  repeat' first
    | with_reducible assumption
    | with_reducible apply Device.wr_canonical
    | with_reducible apply Device.dropLines_canonical
    | simp only [Device.canonical_mk]
    | with_reducible apply Device.stores_canonical

theorem Device.serveLine_canonical {d : Device} (h : d.Canonical) (line : Nat) (n : Nat) (write : Bool) :
    Device.Canonical (Device.serveLine d line n write) := by
  unfold Device.serveLine
  repeat' first
    | with_reducible assumption
    | simp only [Device.canonical_mk]
    | with_reducible apply Device.stores_canonical
    | with_reducible apply stores_canonical_filter
    | with_reducible apply stores_canonical_mem
    | with_reducible apply stores_canonical_clear
    | with_reducible apply Device.reset_canonical
    | with_reducible apply stores_canonical_sram
    | with_reducible apply stores_canonical_empty
    | split

theorem Device.serve_canonical {d : Device} (h : d.Canonical) (a : Nat) (n : Nat) (write : Bool) :
    Device.Canonical (Device.serve d a n write) := by
  unfold Device.serve
  repeat' first
    | with_reducible assumption
    | with_reducible apply Device.serveLine_canonical
    | simp only [Device.canonical_mk]
    | with_reducible apply Device.stores_canonical
    | with_reducible apply stores_canonical_filter
    | with_reducible apply stores_canonical_mem
    | with_reducible apply stores_canonical_clear
    | with_reducible apply Device.reset_canonical
    | with_reducible apply stores_canonical_sram
    | with_reducible apply stores_canonical_empty
    | split
    | dsimp only
    | with_reducible apply foldl_canonical
    | intro _

theorem Device.passLines_canonical {d : Device} (h : d.Canonical) (port : Nat) (a : Nat) (n : Nat) (lines : List Nat) :
    (Device.passLines d port a n lines).2.Canonical := by
  unfold Device.passLines
  repeat' first
    | with_reducible assumption
    | with_reducible apply Device.linesIssue_canonical
    | simp only [Device.canonical_mk]
    | with_reducible apply Device.stores_canonical
    | with_reducible apply stores_canonical_filter
    | with_reducible apply stores_canonical_mem
    | with_reducible apply stores_canonical_clear
    | with_reducible apply Device.reset_canonical
    | with_reducible apply stores_canonical_sram
    | with_reducible apply stores_canonical_empty
    | split

theorem Device.pass_canonical {d : Device} (h : d.Canonical) (port : Nat) (a : Nat) (n : Nat) (write : Bool) :
    (Device.pass d port a n write).2.Canonical := by
  unfold Device.pass
  repeat' first
    | with_reducible assumption
    | with_reducible apply Device.passLines_canonical
    | with_reducible apply Device.serve_canonical
    | dsimp only
    | with_reducible apply Device.stores_canonical
    | with_reducible apply stores_canonical_filter
    | with_reducible apply stores_canonical_mem
    | with_reducible apply stores_canonical_clear
    | with_reducible apply Device.reset_canonical
    | with_reducible apply stores_canonical_sram
    | with_reducible apply stores_canonical_empty
    | split

theorem Device.via_canonical {d : Device} (h : d.Canonical) (port : Nat) (a : Nat) (n : Nat) (write : Bool) (f : Device → Device) (h5 : ∀ x0, x0.Canonical → Device.Canonical (f x0)) :
    Device.Canonical (Device.via d port a n write f) := by
  unfold Device.via
  repeat' first
    | with_reducible assumption
    | with_reducible apply h5
    | with_reducible apply Device.pass_canonical
    | dsimp only
    | with_reducible apply Device.stores_canonical
    | with_reducible apply stores_canonical_filter
    | with_reducible apply stores_canonical_mem
    | with_reducible apply stores_canonical_clear
    | with_reducible apply Device.reset_canonical
    | with_reducible apply stores_canonical_sram
    | with_reducible apply stores_canonical_empty
    | split

theorem Device.viaMove_canonical {d : Device} (h : d.Canonical) (port : Nat) (src : Nat) (dst : Nat) (n : Nat) (f : Device → Device) (h5 : ∀ x0, x0.Canonical → Device.Canonical (f x0)) :
    Device.Canonical (Device.viaMove d port src dst n f) := by
  unfold Device.viaMove
  repeat' first
    | with_reducible assumption
    | with_reducible apply h5
    | with_reducible apply Device.passLines_canonical
    | with_reducible apply Device.serve_canonical
    | dsimp only
    | with_reducible apply Device.stores_canonical
    | with_reducible apply stores_canonical_filter
    | with_reducible apply stores_canonical_mem
    | with_reducible apply stores_canonical_clear
    | with_reducible apply Device.reset_canonical
    | with_reducible apply stores_canonical_sram
    | with_reducible apply stores_canonical_empty
    | split

theorem Device.charge_canonical {d : Device} (h : d.Canonical) (port : Nat) (a : Nat) (n : Nat) (write : Bool) :
    Device.Canonical (Device.charge d port a n write) := by
  unfold Device.charge
  repeat' first
    | with_reducible assumption
    | with_reducible apply Device.serve_canonical
    | with_reducible apply Device.linesIssue_canonical

theorem Device.putBit_canonical {d : Device} (h : d.Canonical) (e : Nat × Nat) :
    Device.Canonical (Device.putBit d e) := by
  unfold Device.putBit
  repeat' first
    | with_reducible assumption
    | with_reducible apply Device.charge_canonical
    | with_reducible apply Device.coWrite_canonical

theorem Device.flushBits_canonical {d : Device} (h : d.Canonical) (l : List (Nat × Nat)) : (Device.flushBits l d).Canonical := by
  induction l generalizing d with
  | nil => exact h
  | cons e l ih =>
    unfold Device.flushBits
    split
    · exact h
    · exact ih (Device.putBit_canonical h _)

theorem Device.markBit_canonical {d : Device} (h : d.Canonical) (e : Nat × Nat) :
    Device.Canonical (Device.markBit d e) := by
  unfold Device.markBit
  repeat' first
    | with_reducible assumption
    | with_reducible apply Device.flushBits_canonical

theorem Device.logWrite_canonical {d : Device} (h : d.Canonical) (t : Nat) (a : Nat) (n : Nat) :
    Device.Canonical (Device.logWrite d t a n) := by
  unfold Device.logWrite
  repeat' first
    | with_reducible assumption
    | with_reducible apply Device.markBit_canonical
    | simp only [Device.canonical_mk]
    | with_reducible apply Device.stores_canonical
    | with_reducible apply stores_canonical_filter
    | with_reducible apply stores_canonical_mem
    | with_reducible apply stores_canonical_clear
    | with_reducible apply Device.reset_canonical
    | with_reducible apply stores_canonical_sram
    | with_reducible apply stores_canonical_empty
    | split
    | dsimp only
    | with_reducible apply foldl_canonical
    | intro _

theorem Device.tenWrite_canonical {d : Device} (h : d.Canonical) (t : Nat) (a : Nat) (bs : List Byte) :
    Device.Canonical (Device.tenWrite d t a bs) := by
  unfold Device.tenWrite
  repeat' first
    | with_reducible assumption
    | with_reducible apply Device.wr_canonical
    | with_reducible apply Device.logWrite_canonical

theorem Device.latencyMiss_canonical {d : Device} (h : d.Canonical) (cls : Nat) :
    Device.Canonical (Device.latencyMiss d cls) := by
  unfold Device.latencyMiss
  repeat' first
    | with_reducible assumption
    | with_reducible apply Device.raise_canonical
    | with_reducible apply Device.orReg_canonical
    | with_reducible apply Device.addCount_canonical

theorem Device.checkLatency_canonical {d : Device} (h : d.Canonical) (a : Nat) (elapsed : Nat) :
    Device.Canonical (Device.checkLatency d a elapsed) := by
  unfold Device.checkLatency
  repeat' first
    | with_reducible assumption
    | with_reducible apply Device.latencyMiss_canonical
    | dsimp only
    | with_reducible apply Device.stores_canonical
    | with_reducible apply stores_canonical_filter
    | with_reducible apply stores_canonical_mem
    | with_reducible apply stores_canonical_clear
    | with_reducible apply Device.reset_canonical
    | with_reducible apply stores_canonical_sram
    | with_reducible apply stores_canonical_empty
    | split

theorem Device.checkWindowLatency_canonical {d : Device} (h : d.Canonical) (t : Nat) (a : Nat) (elapsed : Nat) :
    Device.Canonical (Device.checkWindowLatency d t a elapsed) := by
  unfold Device.checkWindowLatency
  repeat' first
    | with_reducible assumption
    | with_reducible apply Device.orReg_canonical
    | with_reducible apply Device.addCount_canonical
    | simp only [Device.canonical_mk]
    | with_reducible apply Device.stores_canonical
    | with_reducible apply stores_canonical_filter
    | with_reducible apply stores_canonical_mem
    | with_reducible apply stores_canonical_clear
    | with_reducible apply Device.reset_canonical
    | with_reducible apply stores_canonical_sram
    | with_reducible apply stores_canonical_empty
    | split

theorem Device.setHalf_canonical {d : Device} (h : d.Canonical) (half : Nat) (h : HalfReg) :
    Device.Canonical (Device.setHalf d half h) := by
  unfold Device.setHalf
  repeat' first
    | with_reducible assumption
    | simp only [Device.canonical_mk]
    | with_reducible apply Device.stores_canonical
    | with_reducible apply stores_canonical_filter
    | with_reducible apply stores_canonical_mem
    | with_reducible apply stores_canonical_clear
    | with_reducible apply Device.reset_canonical
    | with_reducible apply stores_canonical_sram
    | with_reducible apply stores_canonical_empty
    | split

theorem Device.stampClasses_canonical {d : Device} (h : d.Canonical) (l : List Nat) :
    Device.Canonical (Device.stampClasses d l) := by
  unfold Device.stampClasses
  repeat' first
    | with_reducible assumption
    | with_reducible apply Device.setReg_canonical
    | simp only [Device.canonical_mk]
    | with_reducible apply Device.stores_canonical
    | with_reducible apply stores_canonical_filter
    | with_reducible apply stores_canonical_mem
    | with_reducible apply stores_canonical_clear
    | with_reducible apply Device.reset_canonical
    | with_reducible apply stores_canonical_sram
    | with_reducible apply stores_canonical_empty
    | split
    | with_reducible apply foldl_canonical
    | intro _

theorem Device.throttleStep_canonical {d : Device} (h : d.Canonical) (half : Nat) :
    Device.Canonical (Device.throttleStep d half) := by
  unfold Device.throttleStep
  repeat' first
    | with_reducible assumption
    | with_reducible apply Device.setHalf_canonical
    | with_reducible apply Device.orReg_canonical
    | with_reducible apply Device.addCount_canonical
    | with_reducible apply Device.latch_canonical
    | with_reducible apply Device.raise_canonical
    | with_reducible apply Device.stampClasses_canonical
    | dsimp only
    | with_reducible apply Device.stores_canonical
    | with_reducible apply stores_canonical_filter
    | with_reducible apply stores_canonical_mem
    | with_reducible apply stores_canonical_clear
    | with_reducible apply Device.reset_canonical
    | with_reducible apply stores_canonical_sram
    | with_reducible apply stores_canonical_empty
    | split

theorem Device.cleanWindow_canonical {d : Device} (h : d.Canonical) (half : Nat) :
    Device.Canonical (Device.cleanWindow d half) := by
  unfold Device.cleanWindow
  repeat' first
    | with_reducible assumption
    | with_reducible apply Device.addCount_canonical
    | with_reducible apply Device.setHalf_canonical
    | dsimp only
    | with_reducible apply Device.stores_canonical
    | with_reducible apply stores_canonical_filter
    | with_reducible apply stores_canonical_mem
    | with_reducible apply stores_canonical_clear
    | with_reducible apply Device.reset_canonical
    | with_reducible apply stores_canonical_sram
    | with_reducible apply stores_canonical_empty
    | split

theorem Device.judgeHalf_canonical {d : Device} (h : d.Canonical) (w : DdrWindow) (half : Nat) :
    Device.Canonical (Device.judgeHalf d w half) := by
  unfold Device.judgeHalf
  repeat' first
    | with_reducible assumption
    | with_reducible apply Device.cleanWindow_canonical
    | with_reducible apply Device.throttleStep_canonical
    | with_reducible apply Device.orReg_canonical
    | simp only [Device.canonical_mk]
    | with_reducible apply Device.stores_canonical
    | with_reducible apply stores_canonical_filter
    | with_reducible apply stores_canonical_mem
    | with_reducible apply stores_canonical_clear
    | with_reducible apply Device.reset_canonical
    | with_reducible apply stores_canonical_sram
    | with_reducible apply stores_canonical_empty
    | split
    | with_reducible apply foldl_canonical
    | intro _

theorem Device.copyCounts_canonical {d : Device} (h : d.Canonical) :
    Device.Canonical (Device.copyCounts d) := by
  unfold Device.copyCounts
  repeat' first
    | with_reducible assumption
    | with_reducible apply Device.setReg_canonical
    | dsimp only
    | with_reducible apply Device.stores_canonical
    | with_reducible apply stores_canonical_filter
    | with_reducible apply stores_canonical_mem
    | with_reducible apply stores_canonical_clear
    | with_reducible apply Device.reset_canonical
    | with_reducible apply stores_canonical_sram
    | with_reducible apply stores_canonical_empty
    | split
    | dsimp only
    | with_reducible apply foldl_canonical
    | intro _

theorem execDdrTempRead_canonical (channel : Fin 8) (above85 : Bool) (above95 : Bool) {s₁ s₂ : State} (h : s₁.dev.Canonical)
    (e : execDdrTempRead channel above85 above95 s₁ = .next s₂) : s₂.dev.Canonical := by
  unfold execDdrTempRead at e
  refine actPaced_canonical (fun d h => ?_) h e
  repeat' first
    | with_reducible assumption
    | with_reducible apply Device.setFld_canonical
    | with_reducible apply Device.orReg_canonical
    | dsimp only
    | with_reducible apply Device.stores_canonical
    | simp only [Did.canonical_done]
    | split

theorem execDdrCountWindowEnd_canonical (w : DdrWindow) {s₁ s₂ : State} (h : s₁.dev.Canonical)
    (e : execDdrCountWindowEnd w s₁ = .next s₂) : s₂.dev.Canonical := by
  unfold execDdrCountWindowEnd at e
  refine actPaced_canonical (fun d h => ?_) h e
  repeat' first
    | with_reducible assumption
    | with_reducible apply Device.judgeHalf_canonical
    | with_reducible apply Device.copyCounts_canonical
    | simp only [Device.canonical_mk]
    | with_reducible apply Device.stores_canonical

theorem execQuarryPatrol_canonical (q : Fin 2) (line : Fin 3145728) (ecc : Ecc) {s₁ s₂ : State} (h : s₁.dev.Canonical)
    (e : execQuarryPatrol q line ecc s₁ = .next s₂) : s₂.dev.Canonical := by
  unfold execQuarryPatrol at e
  refine actLive_canonical (fun d h => ?_) h e
  repeat' first
    | with_reducible assumption
    | with_reducible apply Device.memEcc_canonical

theorem execDdrPatrol_canonical (channel : Fin 8) (addr : Nat) (ecc : Ecc) {s₁ s₂ : State} (h : s₁.dev.Canonical)
    (e : execDdrPatrol channel addr ecc s₁ = .next s₂) : s₂.dev.Canonical := by
  unfold execDdrPatrol at e
  refine actLive_canonical (fun d h => ?_) h e
  repeat' first
    | with_reducible assumption
    | with_reducible apply Device.noted_canonical
    | with_reducible apply Device.memEcc_canonical
    | simp only [Device.canonical_mk]
    | with_reducible apply Device.stores_canonical
    | simp only [Did.canonical_done]
    | split

theorem execDdrRefresh_canonical (channel : Fin 8) (managed : Bool) {s₁ s₂ : State} (h : s₁.dev.Canonical)
    (e : execDdrRefresh channel managed s₁ = .next s₂) : s₂.dev.Canonical := by
  unfold execDdrRefresh at e
  refine actLive_canonical (fun d h => ?_) h e
  repeat' first
    | with_reducible assumption
    | simp only [Device.canonical_mk]
    | with_reducible apply Device.stores_canonical

end Sys2Proof.Machine
end

