-- ==== Sys2Proof/Laws/CanonStreamers.lean ====
section
/-!
SUPPORT. The operations and meanings of Machine/Streamers.lean keep the stores canonical.
-/

namespace Sys2Proof.Machine

theorem Veto.did_canonical {d : Device} (h : d.Canonical) (v : Veto) : (v.did d).Canonical := by
  cases v with
  | fault s t => trivial
  | ends s t => exact h

theorem Device.linkFailed_canonical {d : Device} (h : d.Canonical) (x1 : Pc) :
    Device.Canonical (Device.linkFailed d x1) := by
  unfold Device.linkFailed
  repeat' first
    | with_reducible assumption
    | with_reducible apply Device.orReg_canonical
    | simp only [Device.canonical_mk]
    | with_reducible apply Device.stores_canonical
    | with_reducible apply stores_canonical_filter
    | with_reducible apply stores_canonical_mem
    | with_reducible apply stores_canonical_clear
    | with_reducible apply Device.reset_canonical
    | with_reducible apply stores_canonical_sram
    | with_reducible apply stores_canonical_empty
    | split

theorem Device.noteVeto_canonical {d : Device} (h : d.Canonical) (a : Nat) (v : Veto) :
    Device.Canonical (Device.noteVeto d a v) := by
  unfold Device.noteVeto
  repeat' first
    | with_reducible assumption
    | with_reducible apply Device.linkFailed_canonical
    | simp only [Device.canonical_mk]
    | with_reducible apply Device.stores_canonical
    | with_reducible apply stores_canonical_filter
    | with_reducible apply stores_canonical_mem
    | with_reducible apply stores_canonical_clear
    | with_reducible apply Device.reset_canonical
    | with_reducible apply stores_canonical_sram
    | with_reducible apply stores_canonical_empty
    | split

theorem Device.emitRead_canonical {d : Device} (h : d.Canonical) (pc : Pc) (owner : OutOwner) (a : Nat) (n : Nat) :
    Device.Canonical (Device.emitRead d pc owner a n) := by
  unfold Device.emitRead
  repeat' first
    | with_reducible assumption
    | with_reducible apply Device.emit_canonical
    | simp only [Device.canonical_mk]
    | with_reducible apply Device.stores_canonical

theorem Device.emitReads_canonical {d : Device} (h : d.Canonical) (pc : Pc) (owner : OutOwner) (a : Nat) (n : Nat) :
    Device.Canonical (Device.emitReads d pc owner a n) := by
  unfold Device.emitReads
  repeat' first
    | with_reducible assumption
    | with_reducible apply Device.emitRead_canonical
    | simp only [Device.canonical_mk]
    | with_reducible apply Device.stores_canonical
    | with_reducible apply stores_canonical_filter
    | with_reducible apply stores_canonical_mem
    | with_reducible apply stores_canonical_clear
    | with_reducible apply Device.reset_canonical
    | with_reducible apply stores_canonical_sram
    | with_reducible apply stores_canonical_empty
    | split
    | dsimp only
    | with_reducible apply foldl_canonical
    | intro _

theorem Device.emitWrites_canonical {d : Device} (h : d.Canonical) (pc : Pc) (a : Nat) (bs : List Byte) :
    Device.Canonical (Device.emitWrites d pc a bs) := by
  unfold Device.emitWrites
  repeat' first
    | with_reducible assumption
    | with_reducible apply Device.emit_canonical
    | simp only [Device.canonical_mk]
    | with_reducible apply Device.stores_canonical
    | with_reducible apply stores_canonical_filter
    | with_reducible apply stores_canonical_mem
    | with_reducible apply stores_canonical_clear
    | with_reducible apply Device.reset_canonical
    | with_reducible apply stores_canonical_sram
    | with_reducible apply stores_canonical_empty
    | split
    | with_reducible apply foldl_canonical
    | intro _

theorem Device.advance_canonical {d : Device} (h : d.Canonical) (core : Nat) (c : Nat) (t : Transfer) (room : Nat) :
    (Device.advance d core c t room).2.1.Canonical := by
  unfold Device.advance
  repeat' first
    | with_reducible assumption
    | with_reducible apply Device.linesIssue_canonical
    | with_reducible apply Device.emitRead_canonical
    | dsimp only
    | with_reducible apply Device.stores_canonical
    | with_reducible apply stores_canonical_filter
    | with_reducible apply stores_canonical_mem
    | with_reducible apply stores_canonical_clear
    | with_reducible apply Device.reset_canonical
    | with_reducible apply stores_canonical_sram
    | with_reducible apply stores_canonical_empty
    | split
    | dsimp only
    | with_reducible apply foldl_canonical
    | intro _

theorem Device.launch_canonical {d : Device} (h : d.Canonical) (q : Seat) (b : Bank) (k : UnitKind) (far : Nat) (near : Nat) (bytes : Nat) (farBytes : Nat) (kind : TransferKind) (data : List Byte) :
    (Device.launch d q b k far near bytes farBytes kind data).1.Canonical := by
  unfold Device.launch
  repeat' first
    | with_reducible assumption
    | with_reducible apply Device.logWrite_canonical
    | with_reducible apply Device.advance_canonical
    | simp only [Device.canonical_mk]
    | with_reducible apply Device.stores_canonical
    | with_reducible apply stores_canonical_filter
    | with_reducible apply stores_canonical_mem
    | with_reducible apply stores_canonical_clear
    | with_reducible apply Device.reset_canonical
    | with_reducible apply stores_canonical_sram
    | with_reducible apply stores_canonical_empty
    | split

theorem xfer_canonical {d : Device} (h : d.Canonical) (q : Seat) (b : Bank) (store : Bool) (op : XferOp) :
    Did.Canonical (xfer d q b store op) := by
  unfold xfer
  repeat' first
    | with_reducible assumption
    | with_reducible apply Veto.did_canonical
    | with_reducible apply Device.noteVeto_canonical
    | with_reducible apply Device.launch_canonical
    | dsimp only
    | with_reducible apply Device.stores_canonical
    | with_reducible apply stores_canonical_filter
    | with_reducible apply stores_canonical_mem
    | with_reducible apply stores_canonical_clear
    | with_reducible apply Device.reset_canonical
    | with_reducible apply stores_canonical_sram
    | with_reducible apply stores_canonical_empty
    | split
    | simp only [Did.canonical_done, Did.canonical_ends, Did.canonical_fault, Did.canonical_hold]

theorem Device.setObj_canonical {d : Device} (h : d.Canonical) (q : Seat) (o : Nat) (v : Half) :
    Device.Canonical (Device.setObj d q o v) := by
  unfold Device.setObj
  repeat' first
    | with_reducible assumption
    | simp only [Device.canonical_mk]
    | with_reducible apply Device.stores_canonical

theorem Device.addObj_canonical {d : Device} (h : d.Canonical) {q : Seat} {o n : Nat} {d' : Device}
    (e : d.addObj q o n = some d') : d'.Canonical := by
  unfold Device.addObj at e
  split at e
  · cases e
  · cases e
    exact Device.setObj_canonical h _ _ _

theorem syncSig_canonical {d : Device} (h : d.Canonical) (q : Seat) (b : Bank) (o : Nat) (n : Nat) :
    Did.Canonical (syncSig d q b o n) := by
  unfold syncSig
  repeat' first
    | with_reducible assumption
    | with_reducible refine Device.addObj_canonical ?_ ‹_ = some _›
    | simp only [Device.canonical_mk]
    | with_reducible apply Device.stores_canonical
    | with_reducible apply stores_canonical_filter
    | with_reducible apply stores_canonical_mem
    | with_reducible apply stores_canonical_clear
    | with_reducible apply Device.reset_canonical
    | with_reducible apply stores_canonical_sram
    | with_reducible apply stores_canonical_empty
    | split
    | simp only [Did.canonical_done, Did.canonical_fault]

theorem syncWait_canonical {d : Device} (h : d.Canonical) (q : Seat) (b : Bank) (k : UnitKind) (o : Nat) (v : Half) :
    Did.Canonical (syncWait d q b k o v) := by
  unfold syncWait
  repeat' first
    | with_reducible assumption
    | simp only [Device.canonical_mk]
    | with_reducible apply Device.stores_canonical
    | with_reducible apply stores_canonical_filter
    | with_reducible apply stores_canonical_mem
    | with_reducible apply stores_canonical_clear
    | with_reducible apply Device.reset_canonical
    | with_reducible apply stores_canonical_sram
    | with_reducible apply stores_canonical_empty
    | split
    | simp only [Did.canonical_done]

theorem syncTake_canonical {d : Device} (h : d.Canonical) (q : Seat) (b : Bank) (k : UnitKind) (o : Nat) (n : Half) :
    Did.Canonical (syncTake d q b k o n) := by
  unfold syncTake
  repeat' first
    | with_reducible assumption
    | with_reducible apply Device.setObj_canonical
    | simp only [Device.canonical_mk]
    | with_reducible apply Device.stores_canonical
    | with_reducible apply stores_canonical_filter
    | with_reducible apply stores_canonical_mem
    | with_reducible apply stores_canonical_clear
    | with_reducible apply Device.reset_canonical
    | with_reducible apply stores_canonical_sram
    | with_reducible apply stores_canonical_empty
    | split
    | simp only [Did.canonical_done]

theorem syncSigdone_canonical {d : Device} (h : d.Canonical) (q : Seat) (b : Bank) (k : UnitKind) (o : Nat) (n : BitVec 16) :
    Did.Canonical (syncSigdone d q b k o n) := by
  unfold syncSigdone
  repeat' first
    | with_reducible assumption
    | with_reducible apply syncSig_canonical
    | simp only [Device.canonical_mk]
    | with_reducible apply Device.stores_canonical
    | with_reducible apply stores_canonical_filter
    | with_reducible apply stores_canonical_mem
    | with_reducible apply stores_canonical_clear
    | with_reducible apply Device.reset_canonical
    | with_reducible apply stores_canonical_sram
    | with_reducible apply stores_canonical_empty
    | split
    | simp only [Did.canonical_done, Did.canonical_hold]

theorem walkGo_canonical (q : Seat) (n : Nat) {d : Device} (h : d.Canonical) (b : Bank) : (walkGo q n d b).Canonical := by
  induction n generalizing d b with
  | zero => exact h
  | succ n ih =>
    unfold walkGo
    dsimp only
    repeat' first
      | with_reducible assumption
      | simp only [Did.canonical_done, Did.canonical_fault]
      | apply ih
      | with_reducible apply Veto.did_canonical
      | with_reducible apply Device.noteVeto_canonical
      | with_reducible apply Device.launch_canonical
      | with_reducible apply Device.setObj_canonical
      | simp only [Device.canonical_mk]
      | with_reducible apply Device.stores_canonical
      | split

theorem walk_canonical {d : Device} (h : d.Canonical) (q : Seat) (b : Bank) (op : WalkOp) :
    Did.Canonical (walk d q b op) := by
  unfold walk
  repeat' first
    | with_reducible assumption
    | with_reducible apply walkGo_canonical
    | simp only [Device.canonical_mk]
    | with_reducible apply Device.stores_canonical
    | with_reducible apply stores_canonical_filter
    | with_reducible apply stores_canonical_mem
    | with_reducible apply stores_canonical_clear
    | with_reducible apply Device.reset_canonical
    | with_reducible apply stores_canonical_sram
    | with_reducible apply stores_canonical_empty
    | simp only [Did.canonical_fault, Did.canonical_hold]
    | split

theorem orderedIssue_canonical {d : Device} (h : d.Canonical) (q : Seat) (b : Bank) (k : UnitKind) (op : OrderedOp) :
    Did.Canonical (orderedIssue d q b k op) := by
  unfold orderedIssue
  repeat' first
    | with_reducible assumption
    | with_reducible apply Veto.did_canonical
    | with_reducible apply Device.noteVeto_canonical
    | with_reducible apply Device.launch_canonical
    | dsimp only
    | with_reducible apply Device.stores_canonical
    | with_reducible apply stores_canonical_filter
    | with_reducible apply stores_canonical_mem
    | with_reducible apply stores_canonical_clear
    | with_reducible apply Device.reset_canonical
    | with_reducible apply stores_canonical_sram
    | with_reducible apply stores_canonical_empty
    | split
    | simp only [Did.canonical_done, Did.canonical_ends, Did.canonical_fault]

theorem orderedStart_canonical {d : Device} (h : d.Canonical) (q : Seat) (b : Bank) (k : UnitKind) (op : OrderedOp) :
    Did.Canonical (orderedStart d q b k op) := by
  unfold orderedStart
  repeat' first
    | with_reducible assumption
    | with_reducible apply orderedIssue_canonical
    | simp only [Device.canonical_mk]
    | with_reducible apply Device.stores_canonical
    | with_reducible apply stores_canonical_filter
    | with_reducible apply stores_canonical_mem
    | with_reducible apply stores_canonical_clear
    | with_reducible apply Device.reset_canonical
    | with_reducible apply stores_canonical_sram
    | with_reducible apply stores_canonical_empty
    | split
    | simp only [Did.canonical_done]

theorem digest_canonical {d : Device} (h : d.Canonical) (q : Seat) (b : Bank) (x3 : DigestOp) :
    Did.Canonical (digest d q b x3) := by
  unfold digest
  repeat' first
    | with_reducible assumption
    | with_reducible apply Device.modRun_canonical
    | dsimp only
    | with_reducible apply Device.stores_canonical
    | with_reducible apply stores_canonical_filter
    | with_reducible apply stores_canonical_mem
    | with_reducible apply stores_canonical_clear
    | with_reducible apply Device.reset_canonical
    | with_reducible apply stores_canonical_sram
    | with_reducible apply stores_canonical_empty
    | split
    | simp only [Did.canonical_done]

theorem loopOp_canonical {d : Device} (h : d.Canonical) (q : Seat) (b : Bank) (k : UnitKind) (n : LoopCount) :
    Did.Canonical (loopOp d q b k n) := by
  unfold loopOp
  repeat' first
    | with_reducible assumption
    | with_reducible refine Device.lineIssue_canonical ?_ ‹_ = some _›
    | with_reducible apply Device.serve_canonical
    | dsimp only
    | with_reducible apply Device.stores_canonical
    | with_reducible apply stores_canonical_filter
    | with_reducible apply stores_canonical_mem
    | with_reducible apply stores_canonical_clear
    | with_reducible apply Device.reset_canonical
    | with_reducible apply stores_canonical_sram
    | with_reducible apply stores_canonical_empty
    | simp only [Did.canonical_done, Did.canonical_ends, Did.canonical_fault, Did.canonical_hold]
    | split

theorem endOp_canonical {d : Device} (h : d.Canonical) (b : Bank) (k : UnitKind) :
    Did.Canonical (endOp d b k) := by
  unfold endOp
  repeat' first
    | with_reducible assumption
    | dsimp only
    | with_reducible apply Device.stores_canonical
    | with_reducible apply stores_canonical_filter
    | with_reducible apply stores_canonical_mem
    | with_reducible apply stores_canonical_clear
    | with_reducible apply Device.reset_canonical
    | with_reducible apply stores_canonical_sram
    | with_reducible apply stores_canonical_empty
    | split
    | simp only [Did.canonical_done]

theorem landParts_canonical {d : Device} (h : d.Canonical) (c core near : Nat) (ps : List StoredPart) (got : List Byte) :
    (landParts d c core near ps got).Canonical := by
  induction ps generalizing d near got with
  | nil => exact h
  | cons p ps ih =>
    refine ih ?_ _ _
    split
    · exact foldl_canonical (fun _ _ hd => Device.shareWrite_canonical hd _ _ _ _) _ h
    · exact Device.shareWrite_canonical h _ _ _ _

theorem Device.writeRowSums_canonical {d : Device} (h : d.Canonical) (c : Nat) (core : Nat) (off : Nat) (f : Fmt) (bs : List Byte) :
    Device.Canonical (Device.writeRowSums d c core off f bs) := by
  unfold Device.writeRowSums
  repeat' first
    | with_reducible assumption
    | with_reducible apply Device.shareWrite_canonical

theorem landLoad_canonical {d : Device} (h : d.Canonical) (c : Nat) (core : Nat) (b : Bank) (t : Transfer) (stored : List Byte) :
    (landLoad d c core b t stored).1.Canonical := by
  unfold landLoad
  repeat' first
    | with_reducible assumption
    | with_reducible apply Device.shareWrite_canonical
    | with_reducible apply Device.writeRowSums_canonical
    | with_reducible apply landParts_canonical
    | dsimp only
    | with_reducible apply Device.stores_canonical
    | with_reducible apply stores_canonical_filter
    | with_reducible apply stores_canonical_mem
    | with_reducible apply stores_canonical_clear
    | with_reducible apply Device.reset_canonical
    | with_reducible apply stores_canonical_sram
    | with_reducible apply stores_canonical_empty
    | split

theorem storeLine_canonical {d : Device} (h : d.Canonical) (a : Nat) (bs : List Byte) :
    Device.Canonical (storeLine d a bs) := by
  unfold storeLine
  repeat' first
    | with_reducible assumption
    | with_reducible apply Device.emitWrites_canonical
    | with_reducible apply Device.wr_canonical
    | simp only [Device.canonical_mk]
    | with_reducible apply Device.stores_canonical
    | with_reducible apply stores_canonical_filter
    | with_reducible apply stores_canonical_mem
    | with_reducible apply stores_canonical_clear
    | with_reducible apply Device.reset_canonical
    | with_reducible apply stores_canonical_sram
    | with_reducible apply stores_canonical_empty
    | split

theorem walkLanded_canonical {d : Device} (h : d.Canonical) (c : Nat) (core : Nat) (t : Transfer) :
    Device.Canonical (walkLanded d c core t) := by
  unfold walkLanded
  repeat' first
    | with_reducible assumption
    | with_reducible refine Device.addObj_canonical ?_ ‹_ = some _›
    | with_reducible apply Device.ctxFault_canonical
    | simp only [Device.canonical_mk]
    | with_reducible apply Device.stores_canonical
    | with_reducible apply stores_canonical_filter
    | with_reducible apply stores_canonical_mem
    | with_reducible apply stores_canonical_clear
    | with_reducible apply Device.reset_canonical
    | with_reducible apply stores_canonical_sram
    | with_reducible apply stores_canonical_empty
    | split

theorem Device.setTransfer_canonical {d : Device} (h : d.Canonical) (core : Nat) (c : Nat) (t : Transfer) :
    Device.Canonical (Device.setTransfer d core c t) := by
  unfold Device.setTransfer
  repeat' first
    | with_reducible assumption
    | with_reducible apply Device.setBank_canonical

theorem Device.cutTransfer_canonical {d : Device} (h : d.Canonical) (core : Nat) (c : Nat) (t : Transfer) :
    Device.Canonical (Device.cutTransfer d core c t) := by
  unfold Device.cutTransfer
  repeat' first
    | with_reducible assumption
    | with_reducible apply Device.setBank_canonical
    | with_reducible apply Device.setTransfer_canonical
    | simp only [Device.canonical_mk]
    | with_reducible apply Device.stores_canonical
    | with_reducible apply stores_canonical_filter
    | with_reducible apply stores_canonical_mem
    | with_reducible apply stores_canonical_clear
    | with_reducible apply Device.reset_canonical
    | with_reducible apply stores_canonical_sram
    | with_reducible apply stores_canonical_empty
    | split

theorem Device.reissue_canonical {d : Device} (h : d.Canonical) (core : Nat) (c : Nat) (t : Transfer) :
    Device.Canonical (Device.reissue d core c t) := by
  unfold Device.reissue
  repeat' first
    | with_reducible assumption
    | with_reducible apply Device.advance_canonical
    | with_reducible apply Device.setTransfer_canonical
    | with_reducible apply Device.stopRun_canonical
    | with_reducible apply Device.cutTransfer_canonical
    | dsimp only
    | with_reducible apply Device.stores_canonical
    | with_reducible apply stores_canonical_filter
    | with_reducible apply stores_canonical_mem
    | with_reducible apply stores_canonical_clear
    | with_reducible apply Device.reset_canonical
    | with_reducible apply stores_canonical_sram
    | with_reducible apply stores_canonical_empty
    | split

theorem Device.reissueCore_canonical {d : Device} (h : d.Canonical) (core : Nat) :
    Device.Canonical (Device.reissueCore d core) := by
  unfold Device.reissueCore
  repeat' first
    | with_reducible assumption
    | with_reducible apply Device.reissue_canonical
    | simp only [Device.canonical_mk]
    | with_reducible apply Device.stores_canonical
    | with_reducible apply stores_canonical_filter
    | with_reducible apply stores_canonical_mem
    | with_reducible apply stores_canonical_clear
    | with_reducible apply Device.reset_canonical
    | with_reducible apply stores_canonical_sram
    | with_reducible apply stores_canonical_empty
    | split
    | dsimp only
    | with_reducible apply foldl_canonical
    | intro _

theorem Device.complete_canonical {d : Device} (h : d.Canonical) (core : Nat) (c : Nat) (t : Transfer) :
    Device.Canonical (Device.complete d core c t) := by
  unfold Device.complete
  repeat' first
    | with_reducible assumption
    | with_reducible apply Device.setBank_canonical
    | with_reducible apply Device.chunkEnd_canonical
    | with_reducible apply landLoad_canonical
    | with_reducible apply walkLanded_canonical
    | dsimp only
    | with_reducible apply Device.stores_canonical
    | with_reducible apply stores_canonical_filter
    | with_reducible apply stores_canonical_mem
    | with_reducible apply stores_canonical_clear
    | with_reducible apply Device.reset_canonical
    | with_reducible apply stores_canonical_sram
    | with_reducible apply stores_canonical_empty
    | split

theorem Device.noteStored_canonical {d : Device} (h : d.Canonical) (core : Nat) (c : Nat) (a : Nat) :
    Device.Canonical (Device.noteStored d core c a) := by
  unfold Device.noteStored
  repeat' first
    | with_reducible assumption
    | with_reducible apply Device.modRun_canonical
    | simp only [Device.canonical_mk]
    | with_reducible apply Device.stores_canonical
    | with_reducible apply stores_canonical_filter
    | with_reducible apply stores_canonical_mem
    | with_reducible apply stores_canonical_clear
    | with_reducible apply Device.reset_canonical
    | with_reducible apply stores_canonical_sram
    | with_reducible apply stores_canonical_empty
    | split
    | dsimp only
    | with_reducible apply foldl_canonical
    | intro _

theorem lineDone_canonical {d : Device} (h : d.Canonical) (core : Nat) (c : Nat) (t : Transfer) (off : Nat) (tick : Nat) :
    (lineDone core c d t off tick).1.Canonical := by
  unfold lineDone
  repeat' first
    | with_reducible assumption
    | with_reducible apply Device.checkLatency_canonical
    | with_reducible apply Device.serveLine_canonical
    | with_reducible apply Device.checkWindowLatency_canonical
    | with_reducible apply Device.noteStored_canonical
    | with_reducible apply storeLine_canonical
    | dsimp only
    | with_reducible apply Device.stores_canonical
    | with_reducible apply stores_canonical_filter
    | with_reducible apply stores_canonical_mem
    | with_reducible apply stores_canonical_clear
    | with_reducible apply Device.reset_canonical
    | with_reducible apply stores_canonical_sram
    | with_reducible apply stores_canonical_empty
    | split

theorem linesDone_canonical {x3 : Device} (h : x3.Canonical) (core : Nat) (c : Nat) (x2 : List (Nat × Nat)) (x4 : Transfer) :
    (linesDone core c x2 x3 x4).1.Canonical := by
  fun_induction linesDone core c x2 x3 x4
  repeat' first
    | with_reducible assumption
    | with_reducible apply_assumption
    | with_reducible apply lineDone_canonical

theorem Device.progress_canonical {d : Device} (h : d.Canonical) (core : Nat) (c : Nat) (t : Transfer) :
    Device.Canonical (Device.progress d core c t) := by
  unfold Device.progress
  repeat' first
    | with_reducible assumption
    | with_reducible apply Device.setTransfer_canonical
    | with_reducible apply Device.complete_canonical
    | with_reducible apply Device.reissueCore_canonical
    | simp only [Device.canonical_mk]
    | with_reducible apply Device.stores_canonical
    | with_reducible apply stores_canonical_filter
    | with_reducible apply stores_canonical_mem
    | with_reducible apply stores_canonical_clear
    | with_reducible apply Device.reset_canonical
    | with_reducible apply stores_canonical_sram
    | with_reducible apply stores_canonical_empty
    | split

theorem transferComplete_canonical {d : Device} (h : d.Canonical) (core : Nat) (k : UnitKind) (c : Nat) (id : Nat) (lines : Nat) (ecc : Ecc) :
    Device.Canonical (transferComplete d core k c id lines ecc) := by
  unfold transferComplete
  repeat' first
    | with_reducible assumption
    | with_reducible apply Device.ctxUncorr_canonical
    | with_reducible apply Device.setBank_canonical
    | with_reducible apply Device.noteUe_canonical
    | with_reducible apply linesDone_canonical
    | with_reducible apply Device.memEcc_canonical
    | with_reducible apply Device.progress_canonical
    | dsimp only
    | with_reducible apply Device.stores_canonical
    | with_reducible apply stores_canonical_filter
    | with_reducible apply stores_canonical_mem
    | with_reducible apply stores_canonical_clear
    | with_reducible apply Device.reset_canonical
    | with_reducible apply stores_canonical_sram
    | with_reducible apply stores_canonical_empty
    | split

theorem released_canonical {d : Device} (h : d.Canonical) {q : Seat} {b : Bank} {k : UnitKind} {w : WaitCond} {x : Did}
    (e : released d q b k w = some x) : x.Canonical := by
  unfold released at e
  dsimp only at e
  repeat' split at e
  all_goals cases e
  · exact h
  · exact walkGo_canonical _ _ h _
  · exact Device.setObj_canonical h _ _ _
  · exact syncSig_canonical h _ _ _ _
  · exact orderedIssue_canonical h _ _ _ _

theorem Device.settleWait_canonical {d : Device} (h : d.Canonical) (q : Seat) {x : Did} (hx : x.Canonical) :
    (d.settleWait q x).Canonical := by
  cases x with
  | done d' b => exact Device.setBank_canonical hx _ _ _
  | fault status detail => exact Device.ctxFault_canonical h _ _ _ _
  | ends d' status detail => exact Device.stopRun_canonical hx _ _ _
  | hold => exact h

theorem syncRelease_canonical {d : Device} (h : d.Canonical) (core : Nat) (k : UnitKind) :
    Device.Canonical (syncRelease d core k) := by
  unfold syncRelease
  repeat' first
    | with_reducible assumption
    | with_reducible refine released_canonical ?_ ‹_ = some _›
    | with_reducible apply Device.settleWait_canonical
    | dsimp only
    | with_reducible apply Device.stores_canonical
    | with_reducible apply stores_canonical_filter
    | with_reducible apply stores_canonical_mem
    | with_reducible apply stores_canonical_clear
    | with_reducible apply Device.reset_canonical
    | with_reducible apply stores_canonical_sram
    | with_reducible apply stores_canonical_empty
    | split

theorem execLoop_canonical (u : CoreUse) (unit : UnitKind) (count : LoopCount) {s₁ s₂ : State} (h : s₁.dev.Canonical)
    (e : execLoop u unit count s₁ = .next s₂) : s₂.dev.Canonical := by
  unfold execLoop at e
  refine actLive_canonical (fun d h => ?_) h e
  repeat' first
    | with_reducible assumption
    | with_reducible apply Device.issueEcc_canonical
    | with_reducible apply loopOp_canonical
    | simp only [Device.canonical_mk]
    | with_reducible apply Device.stores_canonical
    | simp only [Did.canonical_done]
    | split
    | with_reducible apply foldl_canonical
    | intro _

theorem execEnd_canonical (u : CoreUse) (unit : UnitKind) {s₁ s₂ : State} (h : s₁.dev.Canonical)
    (e : execEnd u unit s₁ = .next s₂) : s₂.dev.Canonical := by
  unfold execEnd at e
  refine actLive_canonical (fun d h => ?_) h e
  repeat' first
    | with_reducible assumption
    | with_reducible apply Device.issueEcc_canonical
    | with_reducible apply endOp_canonical
    | simp only [Device.canonical_mk]
    | with_reducible apply Device.stores_canonical
    | simp only [Did.canonical_done]
    | split
    | with_reducible apply foldl_canonical
    | intro _

theorem execXfer_canonical (u : CoreUse) (store : Bool) (op : XferOp) {s₁ s₂ : State} (h : s₁.dev.Canonical)
    (e : execXfer u store op s₁ = .next s₂) : s₂.dev.Canonical := by
  unfold execXfer at e
  refine actLive_canonical (fun d h => ?_) h e
  repeat' first
    | with_reducible assumption
    | with_reducible apply Device.issueEcc_canonical
    | with_reducible apply xfer_canonical
    | simp only [Device.canonical_mk]
    | with_reducible apply Device.stores_canonical
    | simp only [Did.canonical_done]
    | split
    | with_reducible apply foldl_canonical
    | intro _

theorem execWalk_canonical (u : CoreUse) (op : WalkOp) {s₁ s₂ : State} (h : s₁.dev.Canonical)
    (e : execWalk u op s₁ = .next s₂) : s₂.dev.Canonical := by
  unfold execWalk at e
  refine actLive_canonical (fun d h => ?_) h e
  repeat' first
    | with_reducible assumption
    | with_reducible apply Device.issueEcc_canonical
    | with_reducible apply walk_canonical
    | simp only [Device.canonical_mk]
    | with_reducible apply Device.stores_canonical
    | simp only [Did.canonical_done]
    | split
    | with_reducible apply foldl_canonical
    | intro _

theorem execOrdered_canonical (u : CoreUse) (store : Bool) (op : OrderedOp) {s₁ s₂ : State} (h : s₁.dev.Canonical)
    (e : execOrdered u store op s₁ = .next s₂) : s₂.dev.Canonical := by
  unfold execOrdered at e
  refine actLive_canonical (fun d h => ?_) h e
  repeat' first
    | with_reducible assumption
    | with_reducible apply Device.issueEcc_canonical
    | with_reducible apply orderedStart_canonical
    | simp only [Device.canonical_mk]
    | with_reducible apply Device.stores_canonical
    | simp only [Did.canonical_done]
    | split
    | with_reducible apply foldl_canonical
    | intro _

theorem execDigest_canonical (u : CoreUse) (op : DigestOp) {s₁ s₂ : State} (h : s₁.dev.Canonical)
    (e : execDigest u op s₁ = .next s₂) : s₂.dev.Canonical := by
  unfold execDigest at e
  refine actLive_canonical (fun d h => ?_) h e
  repeat' first
    | with_reducible assumption
    | with_reducible apply Device.issueEcc_canonical
    | with_reducible apply digest_canonical
    | simp only [Device.canonical_mk]
    | with_reducible apply Device.stores_canonical
    | simp only [Did.canonical_done]
    | split
    | with_reducible apply foldl_canonical
    | intro _

theorem execSig_canonical (at_ : SyncAt) (n : BitVec 16) {s₁ s₂ : State} (h : s₁.dev.Canonical)
    (e : execSig at_ n s₁ = .next s₂) : s₂.dev.Canonical := by
  unfold execSig at e
  refine actLive_canonical (fun d h => ?_) h e
  repeat' first
    | with_reducible assumption
    | with_reducible apply Device.issue_canonical
    | with_reducible apply syncSig_canonical
    | simp only [Device.canonical_mk]
    | with_reducible apply Device.stores_canonical
    | simp only [Did.canonical_done]
    | split
    | with_reducible apply foldl_canonical
    | intro _

theorem execWait_canonical (at_ : SyncAt) (v : Half) {s₁ s₂ : State} (h : s₁.dev.Canonical)
    (e : execWait at_ v s₁ = .next s₂) : s₂.dev.Canonical := by
  unfold execWait at e
  refine actLive_canonical (fun d h => ?_) h e
  repeat' first
    | with_reducible assumption
    | with_reducible apply Device.issue_canonical
    | with_reducible apply syncWait_canonical
    | simp only [Device.canonical_mk]
    | with_reducible apply Device.stores_canonical
    | simp only [Did.canonical_done]
    | split
    | with_reducible apply foldl_canonical
    | intro _

theorem execTake_canonical (at_ : SyncAt) (n : Half) {s₁ s₂ : State} (h : s₁.dev.Canonical)
    (e : execTake at_ n s₁ = .next s₂) : s₂.dev.Canonical := by
  unfold execTake at e
  refine actLive_canonical (fun d h => ?_) h e
  repeat' first
    | with_reducible assumption
    | with_reducible apply Device.issue_canonical
    | with_reducible apply syncTake_canonical
    | simp only [Device.canonical_mk]
    | with_reducible apply Device.stores_canonical
    | simp only [Did.canonical_done]
    | split
    | with_reducible apply foldl_canonical
    | intro _

theorem execSet_canonical (at_ : SyncAt) (v : Half) {s₁ s₂ : State} (h : s₁.dev.Canonical)
    (e : execSet at_ v s₁ = .next s₂) : s₂.dev.Canonical := by
  unfold execSet at e
  refine actLive_canonical (fun d h => ?_) h e
  repeat' first
    | with_reducible assumption
    | with_reducible apply Device.issue_canonical
    | with_reducible apply Device.setObj_canonical
    | simp only [Device.canonical_mk]
    | with_reducible apply Device.stores_canonical
    | simp only [Did.canonical_done]
    | split
    | with_reducible apply foldl_canonical
    | intro _

theorem execSigdone_canonical (at_ : SyncAt) (n : BitVec 16) {s₁ s₂ : State} (h : s₁.dev.Canonical)
    (e : execSigdone at_ n s₁ = .next s₂) : s₂.dev.Canonical := by
  unfold execSigdone at e
  refine actLive_canonical (fun d h => ?_) h e
  repeat' first
    | with_reducible assumption
    | with_reducible apply Device.issue_canonical
    | with_reducible apply syncSigdone_canonical
    | simp only [Device.canonical_mk]
    | with_reducible apply Device.stores_canonical
    | simp only [Did.canonical_done]
    | split
    | with_reducible apply foldl_canonical
    | intro _

theorem execSyncWaitReleased_canonical (core : Fin 96) (unit : UnitKind) {s₁ s₂ : State} (h : s₁.dev.Canonical)
    (e : execSyncWaitReleased core unit s₁ = .next s₂) : s₂.dev.Canonical := by
  unfold execSyncWaitReleased at e
  refine actLive_canonical (fun d h => ?_) h e
  repeat' first
    | with_reducible assumption
    | with_reducible apply syncRelease_canonical

theorem execTransferComplete_canonical (core : Fin 96) (unit : UnitKind) (ctx : Fin 256) (id : Nat) (lines : Nat) (ecc : Ecc) {s₁ s₂ : State} (h : s₁.dev.Canonical)
    (e : execTransferComplete core unit ctx id ecc s₁ lines = .next s₂) : s₂.dev.Canonical := by
  unfold execTransferComplete at e
  refine actLive_canonical (fun d h => ?_) h e
  repeat' first
    | with_reducible assumption
    | with_reducible apply transferComplete_canonical

end Sys2Proof.Machine
end

