-- ==== Sys2Proof/Laws/CanonRings.lean ====
section
/-!
SUPPORT. The operations and meanings of Machine/Rings.lean keep the stores canonical.
-/

namespace Sys2Proof.Machine

theorem Device.signal_canonical {d : Device} (h : d.Canonical) (t : Nat) :
    Device.Canonical (Device.signal d t) := by
  unfold Device.signal
  repeat' first
    | with_reducible assumption
    | with_reducible apply Device.emit_canonical
    | with_reducible apply Device.setTen_canonical
    | with_reducible apply Device.raise_canonical
    | dsimp only
    | with_reducible apply Device.stores_canonical
    | with_reducible apply stores_canonical_filter
    | with_reducible apply stores_canonical_mem
    | with_reducible apply stores_canonical_clear
    | with_reducible apply Device.reset_canonical
    | with_reducible apply stores_canonical_sram
    | with_reducible apply stores_canonical_empty
    | split

theorem Device.signalAdmin_canonical {d : Device} (h : d.Canonical) :
    Device.Canonical (Device.signalAdmin d) := by
  unfold Device.signalAdmin
  repeat' first
    | with_reducible assumption
    | with_reducible apply Device.emit_canonical
    | with_reducible apply Device.raise_canonical
    | simp only [Device.canonical_mk]
    | with_reducible apply Device.stores_canonical
    | with_reducible apply stores_canonical_filter
    | with_reducible apply stores_canonical_mem
    | with_reducible apply stores_canonical_clear
    | with_reducible apply Device.reset_canonical
    | with_reducible apply stores_canonical_sram
    | with_reducible apply stores_canonical_empty
    | split

theorem Device.releaseMsi_canonical {d : Device} (h : d.Canonical) (pc : Pc) :
    Device.Canonical (Device.releaseMsi d pc) := by
  unfold Device.releaseMsi
  repeat' first
    | with_reducible assumption
    | with_reducible apply Device.emit_canonical
    | with_reducible apply Device.setTen_canonical
    | simp only [Device.canonical_mk]
    | with_reducible apply Device.stores_canonical
    | with_reducible apply stores_canonical_filter
    | with_reducible apply stores_canonical_mem
    | with_reducible apply stores_canonical_clear
    | with_reducible apply Device.reset_canonical
    | with_reducible apply stores_canonical_sram
    | with_reducible apply stores_canonical_empty
    | split
    | with_reducible apply foldl_canonical
    | intro _

theorem Device.ringLog_canonical {d : Device} (h : d.Canonical) (k : RingRef) (a : Nat) (n : Nat) :
    Device.Canonical (Device.ringLog d k a n) := by
  unfold Device.ringLog
  repeat' first
    | with_reducible assumption
    | with_reducible apply Device.logWrite_canonical
    | simp only [Device.canonical_mk]
    | with_reducible apply Device.stores_canonical
    | with_reducible apply stores_canonical_filter
    | with_reducible apply stores_canonical_mem
    | with_reducible apply stores_canonical_clear
    | with_reducible apply Device.reset_canonical
    | with_reducible apply stores_canonical_sram
    | with_reducible apply stores_canonical_empty
    | split

theorem Device.ringWrite_canonical {d : Device} (h : d.Canonical) (k : RingRef) (a : Nat) (bs : List Byte) :
    Device.Canonical (Device.ringWrite d k a bs) := by
  unfold Device.ringWrite
  repeat' first
    | with_reducible assumption
    | with_reducible apply Device.ringLog_canonical
    | with_reducible apply Device.emitWrites_canonical
    | with_reducible apply Device.coWrite_canonical
    | with_reducible apply Device.charge_canonical
    | dsimp only
    | with_reducible apply Device.stores_canonical
    | with_reducible apply stores_canonical_filter
    | with_reducible apply stores_canonical_mem
    | with_reducible apply stores_canonical_clear
    | with_reducible apply Device.reset_canonical
    | with_reducible apply stores_canonical_sram
    | with_reducible apply stores_canonical_empty
    | split

theorem Device.putEntry_canonical {d : Device} (h : d.Canonical) (k : RingRef) (tags : List Byte) (status detail kind : Byte)
    (index : Half) (payload : List Byte) : (d.putEntry k tags status detail kind index payload).1.Canonical := by
  unfold Device.putEntry
  dsimp only
  repeat' first
    | with_reducible assumption
    | with_reducible apply Device.linkFailed_canonical
    | with_reducible apply Device.setRing_canonical
    | with_reducible apply Device.ringWrite_canonical
    | simp only [Device.canonical_mk]
    | with_reducible apply Device.stores_canonical
    | split

theorem Device.adminFault_canonical {d : Device} (h : d.Canonical) :
    Device.Canonical (Device.adminFault d) := by
  unfold Device.adminFault
  repeat' first
    | with_reducible assumption
    | with_reducible apply Device.orReg_canonical
    | simp only [Device.canonical_mk]
    | with_reducible apply Device.stores_canonical

theorem Device.flushNotices_canonical (n : Nat) {d : Device} (h : d.Canonical) : (Device.flushNotices n d).Canonical := by
  induction n generalizing d with
  | zero => exact h
  | succ n ih =>
    unfold Device.flushNotices
    dsimp only
    repeat' first
      | with_reducible assumption
      | apply ih
      | with_reducible apply Device.putEntry_canonical
      | with_reducible apply Device.signalAdmin_canonical
      | with_reducible apply Device.adminFault_canonical
      | simp only [Device.canonical_mk]
      | with_reducible apply Device.stores_canonical
      | split

theorem Device.notice_canonical {d : Device} (h : d.Canonical) (n : Notice) :
    Device.Canonical (Device.notice d n) := by
  unfold Device.notice
  repeat' first
    | with_reducible assumption
    | with_reducible apply Device.flushNotices_canonical
    | simp only [Device.canonical_mk]
    | with_reducible apply Device.stores_canonical

theorem Device.ringFault_canonical {d : Device} (h : d.Canonical) (k : RingRef) (cause : Byte) :
    Device.Canonical (Device.ringFault d k cause) := by
  unfold Device.ringFault
  repeat' first
    | with_reducible assumption
    | with_reducible apply Device.adminFault_canonical
    | with_reducible apply Device.orReg_canonical
    | with_reducible apply Device.setRing_canonical
    | with_reducible apply Device.notice_canonical
    | dsimp only
    | with_reducible apply Device.stores_canonical
    | with_reducible apply stores_canonical_filter
    | with_reducible apply stores_canonical_mem
    | with_reducible apply stores_canonical_clear
    | with_reducible apply Device.reset_canonical
    | with_reducible apply stores_canonical_sram
    | with_reducible apply stores_canonical_empty
    | split

theorem Device.entry'_canonical {d : Device} (h : d.Canonical) (k : RingRef) (tags : List Byte) (status : Byte) (detail : Byte) (kind : Byte) (index : Half) (payload : List Byte) :
    (Device.entry' d k tags status detail kind index payload).1.Canonical := by
  unfold Device.entry'
  repeat' first
    | with_reducible assumption
    | with_reducible apply Device.putEntry_canonical
    | with_reducible apply Device.ringFault_canonical
    | dsimp only
    | with_reducible apply Device.stores_canonical
    | with_reducible apply stores_canonical_filter
    | with_reducible apply stores_canonical_mem
    | with_reducible apply stores_canonical_clear
    | with_reducible apply Device.reset_canonical
    | with_reducible apply stores_canonical_sram
    | with_reducible apply stores_canonical_empty
    | split

theorem Device.useEntry_canonical {d : Device} (h : d.Canonical) (k : RingRef) :
    Device.Canonical (Device.useEntry d k) := by
  unfold Device.useEntry
  repeat' first
    | with_reducible assumption
    | with_reducible apply Device.setRing_canonical
    | dsimp only
    | with_reducible apply Device.stores_canonical
    | with_reducible apply stores_canonical_filter
    | with_reducible apply stores_canonical_mem
    | with_reducible apply stores_canonical_clear
    | with_reducible apply Device.reset_canonical
    | with_reducible apply stores_canonical_sram
    | with_reducible apply stores_canonical_empty
    | split

theorem Device.popHead_canonical {d : Device} (h : d.Canonical) (k : RingRef) :
    Device.Canonical (Device.popHead d k) := by
  unfold Device.popHead
  repeat' first
    | with_reducible assumption
    | with_reducible apply Device.setRing_canonical

theorem Device.notifyFor_canonical {d : Device} (h : d.Canonical) (k : RingRef) (x : QDesc) :
    Device.Canonical (Device.notifyFor d k x) := by
  unfold Device.notifyFor
  repeat' first
    | with_reducible assumption
    | with_reducible apply Device.signalAdmin_canonical
    | with_reducible apply Device.signal_canonical
    | simp only [Device.canonical_mk]
    | with_reducible apply Device.stores_canonical
    | with_reducible apply stores_canonical_filter
    | with_reducible apply stores_canonical_mem
    | with_reducible apply stores_canonical_clear
    | with_reducible apply Device.reset_canonical
    | with_reducible apply stores_canonical_sram
    | with_reducible apply stores_canonical_empty
    | split

theorem Device.lastEntry_canonical {d : Device} (h : d.Canonical) (k : RingRef) (x : QDesc) (tags : List Byte) (status : Byte) (detail : Byte) (kind : Byte) (payload : List Byte) :
    Device.Canonical (Device.lastEntry d k x tags status detail kind payload) := by
  unfold Device.lastEntry
  repeat' first
    | with_reducible assumption
    | with_reducible apply Device.entry'_canonical
    | with_reducible apply Device.notifyFor_canonical
    | dsimp only
    | with_reducible apply Device.stores_canonical
    | with_reducible apply stores_canonical_filter
    | with_reducible apply stores_canonical_mem
    | with_reducible apply stores_canonical_clear
    | with_reducible apply Device.reset_canonical
    | with_reducible apply stores_canonical_sram
    | with_reducible apply stores_canonical_empty
    | split

theorem Device.done_canonical {d : Device} (h : d.Canonical) (k : RingRef) (status : Byte) (detail : Byte) (value : Nat) :
    Device.Canonical (Device.done d k status detail value) := by
  unfold Device.done
  repeat' first
    | with_reducible assumption
    | with_reducible apply Device.lastEntry_canonical
    | with_reducible apply Device.popHead_canonical
    | dsimp only
    | with_reducible apply Device.stores_canonical
    | with_reducible apply stores_canonical_filter
    | with_reducible apply stores_canonical_mem
    | with_reducible apply stores_canonical_clear
    | with_reducible apply Device.reset_canonical
    | with_reducible apply stores_canonical_sram
    | with_reducible apply stores_canonical_empty
    | split

theorem Device.jobEntry_canonical {d : Device} (h : d.Canonical) (k : RingRef) (x : QDesc) (id : BitVec 16) (start : Nat) (status : Byte) (detail : Byte) :
    (Device.jobEntry d k x id start status detail).1.Canonical := by
  unfold Device.jobEntry
  repeat' first
    | with_reducible assumption
    | with_reducible apply Device.entry'_canonical
    | with_reducible apply Device.useEntry_canonical

theorem Device.dropJob_canonical {d : Device} (h : d.Canonical) (k : RingRef) (x : QDesc) :
    Device.Canonical (Device.dropJob d k x) := by
  unfold Device.dropJob
  repeat' first
    | with_reducible assumption
    | simp only [Device.canonical_mk]
    | with_reducible apply Device.stores_canonical
    | with_reducible apply stores_canonical_filter
    | with_reducible apply stores_canonical_mem
    | with_reducible apply stores_canonical_clear
    | with_reducible apply Device.reset_canonical
    | with_reducible apply stores_canonical_sram
    | with_reducible apply stores_canonical_empty
    | split

theorem Device.dismiss_canonical {d : Device} (h : d.Canonical) (k : RingRef) (status : Byte) (detail : Byte) :
    Device.Canonical (Device.dismiss d k status detail) := by
  unfold Device.dismiss
  repeat' first
    | with_reducible assumption
    | with_reducible apply Device.done_canonical
    | with_reducible apply Device.jobEntry_canonical
    | with_reducible apply Device.popHead_canonical
    | with_reducible apply Device.dropJob_canonical
    | with_reducible apply Device.lastEntry_canonical
    | dsimp only
    | with_reducible apply Device.stores_canonical
    | with_reducible apply stores_canonical_filter
    | with_reducible apply stores_canonical_mem
    | with_reducible apply stores_canonical_clear
    | with_reducible apply Device.reset_canonical
    | with_reducible apply stores_canonical_sram
    | with_reducible apply stores_canonical_empty
    | split
    | dsimp only
    | with_reducible apply foldl_canonical
    | intro _

theorem Device.settleHead_canonical (k : RingRef) (n : Nat) {d : Device} (h : d.Canonical) :
    (Device.settleHead n d k).Canonical := by
  induction n generalizing d with
  | zero => exact h
  | succ n ih =>
    unfold Device.settleHead
    repeat' first
      | with_reducible assumption
      | apply ih
      | with_reducible apply Device.dismiss_canonical
      | simp only [Device.canonical_mk]
      | with_reducible apply Device.stores_canonical
      | split

theorem Device.finish_canonical {d : Device} (h : d.Canonical) (k : RingRef) (status : Byte) (detail : Byte) (value : Nat) :
    Device.Canonical (Device.finish d k status detail value) := by
  unfold Device.finish
  repeat' first
    | with_reducible assumption
    | with_reducible apply Device.settleHead_canonical
    | with_reducible apply Device.done_canonical

theorem Device.refuse_canonical {d : Device} (h : d.Canonical) (k : RingRef) (detail : Byte) :
    Device.Canonical (Device.refuse d k detail) := by
  unfold Device.refuse
  repeat' first
    | with_reducible assumption
    | with_reducible apply Device.settleHead_canonical
    | with_reducible apply Device.dismiss_canonical

theorem Device.onHead_canonical {d : Device} (h : d.Canonical) (k : RingRef) (op : Nat) (f : Device → QDesc → Device) (h3 : ∀ d x, d.Canonical → (f d x).Canonical) :
    Device.Canonical (Device.onHead d k op f) := by
  unfold Device.onHead
  repeat' first
    | with_reducible assumption
    | with_reducible apply h3
    | with_reducible apply Device.settleHead_canonical
    | simp only [Device.canonical_mk]
    | with_reducible apply Device.stores_canonical
    | with_reducible apply stores_canonical_filter
    | with_reducible apply stores_canonical_mem
    | with_reducible apply stores_canonical_clear
    | with_reducible apply Device.reset_canonical
    | with_reducible apply stores_canonical_sram
    | with_reducible apply stores_canonical_empty
    | split

theorem Device.dropDoorbell_canonical {d : Device} (h : d.Canonical) :
    Device.Canonical (Device.dropDoorbell d) := by
  unfold Device.dropDoorbell
  repeat' first
    | with_reducible assumption
    | with_reducible apply Device.orReg_canonical
    | with_reducible apply Device.addCount_canonical

theorem sqTailWrite_canonical {d : Device} (h : d.Canonical) (who : Who) (k : RingRef) (v : Half) :
    Device.Canonical (sqTailWrite d who k v) := by
  unfold sqTailWrite
  repeat' first
    | with_reducible assumption
    | with_reducible apply Device.reply_canonical
    | with_reducible apply Device.dropDoorbell_canonical
    | with_reducible apply Device.ringFault_canonical
    | with_reducible apply Device.setRing_canonical
    | dsimp only
    | with_reducible apply Device.stores_canonical
    | with_reducible apply stores_canonical_filter
    | with_reducible apply stores_canonical_mem
    | with_reducible apply stores_canonical_clear
    | with_reducible apply Device.reset_canonical
    | with_reducible apply stores_canonical_sram
    | with_reducible apply stores_canonical_empty
    | split

theorem cqHeadWrite_canonical {d : Device} (h : d.Canonical) (who : Who) (k : RingRef) (v : Half) :
    Device.Canonical (cqHeadWrite d who k v) := by
  unfold cqHeadWrite
  repeat' first
    | with_reducible assumption
    | with_reducible apply Device.reply_canonical
    | with_reducible apply Device.dropDoorbell_canonical
    | with_reducible apply Device.ringFault_canonical
    | with_reducible apply Device.setRing_canonical
    | with_reducible apply Device.flushNotices_canonical
    | dsimp only
    | with_reducible apply Device.stores_canonical
    | with_reducible apply stores_canonical_filter
    | with_reducible apply stores_canonical_mem
    | with_reducible apply stores_canonical_clear
    | with_reducible apply Device.reset_canonical
    | with_reducible apply stores_canonical_sram
    | with_reducible apply stores_canonical_empty
    | split

theorem Device.engineTurn_canonical {d : Device} (h : d.Canonical) {k : RingRef} {r : Device} (e : d.engineTurn k = some r) :
    r.Canonical := by
  unfold Device.engineTurn at e
  repeat' split at e
  all_goals first
    | (injection e with e; subst e; exact h)
    | contradiction

theorem Device.enqueue_canonical {d : Device} (h : d.Canonical) (k : RingRef) (raw : List Byte) :
    Device.Canonical (Device.enqueue d k raw) := by
  unfold Device.enqueue
  repeat' first
    | with_reducible assumption
    | with_reducible apply Device.ringFault_canonical
    | with_reducible apply Device.setRing_canonical
    | with_reducible apply Device.settleHead_canonical
    | dsimp only
    | with_reducible apply Device.stores_canonical
    | with_reducible apply stores_canonical_filter
    | with_reducible apply stores_canonical_mem
    | with_reducible apply stores_canonical_clear
    | with_reducible apply Device.reset_canonical
    | with_reducible apply stores_canonical_sram
    | with_reducible apply stores_canonical_empty
    | split

theorem Device.fetch_canonical {d : Device} (h : d.Canonical) (k : RingRef) (ecc : Ecc) :
    Device.Canonical (Device.fetch d k ecc) := by
  unfold Device.fetch
  repeat' first
    | with_reducible assumption
    | with_reducible apply Device.ringFault_canonical
    | with_reducible apply Device.linkFailed_canonical
    | with_reducible apply Device.emitRead_canonical
    | with_reducible apply Device.memEcc_canonical
    | with_reducible apply Device.charge_canonical
    | with_reducible apply Device.enqueue_canonical
    | dsimp only
    | with_reducible apply Device.stores_canonical
    | with_reducible apply stores_canonical_filter
    | with_reducible apply stores_canonical_mem
    | with_reducible apply stores_canonical_clear
    | with_reducible apply Device.reset_canonical
    | with_reducible apply stores_canonical_sram
    | with_reducible apply stores_canonical_empty
    | split

theorem descriptorFetch_canonical {d : Device} (h : d.Canonical) (k : RingRef) (ecc : Ecc) :
    Device.Canonical (descriptorFetch d k ecc) := by
  unfold descriptorFetch
  repeat' first
    | with_reducible assumption
    | with_reducible refine Device.engineTurn_canonical ?_ ‹_ = some _›
    | with_reducible apply Device.fetch_canonical
    | simp only [Device.canonical_mk]
    | with_reducible apply Device.stores_canonical
    | with_reducible apply stores_canonical_filter
    | with_reducible apply stores_canonical_mem
    | with_reducible apply stores_canonical_clear
    | with_reducible apply Device.reset_canonical
    | with_reducible apply stores_canonical_sram
    | with_reducible apply stores_canonical_empty
    | split

theorem execSqTailWrite_canonical (who : Who) (ring : RingRef) (value : Half) {s₁ s₂ : State} (h : s₁.dev.Canonical)
    (e : execSqTailWrite who ring value s₁ = .next s₂) : s₂.dev.Canonical := by
  unfold execSqTailWrite at e
  refine actBy_canonical (fun d h => ?_) h e
  repeat' first
    | with_reducible assumption
    | with_reducible apply sqTailWrite_canonical

theorem execCqHeadWrite_canonical (who : Who) (ring : RingRef) (value : Half) {s₁ s₂ : State} (h : s₁.dev.Canonical)
    (e : execCqHeadWrite who ring value s₁ = .next s₂) : s₂.dev.Canonical := by
  unfold execCqHeadWrite at e
  refine actBy_canonical (fun d h => ?_) h e
  repeat' first
    | with_reducible assumption
    | with_reducible apply cqHeadWrite_canonical

theorem execDescriptorFetch_canonical (ring : RingRef) (ecc : Ecc) {s₁ s₂ : State} (h : s₁.dev.Canonical)
    (e : execDescriptorFetch ring ecc s₁ = .next s₂) : s₂.dev.Canonical := by
  unfold execDescriptorFetch at e
  refine actLive_canonical (fun d h => ?_) h e
  repeat' first
    | with_reducible assumption
    | with_reducible apply descriptorFetch_canonical

theorem execNop_canonical (ring : RingRef) {s₁ s₂ : State} (h : s₁.dev.Canonical)
    (e : execNop ring s₁ = .next s₂) : s₂.dev.Canonical := by
  unfold execNop at e
  refine actLive_canonical (fun d h => ?_) h e
  repeat' first
    | with_reducible assumption
    | with_reducible apply Device.onHead_canonical
    | with_reducible apply Device.finish_canonical
    | simp only [Device.canonical_mk]
    | with_reducible apply Device.stores_canonical
    | simp only [Did.canonical_done]
    | split
    | with_reducible apply foldl_canonical
    | intro _

end Sys2Proof.Machine
end

