-- ==== Sys2Proof/Laws/CanonRuns.lean ====
section
/-!
SUPPORT. The operations and meanings of Machine/Runs.lean keep the stores canonical.
-/

namespace Sys2Proof.Machine

theorem Device.produced_canonical {d : Device} (h : d.Canonical) (s : Nat) (time : Word) (stamp : Word) :
    Device.Canonical (Device.produced d s time stamp) := by
  unfold Device.produced
  repeat' first
    | with_reducible assumption
    | with_reducible apply Device.setReg_canonical
    | simp only [Device.canonical_mk]
    | with_reducible apply Device.stores_canonical
    | with_reducible apply stores_canonical_filter
    | with_reducible apply stores_canonical_mem
    | with_reducible apply stores_canonical_clear
    | with_reducible apply Device.reset_canonical
    | with_reducible apply stores_canonical_sram
    | with_reducible apply stores_canonical_empty
    | split

theorem Device.produce_canonical {d : Device} (h : d.Canonical) (c : Nat) (id : BitVec 16) (stamp : Word) :
    Device.Canonical (Device.produce d c id stamp) := by
  unfold Device.produce
  repeat' first
    | with_reducible assumption
    | with_reducible apply Device.produced_canonical
    | simp only [Device.canonical_mk]
    | with_reducible apply Device.stores_canonical
    | with_reducible apply stores_canonical_filter
    | with_reducible apply stores_canonical_mem
    | with_reducible apply stores_canonical_clear
    | with_reducible apply Device.reset_canonical
    | with_reducible apply stores_canonical_sram
    | with_reducible apply stores_canonical_empty
    | split
    | dsimp only
    | with_reducible apply foldl_canonical
    | intro _

theorem Device.resultEntry_canonical {d : Device} (h : d.Canonical) (c : Nat) (i : Nat) (status : Byte) (detail : Byte) :
    Device.Canonical (Device.resultEntry d c i status detail) := by
  unfold Device.resultEntry
  repeat' first
    | with_reducible assumption
    | with_reducible apply Device.entry'_canonical
    | with_reducible apply Device.useEntry_canonical
    | with_reducible apply Device.modRun_canonical
    | with_reducible apply Device.produce_canonical
    | dsimp only
    | with_reducible apply Device.stores_canonical
    | with_reducible apply stores_canonical_filter
    | with_reducible apply stores_canonical_mem
    | with_reducible apply stores_canonical_clear
    | with_reducible apply Device.reset_canonical
    | with_reducible apply stores_canonical_sram
    | with_reducible apply stores_canonical_empty
    | split

theorem resultDelivered_canonical {d : Device} (h : d.Canonical) (c : Nat) (id : BitVec 16) :
    Device.Canonical (resultDelivered d c id) := by
  unfold resultDelivered
  repeat' first
    | with_reducible assumption
    | with_reducible apply Device.resultEntry_canonical
    | dsimp only
    | with_reducible apply Device.stores_canonical
    | with_reducible apply stores_canonical_filter
    | with_reducible apply stores_canonical_mem
    | with_reducible apply stores_canonical_clear
    | with_reducible apply Device.reset_canonical
    | with_reducible apply stores_canonical_sram
    | with_reducible apply stores_canonical_empty
    | split

theorem Device.recheck_canonical {d : Device} (h : d.Canonical) (c : Nat) :
    Device.Canonical (Device.recheck d c) := by
  unfold Device.recheck
  repeat' first
    | with_reducible assumption
    | with_reducible apply Device.settleHead_canonical
    | with_reducible apply Device.setRing_canonical
    | dsimp only
    | with_reducible apply Device.stores_canonical
    | with_reducible apply stores_canonical_filter
    | with_reducible apply stores_canonical_mem
    | with_reducible apply stores_canonical_clear
    | with_reducible apply Device.reset_canonical
    | with_reducible apply stores_canonical_sram
    | with_reducible apply stores_canonical_empty
    | split

theorem Device.takeOffline_canonical {d : Device} (h : d.Canonical) (u : Nat) :
    Device.Canonical (Device.takeOffline d u) := by
  unfold Device.takeOffline
  repeat' first
    | with_reducible assumption
    | with_reducible apply Device.setUnitOff_canonical
    | with_reducible apply Device.recheck_canonical
    | with_reducible apply Device.stopRun_canonical
    | dsimp only
    | with_reducible apply Device.stores_canonical
    | with_reducible apply stores_canonical_filter
    | with_reducible apply stores_canonical_mem
    | with_reducible apply stores_canonical_clear
    | with_reducible apply Device.reset_canonical
    | with_reducible apply stores_canonical_sram
    | with_reducible apply stores_canonical_empty
    | split
    | with_reducible apply foldl_canonical
    | intro _

theorem Device.partitionFault_canonical {d : Device} (h : d.Canonical) (p : Nat) :
    Device.Canonical (Device.partitionFault d p) := by
  unfold Device.partitionFault
  repeat' first
    | with_reducible assumption
    | with_reducible apply Device.setReg_canonical
    | with_reducible apply Device.latch_canonical
    | with_reducible apply Device.orReg_canonical
    | with_reducible apply Device.takeOffline_canonical
    | dsimp only
    | with_reducible apply Device.stores_canonical
    | with_reducible apply stores_canonical_filter
    | with_reducible apply stores_canonical_mem
    | with_reducible apply stores_canonical_clear
    | with_reducible apply Device.reset_canonical
    | with_reducible apply stores_canonical_sram
    | with_reducible apply stores_canonical_empty
    | split
    | with_reducible apply foldl_canonical
    | intro _

theorem Device.enterHistory_canonical {d : Device} (h : d.Canonical) (p : Nat) (one : Bool) :
    Device.Canonical (Device.enterHistory d p one) := by
  unfold Device.enterHistory
  repeat' first
    | with_reducible assumption
    | with_reducible apply Device.setReg_canonical
    | with_reducible apply Device.partitionFault_canonical
    | dsimp only
    | with_reducible apply Device.stores_canonical
    | with_reducible apply stores_canonical_filter
    | with_reducible apply stores_canonical_mem
    | with_reducible apply stores_canonical_clear
    | with_reducible apply Device.reset_canonical
    | with_reducible apply stores_canonical_sram
    | with_reducible apply stores_canonical_empty
    | split

theorem Device.disagree_canonical {d : Device} (h : d.Canonical) (c : Nat) (r : Run) (x : ResultDecl) (prim : Word) (repl : Word) :
    Device.Canonical (Device.disagree d c r x prim repl) := by
  unfold Device.disagree
  repeat' first
    | with_reducible assumption
    | with_reducible apply Device.addCount_canonical
    | with_reducible apply Device.setReg_canonical
    | with_reducible apply Device.recordIf_canonical
    | with_reducible apply Device.latch_canonical
    | with_reducible apply Device.orReg_canonical

theorem checkerCompare_canonical {d : Device} (h : d.Canonical) (c : Nat) (id : BitVec 16) :
    Device.Canonical (checkerCompare d c id) := by
  unfold checkerCompare
  repeat' first
    | with_reducible assumption
    | with_reducible apply Device.modRun_canonical
    | with_reducible apply Device.disagree_canonical
    | with_reducible apply Device.resultEntry_canonical
    | with_reducible apply Device.enterHistory_canonical
    | dsimp only
    | with_reducible apply Device.stores_canonical
    | with_reducible apply stores_canonical_filter
    | with_reducible apply stores_canonical_mem
    | with_reducible apply stores_canonical_clear
    | with_reducible apply Device.reset_canonical
    | with_reducible apply stores_canonical_sram
    | with_reducible apply stores_canonical_empty
    | split

theorem budgetOverrun_canonical {d : Device} (h : d.Canonical) (core : Nat) :
    Device.Canonical (budgetOverrun d core) := by
  unfold budgetOverrun
  repeat' first
    | with_reducible assumption
    | with_reducible apply Device.addCount_canonical
    | with_reducible apply Device.modRun_canonical
    | simp only [Device.canonical_mk]
    | with_reducible apply Device.stores_canonical
    | with_reducible apply stores_canonical_filter
    | with_reducible apply stores_canonical_mem
    | with_reducible apply stores_canonical_clear
    | with_reducible apply Device.reset_canonical
    | with_reducible apply stores_canonical_sram
    | with_reducible apply stores_canonical_empty
    | split

theorem deadlineOverrun_canonical {d : Device} (h : d.Canonical) (c : Nat) (id : BitVec 16) :
    Device.Canonical (deadlineOverrun d c id) := by
  unfold deadlineOverrun
  repeat' first
    | with_reducible assumption
    | with_reducible apply Device.addCount_canonical
    | with_reducible apply Device.modRun_canonical
    | simp only [Device.canonical_mk]
    | with_reducible apply Device.stores_canonical
    | with_reducible apply stores_canonical_filter
    | with_reducible apply stores_canonical_mem
    | with_reducible apply stores_canonical_clear
    | with_reducible apply Device.reset_canonical
    | with_reducible apply stores_canonical_sram
    | with_reducible apply stores_canonical_empty
    | split

theorem Device.superviseRun_canonical {d : Device} (h : d.Canonical) (c : Nat) (overran : Bool) :
    Device.Canonical (Device.superviseRun d c overran) := by
  unfold Device.superviseRun
  repeat' first
    | with_reducible assumption
    | with_reducible apply Device.latch_canonical
    | with_reducible apply Device.tearDown_canonical
    | with_reducible apply Device.setCtx_canonical
    | dsimp only
    | with_reducible apply Device.stores_canonical
    | with_reducible apply stores_canonical_filter
    | with_reducible apply stores_canonical_mem
    | with_reducible apply stores_canonical_clear
    | with_reducible apply Device.reset_canonical
    | with_reducible apply stores_canonical_sram
    | with_reducible apply stores_canonical_empty
    | split

theorem Device.stopOverrun_canonical {d : Device} (h : d.Canonical) (c : Nat) :
    Device.Canonical (Device.stopOverrun d c) := by
  unfold Device.stopOverrun
  repeat' first
    | with_reducible assumption
    | with_reducible apply Device.superviseRun_canonical
    | with_reducible apply Device.stopRun_canonical
    | simp only [Device.canonical_mk]
    | with_reducible apply Device.stores_canonical
    | with_reducible apply stores_canonical_filter
    | with_reducible apply stores_canonical_mem
    | with_reducible apply stores_canonical_clear
    | with_reducible apply Device.reset_canonical
    | with_reducible apply stores_canonical_sram
    | with_reducible apply stores_canonical_empty
    | split

theorem runTaken_canonical {d : Device} (h : d.Canonical) (k : RingRef) (x : QDesc) :
    Device.Canonical (runTaken d k x) := by
  unfold runTaken
  repeat' first
    | with_reducible assumption
    | with_reducible apply Device.refuse_canonical
    | with_reducible apply Device.setRing_canonical
    | simp only [Device.canonical_mk]
    | with_reducible apply Device.stores_canonical
    | with_reducible apply stores_canonical_filter
    | with_reducible apply stores_canonical_mem
    | with_reducible apply stores_canonical_clear
    | with_reducible apply Device.reset_canonical
    | with_reducible apply stores_canonical_sram
    | with_reducible apply stores_canonical_empty
    | split

theorem Device.tagFault_canonical {d : Device} (h : d.Canonical) (c : Nat) (v : Option (Nat × Veto)) :
    Device.Canonical (Device.tagFault d c v) := by
  unfold Device.tagFault
  repeat' first
    | with_reducible assumption
    | with_reducible apply Device.ctxFault_canonical
    | with_reducible apply Device.stopRun_canonical
    | with_reducible apply Device.noteVeto_canonical
    | split

theorem Device.readTags_canonical {d : Device} (h : d.Canonical) (c : Nat) (l : List (Nat × Nat)) :
    Device.Canonical (Device.readTags d c l) := by
  unfold Device.readTags
  repeat' first
    | with_reducible assumption
    | with_reducible apply Device.emitRead_canonical
    | with_reducible apply Device.modRun_canonical
    | with_reducible apply Device.serve_canonical
    | simp only [Device.canonical_mk]
    | with_reducible apply Device.stores_canonical
    | with_reducible apply stores_canonical_filter
    | with_reducible apply stores_canonical_mem
    | with_reducible apply stores_canonical_clear
    | with_reducible apply Device.reset_canonical
    | with_reducible apply stores_canonical_sram
    | with_reducible apply stores_canonical_empty
    | split
    | dsimp only
    | with_reducible apply foldl_canonical
    | intro _

theorem Device.tagEcc_canonical {d : Device} (h : d.Canonical) (c : Nat) (l : List (Nat × Nat)) (ecc : Ecc) :
    Device.Canonical (Device.tagEcc d c l ecc) := by
  unfold Device.tagEcc
  repeat' first
    | with_reducible assumption
    | with_reducible apply Device.memCe_canonical
    | with_reducible apply Device.ctxUncorr_canonical
    | with_reducible apply Device.noteUe_canonical
    | dsimp only
    | with_reducible apply Device.stores_canonical
    | with_reducible apply stores_canonical_filter
    | with_reducible apply stores_canonical_mem
    | with_reducible apply stores_canonical_clear
    | with_reducible apply Device.reset_canonical
    | with_reducible apply stores_canonical_sram
    | with_reducible apply stores_canonical_empty
    | split
    | dsimp only
    | with_reducible apply foldl_canonical
    | intro _

theorem Device.initObjects_canonical {d : Device} (h : d.Canonical) (c : Nat) (s : Slab) :
    Device.Canonical (Device.initObjects d c s) := by
  unfold Device.initObjects
  repeat' first
    | with_reducible assumption
    | simp only [Device.canonical_mk]
    | with_reducible apply Device.stores_canonical
    | with_reducible apply stores_canonical_filter
    | with_reducible apply stores_canonical_mem
    | with_reducible apply stores_canonical_clear
    | with_reducible apply Device.reset_canonical
    | with_reducible apply stores_canonical_sram
    | with_reducible apply stores_canonical_empty
    | split
    | with_reducible apply foldl_canonical
    | intro _

theorem Device.countStep_canonical {d : Device} (h : d.Canonical) (c : Nat) :
    Device.Canonical (Device.countStep d c) := by
  unfold Device.countStep
  repeat' first
    | with_reducible assumption
    | with_reducible apply Device.stopRun_canonical
    | with_reducible apply Device.ringWrite_canonical
    | simp only [Device.canonical_mk]
    | with_reducible apply Device.stores_canonical
    | with_reducible apply stores_canonical_filter
    | with_reducible apply stores_canonical_mem
    | with_reducible apply stores_canonical_clear
    | with_reducible apply Device.reset_canonical
    | with_reducible apply stores_canonical_sram
    | with_reducible apply stores_canonical_empty
    | split

theorem runStart_canonical {d : Device} (h : d.Canonical) (c : Nat) (ecc : Ecc) :
    Device.Canonical (runStart d c ecc) := by
  unfold runStart
  repeat' first
    | with_reducible assumption
    | with_reducible apply Device.linesIssue_canonical
    | with_reducible apply Device.initObjects_canonical
    | with_reducible apply Device.setBank_canonical
    | with_reducible apply Device.countStep_canonical
    | with_reducible apply Device.setCtx_canonical
    | with_reducible apply Device.tagFault_canonical
    | with_reducible apply Device.tagEcc_canonical
    | with_reducible apply Device.readTags_canonical
    | dsimp only
    | with_reducible apply Device.stores_canonical
    | with_reducible apply stores_canonical_filter
    | with_reducible apply stores_canonical_mem
    | with_reducible apply stores_canonical_clear
    | with_reducible apply Device.reset_canonical
    | with_reducible apply stores_canonical_sram
    | with_reducible apply stores_canonical_empty
    | split
    | dsimp only
    | with_reducible apply foldl_canonical
    | intro _

theorem Device.endResults_canonical {d : Device} (h : d.Canonical) (c : Nat) (status : Byte) (detail : Byte) (n : Nat) :
    Device.Canonical (Device.endResults d c status detail n) := by
  unfold Device.endResults
  repeat' first
    | with_reducible assumption
    | with_reducible apply Device.resultEntry_canonical
    | simp only [Device.canonical_mk]
    | with_reducible apply Device.stores_canonical
    | with_reducible apply stores_canonical_filter
    | with_reducible apply stores_canonical_mem
    | with_reducible apply stores_canonical_clear
    | with_reducible apply Device.reset_canonical
    | with_reducible apply stores_canonical_sram
    | with_reducible apply stores_canonical_empty
    | split
    | with_reducible apply foldl_canonical
    | intro _

theorem Device.closeRun_canonical {d : Device} (h : d.Canonical) (c : Nat) (status : Byte) (detail : Byte) :
    Device.Canonical (Device.closeRun d c status detail) := by
  unfold Device.closeRun
  repeat' first
    | with_reducible assumption
    | with_reducible apply Device.endResults_canonical
    | with_reducible apply Device.setCtx_canonical
    | with_reducible apply Device.popHead_canonical
    | with_reducible apply Device.lastEntry_canonical
    | dsimp only
    | with_reducible apply Device.stores_canonical
    | with_reducible apply stores_canonical_filter
    | with_reducible apply stores_canonical_mem
    | with_reducible apply stores_canonical_clear
    | with_reducible apply Device.reset_canonical
    | with_reducible apply stores_canonical_sram
    | with_reducible apply stores_canonical_empty
    | split

theorem runEnd_canonical {d : Device} (h : d.Canonical) (c : Nat) :
    Device.Canonical (runEnd d c) := by
  unfold runEnd
  repeat' first
    | with_reducible assumption
    | with_reducible apply Device.closeRun_canonical
    | with_reducible apply Device.superviseRun_canonical
    | with_reducible apply Device.settleHead_canonical
    | dsimp only
    | with_reducible apply Device.stores_canonical
    | with_reducible apply stores_canonical_filter
    | with_reducible apply stores_canonical_mem
    | with_reducible apply stores_canonical_clear
    | with_reducible apply Device.reset_canonical
    | with_reducible apply stores_canonical_sram
    | with_reducible apply stores_canonical_empty
    | split

theorem execRun_canonical (t : Fin 64) (r : Fin 17) {s₁ s₂ : State} (h : s₁.dev.Canonical)
    (e : execRun t r s₁ = .next s₂) : s₂.dev.Canonical := by
  unfold execRun at e
  refine actLive_canonical (fun d h => ?_) h e
  repeat' first
    | with_reducible assumption
    | with_reducible apply Device.onHead_canonical
    | with_reducible apply runTaken_canonical
    | simp only [Device.canonical_mk]
    | with_reducible apply Device.stores_canonical
    | simp only [Did.canonical_done]
    | split
    | with_reducible apply foldl_canonical
    | intro _

theorem execRunStart_canonical (ctx : Fin 256) (ecc : Ecc) {s₁ s₂ : State} (h : s₁.dev.Canonical)
    (e : execRunStart ctx s₁ ecc = .next s₂) : s₂.dev.Canonical := by
  unfold execRunStart at e
  refine actLive_canonical (fun d h => ?_) h e
  repeat' first
    | with_reducible assumption
    | with_reducible apply runStart_canonical

theorem execResultDelivered_canonical (ctx : Fin 256) (result : BitVec 16) {s₁ s₂ : State} (h : s₁.dev.Canonical)
    (e : execResultDelivered ctx result s₁ = .next s₂) : s₂.dev.Canonical := by
  unfold execResultDelivered at e
  refine actLive_canonical (fun d h => ?_) h e
  repeat' first
    | with_reducible assumption
    | with_reducible apply resultDelivered_canonical

theorem execRunEnd_canonical (ctx : Fin 256) {s₁ s₂ : State} (h : s₁.dev.Canonical)
    (e : execRunEnd ctx s₁ = .next s₂) : s₂.dev.Canonical := by
  unfold execRunEnd at e
  refine actLive_canonical (fun d h => ?_) h e
  repeat' first
    | with_reducible assumption
    | with_reducible apply runEnd_canonical

theorem execCheckerCompare_canonical (ctx : Fin 256) (result : BitVec 16) {s₁ s₂ : State} (h : s₁.dev.Canonical)
    (e : execCheckerCompare ctx result s₁ = .next s₂) : s₂.dev.Canonical := by
  unfold execCheckerCompare at e
  refine actLive_canonical (fun d h => ?_) h e
  repeat' first
    | with_reducible assumption
    | with_reducible apply checkerCompare_canonical

theorem execBudgetOverrun_canonical (core : Fin 96) {s₁ s₂ : State} (h : s₁.dev.Canonical)
    (e : execBudgetOverrun core s₁ = .next s₂) : s₂.dev.Canonical := by
  unfold execBudgetOverrun at e
  refine actLive_canonical (fun d h => ?_) h e
  repeat' first
    | with_reducible assumption
    | with_reducible apply budgetOverrun_canonical

theorem execDeadlineOverrun_canonical (ctx : Fin 256) (result : BitVec 16) {s₁ s₂ : State} (h : s₁.dev.Canonical)
    (e : execDeadlineOverrun ctx result s₁ = .next s₂) : s₂.dev.Canonical := by
  unfold execDeadlineOverrun at e
  refine actLive_canonical (fun d h => ?_) h e
  repeat' first
    | with_reducible assumption
    | with_reducible apply deadlineOverrun_canonical

end Sys2Proof.Machine
end

