-- ==== Sys2Proof/Laws/CanonTeardown.lean ====
section
/-!
SUPPORT. The operations and meanings of Machine/Teardown.lean keep the stores canonical.
-/

namespace Sys2Proof.Machine

theorem Device.dropBuckets_canonical {d : Device} (h : d.Canonical) (c : Nat) :
    Device.Canonical (Device.dropBuckets d c) := by
  unfold Device.dropBuckets
  repeat' first
    | with_reducible assumption
    | simp only [Device.canonical_mk]
    | with_reducible apply Device.stores_canonical

theorem Device.release_canonical {d : Device} (h : d.Canonical) (c : Nat) (i : Nat) :
    Device.Canonical (Device.release d c i) := by
  unfold Device.release
  repeat' first
    | with_reducible assumption
    | with_reducible apply Device.dropBuckets_canonical
    | with_reducible apply Device.setCtx_canonical

theorem Device.dropPages_canonical {d : Device} (h : d.Canonical) (c : Nat) :
    Device.Canonical (Device.dropPages d c) := by
  unfold Device.dropPages
  repeat' first
    | with_reducible assumption
    | simp only [Device.canonical_mk]
    | with_reducible apply Device.stores_canonical

theorem Device.dropReads_canonical {d : Device} (h : d.Canonical) (k : RingRef) :
    Device.Canonical (Device.dropReads d k) := by
  unfold Device.dropReads
  repeat' first
    | with_reducible assumption
    | simp only [Device.canonical_mk]
    | with_reducible apply Device.stores_canonical

theorem Device.dropTags_canonical {d : Device} (h : d.Canonical) (c : Nat) :
    Device.Canonical (Device.dropTags d c) := by
  unfold Device.dropTags
  repeat' first
    | with_reducible assumption
    | simp only [Device.canonical_mk]
    | with_reducible apply Device.stores_canonical

theorem Device.discardAll_canonical (k : RingRef) (status detail : Byte) (n : Nat) {d : Device} (h : d.Canonical) :
    (Device.discardAll n d k status detail).Canonical := by
  induction n generalizing d with
  | zero => exact h
  | succ n ih =>
    unfold Device.discardAll
    repeat' first
      | with_reducible assumption
      | apply ih
      | with_reducible apply Device.dismiss_canonical
      | simp only [Device.canonical_mk]
      | with_reducible apply Device.stores_canonical
      | split

theorem Device.stopRing_canonical {d : Device} (h : d.Canonical) (k : RingRef) :
    Device.Canonical (Device.stopRing d k) := by
  unfold Device.stopRing
  repeat' first
    | with_reducible assumption
    | with_reducible apply Device.setRing_canonical
    | with_reducible apply Device.dropReads_canonical

theorem teardownDrained_canonical {d : Device} (h : d.Canonical) (c : Nat) :
    Device.Canonical (teardownDrained d c) := by
  unfold teardownDrained
  repeat' first
    | with_reducible assumption
    | with_reducible apply Device.dropTags_canonical
    | with_reducible apply Device.closeRun_canonical
    | with_reducible apply Device.discardAll_canonical
    | with_reducible apply Device.dropPages_canonical
    | with_reducible apply Device.stopRing_canonical
    | with_reducible apply Device.setCtx_canonical
    | dsimp only
    | with_reducible apply Device.stores_canonical
    | with_reducible apply stores_canonical_filter
    | with_reducible apply stores_canonical_mem
    | with_reducible apply stores_canonical_clear
    | with_reducible apply Device.reset_canonical
    | with_reducible apply stores_canonical_sram
    | with_reducible apply stores_canonical_empty
    | split

theorem Device.scrubRange_canonical {d : Device} (h : d.Canonical) (a : Nat) (n : Nat) :
    Device.Canonical (Device.scrubRange d a n) := by
  unfold Device.scrubRange
  repeat' first
    | with_reducible assumption
    | simp only [Device.canonical_mk]
    | with_reducible apply Device.stores_canonical
    | with_reducible apply stores_canonical_filter
    | with_reducible apply stores_canonical_mem

theorem Device.scrubWindow_canonical {d : Device} (h : d.Canonical) (t : Nat) (w : Nat) :
    Device.Canonical (Device.scrubWindow d t w) := by
  unfold Device.scrubWindow
  repeat' first
    | with_reducible assumption
    | with_reducible apply Device.scrubRange_canonical
    | with_reducible apply Device.serve_canonical
    | with_reducible apply Device.logWrite_canonical
    | dsimp only
    | with_reducible apply Device.stores_canonical
    | with_reducible apply stores_canonical_filter
    | with_reducible apply stores_canonical_mem
    | with_reducible apply stores_canonical_clear
    | with_reducible apply Device.reset_canonical
    | with_reducible apply stores_canonical_sram
    | with_reducible apply stores_canonical_empty
    | split

theorem Device.scrubCore_canonical {d : Device} (h : d.Canonical) (c : Nat) (core : Nat) :
    Device.Canonical (Device.scrubCore d c core) := by
  unfold Device.scrubCore
  repeat' first
    | with_reducible assumption
    | with_reducible apply Device.setBank_canonical
    | simp only [Device.canonical_mk]
    | with_reducible apply Device.stores_canonical
    | with_reducible apply stores_canonical_filter
    | with_reducible apply stores_canonical_mem
    | with_reducible apply stores_canonical_clear

theorem Device.scrubContext_canonical {d : Device} (h : d.Canonical) (c : Nat) :
    Device.Canonical (Device.scrubContext d c) := by
  unfold Device.scrubContext
  repeat' first
    | with_reducible assumption
    | with_reducible apply Device.scrubCore_canonical
    | with_reducible apply Device.scrubWindow_canonical
    | with_reducible apply Device.dropBuckets_canonical
    | with_reducible apply Device.setCtx_canonical
    | simp only [Device.canonical_mk]
    | with_reducible apply Device.stores_canonical
    | with_reducible apply stores_canonical_filter
    | with_reducible apply stores_canonical_mem
    | with_reducible apply stores_canonical_clear
    | with_reducible apply Device.reset_canonical
    | with_reducible apply stores_canonical_sram
    | with_reducible apply stores_canonical_empty
    | split
    | with_reducible apply foldl_canonical
    | intro _

theorem Device.shut_canonical {d : Device} (h : d.Canonical) (c : Nat) :
    Device.Canonical (Device.shut d c) := by
  unfold Device.shut
  repeat' first
    | with_reducible assumption
    | with_reducible apply Device.setRing_canonical
    | with_reducible apply Device.setCtx_canonical

theorem teardownScrubDone_canonical {d : Device} (h : d.Canonical) (c : Nat) :
    Device.Canonical (teardownScrubDone d c) := by
  unfold teardownScrubDone
  repeat' first
    | with_reducible assumption
    | with_reducible apply Device.shut_canonical
    | with_reducible apply Device.scrubContext_canonical
    | with_reducible apply Device.finish_canonical
    | with_reducible apply Device.notice_canonical
    | with_reducible apply Device.raise_canonical
    | dsimp only
    | with_reducible apply Device.stores_canonical
    | with_reducible apply stores_canonical_filter
    | with_reducible apply stores_canonical_mem
    | with_reducible apply stores_canonical_clear
    | with_reducible apply Device.reset_canonical
    | with_reducible apply stores_canonical_sram
    | with_reducible apply stores_canonical_empty
    | split

theorem execTeardownDrained_canonical (ctx : Fin 256) {s₁ s₂ : State} (h : s₁.dev.Canonical)
    (e : execTeardownDrained ctx s₁ = .next s₂) : s₂.dev.Canonical := by
  unfold execTeardownDrained at e
  refine actLive_canonical (fun d h => ?_) h e
  repeat' first
    | with_reducible assumption
    | with_reducible apply teardownDrained_canonical

end Sys2Proof.Machine
end

