-- ==== Sys2Proof/Laws/CanonAdmin.lean ====
section
/-!
SUPPORT. The operations and meanings of Machine/Admin.lean keep the stores canonical.
-/

namespace Sys2Proof.Machine

theorem adminRingEnable_canonical {d : Device} (h : d.Canonical) (v : Half) :
    Device.Canonical (adminRingEnable d v) := by
  unfold adminRingEnable
  repeat' first
    | with_reducible assumption
    | with_reducible apply Device.reply_canonical
    | with_reducible apply Device.setReg_canonical
    | with_reducible apply Device.flushNotices_canonical
    | simp only [Device.canonical_mk]
    | with_reducible apply Device.stores_canonical
    | with_reducible apply stores_canonical_filter
    | with_reducible apply stores_canonical_mem
    | with_reducible apply stores_canonical_clear
    | with_reducible apply Device.reset_canonical
    | with_reducible apply stores_canonical_sram
    | with_reducible apply stores_canonical_empty
    | split

theorem adminRingDisable_canonical {d : Device} (h : d.Canonical) (v : Half) :
    Device.Canonical (adminRingDisable d v) := by
  unfold adminRingDisable
  repeat' first
    | with_reducible assumption
    | with_reducible apply Device.reply_canonical
    | with_reducible apply Device.dropReads_canonical
    | with_reducible apply Device.clrReg_canonical
    | with_reducible apply Device.setReg_canonical
    | simp only [Device.canonical_mk]
    | with_reducible apply Device.stores_canonical
    | with_reducible apply stores_canonical_filter
    | with_reducible apply stores_canonical_mem
    | with_reducible apply stores_canonical_clear
    | with_reducible apply Device.reset_canonical
    | with_reducible apply stores_canonical_sram
    | with_reducible apply stores_canonical_empty
    | split

theorem tenancyOn_canonical {d : Device} (h : d.Canonical) (x : QDesc) :
    Device.Canonical (tenancyOn d x) := by
  unfold tenancyOn
  repeat' first
    | with_reducible assumption
    | with_reducible apply Device.refuse_canonical
    | with_reducible apply Device.finish_canonical
    | with_reducible apply Device.setTen_canonical
    | dsimp only
    | with_reducible apply Device.stores_canonical
    | with_reducible apply stores_canonical_filter
    | with_reducible apply stores_canonical_mem
    | with_reducible apply stores_canonical_clear
    | with_reducible apply Device.reset_canonical
    | with_reducible apply stores_canonical_sram
    | with_reducible apply stores_canonical_empty
    | split

theorem tenancyOff_canonical {d : Device} (h : d.Canonical) (x : QDesc) :
    Device.Canonical (tenancyOff d x) := by
  unfold tenancyOff
  repeat' first
    | with_reducible assumption
    | with_reducible apply Device.refuse_canonical
    | with_reducible apply Device.finish_canonical
    | with_reducible apply Device.setTen_canonical
    | dsimp only
    | with_reducible apply Device.stores_canonical
    | with_reducible apply stores_canonical_filter
    | with_reducible apply stores_canonical_mem
    | with_reducible apply stores_canonical_clear
    | with_reducible apply Device.reset_canonical
    | with_reducible apply stores_canonical_sram
    | with_reducible apply stores_canonical_empty
    | split

theorem setWindow_canonical {d : Device} (h : d.Canonical) (x : QDesc) :
    Device.Canonical (setWindow d x) := by
  unfold setWindow
  repeat' first
    | with_reducible assumption
    | with_reducible apply Device.refuse_canonical
    | with_reducible apply Device.finish_canonical
    | with_reducible apply Device.setTen_canonical
    | dsimp only
    | with_reducible apply Device.stores_canonical
    | with_reducible apply stores_canonical_filter
    | with_reducible apply stores_canonical_mem
    | with_reducible apply stores_canonical_clear
    | with_reducible apply Device.reset_canonical
    | with_reducible apply stores_canonical_sram
    | with_reducible apply stores_canonical_empty
    | split

theorem clearWindow_canonical {d : Device} (h : d.Canonical) (x : QDesc) :
    Device.Canonical (clearWindow d x) := by
  unfold clearWindow
  repeat' first
    | with_reducible assumption
    | with_reducible apply Device.refuse_canonical
    | with_reducible apply Device.finish_canonical
    | with_reducible apply Device.setTen_canonical
    | dsimp only
    | with_reducible apply Device.stores_canonical
    | with_reducible apply stores_canonical_filter
    | with_reducible apply stores_canonical_mem
    | with_reducible apply stores_canonical_clear
    | with_reducible apply Device.reset_canonical
    | with_reducible apply stores_canonical_sram
    | with_reducible apply stores_canonical_empty
    | split

theorem setRingPair_canonical {d : Device} (h : d.Canonical) (x : QDesc) :
    Device.Canonical (setRingPair d x) := by
  unfold setRingPair
  repeat' first
    | with_reducible assumption
    | with_reducible apply Device.refuse_canonical
    | with_reducible apply Device.finish_canonical
    | with_reducible apply Device.setRing_canonical
    | with_reducible apply Device.dropReads_canonical
    | dsimp only
    | with_reducible apply Device.stores_canonical
    | with_reducible apply stores_canonical_filter
    | with_reducible apply stores_canonical_mem
    | with_reducible apply stores_canonical_clear
    | with_reducible apply Device.reset_canonical
    | with_reducible apply stores_canonical_sram
    | with_reducible apply stores_canonical_empty
    | split

theorem Device.rerun_canonical {d : Device} (h : d.Canonical) (k : RingRef) :
    Device.Canonical (Device.rerun d k) := by
  unfold Device.rerun
  repeat' first
    | with_reducible assumption
    | with_reducible apply Device.setRing_canonical
    | with_reducible apply Device.dropReads_canonical

theorem restartRing_canonical {d : Device} (h : d.Canonical) (x : QDesc) :
    Device.Canonical (restartRing d x) := by
  unfold restartRing
  repeat' first
    | with_reducible assumption
    | with_reducible apply Device.refuse_canonical
    | with_reducible apply Device.finish_canonical
    | with_reducible apply Device.rerun_canonical
    | dsimp only
    | with_reducible apply Device.stores_canonical
    | with_reducible apply stores_canonical_filter
    | with_reducible apply stores_canonical_mem
    | with_reducible apply stores_canonical_clear
    | with_reducible apply Device.reset_canonical
    | with_reducible apply stores_canonical_sram
    | with_reducible apply stores_canonical_empty
    | split

theorem Device.bindCtx_canonical {d : Device} (h : d.Canonical) (c : Nat) (t : Nat) (r : Nat) (w : Nat) :
    Device.Canonical (Device.bindCtx d c t r w) := by
  unfold Device.bindCtx
  repeat' first
    | with_reducible assumption
    | with_reducible apply Device.setRing_canonical
    | with_reducible apply Device.setCtx_canonical

theorem openCtx_canonical {d : Device} (h : d.Canonical) (x : QDesc) :
    Device.Canonical (openCtx d x) := by
  unfold openCtx
  repeat' first
    | with_reducible assumption
    | with_reducible apply Device.refuse_canonical
    | with_reducible apply Device.finish_canonical
    | with_reducible apply Device.rerun_canonical
    | with_reducible apply Device.bindCtx_canonical
    | with_reducible apply Device.ringWrite_canonical
    | dsimp only
    | with_reducible apply Device.stores_canonical
    | with_reducible apply stores_canonical_filter
    | with_reducible apply stores_canonical_mem
    | with_reducible apply stores_canonical_clear
    | with_reducible apply Device.reset_canonical
    | with_reducible apply stores_canonical_sram
    | with_reducible apply stores_canonical_empty
    | split

theorem Device.beginClose_canonical {d : Device} (h : d.Canonical) (c : Nat) :
    Device.Canonical (Device.beginClose d c) := by
  unfold Device.beginClose
  repeat' first
    | with_reducible assumption
    | with_reducible apply Device.setCtx_canonical

theorem closeCtx_canonical {d : Device} (h : d.Canonical) (x : QDesc) :
    Device.Canonical (closeCtx d x) := by
  unfold closeCtx
  repeat' first
    | with_reducible assumption
    | with_reducible apply Device.refuse_canonical
    | with_reducible apply Device.beginClose_canonical
    | simp only [Device.canonical_mk]
    | with_reducible apply Device.stores_canonical
    | with_reducible apply stores_canonical_filter
    | with_reducible apply stores_canonical_mem
    | with_reducible apply stores_canonical_clear
    | with_reducible apply Device.reset_canonical
    | with_reducible apply stores_canonical_sram
    | with_reducible apply stores_canonical_empty
    | split

theorem Device.dropFetches_canonical {d : Device} (h : d.Canonical) (t : Nat) :
    Device.Canonical (Device.dropFetches d t) := by
  unfold Device.dropFetches
  repeat' first
    | with_reducible assumption
    | simp only [Device.canonical_mk]
    | with_reducible apply Device.stores_canonical

theorem freeze_canonical {d : Device} (h : d.Canonical) (x : QDesc) :
    Device.Canonical (freeze d x) := by
  unfold freeze
  repeat' first
    | with_reducible assumption
    | with_reducible apply Device.refuse_canonical
    | with_reducible apply Device.dropFetches_canonical
    | with_reducible apply Device.setTen_canonical
    | simp only [Device.canonical_mk]
    | with_reducible apply Device.stores_canonical
    | with_reducible apply stores_canonical_filter
    | with_reducible apply stores_canonical_mem
    | with_reducible apply stores_canonical_clear
    | with_reducible apply Device.reset_canonical
    | with_reducible apply stores_canonical_sram
    | with_reducible apply stores_canonical_empty
    | split

theorem freezeComplete_canonical {d : Device} (h : d.Canonical) :
    Device.Canonical (freezeComplete d) := by
  unfold freezeComplete
  repeat' first
    | with_reducible assumption
    | with_reducible apply Device.finish_canonical
    | simp only [Device.canonical_mk]
    | with_reducible apply Device.stores_canonical
    | with_reducible apply stores_canonical_filter
    | with_reducible apply stores_canonical_mem
    | with_reducible apply stores_canonical_clear
    | with_reducible apply Device.reset_canonical
    | with_reducible apply stores_canonical_sram
    | with_reducible apply stores_canonical_empty
    | split

theorem thaw_canonical {d : Device} (h : d.Canonical) (x : QDesc) :
    Device.Canonical (thaw d x) := by
  unfold thaw
  repeat' first
    | with_reducible assumption
    | with_reducible apply Device.refuse_canonical
    | with_reducible apply Device.finish_canonical
    | with_reducible apply Device.setTen_canonical
    | dsimp only
    | with_reducible apply Device.stores_canonical
    | with_reducible apply stores_canonical_filter
    | with_reducible apply stores_canonical_mem
    | with_reducible apply stores_canonical_clear
    | with_reducible apply Device.reset_canonical
    | with_reducible apply stores_canonical_sram
    | with_reducible apply stores_canonical_empty
    | split

theorem logStart_canonical {d : Device} (h : d.Canonical) (x : QDesc) :
    Device.Canonical (logStart d x) := by
  unfold logStart
  repeat' first
    | with_reducible assumption
    | with_reducible apply Device.refuse_canonical
    | with_reducible apply Device.finish_canonical
    | with_reducible apply Device.setTen_canonical
    | dsimp only
    | with_reducible apply Device.stores_canonical
    | with_reducible apply stores_canonical_filter
    | with_reducible apply stores_canonical_mem
    | with_reducible apply stores_canonical_clear
    | with_reducible apply Device.reset_canonical
    | with_reducible apply stores_canonical_sram
    | with_reducible apply stores_canonical_empty
    | split

theorem Device.retireLog_canonical {d : Device} (h : d.Canonical) (t : Nat) (new : Option Nat) :
    Device.Canonical (Device.retireLog d t new) := by
  unfold Device.retireLog
  repeat' first
    | with_reducible assumption
    | with_reducible apply Device.setTen_canonical
    | simp only [Device.canonical_mk]
    | with_reducible apply Device.stores_canonical

theorem logSwap_canonical {d : Device} (h : d.Canonical) (x : QDesc) :
    Device.Canonical (logSwap d x) := by
  unfold logSwap
  repeat' first
    | with_reducible assumption
    | with_reducible apply Device.refuse_canonical
    | with_reducible apply Device.retireLog_canonical
    | dsimp only
    | with_reducible apply Device.stores_canonical
    | with_reducible apply stores_canonical_filter
    | with_reducible apply stores_canonical_mem
    | with_reducible apply stores_canonical_clear
    | with_reducible apply Device.reset_canonical
    | with_reducible apply stores_canonical_sram
    | with_reducible apply stores_canonical_empty
    | split

theorem logStop_canonical {d : Device} (h : d.Canonical) (x : QDesc) :
    Device.Canonical (logStop d x) := by
  unfold logStop
  repeat' first
    | with_reducible assumption
    | with_reducible apply Device.refuse_canonical
    | with_reducible apply Device.retireLog_canonical
    | dsimp only
    | with_reducible apply Device.stores_canonical
    | with_reducible apply stores_canonical_filter
    | with_reducible apply stores_canonical_mem
    | with_reducible apply stores_canonical_clear
    | with_reducible apply Device.reset_canonical
    | with_reducible apply stores_canonical_sram
    | with_reducible apply stores_canonical_empty
    | split

theorem logSwapComplete_canonical {d : Device} (h : d.Canonical) :
    Device.Canonical (logSwapComplete d) := by
  unfold logSwapComplete
  repeat' first
    | with_reducible assumption
    | with_reducible apply Device.flushBits_canonical
    | with_reducible apply Device.finish_canonical
    | dsimp only
    | with_reducible apply Device.stores_canonical
    | with_reducible apply stores_canonical_filter
    | with_reducible apply stores_canonical_mem
    | with_reducible apply stores_canonical_clear
    | with_reducible apply Device.reset_canonical
    | with_reducible apply stores_canonical_sram
    | with_reducible apply stores_canonical_empty
    | split

theorem Device.onLog_canonical {d : Device} (h : d.Canonical) (op : Nat) (f : Device → QDesc → Device) (h2 : ∀ d x, d.Canonical → (f d x).Canonical) :
    Device.Canonical (Device.onLog d op f) := by
  unfold Device.onLog
  repeat' first
    | with_reducible assumption
    | with_reducible apply h2
    | with_reducible apply Device.onHead_canonical
    | simp only [Device.canonical_mk]
    | with_reducible apply Device.stores_canonical
    | with_reducible apply stores_canonical_filter
    | with_reducible apply stores_canonical_mem
    | with_reducible apply stores_canonical_clear
    | with_reducible apply Device.reset_canonical
    | with_reducible apply stores_canonical_sram
    | with_reducible apply stores_canonical_empty
    | split

theorem execAdminRingEnable_canonical (who : Who) (value : Half) {s₁ s₂ : State} (h : s₁.dev.Canonical)
    (e : execAdminRingEnable who value s₁ = .next s₂) : s₂.dev.Canonical := by
  unfold execAdminRingEnable at e
  refine actBy_canonical (fun d h => ?_) h e
  repeat' first
    | with_reducible assumption
    | with_reducible apply adminRingEnable_canonical

theorem execAdminRingDisable_canonical (who : Who) (value : Half) {s₁ s₂ : State} (h : s₁.dev.Canonical)
    (e : execAdminRingDisable who value s₁ = .next s₂) : s₂.dev.Canonical := by
  unfold execAdminRingDisable at e
  refine actBy_canonical (fun d h => ?_) h e
  repeat' first
    | with_reducible assumption
    | with_reducible apply adminRingDisable_canonical

theorem execTenancyOn_canonical {s₁ s₂ : State} (h : s₁.dev.Canonical)
    (e : execTenancyOn  s₁ = .next s₂) : s₂.dev.Canonical := by
  unfold execTenancyOn at e
  refine actLive_canonical (fun d h => ?_) h e
  repeat' first
    | with_reducible assumption
    | with_reducible apply Device.onHead_canonical
    | with_reducible apply tenancyOn_canonical
    | simp only [Device.canonical_mk]
    | with_reducible apply Device.stores_canonical
    | simp only [Did.canonical_done]
    | split
    | with_reducible apply foldl_canonical
    | intro _

theorem execTenancyOff_canonical {s₁ s₂ : State} (h : s₁.dev.Canonical)
    (e : execTenancyOff  s₁ = .next s₂) : s₂.dev.Canonical := by
  unfold execTenancyOff at e
  refine actLive_canonical (fun d h => ?_) h e
  repeat' first
    | with_reducible assumption
    | with_reducible apply Device.onHead_canonical
    | with_reducible apply tenancyOff_canonical
    | simp only [Device.canonical_mk]
    | with_reducible apply Device.stores_canonical
    | simp only [Did.canonical_done]
    | split
    | with_reducible apply foldl_canonical
    | intro _

theorem execSetWindow_canonical {s₁ s₂ : State} (h : s₁.dev.Canonical)
    (e : execSetWindow  s₁ = .next s₂) : s₂.dev.Canonical := by
  unfold execSetWindow at e
  refine actLive_canonical (fun d h => ?_) h e
  repeat' first
    | with_reducible assumption
    | with_reducible apply Device.onHead_canonical
    | with_reducible apply setWindow_canonical
    | simp only [Device.canonical_mk]
    | with_reducible apply Device.stores_canonical
    | simp only [Did.canonical_done]
    | split
    | with_reducible apply foldl_canonical
    | intro _

theorem execClearWindow_canonical {s₁ s₂ : State} (h : s₁.dev.Canonical)
    (e : execClearWindow  s₁ = .next s₂) : s₂.dev.Canonical := by
  unfold execClearWindow at e
  refine actLive_canonical (fun d h => ?_) h e
  repeat' first
    | with_reducible assumption
    | with_reducible apply Device.onHead_canonical
    | with_reducible apply clearWindow_canonical
    | simp only [Device.canonical_mk]
    | with_reducible apply Device.stores_canonical
    | simp only [Did.canonical_done]
    | split
    | with_reducible apply foldl_canonical
    | intro _

theorem execSetRing_canonical {s₁ s₂ : State} (h : s₁.dev.Canonical)
    (e : execSetRing  s₁ = .next s₂) : s₂.dev.Canonical := by
  unfold execSetRing at e
  refine actLive_canonical (fun d h => ?_) h e
  repeat' first
    | with_reducible assumption
    | with_reducible apply Device.onHead_canonical
    | with_reducible apply setRingPair_canonical
    | simp only [Device.canonical_mk]
    | with_reducible apply Device.stores_canonical
    | simp only [Did.canonical_done]
    | split
    | with_reducible apply foldl_canonical
    | intro _

theorem execRestartRing_canonical {s₁ s₂ : State} (h : s₁.dev.Canonical)
    (e : execRestartRing  s₁ = .next s₂) : s₂.dev.Canonical := by
  unfold execRestartRing at e
  refine actLive_canonical (fun d h => ?_) h e
  repeat' first
    | with_reducible assumption
    | with_reducible apply Device.onHead_canonical
    | with_reducible apply restartRing_canonical
    | simp only [Device.canonical_mk]
    | with_reducible apply Device.stores_canonical
    | simp only [Did.canonical_done]
    | split
    | with_reducible apply foldl_canonical
    | intro _

theorem execOpen_canonical {s₁ s₂ : State} (h : s₁.dev.Canonical)
    (e : execOpen  s₁ = .next s₂) : s₂.dev.Canonical := by
  unfold execOpen at e
  refine actLive_canonical (fun d h => ?_) h e
  repeat' first
    | with_reducible assumption
    | with_reducible apply Device.onHead_canonical
    | with_reducible apply openCtx_canonical
    | simp only [Device.canonical_mk]
    | with_reducible apply Device.stores_canonical
    | simp only [Did.canonical_done]
    | split
    | with_reducible apply foldl_canonical
    | intro _

theorem execClose_canonical {s₁ s₂ : State} (h : s₁.dev.Canonical)
    (e : execClose  s₁ = .next s₂) : s₂.dev.Canonical := by
  unfold execClose at e
  refine actLive_canonical (fun d h => ?_) h e
  repeat' first
    | with_reducible assumption
    | with_reducible apply Device.onHead_canonical
    | with_reducible apply closeCtx_canonical
    | simp only [Device.canonical_mk]
    | with_reducible apply Device.stores_canonical
    | simp only [Did.canonical_done]
    | split
    | with_reducible apply foldl_canonical
    | intro _

theorem execFreeze_canonical {s₁ s₂ : State} (h : s₁.dev.Canonical)
    (e : execFreeze  s₁ = .next s₂) : s₂.dev.Canonical := by
  unfold execFreeze at e
  refine actLive_canonical (fun d h => ?_) h e
  repeat' first
    | with_reducible assumption
    | with_reducible apply Device.onHead_canonical
    | with_reducible apply freeze_canonical
    | simp only [Device.canonical_mk]
    | with_reducible apply Device.stores_canonical
    | simp only [Did.canonical_done]
    | split
    | with_reducible apply foldl_canonical
    | intro _

theorem execFreezeComplete_canonical {s₁ s₂ : State} (h : s₁.dev.Canonical)
    (e : execFreezeComplete  s₁ = .next s₂) : s₂.dev.Canonical := by
  unfold execFreezeComplete at e
  refine actLive_canonical (fun d h => ?_) h e
  repeat' first
    | with_reducible assumption
    | with_reducible apply freezeComplete_canonical

theorem execThaw_canonical {s₁ s₂ : State} (h : s₁.dev.Canonical)
    (e : execThaw  s₁ = .next s₂) : s₂.dev.Canonical := by
  unfold execThaw at e
  refine actLive_canonical (fun d h => ?_) h e
  repeat' first
    | with_reducible assumption
    | with_reducible apply Device.onHead_canonical
    | with_reducible apply thaw_canonical
    | simp only [Device.canonical_mk]
    | with_reducible apply Device.stores_canonical
    | simp only [Did.canonical_done]
    | split
    | with_reducible apply foldl_canonical
    | intro _

theorem execLogStart_canonical {s₁ s₂ : State} (h : s₁.dev.Canonical)
    (e : execLogStart  s₁ = .next s₂) : s₂.dev.Canonical := by
  unfold execLogStart at e
  refine actLive_canonical (fun d h => ?_) h e
  repeat' first
    | with_reducible assumption
    | with_reducible apply Device.onLog_canonical
    | with_reducible apply logStart_canonical
    | simp only [Device.canonical_mk]
    | with_reducible apply Device.stores_canonical
    | simp only [Did.canonical_done]
    | split
    | with_reducible apply foldl_canonical
    | intro _

theorem execLogSwap_canonical {s₁ s₂ : State} (h : s₁.dev.Canonical)
    (e : execLogSwap  s₁ = .next s₂) : s₂.dev.Canonical := by
  unfold execLogSwap at e
  refine actLive_canonical (fun d h => ?_) h e
  repeat' first
    | with_reducible assumption
    | with_reducible apply Device.onLog_canonical
    | with_reducible apply logSwap_canonical
    | simp only [Device.canonical_mk]
    | with_reducible apply Device.stores_canonical
    | simp only [Did.canonical_done]
    | split
    | with_reducible apply foldl_canonical
    | intro _

theorem execLogSwapComplete_canonical {s₁ s₂ : State} (h : s₁.dev.Canonical)
    (e : execLogSwapComplete  s₁ = .next s₂) : s₂.dev.Canonical := by
  unfold execLogSwapComplete at e
  refine actLive_canonical (fun d h => ?_) h e
  repeat' first
    | with_reducible assumption
    | with_reducible apply logSwapComplete_canonical

theorem execLogStop_canonical {s₁ s₂ : State} (h : s₁.dev.Canonical)
    (e : execLogStop  s₁ = .next s₂) : s₂.dev.Canonical := by
  unfold execLogStop at e
  refine actLive_canonical (fun d h => ?_) h e
  repeat' first
    | with_reducible assumption
    | with_reducible apply Device.onLog_canonical
    | with_reducible apply logStop_canonical
    | simp only [Device.canonical_mk]
    | with_reducible apply Device.stores_canonical
    | simp only [Did.canonical_done]
    | split
    | with_reducible apply foldl_canonical
    | intro _

end Sys2Proof.Machine
end

