-- ==== Sys2Proof/Laws/CanonHerald.lean ====
section
/-!
SUPPORT. The operations and meanings of Machine/Herald.lean keep the stores canonical.
-/

namespace Sys2Proof.Machine

theorem Device.noteLines_canonical {d : Device} (h : d.Canonical) :
    Device.Canonical (Device.noteLines d) := by
  unfold Device.noteLines
  repeat' first
    | with_reducible assumption
    | simp only [Device.canonical_mk]
    | with_reducible apply Device.stores_canonical
    | with_reducible apply stores_canonical_filter
    | with_reducible apply stores_canonical_mem
    | with_reducible apply stores_canonical_clear
    | with_reducible apply Device.reset_canonical
    | with_reducible apply stores_canonical_sram
    | with_reducible apply stores_canonical_empty
    | split

theorem Device.pendSet_canonical {d : Device} (h : d.Canonical) (s : Nat) (stamp : Word) (byLevel : Bool) :
    Device.Canonical (Device.pendSet d s stamp byLevel) := by
  unfold Device.pendSet
  repeat' first
    | with_reducible assumption
    | simp only [Device.canonical_mk]
    | with_reducible apply Device.stores_canonical

theorem Device.pendClear_canonical {d : Device} (h : d.Canonical) (s : Nat) :
    Device.Canonical (Device.pendClear d s) := by
  unfold Device.pendClear
  repeat' first
    | with_reducible assumption
    | simp only [Device.canonical_mk]
    | with_reducible apply Device.stores_canonical

theorem Device.edge_canonical {d : Device} (h : d.Canonical) (s : Nat) (stamp : Word) :
    Device.Canonical (Device.edge d s stamp) := by
  unfold Device.edge
  repeat' first
    | with_reducible assumption
    | with_reducible apply Device.orReg_canonical
    | with_reducible apply Device.pendSet_canonical
    | simp only [Device.canonical_mk]
    | with_reducible apply Device.stores_canonical
    | with_reducible apply stores_canonical_filter
    | with_reducible apply stores_canonical_mem
    | with_reducible apply stores_canonical_clear
    | with_reducible apply Device.reset_canonical
    | with_reducible apply stores_canonical_sram
    | with_reducible apply stores_canonical_empty
    | split

theorem Device.follow_canonical {d : Device} (h : d.Canonical) (s : Nat) :
    Device.Canonical (Device.follow d s) := by
  unfold Device.follow
  repeat' first
    | with_reducible assumption
    | with_reducible apply Device.pendSet_canonical
    | with_reducible apply Device.pendClear_canonical
    | simp only [Device.canonical_mk]
    | with_reducible apply Device.stores_canonical
    | with_reducible apply stores_canonical_filter
    | with_reducible apply stores_canonical_mem
    | with_reducible apply stores_canonical_clear
    | with_reducible apply Device.reset_canonical
    | with_reducible apply stores_canonical_sram
    | with_reducible apply stores_canonical_empty
    | split

theorem Device.setOut_canonical {d : Device} (h : d.Canonical) (s : Nat) (v : Bool) :
    Device.Canonical (Device.setOut d s v) := by
  unfold Device.setOut
  repeat' first
    | with_reducible assumption
    | simp only [Device.canonical_mk]
    | with_reducible apply Device.stores_canonical

theorem Device.sampleLine_canonical {d : Device} (h : d.Canonical) (s : Nat) :
    Device.Canonical (Device.sampleLine d s) := by
  unfold Device.sampleLine
  repeat' first
    | with_reducible assumption
    | simp only [Device.canonical_mk]
    | with_reducible apply Device.stores_canonical
    | with_reducible apply stores_canonical_filter
    | with_reducible apply stores_canonical_mem
    | with_reducible apply stores_canonical_clear
    | with_reducible apply Device.reset_canonical
    | with_reducible apply stores_canonical_sram
    | with_reducible apply stores_canonical_empty
    | split

theorem Device.sampleLines_canonical {d : Device} (h : d.Canonical) :
    Device.Canonical (Device.sampleLines d) := by
  unfold Device.sampleLines
  repeat' first
    | with_reducible assumption
    | with_reducible apply Device.sampleLine_canonical
    | simp only [Device.canonical_mk]
    | with_reducible apply Device.stores_canonical
    | with_reducible apply stores_canonical_filter
    | with_reducible apply stores_canonical_mem
    | with_reducible apply stores_canonical_clear
    | with_reducible apply Device.reset_canonical
    | with_reducible apply stores_canonical_sram
    | with_reducible apply stores_canonical_empty
    | split
    | dsimp only
    | with_reducible apply foldl_canonical
    | intro _

theorem filterOutput_canonical {d : Device} (h : d.Canonical) (s : Nat) (v : Bool) :
    Device.Canonical (filterOutput d s v) := by
  unfold filterOutput
  repeat' first
    | with_reducible assumption
    | with_reducible apply Device.setOut_canonical
    | with_reducible apply Device.edge_canonical
    | with_reducible apply Device.follow_canonical
    | with_reducible apply Device.noteLines_canonical
    | dsimp only
    | with_reducible apply Device.stores_canonical
    | with_reducible apply stores_canonical_filter
    | with_reducible apply stores_canonical_mem
    | with_reducible apply stores_canonical_clear
    | with_reducible apply Device.reset_canonical
    | with_reducible apply stores_canonical_sram
    | with_reducible apply stores_canonical_empty
    | split

theorem Device.onTarget_canonical {d : Device} (h : d.Canonical) (who : Who) (t : Nat) (unused : Device → Device) (h3 : ∀ d, d.Canonical → (unused d).Canonical) (f : Device → Device) (h4 : ∀ d, d.Canonical → (f d).Canonical) :
    Device.Canonical (Device.onTarget d who t unused f) := by
  unfold Device.onTarget
  repeat' first
    | with_reducible assumption
    | with_reducible apply h3
    | with_reducible apply h4
    | with_reducible apply Device.deny_canonical
    | simp only [Device.canonical_mk]
    | with_reducible apply Device.stores_canonical
    | with_reducible apply stores_canonical_filter
    | with_reducible apply stores_canonical_mem
    | with_reducible apply stores_canonical_clear
    | with_reducible apply Device.reset_canonical
    | with_reducible apply stores_canonical_sram
    | with_reducible apply stores_canonical_empty
    | split

theorem Device.claim_canonical {d : Device} (h : d.Canonical) (t : Nat) :
    Device.Canonical (Device.claim d t) := by
  unfold Device.claim
  repeat' first
    | with_reducible assumption
    | with_reducible apply Device.reply_canonical
    | with_reducible apply Device.setReg_canonical
    | with_reducible apply Device.pendClear_canonical
    | with_reducible apply Device.noteLines_canonical
    | simp only [Device.canonical_mk]
    | with_reducible apply Device.stores_canonical
    | with_reducible apply stores_canonical_filter
    | with_reducible apply stores_canonical_mem
    | with_reducible apply stores_canonical_clear
    | with_reducible apply Device.reset_canonical
    | with_reducible apply stores_canonical_sram
    | with_reducible apply stores_canonical_empty
    | split

theorem hrdClaim_canonical {d : Device} (h : d.Canonical) (who : Who) (t : Nat) :
    Device.Canonical (hrdClaim d who t) := by
  unfold hrdClaim
  repeat' first
    | with_reducible assumption
    | with_reducible apply Device.onTarget_canonical
    | with_reducible apply Device.reply_canonical
    | with_reducible apply Device.claim_canonical
    | simp only [Device.canonical_mk]
    | with_reducible apply Device.stores_canonical
    | with_reducible apply stores_canonical_filter
    | with_reducible apply stores_canonical_mem
    | with_reducible apply stores_canonical_clear
    | with_reducible apply Device.reset_canonical
    | with_reducible apply stores_canonical_sram
    | with_reducible apply stores_canonical_empty
    | split
    | with_reducible apply foldl_canonical
    | intro _

theorem hrdComplete_canonical {d : Device} (h : d.Canonical) (who : Who) (t : Nat) (v : Half) :
    Device.Canonical (hrdComplete d who t v) := by
  unfold hrdComplete
  repeat' first
    | with_reducible assumption
    | with_reducible apply Device.onTarget_canonical
    | with_reducible apply Device.reply_canonical
    | with_reducible apply Device.noteLines_canonical
    | with_reducible apply Device.follow_canonical
    | simp only [Device.canonical_mk]
    | with_reducible apply Device.stores_canonical
    | with_reducible apply stores_canonical_filter
    | with_reducible apply stores_canonical_mem
    | with_reducible apply stores_canonical_clear
    | with_reducible apply Device.reset_canonical
    | with_reducible apply stores_canonical_sram
    | with_reducible apply stores_canonical_empty
    | split
    | with_reducible apply foldl_canonical
    | intro _

theorem hrdPendSet_canonical {d : Device} (h : d.Canonical) (who : Who) (w : Nat) (v : Half) :
    Device.Canonical (hrdPendSet d who w v) := by
  unfold hrdPendSet
  repeat' first
    | with_reducible assumption
    | with_reducible apply Device.noteLines_canonical
    | with_reducible apply Device.follow_canonical
    | with_reducible apply Device.edge_canonical
    | with_reducible apply Device.reply_canonical
    | simp only [Device.canonical_mk]
    | with_reducible apply Device.stores_canonical
    | with_reducible apply stores_canonical_filter
    | with_reducible apply stores_canonical_mem
    | with_reducible apply stores_canonical_clear
    | with_reducible apply Device.reset_canonical
    | with_reducible apply stores_canonical_sram
    | with_reducible apply stores_canonical_empty
    | split
    | with_reducible apply foldl_canonical
    | intro _

theorem hrdPendClr_canonical {d : Device} (h : d.Canonical) (who : Who) (w : Nat) (v : Half) :
    Device.Canonical (hrdPendClr d who w v) := by
  unfold hrdPendClr
  repeat' first
    | with_reducible assumption
    | with_reducible apply Device.noteLines_canonical
    | with_reducible apply Device.follow_canonical
    | with_reducible apply Device.pendClear_canonical
    | with_reducible apply Device.reply_canonical
    | simp only [Device.canonical_mk]
    | with_reducible apply Device.stores_canonical
    | with_reducible apply stores_canonical_filter
    | with_reducible apply stores_canonical_mem
    | with_reducible apply stores_canonical_clear
    | with_reducible apply Device.reset_canonical
    | with_reducible apply stores_canonical_sram
    | with_reducible apply stores_canonical_empty
    | split
    | with_reducible apply foldl_canonical
    | intro _

theorem hrdEnSet_canonical {d : Device} (h : d.Canonical) (who : Who) (t : Nat) (w : Nat) (v : Half) :
    Device.Canonical (hrdEnSet d who t w v) := by
  unfold hrdEnSet
  repeat' first
    | with_reducible assumption
    | with_reducible apply Device.onTarget_canonical
    | with_reducible apply Device.reply_canonical
    | with_reducible apply Device.noteLines_canonical
    | with_reducible apply Device.orReg_canonical
    | simp only [Device.canonical_mk]
    | with_reducible apply Device.stores_canonical
    | with_reducible apply stores_canonical_filter
    | with_reducible apply stores_canonical_mem
    | with_reducible apply stores_canonical_clear
    | with_reducible apply Device.reset_canonical
    | with_reducible apply stores_canonical_sram
    | with_reducible apply stores_canonical_empty
    | split
    | with_reducible apply foldl_canonical
    | intro _

theorem hrdEnClr_canonical {d : Device} (h : d.Canonical) (who : Who) (t : Nat) (w : Nat) (v : Half) :
    Device.Canonical (hrdEnClr d who t w v) := by
  unfold hrdEnClr
  repeat' first
    | with_reducible assumption
    | with_reducible apply Device.onTarget_canonical
    | with_reducible apply Device.reply_canonical
    | with_reducible apply Device.clrReg_canonical
    | simp only [Device.canonical_mk]
    | with_reducible apply Device.stores_canonical
    | with_reducible apply stores_canonical_filter
    | with_reducible apply stores_canonical_mem
    | with_reducible apply stores_canonical_clear
    | with_reducible apply Device.reset_canonical
    | with_reducible apply stores_canonical_sram
    | with_reducible apply stores_canonical_empty
    | split
    | with_reducible apply foldl_canonical
    | intro _

theorem hrdThreshold_canonical {d : Device} (h : d.Canonical) (who : Who) (t : Nat) (v : Half) :
    Device.Canonical (hrdThreshold d who t v) := by
  unfold hrdThreshold
  repeat' first
    | with_reducible assumption
    | with_reducible apply Device.onTarget_canonical
    | with_reducible apply Device.reply_canonical
    | with_reducible apply Device.noteLines_canonical
    | with_reducible apply Device.setFld_canonical
    | simp only [Device.canonical_mk]
    | with_reducible apply Device.stores_canonical
    | with_reducible apply stores_canonical_filter
    | with_reducible apply stores_canonical_mem
    | with_reducible apply stores_canonical_clear
    | with_reducible apply Device.reset_canonical
    | with_reducible apply stores_canonical_sram
    | with_reducible apply stores_canonical_empty
    | split
    | with_reducible apply foldl_canonical
    | intro _

theorem hrdSrcWrite_canonical {d : Device} (h : d.Canonical) (who : Who) (s : Nat) (v : Half) :
    Device.Canonical (hrdSrcWrite d who s v) := by
  unfold hrdSrcWrite
  repeat' first
    | with_reducible assumption
    | with_reducible apply Device.reply_canonical
    | with_reducible apply Device.setReg_canonical
    | with_reducible apply Device.noteLines_canonical
    | with_reducible apply Device.pendClear_canonical
    | with_reducible apply Device.follow_canonical
    | dsimp only
    | with_reducible apply Device.stores_canonical
    | with_reducible apply stores_canonical_filter
    | with_reducible apply stores_canonical_mem
    | with_reducible apply stores_canonical_clear
    | with_reducible apply Device.reset_canonical
    | with_reducible apply stores_canonical_sram
    | with_reducible apply stores_canonical_empty
    | split

theorem Device.timerFollow_canonical {d : Device} (h : d.Canonical) (t : Nat) :
    Device.Canonical (Device.timerFollow d t) := by
  unfold Device.timerFollow
  repeat' first
    | with_reducible assumption
    | simp only [Device.canonical_mk]
    | with_reducible apply Device.stores_canonical

theorem hrdMtimecmp_canonical {d : Device} (h : d.Canonical) (who : Who) (t : Nat) (v : Word) :
    Device.Canonical (hrdMtimecmp d who t v) := by
  unfold hrdMtimecmp
  repeat' first
    | with_reducible assumption
    | with_reducible apply Device.onTarget_canonical
    | with_reducible apply Device.reply_canonical
    | with_reducible apply Device.timerFollow_canonical
    | with_reducible apply Device.setReg_canonical
    | simp only [Device.canonical_mk]
    | with_reducible apply Device.stores_canonical
    | with_reducible apply stores_canonical_filter
    | with_reducible apply stores_canonical_mem
    | with_reducible apply stores_canonical_clear
    | with_reducible apply Device.reset_canonical
    | with_reducible apply stores_canonical_sram
    | with_reducible apply stores_canonical_empty
    | split
    | with_reducible apply foldl_canonical
    | intro _

theorem execFilterOutputChange_canonical (source : Fin 1024) (value : Bool) {s₁ s₂ : State} (h : s₁.dev.Canonical)
    (e : execFilterOutputChange source value s₁ = .next s₂) : s₂.dev.Canonical := by
  unfold execFilterOutputChange at e
  refine actLive_canonical (fun d h => ?_) h e
  repeat' first
    | with_reducible assumption
    | with_reducible apply filterOutput_canonical

theorem execHrdClaim_canonical (who : Who) (target : Fin 52) {s₁ s₂ : State} (h : s₁.dev.Canonical)
    (e : execHrdClaim who target s₁ = .next s₂) : s₂.dev.Canonical := by
  unfold execHrdClaim at e
  refine actBy_canonical (fun d h => ?_) h e
  repeat' first
    | with_reducible assumption
    | with_reducible apply hrdClaim_canonical

theorem execHrdComplete_canonical (who : Who) (target : Fin 52) (value : Half) {s₁ s₂ : State} (h : s₁.dev.Canonical)
    (e : execHrdComplete who target value s₁ = .next s₂) : s₂.dev.Canonical := by
  unfold execHrdComplete at e
  refine actBy_canonical (fun d h => ?_) h e
  repeat' first
    | with_reducible assumption
    | with_reducible apply hrdComplete_canonical

theorem execHrdPendSet_canonical (who : Who) (w : Fin 32) (value : Half) {s₁ s₂ : State} (h : s₁.dev.Canonical)
    (e : execHrdPendSet who w value s₁ = .next s₂) : s₂.dev.Canonical := by
  unfold execHrdPendSet at e
  refine actBy_canonical (fun d h => ?_) h e
  repeat' first
    | with_reducible assumption
    | with_reducible apply hrdPendSet_canonical

theorem execHrdPendClr_canonical (who : Who) (w : Fin 32) (value : Half) {s₁ s₂ : State} (h : s₁.dev.Canonical)
    (e : execHrdPendClr who w value s₁ = .next s₂) : s₂.dev.Canonical := by
  unfold execHrdPendClr at e
  refine actBy_canonical (fun d h => ?_) h e
  repeat' first
    | with_reducible assumption
    | with_reducible apply hrdPendClr_canonical

theorem execHrdEnSet_canonical (who : Who) (target : Fin 52) (w : Fin 32) (value : Half) {s₁ s₂ : State} (h : s₁.dev.Canonical)
    (e : execHrdEnSet who target w value s₁ = .next s₂) : s₂.dev.Canonical := by
  unfold execHrdEnSet at e
  refine actBy_canonical (fun d h => ?_) h e
  repeat' first
    | with_reducible assumption
    | with_reducible apply hrdEnSet_canonical

theorem execHrdEnClr_canonical (who : Who) (target : Fin 52) (w : Fin 32) (value : Half) {s₁ s₂ : State} (h : s₁.dev.Canonical)
    (e : execHrdEnClr who target w value s₁ = .next s₂) : s₂.dev.Canonical := by
  unfold execHrdEnClr at e
  refine actBy_canonical (fun d h => ?_) h e
  repeat' first
    | with_reducible assumption
    | with_reducible apply hrdEnClr_canonical

theorem execMachineTimerPending_canonical (target : Fin 52) {s₁ s₂ : State} (h : s₁.dev.Canonical)
    (e : execMachineTimerPending target s₁ = .next s₂) : s₂.dev.Canonical := by
  unfold execMachineTimerPending at e
  refine actLive_canonical (fun d h => ?_) h e
  repeat' first
    | with_reducible assumption
    | with_reducible apply Device.timerFollow_canonical
    | simp only [Device.canonical_mk]
    | with_reducible apply Device.stores_canonical
    | simp only [Did.canonical_done]
    | split

end Sys2Proof.Machine
end

