-- ==== Sys2Proof/Laws/CanonAlmanac.lean ====
section
/-!
SUPPORT. The operations and meanings of Machine/Almanac.lean keep the stores canonical.
-/

namespace Sys2Proof.Machine

theorem Device.wake_canonical {d : Device} (h : d.Canonical) (cmp : BitVec 8) (pins : BitVec 4) :
    Device.Canonical (Device.wake d cmp pins) := by
  unfold Device.wake
  repeat' first
    | with_reducible assumption
    | simp only [Device.canonical_mk]
    | with_reducible apply Device.stores_canonical
    | with_reducible apply stores_canonical_filter
    | with_reducible apply stores_canonical_mem
    | with_reducible apply stores_canonical_clear
    | with_reducible apply Device.reset_canonical
    | with_reducible apply stores_canonical_sram
    | with_reducible apply stores_canonical_empty
    | split

theorem Device.almTick_canonical {d : Device} (h : d.Canonical) :
    Device.Canonical (Device.almTick d) := by
  unfold Device.almTick
  repeat' first
    | with_reducible assumption
    | with_reducible apply Device.timerFollow_canonical
    | simp only [Device.canonical_mk]
    | with_reducible apply Device.stores_canonical
    | with_reducible apply stores_canonical_filter
    | with_reducible apply stores_canonical_mem
    | with_reducible apply stores_canonical_clear
    | with_reducible apply Device.reset_canonical
    | with_reducible apply stores_canonical_sram
    | with_reducible apply stores_canonical_empty
    | split
    | with_reducible apply foldl_canonical
    | intro _

theorem Device.almRefused_canonical {d : Device} (h : d.Canonical) (bit : Nat) :
    Device.Canonical (Device.almRefused d bit) := by
  unfold Device.almRefused
  repeat' first
    | with_reducible assumption
    | with_reducible apply Device.raise_canonical
    | with_reducible apply Device.orReg_canonical

theorem almIncrWrite_canonical {d : Device} (h : d.Canonical) (v : Word) :
    Device.Canonical (almIncrWrite d v) := by
  unfold almIncrWrite
  repeat' first
    | with_reducible assumption
    | with_reducible apply Device.reply_canonical
    | with_reducible apply Device.setReg_canonical
    | with_reducible apply Device.almRefused_canonical
    | dsimp only
    | with_reducible apply Device.stores_canonical
    | with_reducible apply stores_canonical_filter
    | with_reducible apply stores_canonical_mem
    | with_reducible apply stores_canonical_clear
    | with_reducible apply Device.reset_canonical
    | with_reducible apply stores_canonical_sram
    | with_reducible apply stores_canonical_empty
    | split

theorem almLeapWrite_canonical {d : Device} (h : d.Canonical) (v : Word) :
    Device.Canonical (almLeapWrite d v) := by
  unfold almLeapWrite
  repeat' first
    | with_reducible assumption
    | with_reducible apply Device.reply_canonical
    | with_reducible apply Device.almRefused_canonical
    | simp only [Device.canonical_mk]
    | with_reducible apply Device.stores_canonical
    | with_reducible apply stores_canonical_filter
    | with_reducible apply stores_canonical_mem
    | with_reducible apply stores_canonical_clear
    | with_reducible apply Device.reset_canonical
    | with_reducible apply stores_canonical_sram
    | with_reducible apply stores_canonical_empty
    | split

theorem almNowRead_canonical {d : Device} (h : d.Canonical) :
    Device.Canonical (almNowRead d) := by
  unfold almNowRead
  repeat' first
    | with_reducible assumption
    | with_reducible apply Device.reply_canonical
    | with_reducible apply Device.setReg_canonical

theorem Device.rearm_canonical {d : Device} (h : d.Canonical) (k : Nat) :
    Device.Canonical (Device.rearm d k) := by
  unfold Device.rearm
  repeat' first
    | with_reducible assumption
    | with_reducible apply Device.clrReg_canonical
    | with_reducible apply Device.setReg_canonical
    | dsimp only
    | with_reducible apply Device.stores_canonical
    | with_reducible apply stores_canonical_filter
    | with_reducible apply stores_canonical_mem
    | with_reducible apply stores_canonical_clear
    | with_reducible apply Device.reset_canonical
    | with_reducible apply stores_canonical_sram
    | with_reducible apply stores_canonical_empty
    | split

theorem Device.pulse_canonical {d : Device} (h : d.Canonical) (k : Nat) :
    Device.Canonical (Device.pulse d k) := by
  unfold Device.pulse
  repeat' first
    | with_reducible assumption
    | simp only [Device.canonical_mk]
    | with_reducible apply Device.stores_canonical
    | with_reducible apply stores_canonical_filter
    | with_reducible apply stores_canonical_mem
    | with_reducible apply stores_canonical_clear
    | with_reducible apply Device.reset_canonical
    | with_reducible apply stores_canonical_sram
    | with_reducible apply stores_canonical_empty
    | split

theorem comparatorFire_canonical {d : Device} (h : d.Canonical) (k : Nat) :
    Device.Canonical (comparatorFire d k) := by
  unfold comparatorFire
  repeat' first
    | with_reducible assumption
    | with_reducible apply Device.pulse_canonical
    | with_reducible apply Device.raise_canonical
    | with_reducible apply Device.rearm_canonical
    | with_reducible apply Device.wake_canonical
    | simp only [Device.canonical_mk]
    | with_reducible apply Device.stores_canonical
    | with_reducible apply stores_canonical_filter
    | with_reducible apply stores_canonical_mem
    | with_reducible apply stores_canonical_clear
    | with_reducible apply Device.reset_canonical
    | with_reducible apply stores_canonical_sram
    | with_reducible apply stores_canonical_empty
    | split

theorem Device.fireAll_canonical {d : Device} (h : d.Canonical) :
    Device.Canonical (Device.fireAll d) := by
  unfold Device.fireAll
  repeat' first
    | with_reducible assumption
    | with_reducible apply comparatorFire_canonical
    | simp only [Device.canonical_mk]
    | with_reducible apply Device.stores_canonical
    | with_reducible apply stores_canonical_filter
    | with_reducible apply stores_canonical_mem
    | with_reducible apply stores_canonical_clear
    | with_reducible apply Device.reset_canonical
    | with_reducible apply stores_canonical_sram
    | with_reducible apply stores_canonical_empty
    | split
    | dsimp only
    | with_reducible apply foldl_canonical
    | intro _

theorem almCmpPeriodWrite_canonical {d : Device} (h : d.Canonical) (k : Nat) (v : Half) :
    Device.Canonical (almCmpPeriodWrite d k v) := by
  unfold almCmpPeriodWrite
  repeat' first
    | with_reducible assumption
    | with_reducible apply Device.reply_canonical
    | with_reducible apply comparatorFire_canonical
    | with_reducible apply Device.setReg_canonical
    | with_reducible apply Device.almRefused_canonical
    | dsimp only
    | with_reducible apply Device.stores_canonical
    | with_reducible apply stores_canonical_filter
    | with_reducible apply stores_canonical_mem
    | with_reducible apply stores_canonical_clear
    | with_reducible apply Device.reset_canonical
    | with_reducible apply stores_canonical_sram
    | with_reducible apply stores_canonical_empty
    | split

theorem Device.afterFirings_canonical {d : Device} (h : d.Canonical) (f : Device → Device) (h1 : ∀ x0, x0.Canonical → Device.Canonical (f x0)) :
    Device.Canonical (Device.afterFirings d f) := by
  unfold Device.afterFirings
  repeat' first
    | with_reducible assumption
    | with_reducible apply h1
    | with_reducible apply Device.fireAll_canonical

theorem timeOutPulseEnd_canonical {d : Device} (h : d.Canonical) (k : Nat) :
    Device.Canonical (timeOutPulseEnd d k) := by
  unfold timeOutPulseEnd
  repeat' first
    | with_reducible assumption
    | simp only [Device.canonical_mk]
    | with_reducible apply Device.stores_canonical
    | with_reducible apply stores_canonical_filter
    | with_reducible apply stores_canonical_mem
    | with_reducible apply stores_canonical_clear
    | with_reducible apply Device.reset_canonical
    | with_reducible apply stores_canonical_sram
    | with_reducible apply stores_canonical_empty
    | split

theorem actAon_canonical {s t : State} {f : Device → Device} (hf : ∀ d, d.Canonical → (f d).Canonical)
    (h : s.dev.Canonical) (e : actAon s f = .next t) : t.dev.Canonical :=
  act_canonical (fun d hd => by split; exacts [hf d hd, hd]) h e

theorem execAlmIncrWrite_canonical (who : Who) (value : Word) {s₁ s₂ : State} (h : s₁.dev.Canonical)
    (e : execAlmIncrWrite who value s₁ = .next s₂) : s₂.dev.Canonical := by
  unfold execAlmIncrWrite at e
  refine actBy_canonical (fun d h => ?_) h e
  repeat' first
    | with_reducible assumption
    | with_reducible apply almIncrWrite_canonical

theorem execAlmLeapWrite_canonical (who : Who) (value : Word) {s₁ s₂ : State} (h : s₁.dev.Canonical)
    (e : execAlmLeapWrite who value s₁ = .next s₂) : s₂.dev.Canonical := by
  unfold execAlmLeapWrite at e
  refine actBy_canonical (fun d h => ?_) h e
  repeat' first
    | with_reducible assumption
    | with_reducible apply almLeapWrite_canonical

theorem execAlmNowRead_canonical (who : Who) {s₁ s₂ : State} (h : s₁.dev.Canonical)
    (e : execAlmNowRead who s₁ = .next s₂) : s₂.dev.Canonical := by
  unfold execAlmNowRead at e
  refine actBy_canonical (fun d h => ?_) h e
  repeat' first
    | with_reducible assumption
    | with_reducible apply almNowRead_canonical

theorem execAlmCmpPeriodWrite_canonical (who : Who) (k : Fin 8) (value : Half) {s₁ s₂ : State} (h : s₁.dev.Canonical)
    (e : execAlmCmpPeriodWrite who k value s₁ = .next s₂) : s₂.dev.Canonical := by
  unfold execAlmCmpPeriodWrite at e
  refine actBy_canonical (fun d h => ?_) h e
  repeat' first
    | with_reducible assumption
    | with_reducible apply almCmpPeriodWrite_canonical

theorem execComparatorFire_canonical (k : Fin 8) {s₁ s₂ : State} (h : s₁.dev.Canonical)
    (e : execComparatorFire k s₁ = .next s₂) : s₂.dev.Canonical := by
  unfold execComparatorFire at e
  refine actAon_canonical (fun d h => ?_) h e
  repeat' first
    | with_reducible assumption
    | with_reducible apply comparatorFire_canonical

theorem execTimeOutPulseEnd_canonical (k : Fin 2) {s₁ s₂ : State} (h : s₁.dev.Canonical)
    (e : execTimeOutPulseEnd k s₁ = .next s₂) : s₂.dev.Canonical := by
  unfold execTimeOutPulseEnd at e
  refine actAon_canonical (fun d h => ?_) h e
  repeat' first
    | with_reducible assumption
    | with_reducible apply timeOutPulseEnd_canonical

end Sys2Proof.Machine
end

