-- ==== Sys2Proof/Laws/CanonPower.lean ====
section
/-!
SUPPORT. The operations and meanings of Machine/Power.lean keep the stores canonical.
-/

namespace Sys2Proof.Machine

theorem Device.dropRecords_canonical {d : Device} (h : d.Canonical) :
    Device.Canonical (Device.dropRecords d) := by
  unfold Device.dropRecords
  repeat' first
    | with_reducible assumption
    | simp only [Device.canonical_mk]
    | with_reducible apply Device.stores_canonical
    | with_reducible apply stores_canonical_filter

/-- Mapping the entries of a table by a function of each, with their keys as they are, keeps it sorted. -/
theorem tsortedFrom_filterMap {α : Type} {lo : Nat} {m : Table α} (f : Nat → α → Option α) (h : tsortedFrom lo m = true) :
    tsortedFrom lo (m.filterMap fun e => (f e.1 e.2).map fun v => (e.1, v)) = true := by
  induction m generalizing lo with
  | nil => rfl
  | cons e m ih =>
    obtain ⟨j, w⟩ := e
    simp only [tsortedFrom, Bool.and_eq_true, decide_eq_true_eq] at h
    rw [List.filterMap_cons]
    cases hf : f j w with
    | none => simpa [hf] using tsortedFrom_mono (ih h.2) (by omega)
    | some v => simpa [hf, tsortedFrom] using ⟨h.1, ih h.2⟩

/-- The registers that a reset leaves are in canonical form. -/
theorem Device.keptRegs_canon {d : Device} (h : d.Canonical) : Table.canon regReset d.keptRegs := by
  have e : d.keptRegs = d.regs.filterMap fun e =>
      ((fun a v => if d.kept a v = regReset a then none else some (d.kept a v)) e.1 e.2).map fun v => (e.1, v) := by
    unfold Device.keptRegs
    congr 1
    funext e
    dsimp only
    split <;> rfl
  refine ⟨by rw [e]; exact tsortedFrom_filterMap (fun a v => if d.kept a v = regReset a then none else some (d.kept a v)) h.2.2.1, fun x hx => ?_⟩
  obtain ⟨y, -, hy⟩ := List.mem_filterMap.1 hx
  dsimp only at hy
  split at hy
  · cases hy
  · cases hy
    assumption

theorem Device.resetUnits_canonical {d : Device} (h : d.Canonical) : d.resetUnits.Canonical :=
  ⟨h.1, rfl, d.keptRegs_canon h⟩

theorem Device.hold_canonical {d : Device} (h : d.Canonical) (k : StartKind) :
    Device.Canonical (Device.hold d k) := by
  unfold Device.hold
  repeat' first
    | with_reducible assumption
    | with_reducible apply Device.resetUnits_canonical
    | simp only [Device.canonical_mk]
    | with_reducible apply Device.stores_canonical

theorem powerOn_canonical {d : Device} (h : d.Canonical) :
    Device.Canonical (powerOn d) := by
  unfold powerOn
  repeat' first
    | with_reducible assumption
    | simp only [Device.canonical_mk]
    | with_reducible apply Device.stores_canonical
    | with_reducible apply stores_canonical_filter
    | with_reducible apply stores_canonical_mem
    | with_reducible apply stores_canonical_clear
    | with_reducible apply Device.reset_canonical
    | with_reducible apply stores_canonical_sram
    | with_reducible apply stores_canonical_empty
    | split

theorem lossOfVddAon_canonical {d : Device} (_ : d.Canonical) :
    Device.Canonical (lossOfVddAon d) := by
  unfold lossOfVddAon
  repeat' first
    | with_reducible assumption
    | simp only [Device.canonical_mk]
    | with_reducible apply Device.stores_canonical
    | with_reducible apply stores_canonical_filter
    | with_reducible apply stores_canonical_mem
    | with_reducible apply stores_canonical_clear
    | with_reducible apply Device.reset_canonical

theorem railEnRelease_canonical {d : Device} (h : d.Canonical) :
    Device.Canonical (railEnRelease d) := by
  unfold railEnRelease
  repeat' first
    | with_reducible assumption
    | simp only [Device.canonical_mk]
    | with_reducible apply Device.stores_canonical
    | with_reducible apply stores_canonical_filter
    | with_reducible apply stores_canonical_mem
    | with_reducible apply stores_canonical_clear
    | with_reducible apply Device.reset_canonical
    | with_reducible apply stores_canonical_sram
    | with_reducible apply stores_canonical_empty
    | split

theorem warmReset_canonical {d : Device} (h : d.Canonical) :
    Device.Canonical (warmReset d) := by
  unfold warmReset
  repeat' first
    | with_reducible assumption
    | with_reducible apply Device.hold_canonical
    | simp only [Device.canonical_mk]
    | with_reducible apply Device.stores_canonical
    | with_reducible apply stores_canonical_filter
    | with_reducible apply stores_canonical_mem
    | with_reducible apply stores_canonical_clear
    | with_reducible apply Device.reset_canonical
    | with_reducible apply stores_canonical_sram
    | with_reducible apply stores_canonical_empty
    | split

theorem brownOut_canonical {d : Device} (h : d.Canonical) :
    Device.Canonical (brownOut d) := by
  unfold brownOut
  repeat' first
    | with_reducible assumption
    | with_reducible apply Device.hold_canonical
    | simp only [Device.canonical_mk]
    | with_reducible apply Device.stores_canonical
    | with_reducible apply stores_canonical_filter
    | with_reducible apply stores_canonical_mem
    | with_reducible apply stores_canonical_clear
    | with_reducible apply Device.reset_canonical
    | with_reducible apply stores_canonical_sram
    | with_reducible apply stores_canonical_empty
    | split

theorem railEnHoldExpire_canonical {d : Device} (h : d.Canonical) :
    Device.Canonical (railEnHoldExpire d) := by
  unfold railEnHoldExpire
  repeat' first
    | with_reducible assumption
    | simp only [Device.canonical_mk]
    | with_reducible apply Device.stores_canonical
    | with_reducible apply stores_canonical_filter
    | with_reducible apply stores_canonical_mem
    | with_reducible apply stores_canonical_clear
    | with_reducible apply Device.reset_canonical
    | with_reducible apply stores_canonical_sram
    | with_reducible apply stores_canonical_empty
    | split

theorem wakePin_canonical {d : Device} (h : d.Canonical) (k : Nat) :
    Device.Canonical (wakePin d k) := by
  unfold wakePin
  repeat' first
    | with_reducible assumption
    | with_reducible apply Device.wake_canonical
    | simp only [Device.canonical_mk]
    | with_reducible apply Device.stores_canonical
    | with_reducible apply stores_canonical_filter
    | with_reducible apply stores_canonical_mem
    | with_reducible apply stores_canonical_clear
    | with_reducible apply Device.reset_canonical
    | with_reducible apply stores_canonical_sram
    | with_reducible apply stores_canonical_empty
    | split

theorem execPowerOn_canonical {s₁ s₂ : State} (h : s₁.dev.Canonical)
    (e : execPowerOn  s₁ = .next s₂) : s₂.dev.Canonical := by
  unfold execPowerOn at e
  refine act_canonical (fun d h => ?_) h e
  repeat' first
    | with_reducible assumption
    | with_reducible apply powerOn_canonical

theorem execRailEnRelease_canonical {s₁ s₂ : State} (h : s₁.dev.Canonical)
    (e : execRailEnRelease  s₁ = .next s₂) : s₂.dev.Canonical := by
  unfold execRailEnRelease at e
  refine actAon_canonical (fun d h => ?_) h e
  repeat' first
    | with_reducible assumption
    | with_reducible apply railEnRelease_canonical

theorem execWarmReset_canonical {s₁ s₂ : State} (h : s₁.dev.Canonical)
    (e : execWarmReset  s₁ = .next s₂) : s₂.dev.Canonical := by
  unfold execWarmReset at e
  refine actAon_canonical (fun d h => ?_) h e
  repeat' first
    | with_reducible assumption
    | with_reducible apply warmReset_canonical

theorem execBrownOut_canonical {s₁ s₂ : State} (h : s₁.dev.Canonical)
    (e : execBrownOut  s₁ = .next s₂) : s₂.dev.Canonical := by
  unfold execBrownOut at e
  refine act_canonical (fun d h => ?_) h e
  repeat' first
    | with_reducible assumption
    | with_reducible apply brownOut_canonical
    | simp only [Device.canonical_mk]
    | with_reducible apply Device.stores_canonical
    | simp only [Did.canonical_done]
    | split

theorem execRefClkStop_canonical {s₁ s₂ : State} (h : s₁.dev.Canonical)
    (e : execRefClkStop  s₁ = .next s₂) : s₂.dev.Canonical := by
  unfold execRefClkStop at e
  refine act_canonical (fun d h => ?_) h e
  repeat' first
    | with_reducible assumption
    | simp only [Device.canonical_mk]
    | with_reducible apply Device.stores_canonical

theorem execRefClkReturn_canonical {s₁ s₂ : State} (h : s₁.dev.Canonical)
    (e : execRefClkReturn  s₁ = .next s₂) : s₂.dev.Canonical := by
  unfold execRefClkReturn at e
  refine act_canonical (fun d h => ?_) h e
  repeat' first
    | with_reducible assumption
    | simp only [Device.canonical_mk]
    | with_reducible apply Device.stores_canonical

theorem execWakePin_canonical (k : Fin 4) {s₁ s₂ : State} (h : s₁.dev.Canonical)
    (e : execWakePin k s₁ = .next s₂) : s₂.dev.Canonical := by
  unfold execWakePin at e
  refine actAon_canonical (fun d h => ?_) h e
  repeat' first
    | with_reducible assumption
    | with_reducible apply wakePin_canonical

theorem execRailEnHoldExpire_canonical {s₁ s₂ : State} (h : s₁.dev.Canonical)
    (e : execRailEnHoldExpire  s₁ = .next s₂) : s₂.dev.Canonical := by
  unfold execRailEnHoldExpire at e
  refine actAon_canonical (fun d h => ?_) h e
  repeat' first
    | with_reducible assumption
    | with_reducible apply railEnHoldExpire_canonical

theorem execLossOfVddAon_canonical {s₁ s₂ : State} (h : s₁.dev.Canonical)
    (e : execLossOfVddAon  s₁ = .next s₂) : s₂.dev.Canonical := by
  unfold execLossOfVddAon at e
  refine act_canonical (fun d h => ?_) h e
  repeat' first
    | with_reducible assumption
    | with_reducible apply lossOfVddAon_canonical

end Sys2Proof.Machine
end

