-- ==== Sys2Proof/Laws/CanonSecurity.lean ====
section
/-!
SUPPORT. The operations and meanings of Machine/Security.lean keep the stores canonical.
-/

namespace Sys2Proof.Machine

theorem Device.useNonce_canonical {d : Device} (h : d.Canonical) : d.useNonce.2.Canonical := h

theorem Device.readRecord_canonical {d : Device} (h : d.Canonical) :
    Device.Canonical (Device.readRecord d) := by
  unfold Device.readRecord
  repeat' first
    | with_reducible assumption
    | with_reducible apply Device.useNonce_canonical
    | with_reducible apply Device.emit_canonical

theorem Device.writeRecord_canonical {d : Device} (h : d.Canonical) (r : RpRecord) :
    Device.Canonical (Device.writeRecord d r) := by
  unfold Device.writeRecord
  repeat' first
    | with_reducible assumption
    | with_reducible apply Device.useNonce_canonical
    | with_reducible apply Device.emit_canonical

theorem Device.putBytes_canonical {d : Device} (h : d.Canonical) (a : Nat) (bs : List Byte) (n : Nat) :
    (Device.putBytes d a bs n).Canonical := by
  induction n with
  | zero => exact h
  | succ n ih => exact Device.setReg_canonical ih _ _

theorem Device.attestRefused_canonical {d : Device} (h : d.Canonical) :
    Device.Canonical (Device.attestRefused d) := by
  unfold Device.attestRefused
  repeat' first
    | with_reducible assumption
    | with_reducible apply Device.orReg_canonical

theorem attest_canonical {d : Device} (h : d.Canonical) :
    Device.Canonical (attest d) := by
  unfold attest
  repeat' first
    | with_reducible assumption
    | with_reducible apply Device.reply_canonical
    | with_reducible apply Device.attestRefused_canonical
    | with_reducible apply Device.orReg_canonical
    | simp only [Device.canonical_mk]
    | with_reducible apply Device.stores_canonical
    | with_reducible apply stores_canonical_filter
    | with_reducible apply stores_canonical_mem
    | with_reducible apply stores_canonical_clear
    | with_reducible apply Device.reset_canonical
    | with_reducible apply stores_canonical_sram
    | with_reducible apply stores_canonical_empty
    | split

theorem attestComplete_canonical {d : Device} (h : d.Canonical) :
    Device.Canonical (attestComplete d) := by
  unfold attestComplete
  repeat' first
    | with_reducible assumption
    | with_reducible apply Device.wr_canonical
    | with_reducible apply Device.clrReg_canonical
    | simp only [Device.canonical_mk]
    | with_reducible apply Device.stores_canonical
    | with_reducible apply stores_canonical_filter
    | with_reducible apply stores_canonical_mem
    | with_reducible apply stores_canonical_clear
    | with_reducible apply Device.reset_canonical
    | with_reducible apply stores_canonical_sram
    | with_reducible apply stores_canonical_empty
    | split

theorem raiseFloor_canonical {d : Device} (h : d.Canonical) :
    Device.Canonical (raiseFloor d) := by
  unfold raiseFloor
  repeat' first
    | with_reducible assumption
    | with_reducible apply Device.reply_canonical
    | with_reducible apply Device.writeRecord_canonical
    | with_reducible apply Device.clrReg_canonical
    | simp only [Device.canonical_mk]
    | with_reducible apply Device.stores_canonical
    | with_reducible apply stores_canonical_filter
    | with_reducible apply stores_canonical_mem
    | with_reducible apply stores_canonical_clear
    | with_reducible apply Device.reset_canonical
    | with_reducible apply stores_canonical_sram
    | with_reducible apply stores_canonical_empty
    | split

theorem floorWriteComplete_canonical {d : Device} (h : d.Canonical) (status : Byte) (record : List Byte) :
    Device.Canonical (floorWriteComplete d status record) := by
  unfold floorWriteComplete
  repeat' first
    | with_reducible assumption
    | with_reducible apply Device.readRecord_canonical
    | with_reducible apply Device.orReg_canonical
    | simp only [Device.canonical_mk]
    | with_reducible apply Device.stores_canonical
    | with_reducible apply stores_canonical_filter
    | with_reducible apply stores_canonical_mem
    | with_reducible apply stores_canonical_clear
    | with_reducible apply Device.reset_canonical
    | with_reducible apply stores_canonical_sram
    | with_reducible apply stores_canonical_empty
    | split

theorem secAccess_canonical {d : Device} (h : d.Canonical) (who : Who) (f : Device → Device) (h1 : ∀ d, d.Canonical → (f d).Canonical) :
    Device.Canonical (secAccess who f d) := by
  unfold secAccess
  repeat' first
    | with_reducible assumption
    | with_reducible apply h1
    | with_reducible apply Device.deny_canonical
    | simp only [Device.canonical_mk]
    | with_reducible apply Device.stores_canonical
    | with_reducible apply stores_canonical_filter
    | with_reducible apply stores_canonical_mem
    | with_reducible apply stores_canonical_clear
    | with_reducible apply Device.reset_canonical
    | with_reducible apply stores_canonical_sram
    | with_reducible apply stores_canonical_empty
    | split

theorem execAttest_canonical (who : Who) {s₁ s₂ : State} (h : s₁.dev.Canonical)
    (e : execAttest who s₁ = .next s₂) : s₂.dev.Canonical := by
  unfold execAttest at e
  refine actBy_canonical (fun d h => ?_) h e
  repeat' first
    | with_reducible assumption
    | with_reducible apply secAccess_canonical
    | with_reducible apply attest_canonical

theorem execAttestComplete_canonical {s₁ s₂ : State} (h : s₁.dev.Canonical)
    (e : execAttestComplete  s₁ = .next s₂) : s₂.dev.Canonical := by
  unfold execAttestComplete at e
  refine actLive_canonical (fun d h => ?_) h e
  repeat' first
    | with_reducible assumption
    | with_reducible apply attestComplete_canonical

theorem execRaiseFloor_canonical (who : Who) {s₁ s₂ : State} (h : s₁.dev.Canonical)
    (e : execRaiseFloor who s₁ = .next s₂) : s₂.dev.Canonical := by
  unfold execRaiseFloor at e
  refine actBy_canonical (fun d h => ?_) h e
  repeat' first
    | with_reducible assumption
    | with_reducible apply raiseFloor_canonical
    | with_reducible apply Device.deny_canonical
    | simp only [Device.canonical_mk]
    | with_reducible apply Device.stores_canonical
    | simp only [Did.canonical_done]
    | split

theorem execFloorWriteComplete_canonical (status : Byte) (record : List Byte) {s₁ s₂ : State} (h : s₁.dev.Canonical)
    (e : execFloorWriteComplete status s₁ record = .next s₂) : s₂.dev.Canonical := by
  unfold execFloorWriteComplete at e
  refine actLive_canonical (fun d h => ?_) h e
  repeat' first
    | with_reducible assumption
    | with_reducible apply floorWriteComplete_canonical

end Sys2Proof.Machine
end

