-- ==== Sys2Proof/Laws/CanonBootFlow.lean ====
section
/-!
SUPPORT. The operations and meanings of Machine/BootFlow.lean keep the stores canonical.
-/

namespace Sys2Proof.Machine

theorem Device.takeImage_canonical {d : Device} (h : d.Canonical) (slot : Bool) :
    Device.Canonical (Device.takeImage d slot) := by
  unfold Device.takeImage
  repeat' first
    | with_reducible assumption
    | with_reducible apply Device.setReg_canonical
    | with_reducible apply Device.setFld_canonical
    | with_reducible apply Device.putBytes_canonical
    | simp only [Device.canonical_mk]
    | with_reducible apply Device.stores_canonical
    | with_reducible apply stores_canonical_filter
    | with_reducible apply stores_canonical_mem
    | with_reducible apply stores_canonical_clear
    | with_reducible apply Device.reset_canonical
    | with_reducible apply stores_canonical_sram
    | with_reducible apply stores_canonical_empty
    | split
    | with_reducible apply foldl_canonical
    | intro _

theorem Device.slotBad_canonical {d : Device} (h : d.Canonical) (slot : Bool) :
    Device.Canonical (Device.slotBad d slot) := by
  unfold Device.slotBad
  repeat' first
    | with_reducible assumption
    | with_reducible apply Device.orReg_canonical

theorem Device.stopBoot_canonical {d : Device} (h : d.Canonical) :
    Device.Canonical (Device.stopBoot d) := by
  unfold Device.stopBoot
  repeat' first
    | with_reducible assumption
    | simp only [Device.canonical_mk]
    | with_reducible apply Device.stores_canonical

theorem Device.testHosts_canonical {d : Device} (h : d.Canonical) :
    Device.Canonical (Device.testHosts d) := by
  unfold Device.testHosts
  repeat' first
    | with_reducible assumption
    | with_reducible apply Device.setFld_canonical
    | with_reducible apply Device.setUnitOff_canonical
    | with_reducible apply Device.orReg_canonical
    | simp only [Device.canonical_mk]
    | with_reducible apply Device.stores_canonical
    | with_reducible apply stores_canonical_filter
    | with_reducible apply stores_canonical_mem
    | with_reducible apply stores_canonical_clear
    | with_reducible apply Device.reset_canonical
    | with_reducible apply stores_canonical_sram
    | with_reducible apply stores_canonical_empty
    | split
    | with_reducible apply foldl_canonical
    | intro _

theorem Device.bootSlot_canonical {d : Device} (h : d.Canonical) (slot : Bool) :
    Device.Canonical (Device.bootSlot d slot) := by
  unfold Device.bootSlot
  repeat' first
    | with_reducible assumption
    | with_reducible apply Device.testHosts_canonical
    | with_reducible apply Device.takeImage_canonical
    | simp only [Device.canonical_mk]
    | with_reducible apply Device.stores_canonical

theorem Device.chooseSlot_canonical {d : Device} (h : d.Canonical) :
    Device.Canonical (Device.chooseSlot d) := by
  unfold Device.chooseSlot
  repeat' first
    | with_reducible assumption
    | with_reducible apply Device.bootSlot_canonical
    | with_reducible apply Device.slotBad_canonical
    | with_reducible apply Device.stopBoot_canonical
    | simp only [Device.canonical_mk]
    | with_reducible apply Device.stores_canonical
    | with_reducible apply stores_canonical_filter
    | with_reducible apply stores_canonical_mem
    | with_reducible apply stores_canonical_clear
    | with_reducible apply Device.reset_canonical
    | with_reducible apply stores_canonical_sram
    | with_reducible apply stores_canonical_empty
    | split

theorem Device.writeHelper_canonical {d : Device} (h : d.Canonical) :
    Device.Canonical (Device.writeHelper d) := by
  unfold Device.writeHelper
  repeat' first
    | with_reducible assumption
    | with_reducible apply Device.emit_canonical
    | simp only [Device.canonical_mk]
    | with_reducible apply Device.stores_canonical

theorem Device.enrol_canonical {d : Device} (h : d.Canonical) :
    Device.Canonical (Device.enrol d) := by
  unfold Device.enrol
  repeat' first
    | with_reducible assumption
    | with_reducible apply Device.writeHelper_canonical
    | with_reducible apply Device.emit_canonical
    | with_reducible apply Device.writeRecord_canonical
    | simp only [Device.canonical_mk]
    | with_reducible apply Device.stores_canonical

theorem Device.identify_canonical {d : Device} (h : d.Canonical) :
    Device.Canonical (Device.identify d) := by
  unfold Device.identify
  repeat' first
    | with_reducible assumption
    | with_reducible apply Device.putBytes_canonical
    | with_reducible apply Device.orReg_canonical
    | simp only [Device.canonical_mk]
    | with_reducible apply Device.stores_canonical

theorem Device.enrolled_canonical {d : Device} (h : d.Canonical) (b : BootInputs) :
    (Device.enrolled d b).1.Canonical := by
  unfold Device.enrolled
  repeat' first
    | with_reducible assumption
    | with_reducible apply Device.orReg_canonical
    | with_reducible apply Device.identify_canonical
    | with_reducible apply Device.enrol_canonical
    | dsimp only
    | with_reducible apply Device.stores_canonical
    | with_reducible apply stores_canonical_filter
    | with_reducible apply stores_canonical_mem
    | with_reducible apply stores_canonical_clear
    | with_reducible apply Device.reset_canonical
    | with_reducible apply stores_canonical_sram
    | with_reducible apply stores_canonical_empty
    | split

theorem Device.readIdentity_canonical {d : Device} (h : d.Canonical) (b : BootInputs) :
    (Device.readIdentity d b).1.Canonical := by
  unfold Device.readIdentity
  repeat' first
    | with_reducible assumption
    | with_reducible apply Device.enrolled_canonical
    | with_reducible apply Device.orReg_canonical
    | with_reducible apply Device.readRecord_canonical
    | with_reducible apply Device.identify_canonical
    | simp only [Device.canonical_mk]
    | with_reducible apply Device.stores_canonical
    | with_reducible apply stores_canonical_filter
    | with_reducible apply stores_canonical_mem
    | with_reducible apply stores_canonical_clear
    | with_reducible apply Device.reset_canonical
    | with_reducible apply stores_canonical_sram
    | with_reducible apply stores_canonical_empty
    | split

theorem bootStart_canonical {d : Device} (h : d.Canonical) (b : BootInputs) :
    Device.Canonical (bootStart d b) := by
  unfold bootStart
  repeat' first
    | with_reducible assumption
    | with_reducible apply Device.resetUnits_canonical
    | with_reducible apply Device.setReg_canonical
    | with_reducible apply Device.setFld_canonical
    | with_reducible apply Device.stopBoot_canonical
    | with_reducible apply Device.readIdentity_canonical
    | with_reducible apply Device.chooseSlot_canonical
    | simp only [Device.canonical_mk]
    | with_reducible apply Device.stores_canonical
    | with_reducible apply stores_canonical_filter
    | with_reducible apply stores_canonical_mem
    | with_reducible apply stores_canonical_clear
    | with_reducible apply Device.reset_canonical
    | with_reducible apply stores_canonical_sram
    | with_reducible apply stores_canonical_empty
    | split

theorem ddrTrainingDone_canonical {d : Device} (h : d.Canonical) (failed : BitVec 8) :
    Device.Canonical (ddrTrainingDone d failed) := by
  unfold ddrTrainingDone
  repeat' first
    | with_reducible assumption
    | with_reducible apply Device.orReg_canonical
    | with_reducible apply Device.setReg_canonical
    | simp only [Device.canonical_mk]
    | with_reducible apply Device.stores_canonical
    | with_reducible apply stores_canonical_filter
    | with_reducible apply stores_canonical_mem
    | with_reducible apply stores_canonical_clear
    | with_reducible apply Device.reset_canonical
    | with_reducible apply stores_canonical_sram
    | with_reducible apply stores_canonical_empty
    | split

theorem memoryZeroed_canonical {d : Device} (h : d.Canonical) : (memoryZeroed d).Canonical := by
  unfold memoryZeroed
  split
  · refine ⟨?_, h.2⟩
    unfold Device.zeroedMem
    split
    · rfl
    · exact Memory.wf_filter _ h.1
  · exact h

theorem Device.copySections_canonical {d : Device} (h : d.Canonical) :
    Device.Canonical (Device.copySections d) := by
  unfold Device.copySections
  repeat' first
    | with_reducible assumption
    | with_reducible apply Device.wr_canonical
    | simp only [Device.canonical_mk]
    | with_reducible apply Device.stores_canonical
    | with_reducible apply stores_canonical_filter
    | with_reducible apply stores_canonical_mem
    | with_reducible apply stores_canonical_clear
    | with_reducible apply Device.reset_canonical
    | with_reducible apply stores_canonical_sram
    | with_reducible apply stores_canonical_empty
    | split

theorem Device.otherSlot_canonical {d : Device} (h : d.Canonical) :
    Device.Canonical (Device.otherSlot d) := by
  unfold Device.otherSlot
  repeat' first
    | with_reducible assumption
    | with_reducible apply Device.slotBad_canonical
    | with_reducible apply Device.stopBoot_canonical
    | with_reducible apply Device.bootSlot_canonical
    | simp only [Device.canonical_mk]
    | with_reducible apply Device.stores_canonical
    | with_reducible apply stores_canonical_filter
    | with_reducible apply stores_canonical_mem
    | with_reducible apply stores_canonical_clear
    | with_reducible apply Device.reset_canonical
    | with_reducible apply stores_canonical_sram
    | with_reducible apply stores_canonical_empty
    | split

theorem Device.holdHosts_canonical {d : Device} (h : d.Canonical) :
    Device.Canonical (Device.holdHosts d) := by
  unfold Device.holdHosts
  repeat' first
    | with_reducible assumption
    | with_reducible apply Device.setUnitOff_canonical
    | simp only [Device.canonical_mk]
    | with_reducible apply Device.stores_canonical
    | with_reducible apply stores_canonical_filter
    | with_reducible apply stores_canonical_mem
    | with_reducible apply stores_canonical_clear
    | with_reducible apply Device.reset_canonical
    | with_reducible apply stores_canonical_sram
    | with_reducible apply stores_canonical_empty
    | split
    | with_reducible apply foldl_canonical
    | intro _

theorem Device.firstRails_canonical {d : Device} (h : d.Canonical) :
    Device.Canonical (Device.firstRails d) := by
  unfold Device.firstRails
  repeat' first
    | with_reducible assumption
    | with_reducible apply Device.emit_canonical
    | with_reducible apply Device.setReg_canonical
    | simp only [Device.canonical_mk]
    | with_reducible apply Device.stores_canonical
    | with_reducible apply stores_canonical_filter
    | with_reducible apply stores_canonical_mem
    | with_reducible apply stores_canonical_clear
    | with_reducible apply Device.reset_canonical
    | with_reducible apply stores_canonical_sram
    | with_reducible apply stores_canonical_empty
    | split
    | with_reducible apply foldl_canonical
    | intro _

theorem Device.bootDone_canonical {d : Device} (h : d.Canonical) (fires : Bool) :
    Device.Canonical (Device.bootDone d fires) := by
  unfold Device.bootDone
  repeat' first
    | with_reducible assumption
    | with_reducible apply Device.orReg_canonical
    | with_reducible apply Device.holdHosts_canonical
    | with_reducible apply Device.enter_canonical
    | with_reducible apply Device.firstRails_canonical
    | simp only [Device.canonical_mk]
    | with_reducible apply Device.stores_canonical
    | with_reducible apply stores_canonical_filter
    | with_reducible apply stores_canonical_mem
    | with_reducible apply stores_canonical_clear
    | with_reducible apply Device.reset_canonical
    | with_reducible apply stores_canonical_sram
    | with_reducible apply stores_canonical_empty
    | split

theorem sectionsCopied_canonical {d : Device} (h : d.Canonical) (fires : Bool) :
    Device.Canonical (sectionsCopied d fires) := by
  unfold sectionsCopied
  repeat' first
    | with_reducible assumption
    | with_reducible apply Device.bootDone_canonical
    | with_reducible apply Device.copySections_canonical
    | with_reducible apply Device.otherSlot_canonical
    | simp only [Device.canonical_mk]
    | with_reducible apply Device.stores_canonical
    | with_reducible apply stores_canonical_filter
    | with_reducible apply stores_canonical_mem
    | with_reducible apply stores_canonical_clear
    | with_reducible apply Device.reset_canonical
    | with_reducible apply stores_canonical_sram
    | with_reducible apply stores_canonical_empty
    | split

theorem execBootStart_canonical (b : BootInputs) {s₁ s₂ : State} (h : s₁.dev.Canonical)
    (e : execBootStart b s₁ = .next s₂) : s₂.dev.Canonical := by
  unfold execBootStart at e
  refine actAon_canonical (fun d h => ?_) h e
  repeat' first
    | with_reducible assumption
    | with_reducible apply bootStart_canonical

theorem execDdrTrainingDone_canonical (failed : BitVec 8) {s₁ s₂ : State} (h : s₁.dev.Canonical)
    (e : execDdrTrainingDone failed s₁ = .next s₂) : s₂.dev.Canonical := by
  unfold execDdrTrainingDone at e
  refine actAon_canonical (fun d h => ?_) h e
  repeat' first
    | with_reducible assumption
    | with_reducible apply ddrTrainingDone_canonical

theorem execMemoryZeroed_canonical {s₁ s₂ : State} (h : s₁.dev.Canonical)
    (e : execMemoryZeroed  s₁ = .next s₂) : s₂.dev.Canonical := by
  unfold execMemoryZeroed at e
  refine actAon_canonical (fun d h => ?_) h e
  repeat' first
    | with_reducible assumption
    | with_reducible apply memoryZeroed_canonical

theorem execSectionsCopied_canonical (checkerFires : Bool) {s₁ s₂ : State} (h : s₁.dev.Canonical)
    (e : execSectionsCopied checkerFires s₁ = .next s₂) : s₂.dev.Canonical := by
  unfold execSectionsCopied at e
  refine actAon_canonical (fun d h => ?_) h e
  repeat' first
    | with_reducible assumption
    | with_reducible apply sectionsCopied_canonical

end Sys2Proof.Machine
end

