-- ==== Sys2Proof/Laws/CanonCalendar.lean ====
section
/-!
SUPPORT. The operations and meanings of Machine/Calendar.lean keep the stores canonical.
-/

namespace Sys2Proof.Machine

theorem calendarStart_canonical {d : Device} (h : d.Canonical) :
    Device.Canonical (calendarStart d) := by
  unfold calendarStart
  repeat' first
    | with_reducible assumption
    | with_reducible apply Device.setReg_canonical
    | simp only [Device.canonical_mk]
    | with_reducible apply Device.stores_canonical
    | with_reducible apply stores_canonical_filter
    | with_reducible apply stores_canonical_mem
    | with_reducible apply stores_canonical_clear
    | with_reducible apply Device.reset_canonical
    | with_reducible apply stores_canonical_sram
    | with_reducible apply stores_canonical_empty
    | split

theorem majorFrameStart_canonical {d : Device} (h : d.Canonical) :
    Device.Canonical (majorFrameStart d) := by
  unfold majorFrameStart
  repeat' first
    | with_reducible assumption
    | with_reducible apply Device.setReg_canonical
    | simp only [Device.canonical_mk]
    | with_reducible apply Device.stores_canonical
    | with_reducible apply stores_canonical_filter
    | with_reducible apply stores_canonical_mem
    | with_reducible apply stores_canonical_clear
    | with_reducible apply Device.reset_canonical
    | with_reducible apply stores_canonical_sram
    | with_reducible apply stores_canonical_empty
    | split

theorem sliceStart_canonical {d : Device} (h : d.Canonical) (i : Nat) :
    Device.Canonical (sliceStart d i) := by
  unfold sliceStart
  repeat' first
    | with_reducible assumption
    | simp only [Device.canonical_mk]
    | with_reducible apply Device.stores_canonical
    | with_reducible apply stores_canonical_filter
    | with_reducible apply stores_canonical_mem
    | with_reducible apply stores_canonical_clear
    | with_reducible apply Device.reset_canonical
    | with_reducible apply stores_canonical_sram
    | with_reducible apply stores_canonical_empty
    | split

theorem usableEnd_canonical {d : Device} (h : d.Canonical) (i : Nat) (e : Entry) :
    Device.Canonical (usableEnd d i e) := by
  unfold usableEnd
  repeat' first
    | with_reducible assumption
    | with_reducible apply Device.stopOverrun_canonical
    | simp only [Device.canonical_mk]
    | with_reducible apply Device.stores_canonical
    | with_reducible apply stores_canonical_filter
    | with_reducible apply stores_canonical_mem
    | with_reducible apply stores_canonical_clear
    | with_reducible apply Device.reset_canonical
    | with_reducible apply stores_canonical_sram
    | with_reducible apply stores_canonical_empty
    | split

theorem sliceUsableEnd_canonical {d : Device} (h : d.Canonical) (i : Nat) :
    Device.Canonical (sliceUsableEnd d i) := by
  unfold sliceUsableEnd
  repeat' first
    | with_reducible assumption
    | with_reducible apply usableEnd_canonical
    | simp only [Device.canonical_mk]
    | with_reducible apply Device.stores_canonical
    | with_reducible apply stores_canonical_filter
    | with_reducible apply stores_canonical_mem
    | with_reducible apply stores_canonical_clear
    | with_reducible apply Device.reset_canonical
    | with_reducible apply stores_canonical_sram
    | with_reducible apply stores_canonical_empty
    | split

theorem sliceEnd_canonical {d : Device} (h : d.Canonical) (i : Nat) :
    Device.Canonical (sliceEnd d i) := by
  unfold sliceEnd
  repeat' first
    | with_reducible assumption
    | with_reducible apply usableEnd_canonical
    | simp only [Device.canonical_mk]
    | with_reducible apply Device.stores_canonical
    | with_reducible apply stores_canonical_filter
    | with_reducible apply stores_canonical_mem
    | with_reducible apply stores_canonical_clear
    | with_reducible apply Device.reset_canonical
    | with_reducible apply stores_canonical_sram
    | with_reducible apply stores_canonical_empty
    | split

theorem Device.stestRecord_canonical {d : Device} (h : d.Canonical) (lapse : Bool) (c : Nat) (k : Nat) :
    Device.Canonical (Device.stestRecord d lapse c k) := by
  unfold Device.stestRecord
  repeat' first
    | with_reducible assumption
    | with_reducible apply Device.latch_canonical
    | with_reducible apply Device.recordIf_canonical

theorem Device.pastChunk_canonical {d : Device} (h : d.Canonical) (c : Nat) (k : Nat) (skip : Bool) :
    Device.Canonical (Device.pastChunk d c k skip) := by
  unfold Device.pastChunk
  repeat' first
    | with_reducible assumption
    | with_reducible apply Device.setStest_canonical
    | with_reducible apply Device.setReg_canonical
    | dsimp only
    | with_reducible apply Device.stores_canonical
    | with_reducible apply stores_canonical_filter
    | with_reducible apply stores_canonical_mem
    | with_reducible apply stores_canonical_clear
    | with_reducible apply Device.reset_canonical
    | with_reducible apply stores_canonical_sram
    | with_reducible apply stores_canonical_empty
    | split

theorem holidaySlotStart_canonical {d : Device} (h : d.Canonical) (i : Nat) :
    Device.Canonical (holidaySlotStart d i) := by
  unfold holidaySlotStart
  repeat' first
    | with_reducible assumption
    | with_reducible apply Device.setStest_canonical
    | simp only [Device.canonical_mk]
    | with_reducible apply Device.stores_canonical
    | with_reducible apply stores_canonical_filter
    | with_reducible apply stores_canonical_mem
    | with_reducible apply stores_canonical_clear
    | with_reducible apply Device.reset_canonical
    | with_reducible apply stores_canonical_sram
    | with_reducible apply stores_canonical_empty
    | split

theorem Device.deferChunk_canonical {d : Device} (h : d.Canonical) (c : Nat) (k : Nat) :
    Device.Canonical (Device.deferChunk d c k) := by
  unfold Device.deferChunk
  repeat' first
    | with_reducible assumption
    | with_reducible apply Device.addCount_canonical
    | with_reducible apply Device.pastChunk_canonical
    | with_reducible apply Device.stestRecord_canonical
    | with_reducible apply Device.setStest_canonical
    | dsimp only
    | with_reducible apply Device.stores_canonical
    | with_reducible apply stores_canonical_filter
    | with_reducible apply stores_canonical_mem
    | with_reducible apply stores_canonical_clear
    | with_reducible apply Device.reset_canonical
    | with_reducible apply stores_canonical_sram
    | with_reducible apply stores_canonical_empty
    | split

theorem holidayUsableEnd_canonical {d : Device} (h : d.Canonical) (i : Nat) :
    Device.Canonical (holidayUsableEnd d i) := by
  unfold holidayUsableEnd
  repeat' first
    | with_reducible assumption
    | with_reducible apply Device.deferChunk_canonical
    | with_reducible apply Device.setStest_canonical
    | simp only [Device.canonical_mk]
    | with_reducible apply Device.stores_canonical
    | with_reducible apply stores_canonical_filter
    | with_reducible apply stores_canonical_mem
    | with_reducible apply stores_canonical_clear
    | with_reducible apply Device.reset_canonical
    | with_reducible apply stores_canonical_sram
    | with_reducible apply stores_canonical_empty
    | split

theorem Device.marchCe_canonical {d : Device} (h : d.Canonical) (c : Nat) (x : ChunkResult) :
    Device.Canonical (Device.marchCe d c x) := by
  unfold Device.marchCe
  repeat' first
    | with_reducible assumption
    | with_reducible apply Device.benchCe_canonical
    | simp only [Device.canonical_mk]
    | with_reducible apply Device.stores_canonical
    | with_reducible apply stores_canonical_filter
    | with_reducible apply stores_canonical_mem
    | with_reducible apply stores_canonical_clear
    | with_reducible apply Device.reset_canonical
    | with_reducible apply stores_canonical_sram
    | with_reducible apply stores_canonical_empty
    | split
    | dsimp only
    | with_reducible apply foldl_canonical
    | intro _

theorem selftestChunkDone_canonical {d : Device} (h : d.Canonical) (c : Nat) (x : ChunkResult) :
    Device.Canonical (selftestChunkDone d c x) := by
  unfold selftestChunkDone
  repeat' first
    | with_reducible assumption
    | with_reducible apply Device.marchCe_canonical
    | with_reducible apply Device.takeOffline_canonical
    | with_reducible apply Device.stestRecord_canonical
    | with_reducible apply Device.pastChunk_canonical
    | with_reducible apply Device.setStest_canonical
    | dsimp only
    | with_reducible apply Device.stores_canonical
    | with_reducible apply stores_canonical_filter
    | with_reducible apply stores_canonical_mem
    | with_reducible apply stores_canonical_clear
    | with_reducible apply Device.reset_canonical
    | with_reducible apply stores_canonical_sram
    | with_reducible apply stores_canonical_empty
    | split

theorem execCalendarStart_canonical {s₁ s₂ : State} (h : s₁.dev.Canonical)
    (e : execCalendarStart  s₁ = .next s₂) : s₂.dev.Canonical := by
  unfold execCalendarStart at e
  refine actLive_canonical (fun d h => ?_) h e
  repeat' first
    | with_reducible assumption
    | with_reducible apply calendarStart_canonical

theorem execMajorFrameStart_canonical {s₁ s₂ : State} (h : s₁.dev.Canonical)
    (e : execMajorFrameStart  s₁ = .next s₂) : s₂.dev.Canonical := by
  unfold execMajorFrameStart at e
  refine actLive_canonical (fun d h => ?_) h e
  repeat' first
    | with_reducible assumption
    | with_reducible apply majorFrameStart_canonical

theorem execSliceStart_canonical (entry : Fin 1024) {s₁ s₂ : State} (h : s₁.dev.Canonical)
    (e : execSliceStart entry s₁ = .next s₂) : s₂.dev.Canonical := by
  unfold execSliceStart at e
  refine actLive_canonical (fun d h => ?_) h e
  repeat' first
    | with_reducible assumption
    | with_reducible apply sliceStart_canonical

theorem execSliceUsableEnd_canonical (entry : Fin 1024) {s₁ s₂ : State} (h : s₁.dev.Canonical)
    (e : execSliceUsableEnd entry s₁ = .next s₂) : s₂.dev.Canonical := by
  unfold execSliceUsableEnd at e
  refine actLive_canonical (fun d h => ?_) h e
  repeat' first
    | with_reducible assumption
    | with_reducible apply sliceUsableEnd_canonical

theorem execSliceEnd_canonical (entry : Fin 1024) {s₁ s₂ : State} (h : s₁.dev.Canonical)
    (e : execSliceEnd entry s₁ = .next s₂) : s₂.dev.Canonical := by
  unfold execSliceEnd at e
  refine actLive_canonical (fun d h => ?_) h e
  repeat' first
    | with_reducible assumption
    | with_reducible apply sliceEnd_canonical

theorem execHolidaySlotStart_canonical (entry : Fin 1024) {s₁ s₂ : State} (h : s₁.dev.Canonical)
    (e : execHolidaySlotStart entry s₁ = .next s₂) : s₂.dev.Canonical := by
  unfold execHolidaySlotStart at e
  refine actLive_canonical (fun d h => ?_) h e
  repeat' first
    | with_reducible assumption
    | with_reducible apply holidaySlotStart_canonical

theorem execHolidayUsableEnd_canonical (entry : Fin 1024) {s₁ s₂ : State} (h : s₁.dev.Canonical)
    (e : execHolidayUsableEnd entry s₁ = .next s₂) : s₂.dev.Canonical := by
  unfold execHolidayUsableEnd at e
  refine actLive_canonical (fun d h => ?_) h e
  repeat' first
    | with_reducible assumption
    | with_reducible apply holidayUsableEnd_canonical

theorem execSelftestChunkDone_canonical (cluster : Fin 24) (result : ChunkResult) {s₁ s₂ : State} (h : s₁.dev.Canonical)
    (e : execSelftestChunkDone cluster result s₁ = .next s₂) : s₂.dev.Canonical := by
  unfold execSelftestChunkDone at e
  refine actLive_canonical (fun d h => ?_) h e
  repeat' first
    | with_reducible assumption
    | with_reducible apply selftestChunkDone_canonical

end Sys2Proof.Machine
end

