-- ==== Sys2Proof/Laws/CanonGovernor.lean ====
section
/-!
SUPPORT. The operations and meanings of Machine/Governor.lean keep the stores canonical.
-/

namespace Sys2Proof.Machine

theorem Device.setDie_canonical {d : Device} (h : d.Canonical) (i : Fin 4) (x : DieGov) :
    Device.Canonical (Device.setDie d i x) := by
  unfold Device.setDie
  repeat' first
    | with_reducible assumption
    | simp only [Device.canonical_mk]
    | with_reducible apply Device.stores_canonical

theorem Device.stepRail_canonical {d : Device} (h : d.Canonical) (i : Fin 4) (target : Nat) :
    Device.Canonical (Device.stepRail d i target) := by
  unfold Device.stepRail
  repeat' first
    | with_reducible assumption
    | with_reducible apply Device.noted_canonical
    | with_reducible apply Device.setDie_canonical
    | with_reducible apply Device.emit_canonical
    | with_reducible apply Device.setReg_canonical

theorem Device.startRamp_canonical {d : Device} (h : d.Canonical) (i : Fin 4) (target : Nat) :
    Device.Canonical (Device.startRamp d i target) := by
  unfold Device.startRamp
  repeat' first
    | with_reducible assumption
    | with_reducible apply Device.setDie_canonical
    | with_reducible apply Device.stepRail_canonical
    | dsimp only
    | with_reducible apply Device.stores_canonical
    | with_reducible apply stores_canonical_filter
    | with_reducible apply stores_canonical_mem
    | with_reducible apply stores_canonical_clear
    | with_reducible apply Device.reset_canonical
    | with_reducible apply stores_canonical_sram
    | with_reducible apply stores_canonical_empty
    | split

theorem Device.countRaise_canonical {d : Device} (h : d.Canonical) :
    Device.Canonical (Device.countRaise d) := by
  unfold Device.countRaise
  repeat' first
    | with_reducible assumption
    | with_reducible apply Device.addCount_canonical

theorem Device.countLower_canonical {d : Device} (h : d.Canonical) :
    Device.Canonical (Device.countLower d) := by
  unfold Device.countLower
  repeat' first
    | with_reducible assumption
    | with_reducible apply Device.addCount_canonical

theorem Device.beginTakeUp_canonical {d : Device} (h : d.Canonical) (p : BitVec 2) :
    Device.Canonical (Device.beginTakeUp d p) := by
  unfold Device.beginTakeUp
  repeat' first
    | with_reducible assumption
    | with_reducible apply Device.startRamp_canonical
    | simp only [Device.canonical_mk]
    | with_reducible apply Device.stores_canonical
    | with_reducible apply stores_canonical_filter
    | with_reducible apply stores_canonical_mem
    | with_reducible apply stores_canonical_clear
    | with_reducible apply Device.reset_canonical
    | with_reducible apply stores_canonical_sram
    | with_reducible apply stores_canonical_empty
    | split
    | with_reducible apply foldl_canonical
    | intro _

theorem Device.forcePoint_canonical {d : Device} (h : d.Canonical) (p : Nat) :
    Device.Canonical (Device.forcePoint d p) := by
  unfold Device.forcePoint
  repeat' first
    | with_reducible assumption
    | with_reducible apply Device.setReg_canonical

theorem Device.startQueues_canonical {d : Device} (h : d.Canonical) :
    Device.Canonical (Device.startQueues d) := by
  unfold Device.startQueues
  repeat' first
    | with_reducible assumption
    | with_reducible apply Device.setQueue_canonical
    | dsimp only
    | with_reducible apply Device.stores_canonical
    | with_reducible apply stores_canonical_filter
    | with_reducible apply stores_canonical_mem
    | with_reducible apply stores_canonical_clear
    | with_reducible apply Device.reset_canonical
    | with_reducible apply stores_canonical_sram
    | with_reducible apply stores_canonical_empty
    | split
    | with_reducible apply foldl_canonical
    | intro _

theorem Device.startUnits_canonical {d : Device} (h : d.Canonical) :
    Device.Canonical (Device.startUnits d) := by
  unfold Device.startUnits
  repeat' first
    | with_reducible assumption
    | with_reducible apply Device.startQueues_canonical
    | with_reducible apply Device.setReg_canonical
    | simp only [Device.canonical_mk]
    | with_reducible apply Device.stores_canonical
    | with_reducible apply stores_canonical_filter

theorem Device.enterRunning_canonical {d : Device} (h : d.Canonical) :
    Device.Canonical (Device.enterRunning d) := by
  unfold Device.enterRunning
  repeat' first
    | with_reducible assumption
    | with_reducible apply Device.enter_canonical
    | with_reducible apply Device.startUnits_canonical
    | simp only [Device.canonical_mk]
    | with_reducible apply Device.stores_canonical

theorem Device.switchCounts_canonical {d : Device} (h : d.Canonical) (p : BitVec 2) :
    Device.Canonical (Device.switchCounts d p) := by
  unfold Device.switchCounts
  repeat' first
    | with_reducible assumption
    | with_reducible apply Device.forcePoint_canonical
    | with_reducible apply Device.setDie_canonical
    | with_reducible apply Device.enterRunning_canonical
    | with_reducible apply Device.setFld_canonical
    | simp only [Device.canonical_mk]
    | with_reducible apply Device.stores_canonical
    | with_reducible apply stores_canonical_filter
    | with_reducible apply stores_canonical_mem
    | with_reducible apply stores_canonical_clear
    | with_reducible apply Device.reset_canonical
    | with_reducible apply stores_canonical_sram
    | with_reducible apply stores_canonical_empty
    | split
    | with_reducible apply foldl_canonical
    | intro _

theorem Device.noteRates_canonical {d : Device} (h : d.Canonical) (counts : List (BitVec 16)) :
    Device.Canonical (Device.noteRates d counts) := by
  unfold Device.noteRates
  repeat' first
    | with_reducible assumption
    | with_reducible apply Device.setReg_canonical
    | dsimp only
    | with_reducible apply Device.stores_canonical
    | with_reducible apply stores_canonical_filter
    | with_reducible apply stores_canonical_mem
    | with_reducible apply stores_canonical_clear
    | with_reducible apply Device.reset_canonical
    | with_reducible apply stores_canonical_sram
    | with_reducible apply stores_canonical_empty
    | split
    | with_reducible apply foldl_canonical
    | intro _

theorem Device.paceFault_canonical {d : Device} (h : d.Canonical) (i : Fin 4) (core : Nat) (count : Nat) (ceiling : Nat) :
    Device.Canonical (Device.paceFault d i core count ceiling) := by
  unfold Device.paceFault
  repeat' first
    | with_reducible assumption
    | with_reducible apply Device.recordIf_canonical
    | with_reducible apply Device.latch_canonical
    | with_reducible apply Device.orReg_canonical
    | with_reducible apply Device.startRamp_canonical
    | with_reducible apply Device.countRaise_canonical
    | dsimp only
    | with_reducible apply Device.stores_canonical
    | with_reducible apply stores_canonical_filter
    | with_reducible apply stores_canonical_mem
    | with_reducible apply stores_canonical_clear
    | with_reducible apply Device.reset_canonical
    | with_reducible apply stores_canonical_sram
    | with_reducible apply stores_canonical_empty
    | split

theorem Device.takeUpWindow_canonical {d : Device} (h : d.Canonical) (counts : List (BitVec 16)) (p : BitVec 2) (i : Fin 4) :
    Device.Canonical (Device.takeUpWindow d counts p i) := by
  unfold Device.takeUpWindow
  repeat' first
    | with_reducible assumption
    | with_reducible apply Device.paceFault_canonical
    | simp only [Device.canonical_mk]
    | with_reducible apply Device.stores_canonical
    | with_reducible apply stores_canonical_filter
    | with_reducible apply stores_canonical_mem
    | with_reducible apply stores_canonical_clear
    | with_reducible apply Device.reset_canonical
    | with_reducible apply stores_canonical_sram
    | with_reducible apply stores_canonical_empty
    | split

theorem Device.dieWindow_canonical {d : Device} (h : d.Canonical) (counts : List (BitVec 16)) (i : Fin 4) :
    Device.Canonical (Device.dieWindow d counts i) := by
  unfold Device.dieWindow
  repeat' first
    | with_reducible assumption
    | with_reducible apply Device.setDie_canonical
    | with_reducible apply Device.paceFault_canonical
    | with_reducible apply Device.countRaise_canonical
    | with_reducible apply Device.stepRail_canonical
    | with_reducible apply Device.countLower_canonical
    | dsimp only
    | with_reducible apply Device.stores_canonical
    | with_reducible apply stores_canonical_filter
    | with_reducible apply stores_canonical_mem
    | with_reducible apply stores_canonical_clear
    | with_reducible apply Device.reset_canonical
    | with_reducible apply stores_canonical_sram
    | with_reducible apply stores_canonical_empty
    | split

theorem Device.refuseChange_canonical {d : Device} (h : d.Canonical) (cause : Nat) (p : Nat) :
    Device.Canonical (Device.refuseChange d cause p) := by
  unfold Device.refuseChange
  repeat' first
    | with_reducible assumption
    | with_reducible apply Device.orReg_canonical
    | with_reducible apply Device.setReg_canonical

theorem Device.beginPending_canonical {d : Device} (h : d.Canonical) :
    Device.Canonical (Device.beginPending d) := by
  unfold Device.beginPending
  repeat' first
    | with_reducible assumption
    | with_reducible apply Device.refuseChange_canonical
    | with_reducible apply Device.beginTakeUp_canonical
    | simp only [Device.canonical_mk]
    | with_reducible apply Device.stores_canonical
    | with_reducible apply stores_canonical_filter
    | with_reducible apply stores_canonical_mem
    | with_reducible apply stores_canonical_clear
    | with_reducible apply Device.reset_canonical
    | with_reducible apply stores_canonical_sram
    | with_reducible apply stores_canonical_empty
    | split

theorem Device.askedWindow_canonical {d : Device} (h : d.Canonical) (counts : List (BitVec 16)) (p : BitVec 2) :
    Device.Canonical (Device.askedWindow d counts p) := by
  unfold Device.askedWindow
  repeat' first
    | with_reducible assumption
    | with_reducible apply Device.takeUpWindow_canonical
    | with_reducible apply Device.beginPending_canonical
    | with_reducible apply Device.switchCounts_canonical
    | dsimp only
    | with_reducible apply Device.stores_canonical
    | with_reducible apply stores_canonical_filter
    | with_reducible apply stores_canonical_mem
    | with_reducible apply stores_canonical_clear
    | with_reducible apply Device.reset_canonical
    | with_reducible apply stores_canonical_sram
    | with_reducible apply stores_canonical_empty
    | split
    | dsimp only
    | with_reducible apply foldl_canonical
    | intro _

theorem governorWindowEnd_canonical {d : Device} (h : d.Canonical) (counts : List (BitVec 16)) :
    Device.Canonical (governorWindowEnd d counts) := by
  unfold governorWindowEnd
  repeat' first
    | with_reducible assumption
    | with_reducible apply Device.noteRates_canonical
    | with_reducible apply Device.askedWindow_canonical
    | with_reducible apply Device.dieWindow_canonical
    | simp only [Device.canonical_mk]
    | with_reducible apply Device.stores_canonical
    | with_reducible apply stores_canonical_filter
    | with_reducible apply stores_canonical_mem
    | with_reducible apply stores_canonical_clear
    | with_reducible apply Device.reset_canonical
    | with_reducible apply stores_canonical_sram
    | with_reducible apply stores_canonical_empty
    | split
    | dsimp only
    | with_reducible apply foldl_canonical
    | intro _

theorem Device.stopUnits_canonical {d : Device} (h : d.Canonical) :
    Device.Canonical (Device.stopUnits d) := by
  unfold Device.stopUnits
  repeat' first
    | with_reducible assumption
    | with_reducible apply Device.setStest_canonical
    | with_reducible apply Device.setFld_canonical
    | with_reducible apply Device.setReg_canonical
    | with_reducible apply Device.startRamp_canonical
    | with_reducible apply Device.forcePoint_canonical
    | simp only [Device.canonical_mk]
    | with_reducible apply Device.stores_canonical
    | with_reducible apply stores_canonical_filter
    | with_reducible apply stores_canonical_mem
    | with_reducible apply stores_canonical_clear
    | with_reducible apply Device.reset_canonical
    | with_reducible apply stores_canonical_sram
    | with_reducible apply stores_canonical_empty
    | split
    | with_reducible apply foldl_canonical
    | intro _

theorem Device.stopProgress_canonical {d : Device} (h : d.Canonical) :
    Device.Canonical (Device.stopProgress d) := by
  unfold Device.stopProgress
  repeat' first
    | with_reducible assumption
    | with_reducible apply Device.stopUnits_canonical
    | with_reducible apply Device.enter_canonical
    | simp only [Device.canonical_mk]
    | with_reducible apply Device.stores_canonical
    | with_reducible apply stores_canonical_filter
    | with_reducible apply stores_canonical_mem
    | with_reducible apply stores_canonical_clear
    | with_reducible apply Device.reset_canonical
    | with_reducible apply stores_canonical_sram
    | with_reducible apply stores_canonical_empty
    | split

theorem railStep_canonical {d : Device} (h : d.Canonical) (i : Fin 4) :
    Device.Canonical (railStep d i) := by
  unfold railStep
  repeat' first
    | with_reducible assumption
    | with_reducible apply Device.stopProgress_canonical
    | with_reducible apply Device.setDie_canonical
    | with_reducible apply Device.stepRail_canonical
    | with_reducible apply Device.countRaise_canonical
    | dsimp only
    | with_reducible apply Device.stores_canonical
    | with_reducible apply stores_canonical_filter
    | with_reducible apply stores_canonical_mem
    | with_reducible apply stores_canonical_clear
    | with_reducible apply Device.reset_canonical
    | with_reducible apply stores_canonical_sram
    | with_reducible apply stores_canonical_empty
    | split

theorem cfgOppReq_canonical {d : Device} (h : d.Canonical) (v : Half) :
    Device.Canonical (cfgOppReq d v) := by
  unfold cfgOppReq
  repeat' first
    | with_reducible assumption
    | with_reducible apply Device.reply_canonical
    | with_reducible apply Device.refuseChange_canonical
    | with_reducible apply Device.setReg_canonical
    | with_reducible apply Device.beginTakeUp_canonical
    | simp only [Device.canonical_mk]
    | with_reducible apply Device.stores_canonical
    | with_reducible apply stores_canonical_filter
    | with_reducible apply stores_canonical_mem
    | with_reducible apply stores_canonical_clear
    | with_reducible apply Device.reset_canonical
    | with_reducible apply stores_canonical_sram
    | with_reducible apply stores_canonical_empty
    | split

theorem execGovernorWindowEnd_canonical (counts : List (BitVec 16)) {s₁ s₂ : State} (h : s₁.dev.Canonical)
    (e : execGovernorWindowEnd counts s₁ = .next s₂) : s₂.dev.Canonical := by
  unfold execGovernorWindowEnd at e
  refine actIf_canonical (fun d h => ?_) h e
  repeat' first
    | with_reducible assumption
    | with_reducible apply governorWindowEnd_canonical

theorem execRailStep_canonical (die : Fin 4) {s₁ s₂ : State} (h : s₁.dev.Canonical)
    (e : execRailStep die s₁ = .next s₂) : s₂.dev.Canonical := by
  unfold execRailStep at e
  refine actLive_canonical (fun d h => ?_) h e
  repeat' first
    | with_reducible assumption
    | with_reducible apply railStep_canonical

theorem execCfgOppReq_canonical (who : Who) (value : Half) {s₁ s₂ : State} (h : s₁.dev.Canonical)
    (e : execCfgOppReq who value s₁ = .next s₂) : s₂.dev.Canonical := by
  unfold execCfgOppReq at e
  refine actBy_canonical (fun d h => ?_) h e
  repeat' first
    | with_reducible assumption
    | with_reducible apply cfgOppReq_canonical

end Sys2Proof.Machine
end

