-- ==== Sys2Proof/Laws/CanonConfigure.lean ====
section
/-!
SUPPORT. The operations and meanings of Machine/Configure.lean keep the stores canonical.
-/

namespace Sys2Proof.Machine

theorem Device.result_canonical {d : Device} (h : d.Canonical) (n : BitVec 3) :
    Device.Canonical (Device.result d n) := by
  unfold Device.result
  repeat' first
    | with_reducible assumption
    | simp only [Device.canonical_mk]
    | with_reducible apply Device.stores_canonical

theorem Device.command_canonical {d : Device} (h : d.Canonical) (who : Who) (islandOnly : Bool) (states : List CfgState) (f : Device → Device) (h4 : ∀ d, d.Canonical → (f d).Canonical) :
    Device.Canonical (Device.command d who islandOnly states f) := by
  unfold Device.command
  repeat' first
    | with_reducible assumption
    | with_reducible apply h4
    | with_reducible apply Device.reply_canonical
    | with_reducible apply Device.result_canonical
    | dsimp only
    | with_reducible apply Device.stores_canonical
    | with_reducible apply stores_canonical_filter
    | with_reducible apply stores_canonical_mem
    | with_reducible apply stores_canonical_clear
    | with_reducible apply Device.reset_canonical
    | with_reducible apply stores_canonical_sram
    | with_reducible apply stores_canonical_empty
    | split

theorem cfgLoad_canonical {d : Device} (h : d.Canonical) (who : Who) :
    Device.Canonical (cfgLoad d who) := by
  unfold cfgLoad
  repeat' first
    | with_reducible assumption
    | with_reducible apply Device.command_canonical
    | with_reducible apply Device.enter_canonical
    | simp only [Device.canonical_mk]
    | with_reducible apply Device.stores_canonical
    | with_reducible apply stores_canonical_filter
    | with_reducible apply stores_canonical_mem
    | with_reducible apply stores_canonical_clear
    | with_reducible apply Device.reset_canonical
    | with_reducible apply stores_canonical_sram
    | with_reducible apply stores_canonical_empty
    | split
    | with_reducible apply foldl_canonical
    | intro _

theorem cfgSeal_canonical {d : Device} (h : d.Canonical) (who : Who) :
    Device.Canonical (cfgSeal d who) := by
  unfold cfgSeal
  repeat' first
    | with_reducible assumption
    | with_reducible apply Device.command_canonical
    | simp only [Device.canonical_mk]
    | with_reducible apply Device.stores_canonical

theorem Device.refuseSeal_canonical {d : Device} (h : d.Canonical) (reason : Nat) (index : Nat) :
    Device.Canonical (Device.refuseSeal d reason index) := by
  unfold Device.refuseSeal
  repeat' first
    | with_reducible assumption
    | with_reducible apply Device.setReg_canonical
    | with_reducible apply Device.enter_canonical
    | with_reducible apply Device.orReg_canonical
    | simp only [Device.canonical_mk]
    | with_reducible apply Device.stores_canonical

theorem Device.sealEnd_canonical {d : Device} (h : d.Canonical) (digest : List Byte) :
    Device.Canonical (Device.sealEnd d digest) := by
  unfold Device.sealEnd
  repeat' first
    | with_reducible assumption
    | with_reducible apply Device.refuseSeal_canonical
    | with_reducible apply Device.enter_canonical
    | with_reducible apply Device.putBytes_canonical
    | simp only [Device.canonical_mk]
    | with_reducible apply Device.stores_canonical
    | with_reducible apply stores_canonical_filter
    | with_reducible apply stores_canonical_mem
    | with_reducible apply stores_canonical_clear
    | with_reducible apply Device.reset_canonical
    | with_reducible apply stores_canonical_sram
    | with_reducible apply stores_canonical_empty
    | split

theorem sealComplete_canonical {d : Device} (h : d.Canonical) :
    Device.Canonical (sealComplete d) := by
  unfold sealComplete
  repeat' first
    | with_reducible assumption
    | with_reducible apply Device.sealEnd_canonical
    | simp only [Device.canonical_mk]
    | with_reducible apply Device.stores_canonical
    | with_reducible apply stores_canonical_filter
    | with_reducible apply stores_canonical_mem
    | with_reducible apply stores_canonical_clear
    | with_reducible apply Device.reset_canonical
    | with_reducible apply stores_canonical_sram
    | with_reducible apply stores_canonical_empty
    | split

theorem cfgRun_canonical {d : Device} (h : d.Canonical) (who : Who) :
    Device.Canonical (cfgRun d who) := by
  unfold cfgRun
  repeat' first
    | with_reducible assumption
    | with_reducible apply Device.command_canonical
    | with_reducible apply Device.beginTakeUp_canonical
    | simp only [Device.canonical_mk]
    | with_reducible apply Device.stores_canonical
    | with_reducible apply stores_canonical_filter
    | with_reducible apply stores_canonical_mem
    | with_reducible apply stores_canonical_clear
    | with_reducible apply Device.reset_canonical
    | with_reducible apply stores_canonical_sram
    | with_reducible apply stores_canonical_empty
    | split
    | with_reducible apply foldl_canonical
    | intro _

theorem Device.closeAll_canonical {d : Device} (h : d.Canonical) :
    Device.Canonical (Device.closeAll d) := by
  unfold Device.closeAll
  repeat' first
    | with_reducible assumption
    | with_reducible apply Device.beginClose_canonical
    | simp only [Device.canonical_mk]
    | with_reducible apply Device.stores_canonical
    | with_reducible apply stores_canonical_filter
    | with_reducible apply stores_canonical_mem
    | with_reducible apply stores_canonical_clear
    | with_reducible apply Device.reset_canonical
    | with_reducible apply stores_canonical_sram
    | with_reducible apply stores_canonical_empty
    | split
    | with_reducible apply foldl_canonical
    | intro _

theorem cfgStop_canonical {d : Device} (h : d.Canonical) (who : Who) :
    Device.Canonical (cfgStop d who) := by
  unfold cfgStop
  repeat' first
    | with_reducible assumption
    | with_reducible apply Device.command_canonical
    | with_reducible apply Device.stopProgress_canonical
    | with_reducible apply Device.closeAll_canonical
    | with_reducible apply Device.enter_canonical
    | simp only [Device.canonical_mk]
    | with_reducible apply Device.stores_canonical
    | with_reducible apply stores_canonical_filter
    | with_reducible apply stores_canonical_mem
    | with_reducible apply stores_canonical_clear
    | with_reducible apply Device.reset_canonical
    | with_reducible apply stores_canonical_sram
    | with_reducible apply stores_canonical_empty
    | split
    | with_reducible apply foldl_canonical
    | intro _

theorem cfgSleep_canonical {d : Device} (h : d.Canonical) (who : Who) :
    Device.Canonical (cfgSleep d who) := by
  unfold cfgSleep
  repeat' first
    | with_reducible assumption
    | with_reducible apply Device.command_canonical
    | with_reducible apply Device.result_canonical
    | simp only [Device.canonical_mk]
    | with_reducible apply Device.stores_canonical
    | with_reducible apply stores_canonical_filter
    | with_reducible apply stores_canonical_mem
    | with_reducible apply stores_canonical_clear
    | with_reducible apply Device.reset_canonical
    | with_reducible apply stores_canonical_sram
    | with_reducible apply stores_canonical_empty
    | split
    | with_reducible apply foldl_canonical
    | intro _

theorem cfgReset_canonical {d : Device} (h : d.Canonical) (who : Who) :
    Device.Canonical (cfgReset d who) := by
  unfold cfgReset
  repeat' first
    | with_reducible assumption
    | with_reducible apply Device.command_canonical
    | with_reducible apply Device.reply_canonical
    | with_reducible apply Device.hold_canonical
    | simp only [Device.canonical_mk]
    | with_reducible apply Device.stores_canonical
    | with_reducible apply stores_canonical_filter
    | with_reducible apply stores_canonical_mem
    | with_reducible apply stores_canonical_clear
    | with_reducible apply Device.reset_canonical
    | with_reducible apply stores_canonical_sram
    | with_reducible apply stores_canonical_empty
    | split
    | with_reducible apply foldl_canonical
    | intro _

theorem cfgCmd_canonical {d : Device} (h : d.Canonical) (who : Who) (v : Half) :
    Device.Canonical (cfgCmd d who v) := by
  unfold cfgCmd
  repeat' first
    | with_reducible assumption
    | with_reducible apply cfgLoad_canonical
    | with_reducible apply cfgSeal_canonical
    | with_reducible apply cfgRun_canonical
    | with_reducible apply cfgStop_canonical
    | with_reducible apply cfgSleep_canonical
    | with_reducible apply cfgReset_canonical
    | with_reducible apply Device.result_canonical
    | with_reducible apply Device.reply_canonical
    | simp only [Device.canonical_mk]
    | with_reducible apply Device.stores_canonical
    | with_reducible apply stores_canonical_filter
    | with_reducible apply stores_canonical_mem
    | with_reducible apply stores_canonical_clear
    | with_reducible apply Device.reset_canonical
    | with_reducible apply stores_canonical_sram
    | with_reducible apply stores_canonical_empty
    | split

theorem cfgCtlOutSet_canonical {d : Device} (h : d.Canonical) (v : Half) :
    Device.Canonical (cfgCtlOutSet d v) := by
  unfold cfgCtlOutSet
  repeat' first
    | with_reducible assumption
    | with_reducible apply Device.reply_canonical
    | with_reducible apply Device.orReg_canonical
    | dsimp only
    | with_reducible apply Device.stores_canonical
    | with_reducible apply stores_canonical_filter
    | with_reducible apply stores_canonical_mem
    | with_reducible apply stores_canonical_clear
    | with_reducible apply Device.reset_canonical
    | with_reducible apply stores_canonical_sram
    | with_reducible apply stores_canonical_empty
    | split

theorem cfgCtlOutClr_canonical {d : Device} (h : d.Canonical) (v : Half) :
    Device.Canonical (cfgCtlOutClr d v) := by
  unfold cfgCtlOutClr
  repeat' first
    | with_reducible assumption
    | with_reducible apply Device.reply_canonical
    | with_reducible apply Device.clrReg_canonical
    | dsimp only
    | with_reducible apply Device.stores_canonical
    | with_reducible apply stores_canonical_filter
    | with_reducible apply stores_canonical_mem
    | with_reducible apply stores_canonical_clear
    | with_reducible apply Device.reset_canonical
    | with_reducible apply stores_canonical_sram
    | with_reducible apply stores_canonical_empty
    | split

theorem execCfgLoad_canonical (who : Who) {s₁ s₂ : State} (h : s₁.dev.Canonical)
    (e : execCfgLoad who s₁ = .next s₂) : s₂.dev.Canonical := by
  unfold execCfgLoad at e
  refine actBy_canonical (fun d h => ?_) h e
  repeat' first
    | with_reducible assumption
    | with_reducible apply cfgLoad_canonical

theorem execSeal_canonical (who : Who) {s₁ s₂ : State} (h : s₁.dev.Canonical)
    (e : execSeal who s₁ = .next s₂) : s₂.dev.Canonical := by
  unfold execSeal at e
  refine actBy_canonical (fun d h => ?_) h e
  repeat' first
    | with_reducible assumption
    | with_reducible apply cfgSeal_canonical

theorem execSealComplete_canonical {s₁ s₂ : State} (h : s₁.dev.Canonical)
    (e : execSealComplete  s₁ = .next s₂) : s₂.dev.Canonical := by
  unfold execSealComplete at e
  refine actLive_canonical (fun d h => ?_) h e
  repeat' first
    | with_reducible assumption
    | with_reducible apply sealComplete_canonical

theorem execCfgRun_canonical (who : Who) {s₁ s₂ : State} (h : s₁.dev.Canonical)
    (e : execCfgRun who s₁ = .next s₂) : s₂.dev.Canonical := by
  unfold execCfgRun at e
  refine actBy_canonical (fun d h => ?_) h e
  repeat' first
    | with_reducible assumption
    | with_reducible apply cfgRun_canonical

theorem execCfgStop_canonical (who : Who) {s₁ s₂ : State} (h : s₁.dev.Canonical)
    (e : execCfgStop who s₁ = .next s₂) : s₂.dev.Canonical := by
  unfold execCfgStop at e
  refine actBy_canonical (fun d h => ?_) h e
  repeat' first
    | with_reducible assumption
    | with_reducible apply cfgStop_canonical

theorem execSleep_canonical (who : Who) {s₁ s₂ : State} (h : s₁.dev.Canonical)
    (e : execSleep who s₁ = .next s₂) : s₂.dev.Canonical := by
  unfold execSleep at e
  refine actBy_canonical (fun d h => ?_) h e
  repeat' first
    | with_reducible assumption
    | with_reducible apply cfgSleep_canonical

theorem execReset_canonical (who : Who) {s₁ s₂ : State} (h : s₁.dev.Canonical)
    (e : execReset who s₁ = .next s₂) : s₂.dev.Canonical := by
  unfold execReset at e
  refine actBy_canonical (fun d h => ?_) h e
  repeat' first
    | with_reducible assumption
    | with_reducible apply cfgReset_canonical

theorem execCfgCtlOutSet_canonical (who : Who) (value : Half) {s₁ s₂ : State} (h : s₁.dev.Canonical)
    (e : execCfgCtlOutSet who value s₁ = .next s₂) : s₂.dev.Canonical := by
  unfold execCfgCtlOutSet at e
  refine actBy_canonical (fun d h => ?_) h e
  repeat' first
    | with_reducible assumption
    | with_reducible apply cfgCtlOutSet_canonical

theorem execCfgCtlOutClr_canonical (who : Who) (value : Half) {s₁ s₂ : State} (h : s₁.dev.Canonical)
    (e : execCfgCtlOutClr who value s₁ = .next s₂) : s₂.dev.Canonical := by
  unfold execCfgCtlOutClr at e
  refine actBy_canonical (fun d h => ?_) h e
  repeat' first
    | with_reducible assumption
    | with_reducible apply cfgCtlOutClr_canonical

theorem execTeardownScrubDone_canonical (ctx : Fin 256) {s₁ s₂ : State} (h : s₁.dev.Canonical)
    (e : execTeardownScrubDone ctx s₁ = .next s₂) : s₂.dev.Canonical := by
  unfold execTeardownScrubDone at e
  refine actLive_canonical (fun d h => ?_) h e
  repeat' first
    | with_reducible assumption
    | with_reducible apply Device.stopProgress_canonical
    | with_reducible apply teardownScrubDone_canonical

end Sys2Proof.Machine
end

