-- ==== Sys2Proof/Laws/CanonCsi.lean ====
section
/-!
SUPPORT. The operations and meanings of Machine/Csi.lean keep the stores canonical.
-/

namespace Sys2Proof.Machine

theorem Device.csiDrop_canonical {d : Device} (h : d.Canonical) (s : Nat) :
    Device.Canonical (Device.csiDrop d s) := by
  unfold Device.csiDrop
  repeat' first
    | with_reducible assumption
    | with_reducible apply Device.setStream_canonical
    | with_reducible apply Device.orReg_canonical
    | with_reducible apply Device.addCount_canonical
    | with_reducible apply Device.raise_canonical

theorem Device.csiPut_canonical {d : Device} (h : d.Canonical) (s : Nat) (off : Nat) (bs : List Byte) (go : Device → Device) (h4 : ∀ x0, x0.Canonical → Device.Canonical (go x0)) :
    Device.Canonical (Device.csiPut d s off bs go) := by
  unfold Device.csiPut
  repeat' first
    | with_reducible assumption
    | with_reducible apply h4
    | with_reducible apply Device.csiDrop_canonical
    | with_reducible apply Device.orReg_canonical
    | with_reducible apply Device.noteVeto_canonical
    | with_reducible apply Device.via_canonical
    | with_reducible apply Device.logWrite_canonical
    | with_reducible apply Device.emitWrites_canonical
    | with_reducible apply Device.wr_canonical
    | dsimp only
    | with_reducible apply Device.stores_canonical
    | with_reducible apply stores_canonical_filter
    | with_reducible apply stores_canonical_mem
    | with_reducible apply stores_canonical_clear
    | with_reducible apply Device.reset_canonical
    | with_reducible apply stores_canonical_sram
    | with_reducible apply stores_canonical_empty
    | split
    | dsimp only
    | with_reducible apply foldl_canonical
    | intro _

theorem Device.csiMissing_canonical {d : Device} (h : d.Canonical) (s : Nat) :
    Device.Canonical (Device.csiMissing d s) := by
  unfold Device.csiMissing
  repeat' first
    | with_reducible assumption
    | with_reducible apply Device.csiDrop_canonical
    | simp only [Device.canonical_mk]
    | with_reducible apply Device.stores_canonical
    | with_reducible apply stores_canonical_filter
    | with_reducible apply stores_canonical_mem
    | with_reducible apply stores_canonical_clear
    | with_reducible apply Device.reset_canonical
    | with_reducible apply stores_canonical_sram
    | with_reducible apply stores_canonical_empty
    | split

theorem frameStart_canonical {d : Device} (h : d.Canonical) (s : Nat) :
    Device.Canonical (frameStart d s) := by
  unfold frameStart
  repeat' first
    | with_reducible assumption
    | with_reducible apply Device.raise_canonical
    | with_reducible apply Device.csiMissing_canonical
    | with_reducible apply Device.csiDrop_canonical
    | with_reducible apply Device.setStream_canonical
    | dsimp only
    | with_reducible apply Device.stores_canonical
    | with_reducible apply stores_canonical_filter
    | with_reducible apply stores_canonical_mem
    | with_reducible apply stores_canonical_clear
    | with_reducible apply Device.reset_canonical
    | with_reducible apply stores_canonical_sram
    | with_reducible apply stores_canonical_empty
    | split

theorem Device.packetError_canonical {d : Device} (h : d.Canonical) (p : Nat) (lo : Nat) :
    Device.Canonical (Device.packetError d p lo) := by
  unfold Device.packetError
  repeat' first
    | with_reducible assumption
    | with_reducible apply Device.orReg_canonical
    | with_reducible apply Device.addCount_canonical

theorem csiLongPacket_canonical {d : Device} (h : d.Canonical) (s : Nat) (k : CsiPacket) :
    Device.Canonical (csiLongPacket d s k) := by
  unfold csiLongPacket
  repeat' first
    | with_reducible assumption
    | with_reducible apply Device.csiMissing_canonical
    | with_reducible apply Device.packetError_canonical
    | with_reducible apply Device.orReg_canonical
    | with_reducible apply Device.csiDrop_canonical
    | with_reducible apply Device.csiPut_canonical
    | with_reducible apply Device.setStream_canonical
    | dsimp only
    | with_reducible apply Device.stores_canonical
    | with_reducible apply stores_canonical_filter
    | with_reducible apply stores_canonical_mem
    | with_reducible apply stores_canonical_clear
    | with_reducible apply Device.reset_canonical
    | with_reducible apply stores_canonical_sram
    | with_reducible apply stores_canonical_empty
    | split
    | with_reducible apply foldl_canonical
    | intro _

theorem Device.ingressFailed_canonical {d : Device} (h : d.Canonical) (s : Nat) (cause : Nat) :
    Device.Canonical (Device.ingressFailed d s cause) := by
  unfold Device.ingressFailed
  repeat' first
    | with_reducible assumption
    | with_reducible apply Device.raise_canonical
    | with_reducible apply Device.latch_canonical
    | with_reducible apply Device.orReg_canonical

theorem Device.handOver_canonical {d : Device} (h : d.Canonical) (s : Nat) (f : CsiFrame) (fails : Bool) :
    Device.Canonical (Device.handOver d s f fails) := by
  unfold Device.handOver
  repeat' first
    | with_reducible assumption
    | with_reducible apply Device.csiPut_canonical
    | with_reducible apply Device.setStream_canonical
    | dsimp only
    | with_reducible apply Device.stores_canonical
    | with_reducible apply stores_canonical_filter
    | with_reducible apply stores_canonical_mem
    | with_reducible apply stores_canonical_clear
    | with_reducible apply Device.reset_canonical
    | with_reducible apply stores_canonical_sram
    | with_reducible apply stores_canonical_empty
    | split
    | with_reducible apply foldl_canonical
    | intro _

theorem Device.takeReference_canonical {d : Device} (h : d.Canonical) (s : Nat) (f : CsiFrame) :
    Device.Canonical (Device.takeReference d s f) := by
  unfold Device.takeReference
  repeat' first
    | with_reducible assumption
    | with_reducible apply Device.setStream_canonical
    | dsimp only
    | with_reducible apply Device.stores_canonical
    | with_reducible apply stores_canonical_filter
    | with_reducible apply stores_canonical_mem
    | with_reducible apply stores_canonical_clear
    | with_reducible apply Device.reset_canonical
    | with_reducible apply stores_canonical_sram
    | with_reducible apply stores_canonical_empty
    | split

theorem frameEnd_canonical {d : Device} (h : d.Canonical) (s : Nat) :
    Device.Canonical (frameEnd d s) := by
  unfold frameEnd
  repeat' first
    | with_reducible assumption
    | with_reducible apply Device.raise_canonical
    | with_reducible apply Device.csiDrop_canonical
    | with_reducible apply Device.handOver_canonical
    | with_reducible apply Device.takeReference_canonical
    | with_reducible apply Device.ingressFailed_canonical
    | dsimp only
    | with_reducible apply Device.stores_canonical
    | with_reducible apply stores_canonical_filter
    | with_reducible apply stores_canonical_mem
    | with_reducible apply stores_canonical_clear
    | with_reducible apply Device.reset_canonical
    | with_reducible apply stores_canonical_sram
    | with_reducible apply stores_canonical_empty
    | split

theorem csiSrelWrite_canonical {d : Device} (h : d.Canonical) (s : Nat) (v : Half) :
    Device.Canonical (csiSrelWrite d s v) := by
  unfold csiSrelWrite
  repeat' first
    | with_reducible assumption
    | with_reducible apply Device.reply_canonical
    | with_reducible apply Device.setStream_canonical
    | with_reducible apply Device.orReg_canonical
    | dsimp only
    | with_reducible apply Device.stores_canonical
    | with_reducible apply stores_canonical_filter
    | with_reducible apply stores_canonical_mem
    | with_reducible apply stores_canonical_clear
    | with_reducible apply Device.reset_canonical
    | with_reducible apply stores_canonical_sram
    | with_reducible apply stores_canonical_empty
    | split

theorem execFrameStart_canonical (port : Fin 4) (vc : Fin 16) {s₁ s₂ : State} (h : s₁.dev.Canonical)
    (e : execFrameStart port vc s₁ = .next s₂) : s₂.dev.Canonical := by
  unfold execFrameStart at e
  refine actLive_canonical (fun d h => ?_) h e
  repeat' first
    | with_reducible assumption
    | with_reducible apply frameStart_canonical

theorem execCsiLongPacket_canonical (port : Fin 4) (vc : Fin 16) (packet : CsiPacket) {s₁ s₂ : State} (h : s₁.dev.Canonical)
    (e : execCsiLongPacket port vc packet s₁ = .next s₂) : s₂.dev.Canonical := by
  unfold execCsiLongPacket at e
  refine actLive_canonical (fun d h => ?_) h e
  repeat' first
    | with_reducible assumption
    | with_reducible apply csiLongPacket_canonical

theorem execFrameEnd_canonical (port : Fin 4) (vc : Fin 16) {s₁ s₂ : State} (h : s₁.dev.Canonical)
    (e : execFrameEnd port vc s₁ = .next s₂) : s₂.dev.Canonical := by
  unfold execFrameEnd at e
  refine actLive_canonical (fun d h => ?_) h e
  repeat' first
    | with_reducible assumption
    | with_reducible apply frameEnd_canonical

theorem execCsiSrelWrite_canonical (who : Who) (stream : Fin 64) (value : Half) {s₁ s₂ : State} (h : s₁.dev.Canonical)
    (e : execCsiSrelWrite who stream value s₁ = .next s₂) : s₂.dev.Canonical := by
  unfold execCsiSrelWrite at e
  refine actBy_canonical (fun d h => ?_) h e
  repeat' first
    | with_reducible assumption
    | with_reducible apply csiSrelWrite_canonical

end Sys2Proof.Machine
end

