-- ==== Sys2Proof/Laws/CanonDescriptors.lean ====
section
/-!
SUPPORT. The operations and meanings of Machine/Descriptors.lean keep the stores canonical.
-/

namespace Sys2Proof.Machine

theorem Device.noteLink_canonical {d : Device} (h : d.Canonical) (a : Nat) (v : Byte × Byte) :
    Device.Canonical (Device.noteLink d a v) := by
  unfold Device.noteLink
  repeat' first
    | with_reducible assumption
    | with_reducible apply Device.linkFailed_canonical
    | simp only [Device.canonical_mk]
    | with_reducible apply Device.stores_canonical
    | with_reducible apply stores_canonical_filter
    | with_reducible apply stores_canonical_mem
    | with_reducible apply stores_canonical_clear
    | with_reducible apply Device.reset_canonical
    | with_reducible apply stores_canonical_sram
    | with_reducible apply stores_canonical_empty
    | split

theorem Device.vetoed_canonical {d : Device} (h : d.Canonical) (k : RingRef) (a : Nat) (v : Byte × Byte) :
    Device.Canonical (Device.vetoed d k a v) := by
  unfold Device.vetoed
  repeat' first
    | with_reducible assumption
    | with_reducible apply Device.finish_canonical
    | with_reducible apply Device.noteLink_canonical

theorem Device.descEcc_canonical {d : Device} (h : d.Canonical) (k : RingRef) (a : Nat) (ecc : Ecc) (f : Device → Device) (h4 : ∀ x0, x0.Canonical → Device.Canonical (f x0)) :
    Device.Canonical (Device.descEcc d k a ecc f) := by
  unfold Device.descEcc
  repeat' first
    | with_reducible assumption
    | with_reducible apply h4
    | with_reducible apply Device.memEcc_canonical
    | with_reducible apply Device.finish_canonical
    | dsimp only
    | with_reducible apply Device.stores_canonical
    | with_reducible apply stores_canonical_filter
    | with_reducible apply stores_canonical_mem
    | with_reducible apply stores_canonical_clear
    | with_reducible apply Device.reset_canonical
    | with_reducible apply stores_canonical_sram
    | with_reducible apply stores_canonical_empty
    | split

theorem Device.admissionTurn_canonical {d : Device} (h : d.Canonical) {k : RingRef} {r : Device} (e : d.admissionTurn k = some r) :
    r.Canonical := by
  unfold Device.admissionTurn at e
  repeat' split at e
  all_goals first
    | (injection e with e; subst e; exact h)
    | contradiction

theorem Device.reportWrite_canonical {d : Device} (h : d.Canonical) (k : RingRef) (a : Nat) (bs : List Byte) :
    Device.Canonical (Device.reportWrite d k a bs) := by
  unfold Device.reportWrite
  repeat' first
    | with_reducible assumption
    | with_reducible apply Device.ringLog_canonical
    | with_reducible apply Device.emitWrites_canonical
    | with_reducible apply Device.wr_canonical
    | with_reducible apply Device.charge_canonical
    | dsimp only
    | with_reducible apply Device.stores_canonical
    | with_reducible apply stores_canonical_filter
    | with_reducible apply stores_canonical_mem
    | with_reducible apply stores_canonical_clear
    | with_reducible apply Device.reset_canonical
    | with_reducible apply stores_canonical_sram
    | with_reducible apply stores_canonical_empty
    | split

theorem Device.refuseLoad_canonical {d : Device} (h : d.Canonical) (k : RingRef) (report : Nat) (img : List Byte) (reason : Byte) :
    Device.Canonical (Device.refuseLoad d k report img reason) := by
  unfold Device.refuseLoad
  repeat' first
    | with_reducible assumption
    | with_reducible apply Device.refuse_canonical
    | with_reducible apply Device.reportWrite_canonical

theorem loadImage_canonical {d : Device} (h : d.Canonical) (k : RingRef) (x : QDesc) (img : List Byte) :
    Device.Canonical (loadImage d k x img) := by
  unfold loadImage
  repeat' first
    | with_reducible assumption
    | with_reducible apply Device.refuseLoad_canonical
    | with_reducible apply Device.finish_canonical
    | with_reducible apply Device.setRing_canonical
    | dsimp only
    | with_reducible apply Device.stores_canonical
    | with_reducible apply stores_canonical_filter
    | with_reducible apply stores_canonical_mem
    | with_reducible apply stores_canonical_clear
    | with_reducible apply Device.reset_canonical
    | with_reducible apply stores_canonical_sram
    | with_reducible apply stores_canonical_empty
    | split

theorem Device.readOver_canonical {d : Device} (h : d.Canonical) (k : RingRef) (pc : Pc) (a : Nat) (n : Nat) (got : List Byte) :
    Device.Canonical (Device.readOver d k pc a n got) := by
  unfold Device.readOver
  repeat' first
    | with_reducible assumption
    | with_reducible apply Device.setRing_canonical
    | with_reducible apply Device.emitReads_canonical

theorem loadHead_canonical {d : Device} (h : d.Canonical) (k : RingRef) (x : QDesc) (head : List Byte) (ecc : Ecc) :
    Device.Canonical (loadHead d k x head ecc) := by
  unfold loadHead
  repeat' first
    | with_reducible assumption
    | with_reducible apply Device.vetoed_canonical
    | with_reducible apply loadImage_canonical
    | with_reducible apply Device.readOver_canonical
    | with_reducible apply Device.descEcc_canonical
    | with_reducible apply Device.charge_canonical
    | dsimp only
    | with_reducible apply Device.stores_canonical
    | with_reducible apply stores_canonical_filter
    | with_reducible apply stores_canonical_mem
    | with_reducible apply stores_canonical_clear
    | with_reducible apply Device.reset_canonical
    | with_reducible apply stores_canonical_sram
    | with_reducible apply stores_canonical_empty
    | split
    | dsimp only
    | with_reducible apply foldl_canonical
    | intro _

theorem loadTaken_canonical {d : Device} (h : d.Canonical) (k : RingRef) (x : QDesc) (ecc : Ecc) :
    (loadTaken d k x ecc).Canonical := by
  unfold loadTaken
  split
  · exact h
  split
  · exact h
  · rename_i e
    have hd := Device.admissionTurn_canonical h e
    dsimp only
    repeat' split
    all_goals first
      | with_reducible exact Device.vetoed_canonical hd _ _ _
      | with_reducible exact Device.readOver_canonical hd _ _ _ _ _
      | with_reducible exact loadHead_canonical hd _ _ _ _
      | exact Device.descEcc_canonical hd _ _ _ id fun _ h => h

theorem imageArrived_canonical {d : Device} (h : d.Canonical) (k : RingRef) :
    Device.Canonical (imageArrived d k) := by
  unfold imageArrived
  repeat' first
    | with_reducible assumption
    | with_reducible apply Device.setRing_canonical
    | with_reducible apply loadHead_canonical
    | with_reducible apply loadImage_canonical
    | dsimp only
    | with_reducible apply Device.stores_canonical
    | with_reducible apply stores_canonical_filter
    | with_reducible apply stores_canonical_mem
    | with_reducible apply stores_canonical_clear
    | with_reducible apply Device.reset_canonical
    | with_reducible apply stores_canonical_sram
    | with_reducible apply stores_canonical_empty
    | split

theorem Device.copyIn_canonical {d : Device} (h : d.Canonical) (c : Nat) (t : Nat) (w : Nat × List Byte) :
    Device.Canonical (Device.copyIn d c t w) := by
  unfold Device.copyIn
  repeat' first
    | with_reducible assumption
    | with_reducible apply Device.logWrite_canonical
    | with_reducible apply Device.emitWrites_canonical
    | with_reducible apply Device.wr_canonical
    | with_reducible apply Device.serve_canonical
    | with_reducible apply Device.linesIssue_canonical
    | dsimp only
    | with_reducible apply Device.stores_canonical
    | with_reducible apply stores_canonical_filter
    | with_reducible apply stores_canonical_mem
    | with_reducible apply stores_canonical_clear
    | with_reducible apply Device.reset_canonical
    | with_reducible apply stores_canonical_sram
    | with_reducible apply stores_canonical_empty
    | split

theorem admissionComplete_canonical {d : Device} (h : d.Canonical) (k : RingRef) :
    Device.Canonical (admissionComplete d k) := by
  unfold admissionComplete
  repeat' first
    | with_reducible assumption
    | with_reducible apply Device.vetoed_canonical
    | with_reducible apply Device.setCtx_canonical
    | with_reducible apply Device.copyIn_canonical
    | with_reducible apply Device.reportWrite_canonical
    | with_reducible apply Device.finish_canonical
    | dsimp only
    | with_reducible apply Device.stores_canonical
    | with_reducible apply stores_canonical_filter
    | with_reducible apply stores_canonical_mem
    | with_reducible apply stores_canonical_clear
    | with_reducible apply Device.reset_canonical
    | with_reducible apply stores_canonical_sram
    | with_reducible apply stores_canonical_empty
    | split
    | dsimp only
    | with_reducible apply foldl_canonical
    | intro _

theorem unloadTaken_canonical {d : Device} (h : d.Canonical) (k : RingRef) (x : QDesc) :
    Device.Canonical (unloadTaken d k x) := by
  unfold unloadTaken
  repeat' first
    | with_reducible assumption
    | with_reducible apply Device.refuse_canonical
    | with_reducible apply Device.finish_canonical
    | with_reducible apply Device.release_canonical
    | dsimp only
    | with_reducible apply Device.stores_canonical
    | with_reducible apply stores_canonical_filter
    | with_reducible apply stores_canonical_mem
    | with_reducible apply stores_canonical_clear
    | with_reducible apply Device.reset_canonical
    | with_reducible apply stores_canonical_sram
    | with_reducible apply stores_canonical_empty
    | split

theorem Device.writeActive_canonical {d : Device} (h : d.Canonical) (k : RingRef) (a : Nat) (slots : List Nat) :
    Device.Canonical (Device.writeActive d k a slots) := by
  unfold Device.writeActive
  repeat' first
    | with_reducible assumption
    | with_reducible apply Device.ringWrite_canonical

theorem Device.onTable_canonical {d : Device} (h : d.Canonical) (k : RingRef) (ecc : Ecc) (f : Device → Nat → Nat → Device) (h3 : ∀ x0 x1 x2, x0.Canonical → Device.Canonical (f x0 x1 x2)) :
    Device.Canonical (Device.onTable d k ecc f) := by
  unfold Device.onTable
  repeat' first
    | with_reducible assumption
    | with_reducible apply h3
    | with_reducible apply Device.finish_canonical
    | with_reducible apply Device.descEcc_canonical
    | with_reducible apply Device.charge_canonical
    | with_reducible apply Device.refuse_canonical
    | simp only [Device.canonical_mk]
    | with_reducible apply Device.stores_canonical
    | with_reducible apply stores_canonical_filter
    | with_reducible apply stores_canonical_mem
    | with_reducible apply stores_canonical_clear
    | with_reducible apply Device.reset_canonical
    | with_reducible apply stores_canonical_sram
    | with_reducible apply stores_canonical_empty
    | split
    | dsimp only
    | with_reducible apply foldl_canonical
    | intro _

theorem joinTaken_canonical {d : Device} (h : d.Canonical) (k : RingRef) (x : QDesc) (ecc : Ecc) :
    Device.Canonical (joinTaken d k x ecc) := by
  unfold joinTaken
  repeat' first
    | with_reducible assumption
    | with_reducible apply Device.onTable_canonical
    | with_reducible apply Device.refuse_canonical
    | with_reducible apply Device.ringWrite_canonical
    | with_reducible apply Device.finish_canonical
    | with_reducible apply Device.writeActive_canonical
    | dsimp only
    | with_reducible apply Device.stores_canonical
    | with_reducible apply stores_canonical_filter
    | with_reducible apply stores_canonical_mem
    | with_reducible apply stores_canonical_clear
    | with_reducible apply Device.reset_canonical
    | with_reducible apply stores_canonical_sram
    | with_reducible apply stores_canonical_empty
    | split
    | dsimp only
    | with_reducible apply foldl_canonical
    | intro _

theorem leaveTaken_canonical {d : Device} (h : d.Canonical) (k : RingRef) (x : QDesc) (ecc : Ecc) :
    Device.Canonical (leaveTaken d k x ecc) := by
  unfold leaveTaken
  repeat' first
    | with_reducible assumption
    | with_reducible apply Device.onTable_canonical
    | with_reducible apply Device.refuse_canonical
    | with_reducible apply Device.ringWrite_canonical
    | with_reducible apply Device.finish_canonical
    | with_reducible apply Device.writeActive_canonical
    | dsimp only
    | with_reducible apply Device.stores_canonical
    | with_reducible apply stores_canonical_filter
    | with_reducible apply stores_canonical_mem
    | with_reducible apply stores_canonical_clear
    | with_reducible apply Device.reset_canonical
    | with_reducible apply stores_canonical_sram
    | with_reducible apply stores_canonical_empty
    | split
    | dsimp only
    | with_reducible apply foldl_canonical
    | intro _

theorem copyTaken_canonical {d : Device} (h : d.Canonical) (k : RingRef) (x : QDesc) :
    Device.Canonical (copyTaken d k x) := by
  unfold copyTaken
  repeat' first
    | with_reducible assumption
    | with_reducible apply Device.finish_canonical
    | with_reducible apply Device.vetoed_canonical
    | with_reducible apply Device.setRing_canonical
    | with_reducible apply Device.emitReads_canonical
    | dsimp only
    | with_reducible apply Device.stores_canonical
    | with_reducible apply stores_canonical_filter
    | with_reducible apply stores_canonical_mem
    | with_reducible apply stores_canonical_clear
    | with_reducible apply Device.reset_canonical
    | with_reducible apply stores_canonical_sram
    | with_reducible apply stores_canonical_empty
    | split

theorem copyLines_canonical {d : Device} (h : d.Canonical) (k : RingRef) (j : CopyJob) (bad : Option Nat) (n m : Nat) (got : List Byte) :
    (copyLines k j bad n d m got).1.Canonical := by
  induction n generalizing d m got with
  | zero => exact h
  | succ n ih =>
    rw [copyLines]
    generalize d.eccDetail (j.src + m) = t
    dsimp only
    split
    · exact h
    split
    · exact Device.noteLink_canonical h _ _
    split
    · exact h
    split
    · exact h
    rename_i e
    have hl := Device.lineIssue_canonical h e
    split
    · exact h
    split
    · exact Device.memUe_canonical hl _
    apply ih
    split
    · exact Device.chunkEnd_canonical (Device.ringWrite_canonical (Device.serve_canonical hl _ _ _) _ _ _) _
    · exact Device.ringWrite_canonical (Device.serve_canonical hl _ _ _) _ _ _

theorem copyReads_canonical {x4 : Device} (h : x4.Canonical) (k : RingRef) (j : CopyJob) (pc : Pc) (x3 : Nat) (x5 : Nat) :
    (copyReads k j pc x3 x4 x5).1.Canonical := by
  fun_induction copyReads k j pc x3 x4 x5
  repeat' first
    | with_reducible assumption
    | with_reducible apply_assumption

theorem Device.copyMove_canonical {d : Device} (h : d.Canonical) (k : RingRef) (j : CopyJob) (m : Nat) (got : List Byte) (ecc : Ecc) :
    (d.copyMove k j m got ecc).Canonical := by
  unfold Device.copyMove
  dsimp only
  generalize hx : copyLines _ _ _ _ _ _ _ = r
  have hr : r.1.Canonical := hx ▸ copyLines_canonical h _ _ _ _ _ _
  split
  all_goals
    repeat' split
    all_goals first
      | exact Device.finish_canonical (Device.memCes_canonical hr _ _) _ _ _ _
      | exact Device.setRing_canonical (Device.memCes_canonical hr _ _) _ _
      | exact Device.finish_canonical hr _ _ _ _
      | exact Device.setRing_canonical hr _ _

theorem copyComplete_canonical {d : Device} (h : d.Canonical) (k : RingRef) (ecc : Ecc) :
    Device.Canonical (copyComplete d k ecc) := by
  unfold copyComplete
  repeat' first
    | with_reducible assumption
    | with_reducible refine Device.engineTurn_canonical ?_ ‹_ = some _›
    | with_reducible apply copyReads_canonical
    | with_reducible apply Device.finish_canonical
    | with_reducible apply Device.noteLink_canonical
    | with_reducible apply Device.copyMove_canonical
    | dsimp only
    | with_reducible apply Device.stores_canonical
    | with_reducible apply stores_canonical_filter
    | with_reducible apply stores_canonical_mem
    | with_reducible apply stores_canonical_clear
    | with_reducible apply Device.reset_canonical
    | with_reducible apply stores_canonical_sram
    | with_reducible apply stores_canonical_empty
    | split

theorem Device.copyFailed_canonical {d : Device} (h : d.Canonical) (k : RingRef) (detail : Byte) :
    (d.copyFailed k detail).Canonical := by
  unfold Device.copyFailed
  split
  · dsimp only
    generalize hx : copyLines _ _ _ _ _ _ _ = r
    have hr : r.1.Canonical := hx ▸ copyLines_canonical h _ _ _ _ _ _
    split
    · exact Device.finish_canonical hr _ _ _ _
    · exact Device.finish_canonical hr _ _ _ _
  · exact h

theorem execLoad_canonical (t : Fin 64) (r : Fin 17) (ecc : Ecc) {s₁ s₂ : State} (h : s₁.dev.Canonical)
    (e : execLoad t r s₁ ecc = .next s₂) : s₂.dev.Canonical := by
  unfold execLoad at e
  refine actLive_canonical (fun d h => ?_) h e
  repeat' first
    | with_reducible assumption
    | with_reducible apply Device.onHead_canonical
    | with_reducible apply loadTaken_canonical
    | simp only [Device.canonical_mk]
    | with_reducible apply Device.stores_canonical
    | simp only [Did.canonical_done]
    | split
    | with_reducible apply foldl_canonical
    | intro _

theorem execAdmissionComplete_canonical (t : Fin 64) (r : Fin 17) {s₁ s₂ : State} (h : s₁.dev.Canonical)
    (e : execAdmissionComplete t r s₁ = .next s₂) : s₂.dev.Canonical := by
  unfold execAdmissionComplete at e
  refine actLive_canonical (fun d h => ?_) h e
  repeat' first
    | with_reducible assumption
    | with_reducible apply admissionComplete_canonical

theorem execUnload_canonical (t : Fin 64) (r : Fin 17) {s₁ s₂ : State} (h : s₁.dev.Canonical)
    (e : execUnload t r s₁ = .next s₂) : s₂.dev.Canonical := by
  unfold execUnload at e
  refine actLive_canonical (fun d h => ?_) h e
  repeat' first
    | with_reducible assumption
    | with_reducible apply Device.onHead_canonical
    | with_reducible apply unloadTaken_canonical
    | simp only [Device.canonical_mk]
    | with_reducible apply Device.stores_canonical
    | simp only [Did.canonical_done]
    | split
    | with_reducible apply foldl_canonical
    | intro _

theorem execJoin_canonical (t : Fin 64) (r : Fin 17) (ecc : Ecc) {s₁ s₂ : State} (h : s₁.dev.Canonical)
    (e : execJoin t r s₁ ecc = .next s₂) : s₂.dev.Canonical := by
  unfold execJoin at e
  refine actLive_canonical (fun d h => ?_) h e
  repeat' first
    | with_reducible assumption
    | with_reducible apply Device.onHead_canonical
    | with_reducible apply joinTaken_canonical
    | simp only [Device.canonical_mk]
    | with_reducible apply Device.stores_canonical
    | simp only [Did.canonical_done]
    | split
    | with_reducible apply foldl_canonical
    | intro _

theorem execLeave_canonical (t : Fin 64) (r : Fin 17) (ecc : Ecc) {s₁ s₂ : State} (h : s₁.dev.Canonical)
    (e : execLeave t r s₁ ecc = .next s₂) : s₂.dev.Canonical := by
  unfold execLeave at e
  refine actLive_canonical (fun d h => ?_) h e
  repeat' first
    | with_reducible assumption
    | with_reducible apply Device.onHead_canonical
    | with_reducible apply leaveTaken_canonical
    | simp only [Device.canonical_mk]
    | with_reducible apply Device.stores_canonical
    | simp only [Did.canonical_done]
    | split
    | with_reducible apply foldl_canonical
    | intro _

theorem execCopy_canonical (ring : RingRef) {s₁ s₂ : State} (h : s₁.dev.Canonical)
    (e : execCopy ring s₁ = .next s₂) : s₂.dev.Canonical := by
  unfold execCopy at e
  refine actLive_canonical (fun d h => ?_) h e
  repeat' first
    | with_reducible assumption
    | with_reducible apply Device.onHead_canonical
    | with_reducible apply copyTaken_canonical
    | simp only [Device.canonical_mk]
    | with_reducible apply Device.stores_canonical
    | simp only [Did.canonical_done]
    | split
    | with_reducible apply foldl_canonical
    | intro _

theorem execCopyComplete_canonical (ring : RingRef) (ecc : Ecc) {s₁ s₂ : State} (h : s₁.dev.Canonical)
    (e : execCopyComplete ring ecc s₁ = .next s₂) : s₂.dev.Canonical := by
  unfold execCopyComplete at e
  refine actLive_canonical (fun d h => ?_) h e
  repeat' first
    | with_reducible assumption
    | with_reducible apply copyComplete_canonical

end Sys2Proof.Machine
end

