-- ==== Sys2Proof/Laws/CanonEngines.lean ====
section
/-!
SUPPORT. The operations and meanings of Machine/Engines.lean keep the stores canonical.
-/

namespace Sys2Proof.Machine

theorem wtload_canonical {d : Device} (h : d.Canonical) (q : Seat) (b : Bank) (op : WtloadOp) :
    Did.Canonical (wtload d q b op) := by
  unfold wtload
  repeat' first
    | with_reducible assumption
    | with_reducible apply Device.count_canonical
    | dsimp only
    | with_reducible apply Device.stores_canonical
    | with_reducible apply stores_canonical_filter
    | with_reducible apply stores_canonical_mem
    | with_reducible apply stores_canonical_clear
    | with_reducible apply Device.reset_canonical
    | with_reducible apply stores_canonical_sram
    | with_reducible apply stores_canonical_empty
    | split
    | simp only [Did.canonical_done, Did.canonical_fault]

theorem matmul_canonical {d : Device} (h : d.Canonical) (q : Seat) (b : Bank) (op : MatmulOp) :
    Did.Canonical (matmul d q b op) := by
  unfold matmul
  repeat' first
    | with_reducible assumption
    | with_reducible apply Device.count_canonical
    | dsimp only
    | with_reducible apply Device.stores_canonical
    | with_reducible apply stores_canonical_filter
    | with_reducible apply stores_canonical_mem
    | with_reducible apply stores_canonical_clear
    | with_reducible apply Device.reset_canonical
    | with_reducible apply stores_canonical_sram
    | with_reducible apply stores_canonical_empty
    | simp only [Did.canonical_done, Did.canonical_fault, Did.canonical_hold]
    | split

theorem drainRows_canonical (q : Seat) (e : Fin 2) (a : AccBank) (params : List Byte) (n : Nat) {d : Device} (h : d.Canonical)
    (b : Bank) (row : Nat) : (drainRows d q b e a params n row).1.Canonical := by
  induction n generalizing d b row with
  | zero => exact h
  | succ n ih =>
    unfold drainRows
    dsimp only
    split
    · exact ih (Device.count_canonical h _ _) _ _
    · exact ih (Device.shareWrite_canonical (Device.count_canonical h _ _) _ _ _ _) _ _

theorem accswap_canonical {d : Device} (h : d.Canonical) (q : Seat) (b : Bank) (e : Fin 2) :
    Did.Canonical (accswap d q b e) := by
  unfold accswap
  repeat' first
    | with_reducible assumption
    | with_reducible apply drainRows_canonical
    | dsimp only
    | with_reducible apply Device.stores_canonical
    | with_reducible apply stores_canonical_filter
    | with_reducible apply stores_canonical_mem
    | with_reducible apply stores_canonical_clear
    | with_reducible apply Device.reset_canonical
    | with_reducible apply stores_canonical_sram
    | with_reducible apply stores_canonical_empty
    | split
    | simp only [Did.canonical_done, Did.canonical_fault]

theorem setreg_canonical {d : Device} (h : d.Canonical) (b : Bank) (r : CoreReg) (v : Word) :
    Did.Canonical (setreg d b r v) := by
  unfold setreg
  repeat' first
    | with_reducible assumption
    | simp only [Device.canonical_mk]
    | with_reducible apply Device.stores_canonical
    | with_reducible apply stores_canonical_filter
    | with_reducible apply stores_canonical_mem
    | with_reducible apply stores_canonical_clear
    | with_reducible apply Device.reset_canonical
    | with_reducible apply stores_canonical_sram
    | with_reducible apply stores_canonical_empty
    | split
    | simp only [Did.canonical_done]

theorem execMatmul_canonical (u : CoreUse) (op : MatmulOp) {s₁ s₂ : State} (h : s₁.dev.Canonical)
    (e : execMatmul u op s₁ = .next s₂) : s₂.dev.Canonical := by
  unfold execMatmul at e
  refine actLive_canonical (fun d h => ?_) h e
  repeat' first
    | with_reducible assumption
    | with_reducible apply Device.issueEccIn_canonical
    | with_reducible apply matmul_canonical
    | simp only [Device.canonical_mk]
    | with_reducible apply Device.stores_canonical
    | simp only [Did.canonical_done]
    | split
    | with_reducible apply foldl_canonical
    | intro _

theorem execWtload_canonical (u : CoreUse) (op : WtloadOp) {s₁ s₂ : State} (h : s₁.dev.Canonical)
    (e : execWtload u op s₁ = .next s₂) : s₂.dev.Canonical := by
  unfold execWtload at e
  refine actLive_canonical (fun d h => ?_) h e
  repeat' first
    | with_reducible assumption
    | with_reducible apply Device.issueEcc_canonical
    | with_reducible apply wtload_canonical
    | simp only [Device.canonical_mk]
    | with_reducible apply Device.stores_canonical
    | simp only [Did.canonical_done]
    | split
    | with_reducible apply foldl_canonical
    | intro _

theorem execAccswap_canonical (u : CoreUse) (engine : Fin 2) {s₁ s₂ : State} (h : s₁.dev.Canonical)
    (e : execAccswap u engine s₁ = .next s₂) : s₂.dev.Canonical := by
  unfold execAccswap at e
  refine actLive_canonical (fun d h => ?_) h e
  repeat' first
    | with_reducible assumption
    | with_reducible apply Device.issueEcc_canonical
    | with_reducible apply accswap_canonical
    | simp only [Device.canonical_mk]
    | with_reducible apply Device.stores_canonical
    | simp only [Did.canonical_done]
    | split
    | with_reducible apply foldl_canonical
    | intro _

theorem execSetreg_canonical (u : CoreUse) (r : CoreReg) (value : Word) {s₁ s₂ : State} (h : s₁.dev.Canonical)
    (e : execSetreg u r value s₁ = .next s₂) : s₂.dev.Canonical := by
  unfold execSetreg at e
  refine actLive_canonical (fun d h => ?_) h e
  repeat' first
    | with_reducible assumption
    | with_reducible apply Device.issueEcc_canonical
    | with_reducible apply setreg_canonical
    | simp only [Device.canonical_mk]
    | with_reducible apply Device.stores_canonical
    | simp only [Did.canonical_done]
    | split
    | with_reducible apply foldl_canonical
    | intro _

end Sys2Proof.Machine
end

