-- ==== Sys2Proof/Laws/CanonForeman.lean ====
section
/-!
SUPPORT. The operations and meanings of Machine/Foreman.lean keep the stores canonical.
-/

namespace Sys2Proof.Machine

theorem Device.setPool_canonical {d : Device} (h : d.Canonical) (p : Nat) (l : List Page) :
    Device.Canonical (Device.setPool d p l) := by
  unfold Device.setPool
  repeat' first
    | with_reducible assumption
    | simp only [Device.canonical_mk]
    | with_reducible apply Device.stores_canonical

theorem Device.setJob_canonical {d : Device} (h : d.Canonical) (j : FmJob) :
    Device.Canonical (Device.setJob d j) := by
  unfold Device.setJob
  repeat' first
    | with_reducible assumption
    | simp only [Device.canonical_mk]
    | with_reducible apply Device.stores_canonical

theorem Device.pin_canonical {d : Device} (h : d.Canonical) (p : Nat) (c : Nat) (f : Page → Page) :
    Device.Canonical (Device.pin d p c f) := by
  unfold Device.pin
  repeat' first
    | with_reducible assumption
    | with_reducible apply Device.setPool_canonical
    | simp only [Device.canonical_mk]
    | with_reducible apply Device.stores_canonical

theorem Device.jobFail_canonical {d : Device} (h : d.Canonical) (j : FmJob) (status : Byte) (detail : Byte) :
    Device.Canonical (Device.jobFail d j status detail) := by
  unfold Device.jobFail
  repeat' first
    | with_reducible assumption
    | with_reducible apply Device.settleHead_canonical
    | with_reducible apply Device.dismiss_canonical
    | dsimp only
    | with_reducible apply Device.stores_canonical
    | with_reducible apply stores_canonical_filter
    | with_reducible apply stores_canonical_mem
    | with_reducible apply stores_canonical_clear
    | with_reducible apply Device.reset_canonical
    | with_reducible apply stores_canonical_sram
    | with_reducible apply stores_canonical_empty
    | split

theorem Device.chargePages_canonical {d : Device} (h : d.Canonical) (port : Nat) (l : List Nat) (write : Bool) :
    Device.Canonical (Device.chargePages d port l write) := by
  unfold Device.chargePages
  repeat' first
    | with_reducible assumption
    | with_reducible apply Device.charge_canonical
    | simp only [Device.canonical_mk]
    | with_reducible apply Device.stores_canonical
    | with_reducible apply stores_canonical_filter
    | with_reducible apply stores_canonical_mem
    | with_reducible apply stores_canonical_clear
    | with_reducible apply Device.reset_canonical
    | with_reducible apply stores_canonical_sram
    | with_reducible apply stores_canonical_empty
    | split
    | dsimp only
    | with_reducible apply foldl_canonical
    | intro _

theorem Device.beginStep_canonical {d : Device} (h : d.Canonical) (p : Nat) (cluster : Nat) (j : FmJob) :
    Device.Canonical (Device.beginStep d p cluster j) := by
  unfold Device.beginStep
  repeat' first
    | with_reducible assumption
    | with_reducible apply Device.jobFail_canonical
    | with_reducible apply Device.setJob_canonical
    | with_reducible apply Device.chargePages_canonical
    | dsimp only
    | with_reducible apply Device.stores_canonical
    | with_reducible apply stores_canonical_filter
    | with_reducible apply stores_canonical_mem
    | with_reducible apply stores_canonical_clear
    | with_reducible apply Device.reset_canonical
    | with_reducible apply stores_canonical_sram
    | with_reducible apply stores_canonical_empty
    | split

theorem Device.startJob_canonical {d : Device} (h : d.Canonical) (p : Nat) (cluster : Nat) (j : FmJob) :
    Device.Canonical (Device.startJob d p cluster j) := by
  unfold Device.startJob
  repeat' first
    | with_reducible assumption
    | with_reducible apply Device.pin_canonical
    | with_reducible apply Device.beginStep_canonical
    | with_reducible apply Device.setJob_canonical

theorem Device.evict_canonical {d : Device} (h : d.Canonical) (p : Nat) (x : Page) :
    Device.Canonical (Device.evict d p x) := by
  unfold Device.evict
  repeat' first
    | with_reducible assumption
    | with_reducible apply Device.setPool_canonical
    | with_reducible apply Device.jobFail_canonical
    | with_reducible apply Device.addCount_canonical
    | with_reducible apply Device.tenWrite_canonical
    | dsimp only
    | with_reducible apply Device.stores_canonical
    | with_reducible apply stores_canonical_filter
    | with_reducible apply stores_canonical_mem
    | with_reducible apply stores_canonical_clear
    | with_reducible apply Device.reset_canonical
    | with_reducible apply stores_canonical_sram
    | with_reducible apply stores_canonical_empty
    | split

theorem Device.forceVictim_canonical {d : Device} (h : d.Canonical) (p : Nat) (port : Nat) :
    Device.Canonical (Device.forceVictim d p port) := by
  unfold Device.forceVictim
  repeat' first
    | with_reducible assumption
    | with_reducible apply Device.chargePages_canonical
    | with_reducible apply Device.setJob_canonical
    | with_reducible apply Device.evict_canonical
    | with_reducible apply Device.orReg_canonical
    | with_reducible apply Device.addCount_canonical
    | dsimp only
    | with_reducible apply Device.stores_canonical
    | with_reducible apply stores_canonical_filter
    | with_reducible apply stores_canonical_mem
    | with_reducible apply stores_canonical_clear
    | with_reducible apply Device.reset_canonical
    | with_reducible apply stores_canonical_sram
    | with_reducible apply stores_canonical_empty
    | split
    | dsimp only
    | with_reducible apply foldl_canonical
    | intro _

theorem Device.pageIn'_canonical {d : Device} (h : d.Canonical) (p : Nat) (cluster : Nat) (slot : Nat) (a : Nat) (j : FmJob) (n : Nat) (ecc : Ecc) :
    Device.Canonical (Device.pageIn' d p cluster slot a j n ecc) := by
  unfold Device.pageIn'
  repeat' first
    | with_reducible assumption
    | with_reducible apply Device.jobFail_canonical
    | with_reducible apply Device.viaMove_canonical
    | with_reducible apply Device.memEcc_canonical
    | with_reducible apply Device.ctxFault_canonical
    | with_reducible apply Device.addCount_canonical
    | with_reducible apply Device.wr_canonical
    | with_reducible apply Device.setPool_canonical
    | with_reducible apply Device.beginStep_canonical
    | simp only [Device.canonical_mk]
    | with_reducible apply Device.stores_canonical
    | with_reducible apply stores_canonical_filter
    | with_reducible apply stores_canonical_mem
    | with_reducible apply stores_canonical_clear
    | with_reducible apply Device.reset_canonical
    | with_reducible apply stores_canonical_sram
    | with_reducible apply stores_canonical_empty
    | split
    | dsimp only
    | with_reducible apply foldl_canonical
    | intro _

theorem Device.freePage_canonical {d : Device} (h : d.Canonical) (p : Nat) (cluster : Nat) (x : Page) (f : Device → Device) (h4 : ∀ x0, x0.Canonical → Device.Canonical (f x0)) :
    Device.Canonical (Device.freePage d p cluster x f) := by
  unfold Device.freePage
  repeat' first
    | with_reducible assumption
    | with_reducible apply h4
    | with_reducible apply Device.evict_canonical
    | with_reducible apply Device.viaMove_canonical
    | simp only [Device.canonical_mk]
    | with_reducible apply Device.stores_canonical
    | with_reducible apply stores_canonical_filter
    | with_reducible apply stores_canonical_mem
    | with_reducible apply stores_canonical_clear
    | with_reducible apply Device.reset_canonical
    | with_reducible apply stores_canonical_sram
    | with_reducible apply stores_canonical_empty
    | split
    | dsimp only
    | with_reducible apply foldl_canonical
    | intro _

theorem foremanPageIn_canonical {d : Device} (h : d.Canonical) (p : Nat) (c : Nat) (n : Nat) (ecc : Ecc) :
    Device.Canonical (foremanPageIn d p c n ecc) := by
  unfold foremanPageIn
  repeat' first
    | with_reducible assumption
    | with_reducible apply Device.pageIn'_canonical
    | with_reducible apply Device.freePage_canonical
    | with_reducible apply Device.forceVictim_canonical
    | dsimp only
    | with_reducible apply Device.stores_canonical
    | with_reducible apply stores_canonical_filter
    | with_reducible apply stores_canonical_mem
    | with_reducible apply stores_canonical_clear
    | with_reducible apply Device.reset_canonical
    | with_reducible apply stores_canonical_sram
    | with_reducible apply stores_canonical_empty
    | split
    | dsimp only
    | with_reducible apply foldl_canonical
    | intro _

theorem Device.writePage_canonical {d : Device} (h : d.Canonical) (p : Nat) (o : Page × List Byte) :
    Device.Canonical (Device.writePage d p o) := by
  unfold Device.writePage
  repeat' first
    | with_reducible assumption
    | with_reducible apply Device.wr_canonical
    | with_reducible apply Device.setPool_canonical

theorem Device.jobDeliver_canonical {d : Device} (h : d.Canonical) (k : RingRef) (x : QDesc) (j : FmJob) :
    (d.jobDeliver k x j).1.Canonical := by
  unfold Device.jobDeliver
  refine foldl_fst_canonical (fun e id he => ?_) _ h
  dsimp only
  have hw := Device.jobEntry_canonical he k x id (startOf (some j)) St.ok 0
  generalize e.1.jobEntry k x id (startOf (some j)) St.ok 0 = w at hw ⊢
  split
  · dsimp only
    split
    · exact hw
    · exact Device.produce_canonical hw _ _ _
  · exact hw

theorem Device.jobDone_canonical {d : Device} (h : d.Canonical) (j : FmJob) :
    Device.Canonical (Device.jobDone d j) := by
  unfold Device.jobDone
  repeat' first
    | with_reducible assumption
    | with_reducible apply Device.jobDeliver_canonical
    | with_reducible apply Device.popHead_canonical
    | with_reducible apply Device.dropJob_canonical
    | with_reducible apply Device.settleHead_canonical
    | with_reducible apply Device.lastEntry_canonical
    | dsimp only
    | with_reducible apply Device.stores_canonical
    | with_reducible apply stores_canonical_filter
    | with_reducible apply stores_canonical_mem
    | with_reducible apply stores_canonical_clear
    | with_reducible apply Device.reset_canonical
    | with_reducible apply stores_canonical_sram
    | with_reducible apply stores_canonical_empty
    | split

theorem Device.nextJob_canonical {d : Device} (h : d.Canonical) (p : Nat) (cluster : Nat) :
    Device.Canonical (Device.nextJob d p cluster) := by
  unfold Device.nextJob
  repeat' first
    | with_reducible assumption
    | with_reducible apply Device.startJob_canonical
    | with_reducible apply Device.setJob_canonical
    | with_reducible apply Device.pin_canonical
    | dsimp only
    | with_reducible apply Device.stores_canonical
    | with_reducible apply stores_canonical_filter
    | with_reducible apply stores_canonical_mem
    | with_reducible apply stores_canonical_clear
    | with_reducible apply Device.reset_canonical
    | with_reducible apply stores_canonical_sram
    | with_reducible apply stores_canonical_empty
    | split

theorem Device.countSats_canonical {d : Device} (h : d.Canonical) (n : Nat) :
    Device.Canonical (Device.countSats d n) := by
  unfold Device.countSats
  repeat' first
    | with_reducible assumption
    | with_reducible apply Device.orReg_canonical
    | with_reducible apply Device.addCount_canonical
    | simp only [Device.canonical_mk]
    | with_reducible apply Device.stores_canonical
    | with_reducible apply stores_canonical_filter
    | with_reducible apply stores_canonical_mem
    | with_reducible apply stores_canonical_clear
    | with_reducible apply Device.reset_canonical
    | with_reducible apply stores_canonical_sram
    | with_reducible apply stores_canonical_empty
    | split

theorem Device.endStep_canonical {d : Device} (h : d.Canonical) (p : Nat) (cluster : Nat) (j : FmJob) :
    Device.Canonical (Device.endStep d p cluster j) := by
  unfold Device.endStep
  repeat' first
    | with_reducible assumption
    | with_reducible apply Device.countSats_canonical
    | with_reducible apply Device.chargePages_canonical
    | with_reducible apply Device.pin_canonical
    | with_reducible apply Device.writePage_canonical
    | with_reducible apply Device.setJob_canonical
    | with_reducible apply Device.jobDone_canonical
    | simp only [Device.canonical_mk]
    | with_reducible apply Device.stores_canonical
    | with_reducible apply stores_canonical_filter
    | with_reducible apply stores_canonical_mem
    | with_reducible apply stores_canonical_clear
    | with_reducible apply Device.reset_canonical
    | with_reducible apply stores_canonical_sram
    | with_reducible apply stores_canonical_empty
    | split
    | dsimp only
    | with_reducible apply foldl_canonical
    | intro _

theorem foremanStepEnd_canonical {d : Device} (h : d.Canonical) (p : Nat) (cluster : Nat) :
    Device.Canonical (foremanStepEnd d p cluster) := by
  unfold foremanStepEnd
  repeat' first
    | with_reducible assumption
    | with_reducible apply Device.forceVictim_canonical
    | with_reducible apply Device.beginStep_canonical
    | with_reducible apply Device.jobFail_canonical
    | with_reducible apply Device.nextJob_canonical
    | with_reducible apply Device.endStep_canonical
    | simp only [Device.canonical_mk]
    | with_reducible apply Device.stores_canonical
    | with_reducible apply stores_canonical_filter
    | with_reducible apply stores_canonical_mem
    | with_reducible apply stores_canonical_clear
    | with_reducible apply Device.reset_canonical
    | with_reducible apply stores_canonical_sram
    | with_reducible apply stores_canonical_empty
    | split

theorem execForemanPageIn_canonical (p : Fin 16) (ctx : Fin 256) (page : Nat) (ecc : Ecc) {s₁ s₂ : State} (h : s₁.dev.Canonical)
    (e : execForemanPageIn p ctx page s₁ ecc = .next s₂) : s₂.dev.Canonical := by
  unfold execForemanPageIn at e
  refine actLive_canonical (fun d h => ?_) h e
  repeat' first
    | with_reducible assumption
    | with_reducible apply foremanPageIn_canonical

theorem execForemanStepEnd_canonical (p : Fin 16) (cluster : Fin 24) {s₁ s₂ : State} (h : s₁.dev.Canonical)
    (e : execForemanStepEnd p cluster s₁ = .next s₂) : s₂.dev.Canonical := by
  unfold execForemanStepEnd at e
  refine actLive_canonical (fun d h => ?_) h e
  repeat' first
    | with_reducible assumption
    | with_reducible apply foremanStepEnd_canonical

end Sys2Proof.Machine
end

