-- ==== Sys2Proof/Laws/CanonQueues.lean ====
section
/-!
SUPPORT. The operations and meanings of Machine/Queues.lean keep the stores canonical.
-/

namespace Sys2Proof.Machine

theorem Device.dropFrame_canonical {d : Device} (h : d.Canonical) (port : Nat) :
    Device.Canonical (Device.dropFrame d port) := by
  unfold Device.dropFrame
  repeat' first
    | with_reducible assumption
    | with_reducible apply Device.orReg_canonical
    | with_reducible apply Device.addCount_canonical

theorem Device.stopQueue_canonical {d : Device} (h : d.Canonical) (q : Nat) :
    Device.Canonical (Device.stopQueue d q) := by
  unfold Device.stopQueue
  repeat' first
    | with_reducible assumption
    | with_reducible apply Device.dropFrame_canonical
    | with_reducible apply Device.setQueue_canonical
    | with_reducible apply Device.orReg_canonical
    | dsimp only
    | with_reducible apply Device.stores_canonical
    | with_reducible apply stores_canonical_filter
    | with_reducible apply stores_canonical_mem
    | with_reducible apply stores_canonical_clear
    | with_reducible apply Device.reset_canonical
    | with_reducible apply stores_canonical_sram
    | with_reducible apply stores_canonical_empty
    | split
    | dsimp only
    | with_reducible apply foldl_canonical
    | intro _

theorem qTailWrite_canonical {d : Device} (h : d.Canonical) (q : Nat) (v : Half) :
    Device.Canonical (qTailWrite d q v) := by
  unfold qTailWrite
  repeat' first
    | with_reducible assumption
    | with_reducible apply Device.reply_canonical
    | with_reducible apply Device.setQueue_canonical
    | with_reducible apply Device.stopQueue_canonical
    | dsimp only
    | with_reducible apply Device.stores_canonical
    | with_reducible apply stores_canonical_filter
    | with_reducible apply stores_canonical_mem
    | with_reducible apply stores_canonical_clear
    | with_reducible apply Device.reset_canonical
    | with_reducible apply stores_canonical_sram
    | with_reducible apply stores_canonical_empty
    | split

theorem qSeenWrite_canonical {d : Device} (h : d.Canonical) (q : Nat) (v : Half) :
    Device.Canonical (qSeenWrite d q v) := by
  unfold qSeenWrite
  repeat' first
    | with_reducible assumption
    | with_reducible apply Device.reply_canonical
    | with_reducible apply Device.setQueue_canonical
    | with_reducible apply Device.stopQueue_canonical
    | dsimp only
    | with_reducible apply Device.stores_canonical
    | with_reducible apply stores_canonical_filter
    | with_reducible apply stores_canonical_mem
    | with_reducible apply stores_canonical_clear
    | with_reducible apply Device.reset_canonical
    | with_reducible apply stores_canonical_sram
    | with_reducible apply stores_canonical_empty
    | split

theorem Device.qWrite_canonical {d : Device} (h : d.Canonical) (q : Nat) (a : Nat) (bs : List Byte) :
    Device.Canonical (Device.qWrite d q a bs) := by
  unfold Device.qWrite
  repeat' first
    | with_reducible assumption
    | with_reducible apply Device.logWrite_canonical
    | with_reducible apply Device.emitWrites_canonical
    | with_reducible apply Device.wr_canonical
    | dsimp only
    | with_reducible apply Device.stores_canonical
    | with_reducible apply stores_canonical_filter
    | with_reducible apply stores_canonical_mem
    | with_reducible apply stores_canonical_clear
    | with_reducible apply Device.reset_canonical
    | with_reducible apply stores_canonical_sram
    | with_reducible apply stores_canonical_empty
    | split

theorem Device.settleBack_canonical {d : Device} (h : d.Canonical) (q : Nat) :
    Device.Canonical (Device.settleBack d q) := by
  unfold Device.settleBack
  repeat' first
    | with_reducible assumption
    | with_reducible apply Device.stopQueue_canonical
    | with_reducible apply Device.noteVeto_canonical
    | with_reducible apply Device.setQueue_canonical
    | with_reducible apply Device.qWrite_canonical
    | with_reducible apply Device.charge_canonical
    | dsimp only
    | with_reducible apply Device.stores_canonical
    | with_reducible apply stores_canonical_filter
    | with_reducible apply stores_canonical_mem
    | with_reducible apply stores_canonical_clear
    | with_reducible apply Device.reset_canonical
    | with_reducible apply stores_canonical_sram
    | with_reducible apply stores_canonical_empty
    | split

theorem Device.settleBacks_canonical {d : Device} (h : d.Canonical) :
    Device.Canonical (Device.settleBacks d) := by
  unfold Device.settleBacks
  repeat' first
    | with_reducible assumption
    | with_reducible apply Device.settleBack_canonical
    | simp only [Device.canonical_mk]
    | with_reducible apply Device.stores_canonical
    | with_reducible apply stores_canonical_filter
    | with_reducible apply stores_canonical_mem
    | with_reducible apply stores_canonical_clear
    | with_reducible apply Device.reset_canonical
    | with_reducible apply stores_canonical_sram
    | with_reducible apply stores_canonical_empty
    | split
    | dsimp only
    | with_reducible apply foldl_canonical
    | intro _

theorem Device.writeBack_canonical {d : Device} (h : d.Canonical) (q : Nat) (raw : List Byte) (status : Byte) (detail : Byte) (fields : List (Nat × List Byte)) :
    Device.Canonical (Device.writeBack d q raw status detail fields) := by
  unfold Device.writeBack
  repeat' first
    | with_reducible assumption
    | with_reducible apply Device.settleBack_canonical
    | with_reducible apply Device.setQueue_canonical

theorem Device.deliver_canonical {d : Device} (h : d.Canonical) (q : Nat) (f : RxFrame) :
    Device.Canonical (Device.deliver d q f) := by
  unfold Device.deliver
  repeat' first
    | with_reducible assumption
    | with_reducible apply Device.setQueue_canonical

theorem qFill_canonical {d : Device} (h : d.Canonical) (q : Nat) (raw : List Byte) :
    Device.Canonical (qFill d q raw) := by
  unfold qFill
  repeat' first
    | with_reducible assumption
    | with_reducible apply Device.setQueue_canonical
    | with_reducible apply Device.dropFrame_canonical
    | with_reducible apply Device.writeBack_canonical
    | with_reducible apply Device.stopQueue_canonical
    | with_reducible apply Device.noteVeto_canonical
    | with_reducible apply Device.via_canonical
    | with_reducible apply Device.qWrite_canonical
    | dsimp only
    | with_reducible apply Device.stores_canonical
    | with_reducible apply stores_canonical_filter
    | with_reducible apply stores_canonical_mem
    | with_reducible apply stores_canonical_clear
    | with_reducible apply Device.reset_canonical
    | with_reducible apply stores_canonical_sram
    | with_reducible apply stores_canonical_empty
    | split
    | dsimp only
    | with_reducible apply foldl_canonical
    | intro _

theorem qReadFailed_canonical {d : Device} (h : d.Canonical) (q : Nat) :
    Device.Canonical (qReadFailed d q) := by
  unfold qReadFailed
  repeat' first
    | with_reducible assumption
    | with_reducible apply Device.stopQueue_canonical
    | simp only [Device.canonical_mk]
    | with_reducible apply Device.stores_canonical
    | with_reducible apply stores_canonical_filter
    | with_reducible apply stores_canonical_mem
    | with_reducible apply stores_canonical_clear
    | with_reducible apply Device.reset_canonical
    | with_reducible apply stores_canonical_sram
    | with_reducible apply stores_canonical_empty
    | split

theorem Device.qFetch_canonical {d : Device} (h : d.Canonical) (q : Nat) (raw : List Byte) (n : Nat) (ecc : Ecc) (send : Device → List Byte → Device) (h5 : ∀ x0 x1, x0.Canonical → Device.Canonical (send x0 x1)) :
    Device.Canonical (Device.qFetch d q raw n ecc send) := by
  unfold Device.qFetch
  repeat' first
    | with_reducible assumption
    | with_reducible apply h5
    | with_reducible apply Device.writeBack_canonical
    | with_reducible apply Device.stopQueue_canonical
    | with_reducible apply Device.noteVeto_canonical
    | with_reducible apply Device.emitReads_canonical
    | with_reducible apply Device.via_canonical
    | with_reducible apply Device.memEcc_canonical
    | dsimp only
    | with_reducible apply Device.stores_canonical
    | with_reducible apply stores_canonical_filter
    | with_reducible apply stores_canonical_mem
    | with_reducible apply stores_canonical_clear
    | with_reducible apply Device.reset_canonical
    | with_reducible apply stores_canonical_sram
    | with_reducible apply stores_canonical_empty
    | split
    | dsimp only
    | with_reducible apply foldl_canonical
    | intro _

theorem execQTailWrite_canonical (who : Who) (q : QueueRef) (value : Half) {s₁ s₂ : State} (h : s₁.dev.Canonical)
    (e : execQTailWrite who q value s₁ = .next s₂) : s₂.dev.Canonical := by
  unfold execQTailWrite at e
  refine actBy_canonical (fun d h => ?_) h e
  repeat' first
    | with_reducible assumption
    | with_reducible apply qTailWrite_canonical

theorem execQSeenWrite_canonical (who : Who) (q : QueueRef) (value : Half) {s₁ s₂ : State} (h : s₁.dev.Canonical)
    (e : execQSeenWrite who q value s₁ = .next s₂) : s₂.dev.Canonical := by
  unfold execQSeenWrite at e
  refine actBy_canonical (fun d h => ?_) h e
  repeat' first
    | with_reducible assumption
    | with_reducible apply qSeenWrite_canonical

end Sys2Proof.Machine
end

