-- ==== Sys2Proof/Laws/CanonSwitch.lean ====
section
/-!
SUPPORT. The operations and meanings of Machine/Switch.lean keep the stores canonical.
-/

namespace Sys2Proof.Machine

theorem Device.police_canonical {d : Device} (h : d.Canonical) (s : Nat) (bs : List Byte) : (d.police s bs).2.Canonical := by
  unfold Device.police
  dsimp only
  repeat' first
    | with_reducible assumption
    | simp only [Device.canonical_mk]
    | with_reducible apply Device.stores_canonical
    | split

theorem Device.recoverFrame_canonical {d : Device} (h : d.Canonical) (s : Nat) (bs : List Byte) :
    (d.recoverFrame s bs).2.Canonical := by
  unfold Device.recoverFrame
  dsimp only
  repeat' first
    | with_reducible assumption
    | simp only [Device.canonical_mk]
    | with_reducible apply Device.stores_canonical
    | split

theorem Device.generate_canonical {d : Device} (h : d.Canonical) (s : Nat) (bs : List Byte) :
    (d.generate s bs).2.Canonical := by
  unfold Device.generate
  dsimp only
  repeat' first
    | with_reducible assumption
    | simp only [Device.canonical_mk]
    | with_reducible apply Device.stores_canonical
    | split

theorem Device.toInternal_canonical {d : Device} (h : d.Canonical) (port : Nat) (cls : Nat) (f : RxFrame) :
    Device.Canonical (Device.toInternal d port cls f) := by
  unfold Device.toInternal
  repeat' first
    | with_reducible assumption
    | with_reducible apply Device.dropFrame_canonical
    | with_reducible apply Device.deliver_canonical
    | dsimp only
    | with_reducible apply Device.stores_canonical
    | with_reducible apply stores_canonical_filter
    | with_reducible apply stores_canonical_mem
    | with_reducible apply stores_canonical_clear
    | with_reducible apply Device.reset_canonical
    | with_reducible apply stores_canonical_sram
    | with_reducible apply stores_canonical_empty
    | split

theorem Device.toEgress_canonical {d : Device} (h : d.Canonical) (port : Nat) (cls : Nat) (f : EgressFrame) :
    Device.Canonical (Device.toEgress d port cls f) := by
  unfold Device.toEgress
  repeat' first
    | with_reducible assumption
    | simp only [Device.canonical_mk]
    | with_reducible apply Device.stores_canonical

theorem Device.forward_canonical {d : Device} (h : d.Canonical) (ingress : Nat) (cls : Nat) (f : RxFrame) (port : Nat) :
    Device.Canonical (Device.forward d ingress cls f port) := by
  unfold Device.forward
  repeat' first
    | with_reducible assumption
    | with_reducible apply Device.toInternal_canonical
    | with_reducible apply Device.dropFrame_canonical
    | with_reducible apply Device.toEgress_canonical
    | simp only [Device.canonical_mk]
    | with_reducible apply Device.stores_canonical
    | with_reducible apply stores_canonical_filter
    | with_reducible apply stores_canonical_mem
    | with_reducible apply stores_canonical_clear
    | with_reducible apply Device.reset_canonical
    | with_reducible apply stores_canonical_sram
    | with_reducible apply stores_canonical_empty
    | split

theorem Device.store_canonical {d : Device} (h : d.Canonical) (ingress : Nat) (untagged : Nat) (stamp : Option (Word × BitVec 16)) (entry : Word) (bs : List Byte) :
    Device.Canonical (Device.store d ingress untagged stamp entry bs) := by
  unfold Device.store
  repeat' first
    | with_reducible assumption
    | with_reducible apply Device.dropFrame_canonical
    | with_reducible apply Device.forward_canonical
    | simp only [Device.canonical_mk]
    | with_reducible apply Device.stores_canonical
    | with_reducible apply stores_canonical_filter
    | with_reducible apply stores_canonical_mem
    | with_reducible apply stores_canonical_clear
    | with_reducible apply Device.reset_canonical
    | with_reducible apply stores_canonical_sram
    | with_reducible apply stores_canonical_empty
    | split
    | with_reducible apply foldl_canonical
    | intro _

theorem Device.switchFrame_canonical {d : Device} (h : d.Canonical) (ingress : Nat) (untagged : Nat) (stamp : Option (Word × BitVec 16)) (bs : List Byte) :
    Device.Canonical (Device.switchFrame d ingress untagged stamp bs) := by
  unfold Device.switchFrame
  repeat' first
    | with_reducible assumption
    | with_reducible apply Device.dropFrame_canonical
    | with_reducible apply Device.store_canonical
    | with_reducible apply Device.police_canonical
    | with_reducible apply Device.orReg_canonical
    | with_reducible apply Device.recoverFrame_canonical
    | with_reducible apply Device.generate_canonical
    | dsimp only
    | with_reducible apply Device.stores_canonical
    | with_reducible apply stores_canonical_filter
    | with_reducible apply stores_canonical_mem
    | with_reducible apply stores_canonical_clear
    | with_reducible apply Device.reset_canonical
    | with_reducible apply stores_canonical_sram
    | with_reducible apply stores_canonical_empty
    | split

theorem ethFrameReceive_canonical {d : Device} (h : d.Canonical) (port : Nat) (f : EthFrame) :
    Device.Canonical (ethFrameReceive d port f) := by
  unfold ethFrameReceive
  repeat' first
    | with_reducible assumption
    | with_reducible apply Device.dropFrame_canonical
    | with_reducible apply Device.switchFrame_canonical
    | dsimp only
    | with_reducible apply Device.stores_canonical
    | with_reducible apply stores_canonical_filter
    | with_reducible apply stores_canonical_mem
    | with_reducible apply stores_canonical_clear
    | with_reducible apply Device.reset_canonical
    | with_reducible apply stores_canonical_sram
    | with_reducible apply stores_canonical_empty
    | split

theorem gateListEntry_canonical {d : Device} (h : d.Canonical) (n : Nat) :
    Device.Canonical (gateListEntry d n) := by
  unfold gateListEntry
  repeat' first
    | with_reducible assumption
    | simp only [Device.canonical_mk]
    | with_reducible apply Device.stores_canonical
    | with_reducible apply stores_canonical_filter
    | with_reducible apply stores_canonical_mem
    | with_reducible apply stores_canonical_clear
    | with_reducible apply Device.reset_canonical
    | with_reducible apply stores_canonical_sram
    | with_reducible apply stores_canonical_empty
    | split

theorem frameTransmitted_canonical {d : Device} (h : d.Canonical) (n : Nat) (cls : Nat) :
    Device.Canonical (frameTransmitted d n cls) := by
  unfold frameTransmitted
  repeat' first
    | with_reducible assumption
    | with_reducible apply Device.emit_canonical
    | with_reducible apply Device.writeBack_canonical
    | simp only [Device.canonical_mk]
    | with_reducible apply Device.stores_canonical
    | with_reducible apply stores_canonical_filter
    | with_reducible apply stores_canonical_mem
    | with_reducible apply stores_canonical_clear
    | with_reducible apply Device.reset_canonical
    | with_reducible apply stores_canonical_sram
    | with_reducible apply stores_canonical_empty
    | split

theorem Device.offlineEgress_canonical {d : Device} (h : d.Canonical) :
    Device.Canonical (Device.offlineEgress d) := by
  unfold Device.offlineEgress
  repeat' first
    | with_reducible assumption
    | with_reducible apply Device.writeBack_canonical
    | simp only [Device.canonical_mk]
    | with_reducible apply Device.stores_canonical
    | with_reducible apply stores_canonical_filter
    | with_reducible apply stores_canonical_mem
    | with_reducible apply stores_canonical_clear
    | with_reducible apply Device.reset_canonical
    | with_reducible apply stores_canonical_sram
    | with_reducible apply stores_canonical_empty
    | split
    | dsimp only
    | with_reducible apply foldl_canonical
    | intro _

theorem tsnSend_canonical {d : Device} (h : d.Canonical) (q : Nat) (raw : List Byte) (bs : List Byte) :
    Device.Canonical (tsnSend d q raw bs) := by
  unfold tsnSend
  repeat' first
    | with_reducible assumption
    | with_reducible apply Device.writeBack_canonical
    | with_reducible apply Device.switchFrame_canonical
    | with_reducible apply Device.dropFrame_canonical
    | with_reducible apply Device.setQueue_canonical
    | with_reducible apply Device.toEgress_canonical
    | simp only [Device.canonical_mk]
    | with_reducible apply Device.stores_canonical
    | with_reducible apply stores_canonical_filter
    | with_reducible apply stores_canonical_mem
    | with_reducible apply stores_canonical_clear
    | with_reducible apply Device.reset_canonical
    | with_reducible apply stores_canonical_sram
    | with_reducible apply stores_canonical_empty
    | split

theorem tsnTake_canonical {d : Device} (h : d.Canonical) (q : Nat) (raw : List Byte) (ecc : Ecc) :
    Device.Canonical (tsnTake d q raw ecc) := by
  unfold tsnTake
  repeat' first
    | with_reducible assumption
    | with_reducible apply Device.writeBack_canonical
    | with_reducible apply Device.qFetch_canonical
    | with_reducible apply tsnSend_canonical
    | dsimp only
    | with_reducible apply Device.stores_canonical
    | with_reducible apply stores_canonical_filter
    | with_reducible apply stores_canonical_mem
    | with_reducible apply stores_canonical_clear
    | with_reducible apply Device.reset_canonical
    | with_reducible apply stores_canonical_sram
    | with_reducible apply stores_canonical_empty
    | split
    | dsimp only
    | with_reducible apply foldl_canonical
    | intro _

theorem ethLinkChange_canonical {d : Device} (h : d.Canonical) (port : Nat) (up : Bool) :
    Device.Canonical (ethLinkChange d port up) := by
  unfold ethLinkChange
  repeat' first
    | with_reducible assumption
    | with_reducible apply Device.orReg_canonical
    | with_reducible apply Device.setFld_canonical
    | simp only [Device.canonical_mk]
    | with_reducible apply Device.stores_canonical
    | with_reducible apply stores_canonical_filter
    | with_reducible apply stores_canonical_mem
    | with_reducible apply stores_canonical_clear
    | with_reducible apply Device.reset_canonical
    | with_reducible apply stores_canonical_sram
    | with_reducible apply stores_canonical_empty
    | split

theorem execEthFrameReceive_canonical (port : Fin 12) (frame : EthFrame) {s₁ s₂ : State} (h : s₁.dev.Canonical)
    (e : execEthFrameReceive port frame s₁ = .next s₂) : s₂.dev.Canonical := by
  unfold execEthFrameReceive at e
  refine actLive_canonical (fun d h => ?_) h e
  repeat' first
    | with_reducible assumption
    | with_reducible apply ethFrameReceive_canonical

theorem execFrameTransmitted_canonical (port : Fin 10) (cls : Fin 8) {s₁ s₂ : State} (h : s₁.dev.Canonical)
    (e : execFrameTransmitted port cls s₁ = .next s₂) : s₂.dev.Canonical := by
  unfold execFrameTransmitted at e
  refine actLive_canonical (fun d h => ?_) h e
  repeat' first
    | with_reducible assumption
    | with_reducible apply frameTransmitted_canonical

theorem execGateListEntry_canonical (port : Fin 10) {s₁ s₂ : State} (h : s₁.dev.Canonical)
    (e : execGateListEntry port s₁ = .next s₂) : s₂.dev.Canonical := by
  unfold execGateListEntry at e
  refine actLive_canonical (fun d h => ?_) h e
  repeat' first
    | with_reducible assumption
    | with_reducible apply gateListEntry_canonical

theorem execEthLinkChange_canonical (port : Fin 10) (up : Bool) {s₁ s₂ : State} (h : s₁.dev.Canonical)
    (e : execEthLinkChange port up s₁ = .next s₂) : s₂.dev.Canonical := by
  unfold execEthLinkChange at e
  refine actLive_canonical (fun d h => ?_) h e
  repeat' first
    | with_reducible assumption
    | with_reducible apply ethLinkChange_canonical

end Sys2Proof.Machine
end

