-- ==== Sys2Proof/Laws/CanonGateway.lean ====
section
/-!
SUPPORT. The operations and meanings of Machine/Gateway.lean keep the stores canonical.
-/

namespace Sys2Proof.Machine

theorem Device.sizeDrop_canonical {d : Device} (h : d.Canonical) (src : Nat) (dst : Nat) (f : CanFrame) (time : Word) :
    Device.Canonical (Device.sizeDrop d src dst f time) := by
  unfold Device.sizeDrop
  repeat' first
    | with_reducible assumption
    | with_reducible apply Device.recordIf_canonical
    | with_reducible apply Device.orReg_canonical
    | with_reducible apply Device.addCount_canonical

theorem Device.otherDrop_canonical {d : Device} (h : d.Canonical) (bit : Nat) :
    Device.Canonical (Device.otherDrop d bit) := by
  unfold Device.otherDrop
  repeat' first
    | with_reducible assumption
    | with_reducible apply Device.orReg_canonical
    | with_reducible apply Device.addCount_canonical

theorem Device.toCan_canonical {d : Device} (h : d.Canonical) (k : Nat) (f : CanFrame) :
    Device.Canonical (Device.toCan d k f) := by
  unfold Device.toCan
  repeat' first
    | with_reducible assumption
    | with_reducible apply Device.otherDrop_canonical
    | with_reducible apply Device.setCan_canonical
    | dsimp only
    | with_reducible apply Device.stores_canonical
    | with_reducible apply stores_canonical_filter
    | with_reducible apply stores_canonical_mem
    | with_reducible apply stores_canonical_clear
    | with_reducible apply Device.reset_canonical
    | with_reducible apply stores_canonical_sram
    | with_reducible apply stores_canonical_empty
    | split

theorem Device.acfSend_canonical {d : Device} (h : d.Canonical) (s : Nat) :
    Device.Canonical (Device.acfSend d s) := by
  unfold Device.acfSend
  repeat' first
    | with_reducible assumption
    | with_reducible apply Device.switchFrame_canonical
    | simp only [Device.canonical_mk]
    | with_reducible apply Device.stores_canonical
    | with_reducible apply stores_canonical_filter
    | with_reducible apply stores_canonical_mem
    | with_reducible apply stores_canonical_clear
    | with_reducible apply Device.reset_canonical
    | with_reducible apply stores_canonical_sram
    | with_reducible apply stores_canonical_empty
    | split

theorem Device.toAcf_canonical {d : Device} (h : d.Canonical) (s : Nat) (f : CanFrame) (time : Word) (bus : Nat) :
    Device.Canonical (Device.toAcf d s f time bus) := by
  unfold Device.toAcf
  repeat' first
    | with_reducible assumption
    | with_reducible apply Device.acfSend_canonical
    | simp only [Device.canonical_mk]
    | with_reducible apply Device.stores_canonical
    | with_reducible apply stores_canonical_filter
    | with_reducible apply stores_canonical_mem
    | with_reducible apply stores_canonical_clear
    | with_reducible apply Device.reset_canonical
    | with_reducible apply stores_canonical_sram
    | with_reducible apply stores_canonical_empty
    | split

theorem Device.toHost_canonical {d : Device} (h : d.Canonical) (k : Nat) (src : Nat) (f : CanFrame) (time : Word × BitVec 16) :
    Device.Canonical (Device.toHost d k src f time) := by
  unfold Device.toHost
  repeat' first
    | with_reducible assumption
    | with_reducible apply Device.deliver_canonical
    | simp only [Device.canonical_mk]
    | with_reducible apply Device.stores_canonical
    | with_reducible apply stores_canonical_filter
    | with_reducible apply stores_canonical_mem
    | with_reducible apply stores_canonical_clear
    | with_reducible apply Device.reset_canonical
    | with_reducible apply stores_canonical_sram
    | with_reducible apply stores_canonical_empty
    | split

theorem Device.sendCopy_canonical {d : Device} (h : d.Canonical) (src : Nat) (f : CanFrame) (time : Word × BitVec 16) (bus : Nat) (w : Word) :
    Device.Canonical (Device.sendCopy d src f time bus w) := by
  unfold Device.sendCopy
  repeat' first
    | with_reducible assumption
    | with_reducible apply Device.sizeDrop_canonical
    | with_reducible apply Device.toCan_canonical
    | with_reducible apply Device.toAcf_canonical
    | with_reducible apply Device.toHost_canonical
    | dsimp only
    | with_reducible apply Device.stores_canonical
    | with_reducible apply stores_canonical_filter
    | with_reducible apply stores_canonical_mem
    | with_reducible apply stores_canonical_clear
    | with_reducible apply Device.reset_canonical
    | with_reducible apply stores_canonical_sram
    | with_reducible apply stores_canonical_empty
    | split

theorem Device.route_canonical {d : Device} (h : d.Canonical) (src : Nat) (f : CanFrame) (time : Word × BitVec 16) (bus : Nat) :
    Device.Canonical (Device.route d src f time bus) := by
  unfold Device.route
  repeat' first
    | with_reducible assumption
    | with_reducible apply Device.sendCopy_canonical
    | with_reducible apply Device.toHost_canonical
    | with_reducible apply Device.otherDrop_canonical
    | simp only [Device.canonical_mk]
    | with_reducible apply Device.stores_canonical
    | with_reducible apply stores_canonical_filter
    | with_reducible apply stores_canonical_mem
    | with_reducible apply stores_canonical_clear
    | with_reducible apply Device.reset_canonical
    | with_reducible apply stores_canonical_sram
    | with_reducible apply stores_canonical_empty
    | split
    | with_reducible apply foldl_canonical
    | intro _

theorem Device.routeChecked_canonical {d : Device} (h : d.Canonical) (src : Nat) (f : CanFrame) (time : Word × BitVec 16) (bus : Nat) :
    Device.Canonical (Device.routeChecked d src f time bus) := by
  unfold Device.routeChecked
  repeat' first
    | with_reducible assumption
    | with_reducible apply Device.route_canonical
    | with_reducible apply Device.sizeDrop_canonical
    | simp only [Device.canonical_mk]
    | with_reducible apply Device.stores_canonical
    | with_reducible apply stores_canonical_filter
    | with_reducible apply stores_canonical_mem
    | with_reducible apply stores_canonical_clear
    | with_reducible apply Device.reset_canonical
    | with_reducible apply stores_canonical_sram
    | with_reducible apply stores_canonical_empty
    | split

theorem canFrameReceived_canonical {d : Device} (h : d.Canonical) (k : Nat) (f : CanFrame) :
    Device.Canonical (canFrameReceived d k f) := by
  unfold canFrameReceived
  repeat' first
    | with_reducible assumption
    | with_reducible apply Device.route_canonical
    | with_reducible apply Device.setCan_canonical
    | simp only [Device.canonical_mk]
    | with_reducible apply Device.stores_canonical
    | with_reducible apply stores_canonical_filter
    | with_reducible apply stores_canonical_mem
    | with_reducible apply stores_canonical_clear
    | with_reducible apply Device.reset_canonical
    | with_reducible apply stores_canonical_sram
    | with_reducible apply stores_canonical_empty
    | split

theorem canFrameTransmitted_canonical {d : Device} (h : d.Canonical) (k : Nat) :
    Device.Canonical (canFrameTransmitted d k) := by
  unfold canFrameTransmitted
  repeat' first
    | with_reducible assumption
    | with_reducible apply Device.emit_canonical
    | with_reducible apply Device.setCan_canonical
    | dsimp only
    | with_reducible apply Device.stores_canonical
    | with_reducible apply stores_canonical_filter
    | with_reducible apply stores_canonical_mem
    | with_reducible apply stores_canonical_clear
    | with_reducible apply Device.reset_canonical
    | with_reducible apply stores_canonical_sram
    | with_reducible apply stores_canonical_empty
    | split

theorem canErrorDetected_canonical {d : Device} (h : d.Canonical) (k : Nat) (transmitter : Bool) (severe : Bool) :
    Device.Canonical (canErrorDetected d k transmitter severe) := by
  unfold canErrorDetected
  repeat' first
    | with_reducible assumption
    | with_reducible apply Device.setCan_canonical
    | simp only [Device.canonical_mk]
    | with_reducible apply Device.stores_canonical
    | with_reducible apply stores_canonical_filter
    | with_reducible apply stores_canonical_mem
    | with_reducible apply stores_canonical_clear
    | with_reducible apply Device.reset_canonical
    | with_reducible apply stores_canonical_sram
    | with_reducible apply stores_canonical_empty
    | split

theorem canBusOff_canonical {d : Device} (h : d.Canonical) (k : Nat) :
    Device.Canonical (canBusOff d k) := by
  unfold canBusOff
  repeat' first
    | with_reducible assumption
    | with_reducible apply Device.setCan_canonical
    | dsimp only
    | with_reducible apply Device.stores_canonical
    | with_reducible apply stores_canonical_filter
    | with_reducible apply stores_canonical_mem
    | with_reducible apply stores_canonical_clear
    | with_reducible apply Device.reset_canonical
    | with_reducible apply stores_canonical_sram
    | with_reducible apply stores_canonical_empty
    | split

theorem busOffRecovery_canonical {d : Device} (h : d.Canonical) (k : Nat) :
    Device.Canonical (busOffRecovery d k) := by
  unfold busOffRecovery
  repeat' first
    | with_reducible assumption
    | with_reducible apply Device.setCan_canonical
    | dsimp only
    | with_reducible apply Device.stores_canonical
    | with_reducible apply stores_canonical_filter
    | with_reducible apply stores_canonical_mem
    | with_reducible apply stores_canonical_clear
    | with_reducible apply Device.reset_canonical
    | with_reducible apply stores_canonical_sram
    | with_reducible apply stores_canonical_empty
    | split

theorem acfMessages_canonical (s : Nat) (time : Word × BitVec 16) (n : Nat) {d : Device} (h : d.Canonical)
    (bs : List Byte) : (acfMessages s time n d bs).Canonical := by
  induction n generalizing d bs with
  | zero => exact h
  | succ n ih =>
    unfold acfMessages
    repeat' first
      | with_reducible assumption
      | apply ih
      | with_reducible apply Device.otherDrop_canonical
      | with_reducible apply Device.routeChecked_canonical
      | simp only [Device.canonical_mk]
      | with_reducible apply Device.stores_canonical
      | split

theorem acfFrameReceive_canonical {d : Device} (h : d.Canonical) (f : EthFrame) :
    Device.Canonical (acfFrameReceive d f) := by
  unfold acfFrameReceive
  repeat' first
    | with_reducible assumption
    | with_reducible apply Device.otherDrop_canonical
    | with_reducible apply acfMessages_canonical
    | simp only [Device.canonical_mk]
    | with_reducible apply Device.stores_canonical
    | with_reducible apply stores_canonical_filter
    | with_reducible apply stores_canonical_mem
    | with_reducible apply stores_canonical_clear
    | with_reducible apply Device.reset_canonical
    | with_reducible apply stores_canonical_sram
    | with_reducible apply stores_canonical_empty
    | split

theorem acfHoldExpire_canonical {d : Device} (h : d.Canonical) (s : Nat) :
    Device.Canonical (acfHoldExpire d s) := by
  unfold acfHoldExpire
  repeat' first
    | with_reducible assumption
    | with_reducible apply Device.acfSend_canonical
    | simp only [Device.canonical_mk]
    | with_reducible apply Device.stores_canonical
    | with_reducible apply stores_canonical_filter
    | with_reducible apply stores_canonical_mem
    | with_reducible apply stores_canonical_clear
    | with_reducible apply Device.reset_canonical
    | with_reducible apply stores_canonical_sram
    | with_reducible apply stores_canonical_empty
    | split

theorem gwySend_canonical {d : Device} (h : d.Canonical) (q : Nat) (raw : List Byte) (bs : List Byte) (fetched : BitVec 96) :
    Device.Canonical (gwySend d q raw bs fetched) := by
  unfold gwySend
  repeat' first
    | with_reducible assumption
    | with_reducible apply Device.writeBack_canonical
    | with_reducible apply Device.route_canonical

theorem gwyTake_canonical {d : Device} (h : d.Canonical) (q : Nat) (raw : List Byte) (fetched : BitVec 96) (ecc : Ecc) :
    Device.Canonical (gwyTake d q raw fetched ecc) := by
  unfold gwyTake
  repeat' first
    | with_reducible assumption
    | with_reducible apply Device.writeBack_canonical
    | with_reducible apply Device.sizeDrop_canonical
    | with_reducible apply gwySend_canonical
    | with_reducible apply Device.qFetch_canonical
    | dsimp only
    | with_reducible apply Device.stores_canonical
    | with_reducible apply stores_canonical_filter
    | with_reducible apply stores_canonical_mem
    | with_reducible apply stores_canonical_clear
    | with_reducible apply Device.reset_canonical
    | with_reducible apply stores_canonical_sram
    | with_reducible apply stores_canonical_empty
    | split
    | dsimp only
    | with_reducible apply foldl_canonical
    | intro _

theorem queueGot_canonical {d : Device} (h : d.Canonical) (q : Nat) (raw : List Byte) (fetched : BitVec 96) (ecc : Ecc) :
    Device.Canonical (queueGot d q raw fetched ecc) := by
  unfold queueGot
  repeat' first
    | with_reducible assumption
    | with_reducible apply qFill_canonical
    | with_reducible apply tsnTake_canonical
    | with_reducible apply gwyTake_canonical
    | simp only [Device.canonical_mk]
    | with_reducible apply Device.stores_canonical
    | with_reducible apply stores_canonical_filter
    | with_reducible apply stores_canonical_mem
    | with_reducible apply stores_canonical_clear
    | with_reducible apply Device.reset_canonical
    | with_reducible apply stores_canonical_sram
    | with_reducible apply stores_canonical_empty
    | split

theorem queueSend_canonical {d : Device} (h : d.Canonical) (q : Nat) (raw : List Byte) (bs : List Byte) (fetched : BitVec 96) :
    Device.Canonical (queueSend d q raw bs fetched) := by
  unfold queueSend
  repeat' first
    | with_reducible assumption
    | with_reducible apply tsnSend_canonical
    | with_reducible apply gwySend_canonical
    | simp only [Device.canonical_mk]
    | with_reducible apply Device.stores_canonical
    | with_reducible apply stores_canonical_filter
    | with_reducible apply stores_canonical_mem
    | with_reducible apply stores_canonical_clear
    | with_reducible apply Device.reset_canonical
    | with_reducible apply stores_canonical_sram
    | with_reducible apply stores_canonical_empty
    | split

theorem queueHas_canonical {d : Device} (h : d.Canonical) (q : Nat) (raw : List Byte) (ecc : Ecc) :
    Device.Canonical (queueHas d q raw ecc) := by
  unfold queueHas
  repeat' first
    | with_reducible assumption
    | with_reducible apply queueGot_canonical
    | with_reducible apply Device.setQueue_canonical

theorem queueDescriptorTaken_canonical {d : Device} (h : d.Canonical) (q : Nat) (ecc : Ecc) :
    Device.Canonical (queueDescriptorTaken d q ecc) := by
  unfold queueDescriptorTaken
  repeat' first
    | with_reducible assumption
    | with_reducible apply queueGot_canonical
    | with_reducible apply Device.stopQueue_canonical
    | with_reducible apply Device.noteVeto_canonical
    | with_reducible apply Device.emitReads_canonical
    | with_reducible apply Device.via_canonical
    | with_reducible apply Device.memEcc_canonical
    | with_reducible apply Device.writeBack_canonical
    | with_reducible apply queueHas_canonical
    | dsimp only
    | with_reducible apply Device.stores_canonical
    | with_reducible apply stores_canonical_filter
    | with_reducible apply stores_canonical_mem
    | with_reducible apply stores_canonical_clear
    | with_reducible apply Device.reset_canonical
    | with_reducible apply stores_canonical_sram
    | with_reducible apply stores_canonical_empty
    | split
    | dsimp only
    | with_reducible apply foldl_canonical
    | intro _

theorem execCanFrameReceived_canonical (k : Fin 16) (frame : CanFrame) {s₁ s₂ : State} (h : s₁.dev.Canonical)
    (e : execCanFrameReceived k frame s₁ = .next s₂) : s₂.dev.Canonical := by
  unfold execCanFrameReceived at e
  refine actIf_canonical (fun d h => ?_) h e
  repeat' first
    | with_reducible assumption
    | with_reducible apply canFrameReceived_canonical

theorem execCanFrameTransmitted_canonical (k : Fin 16) {s₁ s₂ : State} (h : s₁.dev.Canonical)
    (e : execCanFrameTransmitted k s₁ = .next s₂) : s₂.dev.Canonical := by
  unfold execCanFrameTransmitted at e
  refine actLive_canonical (fun d h => ?_) h e
  repeat' first
    | with_reducible assumption
    | with_reducible apply canFrameTransmitted_canonical

theorem execCanBusOff_canonical (k : Fin 16) {s₁ s₂ : State} (h : s₁.dev.Canonical)
    (e : execCanBusOff k s₁ = .next s₂) : s₂.dev.Canonical := by
  unfold execCanBusOff at e
  refine actLive_canonical (fun d h => ?_) h e
  repeat' first
    | with_reducible assumption
    | with_reducible apply canBusOff_canonical

theorem execCanErrorDetected_canonical (k : Fin 16) (transmitter : Bool) (severe : Bool) {s₁ s₂ : State} (h : s₁.dev.Canonical)
    (e : execCanErrorDetected k transmitter severe s₁ = .next s₂) : s₂.dev.Canonical := by
  unfold execCanErrorDetected at e
  refine actLive_canonical (fun d h => ?_) h e
  repeat' first
    | with_reducible assumption
    | with_reducible apply canErrorDetected_canonical

theorem execBusOffRecovery_canonical (k : Fin 16) {s₁ s₂ : State} (h : s₁.dev.Canonical)
    (e : execBusOffRecovery k s₁ = .next s₂) : s₂.dev.Canonical := by
  unfold execBusOffRecovery at e
  refine actLive_canonical (fun d h => ?_) h e
  repeat' first
    | with_reducible assumption
    | with_reducible apply busOffRecovery_canonical

theorem execAcfFrameReceive_canonical (frame : EthFrame) {s₁ s₂ : State} (h : s₁.dev.Canonical)
    (e : execAcfFrameReceive frame s₁ = .next s₂) : s₂.dev.Canonical := by
  unfold execAcfFrameReceive at e
  refine actLive_canonical (fun d h => ?_) h e
  repeat' first
    | with_reducible assumption
    | with_reducible apply acfFrameReceive_canonical

theorem execAcfHoldExpire_canonical (stream : Fin 32) {s₁ s₂ : State} (h : s₁.dev.Canonical)
    (e : execAcfHoldExpire stream s₁ = .next s₂) : s₂.dev.Canonical := by
  unfold execAcfHoldExpire at e
  refine actLive_canonical (fun d h => ?_) h e
  repeat' first
    | with_reducible assumption
    | with_reducible apply acfHoldExpire_canonical

theorem execQueueDescriptorTaken_canonical (q : QueueRef) (ecc : Ecc) {s₁ s₂ : State} (h : s₁.dev.Canonical)
    (e : execQueueDescriptorTaken q s₁ ecc = .next s₂) : s₂.dev.Canonical := by
  unfold execQueueDescriptorTaken at e
  refine actLive_canonical (fun d h => ?_) h e
  repeat' first
    | with_reducible assumption
    | with_reducible apply queueDescriptorTaken_canonical

end Sys2Proof.Machine
end

