-- ==== Sys2Proof/Laws/CanonHosts.lean ====
section
/-!
SUPPORT. The operations and meanings of Machine/Hosts.lean keep the stores canonical.
-/

namespace Sys2Proof.Machine

theorem Device.hartCe_canonical {d : Device} (h : d.Canonical) (who : Who) (h : HartUse) :
    Device.Canonical (Device.hartCe d who h) := by
  unfold Device.hartCe
  repeat' first
    | with_reducible assumption
    | with_reducible apply Device.addCount_canonical
    | simp only [Device.canonical_mk]
    | with_reducible apply Device.stores_canonical
    | with_reducible apply stores_canonical_filter
    | with_reducible apply stores_canonical_mem
    | with_reducible apply stores_canonical_clear
    | with_reducible apply Device.reset_canonical
    | with_reducible apply stores_canonical_sram
    | with_reducible apply stores_canonical_empty
    | split

theorem Device.putLine_canonical {d : Device} (h : d.Canonical) (line : Nat) (h : HostLine) :
    Device.Canonical (Device.putLine d line h) := by
  unfold Device.putLine
  repeat' first
    | with_reducible assumption
    | simp only [Device.canonical_mk]
    | with_reducible apply Device.stores_canonical

theorem Device.withLine_canonical {d : Device} (h : d.Canonical) (n : Fin 24) (line : Nat) (ecc : Ecc) (f : HostLine → Device → Device) (h4 : ∀ x0 x1, x1.Canonical → Device.Canonical (f x0 x1)) :
    Device.Canonical (Device.withLine d n line ecc f) := by
  unfold Device.withLine
  repeat' first
    | with_reducible assumption
    | with_reducible apply h4
    | with_reducible apply Device.via_canonical
    | with_reducible apply Device.memEcc_canonical
    | with_reducible apply Device.deny_canonical
    | dsimp only
    | with_reducible apply Device.stores_canonical
    | with_reducible apply stores_canonical_filter
    | with_reducible apply stores_canonical_mem
    | with_reducible apply stores_canonical_clear
    | with_reducible apply Device.reset_canonical
    | with_reducible apply stores_canonical_sram
    | with_reducible apply stores_canonical_empty
    | split
    | dsimp only
    | with_reducible apply foldl_canonical
    | intro _

theorem Device.breakReservations_canonical {d : Device} (h : d.Canonical) (n : Fin 24) (line : Nat) :
    Device.Canonical (Device.breakReservations d n line) := by
  unfold Device.breakReservations
  repeat' first
    | with_reducible assumption
    | simp only [Device.canonical_mk]
    | with_reducible apply Device.stores_canonical

theorem Device.cachedRead_canonical {d : Device} (h : d.Canonical) (n : Fin 24) (a : Nat) (k : Nat) (ecc : Ecc) (reserve : Bool) :
    Device.Canonical (Device.cachedRead d n a k ecc reserve) := by
  unfold Device.cachedRead
  repeat' first
    | with_reducible assumption
    | with_reducible apply Device.withLine_canonical
    | with_reducible apply Device.putLine_canonical
    | with_reducible apply Device.reply_canonical
    | simp only [Device.canonical_mk]
    | with_reducible apply Device.stores_canonical
    | with_reducible apply stores_canonical_filter
    | with_reducible apply stores_canonical_mem
    | with_reducible apply stores_canonical_clear
    | with_reducible apply Device.reset_canonical
    | with_reducible apply stores_canonical_sram
    | with_reducible apply stores_canonical_empty
    | split
    | dsimp only
    | with_reducible apply foldl_canonical
    | intro _

theorem Device.cachedWrite_canonical {d : Device} (h : d.Canonical) (n : Fin 24) (a : Nat) (h : HostLine) (bs : List Byte) :
    Device.Canonical (Device.cachedWrite d n a h bs) := by
  unfold Device.cachedWrite
  repeat' first
    | with_reducible assumption
    | with_reducible apply Device.breakReservations_canonical
    | with_reducible apply Device.putLine_canonical

theorem Device.cachedSc_canonical {d : Device} (h : d.Canonical) (n : Fin 24) (a : Nat) (bs : List Byte) :
    Device.Canonical (Device.cachedSc d n a bs) := by
  unfold Device.cachedSc
  repeat' first
    | with_reducible assumption
    | with_reducible apply Device.withLine_canonical
    | with_reducible apply Device.reply_canonical
    | with_reducible apply Device.cachedWrite_canonical
    | simp only [Device.canonical_mk]
    | with_reducible apply Device.stores_canonical
    | with_reducible apply stores_canonical_filter
    | with_reducible apply stores_canonical_mem
    | with_reducible apply stores_canonical_clear
    | with_reducible apply Device.reset_canonical
    | with_reducible apply stores_canonical_sram
    | with_reducible apply stores_canonical_empty
    | split
    | dsimp only
    | with_reducible apply foldl_canonical
    | intro _

theorem Device.cacheBlock_canonical {d : Device} (h : d.Canonical) (n : Fin 24) (a : Nat) (op : StoreOp) :
    Device.Canonical (Device.cacheBlock d n a op) := by
  unfold Device.cacheBlock
  repeat' first
    | with_reducible assumption
    | with_reducible apply Device.reply_canonical
    | with_reducible apply Device.putLine_canonical
    | with_reducible apply Device.via_canonical
    | with_reducible apply Device.wr_canonical
    | simp only [Device.canonical_mk]
    | with_reducible apply Device.stores_canonical
    | with_reducible apply stores_canonical_filter
    | with_reducible apply stores_canonical_mem
    | with_reducible apply stores_canonical_clear
    | with_reducible apply Device.reset_canonical
    | with_reducible apply stores_canonical_sram
    | with_reducible apply stores_canonical_empty
    | split
    | dsimp only
    | with_reducible apply foldl_canonical
    | intro _

theorem Device.cachedStore_canonical {d : Device} (h : d.Canonical) (n : Fin 24) (a : Nat) (bs : List Byte) (op : StoreOp) :
    Device.Canonical (Device.cachedStore d n a bs op) := by
  unfold Device.cachedStore
  repeat' first
    | with_reducible assumption
    | with_reducible apply Device.withLine_canonical
    | with_reducible apply Device.reply_canonical
    | with_reducible apply Device.cachedWrite_canonical
    | with_reducible apply Device.cachedSc_canonical
    | with_reducible apply Device.cacheBlock_canonical
    | dsimp only
    | with_reducible apply Device.stores_canonical
    | with_reducible apply stores_canonical_filter
    | with_reducible apply stores_canonical_mem
    | with_reducible apply stores_canonical_clear
    | with_reducible apply Device.reset_canonical
    | with_reducible apply stores_canonical_sram
    | with_reducible apply stores_canonical_empty
    | split
    | dsimp only
    | with_reducible apply foldl_canonical
    | intro _

theorem Device.refetch_canonical {d : Device} (h : d.Canonical) (h : HostLine) (cache : HostCache) (n : Fin 24) (line : Nat) :
    Device.Canonical (Device.refetch d h cache n line) := by
  unfold Device.refetch
  repeat' first
    | with_reducible assumption
    | with_reducible apply Device.putLine_canonical
    | with_reducible apply Device.emit_canonical
    | with_reducible apply Device.charge_canonical
    | simp only [Device.canonical_mk]
    | with_reducible apply Device.stores_canonical
    | with_reducible apply stores_canonical_filter
    | with_reducible apply stores_canonical_mem
    | with_reducible apply stores_canonical_clear
    | with_reducible apply Device.reset_canonical
    | with_reducible apply stores_canonical_sram
    | with_reducible apply stores_canonical_empty
    | split

theorem hostCacheUe_canonical {d : Device} (h : d.Canonical) (cache : HostCache) (n : Fin 24) (a : Nat) :
    Device.Canonical (hostCacheUe d cache n a) := by
  unfold hostCacheUe
  repeat' first
    | with_reducible assumption
    | with_reducible apply Device.latch_canonical
    | with_reducible apply Device.emit_canonical
    | with_reducible apply Device.raise_canonical
    | with_reducible apply Device.refetch_canonical
    | simp only [Device.canonical_mk]
    | with_reducible apply Device.stores_canonical
    | with_reducible apply stores_canonical_filter
    | with_reducible apply stores_canonical_mem
    | with_reducible apply stores_canonical_clear
    | with_reducible apply Device.reset_canonical
    | with_reducible apply stores_canonical_sram
    | with_reducible apply stores_canonical_empty
    | split

theorem Device.loseL2_canonical {d : Device} (h : d.Canonical) (p : Nat) :
    Device.Canonical (Device.loseL2 d p) := by
  unfold Device.loseL2
  repeat' first
    | with_reducible assumption
    | simp only [Device.canonical_mk]
    | with_reducible apply Device.stores_canonical

end Sys2Proof.Machine
end

