-- ==== Sys2Proof/Laws/CanonIsland.lean ====
section
/-!
SUPPORT. The operations and meanings of Machine/Island.lean keep the stores canonical.
-/

namespace Sys2Proof.Machine

theorem lockstepMismatch_canonical {d : Device} (h : d.Canonical) (p : Nat) :
    Device.Canonical (lockstepMismatch d p) := by
  unfold lockstepMismatch
  repeat' first
    | with_reducible assumption
    | with_reducible apply Device.loseL2_canonical
    | with_reducible apply Device.setUnitOff_canonical
    | with_reducible apply Device.latch_canonical
    | with_reducible apply Device.orReg_canonical
    | simp only [Device.canonical_mk]
    | with_reducible apply Device.stores_canonical
    | with_reducible apply stores_canonical_filter
    | with_reducible apply stores_canonical_mem
    | with_reducible apply stores_canonical_clear
    | with_reducible apply Device.reset_canonical
    | with_reducible apply stores_canonical_sram
    | with_reducible apply stores_canonical_empty
    | split

theorem islandLockstepMismatch_canonical {d : Device} (h : d.Canonical) (i : Nat) (fromSram : Bool) :
    Device.Canonical (islandLockstepMismatch d i fromSram) := by
  unfold islandLockstepMismatch
  repeat' first
    | with_reducible assumption
    | with_reducible apply Device.latch_canonical
    | with_reducible apply Device.orReg_canonical
    | simp only [Device.canonical_mk]
    | with_reducible apply Device.stores_canonical
    | with_reducible apply stores_canonical_filter
    | with_reducible apply stores_canonical_mem
    | with_reducible apply stores_canonical_clear
    | with_reducible apply Device.reset_canonical
    | with_reducible apply stores_canonical_sram
    | with_reducible apply stores_canonical_empty
    | split

theorem Device.bringOnline_canonical {d : Device} (h : d.Canonical) (u : Nat) :
    Device.Canonical (Device.bringOnline d u) := by
  unfold Device.bringOnline
  repeat' first
    | with_reducible assumption
    | with_reducible apply Device.setUnitOff_canonical
    | simp only [Device.canonical_mk]
    | with_reducible apply Device.stores_canonical

theorem Device.retestPair_canonical {d : Device} (h : d.Canonical) (pass : BitVec 12) (p : Nat) :
    Device.Canonical (Device.retestPair d pass p) := by
  unfold Device.retestPair
  repeat' first
    | with_reducible assumption
    | with_reducible apply Device.bringOnline_canonical
    | with_reducible apply Device.orReg_canonical
    | with_reducible apply Device.clrReg_canonical
    | simp only [Device.canonical_mk]
    | with_reducible apply Device.stores_canonical
    | with_reducible apply stores_canonical_filter
    | with_reducible apply stores_canonical_mem
    | with_reducible apply stores_canonical_clear
    | with_reducible apply Device.reset_canonical
    | with_reducible apply stores_canonical_sram
    | with_reducible apply stores_canonical_empty
    | split

theorem hostPairReset_canonical {d : Device} (h : d.Canonical) (v : Half) (pass : BitVec 12) :
    Device.Canonical (hostPairReset d v pass) := by
  unfold hostPairReset
  repeat' first
    | with_reducible assumption
    | with_reducible apply Device.retestPair_canonical
    | with_reducible apply Device.reply_canonical
    | simp only [Device.canonical_mk]
    | with_reducible apply Device.stores_canonical
    | with_reducible apply stores_canonical_filter
    | with_reducible apply stores_canonical_mem
    | with_reducible apply stores_canonical_clear
    | with_reducible apply Device.reset_canonical
    | with_reducible apply stores_canonical_sram
    | with_reducible apply stores_canonical_empty
    | split
    | with_reducible apply foldl_canonical
    | intro _

theorem safUnitOffSet_canonical {d : Device} (h : d.Canonical) (w : Nat) (v : Half) :
    Device.Canonical (safUnitOffSet d w v) := by
  unfold safUnitOffSet
  repeat' first
    | with_reducible assumption
    | with_reducible apply Device.takeOffline_canonical
    | with_reducible apply Device.reply_canonical
    | simp only [Device.canonical_mk]
    | with_reducible apply Device.stores_canonical
    | with_reducible apply stores_canonical_filter
    | with_reducible apply stores_canonical_mem
    | with_reducible apply stores_canonical_clear
    | with_reducible apply Device.reset_canonical
    | with_reducible apply stores_canonical_sram
    | with_reducible apply stores_canonical_empty
    | split
    | with_reducible apply foldl_canonical
    | intro _

theorem safUnitOffClr_canonical {d : Device} (h : d.Canonical) (w : Nat) (v : Half) :
    Device.Canonical (safUnitOffClr d w v) := by
  unfold safUnitOffClr
  repeat' first
    | with_reducible assumption
    | with_reducible apply Device.bringOnline_canonical
    | with_reducible apply Device.reply_canonical
    | simp only [Device.canonical_mk]
    | with_reducible apply Device.stores_canonical
    | with_reducible apply stores_canonical_filter
    | with_reducible apply stores_canonical_mem
    | with_reducible apply stores_canonical_clear
    | with_reducible apply Device.reset_canonical
    | with_reducible apply stores_canonical_sram
    | with_reducible apply stores_canonical_empty
    | split
    | with_reducible apply foldl_canonical
    | intro _

theorem Device.skew_canonical {d : Device} (h : d.Canonical) (kind : Nat) (u : Nat) :
    Device.Canonical (Device.skew d kind u) := by
  unfold Device.skew
  repeat' first
    | with_reducible assumption
    | with_reducible apply Device.recordIf_canonical
    | with_reducible apply Device.latch_canonical

theorem Device.judgeAnswer_canonical {d : Device} (h : d.Canonical) (x : PollAnswer) :
    Device.Canonical (Device.judgeAnswer d x) := by
  unfold Device.judgeAnswer
  repeat' first
    | with_reducible assumption
    | with_reducible apply Device.skew_canonical
    | simp only [Device.canonical_mk]
    | with_reducible apply Device.stores_canonical
    | with_reducible apply stores_canonical_filter
    | with_reducible apply stores_canonical_mem
    | with_reducible apply stores_canonical_clear
    | with_reducible apply Device.reset_canonical
    | with_reducible apply stores_canonical_sram
    | with_reducible apply stores_canonical_empty
    | split

theorem managementPoll_canonical {d : Device} (h : d.Canonical) (l : List PollAnswer) :
    Device.Canonical (managementPoll d l) := by
  unfold managementPoll
  repeat' first
    | with_reducible assumption
    | with_reducible apply Device.judgeAnswer_canonical
    | simp only [Device.canonical_mk]
    | with_reducible apply Device.stores_canonical
    | with_reducible apply stores_canonical_filter
    | with_reducible apply stores_canonical_mem
    | with_reducible apply stores_canonical_clear
    | with_reducible apply Device.reset_canonical
    | with_reducible apply stores_canonical_sram
    | with_reducible apply stores_canonical_empty
    | split
    | with_reducible apply foldl_canonical
    | intro _

theorem Device.wdogRestart_canonical {d : Device} (h : d.Canonical) : Device.Canonical (Device.wdogRestart d) := by
  unfold Device.wdogRestart
  repeat' first
    | with_reducible assumption
    | simp only [Device.canonical_mk]
    | with_reducible apply Device.stores_canonical

theorem wdogEnable_canonical {d : Device} (h : d.Canonical) (v : Half) :
    Device.Canonical (wdogEnable d v) := by
  unfold wdogEnable
  repeat' first
    | with_reducible assumption
    | with_reducible apply Device.wdogRestart_canonical
    | with_reducible apply Device.reply_canonical
    | with_reducible apply Device.setReg_canonical
    | dsimp only
    | with_reducible apply Device.stores_canonical
    | with_reducible apply stores_canonical_filter
    | with_reducible apply stores_canonical_mem
    | with_reducible apply stores_canonical_clear
    | with_reducible apply Device.reset_canonical
    | with_reducible apply stores_canonical_sram
    | with_reducible apply stores_canonical_empty
    | split

theorem Device.wdogExpired_canonical {d : Device} (h : d.Canonical) :
    Device.Canonical (Device.wdogExpired d) := by
  unfold Device.wdogExpired
  repeat' first
    | with_reducible assumption
    | with_reducible apply Device.latch_canonical
    | simp only [Device.canonical_mk]
    | with_reducible apply Device.stores_canonical

theorem wdogKick_canonical {d : Device} (h : d.Canonical) (v : Half) :
    Device.Canonical (wdogKick d v) := by
  unfold wdogKick
  repeat' first
    | with_reducible assumption
    | with_reducible apply Device.wdogRestart_canonical
    | with_reducible apply Device.reply_canonical
    | with_reducible apply Device.wdogExpired_canonical
    | dsimp only
    | with_reducible apply Device.stores_canonical
    | with_reducible apply stores_canonical_filter
    | with_reducible apply stores_canonical_mem
    | with_reducible apply stores_canonical_clear
    | with_reducible apply Device.reset_canonical
    | with_reducible apply stores_canonical_sram
    | with_reducible apply stores_canonical_empty
    | split

theorem wdogHalfPeriod_canonical {d : Device} (h : d.Canonical) :
    Device.Canonical (wdogHalfPeriod d) := by
  unfold wdogHalfPeriod
  repeat' first
    | with_reducible assumption
    | simp only [Device.canonical_mk]
    | with_reducible apply Device.stores_canonical
    | with_reducible apply stores_canonical_filter
    | with_reducible apply stores_canonical_mem
    | with_reducible apply stores_canonical_clear
    | with_reducible apply Device.reset_canonical
    | with_reducible apply stores_canonical_sram
    | with_reducible apply stores_canonical_empty
    | split

theorem wdogExpire_canonical {d : Device} (h : d.Canonical) :
    Device.Canonical (wdogExpire d) := by
  unfold wdogExpire
  repeat' first
    | with_reducible assumption
    | with_reducible apply Device.wdogExpired_canonical
    | simp only [Device.canonical_mk]
    | with_reducible apply Device.stores_canonical
    | with_reducible apply stores_canonical_filter
    | with_reducible apply stores_canonical_mem
    | with_reducible apply stores_canonical_clear
    | with_reducible apply Device.reset_canonical
    | with_reducible apply stores_canonical_sram
    | with_reducible apply stores_canonical_empty
    | split

theorem chkTestInject_canonical {d : Device} (h : d.Canonical) (v : Half) :
    Device.Canonical (chkTestInject d v) := by
  unfold chkTestInject
  repeat' first
    | with_reducible assumption
    | with_reducible apply Device.reply_canonical
    | with_reducible apply Device.orReg_canonical
    | dsimp only
    | with_reducible apply Device.stores_canonical
    | with_reducible apply stores_canonical_filter
    | with_reducible apply stores_canonical_mem
    | with_reducible apply stores_canonical_clear
    | with_reducible apply Device.reset_canonical
    | with_reducible apply stores_canonical_sram
    | with_reducible apply stores_canonical_empty
    | split

theorem Device.vigilMiss_canonical {d : Device} (h : d.Canonical) (s : Nat) (production : Bool) :
    Device.Canonical (Device.vigilMiss d s production) := by
  unfold Device.vigilMiss
  repeat' first
    | with_reducible assumption
    | with_reducible apply Device.recordIf_canonical
    | with_reducible apply Device.orReg_canonical
    | with_reducible apply Device.latch_canonical
    | with_reducible apply Device.addCount_canonical
    | dsimp only
    | with_reducible apply Device.stores_canonical
    | with_reducible apply stores_canonical_filter
    | with_reducible apply stores_canonical_mem
    | with_reducible apply stores_canonical_clear
    | with_reducible apply Device.reset_canonical
    | with_reducible apply stores_canonical_sram
    | with_reducible apply stores_canonical_empty
    | split

theorem vglProduce_canonical {d : Device} (h : d.Canonical) (s : Nat) (v : Word) :
    Device.Canonical (vglProduce d s v) := by
  unfold vglProduce
  repeat' first
    | with_reducible assumption
    | with_reducible apply Device.reply_canonical
    | with_reducible apply Device.produced_canonical
    | dsimp only
    | with_reducible apply Device.stores_canonical
    | with_reducible apply stores_canonical_filter
    | with_reducible apply stores_canonical_mem
    | with_reducible apply stores_canonical_clear
    | with_reducible apply Device.reset_canonical
    | with_reducible apply stores_canonical_sram
    | with_reducible apply stores_canonical_empty
    | split

theorem vglConsume_canonical {d : Device} (h : d.Canonical) (s : Nat) (v : Word) :
    Device.Canonical (vglConsume d s v) := by
  unfold vglConsume
  repeat' first
    | with_reducible assumption
    | with_reducible apply Device.reply_canonical
    | with_reducible apply Device.vigilMiss_canonical
    | dsimp only
    | with_reducible apply Device.stores_canonical
    | with_reducible apply stores_canonical_filter
    | with_reducible apply stores_canonical_mem
    | with_reducible apply stores_canonical_clear
    | with_reducible apply Device.reset_canonical
    | with_reducible apply stores_canonical_sram
    | with_reducible apply stores_canonical_empty
    | split

theorem productionMiss_canonical {d : Device} (h : d.Canonical) (s : Nat) :
    Device.Canonical (productionMiss d s) := by
  unfold productionMiss
  repeat' first
    | with_reducible assumption
    | with_reducible apply Device.vigilMiss_canonical
    | simp only [Device.canonical_mk]
    | with_reducible apply Device.stores_canonical
    | with_reducible apply stores_canonical_filter
    | with_reducible apply stores_canonical_mem
    | with_reducible apply stores_canonical_clear
    | with_reducible apply Device.reset_canonical
    | with_reducible apply stores_canonical_sram
    | with_reducible apply stores_canonical_empty
    | split

theorem islandWrite_canonical {d : Device} (h : d.Canonical) (who : Who) (f : Device → Device) (h1 : ∀ d, d.Canonical → (f d).Canonical) :
    Device.Canonical (islandWrite who f d) := by
  unfold islandWrite
  repeat' first
    | with_reducible assumption
    | with_reducible apply h1
    | with_reducible apply Device.deny_canonical
    | simp only [Device.canonical_mk]
    | with_reducible apply Device.stores_canonical
    | with_reducible apply stores_canonical_filter
    | with_reducible apply stores_canonical_mem
    | with_reducible apply stores_canonical_clear
    | with_reducible apply Device.reset_canonical
    | with_reducible apply stores_canonical_sram
    | with_reducible apply stores_canonical_empty
    | split

theorem execLockstepMismatch_canonical (pair : Fin 12) {s₁ s₂ : State} (h : s₁.dev.Canonical)
    (e : execLockstepMismatch pair s₁ = .next s₂) : s₂.dev.Canonical := by
  unfold execLockstepMismatch at e
  refine actLive_canonical (fun d h => ?_) h e
  repeat' first
    | with_reducible assumption
    | with_reducible apply lockstepMismatch_canonical

theorem execIslandLockstepMismatch_canonical (pair : Fin 2) (fromSram : Bool) {s₁ s₂ : State} (h : s₁.dev.Canonical)
    (e : execIslandLockstepMismatch pair fromSram s₁ = .next s₂) : s₂.dev.Canonical := by
  unfold execIslandLockstepMismatch at e
  refine actLive_canonical (fun d h => ?_) h e
  repeat' first
    | with_reducible assumption
    | with_reducible apply islandLockstepMismatch_canonical

theorem execHostCacheUe_canonical (cache : HostCache) (hart : Fin 24) (addr : Nat) {s₁ s₂ : State} (h : s₁.dev.Canonical)
    (e : execHostCacheUe cache hart s₁ addr = .next s₂) : s₂.dev.Canonical := by
  unfold execHostCacheUe at e
  refine actLive_canonical (fun d h => ?_) h e
  repeat' first
    | with_reducible assumption
    | with_reducible apply hostCacheUe_canonical

theorem execHostPairReset_canonical (who : Who) (value : Half) (pass : BitVec 12) {s₁ s₂ : State} (h : s₁.dev.Canonical)
    (e : execHostPairReset who value pass s₁ = .next s₂) : s₂.dev.Canonical := by
  unfold execHostPairReset at e
  refine actBy_canonical (fun d h => ?_) h e
  repeat' first
    | with_reducible assumption
    | with_reducible apply islandWrite_canonical
    | with_reducible apply hostPairReset_canonical
    | simp only [Device.canonical_mk]
    | with_reducible apply Device.stores_canonical
    | simp only [Did.canonical_done]
    | split
    | with_reducible apply foldl_canonical
    | intro _

theorem execManagementPoll_canonical (answers : List PollAnswer) {s₁ s₂ : State} (h : s₁.dev.Canonical)
    (e : execManagementPoll answers s₁ = .next s₂) : s₂.dev.Canonical := by
  unfold execManagementPoll at e
  refine actPaced_canonical (fun d h => ?_) h e
  repeat' first
    | with_reducible assumption
    | with_reducible apply managementPoll_canonical

theorem execSafUnitOffSet_canonical (who : Who) (w : Fin 4) (value : Half) {s₁ s₂ : State} (h : s₁.dev.Canonical)
    (e : execSafUnitOffSet who w value s₁ = .next s₂) : s₂.dev.Canonical := by
  unfold execSafUnitOffSet at e
  refine actBy_canonical (fun d h => ?_) h e
  repeat' first
    | with_reducible assumption
    | with_reducible apply islandWrite_canonical
    | with_reducible apply safUnitOffSet_canonical
    | simp only [Device.canonical_mk]
    | with_reducible apply Device.stores_canonical
    | simp only [Did.canonical_done]
    | split
    | with_reducible apply foldl_canonical
    | intro _

theorem execSafUnitOffClr_canonical (who : Who) (w : Fin 4) (value : Half) {s₁ s₂ : State} (h : s₁.dev.Canonical)
    (e : execSafUnitOffClr who w value s₁ = .next s₂) : s₂.dev.Canonical := by
  unfold execSafUnitOffClr at e
  refine actBy_canonical (fun d h => ?_) h e
  repeat' first
    | with_reducible assumption
    | with_reducible apply islandWrite_canonical
    | with_reducible apply safUnitOffClr_canonical
    | simp only [Device.canonical_mk]
    | with_reducible apply Device.stores_canonical
    | simp only [Did.canonical_done]
    | split
    | with_reducible apply foldl_canonical
    | intro _

theorem execWdogEnable_canonical (who : Who) (value : Half) {s₁ s₂ : State} (h : s₁.dev.Canonical)
    (e : execWdogEnable who value s₁ = .next s₂) : s₂.dev.Canonical := by
  unfold execWdogEnable at e
  refine actBy_canonical (fun d h => ?_) h e
  repeat' first
    | with_reducible assumption
    | with_reducible apply islandWrite_canonical
    | with_reducible apply wdogEnable_canonical
    | simp only [Device.canonical_mk]
    | with_reducible apply Device.stores_canonical
    | simp only [Did.canonical_done]
    | split
    | with_reducible apply foldl_canonical
    | intro _

theorem execWdogKick_canonical (who : Who) (value : Half) {s₁ s₂ : State} (h : s₁.dev.Canonical)
    (e : execWdogKick who value s₁ = .next s₂) : s₂.dev.Canonical := by
  unfold execWdogKick at e
  refine actBy_canonical (fun d h => ?_) h e
  repeat' first
    | with_reducible assumption
    | with_reducible apply islandWrite_canonical
    | with_reducible apply wdogKick_canonical
    | simp only [Device.canonical_mk]
    | with_reducible apply Device.stores_canonical
    | simp only [Did.canonical_done]
    | split
    | with_reducible apply foldl_canonical
    | intro _

theorem execWdogHalfPeriod_canonical {s₁ s₂ : State} (h : s₁.dev.Canonical)
    (e : execWdogHalfPeriod  s₁ = .next s₂) : s₂.dev.Canonical := by
  unfold execWdogHalfPeriod at e
  refine actLive_canonical (fun d h => ?_) h e
  repeat' first
    | with_reducible assumption
    | with_reducible apply wdogHalfPeriod_canonical

theorem execWdogExpire_canonical {s₁ s₂ : State} (h : s₁.dev.Canonical)
    (e : execWdogExpire  s₁ = .next s₂) : s₂.dev.Canonical := by
  unfold execWdogExpire at e
  refine actLive_canonical (fun d h => ?_) h e
  repeat' first
    | with_reducible assumption
    | with_reducible apply wdogExpire_canonical

theorem execChkTestInject_canonical (who : Who) (value : Half) {s₁ s₂ : State} (h : s₁.dev.Canonical)
    (e : execChkTestInject who value s₁ = .next s₂) : s₂.dev.Canonical := by
  unfold execChkTestInject at e
  refine actBy_canonical (fun d h => ?_) h e
  repeat' first
    | with_reducible assumption
    | with_reducible apply chkTestInject_canonical

theorem execVglProduce_canonical (who : Who) (stream : Fin 512) (value : Word) {s₁ s₂ : State} (h : s₁.dev.Canonical)
    (e : execVglProduce who stream value s₁ = .next s₂) : s₂.dev.Canonical := by
  unfold execVglProduce at e
  refine actBy_canonical (fun d h => ?_) h e
  repeat' first
    | with_reducible assumption
    | with_reducible apply vglProduce_canonical

theorem execVglConsume_canonical (who : Who) (stream : Fin 512) (value : Word) {s₁ s₂ : State} (h : s₁.dev.Canonical)
    (e : execVglConsume who stream value s₁ = .next s₂) : s₂.dev.Canonical := by
  unfold execVglConsume at e
  refine actBy_canonical (fun d h => ?_) h e
  repeat' first
    | with_reducible assumption
    | with_reducible apply vglConsume_canonical

theorem execProductionMiss_canonical (stream : Fin 512) {s₁ s₂ : State} (h : s₁.dev.Canonical)
    (e : execProductionMiss stream s₁ = .next s₂) : s₂.dev.Canonical := by
  unfold execProductionMiss at e
  refine actLive_canonical (fun d h => ?_) h e
  repeat' first
    | with_reducible assumption
    | with_reducible apply productionMiss_canonical

end Sys2Proof.Machine
end

