-- ==== Sys2Proof/Laws/CanonRegisters.lean ====
section
/-!
SUPPORT. The operations and meanings of Machine/Registers.lean keep the stores canonical.
-/

namespace Sys2Proof.Machine

theorem Device.plainWrite_canonical {d : Device} (h : d.Canonical) (who : Who) (r : RegRow) (a : Nat) (v : Word) :
    Device.Canonical (Device.plainWrite d who r a v) := by
  unfold Device.plainWrite
  repeat' first
    | with_reducible assumption
    | with_reducible apply Device.reply_canonical
    | with_reducible apply Device.dropRecords_canonical
    | with_reducible apply Device.setReg_canonical

theorem secCmd_canonical {d : Device} (h : d.Canonical) (who : Who) (v : Half) :
    Device.Canonical (secCmd d who v) := by
  unfold secCmd
  repeat' first
    | with_reducible assumption
    | with_reducible apply attest_canonical
    | with_reducible apply Device.reply_canonical
    | with_reducible apply raiseFloor_canonical
    | with_reducible apply Device.deny_canonical
    | simp only [Device.canonical_mk]
    | with_reducible apply Device.stores_canonical
    | with_reducible apply stores_canonical_filter
    | with_reducible apply stores_canonical_mem
    | with_reducible apply stores_canonical_clear
    | with_reducible apply Device.reset_canonical
    | with_reducible apply stores_canonical_sram
    | with_reducible apply stores_canonical_empty
    | split

theorem adminCtrlWrite_canonical {d : Device} (h : d.Canonical) (v : Half) :
    Device.Canonical (adminCtrlWrite d v) := by
  unfold adminCtrlWrite
  repeat' first
    | with_reducible assumption
    | with_reducible apply adminRingEnable_canonical
    | with_reducible apply adminRingDisable_canonical
    | simp only [Device.canonical_mk]
    | with_reducible apply Device.stores_canonical
    | with_reducible apply stores_canonical_filter
    | with_reducible apply stores_canonical_mem
    | with_reducible apply stores_canonical_clear
    | with_reducible apply Device.reset_canonical
    | with_reducible apply stores_canonical_sram
    | with_reducible apply stores_canonical_empty
    | split

theorem Device.canCtrlWrite_canonical {d : Device} (h : d.Canonical) (who : Who) (r : RegRow) (a : Nat) (v : Word) :
    Device.Canonical (Device.canCtrlWrite d who r a v) := by
  unfold Device.canCtrlWrite
  repeat' first
    | with_reducible assumption
    | with_reducible apply Device.plainWrite_canonical
    | with_reducible apply Device.setCan_canonical
    | dsimp only
    | with_reducible apply Device.stores_canonical
    | with_reducible apply stores_canonical_filter
    | with_reducible apply stores_canonical_mem
    | with_reducible apply stores_canonical_clear
    | with_reducible apply Device.reset_canonical
    | with_reducible apply stores_canonical_sram
    | with_reducible apply stores_canonical_empty
    | split

theorem Device.writeRow_canonical {d : Device} (h : d.Canonical) (who : Who) (r : RegRow) (a : Nat) (v : Word) :
    Device.Canonical (Device.writeRow d who r a v) := by
  unfold Device.writeRow
  repeat' first
    | with_reducible assumption
    | with_reducible apply cfgCmd_canonical
    | with_reducible apply cfgOppReq_canonical
    | with_reducible apply cfgCtlOutSet_canonical
    | with_reducible apply cfgCtlOutClr_canonical
    | with_reducible apply almIncrWrite_canonical
    | with_reducible apply almLeapWrite_canonical
    | with_reducible apply Device.afterFirings_canonical
    | with_reducible apply Device.plainWrite_canonical
    | with_reducible apply almCmpPeriodWrite_canonical
    | with_reducible apply hrdSrcWrite_canonical
    | with_reducible apply hrdPendSet_canonical
    | with_reducible apply hrdPendClr_canonical
    | with_reducible apply Device.onTarget_canonical
    | with_reducible apply Device.reply_canonical
    | with_reducible apply hrdEnSet_canonical
    | with_reducible apply hrdEnClr_canonical
    | with_reducible apply hrdThreshold_canonical
    | with_reducible apply hrdComplete_canonical
    | with_reducible apply hrdMtimecmp_canonical
    | with_reducible apply vglConsume_canonical
    | with_reducible apply vglProduce_canonical
    | with_reducible apply adminCtrlWrite_canonical
    | with_reducible apply sqTailWrite_canonical
    | with_reducible apply cqHeadWrite_canonical
    | with_reducible apply Device.canCtrlWrite_canonical
    | with_reducible apply qTailWrite_canonical
    | with_reducible apply qSeenWrite_canonical
    | with_reducible apply csiSrelWrite_canonical
    | with_reducible apply wdogEnable_canonical
    | with_reducible apply wdogKick_canonical
    | with_reducible apply hostPairReset_canonical
    | with_reducible apply safUnitOffSet_canonical
    | with_reducible apply safUnitOffClr_canonical
    | with_reducible apply chkTestInject_canonical
    | with_reducible apply secCmd_canonical
    | dsimp only
    | with_reducible apply Device.stores_canonical
    | with_reducible apply stores_canonical_filter
    | with_reducible apply stores_canonical_mem
    | with_reducible apply stores_canonical_clear
    | with_reducible apply Device.reset_canonical
    | with_reducible apply stores_canonical_sram
    | with_reducible apply stores_canonical_empty
    | split
    | dsimp only
    | with_reducible apply foldl_canonical
    | intro _

theorem Device.readClears_canonical {d : Device} (h : d.Canonical) (r : RegRow) (a : Nat) :
    Device.Canonical (Device.readClears d r a) := by
  unfold Device.readClears
  repeat' first
    | with_reducible assumption
    | with_reducible apply Device.setReg_canonical
    | dsimp only
    | with_reducible apply Device.stores_canonical
    | with_reducible apply stores_canonical_filter
    | with_reducible apply stores_canonical_mem
    | with_reducible apply stores_canonical_clear
    | with_reducible apply Device.reset_canonical
    | with_reducible apply stores_canonical_sram
    | with_reducible apply stores_canonical_empty
    | split

theorem Device.readRow_canonical {d : Device} (h : d.Canonical) (who : Who) (r : RegRow) (a : Nat) :
    Device.Canonical (Device.readRow d who r a) := by
  unfold Device.readRow
  repeat' first
    | with_reducible assumption
    | with_reducible apply hrdClaim_canonical
    | with_reducible apply almNowRead_canonical
    | with_reducible apply Device.onTarget_canonical
    | with_reducible apply Device.reply_canonical
    | with_reducible apply Device.readClears_canonical
    | simp only [Device.canonical_mk]
    | with_reducible apply Device.stores_canonical
    | with_reducible apply stores_canonical_filter
    | with_reducible apply stores_canonical_mem
    | with_reducible apply stores_canonical_clear
    | with_reducible apply Device.reset_canonical
    | with_reducible apply stores_canonical_sram
    | with_reducible apply stores_canonical_empty
    | split
    | with_reducible apply foldl_canonical
    | intro _

theorem regWrite_canonical {d : Device} (h : d.Canonical) (who : Who) (a : Nat) (n : Nat) (v : Word) :
    Device.Canonical (regWrite d who a n v) := by
  unfold regWrite
  repeat' first
    | with_reducible assumption
    | with_reducible apply Device.deny_canonical
    | with_reducible apply Device.writeRow_canonical
    | with_reducible apply Device.reply_canonical
    | simp only [Device.canonical_mk]
    | with_reducible apply Device.stores_canonical
    | with_reducible apply stores_canonical_filter
    | with_reducible apply stores_canonical_mem
    | with_reducible apply stores_canonical_clear
    | with_reducible apply Device.reset_canonical
    | with_reducible apply stores_canonical_sram
    | with_reducible apply stores_canonical_empty
    | split

theorem regRead_canonical {d : Device} (h : d.Canonical) (who : Who) (a : Nat) (n : Nat) :
    Device.Canonical (regRead d who a n) := by
  unfold regRead
  repeat' first
    | with_reducible assumption
    | with_reducible apply Device.deny_canonical
    | with_reducible apply Device.readRow_canonical
    | with_reducible apply Device.reply_canonical
    | simp only [Device.canonical_mk]
    | with_reducible apply Device.stores_canonical
    | with_reducible apply stores_canonical_filter
    | with_reducible apply stores_canonical_mem
    | with_reducible apply stores_canonical_clear
    | with_reducible apply Device.reset_canonical
    | with_reducible apply stores_canonical_sram
    | with_reducible apply stores_canonical_empty
    | split

theorem pageWrite_canonical {d : Device} (h : d.Canonical) (who : Who) (t : Nat) (off : Nat) (v : Word) :
    Device.Canonical (pageWrite d who t off v) := by
  unfold pageWrite
  repeat' first
    | with_reducible assumption
    | with_reducible apply Device.reply_canonical
    | with_reducible apply sqTailWrite_canonical
    | with_reducible apply cqHeadWrite_canonical
    | dsimp only
    | with_reducible apply Device.stores_canonical
    | with_reducible apply stores_canonical_filter
    | with_reducible apply stores_canonical_mem
    | with_reducible apply stores_canonical_clear
    | with_reducible apply Device.reset_canonical
    | with_reducible apply stores_canonical_sram
    | with_reducible apply stores_canonical_empty
    | split

theorem pageRead_canonical {d : Device} (h : d.Canonical) (t : Nat) (off : Nat) :
    Device.Canonical (pageRead d t off) := by
  unfold pageRead
  repeat' first
    | with_reducible assumption
    | with_reducible apply Device.reply_canonical

theorem Device.uncachedStore_canonical {d : Device} (h : d.Canonical) (who : Who) (a : Nat) (bs : List Byte) (op : StoreOp) :
    Device.Canonical (Device.uncachedStore d who a bs op) := by
  unfold Device.uncachedStore
  repeat' first
    | with_reducible assumption
    | with_reducible apply Device.reply_canonical
    | with_reducible apply Device.wr_canonical
    | with_reducible apply Device.deny_canonical
    | simp only [Device.canonical_mk]
    | with_reducible apply Device.stores_canonical
    | with_reducible apply stores_canonical_filter
    | with_reducible apply stores_canonical_mem
    | with_reducible apply stores_canonical_clear
    | with_reducible apply Device.reset_canonical
    | with_reducible apply stores_canonical_sram
    | with_reducible apply stores_canonical_empty
    | split

theorem Device.memoryStore_canonical {d : Device} (h : d.Canonical) (who : Who) (a : Nat) (bs : List Byte) (op : StoreOp) (attr : PageAttr) :
    Device.Canonical (Device.memoryStore d who a bs op attr) := by
  unfold Device.memoryStore
  repeat' first
    | with_reducible assumption
    | with_reducible apply Device.cachedStore_canonical
    | with_reducible apply Device.via_canonical
    | with_reducible apply Device.uncachedStore_canonical
    | simp only [Device.canonical_mk]
    | with_reducible apply Device.stores_canonical
    | with_reducible apply stores_canonical_filter
    | with_reducible apply stores_canonical_mem
    | with_reducible apply stores_canonical_clear
    | with_reducible apply Device.reset_canonical
    | with_reducible apply stores_canonical_sram
    | with_reducible apply stores_canonical_empty
    | split
    | dsimp only
    | with_reducible apply foldl_canonical
    | intro _

theorem hartWrite_canonical {d : Device} (h : d.Canonical) (who : Who) (a : Nat) (n : Nat) (v : Word) (op : StoreOp) (attr : PageAttr) :
    Device.Canonical (hartWrite d who a n v op attr) := by
  unfold hartWrite
  repeat' first
    | with_reducible assumption
    | with_reducible apply Device.cacheBlock_canonical
    | with_reducible apply Device.deny_canonical
    | with_reducible apply Device.reply_canonical
    | with_reducible apply Device.emitWrites_canonical
    | with_reducible apply Device.wr_canonical
    | with_reducible apply Device.memoryStore_canonical
    | dsimp only
    | with_reducible apply Device.stores_canonical
    | with_reducible apply stores_canonical_filter
    | with_reducible apply stores_canonical_mem
    | with_reducible apply stores_canonical_clear
    | with_reducible apply Device.reset_canonical
    | with_reducible apply stores_canonical_sram
    | with_reducible apply stores_canonical_empty
    | split

theorem Device.uncachedRead_canonical {d : Device} (h : d.Canonical) (who : Who) (a : Nat) (n : Nat) (ecc : Ecc) :
    Device.Canonical (Device.uncachedRead d who a n ecc) := by
  unfold Device.uncachedRead
  repeat' first
    | with_reducible assumption
    | with_reducible apply Device.memEcc_canonical
    | with_reducible apply Device.deny_canonical
    | with_reducible apply Device.reply_canonical
    | dsimp only
    | with_reducible apply Device.stores_canonical
    | with_reducible apply stores_canonical_filter
    | with_reducible apply stores_canonical_mem
    | with_reducible apply stores_canonical_clear
    | with_reducible apply Device.reset_canonical
    | with_reducible apply stores_canonical_sram
    | with_reducible apply stores_canonical_empty
    | split

theorem Device.memoryRead_canonical {d : Device} (h : d.Canonical) (who : Who) (a : Nat) (n : Nat) (ecc : Ecc) (reserve : Bool) (attr : PageAttr) :
    Device.Canonical (Device.memoryRead d who a n ecc reserve attr) := by
  unfold Device.memoryRead
  repeat' first
    | with_reducible assumption
    | with_reducible apply Device.cachedRead_canonical
    | with_reducible apply Device.via_canonical
    | with_reducible apply Device.uncachedRead_canonical
    | simp only [Device.canonical_mk]
    | with_reducible apply Device.stores_canonical
    | with_reducible apply stores_canonical_filter
    | with_reducible apply stores_canonical_mem
    | with_reducible apply stores_canonical_clear
    | with_reducible apply Device.reset_canonical
    | with_reducible apply stores_canonical_sram
    | with_reducible apply stores_canonical_empty
    | split
    | dsimp only
    | with_reducible apply foldl_canonical
    | intro _

theorem hartRead_canonical {d : Device} (h : d.Canonical) (who : Who) (a : Nat) (n : Nat) (ecc : Ecc) (reserve : Bool) (attr : PageAttr) :
    Device.Canonical (hartRead d who a n ecc reserve attr) := by
  unfold hartRead
  repeat' first
    | with_reducible assumption
    | with_reducible apply Device.deny_canonical
    | with_reducible apply Device.emitRead_canonical
    | with_reducible apply Device.uncachedRead_canonical
    | with_reducible apply Device.memoryRead_canonical
    | simp only [Device.canonical_mk]
    | with_reducible apply Device.stores_canonical
    | with_reducible apply stores_canonical_filter
    | with_reducible apply stores_canonical_mem
    | with_reducible apply stores_canonical_clear
    | with_reducible apply Device.reset_canonical
    | with_reducible apply stores_canonical_sram
    | with_reducible apply stores_canonical_empty
    | split

theorem Device.ioBlock_canonical {d : Device} (h : d.Canonical) (who : Who) (op : StoreOp) :
    Device.Canonical (Device.ioBlock d who op) := by
  unfold Device.ioBlock
  repeat' first
    | with_reducible assumption
    | with_reducible apply Device.reply_canonical
    | with_reducible apply Device.deny_canonical
    | simp only [Device.canonical_mk]
    | with_reducible apply Device.stores_canonical
    | with_reducible apply stores_canonical_filter
    | with_reducible apply stores_canonical_mem
    | with_reducible apply stores_canonical_clear
    | with_reducible apply Device.reset_canonical
    | with_reducible apply stores_canonical_sram
    | with_reducible apply stores_canonical_empty
    | split

theorem busWrite_canonical {d : Device} (h : d.Canonical) (who : Who) (a : Nat) (n : Nat) (v : Word) (op : StoreOp) (attr : PageAttr) :
    Device.Canonical (busWrite d who a n v op attr) := by
  unfold busWrite
  repeat' first
    | with_reducible assumption
    | with_reducible apply Device.deny_canonical
    | with_reducible apply regWrite_canonical
    | with_reducible apply Device.ioBlock_canonical
    | with_reducible apply pageWrite_canonical
    | with_reducible apply hartWrite_canonical
    | simp only [Device.canonical_mk]
    | with_reducible apply Device.stores_canonical
    | with_reducible apply stores_canonical_filter
    | with_reducible apply stores_canonical_mem
    | with_reducible apply stores_canonical_clear
    | with_reducible apply Device.reset_canonical
    | with_reducible apply stores_canonical_sram
    | with_reducible apply stores_canonical_empty
    | split

theorem busRead_canonical {d : Device} (h : d.Canonical) (who : Who) (a : Nat) (n : Nat) (ecc : Ecc) (reserve : Bool) (attr : PageAttr) :
    Device.Canonical (busRead d who a n ecc reserve attr) := by
  unfold busRead
  repeat' first
    | with_reducible assumption
    | with_reducible apply Device.deny_canonical
    | with_reducible apply regRead_canonical
    | with_reducible apply pageRead_canonical
    | with_reducible apply hartRead_canonical
    | simp only [Device.canonical_mk]
    | with_reducible apply Device.stores_canonical
    | with_reducible apply stores_canonical_filter
    | with_reducible apply stores_canonical_mem
    | with_reducible apply stores_canonical_clear
    | with_reducible apply Device.reset_canonical
    | with_reducible apply stores_canonical_sram
    | with_reducible apply stores_canonical_empty
    | split

theorem execRegisterWrite_canonical (who : Who) (addr : Nat) (bytes : Nat) (value : Word) (op : StoreOp) (hart : HartUse) {s₁ s₂ : State} (h : s₁.dev.Canonical)
    (e : execRegisterWrite who addr bytes value s₁ op hart = .next s₂) : s₂.dev.Canonical := by
  unfold execRegisterWrite at e
  refine actBy_canonical (fun d h => ?_) h e
  repeat' first
    | with_reducible assumption
    | with_reducible apply busWrite_canonical
    | with_reducible apply Device.hartCe_canonical

theorem execReadClear_canonical (who : Who) (addr : Nat) (bytes : Nat) (ecc : Ecc) (reserve : Bool) (hart : HartUse) {s₁ s₂ : State} (h : s₁.dev.Canonical)
    (e : execReadClear who addr bytes ecc s₁ reserve hart = .next s₂) : s₂.dev.Canonical := by
  unfold execReadClear at e
  refine act_canonical (fun d h => ?_) h e
  repeat' first
    | with_reducible assumption
    | with_reducible apply busRead_canonical
    | with_reducible apply Device.hartCe_canonical
    | simp only [Device.canonical_mk]
    | with_reducible apply Device.stores_canonical
    | simp only [Did.canonical_done]
    | split

end Sys2Proof.Machine
end

