-- ==== Sys2Proof/Laws/CanonSaveRestore.lean ====
section
/-!
SUPPORT. The operations and meanings of Machine/SaveRestore.lean keep the stores canonical.
-/

namespace Sys2Proof.Machine

theorem save_canonical {d : Device} (h : d.Canonical) (x : QDesc) :
    Device.Canonical (save d x) := by
  unfold save
  repeat' first
    | with_reducible assumption
    | with_reducible apply Device.refuse_canonical
    | with_reducible apply Device.finish_canonical
    | with_reducible apply Device.via_canonical
    | with_reducible apply Device.coWrite_canonical
    | dsimp only
    | with_reducible apply Device.stores_canonical
    | with_reducible apply stores_canonical_filter
    | with_reducible apply stores_canonical_mem
    | with_reducible apply stores_canonical_clear
    | with_reducible apply Device.reset_canonical
    | with_reducible apply stores_canonical_sram
    | with_reducible apply stores_canonical_empty
    | split
    | dsimp only
    | with_reducible apply foldl_canonical
    | intro _

theorem Device.restoreWindows_canonical (t : Nat) (rec : List Byte) (l : List Nat) {d : Device} (h : d.Canonical) {d' : Device}
    (e : d.restoreWindows t rec l = some d') : d'.Canonical := by
  induction l generalizing d with
  | nil => cases e; exact h
  | cons i l ih =>
    unfold Device.restoreWindows at e
    split at e
    · exact ih h e
    · split at e
      · exact ih (Device.setTen_canonical h _ _) e
      · cases e

theorem Device.restoreRings_canonical (t : Nat) (rec : List Byte) (l : List Nat) {d : Device} (h : d.Canonical) {d' : Device}
    (e : d.restoreRings t rec l = some d') : d'.Canonical := by
  induction l generalizing d with
  | nil => cases e; exact h
  | cons i l ih =>
    unfold Device.restoreRings at e
    dsimp only at e
    split at e
    · exact ih h e
    · split at e
      · exact ih (Device.setRing_canonical h _ _) e
      · cases e

theorem Device.restoreCtxs_canonical (t : Nat) (l : List (Nat × Nat × Nat × List Byte)) {d : Device} (h : d.Canonical)
    {d' : Device} (e : d.restoreCtxs t l = some d') : d'.Canonical := by
  induction l generalizing d with
  | nil => cases e; exact h
  | cons i l ih =>
    unfold Device.restoreCtxs at e
    split at e
    · exact ih (Device.rerun_canonical (Device.bindCtx_canonical h _ _ _ _) _) e
    · cases e

theorem Device.readmit_canonical {d : Device} (h : d.Canonical) {im : List (Nat × List Byte)} {t r c i : Nat} {l : List Byte} {d' : Device}
    (e : d.readmit im t r c i l = .inr d') : d'.Canonical := by
  unfold Device.readmit at e
  dsimp only at e
  repeat' split at e
  all_goals cases e
  exact foldl_canonical (fun _ _ hd => Device.copyIn_canonical hd _ _ _) _ (Device.setCtx_canonical h _ _)

theorem Device.readmitAll_canonical (im : List (Nat × List Byte)) (t : Nat) (l : List (Nat × Nat × Nat × List Byte)) {d : Device}
    (h : d.Canonical) {d' : Device} (e : d.readmitAll im t l = .inr d') : d'.Canonical := by
  induction l generalizing d with
  | nil => cases e; exact h
  | cons i l ih =>
    unfold Device.readmitAll at e
    split at e
    · exact ih h e
    · split at e
      · cases e
      · exact ih (Device.readmit_canonical h ‹_›) e

theorem Device.rebuild_canonical {d : Device} (h : d.Canonical) {im : List (Nat × List Byte)} {t : Nat} {rec : List Byte} {d' : Device}
    (e : d.rebuild im t rec = .inr d') : d'.Canonical := by
  unfold Device.rebuild at e
  repeat' split at e
  all_goals try cases e
  exact Device.readmitAll_canonical _ _ _ (Device.restoreCtxs_canonical _ _ (Device.restoreRings_canonical _ _ _
    (Device.restoreWindows_canonical _ _ _ h ‹_›) ‹_›) ‹_›) e

theorem Device.restoreFrom_canonical {d : Device} (h : d.Canonical) (t : Nat) (rec : List Byte) (im : List (Nat × List Byte))
    (l : List Nat) : (d.restoreFrom t rec im l).Canonical := by
  cases l with
  | nil =>
    rw [Device.restoreFrom]
    split
    · exact Device.refuse_canonical h _ _
    · exact Device.finish_canonical (Device.rebuild_canonical h ‹_›) _ _ _ _
  | cons a l =>
    rw [Device.restoreFrom]
    split
    · exact Device.setRing_canonical (Device.emitReads_canonical h _ _ _ _) _ _
    · exact Device.finish_canonical (Device.noteLink_canonical h _ _) _ _ _ _

theorem restoreArrived_canonical {d : Device} (h : d.Canonical) :
    Device.Canonical (restoreArrived d) := by
  unfold restoreArrived
  repeat' first
    | with_reducible assumption
    | with_reducible apply Device.emitReads_canonical
    | with_reducible apply Device.restoreFrom_canonical
    | dsimp only
    | with_reducible apply Device.stores_canonical
    | with_reducible apply stores_canonical_filter
    | with_reducible apply stores_canonical_mem
    | with_reducible apply stores_canonical_clear
    | with_reducible apply Device.reset_canonical
    | with_reducible apply stores_canonical_sram
    | with_reducible apply stores_canonical_empty
    | split

theorem restore_canonical {d : Device} (h : d.Canonical) (x : QDesc) (ecc : Ecc) :
    Device.Canonical (restore d x ecc) := by
  unfold restore
  repeat' first
    | with_reducible assumption
    | with_reducible apply Device.refuse_canonical
    | with_reducible apply Device.finish_canonical
    | with_reducible apply Device.via_canonical
    | with_reducible apply Device.descEcc_canonical
    | with_reducible apply Device.restoreFrom_canonical
    | dsimp only
    | with_reducible apply Device.stores_canonical
    | with_reducible apply stores_canonical_filter
    | with_reducible apply stores_canonical_mem
    | with_reducible apply stores_canonical_clear
    | with_reducible apply Device.reset_canonical
    | with_reducible apply stores_canonical_sram
    | with_reducible apply stores_canonical_empty
    | split
    | dsimp only
    | with_reducible apply foldl_canonical
    | intro _

theorem execSave_canonical {s₁ s₂ : State} (h : s₁.dev.Canonical)
    (e : execSave  s₁ = .next s₂) : s₂.dev.Canonical := by
  unfold execSave at e
  refine actLive_canonical (fun d h => ?_) h e
  repeat' first
    | with_reducible assumption
    | with_reducible apply Device.onHead_canonical
    | with_reducible apply save_canonical
    | simp only [Device.canonical_mk]
    | with_reducible apply Device.stores_canonical
    | simp only [Did.canonical_done]
    | split
    | with_reducible apply foldl_canonical
    | intro _

theorem execRestore_canonical (ecc : Ecc) {s₁ s₂ : State} (h : s₁.dev.Canonical)
    (e : execRestore s₁ ecc = .next s₂) : s₂.dev.Canonical := by
  unfold execRestore at e
  refine actLive_canonical (fun d h => ?_) h e
  repeat' first
    | with_reducible assumption
    | with_reducible apply Device.onHead_canonical
    | with_reducible apply restore_canonical
    | simp only [Device.canonical_mk]
    | with_reducible apply Device.stores_canonical
    | simp only [Did.canonical_done]
    | split
    | with_reducible apply foldl_canonical
    | intro _

end Sys2Proof.Machine
end

