-- ==== Sys2Proof/Laws/CanonPcie.lean ====
section
/-!
SUPPORT. The operations and meanings of Machine/Pcie.lean keep the stores canonical.
-/

namespace Sys2Proof.Machine

theorem Device.dropTwin_canonical {d : Device} (h : d.Canonical) (l : Nat) :
    Device.Canonical (Device.dropTwin d l) := by
  unfold Device.dropTwin
  repeat' first
    | with_reducible assumption
    | with_reducible apply Device.setTwin_canonical

theorem pcieLinkChange_canonical {d : Device} (h : d.Canonical) (pc : Pc) (link : Nat) (up : Bool) :
    Device.Canonical (pcieLinkChange d pc link up) := by
  unfold pcieLinkChange
  repeat' first
    | with_reducible assumption
    | with_reducible apply Device.raise_canonical
    | with_reducible apply Device.dropTwin_canonical
    | with_reducible apply Device.releaseMsi_canonical
    | simp only [Device.canonical_mk]
    | with_reducible apply Device.stores_canonical
    | with_reducible apply stores_canonical_filter
    | with_reducible apply stores_canonical_mem
    | with_reducible apply stores_canonical_clear
    | with_reducible apply Device.reset_canonical
    | with_reducible apply stores_canonical_sram
    | with_reducible apply stores_canonical_empty
    | split

theorem msiEnabled_canonical {d : Device} (h : d.Canonical) (pc : Pc) :
    Device.Canonical (msiEnabled d pc) := by
  unfold msiEnabled
  repeat' first
    | with_reducible assumption
    | with_reducible apply Device.releaseMsi_canonical
    | simp only [Device.canonical_mk]
    | with_reducible apply Device.stores_canonical
    | with_reducible apply stores_canonical_filter
    | with_reducible apply stores_canonical_mem
    | with_reducible apply stores_canonical_clear
    | with_reducible apply Device.reset_canonical
    | with_reducible apply stores_canonical_sram
    | with_reducible apply stores_canonical_empty
    | split

theorem rootPortMsi_canonical {d : Device} (h : d.Canonical) (pc : Pc) (addr : Word) (bytes : Nat) (data : Half) :
    Device.Canonical (rootPortMsi d pc addr bytes data) := by
  unfold rootPortMsi
  repeat' first
    | with_reducible assumption
    | with_reducible apply Device.raise_canonical
    | with_reducible apply Device.emit_canonical
    | simp only [Device.canonical_mk]
    | with_reducible apply Device.stores_canonical
    | with_reducible apply stores_canonical_filter
    | with_reducible apply stores_canonical_mem
    | with_reducible apply stores_canonical_clear
    | with_reducible apply Device.reset_canonical
    | with_reducible apply stores_canonical_sram
    | with_reducible apply stores_canonical_empty
    | split

theorem intxMessage_canonical {d : Device} (h : d.Canonical) (pc : Pc) (line : Nat) (assert : Bool) :
    Device.Canonical (intxMessage d pc line assert) := by
  unfold intxMessage
  repeat' first
    | with_reducible assumption
    | simp only [Device.canonical_mk]
    | with_reducible apply Device.stores_canonical
    | with_reducible apply stores_canonical_filter
    | with_reducible apply stores_canonical_mem
    | with_reducible apply stores_canonical_clear
    | with_reducible apply Device.reset_canonical
    | with_reducible apply stores_canonical_sram
    | with_reducible apply stores_canonical_empty
    | split

theorem Device.dropOutbound_canonical {d : Device} (h : d.Canonical) (id : Nat) :
    Device.Canonical (Device.dropOutbound d id) := by
  unfold Device.dropOutbound
  repeat' first
    | with_reducible assumption
    | simp only [Device.canonical_mk]
    | with_reducible apply Device.stores_canonical

theorem Device.imageData_canonical {d : Device} (h : d.Canonical) (k : RingRef) (data : List Byte) :
    Device.Canonical (Device.imageData d k data) := by
  unfold Device.imageData
  repeat' first
    | with_reducible assumption
    | with_reducible apply Device.setRing_canonical
    | with_reducible apply imageArrived_canonical
    | dsimp only
    | with_reducible apply Device.stores_canonical
    | with_reducible apply stores_canonical_filter
    | with_reducible apply stores_canonical_mem
    | with_reducible apply stores_canonical_clear
    | with_reducible apply Device.reset_canonical
    | with_reducible apply stores_canonical_sram
    | with_reducible apply stores_canonical_empty
    | split

theorem Device.restoreData_canonical {d : Device} (h : d.Canonical) (k : RingRef) (data : List Byte) :
    Device.Canonical (Device.restoreData d k data) := by
  unfold Device.restoreData
  repeat' first
    | with_reducible assumption
    | with_reducible apply Device.setRing_canonical
    | with_reducible apply restoreArrived_canonical
    | dsimp only
    | with_reducible apply Device.stores_canonical
    | with_reducible apply stores_canonical_filter
    | with_reducible apply stores_canonical_mem
    | with_reducible apply stores_canonical_clear
    | with_reducible apply Device.reset_canonical
    | with_reducible apply stores_canonical_sram
    | with_reducible apply stores_canonical_empty
    | split

theorem Device.queueBytes_canonical {d : Device} (h : d.Canonical) (q : Nat) (data : List Byte) :
    Device.Canonical (Device.queueBytes d q data) := by
  unfold Device.queueBytes
  repeat' first
    | with_reducible assumption
    | with_reducible apply Device.setQueue_canonical
    | with_reducible apply queueSend_canonical
    | dsimp only
    | with_reducible apply Device.stores_canonical
    | with_reducible apply stores_canonical_filter
    | with_reducible apply stores_canonical_mem
    | with_reducible apply stores_canonical_clear
    | with_reducible apply Device.reset_canonical
    | with_reducible apply stores_canonical_sram
    | with_reducible apply stores_canonical_empty
    | split

theorem Device.outDone_canonical {d : Device} (h : d.Canonical) (w : OutOwner) (data : List Byte) :
    Device.Canonical (Device.outDone d w data) := by
  unfold Device.outDone
  repeat' first
    | with_reducible assumption
    | with_reducible apply Device.progress_canonical
    | with_reducible apply Device.setRing_canonical
    | with_reducible apply Device.imageData_canonical
    | with_reducible apply Device.enqueue_canonical
    | with_reducible apply Device.modRun_canonical
    | with_reducible apply Device.restoreData_canonical
    | with_reducible apply queueHas_canonical
    | with_reducible apply Device.queueBytes_canonical
    | with_reducible apply Device.reply_canonical
    | dsimp only
    | with_reducible apply Device.stores_canonical
    | with_reducible apply stores_canonical_filter
    | with_reducible apply stores_canonical_mem
    | with_reducible apply stores_canonical_clear
    | with_reducible apply Device.reset_canonical
    | with_reducible apply stores_canonical_sram
    | with_reducible apply stores_canonical_empty
    | split

theorem Device.deliverReads_canonical {x1 : Device} (h : x1.Canonical) (x0 : Nat) (x2 : OutOwner) :
    Device.Canonical (Device.deliverReads x0 x1 x2) := by
  fun_induction Device.deliverReads x0 x1 x2
  repeat' first
    | with_reducible assumption
    | with_reducible apply_assumption
    | with_reducible apply Device.outDone_canonical

theorem Device.outArrived_canonical {d : Device} (h : d.Canonical) (o : Outbound) (data : List Byte) :
    Device.Canonical (Device.outArrived d o data) := by
  unfold Device.outArrived
  repeat' first
    | with_reducible assumption
    | with_reducible apply Device.deliverReads_canonical
    | simp only [Device.canonical_mk]
    | with_reducible apply Device.stores_canonical

theorem Device.outFailed_canonical {d : Device} (h : d.Canonical) (o : Outbound) (detail : Byte) :
    Device.Canonical (Device.outFailed d o detail) := by
  unfold Device.outFailed
  repeat' first
    | with_reducible assumption
    | with_reducible apply Device.linkFailed_canonical
    | with_reducible apply Device.stopRun_canonical
    | with_reducible apply Device.setBank_canonical
    | with_reducible apply Device.copyFailed_canonical
    | with_reducible apply Device.finish_canonical
    | with_reducible apply Device.ringFault_canonical
    | with_reducible apply qReadFailed_canonical
    | with_reducible apply Device.deny_canonical
    | simp only [Device.canonical_mk]
    | with_reducible apply Device.stores_canonical
    | with_reducible apply stores_canonical_filter
    | with_reducible apply stores_canonical_mem
    | with_reducible apply stores_canonical_clear
    | with_reducible apply Device.reset_canonical
    | with_reducible apply stores_canonical_sram
    | with_reducible apply stores_canonical_empty
    | split

theorem Device.outLatency_canonical {d : Device} (h : d.Canonical) (o : Outbound) :
    Device.Canonical (Device.outLatency d o) := by
  unfold Device.outLatency
  repeat' first
    | with_reducible assumption
    | with_reducible apply Device.checkWindowLatency_canonical
    | simp only [Device.canonical_mk]
    | with_reducible apply Device.stores_canonical
    | with_reducible apply stores_canonical_filter
    | with_reducible apply stores_canonical_mem
    | with_reducible apply stores_canonical_clear
    | with_reducible apply Device.reset_canonical
    | with_reducible apply stores_canonical_sram
    | with_reducible apply stores_canonical_empty
    | split

theorem outboundCompletion_canonical {d : Device} (h : d.Canonical) (id : Nat) (status : CplStatus) (data : List Byte) :
    Device.Canonical (outboundCompletion d id status data) := by
  unfold outboundCompletion
  repeat' first
    | with_reducible assumption
    | with_reducible apply Device.outLatency_canonical
    | with_reducible apply Device.outArrived_canonical
    | with_reducible apply Device.outFailed_canonical
    | dsimp only
    | with_reducible apply Device.stores_canonical
    | with_reducible apply stores_canonical_filter
    | with_reducible apply stores_canonical_mem
    | with_reducible apply stores_canonical_clear
    | with_reducible apply Device.reset_canonical
    | with_reducible apply stores_canonical_sram
    | with_reducible apply stores_canonical_empty
    | split

theorem outboundTimeout_canonical {d : Device} (h : d.Canonical) (id : Nat) :
    Device.Canonical (outboundTimeout d id) := by
  unfold outboundTimeout
  repeat' first
    | with_reducible assumption
    | with_reducible apply Device.outFailed_canonical
    | with_reducible apply Device.dropOutbound_canonical
    | simp only [Device.canonical_mk]
    | with_reducible apply Device.stores_canonical
    | with_reducible apply stores_canonical_filter
    | with_reducible apply stores_canonical_mem
    | with_reducible apply stores_canonical_clear
    | with_reducible apply Device.reset_canonical
    | with_reducible apply stores_canonical_sram
    | with_reducible apply stores_canonical_empty
    | split

theorem Device.rejectInbound_canonical {d : Device} (h : d.Canonical) (pc : Pc) (q : Inbound) (a : Nat) (cause : Nat) :
    Device.Canonical (Device.rejectInbound d pc q a cause) := by
  unfold Device.rejectInbound
  repeat' first
    | with_reducible assumption
    | with_reducible apply Device.recordIf_canonical
    | with_reducible apply Device.orReg_canonical
    | with_reducible apply Device.raise_canonical
    | with_reducible apply Device.emit_canonical
    | dsimp only
    | with_reducible apply Device.stores_canonical
    | with_reducible apply stores_canonical_filter
    | with_reducible apply stores_canonical_mem
    | with_reducible apply stores_canonical_clear
    | with_reducible apply Device.reset_canonical
    | with_reducible apply stores_canonical_sram
    | with_reducible apply stores_canonical_empty
    | split

theorem Device.completeInbound_canonical {d : Device} (h : d.Canonical) (pc : Pc) (q : Inbound) (status : Byte) (data : List Byte) :
    Device.Canonical (Device.completeInbound d pc q status data) := by
  unfold Device.completeInbound
  repeat' first
    | with_reducible assumption
    | with_reducible apply Device.emit_canonical
    | simp only [Device.canonical_mk]
    | with_reducible apply Device.stores_canonical
    | with_reducible apply stores_canonical_filter
    | with_reducible apply stores_canonical_mem
    | with_reducible apply stores_canonical_clear
    | with_reducible apply Device.reset_canonical
    | with_reducible apply stores_canonical_sram
    | with_reducible apply stores_canonical_empty
    | split

theorem Device.inboundAccess_canonical {d : Device} (h : d.Canonical) (pc : Pc) (q : Inbound) (a : Nat) :
    Device.Canonical (Device.inboundAccess d pc q a) := by
  unfold Device.inboundAccess
  repeat' first
    | with_reducible assumption
    | with_reducible apply busWrite_canonical
    | with_reducible apply Device.completeInbound_canonical
    | with_reducible apply busRead_canonical
    | dsimp only
    | with_reducible apply Device.stores_canonical
    | with_reducible apply stores_canonical_filter
    | with_reducible apply stores_canonical_mem
    | with_reducible apply stores_canonical_clear
    | with_reducible apply Device.reset_canonical
    | with_reducible apply stores_canonical_sram
    | with_reducible apply stores_canonical_empty
    | split

theorem Device.inboundMemory_canonical {d : Device} (h : d.Canonical) (pc : Pc) (q : Inbound) (a : Nat) :
    Device.Canonical (Device.inboundMemory d pc q a) := by
  unfold Device.inboundMemory
  repeat' first
    | with_reducible assumption
    | with_reducible apply Device.completeInbound_canonical
    | with_reducible apply Device.via_canonical
    | with_reducible apply Device.coWrite_canonical
    | with_reducible apply Device.logWrite_canonical
    | with_reducible apply Device.memEcc_canonical
    | with_reducible apply Device.dropLines_canonical
    | dsimp only
    | with_reducible apply Device.stores_canonical
    | with_reducible apply stores_canonical_filter
    | with_reducible apply stores_canonical_mem
    | with_reducible apply stores_canonical_clear
    | with_reducible apply Device.reset_canonical
    | with_reducible apply stores_canonical_sram
    | with_reducible apply stores_canonical_empty
    | split
    | dsimp only
    | with_reducible apply foldl_canonical
    | intro _

theorem Device.carryInbound_canonical {d : Device} (h : d.Canonical) (pc : Pc) (q : Inbound) (a : Nat) :
    Device.Canonical (Device.carryInbound d pc q a) := by
  unfold Device.carryInbound
  repeat' first
    | with_reducible assumption
    | with_reducible apply Device.inboundAccess_canonical
    | with_reducible apply Device.inboundMemory_canonical
    | simp only [Device.canonical_mk]
    | with_reducible apply Device.stores_canonical
    | with_reducible apply stores_canonical_filter
    | with_reducible apply stores_canonical_mem
    | with_reducible apply stores_canonical_clear
    | with_reducible apply Device.reset_canonical
    | with_reducible apply stores_canonical_sram
    | with_reducible apply stores_canonical_empty
    | split

theorem Device.noteChunk_canonical {d : Device} (h : d.Canonical) (pc : Pc) (q : Inbound) :
    Device.Canonical (Device.noteChunk d pc q) := by
  unfold Device.noteChunk
  repeat' first
    | with_reducible assumption
    | with_reducible apply Device.setTwin_canonical
    | dsimp only
    | with_reducible apply Device.stores_canonical
    | with_reducible apply stores_canonical_filter
    | with_reducible apply stores_canonical_mem
    | with_reducible apply stores_canonical_clear
    | with_reducible apply Device.reset_canonical
    | with_reducible apply stores_canonical_sram
    | with_reducible apply stores_canonical_empty
    | split

theorem inboundRequest_canonical {d : Device} (h : d.Canonical) (pc : Pc) (q : Inbound) :
    Device.Canonical (inboundRequest d pc q) := by
  unfold inboundRequest
  repeat' first
    | with_reducible assumption
    | with_reducible apply Device.emit_canonical
    | with_reducible apply Device.completeInbound_canonical
    | with_reducible apply rootPortMsi_canonical
    | with_reducible apply Device.noteChunk_canonical
    | with_reducible apply Device.rejectInbound_canonical
    | with_reducible apply Device.carryInbound_canonical
    | dsimp only
    | with_reducible apply Device.stores_canonical
    | with_reducible apply stores_canonical_filter
    | with_reducible apply stores_canonical_mem
    | with_reducible apply stores_canonical_clear
    | with_reducible apply Device.reset_canonical
    | with_reducible apply stores_canonical_sram
    | with_reducible apply stores_canonical_empty
    | split

theorem execPcieLinkChange_canonical (pc : Pc) (link : Fin 2) (up : Bool) {s₁ s₂ : State} (h : s₁.dev.Canonical)
    (e : execPcieLinkChange pc link up s₁ = .next s₂) : s₂.dev.Canonical := by
  unfold execPcieLinkChange at e
  refine actLive_canonical (fun d h => ?_) h e
  repeat' first
    | with_reducible assumption
    | with_reducible apply pcieLinkChange_canonical

theorem execOutboundCompletion_canonical (id : Nat) (status : CplStatus) (data : List Byte) {s₁ s₂ : State} (h : s₁.dev.Canonical)
    (e : execOutboundCompletion id status data s₁ = .next s₂) : s₂.dev.Canonical := by
  unfold execOutboundCompletion at e
  refine actLive_canonical (fun d h => ?_) h e
  repeat' first
    | with_reducible assumption
    | with_reducible apply outboundCompletion_canonical

theorem execOutboundTimeout_canonical (id : Nat) {s₁ s₂ : State} (h : s₁.dev.Canonical)
    (e : execOutboundTimeout id s₁ = .next s₂) : s₂.dev.Canonical := by
  unfold execOutboundTimeout at e
  refine actLive_canonical (fun d h => ?_) h e
  repeat' first
    | with_reducible assumption
    | with_reducible apply outboundTimeout_canonical

theorem execInboundRequest_canonical (pc : Pc) (req : Inbound) {s₁ s₂ : State} (h : s₁.dev.Canonical)
    (e : execInboundRequest pc req s₁ = .next s₂) : s₂.dev.Canonical := by
  unfold execInboundRequest at e
  refine actIf_canonical (fun d h => ?_) h e
  repeat' first
    | with_reducible assumption
    | with_reducible apply inboundRequest_canonical

theorem execRootPortMsi_canonical (pc : Pc) (busAddr : Word) (bytes : Nat) (data : Half) {s₁ s₂ : State} (h : s₁.dev.Canonical)
    (e : execRootPortMsi pc busAddr bytes data s₁ = .next s₂) : s₂.dev.Canonical := by
  unfold execRootPortMsi at e
  refine actLive_canonical (fun d h => ?_) h e
  repeat' first
    | with_reducible assumption
    | with_reducible apply rootPortMsi_canonical

theorem execIntxMessage_canonical (pc : Pc) (line : Fin 4) (assert : Bool) {s₁ s₂ : State} (h : s₁.dev.Canonical)
    (e : execIntxMessage pc line assert s₁ = .next s₂) : s₂.dev.Canonical := by
  unfold execIntxMessage at e
  refine actLive_canonical (fun d h => ?_) h e
  repeat' first
    | with_reducible assumption
    | with_reducible apply intxMessage_canonical

theorem execMsiEnabled_canonical (pc : Pc) {s₁ s₂ : State} (h : s₁.dev.Canonical)
    (e : execMsiEnabled pc s₁ = .next s₂) : s₂.dev.Canonical := by
  unfold execMsiEnabled at e
  refine actLive_canonical (fun d h => ?_) h e
  repeat' first
    | with_reducible assumption
    | with_reducible apply msiEnabled_canonical

end Sys2Proof.Machine
end

