-- ==== Sys2Proof/Laws/CanonTick.lean ====
section
/-!
SUPPORT. The operations and meanings of Machine/Tick.lean keep the stores canonical.
-/

namespace Sys2Proof.Machine

theorem Device.reissueAll_canonical {d : Device} (h : d.Canonical) :
    Device.Canonical (Device.reissueAll d) := by
  unfold Device.reissueAll
  repeat' first
    | with_reducible assumption
    | with_reducible apply Device.reissue_canonical
    | simp only [Device.canonical_mk]
    | with_reducible apply Device.stores_canonical
    | with_reducible apply stores_canonical_filter
    | with_reducible apply stores_canonical_mem
    | with_reducible apply stores_canonical_clear
    | with_reducible apply Device.reset_canonical
    | with_reducible apply stores_canonical_sram
    | with_reducible apply stores_canonical_empty
    | split
    | with_reducible apply foldl_canonical
    | intro _

theorem Device.drain_canonical {d : Device} (h : d.Canonical) :
    Device.Canonical (Device.drain d) := by
  unfold Device.drain
  repeat' first
    | with_reducible assumption
    | with_reducible apply Device.reissueAll_canonical
    | with_reducible apply Device.refill_canonical
    | with_reducible apply Device.settleBacks_canonical
    | with_reducible apply Device.flushBits_canonical

theorem Device.tick_canonical {d : Device} (h : d.Canonical) :
    Device.Canonical (Device.tick d) := by
  unfold Device.tick
  repeat' first
    | with_reducible assumption
    | with_reducible apply Device.almTick_canonical
    | with_reducible apply Device.sampleLines_canonical
    | with_reducible apply Device.offlineEgress_canonical
    | with_reducible apply Device.drain_canonical
    | dsimp only
    | with_reducible apply Device.stores_canonical
    | with_reducible apply stores_canonical_filter
    | with_reducible apply stores_canonical_mem
    | with_reducible apply stores_canonical_clear
    | with_reducible apply Device.reset_canonical
    | with_reducible apply stores_canonical_sram
    | with_reducible apply stores_canonical_empty
    | split

theorem execTick_canonical {s₁ s₂ : State} (h : s₁.dev.Canonical)
    (e : execTick  s₁ = .next s₂) : s₂.dev.Canonical := by
  unfold execTick at e
  refine actAon_canonical (fun d h => ?_) h e
  repeat' first
    | with_reducible assumption
    | with_reducible apply Device.tick_canonical

end Sys2Proof.Machine
end

