-- ==== Sys2Proof/Laws/CanonTwin.lean ====
section
/-!
SUPPORT. The operations and meanings of Machine/Twin.lean keep the stores canonical.
-/

namespace Sys2Proof.Machine

theorem Device.setBlock_canonical {d : Device} (h : d.Canonical) (r : Nat → Nat) (block : List Half) :
    Device.Canonical (Device.setBlock d r block) := by
  unfold Device.setBlock
  repeat' first
    | with_reducible assumption
    | with_reducible apply Device.setReg_canonical
    | simp only [Device.canonical_mk]
    | with_reducible apply Device.stores_canonical
    | with_reducible apply stores_canonical_filter
    | with_reducible apply stores_canonical_mem
    | with_reducible apply stores_canonical_clear
    | with_reducible apply Device.reset_canonical
    | with_reducible apply stores_canonical_sram
    | with_reducible apply stores_canonical_empty
    | split
    | with_reducible apply foldl_canonical
    | intro _

theorem twinStatusRefresh_canonical {d : Device} (h : d.Canonical) :
    Device.Canonical (twinStatusRefresh d) := by
  unfold twinStatusRefresh
  repeat' first
    | with_reducible assumption
    | with_reducible apply Device.noted_canonical
    | with_reducible apply Device.setBlock_canonical
    | simp only [Device.canonical_mk]
    | with_reducible apply Device.stores_canonical
    | with_reducible apply stores_canonical_filter
    | with_reducible apply stores_canonical_mem
    | with_reducible apply stores_canonical_clear
    | with_reducible apply Device.reset_canonical
    | with_reducible apply stores_canonical_sram
    | with_reducible apply stores_canonical_empty
    | split

theorem twinPoll_canonical {d : Device} (h : d.Canonical) :
    Device.Canonical (twinPoll d) := by
  unfold twinPoll
  repeat' first
    | with_reducible assumption
    | with_reducible apply Device.noted_canonical
    | with_reducible apply Device.emit_canonical
    | with_reducible apply Device.setTwin_canonical
    | dsimp only
    | with_reducible apply Device.stores_canonical
    | with_reducible apply stores_canonical_filter
    | with_reducible apply stores_canonical_mem
    | with_reducible apply stores_canonical_clear
    | with_reducible apply Device.reset_canonical
    | with_reducible apply stores_canonical_sram
    | with_reducible apply stores_canonical_empty
    | split
    | with_reducible apply foldl_canonical
    | intro _

theorem twinPollRequest_canonical {d : Device} (h : d.Canonical) (l : Nat) :
    Device.Canonical (twinPollRequest d l) := by
  unfold twinPollRequest
  repeat' first
    | with_reducible assumption
    | with_reducible apply Device.emit_canonical
    | simp only [Device.canonical_mk]
    | with_reducible apply Device.stores_canonical
    | with_reducible apply stores_canonical_filter
    | with_reducible apply stores_canonical_mem
    | with_reducible apply stores_canonical_clear
    | with_reducible apply Device.reset_canonical
    | with_reducible apply stores_canonical_sram
    | with_reducible apply stores_canonical_empty
    | split

theorem Device.twinNote_canonical {d : Device} (h : d.Canonical) (c : Bool) (bit : Nat) :
    Device.Canonical (Device.twinNote d c bit) := by
  unfold Device.twinNote
  repeat' first
    | with_reducible assumption
    | with_reducible apply Device.orReg_canonical
    | simp only [Device.canonical_mk]
    | with_reducible apply Device.stores_canonical
    | with_reducible apply stores_canonical_filter
    | with_reducible apply stores_canonical_mem
    | with_reducible apply stores_canonical_clear
    | with_reducible apply Device.reset_canonical
    | with_reducible apply stores_canonical_sram
    | with_reducible apply stores_canonical_empty
    | split

theorem twinPollAnswer_canonical {d : Device} (h : d.Canonical) (l : Nat) (block : List Half) :
    Device.Canonical (twinPollAnswer d l block) := by
  unfold twinPollAnswer
  repeat' first
    | with_reducible assumption
    | with_reducible apply Device.setTwin_canonical
    | with_reducible apply Device.setBlock_canonical
    | with_reducible apply Device.setFld_canonical
    | with_reducible apply Device.twinNote_canonical
    | dsimp only
    | with_reducible apply Device.stores_canonical
    | with_reducible apply stores_canonical_filter
    | with_reducible apply stores_canonical_mem
    | with_reducible apply stores_canonical_clear
    | with_reducible apply Device.reset_canonical
    | with_reducible apply stores_canonical_sram
    | with_reducible apply stores_canonical_empty
    | split

theorem twinPollTimeout_canonical {d : Device} (h : d.Canonical) (l : Nat) :
    Device.Canonical (twinPollTimeout d l) := by
  unfold twinPollTimeout
  repeat' first
    | with_reducible assumption
    | with_reducible apply Device.setTwin_canonical
    | with_reducible apply Device.orReg_canonical
    | with_reducible apply Device.setFld_canonical
    | dsimp only
    | with_reducible apply Device.stores_canonical
    | with_reducible apply stores_canonical_filter
    | with_reducible apply stores_canonical_mem
    | with_reducible apply stores_canonical_clear
    | with_reducible apply Device.reset_canonical
    | with_reducible apply stores_canonical_sram
    | with_reducible apply stores_canonical_empty
    | split

theorem twinBackoff_canonical {d : Device} (h : d.Canonical) (l : Nat) :
    Device.Canonical (twinBackoff d l) := by
  unfold twinBackoff
  repeat' first
    | with_reducible assumption
    | with_reducible apply Device.orReg_canonical
    | with_reducible apply Device.addCount_canonical
    | with_reducible apply Device.setTwin_canonical
    | dsimp only
    | with_reducible apply Device.stores_canonical
    | with_reducible apply stores_canonical_filter
    | with_reducible apply stores_canonical_mem
    | with_reducible apply stores_canonical_clear
    | with_reducible apply Device.reset_canonical
    | with_reducible apply stores_canonical_sram
    | with_reducible apply stores_canonical_empty
    | split

theorem twinChunkEnd_canonical {d : Device} (h : d.Canonical) (l : Nat) :
    Device.Canonical (twinChunkEnd d l) := by
  unfold twinChunkEnd
  repeat' first
    | with_reducible assumption
    | with_reducible apply Device.setTwin_canonical
    | dsimp only
    | with_reducible apply Device.stores_canonical
    | with_reducible apply stores_canonical_filter
    | with_reducible apply stores_canonical_mem
    | with_reducible apply stores_canonical_clear
    | with_reducible apply Device.reset_canonical
    | with_reducible apply stores_canonical_sram
    | with_reducible apply stores_canonical_empty
    | split

theorem execTwinStatusRefresh_canonical {s₁ s₂ : State} (h : s₁.dev.Canonical)
    (e : execTwinStatusRefresh  s₁ = .next s₂) : s₂.dev.Canonical := by
  unfold execTwinStatusRefresh at e
  refine actLive_canonical (fun d h => ?_) h e
  repeat' first
    | with_reducible assumption
    | with_reducible apply twinStatusRefresh_canonical

theorem execTwinPoll_canonical {s₁ s₂ : State} (h : s₁.dev.Canonical)
    (e : execTwinPoll  s₁ = .next s₂) : s₂.dev.Canonical := by
  unfold execTwinPoll at e
  refine actLive_canonical (fun d h => ?_) h e
  repeat' first
    | with_reducible assumption
    | with_reducible apply twinPoll_canonical

theorem execTwinPollRequest_canonical (link : Fin 2) {s₁ s₂ : State} (h : s₁.dev.Canonical)
    (e : execTwinPollRequest link s₁ = .next s₂) : s₂.dev.Canonical := by
  unfold execTwinPollRequest at e
  refine actLive_canonical (fun d h => ?_) h e
  repeat' first
    | with_reducible assumption
    | with_reducible apply twinPollRequest_canonical

theorem execTwinPollAnswer_canonical (link : Fin 2) (block : List Half) {s₁ s₂ : State} (h : s₁.dev.Canonical)
    (e : execTwinPollAnswer link block s₁ = .next s₂) : s₂.dev.Canonical := by
  unfold execTwinPollAnswer at e
  refine actIf_canonical (fun d h => ?_) h e
  repeat' first
    | with_reducible assumption
    | with_reducible apply twinPollAnswer_canonical

theorem execTwinPollTimeout_canonical (link : Fin 2) {s₁ s₂ : State} (h : s₁.dev.Canonical)
    (e : execTwinPollTimeout link s₁ = .next s₂) : s₂.dev.Canonical := by
  unfold execTwinPollTimeout at e
  refine actLive_canonical (fun d h => ?_) h e
  repeat' first
    | with_reducible assumption
    | with_reducible apply twinPollTimeout_canonical

theorem execTwinChunkEnd_canonical (link : Fin 2) {s₁ s₂ : State} (h : s₁.dev.Canonical)
    (e : execTwinChunkEnd link s₁ = .next s₂) : s₂.dev.Canonical := by
  unfold execTwinChunkEnd at e
  refine actLive_canonical (fun d h => ?_) h e
  repeat' first
    | with_reducible assumption
    | with_reducible apply twinChunkEnd_canonical

theorem execTwinBackoff_canonical (link : Fin 2) {s₁ s₂ : State} (h : s₁.dev.Canonical)
    (e : execTwinBackoff link s₁ = .next s₂) : s₂.dev.Canonical := by
  unfold execTwinBackoff at e
  refine actLive_canonical (fun d h => ?_) h e
  repeat' first
    | with_reducible assumption
    | with_reducible apply twinBackoff_canonical

end Sys2Proof.Machine
end

