-- ==== Sys2Proof/Laws/CanonVector.lean ====
section
/-!
SUPPORT. The operations and meanings of Machine/Vector.lean keep the stores canonical.
-/

namespace Sys2Proof.Machine

theorem lanewise_canonical {d : Device} (h : d.Canonical) (q : Seat) (b : Bank) (v : Fin 32) (f : Nat → Half × Tally) :
    Did.Canonical (lanewise d q b v f) := by
  unfold lanewise
  repeat' first
    | with_reducible assumption
    | with_reducible apply Device.count_canonical
    | simp only [Device.canonical_mk]
    | with_reducible apply Device.stores_canonical
    | with_reducible apply stores_canonical_filter
    | with_reducible apply stores_canonical_mem
    | with_reducible apply stores_canonical_clear
    | with_reducible apply Device.reset_canonical
    | with_reducible apply stores_canonical_sram
    | with_reducible apply stores_canonical_empty
    | split
    | simp only [Did.canonical_done]

theorem vecReg_canonical {d : Device} (h : d.Canonical) (q : Seat) (b : Bank) (x3 : VecOp) :
    Did.Canonical (vecReg d q b x3) := by
  unfold vecReg
  repeat' first
    | with_reducible assumption
    | with_reducible apply lanewise_canonical
    | with_reducible apply Device.count_canonical
    | dsimp only
    | with_reducible apply Device.stores_canonical
    | with_reducible apply stores_canonical_filter
    | with_reducible apply stores_canonical_mem
    | with_reducible apply stores_canonical_clear
    | with_reducible apply Device.reset_canonical
    | with_reducible apply stores_canonical_sram
    | with_reducible apply stores_canonical_empty
    | split
    | simp only [Did.canonical_done]

theorem vecFeed_canonical {d : Device} (h : d.Canonical) (q : Seat) (b : Bank) (r : Fin 32) (i : Nat) (j : Nat) (tr : Nat) (ts : Nat) (g : Nat) (lane : Nat) (largest : Bool) :
    Did.Canonical (vecFeed d q b r i j tr ts g lane largest) := by
  unfold vecFeed
  repeat' first
    | with_reducible assumption
    | with_reducible apply Device.count_canonical
    | dsimp only
    | with_reducible apply Device.stores_canonical
    | with_reducible apply stores_canonical_filter
    | with_reducible apply stores_canonical_mem
    | with_reducible apply stores_canonical_clear
    | with_reducible apply Device.reset_canonical
    | with_reducible apply stores_canonical_sram
    | with_reducible apply stores_canonical_empty
    | simp only [Did.canonical_done, Did.canonical_fault, Did.canonical_hold]
    | split

theorem vecop_canonical {d : Device} (h : d.Canonical) (q : Seat) (b : Bank) (op : VecOp) :
    Did.Canonical (vecop d q b op) := by
  unfold vecop
  repeat' first
    | with_reducible assumption
    | with_reducible apply Device.shareWrite_canonical
    | with_reducible apply vecFeed_canonical
    | with_reducible apply lanewise_canonical
    | with_reducible apply Device.count_canonical
    | with_reducible apply vecReg_canonical
    | dsimp only
    | with_reducible apply Device.stores_canonical
    | with_reducible apply stores_canonical_filter
    | with_reducible apply stores_canonical_mem
    | with_reducible apply stores_canonical_clear
    | with_reducible apply Device.reset_canonical
    | with_reducible apply stores_canonical_sram
    | with_reducible apply stores_canonical_empty
    | split
    | simp only [Did.canonical_done, Did.canonical_fault]

theorem segeval_canonical {d : Device} (h : d.Canonical) (q : Seat) (b : Bank) (op : SegevalOp) :
    Did.Canonical (segeval d q b op) := by
  unfold segeval
  repeat' first
    | with_reducible assumption
    | with_reducible apply lanewise_canonical
    | dsimp only
    | with_reducible apply Device.stores_canonical
    | with_reducible apply stores_canonical_filter
    | with_reducible apply stores_canonical_mem
    | with_reducible apply stores_canonical_clear
    | with_reducible apply Device.reset_canonical
    | with_reducible apply stores_canonical_sram
    | with_reducible apply stores_canonical_empty
    | split
    | simp only [Did.canonical_fault]

theorem ptbuild_canonical {d : Device} (h : d.Canonical) (q : Seat) (b : Bank) (off : Nat) :
    Did.Canonical (ptbuild d q b off) := by
  unfold ptbuild
  repeat' first
    | with_reducible assumption
    | with_reducible apply Device.count_canonical
    | dsimp only
    | with_reducible apply Device.stores_canonical
    | with_reducible apply stores_canonical_filter
    | with_reducible apply stores_canonical_mem
    | with_reducible apply stores_canonical_clear
    | with_reducible apply Device.reset_canonical
    | with_reducible apply stores_canonical_sram
    | with_reducible apply stores_canonical_empty
    | split
    | simp only [Did.canonical_done, Did.canonical_fault]

theorem ptlook_canonical {d : Device} (h : d.Canonical) (q : Seat) (b : Bank) (op : PtlookOp) :
    Did.Canonical (ptlook d q b op) := by
  unfold ptlook
  repeat' first
    | with_reducible assumption
    | with_reducible apply Device.count_canonical
    | dsimp only
    | with_reducible apply Device.stores_canonical
    | with_reducible apply stores_canonical_filter
    | with_reducible apply stores_canonical_mem
    | with_reducible apply stores_canonical_clear
    | with_reducible apply Device.reset_canonical
    | with_reducible apply stores_canonical_sram
    | with_reducible apply stores_canonical_empty
    | split
    | simp only [Did.canonical_done, Did.canonical_fault]

theorem execVecop_canonical (u : CoreUse) (op : VecOp) {s₁ s₂ : State} (h : s₁.dev.Canonical)
    (e : execVecop u op s₁ = .next s₂) : s₂.dev.Canonical := by
  unfold execVecop at e
  refine actLive_canonical (fun d h => ?_) h e
  repeat' first
    | with_reducible assumption
    | with_reducible apply Device.issueEcc_canonical
    | with_reducible apply vecop_canonical
    | simp only [Device.canonical_mk]
    | with_reducible apply Device.stores_canonical
    | simp only [Did.canonical_done]
    | split
    | with_reducible apply foldl_canonical
    | intro _

theorem execSegeval_canonical (u : CoreUse) (op : SegevalOp) {s₁ s₂ : State} (h : s₁.dev.Canonical)
    (e : execSegeval u op s₁ = .next s₂) : s₂.dev.Canonical := by
  unfold execSegeval at e
  refine actLive_canonical (fun d h => ?_) h e
  repeat' first
    | with_reducible assumption
    | with_reducible apply Device.issueEcc_canonical
    | with_reducible apply segeval_canonical
    | simp only [Device.canonical_mk]
    | with_reducible apply Device.stores_canonical
    | simp only [Did.canonical_done]
    | split
    | with_reducible apply foldl_canonical
    | intro _

theorem execPtbuild_canonical (u : CoreUse) (offset : Nat) {s₁ s₂ : State} (h : s₁.dev.Canonical)
    (e : execPtbuild u offset s₁ = .next s₂) : s₂.dev.Canonical := by
  unfold execPtbuild at e
  refine actLive_canonical (fun d h => ?_) h e
  repeat' first
    | with_reducible assumption
    | with_reducible apply Device.issueEcc_canonical
    | with_reducible apply ptbuild_canonical
    | simp only [Device.canonical_mk]
    | with_reducible apply Device.stores_canonical
    | simp only [Did.canonical_done]
    | split
    | with_reducible apply foldl_canonical
    | intro _

theorem execPtlook_canonical (u : CoreUse) (op : PtlookOp) {s₁ s₂ : State} (h : s₁.dev.Canonical)
    (e : execPtlook u op s₁ = .next s₂) : s₂.dev.Canonical := by
  unfold execPtlook at e
  refine actLive_canonical (fun d h => ?_) h e
  repeat' first
    | with_reducible assumption
    | with_reducible apply Device.issueEcc_canonical
    | with_reducible apply ptlook_canonical
    | simp only [Device.canonical_mk]
    | with_reducible apply Device.stores_canonical
    | simp only [Did.canonical_done]
    | split
    | with_reducible apply foldl_canonical
    | intro _

end Sys2Proof.Machine
end

