-- ==== Sys2Proof/Laws/Record.lean ====
section
/-!
SUPPORT. The lengths of byte fields and of digests, and what a save record needs to be in order.
-/

namespace Sys2Proof.Machine

/-- A field of `k` bytes has `k` bytes. -/
@[simp] theorem bytesOfNat_length (k n : Nat) : (bytesOfNat k n).length = k := by
  induction k generalizing n with
  | zero => rfl
  | succ k ih => simp [bytesOfNat, ih]

/-- A slice has the length asked for. -/
@[simp] theorem slice_length (bs : List Byte) (off len : Nat) : (slice bs off len).length = len := by
  simp only [slice, List.length_append, List.length_replicate, List.length_take]
  omega

/-- A SHA-512 digest has 64 bytes. -/
@[simp] theorem sha512_length (bs : List Byte) : (sha512 bs).length = 64 := by
  simp [sha512, hashOf, HashWords.list, bytesBe]

/-- A SHA-256 digest has 32 bytes. -/
@[simp] theorem sha256_length (bs : List Byte) : (sha256 bs).length = 32 := by
  simp [sha256, hashOf, HashWords.list, bytesBe]

/-- A MAC has 32 bytes. -/
@[simp] theorem hmacSha256_length (key bs : List Byte) : (hmacSha256 key bs).length = 32 := by simp [hmacSha256]

/-- A slice that lies in the first part of two. -/
theorem slice_append_left {a b : List Byte} {off len : Nat} (h : off + len ≤ a.length) : slice (a ++ b) off len = slice a off len := by
  unfold slice
  rw [List.drop_append_of_le_length (by omega), List.take_append_of_le_length (by simp; omega)]

/-- The second of two parts, sliced whole. -/
theorem slice_append_right {a b : List Byte} {off len : Nat} (ha : a.length = off) (hb : b.length = len) :
    slice (a ++ b) off len = b := by
  subst ha hb
  simp [slice]

/-- A number that fits is what its bytes hold. -/
theorem natOfBytes_bytesOfNat (k n : Nat) (h : n < 256 ^ k) : natOfBytes (bytesOfNat k n) = n := by
  induction k generalizing n with
  | zero => simp at h; simp [bytesOfNat, natOfBytes, h]
  | succ k ih =>
    have h2 : n / 256 < 256 ^ k := by
      rw [Nat.div_lt_iff_lt_mul (by omega), ← Nat.pow_succ]
      exact h
    simp only [bytesOfNat, natOfBytes, ih _ h2, BitVec.toNat_ofNat]
    omega

/-- A part between two others, sliced whole. -/
theorem slice_mid {a b c : List Byte} {off len : Nat} (ha : a.length = off) (hb : b.length = len) :
    slice (a ++ b ++ c) off len = b := by
  rw [slice_append_left (by simp; omega), slice_append_right ha hb]

/-- What the fields of a record's bytes hold, whatever MAC stands behind them. -/
theorem recordBytes_fields (x : RpRecord) (nonce : BitVec 128) (mac : List Byte) (hl : mac.length = 32) :
    let head := bytesOfNat 4 x.floor.toNat ++ [BitVec.ofNat 8 x.revoke.toNat] ++ bytesOfNat 3 0 ++ bytesOfNat 4 x.counter.toNat ++ bytesOfNat 4 0 ++
      bytesOfNat 16 nonce.toNat
    (head ++ mac).length = 64 ∧ fieldAt (head ++ mac) 0x10 16 = nonce.toNat ∧ slice (head ++ mac) 0x20 32 = mac ∧
      slice (head ++ mac) 0 0x20 = head ∧ recordOf (head ++ mac) = x := by
  have hn : natOfBytes (bytesOfNat 16 nonce.toNat) = nonce.toNat := natOfBytes_bytesOfNat 16 _ nonce.isLt
  have hf : natOfBytes (bytesOfNat 4 x.floor.toNat) = x.floor.toNat := natOfBytes_bytesOfNat 4 _ x.floor.isLt
  have hc : natOfBytes (bytesOfNat 4 x.counter.toNat) = x.counter.toNat := natOfBytes_bytesOfNat 4 _ x.counter.isLt
  have hr := x.revoke.isLt
  have e2 : ∀ A B C D E F G : List Byte, A ++ B ++ C ++ D ++ E ++ F ++ G = (A ++ B ++ C) ++ D ++ (E ++ F ++ G) := by simp
  have e3 : ∀ A B C D E F G : List Byte, A ++ B ++ C ++ D ++ E ++ F ++ G = A ++ B ++ (C ++ D ++ E ++ F ++ G) := by simp
  have e4 : ∀ A B C D E F G : List Byte, A ++ B ++ C ++ D ++ E ++ F ++ G = [] ++ A ++ (B ++ C ++ D ++ E ++ F ++ G) := by simp
  refine ⟨by simp [hl], ?_, slice_append_right (by simp) hl, ?_, ?_⟩
  · rw [fieldAt, slice_mid (by simp) (by simp), hn]
  · rw [slice_append_left (by simp)]
    exact slice_append_right (a := []) rfl (by simp)
  · obtain ⟨fl, rv, ct⟩ := x
    have hv : natOfBytes [BitVec.ofNat 8 rv.toNat] = rv.toNat := by
      simp only [natOfBytes, BitVec.toNat_ofNat] at hr ⊢
      omega
    simp only [recordOf, fieldAt, RpRecord.mk.injEq]
    refine ⟨?_, ?_, ?_⟩
    · rw [e4, slice_mid (off := 0) (len := 4) (by simp) (by simp), hf, BitVec.ofNat_toNat, BitVec.setWidth_eq]
    · rw [e3, slice_mid (off := 4) (len := 1) (by simp) (by simp), hv, BitVec.ofNat_toNat, BitVec.setWidth_eq]
    · rw [e2, slice_mid (by simp) (by simp), hc, BitVec.ofNat_toNat, BitVec.setWidth_eq]

/-- A record's bytes carry the nonce they were given and the MAC of what stands before it. -/
theorem record_authentic (key : List Byte) (n : BitVec 128) (x : RpRecord) : recordAuthentic key n (x.bytes key n) = true := by
  unfold recordAuthentic RpRecord.bytes
  obtain ⟨h1, h2, h3, h4, -⟩ := recordBytes_fields x n _ (hmacSha256_length key
    (bytesOfNat 4 x.floor.toNat ++ [BitVec.ofNat 8 x.revoke.toNat] ++ bytesOfNat 3 0 ++ bytesOfNat 4 x.counter.toNat ++ bytesOfNat 4 0 ++
      bytesOfNat 16 n.toNat))
  rw [h1, h2, h3, h4]
  simp

/-- A record's bytes say what the record holds. -/
theorem recordOf_bytes (key : List Byte) (n : BitVec 128) (x : RpRecord) : recordOf (x.bytes key n) = x :=
  (recordBytes_fields x n _ (hmacSha256_length _ _)).2.2.2.2

/-- A record that the flash answers with its own nonce and MAC is taken for what it holds. -/
theorem checkedRecord_bytes (d : Device) (x : RpRecord) :
    d.checkedRecord (x.bytes (recordKey d.helperData) d.useNonce.1) = some x := by
  rw [Device.checkedRecord, record_authentic, recordOf_bytes]
  rfl

/-- A body of the right length with its magic and its format, followed by its digest, is a record in order. -/
theorem recordOk_append (body : List Byte) (h : body.length = 0x1FC0) (h1 : fieldAt body 0 4 = 0x52535653)
    (h2 : fieldAt body 4 2 = 1) : recordOk (body ++ sha512 body) = true := by
  have hs : ∀ off len, off + len ≤ 0x1FC0 → fieldAt (body ++ sha512 body) off len = fieldAt body off len := by
    intro off len hl
    unfold fieldAt slice
    rw [List.drop_append_of_le_length (by omega), List.take_append_of_le_length (by simp; omega)]
  unfold recordOk
  rw [hs 0 4 (by omega), hs 4 2 (by omega), h1, h2, List.take_left' h, List.drop_left' h]
  simp

end Sys2Proof.Machine
end

