-- ==== Sys2Proof/Laws/State.lean ====
section
/-!
SUPPORT. What each primitive update of the device leaves in each field, and what the accessors read after it.
-/

namespace Sys2Proof.Machine

variable (d : Device)

/-! ### Device.setReg -/

@[simp] theorem Device.setReg_mem (a : Nat) (v : Word) : (d.setReg a v).mem = d.mem := rfl
@[simp] theorem Device.setReg_islandSram (a : Nat) (v : Word) : (d.setReg a v).islandSram = d.islandSram := rfl
@[simp] theorem Device.setReg_power (a : Nat) (v : Word) : (d.setReg a v).power = d.power := rfl
@[simp] theorem Device.setReg_cfg (a : Nat) (v : Word) : (d.setReg a v).cfg = d.cfg := rfl
@[simp] theorem Device.setReg_busy (a : Nat) (v : Word) : (d.setReg a v).busy = d.busy := rfl
@[simp] theorem Device.setReg_lastResult (a : Nat) (v : Word) : (d.setReg a v).lastResult = d.lastResult := rfl
@[simp] theorem Device.setReg_part (a : Nat) (v : Word) : (d.setReg a v).part = d.part := rfl
@[simp] theorem Device.setReg_boot (a : Nat) (v : Word) : (d.setReg a v).boot = d.boot := rfl
@[simp] theorem Device.setReg_sec (a : Nat) (v : Word) : (d.setReg a v).sec = d.sec := rfl
@[simp] theorem Device.setReg_rank (a : Nat) (v : Word) : (d.setReg a v).rank = d.rank := rfl
@[simp] theorem Device.setReg_alm (a : Nat) (v : Word) : (d.setReg a v).alm = d.alm := rfl
@[simp] theorem Device.setReg_herald (a : Nat) (v : Word) : (d.setReg a v).herald = d.herald := rfl
@[simp] theorem Device.setReg_gov (a : Nat) (v : Word) : (d.setReg a v).gov = d.gov := rfl
@[simp] theorem Device.setReg_cal (a : Nat) (v : Word) : (d.setReg a v).cal = d.cal := rfl
@[simp] theorem Device.setReg_banks (a : Nat) (v : Word) : (d.setReg a v).banks = d.banks := rfl
@[simp] theorem Device.setReg_objects (a : Nat) (v : Word) : (d.setReg a v).objects = d.objects := rfl
@[simp] theorem Device.setReg_buckets (a : Nat) (v : Word) : (d.setReg a v).buckets = d.buckets := rfl
@[simp] theorem Device.setReg_ctxs (a : Nat) (v : Word) : (d.setReg a v).ctxs = d.ctxs := rfl
@[simp] theorem Device.setReg_tenancies (a : Nat) (v : Word) : (d.setReg a v).tenancies = d.tenancies := rfl
@[simp] theorem Device.setReg_admin (a : Nat) (v : Word) : (d.setReg a v).admin = d.admin := rfl
@[simp] theorem Device.setReg_notices (a : Nat) (v : Word) : (d.setReg a v).notices = d.notices := rfl
@[simp] theorem Device.setReg_outbound (a : Nat) (v : Word) : (d.setReg a v).outbound = d.outbound := rfl
@[simp] theorem Device.setReg_links (a : Nat) (v : Word) : (d.setReg a v).links = d.links := rfl
@[simp] theorem Device.setReg_sw (a : Nat) (v : Word) : (d.setReg a v).sw = d.sw := rfl
@[simp] theorem Device.setReg_queues (a : Nat) (v : Word) : (d.setReg a v).queues = d.queues := rfl
@[simp] theorem Device.setReg_csi (a : Nat) (v : Word) : (d.setReg a v).csi = d.csi := rfl
@[simp] theorem Device.setReg_can (a : Nat) (v : Word) : (d.setReg a v).can = d.can := rfl
@[simp] theorem Device.setReg_acf (a : Nat) (v : Word) : (d.setReg a v).acf = d.acf := rfl
@[simp] theorem Device.setReg_twin0 (a : Nat) (v : Word) : (d.setReg a v).twin0 = d.twin0 := rfl
@[simp] theorem Device.setReg_twin1 (a : Nat) (v : Word) : (d.setReg a v).twin1 = d.twin1 := rfl
@[simp] theorem Device.setReg_hwCount (a : Nat) (v : Word) : (d.setReg a v).hwCount = d.hwCount := rfl
@[simp] theorem Device.setReg_safety (a : Nat) (v : Word) : (d.setReg a v).safety = d.safety := rfl
@[simp] theorem Device.setReg_half0 (a : Nat) (v : Word) : (d.setReg a v).half0 = d.half0 := rfl
@[simp] theorem Device.setReg_half1 (a : Nat) (v : Word) : (d.setReg a v).half1 = d.half1 := rfl
@[simp] theorem Device.setReg_served (a : Nat) (v : Word) : (d.setReg a v).served = d.served := rfl
@[simp] theorem Device.setReg_portWaits (a : Nat) (v : Word) : (d.setReg a v).portWaits = d.portWaits := rfl
@[simp] theorem Device.setReg_refreshes (a : Nat) (v : Word) : (d.setReg a v).refreshes = d.refreshes := rfl
@[simp] theorem Device.setReg_paced (a : Nat) (v : Word) : (d.setReg a v).paced = d.paced := rfl
@[simp] theorem Device.setReg_bitmapHeld (a : Nat) (v : Word) : (d.setReg a v).bitmapHeld = d.bitmapHeld := rfl
@[simp] theorem Device.setReg_arb (a : Nat) (v : Word) : (d.setReg a v).arb = d.arb := rfl
@[simp] theorem Device.setReg_hostCache (a : Nat) (v : Word) : (d.setReg a v).hostCache = d.hostCache := rfl
@[simp] theorem Device.setReg_reservations (a : Nat) (v : Word) : (d.setReg a v).reservations = d.reservations := rfl
@[simp] theorem Device.setReg_pools (a : Nat) (v : Word) : (d.setReg a v).pools = d.pools := rfl
@[simp] theorem Device.setReg_jobs (a : Nat) (v : Word) : (d.setReg a v).jobs = d.jobs := rfl
@[simp] theorem Device.setReg_lastSteps (a : Nat) (v : Word) : (d.setReg a v).lastSteps = d.lastSteps := rfl
@[simp] theorem Device.setReg_nextId (a : Nat) (v : Word) : (d.setReg a v).nextId = d.nextId := rfl
@[simp] theorem Device.setReg_freeIndex (a : Nat) (v : Word) : (d.setReg a v).freeIndex = d.freeIndex := rfl
@[simp] theorem Device.setReg_answer (a : Nat) (v : Word) : (d.setReg a v).answer = d.answer := rfl
@[simp] theorem Device.setReg_sent (a : Nat) (v : Word) : (d.setReg a v).sent = d.sent := rfl

/-! ### Device.setFld -/

@[simp] theorem Device.setFld_mem (a lo len v : Nat) : (d.setFld a lo len v).mem = d.mem := rfl
@[simp] theorem Device.setFld_islandSram (a lo len v : Nat) : (d.setFld a lo len v).islandSram = d.islandSram := rfl
@[simp] theorem Device.setFld_power (a lo len v : Nat) : (d.setFld a lo len v).power = d.power := rfl
@[simp] theorem Device.setFld_cfg (a lo len v : Nat) : (d.setFld a lo len v).cfg = d.cfg := rfl
@[simp] theorem Device.setFld_busy (a lo len v : Nat) : (d.setFld a lo len v).busy = d.busy := rfl
@[simp] theorem Device.setFld_lastResult (a lo len v : Nat) : (d.setFld a lo len v).lastResult = d.lastResult := rfl
@[simp] theorem Device.setFld_part (a lo len v : Nat) : (d.setFld a lo len v).part = d.part := rfl
@[simp] theorem Device.setFld_boot (a lo len v : Nat) : (d.setFld a lo len v).boot = d.boot := rfl
@[simp] theorem Device.setFld_sec (a lo len v : Nat) : (d.setFld a lo len v).sec = d.sec := rfl
@[simp] theorem Device.setFld_rank (a lo len v : Nat) : (d.setFld a lo len v).rank = d.rank := rfl
@[simp] theorem Device.setFld_alm (a lo len v : Nat) : (d.setFld a lo len v).alm = d.alm := rfl
@[simp] theorem Device.setFld_herald (a lo len v : Nat) : (d.setFld a lo len v).herald = d.herald := rfl
@[simp] theorem Device.setFld_gov (a lo len v : Nat) : (d.setFld a lo len v).gov = d.gov := rfl
@[simp] theorem Device.setFld_cal (a lo len v : Nat) : (d.setFld a lo len v).cal = d.cal := rfl
@[simp] theorem Device.setFld_banks (a lo len v : Nat) : (d.setFld a lo len v).banks = d.banks := rfl
@[simp] theorem Device.setFld_objects (a lo len v : Nat) : (d.setFld a lo len v).objects = d.objects := rfl
@[simp] theorem Device.setFld_buckets (a lo len v : Nat) : (d.setFld a lo len v).buckets = d.buckets := rfl
@[simp] theorem Device.setFld_ctxs (a lo len v : Nat) : (d.setFld a lo len v).ctxs = d.ctxs := rfl
@[simp] theorem Device.setFld_tenancies (a lo len v : Nat) : (d.setFld a lo len v).tenancies = d.tenancies := rfl
@[simp] theorem Device.setFld_admin (a lo len v : Nat) : (d.setFld a lo len v).admin = d.admin := rfl
@[simp] theorem Device.setFld_notices (a lo len v : Nat) : (d.setFld a lo len v).notices = d.notices := rfl
@[simp] theorem Device.setFld_outbound (a lo len v : Nat) : (d.setFld a lo len v).outbound = d.outbound := rfl
@[simp] theorem Device.setFld_links (a lo len v : Nat) : (d.setFld a lo len v).links = d.links := rfl
@[simp] theorem Device.setFld_sw (a lo len v : Nat) : (d.setFld a lo len v).sw = d.sw := rfl
@[simp] theorem Device.setFld_queues (a lo len v : Nat) : (d.setFld a lo len v).queues = d.queues := rfl
@[simp] theorem Device.setFld_csi (a lo len v : Nat) : (d.setFld a lo len v).csi = d.csi := rfl
@[simp] theorem Device.setFld_can (a lo len v : Nat) : (d.setFld a lo len v).can = d.can := rfl
@[simp] theorem Device.setFld_acf (a lo len v : Nat) : (d.setFld a lo len v).acf = d.acf := rfl
@[simp] theorem Device.setFld_twin0 (a lo len v : Nat) : (d.setFld a lo len v).twin0 = d.twin0 := rfl
@[simp] theorem Device.setFld_twin1 (a lo len v : Nat) : (d.setFld a lo len v).twin1 = d.twin1 := rfl
@[simp] theorem Device.setFld_hwCount (a lo len v : Nat) : (d.setFld a lo len v).hwCount = d.hwCount := rfl
@[simp] theorem Device.setFld_safety (a lo len v : Nat) : (d.setFld a lo len v).safety = d.safety := rfl
@[simp] theorem Device.setFld_half0 (a lo len v : Nat) : (d.setFld a lo len v).half0 = d.half0 := rfl
@[simp] theorem Device.setFld_half1 (a lo len v : Nat) : (d.setFld a lo len v).half1 = d.half1 := rfl
@[simp] theorem Device.setFld_served (a lo len v : Nat) : (d.setFld a lo len v).served = d.served := rfl
@[simp] theorem Device.setFld_portWaits (a lo len v : Nat) : (d.setFld a lo len v).portWaits = d.portWaits := rfl
@[simp] theorem Device.setFld_refreshes (a lo len v : Nat) : (d.setFld a lo len v).refreshes = d.refreshes := rfl
@[simp] theorem Device.setFld_paced (a lo len v : Nat) : (d.setFld a lo len v).paced = d.paced := rfl
@[simp] theorem Device.setFld_bitmapHeld (a lo len v : Nat) : (d.setFld a lo len v).bitmapHeld = d.bitmapHeld := rfl
@[simp] theorem Device.setFld_arb (a lo len v : Nat) : (d.setFld a lo len v).arb = d.arb := rfl
@[simp] theorem Device.setFld_hostCache (a lo len v : Nat) : (d.setFld a lo len v).hostCache = d.hostCache := rfl
@[simp] theorem Device.setFld_reservations (a lo len v : Nat) : (d.setFld a lo len v).reservations = d.reservations := rfl
@[simp] theorem Device.setFld_pools (a lo len v : Nat) : (d.setFld a lo len v).pools = d.pools := rfl
@[simp] theorem Device.setFld_jobs (a lo len v : Nat) : (d.setFld a lo len v).jobs = d.jobs := rfl
@[simp] theorem Device.setFld_lastSteps (a lo len v : Nat) : (d.setFld a lo len v).lastSteps = d.lastSteps := rfl
@[simp] theorem Device.setFld_nextId (a lo len v : Nat) : (d.setFld a lo len v).nextId = d.nextId := rfl
@[simp] theorem Device.setFld_freeIndex (a lo len v : Nat) : (d.setFld a lo len v).freeIndex = d.freeIndex := rfl
@[simp] theorem Device.setFld_answer (a lo len v : Nat) : (d.setFld a lo len v).answer = d.answer := rfl
@[simp] theorem Device.setFld_sent (a lo len v : Nat) : (d.setFld a lo len v).sent = d.sent := rfl

/-! ### Device.orReg -/

@[simp] theorem Device.orReg_mem (a m : Nat) : (d.orReg a m).mem = d.mem := rfl
@[simp] theorem Device.orReg_islandSram (a m : Nat) : (d.orReg a m).islandSram = d.islandSram := rfl
@[simp] theorem Device.orReg_power (a m : Nat) : (d.orReg a m).power = d.power := rfl
@[simp] theorem Device.orReg_cfg (a m : Nat) : (d.orReg a m).cfg = d.cfg := rfl
@[simp] theorem Device.orReg_busy (a m : Nat) : (d.orReg a m).busy = d.busy := rfl
@[simp] theorem Device.orReg_lastResult (a m : Nat) : (d.orReg a m).lastResult = d.lastResult := rfl
@[simp] theorem Device.orReg_part (a m : Nat) : (d.orReg a m).part = d.part := rfl
@[simp] theorem Device.orReg_boot (a m : Nat) : (d.orReg a m).boot = d.boot := rfl
@[simp] theorem Device.orReg_sec (a m : Nat) : (d.orReg a m).sec = d.sec := rfl
@[simp] theorem Device.orReg_rank (a m : Nat) : (d.orReg a m).rank = d.rank := rfl
@[simp] theorem Device.orReg_alm (a m : Nat) : (d.orReg a m).alm = d.alm := rfl
@[simp] theorem Device.orReg_herald (a m : Nat) : (d.orReg a m).herald = d.herald := rfl
@[simp] theorem Device.orReg_gov (a m : Nat) : (d.orReg a m).gov = d.gov := rfl
@[simp] theorem Device.orReg_cal (a m : Nat) : (d.orReg a m).cal = d.cal := rfl
@[simp] theorem Device.orReg_banks (a m : Nat) : (d.orReg a m).banks = d.banks := rfl
@[simp] theorem Device.orReg_objects (a m : Nat) : (d.orReg a m).objects = d.objects := rfl
@[simp] theorem Device.orReg_buckets (a m : Nat) : (d.orReg a m).buckets = d.buckets := rfl
@[simp] theorem Device.orReg_ctxs (a m : Nat) : (d.orReg a m).ctxs = d.ctxs := rfl
@[simp] theorem Device.orReg_tenancies (a m : Nat) : (d.orReg a m).tenancies = d.tenancies := rfl
@[simp] theorem Device.orReg_admin (a m : Nat) : (d.orReg a m).admin = d.admin := rfl
@[simp] theorem Device.orReg_notices (a m : Nat) : (d.orReg a m).notices = d.notices := rfl
@[simp] theorem Device.orReg_outbound (a m : Nat) : (d.orReg a m).outbound = d.outbound := rfl
@[simp] theorem Device.orReg_links (a m : Nat) : (d.orReg a m).links = d.links := rfl
@[simp] theorem Device.orReg_sw (a m : Nat) : (d.orReg a m).sw = d.sw := rfl
@[simp] theorem Device.orReg_queues (a m : Nat) : (d.orReg a m).queues = d.queues := rfl
@[simp] theorem Device.orReg_csi (a m : Nat) : (d.orReg a m).csi = d.csi := rfl
@[simp] theorem Device.orReg_can (a m : Nat) : (d.orReg a m).can = d.can := rfl
@[simp] theorem Device.orReg_acf (a m : Nat) : (d.orReg a m).acf = d.acf := rfl
@[simp] theorem Device.orReg_twin0 (a m : Nat) : (d.orReg a m).twin0 = d.twin0 := rfl
@[simp] theorem Device.orReg_twin1 (a m : Nat) : (d.orReg a m).twin1 = d.twin1 := rfl
@[simp] theorem Device.orReg_hwCount (a m : Nat) : (d.orReg a m).hwCount = d.hwCount := rfl
@[simp] theorem Device.orReg_safety (a m : Nat) : (d.orReg a m).safety = d.safety := rfl
@[simp] theorem Device.orReg_half0 (a m : Nat) : (d.orReg a m).half0 = d.half0 := rfl
@[simp] theorem Device.orReg_half1 (a m : Nat) : (d.orReg a m).half1 = d.half1 := rfl
@[simp] theorem Device.orReg_served (a m : Nat) : (d.orReg a m).served = d.served := rfl
@[simp] theorem Device.orReg_portWaits (a m : Nat) : (d.orReg a m).portWaits = d.portWaits := rfl
@[simp] theorem Device.orReg_refreshes (a m : Nat) : (d.orReg a m).refreshes = d.refreshes := rfl
@[simp] theorem Device.orReg_paced (a m : Nat) : (d.orReg a m).paced = d.paced := rfl
@[simp] theorem Device.orReg_bitmapHeld (a m : Nat) : (d.orReg a m).bitmapHeld = d.bitmapHeld := rfl
@[simp] theorem Device.orReg_arb (a m : Nat) : (d.orReg a m).arb = d.arb := rfl
@[simp] theorem Device.orReg_hostCache (a m : Nat) : (d.orReg a m).hostCache = d.hostCache := rfl
@[simp] theorem Device.orReg_reservations (a m : Nat) : (d.orReg a m).reservations = d.reservations := rfl
@[simp] theorem Device.orReg_pools (a m : Nat) : (d.orReg a m).pools = d.pools := rfl
@[simp] theorem Device.orReg_jobs (a m : Nat) : (d.orReg a m).jobs = d.jobs := rfl
@[simp] theorem Device.orReg_lastSteps (a m : Nat) : (d.orReg a m).lastSteps = d.lastSteps := rfl
@[simp] theorem Device.orReg_nextId (a m : Nat) : (d.orReg a m).nextId = d.nextId := rfl
@[simp] theorem Device.orReg_freeIndex (a m : Nat) : (d.orReg a m).freeIndex = d.freeIndex := rfl
@[simp] theorem Device.orReg_answer (a m : Nat) : (d.orReg a m).answer = d.answer := rfl
@[simp] theorem Device.orReg_sent (a m : Nat) : (d.orReg a m).sent = d.sent := rfl

/-! ### Device.clrReg -/

@[simp] theorem Device.clrReg_mem (a m : Nat) : (d.clrReg a m).mem = d.mem := rfl
@[simp] theorem Device.clrReg_islandSram (a m : Nat) : (d.clrReg a m).islandSram = d.islandSram := rfl
@[simp] theorem Device.clrReg_power (a m : Nat) : (d.clrReg a m).power = d.power := rfl
@[simp] theorem Device.clrReg_cfg (a m : Nat) : (d.clrReg a m).cfg = d.cfg := rfl
@[simp] theorem Device.clrReg_busy (a m : Nat) : (d.clrReg a m).busy = d.busy := rfl
@[simp] theorem Device.clrReg_lastResult (a m : Nat) : (d.clrReg a m).lastResult = d.lastResult := rfl
@[simp] theorem Device.clrReg_part (a m : Nat) : (d.clrReg a m).part = d.part := rfl
@[simp] theorem Device.clrReg_boot (a m : Nat) : (d.clrReg a m).boot = d.boot := rfl
@[simp] theorem Device.clrReg_sec (a m : Nat) : (d.clrReg a m).sec = d.sec := rfl
@[simp] theorem Device.clrReg_rank (a m : Nat) : (d.clrReg a m).rank = d.rank := rfl
@[simp] theorem Device.clrReg_alm (a m : Nat) : (d.clrReg a m).alm = d.alm := rfl
@[simp] theorem Device.clrReg_herald (a m : Nat) : (d.clrReg a m).herald = d.herald := rfl
@[simp] theorem Device.clrReg_gov (a m : Nat) : (d.clrReg a m).gov = d.gov := rfl
@[simp] theorem Device.clrReg_cal (a m : Nat) : (d.clrReg a m).cal = d.cal := rfl
@[simp] theorem Device.clrReg_banks (a m : Nat) : (d.clrReg a m).banks = d.banks := rfl
@[simp] theorem Device.clrReg_objects (a m : Nat) : (d.clrReg a m).objects = d.objects := rfl
@[simp] theorem Device.clrReg_buckets (a m : Nat) : (d.clrReg a m).buckets = d.buckets := rfl
@[simp] theorem Device.clrReg_ctxs (a m : Nat) : (d.clrReg a m).ctxs = d.ctxs := rfl
@[simp] theorem Device.clrReg_tenancies (a m : Nat) : (d.clrReg a m).tenancies = d.tenancies := rfl
@[simp] theorem Device.clrReg_admin (a m : Nat) : (d.clrReg a m).admin = d.admin := rfl
@[simp] theorem Device.clrReg_notices (a m : Nat) : (d.clrReg a m).notices = d.notices := rfl
@[simp] theorem Device.clrReg_outbound (a m : Nat) : (d.clrReg a m).outbound = d.outbound := rfl
@[simp] theorem Device.clrReg_links (a m : Nat) : (d.clrReg a m).links = d.links := rfl
@[simp] theorem Device.clrReg_sw (a m : Nat) : (d.clrReg a m).sw = d.sw := rfl
@[simp] theorem Device.clrReg_queues (a m : Nat) : (d.clrReg a m).queues = d.queues := rfl
@[simp] theorem Device.clrReg_csi (a m : Nat) : (d.clrReg a m).csi = d.csi := rfl
@[simp] theorem Device.clrReg_can (a m : Nat) : (d.clrReg a m).can = d.can := rfl
@[simp] theorem Device.clrReg_acf (a m : Nat) : (d.clrReg a m).acf = d.acf := rfl
@[simp] theorem Device.clrReg_twin0 (a m : Nat) : (d.clrReg a m).twin0 = d.twin0 := rfl
@[simp] theorem Device.clrReg_twin1 (a m : Nat) : (d.clrReg a m).twin1 = d.twin1 := rfl
@[simp] theorem Device.clrReg_hwCount (a m : Nat) : (d.clrReg a m).hwCount = d.hwCount := rfl
@[simp] theorem Device.clrReg_safety (a m : Nat) : (d.clrReg a m).safety = d.safety := rfl
@[simp] theorem Device.clrReg_half0 (a m : Nat) : (d.clrReg a m).half0 = d.half0 := rfl
@[simp] theorem Device.clrReg_half1 (a m : Nat) : (d.clrReg a m).half1 = d.half1 := rfl
@[simp] theorem Device.clrReg_served (a m : Nat) : (d.clrReg a m).served = d.served := rfl
@[simp] theorem Device.clrReg_portWaits (a m : Nat) : (d.clrReg a m).portWaits = d.portWaits := rfl
@[simp] theorem Device.clrReg_refreshes (a m : Nat) : (d.clrReg a m).refreshes = d.refreshes := rfl
@[simp] theorem Device.clrReg_paced (a m : Nat) : (d.clrReg a m).paced = d.paced := rfl
@[simp] theorem Device.clrReg_bitmapHeld (a m : Nat) : (d.clrReg a m).bitmapHeld = d.bitmapHeld := rfl
@[simp] theorem Device.clrReg_arb (a m : Nat) : (d.clrReg a m).arb = d.arb := rfl
@[simp] theorem Device.clrReg_hostCache (a m : Nat) : (d.clrReg a m).hostCache = d.hostCache := rfl
@[simp] theorem Device.clrReg_reservations (a m : Nat) : (d.clrReg a m).reservations = d.reservations := rfl
@[simp] theorem Device.clrReg_pools (a m : Nat) : (d.clrReg a m).pools = d.pools := rfl
@[simp] theorem Device.clrReg_jobs (a m : Nat) : (d.clrReg a m).jobs = d.jobs := rfl
@[simp] theorem Device.clrReg_lastSteps (a m : Nat) : (d.clrReg a m).lastSteps = d.lastSteps := rfl
@[simp] theorem Device.clrReg_nextId (a m : Nat) : (d.clrReg a m).nextId = d.nextId := rfl
@[simp] theorem Device.clrReg_freeIndex (a m : Nat) : (d.clrReg a m).freeIndex = d.freeIndex := rfl
@[simp] theorem Device.clrReg_answer (a m : Nat) : (d.clrReg a m).answer = d.answer := rfl
@[simp] theorem Device.clrReg_sent (a m : Nat) : (d.clrReg a m).sent = d.sent := rfl

/-! ### Device.latch -/

@[simp] theorem Device.latch_mem (k : Nat) : (d.latch k).mem = d.mem := rfl
@[simp] theorem Device.latch_islandSram (k : Nat) : (d.latch k).islandSram = d.islandSram := rfl
@[simp] theorem Device.latch_power (k : Nat) : (d.latch k).power = d.power := rfl
@[simp] theorem Device.latch_cfg (k : Nat) : (d.latch k).cfg = d.cfg := rfl
@[simp] theorem Device.latch_busy (k : Nat) : (d.latch k).busy = d.busy := rfl
@[simp] theorem Device.latch_lastResult (k : Nat) : (d.latch k).lastResult = d.lastResult := rfl
@[simp] theorem Device.latch_part (k : Nat) : (d.latch k).part = d.part := rfl
@[simp] theorem Device.latch_boot (k : Nat) : (d.latch k).boot = d.boot := rfl
@[simp] theorem Device.latch_sec (k : Nat) : (d.latch k).sec = d.sec := rfl
@[simp] theorem Device.latch_rank (k : Nat) : (d.latch k).rank = d.rank := rfl
@[simp] theorem Device.latch_alm (k : Nat) : (d.latch k).alm = d.alm := rfl
@[simp] theorem Device.latch_herald (k : Nat) : (d.latch k).herald = d.herald := rfl
@[simp] theorem Device.latch_gov (k : Nat) : (d.latch k).gov = d.gov := rfl
@[simp] theorem Device.latch_cal (k : Nat) : (d.latch k).cal = d.cal := rfl
@[simp] theorem Device.latch_banks (k : Nat) : (d.latch k).banks = d.banks := rfl
@[simp] theorem Device.latch_objects (k : Nat) : (d.latch k).objects = d.objects := rfl
@[simp] theorem Device.latch_buckets (k : Nat) : (d.latch k).buckets = d.buckets := rfl
@[simp] theorem Device.latch_ctxs (k : Nat) : (d.latch k).ctxs = d.ctxs := rfl
@[simp] theorem Device.latch_tenancies (k : Nat) : (d.latch k).tenancies = d.tenancies := rfl
@[simp] theorem Device.latch_admin (k : Nat) : (d.latch k).admin = d.admin := rfl
@[simp] theorem Device.latch_notices (k : Nat) : (d.latch k).notices = d.notices := rfl
@[simp] theorem Device.latch_outbound (k : Nat) : (d.latch k).outbound = d.outbound := rfl
@[simp] theorem Device.latch_links (k : Nat) : (d.latch k).links = d.links := rfl
@[simp] theorem Device.latch_sw (k : Nat) : (d.latch k).sw = d.sw := rfl
@[simp] theorem Device.latch_queues (k : Nat) : (d.latch k).queues = d.queues := rfl
@[simp] theorem Device.latch_csi (k : Nat) : (d.latch k).csi = d.csi := rfl
@[simp] theorem Device.latch_can (k : Nat) : (d.latch k).can = d.can := rfl
@[simp] theorem Device.latch_acf (k : Nat) : (d.latch k).acf = d.acf := rfl
@[simp] theorem Device.latch_twin0 (k : Nat) : (d.latch k).twin0 = d.twin0 := rfl
@[simp] theorem Device.latch_twin1 (k : Nat) : (d.latch k).twin1 = d.twin1 := rfl
@[simp] theorem Device.latch_hwCount (k : Nat) : (d.latch k).hwCount = d.hwCount := rfl
@[simp] theorem Device.latch_safety (k : Nat) : (d.latch k).safety = d.safety := rfl
@[simp] theorem Device.latch_half0 (k : Nat) : (d.latch k).half0 = d.half0 := rfl
@[simp] theorem Device.latch_half1 (k : Nat) : (d.latch k).half1 = d.half1 := rfl
@[simp] theorem Device.latch_served (k : Nat) : (d.latch k).served = d.served := rfl
@[simp] theorem Device.latch_portWaits (k : Nat) : (d.latch k).portWaits = d.portWaits := rfl
@[simp] theorem Device.latch_refreshes (k : Nat) : (d.latch k).refreshes = d.refreshes := rfl
@[simp] theorem Device.latch_paced (k : Nat) : (d.latch k).paced = d.paced := rfl
@[simp] theorem Device.latch_bitmapHeld (k : Nat) : (d.latch k).bitmapHeld = d.bitmapHeld := rfl
@[simp] theorem Device.latch_arb (k : Nat) : (d.latch k).arb = d.arb := rfl
@[simp] theorem Device.latch_hostCache (k : Nat) : (d.latch k).hostCache = d.hostCache := rfl
@[simp] theorem Device.latch_reservations (k : Nat) : (d.latch k).reservations = d.reservations := rfl
@[simp] theorem Device.latch_pools (k : Nat) : (d.latch k).pools = d.pools := rfl
@[simp] theorem Device.latch_jobs (k : Nat) : (d.latch k).jobs = d.jobs := rfl
@[simp] theorem Device.latch_lastSteps (k : Nat) : (d.latch k).lastSteps = d.lastSteps := rfl
@[simp] theorem Device.latch_nextId (k : Nat) : (d.latch k).nextId = d.nextId := rfl
@[simp] theorem Device.latch_freeIndex (k : Nat) : (d.latch k).freeIndex = d.freeIndex := rfl
@[simp] theorem Device.latch_answer (k : Nat) : (d.latch k).answer = d.answer := rfl
@[simp] theorem Device.latch_sent (k : Nat) : (d.latch k).sent = d.sent := rfl

/-! ### Device.addCount -/

@[simp] theorem Device.addCount_mem (a lo len n : Nat) : (d.addCount a lo len n).mem = d.mem := rfl
@[simp] theorem Device.addCount_islandSram (a lo len n : Nat) : (d.addCount a lo len n).islandSram = d.islandSram := rfl
@[simp] theorem Device.addCount_power (a lo len n : Nat) : (d.addCount a lo len n).power = d.power := rfl
@[simp] theorem Device.addCount_cfg (a lo len n : Nat) : (d.addCount a lo len n).cfg = d.cfg := rfl
@[simp] theorem Device.addCount_busy (a lo len n : Nat) : (d.addCount a lo len n).busy = d.busy := rfl
@[simp] theorem Device.addCount_lastResult (a lo len n : Nat) : (d.addCount a lo len n).lastResult = d.lastResult := rfl
@[simp] theorem Device.addCount_part (a lo len n : Nat) : (d.addCount a lo len n).part = d.part := rfl
@[simp] theorem Device.addCount_boot (a lo len n : Nat) : (d.addCount a lo len n).boot = d.boot := rfl
@[simp] theorem Device.addCount_sec (a lo len n : Nat) : (d.addCount a lo len n).sec = d.sec := rfl
@[simp] theorem Device.addCount_rank (a lo len n : Nat) : (d.addCount a lo len n).rank = d.rank := rfl
@[simp] theorem Device.addCount_alm (a lo len n : Nat) : (d.addCount a lo len n).alm = d.alm := rfl
@[simp] theorem Device.addCount_herald (a lo len n : Nat) : (d.addCount a lo len n).herald = d.herald := rfl
@[simp] theorem Device.addCount_gov (a lo len n : Nat) : (d.addCount a lo len n).gov = d.gov := rfl
@[simp] theorem Device.addCount_cal (a lo len n : Nat) : (d.addCount a lo len n).cal = d.cal := rfl
@[simp] theorem Device.addCount_banks (a lo len n : Nat) : (d.addCount a lo len n).banks = d.banks := rfl
@[simp] theorem Device.addCount_objects (a lo len n : Nat) : (d.addCount a lo len n).objects = d.objects := rfl
@[simp] theorem Device.addCount_buckets (a lo len n : Nat) : (d.addCount a lo len n).buckets = d.buckets := rfl
@[simp] theorem Device.addCount_ctxs (a lo len n : Nat) : (d.addCount a lo len n).ctxs = d.ctxs := rfl
@[simp] theorem Device.addCount_tenancies (a lo len n : Nat) : (d.addCount a lo len n).tenancies = d.tenancies := rfl
@[simp] theorem Device.addCount_admin (a lo len n : Nat) : (d.addCount a lo len n).admin = d.admin := rfl
@[simp] theorem Device.addCount_notices (a lo len n : Nat) : (d.addCount a lo len n).notices = d.notices := rfl
@[simp] theorem Device.addCount_outbound (a lo len n : Nat) : (d.addCount a lo len n).outbound = d.outbound := rfl
@[simp] theorem Device.addCount_links (a lo len n : Nat) : (d.addCount a lo len n).links = d.links := rfl
@[simp] theorem Device.addCount_sw (a lo len n : Nat) : (d.addCount a lo len n).sw = d.sw := rfl
@[simp] theorem Device.addCount_queues (a lo len n : Nat) : (d.addCount a lo len n).queues = d.queues := rfl
@[simp] theorem Device.addCount_csi (a lo len n : Nat) : (d.addCount a lo len n).csi = d.csi := rfl
@[simp] theorem Device.addCount_can (a lo len n : Nat) : (d.addCount a lo len n).can = d.can := rfl
@[simp] theorem Device.addCount_acf (a lo len n : Nat) : (d.addCount a lo len n).acf = d.acf := rfl
@[simp] theorem Device.addCount_twin0 (a lo len n : Nat) : (d.addCount a lo len n).twin0 = d.twin0 := rfl
@[simp] theorem Device.addCount_twin1 (a lo len n : Nat) : (d.addCount a lo len n).twin1 = d.twin1 := rfl
@[simp] theorem Device.addCount_hwCount (a lo len n : Nat) : (d.addCount a lo len n).hwCount = d.hwCount := rfl
@[simp] theorem Device.addCount_safety (a lo len n : Nat) : (d.addCount a lo len n).safety = d.safety := rfl
@[simp] theorem Device.addCount_half0 (a lo len n : Nat) : (d.addCount a lo len n).half0 = d.half0 := rfl
@[simp] theorem Device.addCount_half1 (a lo len n : Nat) : (d.addCount a lo len n).half1 = d.half1 := rfl
@[simp] theorem Device.addCount_served (a lo len n : Nat) : (d.addCount a lo len n).served = d.served := rfl
@[simp] theorem Device.addCount_portWaits (a lo len n : Nat) : (d.addCount a lo len n).portWaits = d.portWaits := rfl
@[simp] theorem Device.addCount_refreshes (a lo len n : Nat) : (d.addCount a lo len n).refreshes = d.refreshes := rfl
@[simp] theorem Device.addCount_paced (a lo len n : Nat) : (d.addCount a lo len n).paced = d.paced := rfl
@[simp] theorem Device.addCount_bitmapHeld (a lo len n : Nat) : (d.addCount a lo len n).bitmapHeld = d.bitmapHeld := rfl
@[simp] theorem Device.addCount_arb (a lo len n : Nat) : (d.addCount a lo len n).arb = d.arb := rfl
@[simp] theorem Device.addCount_hostCache (a lo len n : Nat) : (d.addCount a lo len n).hostCache = d.hostCache := rfl
@[simp] theorem Device.addCount_reservations (a lo len n : Nat) : (d.addCount a lo len n).reservations = d.reservations := rfl
@[simp] theorem Device.addCount_pools (a lo len n : Nat) : (d.addCount a lo len n).pools = d.pools := rfl
@[simp] theorem Device.addCount_jobs (a lo len n : Nat) : (d.addCount a lo len n).jobs = d.jobs := rfl
@[simp] theorem Device.addCount_lastSteps (a lo len n : Nat) : (d.addCount a lo len n).lastSteps = d.lastSteps := rfl
@[simp] theorem Device.addCount_nextId (a lo len n : Nat) : (d.addCount a lo len n).nextId = d.nextId := rfl
@[simp] theorem Device.addCount_freeIndex (a lo len n : Nat) : (d.addCount a lo len n).freeIndex = d.freeIndex := rfl
@[simp] theorem Device.addCount_answer (a lo len n : Nat) : (d.addCount a lo len n).answer = d.answer := rfl
@[simp] theorem Device.addCount_sent (a lo len n : Nat) : (d.addCount a lo len n).sent = d.sent := rfl

/-! ### Device.raise -/

@[simp] theorem Device.raise_regs (s : Nat) : (d.raise s).regs = d.regs := rfl
@[simp] theorem Device.raise_mem (s : Nat) : (d.raise s).mem = d.mem := rfl
@[simp] theorem Device.raise_islandSram (s : Nat) : (d.raise s).islandSram = d.islandSram := rfl
@[simp] theorem Device.raise_power (s : Nat) : (d.raise s).power = d.power := rfl
@[simp] theorem Device.raise_cfg (s : Nat) : (d.raise s).cfg = d.cfg := rfl
@[simp] theorem Device.raise_busy (s : Nat) : (d.raise s).busy = d.busy := rfl
@[simp] theorem Device.raise_lastResult (s : Nat) : (d.raise s).lastResult = d.lastResult := rfl
@[simp] theorem Device.raise_part (s : Nat) : (d.raise s).part = d.part := rfl
@[simp] theorem Device.raise_boot (s : Nat) : (d.raise s).boot = d.boot := rfl
@[simp] theorem Device.raise_sec (s : Nat) : (d.raise s).sec = d.sec := rfl
@[simp] theorem Device.raise_rank (s : Nat) : (d.raise s).rank = d.rank := rfl
@[simp] theorem Device.raise_alm (s : Nat) : (d.raise s).alm = d.alm := rfl
@[simp] theorem Device.raise_gov (s : Nat) : (d.raise s).gov = d.gov := rfl
@[simp] theorem Device.raise_cal (s : Nat) : (d.raise s).cal = d.cal := rfl
@[simp] theorem Device.raise_banks (s : Nat) : (d.raise s).banks = d.banks := rfl
@[simp] theorem Device.raise_objects (s : Nat) : (d.raise s).objects = d.objects := rfl
@[simp] theorem Device.raise_buckets (s : Nat) : (d.raise s).buckets = d.buckets := rfl
@[simp] theorem Device.raise_ctxs (s : Nat) : (d.raise s).ctxs = d.ctxs := rfl
@[simp] theorem Device.raise_tenancies (s : Nat) : (d.raise s).tenancies = d.tenancies := rfl
@[simp] theorem Device.raise_admin (s : Nat) : (d.raise s).admin = d.admin := rfl
@[simp] theorem Device.raise_notices (s : Nat) : (d.raise s).notices = d.notices := rfl
@[simp] theorem Device.raise_outbound (s : Nat) : (d.raise s).outbound = d.outbound := rfl
@[simp] theorem Device.raise_links (s : Nat) : (d.raise s).links = d.links := rfl
@[simp] theorem Device.raise_sw (s : Nat) : (d.raise s).sw = d.sw := rfl
@[simp] theorem Device.raise_queues (s : Nat) : (d.raise s).queues = d.queues := rfl
@[simp] theorem Device.raise_csi (s : Nat) : (d.raise s).csi = d.csi := rfl
@[simp] theorem Device.raise_can (s : Nat) : (d.raise s).can = d.can := rfl
@[simp] theorem Device.raise_acf (s : Nat) : (d.raise s).acf = d.acf := rfl
@[simp] theorem Device.raise_twin0 (s : Nat) : (d.raise s).twin0 = d.twin0 := rfl
@[simp] theorem Device.raise_twin1 (s : Nat) : (d.raise s).twin1 = d.twin1 := rfl
@[simp] theorem Device.raise_hwCount (s : Nat) : (d.raise s).hwCount = d.hwCount := rfl
@[simp] theorem Device.raise_safety (s : Nat) : (d.raise s).safety = d.safety := rfl
@[simp] theorem Device.raise_half0 (s : Nat) : (d.raise s).half0 = d.half0 := rfl
@[simp] theorem Device.raise_half1 (s : Nat) : (d.raise s).half1 = d.half1 := rfl
@[simp] theorem Device.raise_served (s : Nat) : (d.raise s).served = d.served := rfl
@[simp] theorem Device.raise_portWaits (s : Nat) : (d.raise s).portWaits = d.portWaits := rfl
@[simp] theorem Device.raise_refreshes (s : Nat) : (d.raise s).refreshes = d.refreshes := rfl
@[simp] theorem Device.raise_paced (s : Nat) : (d.raise s).paced = d.paced := rfl
@[simp] theorem Device.raise_bitmapHeld (s : Nat) : (d.raise s).bitmapHeld = d.bitmapHeld := rfl
@[simp] theorem Device.raise_arb (s : Nat) : (d.raise s).arb = d.arb := rfl
@[simp] theorem Device.raise_hostCache (s : Nat) : (d.raise s).hostCache = d.hostCache := rfl
@[simp] theorem Device.raise_reservations (s : Nat) : (d.raise s).reservations = d.reservations := rfl
@[simp] theorem Device.raise_pools (s : Nat) : (d.raise s).pools = d.pools := rfl
@[simp] theorem Device.raise_jobs (s : Nat) : (d.raise s).jobs = d.jobs := rfl
@[simp] theorem Device.raise_lastSteps (s : Nat) : (d.raise s).lastSteps = d.lastSteps := rfl
@[simp] theorem Device.raise_nextId (s : Nat) : (d.raise s).nextId = d.nextId := rfl
@[simp] theorem Device.raise_freeIndex (s : Nat) : (d.raise s).freeIndex = d.freeIndex := rfl
@[simp] theorem Device.raise_answer (s : Nat) : (d.raise s).answer = d.answer := rfl
@[simp] theorem Device.raise_sent (s : Nat) : (d.raise s).sent = d.sent := rfl

/-! ### Device.emit -/

@[simp] theorem Device.emit_regs (o : Output) : (d.emit o).regs = d.regs := rfl
@[simp] theorem Device.emit_mem (o : Output) : (d.emit o).mem = d.mem := rfl
@[simp] theorem Device.emit_islandSram (o : Output) : (d.emit o).islandSram = d.islandSram := rfl
@[simp] theorem Device.emit_power (o : Output) : (d.emit o).power = d.power := rfl
@[simp] theorem Device.emit_cfg (o : Output) : (d.emit o).cfg = d.cfg := rfl
@[simp] theorem Device.emit_busy (o : Output) : (d.emit o).busy = d.busy := rfl
@[simp] theorem Device.emit_lastResult (o : Output) : (d.emit o).lastResult = d.lastResult := rfl
@[simp] theorem Device.emit_part (o : Output) : (d.emit o).part = d.part := rfl
@[simp] theorem Device.emit_boot (o : Output) : (d.emit o).boot = d.boot := rfl
@[simp] theorem Device.emit_sec (o : Output) : (d.emit o).sec = d.sec := rfl
@[simp] theorem Device.emit_rank (o : Output) : (d.emit o).rank = d.rank := rfl
@[simp] theorem Device.emit_alm (o : Output) : (d.emit o).alm = d.alm := rfl
@[simp] theorem Device.emit_herald (o : Output) : (d.emit o).herald = d.herald := rfl
@[simp] theorem Device.emit_gov (o : Output) : (d.emit o).gov = d.gov := rfl
@[simp] theorem Device.emit_cal (o : Output) : (d.emit o).cal = d.cal := rfl
@[simp] theorem Device.emit_banks (o : Output) : (d.emit o).banks = d.banks := rfl
@[simp] theorem Device.emit_objects (o : Output) : (d.emit o).objects = d.objects := rfl
@[simp] theorem Device.emit_buckets (o : Output) : (d.emit o).buckets = d.buckets := rfl
@[simp] theorem Device.emit_ctxs (o : Output) : (d.emit o).ctxs = d.ctxs := rfl
@[simp] theorem Device.emit_tenancies (o : Output) : (d.emit o).tenancies = d.tenancies := rfl
@[simp] theorem Device.emit_admin (o : Output) : (d.emit o).admin = d.admin := rfl
@[simp] theorem Device.emit_notices (o : Output) : (d.emit o).notices = d.notices := rfl
@[simp] theorem Device.emit_outbound (o : Output) : (d.emit o).outbound = d.outbound := rfl
@[simp] theorem Device.emit_links (o : Output) : (d.emit o).links = d.links := rfl
@[simp] theorem Device.emit_sw (o : Output) : (d.emit o).sw = d.sw := rfl
@[simp] theorem Device.emit_queues (o : Output) : (d.emit o).queues = d.queues := rfl
@[simp] theorem Device.emit_csi (o : Output) : (d.emit o).csi = d.csi := rfl
@[simp] theorem Device.emit_can (o : Output) : (d.emit o).can = d.can := rfl
@[simp] theorem Device.emit_acf (o : Output) : (d.emit o).acf = d.acf := rfl
@[simp] theorem Device.emit_twin0 (o : Output) : (d.emit o).twin0 = d.twin0 := rfl
@[simp] theorem Device.emit_twin1 (o : Output) : (d.emit o).twin1 = d.twin1 := rfl
@[simp] theorem Device.emit_hwCount (o : Output) : (d.emit o).hwCount = d.hwCount := rfl
@[simp] theorem Device.emit_safety (o : Output) : (d.emit o).safety = d.safety := rfl
@[simp] theorem Device.emit_half0 (o : Output) : (d.emit o).half0 = d.half0 := rfl
@[simp] theorem Device.emit_half1 (o : Output) : (d.emit o).half1 = d.half1 := rfl
@[simp] theorem Device.emit_served (o : Output) : (d.emit o).served = d.served := rfl
@[simp] theorem Device.emit_portWaits (o : Output) : (d.emit o).portWaits = d.portWaits := rfl
@[simp] theorem Device.emit_refreshes (o : Output) : (d.emit o).refreshes = d.refreshes := rfl
@[simp] theorem Device.emit_paced (o : Output) : (d.emit o).paced = d.paced := rfl
@[simp] theorem Device.emit_bitmapHeld (o : Output) : (d.emit o).bitmapHeld = d.bitmapHeld := rfl
@[simp] theorem Device.emit_arb (o : Output) : (d.emit o).arb = d.arb := rfl
@[simp] theorem Device.emit_hostCache (o : Output) : (d.emit o).hostCache = d.hostCache := rfl
@[simp] theorem Device.emit_reservations (o : Output) : (d.emit o).reservations = d.reservations := rfl
@[simp] theorem Device.emit_pools (o : Output) : (d.emit o).pools = d.pools := rfl
@[simp] theorem Device.emit_jobs (o : Output) : (d.emit o).jobs = d.jobs := rfl
@[simp] theorem Device.emit_lastSteps (o : Output) : (d.emit o).lastSteps = d.lastSteps := rfl
@[simp] theorem Device.emit_nextId (o : Output) : (d.emit o).nextId = d.nextId := rfl
@[simp] theorem Device.emit_freeIndex (o : Output) : (d.emit o).freeIndex = d.freeIndex := rfl
@[simp] theorem Device.emit_answer (o : Output) : (d.emit o).answer = d.answer := rfl

/-! ### Device.reply -/

@[simp] theorem Device.reply_regs (x : Answer) : (d.reply x).regs = d.regs := rfl
@[simp] theorem Device.reply_mem (x : Answer) : (d.reply x).mem = d.mem := rfl
@[simp] theorem Device.reply_islandSram (x : Answer) : (d.reply x).islandSram = d.islandSram := rfl
@[simp] theorem Device.reply_power (x : Answer) : (d.reply x).power = d.power := rfl
@[simp] theorem Device.reply_cfg (x : Answer) : (d.reply x).cfg = d.cfg := rfl
@[simp] theorem Device.reply_busy (x : Answer) : (d.reply x).busy = d.busy := rfl
@[simp] theorem Device.reply_lastResult (x : Answer) : (d.reply x).lastResult = d.lastResult := rfl
@[simp] theorem Device.reply_part (x : Answer) : (d.reply x).part = d.part := rfl
@[simp] theorem Device.reply_boot (x : Answer) : (d.reply x).boot = d.boot := rfl
@[simp] theorem Device.reply_sec (x : Answer) : (d.reply x).sec = d.sec := rfl
@[simp] theorem Device.reply_rank (x : Answer) : (d.reply x).rank = d.rank := rfl
@[simp] theorem Device.reply_alm (x : Answer) : (d.reply x).alm = d.alm := rfl
@[simp] theorem Device.reply_herald (x : Answer) : (d.reply x).herald = d.herald := rfl
@[simp] theorem Device.reply_gov (x : Answer) : (d.reply x).gov = d.gov := rfl
@[simp] theorem Device.reply_cal (x : Answer) : (d.reply x).cal = d.cal := rfl
@[simp] theorem Device.reply_banks (x : Answer) : (d.reply x).banks = d.banks := rfl
@[simp] theorem Device.reply_objects (x : Answer) : (d.reply x).objects = d.objects := rfl
@[simp] theorem Device.reply_buckets (x : Answer) : (d.reply x).buckets = d.buckets := rfl
@[simp] theorem Device.reply_ctxs (x : Answer) : (d.reply x).ctxs = d.ctxs := rfl
@[simp] theorem Device.reply_tenancies (x : Answer) : (d.reply x).tenancies = d.tenancies := rfl
@[simp] theorem Device.reply_admin (x : Answer) : (d.reply x).admin = d.admin := rfl
@[simp] theorem Device.reply_notices (x : Answer) : (d.reply x).notices = d.notices := rfl
@[simp] theorem Device.reply_outbound (x : Answer) : (d.reply x).outbound = d.outbound := rfl
@[simp] theorem Device.reply_links (x : Answer) : (d.reply x).links = d.links := rfl
@[simp] theorem Device.reply_sw (x : Answer) : (d.reply x).sw = d.sw := rfl
@[simp] theorem Device.reply_queues (x : Answer) : (d.reply x).queues = d.queues := rfl
@[simp] theorem Device.reply_csi (x : Answer) : (d.reply x).csi = d.csi := rfl
@[simp] theorem Device.reply_can (x : Answer) : (d.reply x).can = d.can := rfl
@[simp] theorem Device.reply_acf (x : Answer) : (d.reply x).acf = d.acf := rfl
@[simp] theorem Device.reply_twin0 (x : Answer) : (d.reply x).twin0 = d.twin0 := rfl
@[simp] theorem Device.reply_twin1 (x : Answer) : (d.reply x).twin1 = d.twin1 := rfl
@[simp] theorem Device.reply_hwCount (x : Answer) : (d.reply x).hwCount = d.hwCount := rfl
@[simp] theorem Device.reply_safety (x : Answer) : (d.reply x).safety = d.safety := rfl
@[simp] theorem Device.reply_half0 (x : Answer) : (d.reply x).half0 = d.half0 := rfl
@[simp] theorem Device.reply_half1 (x : Answer) : (d.reply x).half1 = d.half1 := rfl
@[simp] theorem Device.reply_served (x : Answer) : (d.reply x).served = d.served := rfl
@[simp] theorem Device.reply_portWaits (x : Answer) : (d.reply x).portWaits = d.portWaits := rfl
@[simp] theorem Device.reply_refreshes (x : Answer) : (d.reply x).refreshes = d.refreshes := rfl
@[simp] theorem Device.reply_paced (x : Answer) : (d.reply x).paced = d.paced := rfl
@[simp] theorem Device.reply_bitmapHeld (x : Answer) : (d.reply x).bitmapHeld = d.bitmapHeld := rfl
@[simp] theorem Device.reply_arb (x : Answer) : (d.reply x).arb = d.arb := rfl
@[simp] theorem Device.reply_hostCache (x : Answer) : (d.reply x).hostCache = d.hostCache := rfl
@[simp] theorem Device.reply_reservations (x : Answer) : (d.reply x).reservations = d.reservations := rfl
@[simp] theorem Device.reply_pools (x : Answer) : (d.reply x).pools = d.pools := rfl
@[simp] theorem Device.reply_jobs (x : Answer) : (d.reply x).jobs = d.jobs := rfl
@[simp] theorem Device.reply_lastSteps (x : Answer) : (d.reply x).lastSteps = d.lastSteps := rfl
@[simp] theorem Device.reply_nextId (x : Answer) : (d.reply x).nextId = d.nextId := rfl
@[simp] theorem Device.reply_freeIndex (x : Answer) : (d.reply x).freeIndex = d.freeIndex := rfl
@[simp] theorem Device.reply_sent (x : Answer) : (d.reply x).sent = d.sent := rfl

/-! ### Device.enter -/

@[simp] theorem Device.enter_regs (c : CfgState) : (d.enter c).regs = d.regs := rfl
@[simp] theorem Device.enter_mem (c : CfgState) : (d.enter c).mem = d.mem := rfl
@[simp] theorem Device.enter_islandSram (c : CfgState) : (d.enter c).islandSram = d.islandSram := rfl
@[simp] theorem Device.enter_power (c : CfgState) : (d.enter c).power = d.power := rfl
@[simp] theorem Device.enter_busy (c : CfgState) : (d.enter c).busy = d.busy := rfl
@[simp] theorem Device.enter_lastResult (c : CfgState) : (d.enter c).lastResult = d.lastResult := rfl
@[simp] theorem Device.enter_part (c : CfgState) : (d.enter c).part = d.part := rfl
@[simp] theorem Device.enter_boot (c : CfgState) : (d.enter c).boot = d.boot := rfl
@[simp] theorem Device.enter_sec (c : CfgState) : (d.enter c).sec = d.sec := rfl
@[simp] theorem Device.enter_rank (c : CfgState) : (d.enter c).rank = d.rank := rfl
@[simp] theorem Device.enter_alm (c : CfgState) : (d.enter c).alm = d.alm := rfl
@[simp] theorem Device.enter_gov (c : CfgState) : (d.enter c).gov = d.gov := rfl
@[simp] theorem Device.enter_cal (c : CfgState) : (d.enter c).cal = d.cal := rfl
@[simp] theorem Device.enter_banks (c : CfgState) : (d.enter c).banks = d.banks := rfl
@[simp] theorem Device.enter_objects (c : CfgState) : (d.enter c).objects = d.objects := rfl
@[simp] theorem Device.enter_buckets (c : CfgState) : (d.enter c).buckets = d.buckets := rfl
@[simp] theorem Device.enter_ctxs (c : CfgState) : (d.enter c).ctxs = d.ctxs := rfl
@[simp] theorem Device.enter_tenancies (c : CfgState) : (d.enter c).tenancies = d.tenancies := rfl
@[simp] theorem Device.enter_admin (c : CfgState) : (d.enter c).admin = d.admin := rfl
@[simp] theorem Device.enter_notices (c : CfgState) : (d.enter c).notices = d.notices := rfl
@[simp] theorem Device.enter_outbound (c : CfgState) : (d.enter c).outbound = d.outbound := rfl
@[simp] theorem Device.enter_links (c : CfgState) : (d.enter c).links = d.links := rfl
@[simp] theorem Device.enter_sw (c : CfgState) : (d.enter c).sw = d.sw := rfl
@[simp] theorem Device.enter_queues (c : CfgState) : (d.enter c).queues = d.queues := rfl
@[simp] theorem Device.enter_csi (c : CfgState) : (d.enter c).csi = d.csi := rfl
@[simp] theorem Device.enter_can (c : CfgState) : (d.enter c).can = d.can := rfl
@[simp] theorem Device.enter_acf (c : CfgState) : (d.enter c).acf = d.acf := rfl
@[simp] theorem Device.enter_twin0 (c : CfgState) : (d.enter c).twin0 = d.twin0 := rfl
@[simp] theorem Device.enter_twin1 (c : CfgState) : (d.enter c).twin1 = d.twin1 := rfl
@[simp] theorem Device.enter_hwCount (c : CfgState) : (d.enter c).hwCount = d.hwCount := rfl
@[simp] theorem Device.enter_safety (c : CfgState) : (d.enter c).safety = d.safety := rfl
@[simp] theorem Device.enter_half0 (c : CfgState) : (d.enter c).half0 = d.half0 := rfl
@[simp] theorem Device.enter_half1 (c : CfgState) : (d.enter c).half1 = d.half1 := rfl
@[simp] theorem Device.enter_served (c : CfgState) : (d.enter c).served = d.served := rfl
@[simp] theorem Device.enter_portWaits (c : CfgState) : (d.enter c).portWaits = d.portWaits := rfl
@[simp] theorem Device.enter_refreshes (c : CfgState) : (d.enter c).refreshes = d.refreshes := rfl
@[simp] theorem Device.enter_paced (c : CfgState) : (d.enter c).paced = d.paced := rfl
@[simp] theorem Device.enter_bitmapHeld (c : CfgState) : (d.enter c).bitmapHeld = d.bitmapHeld := rfl
@[simp] theorem Device.enter_arb (c : CfgState) : (d.enter c).arb = d.arb := rfl
@[simp] theorem Device.enter_hostCache (c : CfgState) : (d.enter c).hostCache = d.hostCache := rfl
@[simp] theorem Device.enter_reservations (c : CfgState) : (d.enter c).reservations = d.reservations := rfl
@[simp] theorem Device.enter_pools (c : CfgState) : (d.enter c).pools = d.pools := rfl
@[simp] theorem Device.enter_jobs (c : CfgState) : (d.enter c).jobs = d.jobs := rfl
@[simp] theorem Device.enter_lastSteps (c : CfgState) : (d.enter c).lastSteps = d.lastSteps := rfl
@[simp] theorem Device.enter_nextId (c : CfgState) : (d.enter c).nextId = d.nextId := rfl
@[simp] theorem Device.enter_freeIndex (c : CfgState) : (d.enter c).freeIndex = d.freeIndex := rfl
@[simp] theorem Device.enter_answer (c : CfgState) : (d.enter c).answer = d.answer := rfl
@[simp] theorem Device.enter_sent (c : CfgState) : (d.enter c).sent = d.sent := rfl

/-! ### Device.setCtx -/

@[simp] theorem Device.setCtx_regs (c : Nat) (x : Ctx) : (d.setCtx c x).regs = d.regs := rfl
@[simp] theorem Device.setCtx_mem (c : Nat) (x : Ctx) : (d.setCtx c x).mem = d.mem := rfl
@[simp] theorem Device.setCtx_islandSram (c : Nat) (x : Ctx) : (d.setCtx c x).islandSram = d.islandSram := rfl
@[simp] theorem Device.setCtx_power (c : Nat) (x : Ctx) : (d.setCtx c x).power = d.power := rfl
@[simp] theorem Device.setCtx_cfg (c : Nat) (x : Ctx) : (d.setCtx c x).cfg = d.cfg := rfl
@[simp] theorem Device.setCtx_busy (c : Nat) (x : Ctx) : (d.setCtx c x).busy = d.busy := rfl
@[simp] theorem Device.setCtx_lastResult (c : Nat) (x : Ctx) : (d.setCtx c x).lastResult = d.lastResult := rfl
@[simp] theorem Device.setCtx_part (c : Nat) (x : Ctx) : (d.setCtx c x).part = d.part := rfl
@[simp] theorem Device.setCtx_boot (c : Nat) (x : Ctx) : (d.setCtx c x).boot = d.boot := rfl
@[simp] theorem Device.setCtx_sec (c : Nat) (x : Ctx) : (d.setCtx c x).sec = d.sec := rfl
@[simp] theorem Device.setCtx_rank (c : Nat) (x : Ctx) : (d.setCtx c x).rank = d.rank := rfl
@[simp] theorem Device.setCtx_alm (c : Nat) (x : Ctx) : (d.setCtx c x).alm = d.alm := rfl
@[simp] theorem Device.setCtx_herald (c : Nat) (x : Ctx) : (d.setCtx c x).herald = d.herald := rfl
@[simp] theorem Device.setCtx_gov (c : Nat) (x : Ctx) : (d.setCtx c x).gov = d.gov := rfl
@[simp] theorem Device.setCtx_cal (c : Nat) (x : Ctx) : (d.setCtx c x).cal = d.cal := rfl
@[simp] theorem Device.setCtx_banks (c : Nat) (x : Ctx) : (d.setCtx c x).banks = d.banks := rfl
@[simp] theorem Device.setCtx_objects (c : Nat) (x : Ctx) : (d.setCtx c x).objects = d.objects := rfl
@[simp] theorem Device.setCtx_buckets (c : Nat) (x : Ctx) : (d.setCtx c x).buckets = d.buckets := rfl
@[simp] theorem Device.setCtx_tenancies (c : Nat) (x : Ctx) : (d.setCtx c x).tenancies = d.tenancies := rfl
@[simp] theorem Device.setCtx_admin (c : Nat) (x : Ctx) : (d.setCtx c x).admin = d.admin := rfl
@[simp] theorem Device.setCtx_notices (c : Nat) (x : Ctx) : (d.setCtx c x).notices = d.notices := rfl
@[simp] theorem Device.setCtx_outbound (c : Nat) (x : Ctx) : (d.setCtx c x).outbound = d.outbound := rfl
@[simp] theorem Device.setCtx_links (c : Nat) (x : Ctx) : (d.setCtx c x).links = d.links := rfl
@[simp] theorem Device.setCtx_sw (c : Nat) (x : Ctx) : (d.setCtx c x).sw = d.sw := rfl
@[simp] theorem Device.setCtx_queues (c : Nat) (x : Ctx) : (d.setCtx c x).queues = d.queues := rfl
@[simp] theorem Device.setCtx_csi (c : Nat) (x : Ctx) : (d.setCtx c x).csi = d.csi := rfl
@[simp] theorem Device.setCtx_can (c : Nat) (x : Ctx) : (d.setCtx c x).can = d.can := rfl
@[simp] theorem Device.setCtx_acf (c : Nat) (x : Ctx) : (d.setCtx c x).acf = d.acf := rfl
@[simp] theorem Device.setCtx_twin0 (c : Nat) (x : Ctx) : (d.setCtx c x).twin0 = d.twin0 := rfl
@[simp] theorem Device.setCtx_twin1 (c : Nat) (x : Ctx) : (d.setCtx c x).twin1 = d.twin1 := rfl
@[simp] theorem Device.setCtx_hwCount (c : Nat) (x : Ctx) : (d.setCtx c x).hwCount = d.hwCount := rfl
@[simp] theorem Device.setCtx_safety (c : Nat) (x : Ctx) : (d.setCtx c x).safety = d.safety := rfl
@[simp] theorem Device.setCtx_half0 (c : Nat) (x : Ctx) : (d.setCtx c x).half0 = d.half0 := rfl
@[simp] theorem Device.setCtx_half1 (c : Nat) (x : Ctx) : (d.setCtx c x).half1 = d.half1 := rfl
@[simp] theorem Device.setCtx_served (c : Nat) (x : Ctx) : (d.setCtx c x).served = d.served := rfl
@[simp] theorem Device.setCtx_portWaits (c : Nat) (x : Ctx) : (d.setCtx c x).portWaits = d.portWaits := rfl
@[simp] theorem Device.setCtx_refreshes (c : Nat) (x : Ctx) : (d.setCtx c x).refreshes = d.refreshes := rfl
@[simp] theorem Device.setCtx_paced (c : Nat) (x : Ctx) : (d.setCtx c x).paced = d.paced := rfl
@[simp] theorem Device.setCtx_bitmapHeld (c : Nat) (x : Ctx) : (d.setCtx c x).bitmapHeld = d.bitmapHeld := rfl
@[simp] theorem Device.setCtx_arb (c : Nat) (x : Ctx) : (d.setCtx c x).arb = d.arb := rfl
@[simp] theorem Device.setCtx_hostCache (c : Nat) (x : Ctx) : (d.setCtx c x).hostCache = d.hostCache := rfl
@[simp] theorem Device.setCtx_reservations (c : Nat) (x : Ctx) : (d.setCtx c x).reservations = d.reservations := rfl
@[simp] theorem Device.setCtx_pools (c : Nat) (x : Ctx) : (d.setCtx c x).pools = d.pools := rfl
@[simp] theorem Device.setCtx_jobs (c : Nat) (x : Ctx) : (d.setCtx c x).jobs = d.jobs := rfl
@[simp] theorem Device.setCtx_lastSteps (c : Nat) (x : Ctx) : (d.setCtx c x).lastSteps = d.lastSteps := rfl
@[simp] theorem Device.setCtx_nextId (c : Nat) (x : Ctx) : (d.setCtx c x).nextId = d.nextId := rfl
@[simp] theorem Device.setCtx_freeIndex (c : Nat) (x : Ctx) : (d.setCtx c x).freeIndex = d.freeIndex := rfl
@[simp] theorem Device.setCtx_answer (c : Nat) (x : Ctx) : (d.setCtx c x).answer = d.answer := rfl
@[simp] theorem Device.setCtx_sent (c : Nat) (x : Ctx) : (d.setCtx c x).sent = d.sent := rfl

/-! ### Device.setTen -/

@[simp] theorem Device.setTen_regs (t : Nat) (x : Tenancy) : (d.setTen t x).regs = d.regs := rfl
@[simp] theorem Device.setTen_mem (t : Nat) (x : Tenancy) : (d.setTen t x).mem = d.mem := rfl
@[simp] theorem Device.setTen_islandSram (t : Nat) (x : Tenancy) : (d.setTen t x).islandSram = d.islandSram := rfl
@[simp] theorem Device.setTen_power (t : Nat) (x : Tenancy) : (d.setTen t x).power = d.power := rfl
@[simp] theorem Device.setTen_cfg (t : Nat) (x : Tenancy) : (d.setTen t x).cfg = d.cfg := rfl
@[simp] theorem Device.setTen_busy (t : Nat) (x : Tenancy) : (d.setTen t x).busy = d.busy := rfl
@[simp] theorem Device.setTen_lastResult (t : Nat) (x : Tenancy) : (d.setTen t x).lastResult = d.lastResult := rfl
@[simp] theorem Device.setTen_part (t : Nat) (x : Tenancy) : (d.setTen t x).part = d.part := rfl
@[simp] theorem Device.setTen_boot (t : Nat) (x : Tenancy) : (d.setTen t x).boot = d.boot := rfl
@[simp] theorem Device.setTen_sec (t : Nat) (x : Tenancy) : (d.setTen t x).sec = d.sec := rfl
@[simp] theorem Device.setTen_rank (t : Nat) (x : Tenancy) : (d.setTen t x).rank = d.rank := rfl
@[simp] theorem Device.setTen_alm (t : Nat) (x : Tenancy) : (d.setTen t x).alm = d.alm := rfl
@[simp] theorem Device.setTen_herald (t : Nat) (x : Tenancy) : (d.setTen t x).herald = d.herald := rfl
@[simp] theorem Device.setTen_gov (t : Nat) (x : Tenancy) : (d.setTen t x).gov = d.gov := rfl
@[simp] theorem Device.setTen_cal (t : Nat) (x : Tenancy) : (d.setTen t x).cal = d.cal := rfl
@[simp] theorem Device.setTen_banks (t : Nat) (x : Tenancy) : (d.setTen t x).banks = d.banks := rfl
@[simp] theorem Device.setTen_objects (t : Nat) (x : Tenancy) : (d.setTen t x).objects = d.objects := rfl
@[simp] theorem Device.setTen_buckets (t : Nat) (x : Tenancy) : (d.setTen t x).buckets = d.buckets := rfl
@[simp] theorem Device.setTen_ctxs (t : Nat) (x : Tenancy) : (d.setTen t x).ctxs = d.ctxs := rfl
@[simp] theorem Device.setTen_admin (t : Nat) (x : Tenancy) : (d.setTen t x).admin = d.admin := rfl
@[simp] theorem Device.setTen_notices (t : Nat) (x : Tenancy) : (d.setTen t x).notices = d.notices := rfl
@[simp] theorem Device.setTen_outbound (t : Nat) (x : Tenancy) : (d.setTen t x).outbound = d.outbound := rfl
@[simp] theorem Device.setTen_links (t : Nat) (x : Tenancy) : (d.setTen t x).links = d.links := rfl
@[simp] theorem Device.setTen_sw (t : Nat) (x : Tenancy) : (d.setTen t x).sw = d.sw := rfl
@[simp] theorem Device.setTen_queues (t : Nat) (x : Tenancy) : (d.setTen t x).queues = d.queues := rfl
@[simp] theorem Device.setTen_csi (t : Nat) (x : Tenancy) : (d.setTen t x).csi = d.csi := rfl
@[simp] theorem Device.setTen_can (t : Nat) (x : Tenancy) : (d.setTen t x).can = d.can := rfl
@[simp] theorem Device.setTen_acf (t : Nat) (x : Tenancy) : (d.setTen t x).acf = d.acf := rfl
@[simp] theorem Device.setTen_twin0 (t : Nat) (x : Tenancy) : (d.setTen t x).twin0 = d.twin0 := rfl
@[simp] theorem Device.setTen_twin1 (t : Nat) (x : Tenancy) : (d.setTen t x).twin1 = d.twin1 := rfl
@[simp] theorem Device.setTen_hwCount (t : Nat) (x : Tenancy) : (d.setTen t x).hwCount = d.hwCount := rfl
@[simp] theorem Device.setTen_safety (t : Nat) (x : Tenancy) : (d.setTen t x).safety = d.safety := rfl
@[simp] theorem Device.setTen_half0 (t : Nat) (x : Tenancy) : (d.setTen t x).half0 = d.half0 := rfl
@[simp] theorem Device.setTen_half1 (t : Nat) (x : Tenancy) : (d.setTen t x).half1 = d.half1 := rfl
@[simp] theorem Device.setTen_served (t : Nat) (x : Tenancy) : (d.setTen t x).served = d.served := rfl
@[simp] theorem Device.setTen_portWaits (t : Nat) (x : Tenancy) : (d.setTen t x).portWaits = d.portWaits := rfl
@[simp] theorem Device.setTen_refreshes (t : Nat) (x : Tenancy) : (d.setTen t x).refreshes = d.refreshes := rfl
@[simp] theorem Device.setTen_paced (t : Nat) (x : Tenancy) : (d.setTen t x).paced = d.paced := rfl
@[simp] theorem Device.setTen_bitmapHeld (t : Nat) (x : Tenancy) : (d.setTen t x).bitmapHeld = d.bitmapHeld := rfl
@[simp] theorem Device.setTen_arb (t : Nat) (x : Tenancy) : (d.setTen t x).arb = d.arb := rfl
@[simp] theorem Device.setTen_hostCache (t : Nat) (x : Tenancy) : (d.setTen t x).hostCache = d.hostCache := rfl
@[simp] theorem Device.setTen_reservations (t : Nat) (x : Tenancy) : (d.setTen t x).reservations = d.reservations := rfl
@[simp] theorem Device.setTen_pools (t : Nat) (x : Tenancy) : (d.setTen t x).pools = d.pools := rfl
@[simp] theorem Device.setTen_jobs (t : Nat) (x : Tenancy) : (d.setTen t x).jobs = d.jobs := rfl
@[simp] theorem Device.setTen_lastSteps (t : Nat) (x : Tenancy) : (d.setTen t x).lastSteps = d.lastSteps := rfl
@[simp] theorem Device.setTen_nextId (t : Nat) (x : Tenancy) : (d.setTen t x).nextId = d.nextId := rfl
@[simp] theorem Device.setTen_freeIndex (t : Nat) (x : Tenancy) : (d.setTen t x).freeIndex = d.freeIndex := rfl
@[simp] theorem Device.setTen_answer (t : Nat) (x : Tenancy) : (d.setTen t x).answer = d.answer := rfl
@[simp] theorem Device.setTen_sent (t : Nat) (x : Tenancy) : (d.setTen t x).sent = d.sent := rfl

/-! ### Device.setBank -/

@[simp] theorem Device.setBank_regs (core ctx : Nat) (b : Bank) : (d.setBank core ctx b).regs = d.regs := rfl
@[simp] theorem Device.setBank_mem (core ctx : Nat) (b : Bank) : (d.setBank core ctx b).mem = d.mem := rfl
@[simp] theorem Device.setBank_islandSram (core ctx : Nat) (b : Bank) : (d.setBank core ctx b).islandSram = d.islandSram := rfl
@[simp] theorem Device.setBank_power (core ctx : Nat) (b : Bank) : (d.setBank core ctx b).power = d.power := rfl
@[simp] theorem Device.setBank_cfg (core ctx : Nat) (b : Bank) : (d.setBank core ctx b).cfg = d.cfg := rfl
@[simp] theorem Device.setBank_busy (core ctx : Nat) (b : Bank) : (d.setBank core ctx b).busy = d.busy := rfl
@[simp] theorem Device.setBank_lastResult (core ctx : Nat) (b : Bank) : (d.setBank core ctx b).lastResult = d.lastResult := rfl
@[simp] theorem Device.setBank_part (core ctx : Nat) (b : Bank) : (d.setBank core ctx b).part = d.part := rfl
@[simp] theorem Device.setBank_boot (core ctx : Nat) (b : Bank) : (d.setBank core ctx b).boot = d.boot := rfl
@[simp] theorem Device.setBank_sec (core ctx : Nat) (b : Bank) : (d.setBank core ctx b).sec = d.sec := rfl
@[simp] theorem Device.setBank_rank (core ctx : Nat) (b : Bank) : (d.setBank core ctx b).rank = d.rank := rfl
@[simp] theorem Device.setBank_alm (core ctx : Nat) (b : Bank) : (d.setBank core ctx b).alm = d.alm := rfl
@[simp] theorem Device.setBank_herald (core ctx : Nat) (b : Bank) : (d.setBank core ctx b).herald = d.herald := rfl
@[simp] theorem Device.setBank_gov (core ctx : Nat) (b : Bank) : (d.setBank core ctx b).gov = d.gov := rfl
@[simp] theorem Device.setBank_cal (core ctx : Nat) (b : Bank) : (d.setBank core ctx b).cal = d.cal := rfl
@[simp] theorem Device.setBank_objects (core ctx : Nat) (b : Bank) : (d.setBank core ctx b).objects = d.objects := rfl
@[simp] theorem Device.setBank_buckets (core ctx : Nat) (b : Bank) : (d.setBank core ctx b).buckets = d.buckets := rfl
@[simp] theorem Device.setBank_ctxs (core ctx : Nat) (b : Bank) : (d.setBank core ctx b).ctxs = d.ctxs := rfl
@[simp] theorem Device.setBank_tenancies (core ctx : Nat) (b : Bank) : (d.setBank core ctx b).tenancies = d.tenancies := rfl
@[simp] theorem Device.setBank_admin (core ctx : Nat) (b : Bank) : (d.setBank core ctx b).admin = d.admin := rfl
@[simp] theorem Device.setBank_notices (core ctx : Nat) (b : Bank) : (d.setBank core ctx b).notices = d.notices := rfl
@[simp] theorem Device.setBank_outbound (core ctx : Nat) (b : Bank) : (d.setBank core ctx b).outbound = d.outbound := rfl
@[simp] theorem Device.setBank_links (core ctx : Nat) (b : Bank) : (d.setBank core ctx b).links = d.links := rfl
@[simp] theorem Device.setBank_sw (core ctx : Nat) (b : Bank) : (d.setBank core ctx b).sw = d.sw := rfl
@[simp] theorem Device.setBank_queues (core ctx : Nat) (b : Bank) : (d.setBank core ctx b).queues = d.queues := rfl
@[simp] theorem Device.setBank_csi (core ctx : Nat) (b : Bank) : (d.setBank core ctx b).csi = d.csi := rfl
@[simp] theorem Device.setBank_can (core ctx : Nat) (b : Bank) : (d.setBank core ctx b).can = d.can := rfl
@[simp] theorem Device.setBank_acf (core ctx : Nat) (b : Bank) : (d.setBank core ctx b).acf = d.acf := rfl
@[simp] theorem Device.setBank_twin0 (core ctx : Nat) (b : Bank) : (d.setBank core ctx b).twin0 = d.twin0 := rfl
@[simp] theorem Device.setBank_twin1 (core ctx : Nat) (b : Bank) : (d.setBank core ctx b).twin1 = d.twin1 := rfl
@[simp] theorem Device.setBank_hwCount (core ctx : Nat) (b : Bank) : (d.setBank core ctx b).hwCount = d.hwCount := rfl
@[simp] theorem Device.setBank_safety (core ctx : Nat) (b : Bank) : (d.setBank core ctx b).safety = d.safety := rfl
@[simp] theorem Device.setBank_half0 (core ctx : Nat) (b : Bank) : (d.setBank core ctx b).half0 = d.half0 := rfl
@[simp] theorem Device.setBank_half1 (core ctx : Nat) (b : Bank) : (d.setBank core ctx b).half1 = d.half1 := rfl
@[simp] theorem Device.setBank_served (core ctx : Nat) (b : Bank) : (d.setBank core ctx b).served = d.served := rfl
@[simp] theorem Device.setBank_portWaits (core ctx : Nat) (b : Bank) : (d.setBank core ctx b).portWaits = d.portWaits := rfl
@[simp] theorem Device.setBank_refreshes (core ctx : Nat) (b : Bank) : (d.setBank core ctx b).refreshes = d.refreshes := rfl
@[simp] theorem Device.setBank_paced (core ctx : Nat) (b : Bank) : (d.setBank core ctx b).paced = d.paced := rfl
@[simp] theorem Device.setBank_bitmapHeld (core ctx : Nat) (b : Bank) : (d.setBank core ctx b).bitmapHeld = d.bitmapHeld := rfl
@[simp] theorem Device.setBank_arb (core ctx : Nat) (b : Bank) : (d.setBank core ctx b).arb = d.arb := rfl
@[simp] theorem Device.setBank_hostCache (core ctx : Nat) (b : Bank) : (d.setBank core ctx b).hostCache = d.hostCache := rfl
@[simp] theorem Device.setBank_reservations (core ctx : Nat) (b : Bank) : (d.setBank core ctx b).reservations = d.reservations := rfl
@[simp] theorem Device.setBank_pools (core ctx : Nat) (b : Bank) : (d.setBank core ctx b).pools = d.pools := rfl
@[simp] theorem Device.setBank_jobs (core ctx : Nat) (b : Bank) : (d.setBank core ctx b).jobs = d.jobs := rfl
@[simp] theorem Device.setBank_lastSteps (core ctx : Nat) (b : Bank) : (d.setBank core ctx b).lastSteps = d.lastSteps := rfl
@[simp] theorem Device.setBank_nextId (core ctx : Nat) (b : Bank) : (d.setBank core ctx b).nextId = d.nextId := rfl
@[simp] theorem Device.setBank_freeIndex (core ctx : Nat) (b : Bank) : (d.setBank core ctx b).freeIndex = d.freeIndex := rfl
@[simp] theorem Device.setBank_answer (core ctx : Nat) (b : Bank) : (d.setBank core ctx b).answer = d.answer := rfl
@[simp] theorem Device.setBank_sent (core ctx : Nat) (b : Bank) : (d.setBank core ctx b).sent = d.sent := rfl

/-! ### Device.setQueue -/

@[simp] theorem Device.setQueue_regs (q : Nat) (x : FrameQueue) : (d.setQueue q x).regs = d.regs := rfl
@[simp] theorem Device.setQueue_mem (q : Nat) (x : FrameQueue) : (d.setQueue q x).mem = d.mem := rfl
@[simp] theorem Device.setQueue_islandSram (q : Nat) (x : FrameQueue) : (d.setQueue q x).islandSram = d.islandSram := rfl
@[simp] theorem Device.setQueue_power (q : Nat) (x : FrameQueue) : (d.setQueue q x).power = d.power := rfl
@[simp] theorem Device.setQueue_cfg (q : Nat) (x : FrameQueue) : (d.setQueue q x).cfg = d.cfg := rfl
@[simp] theorem Device.setQueue_busy (q : Nat) (x : FrameQueue) : (d.setQueue q x).busy = d.busy := rfl
@[simp] theorem Device.setQueue_lastResult (q : Nat) (x : FrameQueue) : (d.setQueue q x).lastResult = d.lastResult := rfl
@[simp] theorem Device.setQueue_part (q : Nat) (x : FrameQueue) : (d.setQueue q x).part = d.part := rfl
@[simp] theorem Device.setQueue_boot (q : Nat) (x : FrameQueue) : (d.setQueue q x).boot = d.boot := rfl
@[simp] theorem Device.setQueue_sec (q : Nat) (x : FrameQueue) : (d.setQueue q x).sec = d.sec := rfl
@[simp] theorem Device.setQueue_rank (q : Nat) (x : FrameQueue) : (d.setQueue q x).rank = d.rank := rfl
@[simp] theorem Device.setQueue_alm (q : Nat) (x : FrameQueue) : (d.setQueue q x).alm = d.alm := rfl
@[simp] theorem Device.setQueue_herald (q : Nat) (x : FrameQueue) : (d.setQueue q x).herald = d.herald := rfl
@[simp] theorem Device.setQueue_gov (q : Nat) (x : FrameQueue) : (d.setQueue q x).gov = d.gov := rfl
@[simp] theorem Device.setQueue_cal (q : Nat) (x : FrameQueue) : (d.setQueue q x).cal = d.cal := rfl
@[simp] theorem Device.setQueue_banks (q : Nat) (x : FrameQueue) : (d.setQueue q x).banks = d.banks := rfl
@[simp] theorem Device.setQueue_objects (q : Nat) (x : FrameQueue) : (d.setQueue q x).objects = d.objects := rfl
@[simp] theorem Device.setQueue_buckets (q : Nat) (x : FrameQueue) : (d.setQueue q x).buckets = d.buckets := rfl
@[simp] theorem Device.setQueue_ctxs (q : Nat) (x : FrameQueue) : (d.setQueue q x).ctxs = d.ctxs := rfl
@[simp] theorem Device.setQueue_tenancies (q : Nat) (x : FrameQueue) : (d.setQueue q x).tenancies = d.tenancies := rfl
@[simp] theorem Device.setQueue_admin (q : Nat) (x : FrameQueue) : (d.setQueue q x).admin = d.admin := rfl
@[simp] theorem Device.setQueue_notices (q : Nat) (x : FrameQueue) : (d.setQueue q x).notices = d.notices := rfl
@[simp] theorem Device.setQueue_outbound (q : Nat) (x : FrameQueue) : (d.setQueue q x).outbound = d.outbound := rfl
@[simp] theorem Device.setQueue_links (q : Nat) (x : FrameQueue) : (d.setQueue q x).links = d.links := rfl
@[simp] theorem Device.setQueue_sw (q : Nat) (x : FrameQueue) : (d.setQueue q x).sw = d.sw := rfl
@[simp] theorem Device.setQueue_csi (q : Nat) (x : FrameQueue) : (d.setQueue q x).csi = d.csi := rfl
@[simp] theorem Device.setQueue_can (q : Nat) (x : FrameQueue) : (d.setQueue q x).can = d.can := rfl
@[simp] theorem Device.setQueue_acf (q : Nat) (x : FrameQueue) : (d.setQueue q x).acf = d.acf := rfl
@[simp] theorem Device.setQueue_twin0 (q : Nat) (x : FrameQueue) : (d.setQueue q x).twin0 = d.twin0 := rfl
@[simp] theorem Device.setQueue_twin1 (q : Nat) (x : FrameQueue) : (d.setQueue q x).twin1 = d.twin1 := rfl
@[simp] theorem Device.setQueue_hwCount (q : Nat) (x : FrameQueue) : (d.setQueue q x).hwCount = d.hwCount := rfl
@[simp] theorem Device.setQueue_safety (q : Nat) (x : FrameQueue) : (d.setQueue q x).safety = d.safety := rfl
@[simp] theorem Device.setQueue_half0 (q : Nat) (x : FrameQueue) : (d.setQueue q x).half0 = d.half0 := rfl
@[simp] theorem Device.setQueue_half1 (q : Nat) (x : FrameQueue) : (d.setQueue q x).half1 = d.half1 := rfl
@[simp] theorem Device.setQueue_served (q : Nat) (x : FrameQueue) : (d.setQueue q x).served = d.served := rfl
@[simp] theorem Device.setQueue_portWaits (q : Nat) (x : FrameQueue) : (d.setQueue q x).portWaits = d.portWaits := rfl
@[simp] theorem Device.setQueue_refreshes (q : Nat) (x : FrameQueue) : (d.setQueue q x).refreshes = d.refreshes := rfl
@[simp] theorem Device.setQueue_paced (q : Nat) (x : FrameQueue) : (d.setQueue q x).paced = d.paced := rfl
@[simp] theorem Device.setQueue_bitmapHeld (q : Nat) (x : FrameQueue) : (d.setQueue q x).bitmapHeld = d.bitmapHeld := rfl
@[simp] theorem Device.setQueue_arb (q : Nat) (x : FrameQueue) : (d.setQueue q x).arb = d.arb := rfl
@[simp] theorem Device.setQueue_hostCache (q : Nat) (x : FrameQueue) : (d.setQueue q x).hostCache = d.hostCache := rfl
@[simp] theorem Device.setQueue_reservations (q : Nat) (x : FrameQueue) : (d.setQueue q x).reservations = d.reservations := rfl
@[simp] theorem Device.setQueue_pools (q : Nat) (x : FrameQueue) : (d.setQueue q x).pools = d.pools := rfl
@[simp] theorem Device.setQueue_jobs (q : Nat) (x : FrameQueue) : (d.setQueue q x).jobs = d.jobs := rfl
@[simp] theorem Device.setQueue_lastSteps (q : Nat) (x : FrameQueue) : (d.setQueue q x).lastSteps = d.lastSteps := rfl
@[simp] theorem Device.setQueue_nextId (q : Nat) (x : FrameQueue) : (d.setQueue q x).nextId = d.nextId := rfl
@[simp] theorem Device.setQueue_freeIndex (q : Nat) (x : FrameQueue) : (d.setQueue q x).freeIndex = d.freeIndex := rfl
@[simp] theorem Device.setQueue_answer (q : Nat) (x : FrameQueue) : (d.setQueue q x).answer = d.answer := rfl
@[simp] theorem Device.setQueue_sent (q : Nat) (x : FrameQueue) : (d.setQueue q x).sent = d.sent := rfl

/-! ### Device.setStream -/

@[simp] theorem Device.setStream_regs (i : Nat) (x : CsiStream) : (d.setStream i x).regs = d.regs := rfl
@[simp] theorem Device.setStream_mem (i : Nat) (x : CsiStream) : (d.setStream i x).mem = d.mem := rfl
@[simp] theorem Device.setStream_islandSram (i : Nat) (x : CsiStream) : (d.setStream i x).islandSram = d.islandSram := rfl
@[simp] theorem Device.setStream_power (i : Nat) (x : CsiStream) : (d.setStream i x).power = d.power := rfl
@[simp] theorem Device.setStream_cfg (i : Nat) (x : CsiStream) : (d.setStream i x).cfg = d.cfg := rfl
@[simp] theorem Device.setStream_busy (i : Nat) (x : CsiStream) : (d.setStream i x).busy = d.busy := rfl
@[simp] theorem Device.setStream_lastResult (i : Nat) (x : CsiStream) : (d.setStream i x).lastResult = d.lastResult := rfl
@[simp] theorem Device.setStream_part (i : Nat) (x : CsiStream) : (d.setStream i x).part = d.part := rfl
@[simp] theorem Device.setStream_boot (i : Nat) (x : CsiStream) : (d.setStream i x).boot = d.boot := rfl
@[simp] theorem Device.setStream_sec (i : Nat) (x : CsiStream) : (d.setStream i x).sec = d.sec := rfl
@[simp] theorem Device.setStream_rank (i : Nat) (x : CsiStream) : (d.setStream i x).rank = d.rank := rfl
@[simp] theorem Device.setStream_alm (i : Nat) (x : CsiStream) : (d.setStream i x).alm = d.alm := rfl
@[simp] theorem Device.setStream_herald (i : Nat) (x : CsiStream) : (d.setStream i x).herald = d.herald := rfl
@[simp] theorem Device.setStream_gov (i : Nat) (x : CsiStream) : (d.setStream i x).gov = d.gov := rfl
@[simp] theorem Device.setStream_cal (i : Nat) (x : CsiStream) : (d.setStream i x).cal = d.cal := rfl
@[simp] theorem Device.setStream_banks (i : Nat) (x : CsiStream) : (d.setStream i x).banks = d.banks := rfl
@[simp] theorem Device.setStream_objects (i : Nat) (x : CsiStream) : (d.setStream i x).objects = d.objects := rfl
@[simp] theorem Device.setStream_buckets (i : Nat) (x : CsiStream) : (d.setStream i x).buckets = d.buckets := rfl
@[simp] theorem Device.setStream_ctxs (i : Nat) (x : CsiStream) : (d.setStream i x).ctxs = d.ctxs := rfl
@[simp] theorem Device.setStream_tenancies (i : Nat) (x : CsiStream) : (d.setStream i x).tenancies = d.tenancies := rfl
@[simp] theorem Device.setStream_admin (i : Nat) (x : CsiStream) : (d.setStream i x).admin = d.admin := rfl
@[simp] theorem Device.setStream_notices (i : Nat) (x : CsiStream) : (d.setStream i x).notices = d.notices := rfl
@[simp] theorem Device.setStream_outbound (i : Nat) (x : CsiStream) : (d.setStream i x).outbound = d.outbound := rfl
@[simp] theorem Device.setStream_links (i : Nat) (x : CsiStream) : (d.setStream i x).links = d.links := rfl
@[simp] theorem Device.setStream_sw (i : Nat) (x : CsiStream) : (d.setStream i x).sw = d.sw := rfl
@[simp] theorem Device.setStream_queues (i : Nat) (x : CsiStream) : (d.setStream i x).queues = d.queues := rfl
@[simp] theorem Device.setStream_can (i : Nat) (x : CsiStream) : (d.setStream i x).can = d.can := rfl
@[simp] theorem Device.setStream_acf (i : Nat) (x : CsiStream) : (d.setStream i x).acf = d.acf := rfl
@[simp] theorem Device.setStream_twin0 (i : Nat) (x : CsiStream) : (d.setStream i x).twin0 = d.twin0 := rfl
@[simp] theorem Device.setStream_twin1 (i : Nat) (x : CsiStream) : (d.setStream i x).twin1 = d.twin1 := rfl
@[simp] theorem Device.setStream_hwCount (i : Nat) (x : CsiStream) : (d.setStream i x).hwCount = d.hwCount := rfl
@[simp] theorem Device.setStream_safety (i : Nat) (x : CsiStream) : (d.setStream i x).safety = d.safety := rfl
@[simp] theorem Device.setStream_half0 (i : Nat) (x : CsiStream) : (d.setStream i x).half0 = d.half0 := rfl
@[simp] theorem Device.setStream_half1 (i : Nat) (x : CsiStream) : (d.setStream i x).half1 = d.half1 := rfl
@[simp] theorem Device.setStream_served (i : Nat) (x : CsiStream) : (d.setStream i x).served = d.served := rfl
@[simp] theorem Device.setStream_portWaits (i : Nat) (x : CsiStream) : (d.setStream i x).portWaits = d.portWaits := rfl
@[simp] theorem Device.setStream_refreshes (i : Nat) (x : CsiStream) : (d.setStream i x).refreshes = d.refreshes := rfl
@[simp] theorem Device.setStream_paced (i : Nat) (x : CsiStream) : (d.setStream i x).paced = d.paced := rfl
@[simp] theorem Device.setStream_bitmapHeld (i : Nat) (x : CsiStream) : (d.setStream i x).bitmapHeld = d.bitmapHeld := rfl
@[simp] theorem Device.setStream_arb (i : Nat) (x : CsiStream) : (d.setStream i x).arb = d.arb := rfl
@[simp] theorem Device.setStream_hostCache (i : Nat) (x : CsiStream) : (d.setStream i x).hostCache = d.hostCache := rfl
@[simp] theorem Device.setStream_reservations (i : Nat) (x : CsiStream) : (d.setStream i x).reservations = d.reservations := rfl
@[simp] theorem Device.setStream_pools (i : Nat) (x : CsiStream) : (d.setStream i x).pools = d.pools := rfl
@[simp] theorem Device.setStream_jobs (i : Nat) (x : CsiStream) : (d.setStream i x).jobs = d.jobs := rfl
@[simp] theorem Device.setStream_lastSteps (i : Nat) (x : CsiStream) : (d.setStream i x).lastSteps = d.lastSteps := rfl
@[simp] theorem Device.setStream_nextId (i : Nat) (x : CsiStream) : (d.setStream i x).nextId = d.nextId := rfl
@[simp] theorem Device.setStream_freeIndex (i : Nat) (x : CsiStream) : (d.setStream i x).freeIndex = d.freeIndex := rfl
@[simp] theorem Device.setStream_answer (i : Nat) (x : CsiStream) : (d.setStream i x).answer = d.answer := rfl
@[simp] theorem Device.setStream_sent (i : Nat) (x : CsiStream) : (d.setStream i x).sent = d.sent := rfl

/-! ### Device.setCan -/

@[simp] theorem Device.setCan_regs (k : Nat) (x : CanCtl) : (d.setCan k x).regs = d.regs := rfl
@[simp] theorem Device.setCan_mem (k : Nat) (x : CanCtl) : (d.setCan k x).mem = d.mem := rfl
@[simp] theorem Device.setCan_islandSram (k : Nat) (x : CanCtl) : (d.setCan k x).islandSram = d.islandSram := rfl
@[simp] theorem Device.setCan_power (k : Nat) (x : CanCtl) : (d.setCan k x).power = d.power := rfl
@[simp] theorem Device.setCan_cfg (k : Nat) (x : CanCtl) : (d.setCan k x).cfg = d.cfg := rfl
@[simp] theorem Device.setCan_busy (k : Nat) (x : CanCtl) : (d.setCan k x).busy = d.busy := rfl
@[simp] theorem Device.setCan_lastResult (k : Nat) (x : CanCtl) : (d.setCan k x).lastResult = d.lastResult := rfl
@[simp] theorem Device.setCan_part (k : Nat) (x : CanCtl) : (d.setCan k x).part = d.part := rfl
@[simp] theorem Device.setCan_boot (k : Nat) (x : CanCtl) : (d.setCan k x).boot = d.boot := rfl
@[simp] theorem Device.setCan_sec (k : Nat) (x : CanCtl) : (d.setCan k x).sec = d.sec := rfl
@[simp] theorem Device.setCan_rank (k : Nat) (x : CanCtl) : (d.setCan k x).rank = d.rank := rfl
@[simp] theorem Device.setCan_alm (k : Nat) (x : CanCtl) : (d.setCan k x).alm = d.alm := rfl
@[simp] theorem Device.setCan_herald (k : Nat) (x : CanCtl) : (d.setCan k x).herald = d.herald := rfl
@[simp] theorem Device.setCan_gov (k : Nat) (x : CanCtl) : (d.setCan k x).gov = d.gov := rfl
@[simp] theorem Device.setCan_cal (k : Nat) (x : CanCtl) : (d.setCan k x).cal = d.cal := rfl
@[simp] theorem Device.setCan_banks (k : Nat) (x : CanCtl) : (d.setCan k x).banks = d.banks := rfl
@[simp] theorem Device.setCan_objects (k : Nat) (x : CanCtl) : (d.setCan k x).objects = d.objects := rfl
@[simp] theorem Device.setCan_buckets (k : Nat) (x : CanCtl) : (d.setCan k x).buckets = d.buckets := rfl
@[simp] theorem Device.setCan_ctxs (k : Nat) (x : CanCtl) : (d.setCan k x).ctxs = d.ctxs := rfl
@[simp] theorem Device.setCan_tenancies (k : Nat) (x : CanCtl) : (d.setCan k x).tenancies = d.tenancies := rfl
@[simp] theorem Device.setCan_admin (k : Nat) (x : CanCtl) : (d.setCan k x).admin = d.admin := rfl
@[simp] theorem Device.setCan_notices (k : Nat) (x : CanCtl) : (d.setCan k x).notices = d.notices := rfl
@[simp] theorem Device.setCan_outbound (k : Nat) (x : CanCtl) : (d.setCan k x).outbound = d.outbound := rfl
@[simp] theorem Device.setCan_links (k : Nat) (x : CanCtl) : (d.setCan k x).links = d.links := rfl
@[simp] theorem Device.setCan_sw (k : Nat) (x : CanCtl) : (d.setCan k x).sw = d.sw := rfl
@[simp] theorem Device.setCan_queues (k : Nat) (x : CanCtl) : (d.setCan k x).queues = d.queues := rfl
@[simp] theorem Device.setCan_csi (k : Nat) (x : CanCtl) : (d.setCan k x).csi = d.csi := rfl
@[simp] theorem Device.setCan_acf (k : Nat) (x : CanCtl) : (d.setCan k x).acf = d.acf := rfl
@[simp] theorem Device.setCan_twin0 (k : Nat) (x : CanCtl) : (d.setCan k x).twin0 = d.twin0 := rfl
@[simp] theorem Device.setCan_twin1 (k : Nat) (x : CanCtl) : (d.setCan k x).twin1 = d.twin1 := rfl
@[simp] theorem Device.setCan_hwCount (k : Nat) (x : CanCtl) : (d.setCan k x).hwCount = d.hwCount := rfl
@[simp] theorem Device.setCan_safety (k : Nat) (x : CanCtl) : (d.setCan k x).safety = d.safety := rfl
@[simp] theorem Device.setCan_half0 (k : Nat) (x : CanCtl) : (d.setCan k x).half0 = d.half0 := rfl
@[simp] theorem Device.setCan_half1 (k : Nat) (x : CanCtl) : (d.setCan k x).half1 = d.half1 := rfl
@[simp] theorem Device.setCan_served (k : Nat) (x : CanCtl) : (d.setCan k x).served = d.served := rfl
@[simp] theorem Device.setCan_portWaits (k : Nat) (x : CanCtl) : (d.setCan k x).portWaits = d.portWaits := rfl
@[simp] theorem Device.setCan_refreshes (k : Nat) (x : CanCtl) : (d.setCan k x).refreshes = d.refreshes := rfl
@[simp] theorem Device.setCan_paced (k : Nat) (x : CanCtl) : (d.setCan k x).paced = d.paced := rfl
@[simp] theorem Device.setCan_bitmapHeld (k : Nat) (x : CanCtl) : (d.setCan k x).bitmapHeld = d.bitmapHeld := rfl
@[simp] theorem Device.setCan_arb (k : Nat) (x : CanCtl) : (d.setCan k x).arb = d.arb := rfl
@[simp] theorem Device.setCan_hostCache (k : Nat) (x : CanCtl) : (d.setCan k x).hostCache = d.hostCache := rfl
@[simp] theorem Device.setCan_reservations (k : Nat) (x : CanCtl) : (d.setCan k x).reservations = d.reservations := rfl
@[simp] theorem Device.setCan_pools (k : Nat) (x : CanCtl) : (d.setCan k x).pools = d.pools := rfl
@[simp] theorem Device.setCan_jobs (k : Nat) (x : CanCtl) : (d.setCan k x).jobs = d.jobs := rfl
@[simp] theorem Device.setCan_lastSteps (k : Nat) (x : CanCtl) : (d.setCan k x).lastSteps = d.lastSteps := rfl
@[simp] theorem Device.setCan_nextId (k : Nat) (x : CanCtl) : (d.setCan k x).nextId = d.nextId := rfl
@[simp] theorem Device.setCan_freeIndex (k : Nat) (x : CanCtl) : (d.setCan k x).freeIndex = d.freeIndex := rfl
@[simp] theorem Device.setCan_answer (k : Nat) (x : CanCtl) : (d.setCan k x).answer = d.answer := rfl
@[simp] theorem Device.setCan_sent (k : Nat) (x : CanCtl) : (d.setCan k x).sent = d.sent := rfl

/-! ### Device.setStest -/

@[simp] theorem Device.setStest_regs (c : Nat) (x : Stest) : (d.setStest c x).regs = d.regs := rfl
@[simp] theorem Device.setStest_mem (c : Nat) (x : Stest) : (d.setStest c x).mem = d.mem := rfl
@[simp] theorem Device.setStest_islandSram (c : Nat) (x : Stest) : (d.setStest c x).islandSram = d.islandSram := rfl
@[simp] theorem Device.setStest_power (c : Nat) (x : Stest) : (d.setStest c x).power = d.power := rfl
@[simp] theorem Device.setStest_cfg (c : Nat) (x : Stest) : (d.setStest c x).cfg = d.cfg := rfl
@[simp] theorem Device.setStest_busy (c : Nat) (x : Stest) : (d.setStest c x).busy = d.busy := rfl
@[simp] theorem Device.setStest_lastResult (c : Nat) (x : Stest) : (d.setStest c x).lastResult = d.lastResult := rfl
@[simp] theorem Device.setStest_part (c : Nat) (x : Stest) : (d.setStest c x).part = d.part := rfl
@[simp] theorem Device.setStest_boot (c : Nat) (x : Stest) : (d.setStest c x).boot = d.boot := rfl
@[simp] theorem Device.setStest_sec (c : Nat) (x : Stest) : (d.setStest c x).sec = d.sec := rfl
@[simp] theorem Device.setStest_rank (c : Nat) (x : Stest) : (d.setStest c x).rank = d.rank := rfl
@[simp] theorem Device.setStest_alm (c : Nat) (x : Stest) : (d.setStest c x).alm = d.alm := rfl
@[simp] theorem Device.setStest_herald (c : Nat) (x : Stest) : (d.setStest c x).herald = d.herald := rfl
@[simp] theorem Device.setStest_gov (c : Nat) (x : Stest) : (d.setStest c x).gov = d.gov := rfl
@[simp] theorem Device.setStest_cal (c : Nat) (x : Stest) : (d.setStest c x).cal = d.cal := rfl
@[simp] theorem Device.setStest_banks (c : Nat) (x : Stest) : (d.setStest c x).banks = d.banks := rfl
@[simp] theorem Device.setStest_objects (c : Nat) (x : Stest) : (d.setStest c x).objects = d.objects := rfl
@[simp] theorem Device.setStest_buckets (c : Nat) (x : Stest) : (d.setStest c x).buckets = d.buckets := rfl
@[simp] theorem Device.setStest_ctxs (c : Nat) (x : Stest) : (d.setStest c x).ctxs = d.ctxs := rfl
@[simp] theorem Device.setStest_tenancies (c : Nat) (x : Stest) : (d.setStest c x).tenancies = d.tenancies := rfl
@[simp] theorem Device.setStest_admin (c : Nat) (x : Stest) : (d.setStest c x).admin = d.admin := rfl
@[simp] theorem Device.setStest_notices (c : Nat) (x : Stest) : (d.setStest c x).notices = d.notices := rfl
@[simp] theorem Device.setStest_outbound (c : Nat) (x : Stest) : (d.setStest c x).outbound = d.outbound := rfl
@[simp] theorem Device.setStest_links (c : Nat) (x : Stest) : (d.setStest c x).links = d.links := rfl
@[simp] theorem Device.setStest_sw (c : Nat) (x : Stest) : (d.setStest c x).sw = d.sw := rfl
@[simp] theorem Device.setStest_queues (c : Nat) (x : Stest) : (d.setStest c x).queues = d.queues := rfl
@[simp] theorem Device.setStest_csi (c : Nat) (x : Stest) : (d.setStest c x).csi = d.csi := rfl
@[simp] theorem Device.setStest_can (c : Nat) (x : Stest) : (d.setStest c x).can = d.can := rfl
@[simp] theorem Device.setStest_acf (c : Nat) (x : Stest) : (d.setStest c x).acf = d.acf := rfl
@[simp] theorem Device.setStest_twin0 (c : Nat) (x : Stest) : (d.setStest c x).twin0 = d.twin0 := rfl
@[simp] theorem Device.setStest_twin1 (c : Nat) (x : Stest) : (d.setStest c x).twin1 = d.twin1 := rfl
@[simp] theorem Device.setStest_hwCount (c : Nat) (x : Stest) : (d.setStest c x).hwCount = d.hwCount := rfl
@[simp] theorem Device.setStest_half0 (c : Nat) (x : Stest) : (d.setStest c x).half0 = d.half0 := rfl
@[simp] theorem Device.setStest_half1 (c : Nat) (x : Stest) : (d.setStest c x).half1 = d.half1 := rfl
@[simp] theorem Device.setStest_served (c : Nat) (x : Stest) : (d.setStest c x).served = d.served := rfl
@[simp] theorem Device.setStest_portWaits (c : Nat) (x : Stest) : (d.setStest c x).portWaits = d.portWaits := rfl
@[simp] theorem Device.setStest_refreshes (c : Nat) (x : Stest) : (d.setStest c x).refreshes = d.refreshes := rfl
@[simp] theorem Device.setStest_paced (c : Nat) (x : Stest) : (d.setStest c x).paced = d.paced := rfl
@[simp] theorem Device.setStest_bitmapHeld (c : Nat) (x : Stest) : (d.setStest c x).bitmapHeld = d.bitmapHeld := rfl
@[simp] theorem Device.setStest_arb (c : Nat) (x : Stest) : (d.setStest c x).arb = d.arb := rfl
@[simp] theorem Device.setStest_hostCache (c : Nat) (x : Stest) : (d.setStest c x).hostCache = d.hostCache := rfl
@[simp] theorem Device.setStest_reservations (c : Nat) (x : Stest) : (d.setStest c x).reservations = d.reservations := rfl
@[simp] theorem Device.setStest_pools (c : Nat) (x : Stest) : (d.setStest c x).pools = d.pools := rfl
@[simp] theorem Device.setStest_jobs (c : Nat) (x : Stest) : (d.setStest c x).jobs = d.jobs := rfl
@[simp] theorem Device.setStest_lastSteps (c : Nat) (x : Stest) : (d.setStest c x).lastSteps = d.lastSteps := rfl
@[simp] theorem Device.setStest_nextId (c : Nat) (x : Stest) : (d.setStest c x).nextId = d.nextId := rfl
@[simp] theorem Device.setStest_freeIndex (c : Nat) (x : Stest) : (d.setStest c x).freeIndex = d.freeIndex := rfl
@[simp] theorem Device.setStest_answer (c : Nat) (x : Stest) : (d.setStest c x).answer = d.answer := rfl
@[simp] theorem Device.setStest_sent (c : Nat) (x : Stest) : (d.setStest c x).sent = d.sent := rfl

/-! ### Device.wr -/

@[simp] theorem Device.wr_regs (a : Nat) (bs : List Byte) : (d.wr a bs).regs = d.regs := rfl
@[simp] theorem Device.wr_islandSram (a : Nat) (bs : List Byte) : (d.wr a bs).islandSram = d.islandSram := rfl
@[simp] theorem Device.wr_power (a : Nat) (bs : List Byte) : (d.wr a bs).power = d.power := rfl
@[simp] theorem Device.wr_cfg (a : Nat) (bs : List Byte) : (d.wr a bs).cfg = d.cfg := rfl
@[simp] theorem Device.wr_busy (a : Nat) (bs : List Byte) : (d.wr a bs).busy = d.busy := rfl
@[simp] theorem Device.wr_lastResult (a : Nat) (bs : List Byte) : (d.wr a bs).lastResult = d.lastResult := rfl
@[simp] theorem Device.wr_part (a : Nat) (bs : List Byte) : (d.wr a bs).part = d.part := rfl
@[simp] theorem Device.wr_boot (a : Nat) (bs : List Byte) : (d.wr a bs).boot = d.boot := rfl
@[simp] theorem Device.wr_sec (a : Nat) (bs : List Byte) : (d.wr a bs).sec = d.sec := rfl
@[simp] theorem Device.wr_rank (a : Nat) (bs : List Byte) : (d.wr a bs).rank = d.rank := rfl
@[simp] theorem Device.wr_alm (a : Nat) (bs : List Byte) : (d.wr a bs).alm = d.alm := rfl
@[simp] theorem Device.wr_herald (a : Nat) (bs : List Byte) : (d.wr a bs).herald = d.herald := rfl
@[simp] theorem Device.wr_gov (a : Nat) (bs : List Byte) : (d.wr a bs).gov = d.gov := rfl
@[simp] theorem Device.wr_cal (a : Nat) (bs : List Byte) : (d.wr a bs).cal = d.cal := rfl
@[simp] theorem Device.wr_banks (a : Nat) (bs : List Byte) : (d.wr a bs).banks = d.banks := rfl
@[simp] theorem Device.wr_objects (a : Nat) (bs : List Byte) : (d.wr a bs).objects = d.objects := rfl
@[simp] theorem Device.wr_buckets (a : Nat) (bs : List Byte) : (d.wr a bs).buckets = d.buckets := rfl
@[simp] theorem Device.wr_ctxs (a : Nat) (bs : List Byte) : (d.wr a bs).ctxs = d.ctxs := rfl
@[simp] theorem Device.wr_tenancies (a : Nat) (bs : List Byte) : (d.wr a bs).tenancies = d.tenancies := rfl
@[simp] theorem Device.wr_admin (a : Nat) (bs : List Byte) : (d.wr a bs).admin = d.admin := rfl
@[simp] theorem Device.wr_notices (a : Nat) (bs : List Byte) : (d.wr a bs).notices = d.notices := rfl
@[simp] theorem Device.wr_outbound (a : Nat) (bs : List Byte) : (d.wr a bs).outbound = d.outbound := rfl
@[simp] theorem Device.wr_links (a : Nat) (bs : List Byte) : (d.wr a bs).links = d.links := rfl
@[simp] theorem Device.wr_sw (a : Nat) (bs : List Byte) : (d.wr a bs).sw = d.sw := rfl
@[simp] theorem Device.wr_queues (a : Nat) (bs : List Byte) : (d.wr a bs).queues = d.queues := rfl
@[simp] theorem Device.wr_csi (a : Nat) (bs : List Byte) : (d.wr a bs).csi = d.csi := rfl
@[simp] theorem Device.wr_can (a : Nat) (bs : List Byte) : (d.wr a bs).can = d.can := rfl
@[simp] theorem Device.wr_acf (a : Nat) (bs : List Byte) : (d.wr a bs).acf = d.acf := rfl
@[simp] theorem Device.wr_twin0 (a : Nat) (bs : List Byte) : (d.wr a bs).twin0 = d.twin0 := rfl
@[simp] theorem Device.wr_twin1 (a : Nat) (bs : List Byte) : (d.wr a bs).twin1 = d.twin1 := rfl
@[simp] theorem Device.wr_hwCount (a : Nat) (bs : List Byte) : (d.wr a bs).hwCount = d.hwCount := rfl
@[simp] theorem Device.wr_safety (a : Nat) (bs : List Byte) : (d.wr a bs).safety = d.safety := rfl
@[simp] theorem Device.wr_half0 (a : Nat) (bs : List Byte) : (d.wr a bs).half0 = d.half0 := rfl
@[simp] theorem Device.wr_half1 (a : Nat) (bs : List Byte) : (d.wr a bs).half1 = d.half1 := rfl
@[simp] theorem Device.wr_served (a : Nat) (bs : List Byte) : (d.wr a bs).served = d.served := rfl
@[simp] theorem Device.wr_portWaits (a : Nat) (bs : List Byte) : (d.wr a bs).portWaits = d.portWaits := rfl
@[simp] theorem Device.wr_refreshes (a : Nat) (bs : List Byte) : (d.wr a bs).refreshes = d.refreshes := rfl
@[simp] theorem Device.wr_paced (a : Nat) (bs : List Byte) : (d.wr a bs).paced = d.paced := rfl
@[simp] theorem Device.wr_bitmapHeld (a : Nat) (bs : List Byte) : (d.wr a bs).bitmapHeld = d.bitmapHeld := rfl
@[simp] theorem Device.wr_arb (a : Nat) (bs : List Byte) : (d.wr a bs).arb = d.arb := rfl
@[simp] theorem Device.wr_hostCache (a : Nat) (bs : List Byte) : (d.wr a bs).hostCache = d.hostCache := rfl
@[simp] theorem Device.wr_reservations (a : Nat) (bs : List Byte) : (d.wr a bs).reservations = d.reservations := rfl
@[simp] theorem Device.wr_pools (a : Nat) (bs : List Byte) : (d.wr a bs).pools = d.pools := rfl
@[simp] theorem Device.wr_jobs (a : Nat) (bs : List Byte) : (d.wr a bs).jobs = d.jobs := rfl
@[simp] theorem Device.wr_lastSteps (a : Nat) (bs : List Byte) : (d.wr a bs).lastSteps = d.lastSteps := rfl
@[simp] theorem Device.wr_nextId (a : Nat) (bs : List Byte) : (d.wr a bs).nextId = d.nextId := rfl
@[simp] theorem Device.wr_freeIndex (a : Nat) (bs : List Byte) : (d.wr a bs).freeIndex = d.freeIndex := rfl
@[simp] theorem Device.wr_answer (a : Nat) (bs : List Byte) : (d.wr a bs).answer = d.answer := rfl
@[simp] theorem Device.wr_sent (a : Nat) (bs : List Byte) : (d.wr a bs).sent = d.sent := rfl

/-! ### Two registers or entries -/

/-- A register just set reads back. -/
@[simp] theorem Device.reg_setReg (a : Nat) (v : Word) : (d.setReg a v).reg a = v := tgetD_tputD_self d.regs a v _

/-- Setting a register leaves every other register as it was. -/
theorem Device.reg_setReg_ne {a b : Nat} (v : Word) (h : b ≠ a) : (d.setReg a v).reg b = d.reg b := by
  simp [Device.reg, Device.setReg, tget_tputD_ne _ _ _ h]

/-- A context just replaced reads back. -/
@[simp] theorem Device.ctx_setCtx (c : Nat) (x : Ctx) : (d.setCtx c x).ctx c = x := tgetD_tputD_self _ _ _ _

/-- Replacing a context leaves every other context as it was. -/
theorem Device.ctx_setCtx_ne {c c' : Nat} (x : Ctx) (h : c' ≠ c) : (d.setCtx c x).ctx c' = d.ctx c' :=
  tgetD_tputD_ne _ _ _ _ h

/-- A tenancy just replaced reads back. -/
@[simp] theorem Device.ten_setTen (t : Nat) (x : Tenancy) : (d.setTen t x).ten t = x := tgetD_tputD_self _ _ _ _

/-- Replacing a tenancy leaves every other tenancy as it was. -/
theorem Device.ten_setTen_ne {t t' : Nat} (x : Tenancy) (h : t' ≠ t) : (d.setTen t x).ten t' = d.ten t' :=
  tgetD_tputD_ne _ _ _ _ h

/-- A ring just replaced reads back. -/
@[simp] theorem Device.ring_setRing (k : RingRef) (x : Ring) : (d.setRing k x).ring k = x := by
  cases k with
  | admin => rfl
  | ring t r => simp [Device.ring, Device.setRing]

/-- A bank just replaced reads back. -/
@[simp] theorem Device.bank_setBank (core ctx : Nat) (b : Bank) : (d.setBank core ctx b).bank core ctx = b :=
  tgetD_tputD_self _ _ _ _

/-- Replacing a bank leaves every other bank as it was. -/
theorem Device.bank_setBank_ne {core ctx core' ctx' : Nat} (b : Bank) (h : core' * 256 + ctx' ≠ core * 256 + ctx) :
    (d.setBank core ctx b).bank core' ctx' = d.bank core' ctx' :=
  tgetD_tputD_ne _ _ _ _ h

/-- A frame queue just replaced reads back. -/
@[simp] theorem Device.queue_setQueue (q : Nat) (x : FrameQueue) : (d.setQueue q x).queue q = x := tgetD_tputD_self _ _ _ _

/-- A camera stream just replaced reads back. -/
@[simp] theorem Device.stream_setStream (i : Nat) (x : CsiStream) : (d.setStream i x).stream i = x := tgetD_tputD_self _ _ _ _

/-- A CAN controller just replaced reads back. -/
@[simp] theorem Device.canCtl_setCan (k : Nat) (x : CanCtl) : (d.setCan k x).canCtl k = x := tgetD_tputD_self _ _ _ _

/-- A write leaves every byte outside its range as it was. -/
theorem Device.memByte_wr_out (a : Nat) (bs : List Byte) (b : Nat) (h : b < a ∨ a + bs.length ≤ b) :
    memByte (d.wr a bs).mem b = memByte d.mem b :=
  memByte_memWrite_out d.mem a bs b h

/-- The line of a raised source is seen, with every line seen before. -/
@[simp] theorem Device.mem_raised_raise (s x : Nat) : x ∈ (d.raise s).herald.raised ↔ x = s ∨ x ∈ d.herald.raised :=
  mem_addMember _ _ _

/-! ### The form of a meaning -/

@[simp] theorem Device.begun_regs : d.begun.regs = d.regs := rfl
@[simp] theorem Device.begun_mem : d.begun.mem = d.mem := rfl
@[simp] theorem Device.begun_islandSram : d.begun.islandSram = d.islandSram := rfl
@[simp] theorem Device.begun_power : d.begun.power = d.power := rfl
@[simp] theorem Device.begun_cfg : d.begun.cfg = d.cfg := rfl
@[simp] theorem Device.begun_busy : d.begun.busy = d.busy := rfl
@[simp] theorem Device.begun_lastResult : d.begun.lastResult = d.lastResult := rfl
@[simp] theorem Device.begun_part : d.begun.part = d.part := rfl
@[simp] theorem Device.begun_boot : d.begun.boot = d.boot := rfl
@[simp] theorem Device.begun_sec : d.begun.sec = d.sec := rfl
@[simp] theorem Device.begun_rank : d.begun.rank = d.rank := rfl
@[simp] theorem Device.begun_alm : d.begun.alm = d.alm := rfl
@[simp] theorem Device.begun_herald : d.begun.herald = d.herald := rfl
@[simp] theorem Device.begun_gov : d.begun.gov = d.gov := rfl
@[simp] theorem Device.begun_cal : d.begun.cal = d.cal := rfl
@[simp] theorem Device.begun_banks : d.begun.banks = d.banks := rfl
@[simp] theorem Device.begun_objects : d.begun.objects = d.objects := rfl
@[simp] theorem Device.begun_buckets : d.begun.buckets = d.buckets := rfl
@[simp] theorem Device.begun_ctxs : d.begun.ctxs = d.ctxs := rfl
@[simp] theorem Device.begun_tenancies : d.begun.tenancies = d.tenancies := rfl
@[simp] theorem Device.begun_admin : d.begun.admin = d.admin := rfl
@[simp] theorem Device.begun_notices : d.begun.notices = d.notices := rfl
@[simp] theorem Device.begun_outbound : d.begun.outbound = d.outbound := rfl
@[simp] theorem Device.begun_links : d.begun.links = d.links := rfl
@[simp] theorem Device.begun_sw : d.begun.sw = d.sw := rfl
@[simp] theorem Device.begun_queues : d.begun.queues = d.queues := rfl
@[simp] theorem Device.begun_csi : d.begun.csi = d.csi := rfl
@[simp] theorem Device.begun_can : d.begun.can = d.can := rfl
@[simp] theorem Device.begun_acf : d.begun.acf = d.acf := rfl
@[simp] theorem Device.begun_twin0 : d.begun.twin0 = d.twin0 := rfl
@[simp] theorem Device.begun_twin1 : d.begun.twin1 = d.twin1 := rfl
@[simp] theorem Device.begun_hwCount : d.begun.hwCount = d.hwCount := rfl
@[simp] theorem Device.begun_safety : d.begun.safety = d.safety := rfl
@[simp] theorem Device.begun_half0 : d.begun.half0 = d.half0 := rfl
@[simp] theorem Device.begun_half1 : d.begun.half1 = d.half1 := rfl
@[simp] theorem Device.begun_served : d.begun.served = d.served := rfl
@[simp] theorem Device.begun_portWaits : d.begun.portWaits = d.portWaits := rfl
@[simp] theorem Device.begun_refreshes : d.begun.refreshes = d.refreshes := rfl
@[simp] theorem Device.begun_paced : d.begun.paced = d.paced := rfl
@[simp] theorem Device.begun_bitmapHeld : d.begun.bitmapHeld = d.bitmapHeld := rfl
@[simp] theorem Device.begun_arb : d.begun.arb = d.arb := rfl
@[simp] theorem Device.begun_hostCache : d.begun.hostCache = d.hostCache := rfl
@[simp] theorem Device.begun_reservations : d.begun.reservations = d.reservations := rfl
@[simp] theorem Device.begun_pools : d.begun.pools = d.pools := rfl
@[simp] theorem Device.begun_jobs : d.begun.jobs = d.jobs := rfl
@[simp] theorem Device.begun_lastSteps : d.begun.lastSteps = d.lastSteps := rfl
@[simp] theorem Device.begun_nextId : d.begun.nextId = d.nextId := rfl
@[simp] theorem Device.begun_freeIndex : d.begun.freeIndex = d.freeIndex := rfl
@[simp] theorem Device.begun_answer : d.begun.answer = .none := rfl
@[simp] theorem Device.begun_sent : d.begun.sent = [] := rfl
@[simp] theorem Device.begun_reg (a : Nat) : d.begun.reg a = d.reg a := rfl
@[simp] theorem Device.begun_fld (a lo len : Nat) : d.begun.fld a lo len = d.fld a lo len := rfl
@[simp] theorem Device.begun_regBit (a i : Nat) : d.begun.regBit a i = d.regBit a i := rfl
@[simp] theorem Device.begun_live : d.begun.live = d.live := rfl
@[simp] theorem Device.begun_present (who : Who) : d.begun.present who = d.present who := by cases who <;> rfl
@[simp] theorem Device.begun_ctx (c : Nat) : d.begun.ctx c = d.ctx c := rfl
@[simp] theorem Device.begun_ten (t : Nat) : d.begun.ten t = d.ten t := rfl
@[simp] theorem Device.begun_ring (k : RingRef) : d.begun.ring k = d.ring k := by cases k <;> rfl
@[simp] theorem Device.begun_bank (core ctx : Nat) : d.begun.bank core ctx = d.bank core ctx := rfl

/-- A command's effect is its function on the device as it finds it, and the queue stays. -/
theorem act_eq (s : State) (f : Device → Device) : act s f = .next { s with dev := f s.dev.begun } := rfl

/-- On a live device a command of a unit has its effect. -/
theorem actLive_eq {s : State} (f : Device → Device) (h : s.dev.live = true) :
    actLive s f = .next { s with dev := f s.dev.begun } := by
  simp [actLive, act, h]

/-- On a device that is not live a command of a unit changes nothing. -/
theorem actLive_dead {s : State} (f : Device → Device) (h : s.dev.live = false) :
    actLive s f = .next { s with dev := s.dev.begun } := by
  simp [actLive, act, h]

/-- On a device that is not live an access changes nothing. -/
theorem actBy_dead {who : Who} {s : State} (f : Device → Device) (h : s.dev.live = false) :
    actBy who s f = .next { s with dev := s.dev.begun } := actLive_dead _ h

/-- On a device that is not live a well-formed command with limits on its operands changes nothing. -/
theorem actIf_dead {ok : Bool} {s : State} (f : Device → Device) (hok : ok = true) (h : s.dev.live = false) :
    actIf ok s f = .next { s with dev := s.dev.begun } := by
  rw [actIf, if_pos hok, actLive_dead _ h]

/-- An access of a requester that is present has its effect. -/
theorem actBy_eq {who : Who} {s : State} (f : Device → Device) (h : s.dev.live = true) (hp : s.dev.present who = true) :
    actBy who s f = .next { s with dev := f s.dev.begun } := by
  rw [actBy, actLive_eq _ h]
  simp [hp]

/-- A well-formed command with limits on its operands has its effect. -/
theorem actIf_eq {ok : Bool} {s : State} (f : Device → Device) (hok : ok = true) (h : s.dev.live = true) :
    actIf ok s f = .next { s with dev := f s.dev.begun } := by
  rw [actIf, if_pos hok, actLive_eq _ h]

end Sys2Proof.Machine
end

