-- ==== Sys2Proof/Laws/Finish.lean ====
section
/-!
SUPPORT. What completing the head of a ring comes to where its entry can be written.
-/

namespace Sys2Proof.Machine

/-- A head that is taken up heads its ring's queue. -/
theorem Device.takes_queued {d : Device} {k : RingRef} {op : Nat} {x : QDesc} (h : d.takes k op x) :
    ∃ rest, (d.ring k).queued = x :: rest ∧ x.opcode = op ∧ (d.ring k).job = .idle := by
  obtain ⟨-, h, -⟩ := h
  unfold Device.headOf at h
  split at h
  · rename_i y rest hq
    split at h
    · rename_i hc
      simp only [Option.some.injEq] at h
      subst h
      simp only [Bool.and_eq_true, decide_eq_true_eq] at hc
      exact ⟨rest, hq, hc.1.1.1, hc.1.1.2⟩
    · cases h
  · cases h

/-- A descriptor that is taken up has its effect. -/
theorem Device.onHead_takes {d : Device} {k : RingRef} {op : Nat} {x : QDesc} (h : d.takes k op x)
    (f : Device → QDesc → Device) : d.onHead k op f = f d x := by
  obtain ⟨-, h, h'⟩ := h
  simp [Device.onHead, h, h']

/-- A range in the DDR or the Quarry is at no link. -/
theorem Device.linkDown_inMemory {d : Device} {a n : Nat} (h : d.inMemory a n = true) : d.linkDown a = none := by
  unfold Device.inMemory at h
  unfold Device.linkDown
  split at h <;> simp_all

/-- A write for a ring in the DDR or the Quarry is made through port 28, coherently, where no log is in force. -/
theorem Device.ringWrite_inMemory {d : Device} {k : RingRef} {a n : Nat} (bs : List Byte) (h : d.inMemory a n = true)
    (hl : ∀ t r, k = .ring t r → (d.ten t).log = none) : d.ringWrite k a bs = (d.charge 28 a bs.length true).coWrite a bs := by
  have e : d.ringLog k a bs.length = d := by
    cases k with
    | admin => rfl
    | ring t r => simp [Device.ringLog, Device.logWrite, hl t r rfl]
  unfold Device.inMemory at h
  unfold Device.ringWrite
  rw [e]
  split at h <;> simp_all

/-- Writing a key of a table twice leaves the second value. -/
theorem tput_tput {α : Type} (m : Table α) (k : Nat) (v w : α) : tput (tput m k v) k w = tput m k w := by
  induction m with
  | nil => simp [tput]
  | cons e m ih =>
    obtain ⟨j, x⟩ := e
    simp only [tput]
    split
    · simp [tput]
    · split
      · simp [tput, *]
      · simp [tput, *]

/-- The same where neither value is the empty one. -/
theorem tputD_tputD {α : Type} [DecidableEq α] (m : Table α) (k : Nat) {v w e : α} (hv : v ≠ e) (hw : w ≠ e) :
    tputD (tputD m k v e) k w e = tputD m k w e := by
  simp [tputD, hv, hw, tput_tput]

/-- Setting a ring twice, each time to one that is not unset, leaves the second value. -/
theorem Device.setRing_setRing (d : Device) (k : RingRef) {x y : Ring} (h : x ≠ Ring.unset) (hy : y ≠ Ring.unset) :
    (d.setRing k x).setRing k y = d.setRing k y := by
  cases k with
  | admin => rfl
  | ring t r =>
    have h1 : ∀ (T : Tenancy) (z : Ring), z ≠ Ring.unset →
        ({ T with rings := tputD T.rings r z Ring.unset } : Tenancy) ≠ Tenancy.off := by
      intro T z hz he
      have h2 := tgetD_tputD_self T.rings r z Ring.unset
      rw [show tputD T.rings r z Ring.unset = [] from congrArg Tenancy.rings he] at h2
      exact hz h2.symm
    simp only [Device.setRing, Device.ten, Device.setTen, tgetD_tputD_self, tputD_tputD _ _ h hy]
    rw [tputD_tputD _ _ (h1 _ x h) (h1 _ y hy)]

/-- What ring a device holds does not change what an address names, nor which units are offline. -/
theorem Device.setRing_addr (d : Device) (k : RingRef) (x : Ring) (a n : Nat) :
    (d.setRing k x).inMemory a n = d.inMemory a n ∧ (d.setRing k x).addrOff a = d.addrOff a ∧
      (d.setRing k x).mem = d.mem ∧ (d.setRing k x).ns = d.ns := by
  cases k <;> exact ⟨rfl, rfl, rfl, rfl⟩

/-- What ring a tenancy holds does not change what its rings may access, nor its log. -/
theorem Device.setRing_ok (d : Device) (k : RingRef) (x : Ring) (a n : Nat) (read write : Bool) :
    (d.setRing k x).ringAddrOk k a n read write = d.ringAddrOk k a n read write ∧
      ∀ t r, k = .ring t r → ((d.setRing k x).ten t).log = (d.ten t).log := by
  cases k with
  | admin => exact ⟨rfl, by simp⟩
  | ring t r => simp [Device.ringAddrOk, Device.allowed, Device.setRing, Tenancy.windowFor]

/-- The head descriptor of a ring completed: where its entry can be written, its completion is as R251, R256, R260 and R262
say. -/
theorem Device.finish_eq {d : Device} {k : RingRef} {x : QDesc} {rest : List QDesc} (status detail : Byte) (value : Nat)
    (h : d.entryOpen k) (hq : (d.ring k).queued = x :: rest) :
    d.finish k status detail value = d.doneWith k x status detail value := by
  obtain ⟨hs, hm, hr, ho, hl⟩ := h
  have hs' : ∀ y : Ring, y.state = (d.ring k).state → y ≠ Ring.unset := by
    rintro y hy rfl
    exact hs hy.symm
  unfold Device.finish Device.doneWith Device.completed Device.done
  simp only [hq]
  congr 1
  generalize d.descTags k x = tags
  generalize hR : d.ring k = R at *
  have e : (d.popHead k).ring k = { R with queued := R.queued.drop 1, job := .idle } := by
    simp [Device.popHead, hR]
  have e2 : ∀ Y : Ring, Y ≠ Ring.unset → (d.popHead k).setRing k Y = d.setRing k Y := by
    intro Y hY
    unfold Device.popHead
    rw [hR]
    exact Device.setRing_setRing _ _ (hs' _ rfl) hY
  have e3 := e2 { R with cqTail := R.cqTail + 1, queued := R.queued.drop 1, job := .idle } (hs' _ rfl)
  have hn : (d.popHead k).linkDown R.entryAt = none :=
    Device.linkDown_inMemory (n := 64) (by
      unfold Device.popHead
      rw [(d.setRing_addr k _ _ 64).1]
      exact hm)
  have hr' : (d.popHead k).ringAddrOk k R.entryAt 64 false true = true := by
    unfold Device.popHead
    rw [(d.setRing_ok k _ _ _ _ _).1, hr]
  have ho' : (d.popHead k).addrOff R.entryAt = false := by
    unfold Device.popHead
    rw [(d.setRing_addr k _ _ 64).2.1, ho]
  unfold Device.lastEntry Device.entry' Device.putEntry
  simp only [Ring.entryAt] at *
  simp only [e, e3, hn, hr', ho', Bool.and_self, Bool.not_false, if_true]
  rw [Device.ringWrite_inMemory (n := 64) _ (by rw [(d.setRing_addr k _ _ 64).1]; exact hm)
    fun t r hk => by rw [(d.setRing_ok k _ 0 0 true true).2 t r hk, hl t r hk]]
  simp only [entryBytes, List.length_append, slice_length, List.length_cons, List.length_nil, bytesOfNat_length, hq]

end Sys2Proof.Machine
end

