-- ==== Sys2Proof/Laws/Issue.lean ====
section
/-!
SUPPORT. What issuing an instruction of a unit comes to, in the turn of the unit: its outcome put into the device.
-/

namespace Sys2Proof.Machine

/-- Counting a beat changes no bank. -/
@[simp] theorem Device.countBeat_bank (d : Device) (q : Seat) (k : UnitKind) (core ctx : Nat) :
    (d.countBeat q k).bank core ctx = d.bank core ctx := by
  unfold Device.countBeat
  split <;> rfl

/-- Counting a beat changes no byte of memory. -/
@[simp] theorem Device.countBeat_mem (d : Device) (q : Seat) (k : UnitKind) : (d.countBeat q k).mem = d.mem := by
  unfold Device.countBeat
  split <;> rfl

/-- A unit's turn does not depend on the answer and on what is sent. -/
theorem Device.mayIssue_begun {d : Device} {core : Nat} {k : UnitKind} {q : Seat} (h : d.mayIssue core k q) :
    d.begun.mayIssue core k q := h

/-- A seat is that of its core. -/
theorem Device.seat_core {d : Device} {core : Nat} {q : Seat} (h : d.seat core = some q) : q.core = core := by
  unfold Device.seat at h
  split at h
  · cases h
  split at h
  · cases h
  split at h
  · cases h
  obtain ⟨h, -⟩ := Option.filter_eq_some_iff.1 h
  unfold Device.seatIn at h
  repeat' split at h
  all_goals simp_all
  · subst h
    rfl
  · obtain ⟨_, _, rfl⟩ := h
    rfl

/-- An instruction issued in its unit's turn: its outcome put into the device, after its beat is counted; one that holds changes
nothing. -/
theorem Device.issue_eq {d : Device} {core : Nat} {k : UnitKind} {q : Seat} {f : Device → Seat → Bank → Did}
    (h : d.mayIssue core k q) :
    d.issue core k f = match f (d.countBeat q k) q ((d.bank core q.ctx).newBeat k) with
      | .hold => d
      | r => (d.countBeat q k).settle q k r := by
  obtain ⟨-, h1, h2, h3⟩ := h
  simp only [Device.issue, Device.issueIn, h1, h2, h3, Bool.false_or, Option.isSome_none, Bool.false_eq_true, if_false]
  all_goals cases f (d.countBeat q k) q ((d.bank core q.ctx).newBeat k) <;> rfl

/-- An instruction that takes effect in its unit's turn leaves its device, with its bank one instruction further on. -/
theorem Device.issue_done {d d' : Device} {core : Nat} {k : UnitKind} {q : Seat} {b : Bank} {f : Device → Seat → Bank → Did}
    (h : d.mayIssue core k q) (hf : f (d.countBeat q k) q ((d.bank core q.ctx).newBeat k) = .done d' b) :
    d.issue core k f = d'.setBank core q.ctx (b.setUnit k (b.unit k).advance) := by
  rw [Device.issue_eq h, hf, ← Device.seat_core h.2.1]
  rfl

/-- A context fault met in a unit's turn tears the context down. -/
theorem Device.issue_fault {d : Device} {core : Nat} {k : UnitKind} {q : Seat} {x y : Byte} {f : Device → Seat → Bank → Did}
    (h : d.mayIssue core k q) (hf : f (d.countBeat q k) q ((d.bank core q.ctx).newBeat k) = .fault x y) :
    d.issue core k f = (d.countBeat q k).ctxFault q.ctx core x y := by
  rw [Device.issue_eq h, hf, ← Device.seat_core h.2.1]
  rfl

/-- With clean codes an instruction is issued as it stands. -/
theorem Device.issueEcc_clean {d : Device} {u : CoreUse} {k : UnitKind} {q : Seat} {f : Device → Seat → Bank → Did}
    (h : d.seat u.core = some q) (hu : cleanUse u) : d.issueEcc u k f = d.issue u.core k f := by
  simp [Device.issueEcc, Device.issueEccIn, Device.issue, h, hu.1, hu.2]

end Sys2Proof.Machine
end

