-- ==== Sys2Proof/Tests/Slice0.lean ====
section
/-!
SUPPORT. The model's own tests: ill-formed commands are refused, small steps give what the spec says, and every statement's
hypotheses are met by a named state.
-/

namespace Sys2Proof.Machine

-- The evaluations below run one after another: side by side their stacks pass the memory a compile may take.
set_option Elab.async false

/-! ### Small states -/

/-- A state whose device is given. -/
def stateOf (d : Device) : State := { dev := d, pending := [] }

/-- A device that has booted. -/
def liveDevice : Device := { Device.reset with power := { Power.reset with railEn := true, pwrGood := true, phase := .up } }

/-- A state that has booted. -/
def liveState : State := stateOf liveDevice

/-- A state in RUNNING. -/
def runState : State := stateOf { liveDevice with cfg := .running }

/-- A state held in reset with RAIL_EN high. -/
def railState : State := stateOf { Device.reset with power := { Power.reset with railEn := true } }

/-- A state in a phase of the boot. -/
def phaseState (p : Phase) : State := stateOf { Device.reset with power := { Power.reset with railEn := true, phase := p } }

/-- A state in sleep with wake pin 0 enabled. -/
def asleepState : State :=
  stateOf ({ Device.reset with power := { Power.reset with phase := .asleep, holdDone := false } }.setReg Reg.cfgWake 0x100)

/-- A booted state in which comparator 0 is enabled and its instant has come. -/
def cmpState : State := stateOf (liveDevice.setReg Reg.almCmpCtrl 1)

/-- A state in which software source 600 is pending and eligible for target 0. -/
def claimState : State :=
  stateOf (({ liveDevice with herald := { Herald.reset with pend := [600] } }.setReg (Reg.hrdEn 0 18) 0x1000000).setReg
    (Reg.hrdSrc 600) 0x10002)

/-- A state in which sources 67 and 600 are in service for target 0, and 67 is asserted. -/
def serviceState : State := stateOf { liveDevice with herald := { Herald.reset with inserv := [(67, 0), (600, 0)], out := [67] } }

/-- A state in which the line of source 72 has risen. -/
def lineState : State := stateOf { liveDevice with herald := { Herald.reset with raised := [72] } }

/-- Tags without a frame. -/
def plainTags : Tags :=
  { context := 1, tenancy := 0, frameValid := false, ingressFail := false, seqTag := 0, frameCounter := 0, timestamp := 0,
    frameCrc := 0 }

/-- A run that has just begun. -/
def freshRun : Run :=
  { slab := 0, index := 0, roleBases := [], own := plainTags, tagLines := [], tags := plainTags, startTick := 0, startNs := 0,
    bounds := [], stored := [], delivered := [], digests := [], released := [], withheld := [], deadlines := [], sat := 0, beats := [], overrun := none,
    stopped := none }

/-- A result of 64 bytes at the start of role 0. -/
def smallResult : ResultDecl :=
  { id := 5, checked := false, role := 0, offset := 0, bytes := 64, beats := 1, latency := 0, replicaLatency := 0,
    deadline := 0 }

/-- A slab of one core whose role 0 is bound to window 0. -/
def smallSlab : Slab :=
  { id := 9, image := 0x4000010000, roleMap := [128], replica := false, oppoint := 0, roles := [], results := [smallResult],
    loopMax := none, replicaMap := [], primary := [0], replicaCores := [], grants := [], objects := [], share := 0x40000,
    named := [] }

/-- Context 1, OPEN with the small slab loaded and running. -/
def runningCtx : Ctx :=
  { Ctx.closed with st := .opened, tenancy := 0, ring := 0, loaded := [(0, .slab smallSlab)], run := some freshRun }

/-- Window 0 of tenancy 0: 64 KiB at the start of Quarry 0. -/
def smallWindow : Window :=
  { base := 0x4000000000, limit := 0x400000FFFF, read := true, write := true, sideEffect := false, latency := 0 }

/-- A device in RUNNING whose core 0 is in usable slice time of context 1, with one bank given. -/
def coreDevice (b : Bank) : Device :=
  (((({ liveDevice with
    cfg := .running
    cal := { Calendar.reset with started := true, slices := [0], usable := [0] }
    ctxs := [(1, runningCtx)]
    tenancies := [(0, { Tenancy.off with on := true, windows := [(0, smallWindow)] })]
    objects := [(2 * 65536, 1), (2 * 65536 + 1, 0xFFFFFFFF)]
    banks := [(1, b)] }.setReg (Reg.calCtx 1) 0x8000040000000001).setReg (Reg.calPart 0) 0x80000001).setReg (Reg.calEntry 0)
    0x8000000100000001)).setReg Reg.calFrame 10

/-- The seat of core 0. -/
def coreSeat : Seat := { core := 0, ctx := 1, slab := smallSlab, run := freshRun, replica := false, slabCore := 0 }

/-- A state in which core 0 may issue. -/
def coreState : State := stateOf (coreDevice Bank.empty)

/-- The same with an active slot count above the declared maximum. -/
def fullState : State :=
  stateOf { coreDevice Bank.empty with
    ctxs := [(1, { runningCtx with servingWindow := some 0 })], mem := [(0x4000000000, 1)] }

/-- The same with the Quarry that holds the serving table held offline. -/
def offTableState : State := stateOf (fullState.dev.setUnitOff 40 true)

/-- The same with the serving table in the DDR, in half 0, whose BEST class the throttle holds. -/
def heldTableState : State :=
  stateOf { fullState.dev with
    tenancies := [(0, { Tenancy.off with on := true, windows := [(0, { smallWindow with base := 0, limit := 0xFFFF })] })]
    half0 := { clean := 0, steps := [8] } }

/-- A load of 64 bytes in flight. -/
def smallLoad : Transfer :=
  { id := 7, unit := .load, far := 0x4000000000, near := 0, bytes := 64, kind := .plain .none none none, data := [],
    issued := [(0, 1)], done := 0, excess := false, cut := false }

/-- A state in which the load streamer of core 0 has its 32 transfers in flight. -/
def fullLoads : State := stateOf (coreDevice { Bank.empty with transfers := List.replicate 32 smallLoad })

/-- A state in which core 0 has a load in flight and a digest open. -/
def loadState : State :=
  stateOf (coreDevice { Bank.empty with transfers := [smallLoad], digest := some { result := 5, crc := 0 } })

/-- A state in which units of core 0 wait. -/
def waitState : State :=
  stateOf (coreDevice { Bank.empty with
    load := { UnitState.fresh with waiting := some (.taking 1 2) }
    exec := { UnitState.fresh with waiting := some (.atLeast 0 2) } })

/-- A walk plan over a map of one row. -/
def tinyPlan : WalkPlan :=
  { fh := 1, fw := 1, sh := 1, sw := 1, dh := 1, dw := 1, pt := 0, pb := 0, pl := 0, pr := 0, pad := .none, block := 32,
    fmt := .int8, fill := 0, height := 1, width := 1, groups := 1, wPitch := 2, slots := 1, toVector := false }

/-- A walk of that plan. -/
def tinyWalk : WalkOp :=
  { plan := tinyPlan, role := 0, base := 0, lines := 0, free := 0, full := 1, codec := .none, privileged := [], regions := [],
    pitch := 64, rowSum := none }

/-- Core 0's device with its frame at a tick and its run past its bound. -/
def overrunState (n : Nat) : State :=
  stateOf { coreDevice Bank.empty with
    alm := { Almanac.reset with ticks := n }
    ctxs := [(1, { runningCtx with run := some { freshRun with overrun := some .deadline } })] }

/-- The device at the start of context 1's slice. -/
def sliceReady : State :=
  stateOf { coreDevice Bank.empty with cal := { Calendar.reset with started := true } }

/-- A device at a tick of a holiday slot of cluster 0, entry 0, with a chunk running if one is given. -/
def slotState (chunk : Option Nat) (n : Nat) : State :=
  stateOf ((({ coreDevice Bank.empty with
    alm := { Almanac.reset with ticks := n }
    cal := { Calendar.reset with started := true, usable := if chunk.isSome then [0] else [] }
    safety := { Safety.reset with stest := match chunk with
      | some k => [(0, { Stest.idle with entry := some 0, running := some k })]
      | none => [] } }.setReg (Reg.calEntry 0) 0xC000000000000001).setReg (Reg.safStestChunk 5) 0x80200000).setReg
    Reg.safStestCtrl 1)

/-- A ring of 16 entries in Quarry 0 bound to context 1, with a queue and what its head has in progress. -/
def smallRing (q : List QDesc) (j : Job) : Ring :=
  { Ring.unset with
    n := 4, sqBase := 0x4000001000, cqBase := 0x4000000000, state := .running, ctx := some 1, queued := q, job := j }

/-- Context 1's device with its ring 1 and its context given. -/
def ringDevice (c : Ctx) (q : List QDesc) (j : Job) : Device :=
  { coreDevice Bank.empty with
    ctxs := [(1, { c with ring := 1 })]
    tenancies := [(0, { Tenancy.off with on := true, windows := [(0, smallWindow)], rings := [(1, smallRing q j)] })] }

/-- A descriptor of context 1 with its opcode and its body. -/
def smallDesc (op : Byte) (body : List Byte) : QDesc :=
  { index := 0, raw := [1, 0] ++ List.replicate 22 0 ++ [op, 0, 0, 0] ++ bytesOfNat 4 0 ++ body ++
      List.replicate (32 - body.length) 0, reserved := 1 }

/-- Context 1, OPEN with the small slab loaded. -/
def openCtx1 : Ctx := { runningCtx with run := none }

/-- Ring 1 with one descriptor that waits at its head. -/
def descState (op : Byte) (body : List Byte) : State := stateOf (ringDevice openCtx1 [smallDesc op body] .idle)

/-- Ring 1's entries can be written. -/
theorem ringDevice_open (c : Ctx) (q : List QDesc) (j : Job) : (ringDevice c q j).entryOpen (.ring 0 1) :=
  ⟨nofun, rfl, rfl, (by decide : (coreDevice Bank.empty).addrOff 0x4000000000 = false), fun t r h => by cases h; rfl⟩

/-- A RUN that was taken up and waits for its start. -/
def startState : State := stateOf (ringDevice openCtx1 [smallDesc 3 [0]] .running)

/-- A run whose result's one line has been written. -/
def storedRun : Run := { freshRun with stored := [(0, [0x4000000000 / 64])] }

/-- The ring of a run whose result has landed. -/
def runEndState : State := stateOf (ringDevice { runningCtx with run := some storedRun } [smallDesc 3 [0]] .running)

/-- The same with a store of the result outstanding. -/
def storingState : State :=
  stateOf { ringDevice runningCtx [smallDesc 3 [0]] .running with
    banks := [(1, { Bank.empty with transfers := [{ smallLoad with unit := .store, data := List.replicate 64 0 }] })] }

/-- A run whose result is delivered and whose units have ended. -/
def endedState : State :=
  stateOf { ringDevice { runningCtx with run := some { freshRun with delivered := [(0, St.ok)] } } [smallDesc 3 [0]] .running with
    banks := [(1, { Bank.empty with exec := { UnitState.fresh with ended := true }, load := { UnitState.fresh with ended := true }
                                    store := { UnitState.fresh with ended := true } })] }

/-- A run with one checked result and two digests. -/
def checkedState (a b : Word) : State :=
  stateOf (ringDevice { runningCtx with
    loaded := [(0, .slab { smallSlab with results := [{ smallResult with checked := true }] })]
    run := some { freshRun with digests := [(0, a), (1, b)] } } [smallDesc 3 [0]] .running)

/-- A run of core 0 whose execute unit has issued some beats, its bound being one tick less. -/
def beatsState (n : Nat) : State :=
  stateOf { coreDevice Bank.empty with
    ctxs := [(1, { runningCtx with run := some { freshRun with beats := [(0, n)], bounds := [(0, n - 1)] } })] }

/-- Context 1 being torn down. -/
def tearState (drained : Bool) : State :=
  stateOf (ringDevice { runningCtx with
    st := .tearing
    loaded := [(0, .slab { smallSlab with roles := [{ role := 0, memory := 0, plain := true, ordered := false, size := 64,
                                                      readBytes := 64, writeBytes := 64, bandwidth := 0 }] })]
    teardown := some { status := St.bounds, detail := 1, core := 0, close := false, drained := drained } }
    [smallDesc 3 [0]] .running)

/-- The administrative ring with one command that waits at its head, with tenancies and contexts given. -/
def adminState (ts : Table Tenancy) (cs : Table Ctx) (op : Byte) (body : List Byte) : State :=
  stateOf { liveDevice with
    cfg := .running, tenancies := ts, ctxs := cs
    admin := { Ring.unset with
      n := 4, sqBase := 0x2000, cqBase := 0x1000, state := .running
      queued := [{ index := 0, raw := [0xFF, 0xFF] ++ List.replicate 22 0 ++ [op, 0, 0, 0] ++ bytesOfNat 4 0 ++ body ++
        List.replicate (32 - body.length) 0, reserved := 1 }] } }

/-- The head of that ring. -/
def adminDesc (op : Byte) (body : List Byte) : QDesc :=
  { index := 0, raw := [0xFF, 0xFF] ++ List.replicate 22 0 ++ [op, 0, 0, 0] ++ bytesOfNat 4 0 ++ body ++
      List.replicate (32 - body.length) 0, reserved := 1 }

/-- The administrative ring's entries can be written. -/
theorem adminState_open (ts : Table Tenancy) (cs : Table Ctx) (op : Byte) (body : List Byte) :
    (adminState ts cs op body).dev.entryOpen .admin :=
  ⟨nofun, rfl, rfl, (by decide : liveDevice.addrOff 0x1000 = false), nofun⟩

/-- Ring 1 with a NOP of a count in memory that it may fetch. -/
def fetchState (count : Byte) : State :=
  stateOf { ringDevice openCtx1 [] .idle with
    tenancies := [(0, { Tenancy.off with
      on := true, windows := [(0, smallWindow)], rings := [(1, { smallRing [] .idle with sqTail := 1 })] })]
    mem := memWrite [] 0x4000001000 ([1, 0] ++ List.replicate 22 0 ++ [0, 0, 0, 0, count]) }

/-- The body of a COPY of 128 bytes within window 0. -/
def copyBody : List Byte := bytesOfNat 8 0x4000002000 ++ bytesOfNat 8 0x4000003000 ++ bytesOfNat 4 128

/-- A copy in progress. -/
def copyState : State :=
  stateOf (ringDevice openCtx1 [smallDesc 6 copyBody] (.copying 0x4000002000 0x4000003000 128 false 0 []))

/-- The body of a LOAD with its image and its report in window 0. -/
def loadBody : List Byte := bytesOfNat 8 0x4000002000 ++ bytesOfNat 8 0x4000003000

/-- An admission whose checks have passed. -/
def admitState : State :=
  stateOf (ringDevice openCtx1 [smallDesc 1 loadBody] (.admitting 2 (.slab smallSlab) 0x4000003000 [] []))

/-- Context 1 with a serving table of one slot, whose state byte is given, at the start of window 0. -/
def serveState (op : Byte) (body : List Byte) (slot : Byte) : State :=
  stateOf ({ ringDevice { openCtx1 with servingWindow := some 0 } [smallDesc op body] .idle with
    mem := memPut [] 0x4000000240 slot }.setReg (Reg.calCtx 1) 0xA000040000000001)

/-- A tenancy that is on, with window 0, which holds ring 1, stopped by a fault. -/
def onTenancy : Tenancy :=
  { Tenancy.off with
    on := true, windows := [(0, smallWindow)]
    rings := [(1, { smallRing [] .idle with ctx := none, state := .stopped, cause := 1 })] }

/-- A frozen tenancy that holds nothing. -/
def frozenTenancy : Tenancy := { Tenancy.off with on := true, frozen := true }

/-- A tenancy with a log in force. -/
def loggedTenancy : Tenancy := { onTenancy with log := some 0x9000 }

/-- The body of a SET_WINDOW of tenancy 0, window 1: 4 KiB of the DDR, read and write. -/
def windowBody : List Byte := [0, 1, 3, 0] ++ bytesOfNat 4 0 ++ bytesOfNat 8 0x10000 ++ bytesOfNat 8 0x10FFF

/-- The body of a SET_RING of tenancy 0, ring 2: 16 entries in window 0. -/
def ringBody : List Byte := [0, 2, 4, 0] ++ bytesOfNat 4 0 ++ bytesOfNat 8 0x4000000000 ++ bytesOfNat 8 0x4000000400

/-- The body of a SAVE or a RESTORE of tenancy 0 at the start of Quarry 0. -/
def saveBody : List Byte := bytesOfNat 8 0 ++ bytesOfNat 8 0x4000000000

/-- The body of a LOG of tenancy 0. -/
def logBody (op : Byte) : List Byte := [0, op] ++ List.replicate 6 0 ++ bytesOfNat 8 (if op = 3 then 0 else 0x8000)

/-- An OPEN of context 1 to ring 1 of tenancy 0. -/
def openState (body : List Byte) : State :=
  stateOf ((adminState [(0, onTenancy)] [] 0x87 body).dev.setReg (Reg.calCtx 1) 0x8000040000000001)

/-- An OPEN of context 1, which serves from window 0, with the Quarry of that window held offline or not. -/
def openServing (off : Bool) : State :=
  stateOf (((openState [1, 0, 1, 0]).dev.setReg (Reg.calCtx 1) 0xA000040000000001).setUnitOff 40 off)

/-- A FREEZE in progress. -/
def freezingState : State :=
  let s := adminState [(0, frozenTenancy)] [] 0x89 [0]
  stateOf { s.dev with admin := { s.dev.admin with job := .freezing 0 } }

/-- A LOG SWAP in progress. -/
def loggingState : State :=
  let s := adminState [(0, loggedTenancy)] [] 0x8D (logBody 2)
  stateOf { s.dev with admin := { s.dev.admin with job := .logging 0 0x9000 5 } }

/-- What a save record of a tenancy without windows, rings and contexts holds before its digest. -/
def emptyBody : List Byte :=
  bytesOfNat 4 0x52535653 ++ [1, 0, 0, 0] ++ List.replicate 1112 0 ++ List.replicate 4096 0xFF ++ List.replicate 2912 0

/-- The record with its digest. -/
def emptyRecord : List Byte := emptyBody ++ sha512 emptyBody

/-- The record is in order. -/
theorem emptyRecord_ok : recordOk emptyRecord = true := 
  recordOk_append emptyBody (by simp only [emptyBody, List.length_append, List.length_replicate, bytesOfNat_length, List.length_cons,
    List.length_nil]) rfl rfl

/-- Memory that holds the record. -/
def recordMem : List Host.Cell := memWrite [] 0x4000000000 emptyRecord

/-- A RESTORE of that record. -/
def restoreState : State :=
  let s := adminState [(0, frozenTenancy)] [] 0x8C saveBody
  stateOf { s.dev with mem := recordMem }

/-- Bytes just written to empty memory are read. -/
theorem rd_written {d : Device} {a n : Nat} {bs : List Byte} (h : d.mem = memWrite [] a bs) (hn : bs.length = n) :
    d.rd a n = bs := by
  subst hn
  rw [Device.rd, h, memRead_memWrite]

/-- A device whose host caches hold nothing reads memory coherently as it stands. -/
theorem coRead_uncached {d : Device} (h : d.hostCache = []) (a n : Nat) : d.coRead a n = d.rd a n := by
  have h1 : ∀ l : List Nat, l.foldl (fun d l => d.dropLine l) d = d := fun l => by
    induction l with
    | nil => rfl
    | cons x l ih => rw [List.foldl_cons, show d.dropLine x = d by simp [Device.dropLine, h, tget], ih]
  rw [Device.coRead, Device.dropLines, h1]

/-- The record as the RESTORE reads it. -/
theorem restoreState_record : restoreState.dev.coRead 0x4000000000 recordBytes = emptyRecord := by
  have h : emptyRecord.length = recordBytes := by
    simp only [emptyRecord, emptyBody, List.length_append, List.length_replicate, bytesOfNat_length, List.length_cons,
      List.length_nil, sha512_length, recordBytes]
  have e : restoreState.dev.mem = recordMem := by simp only [restoreState, stateOf]
  rw [coRead_uncached (show restoreState.dev.hostCache = [] from rfl)]
  exact rd_written (bs := emptyRecord) (e.trans recordMem.eq_1) h

/-- The record names no context and no image, and rebuilds the tenancy. -/
theorem emptyRecord_read : restoreState.dev.recordMatches emptyRecord = true ∧
    restoreState.dev.linkImages emptyRecord = [] ∧
    ((restoreState.dev.begun.pass 28 0x4000000000 recordBytes false).2.rebuild [] 0 emptyRecord).isRight = true :=
  ⟨by decide +kernel, by decide +kernel, by decide +kernel⟩

/-- A fixed port takes every line of the record's place. -/
theorem record_open (o : Nat) (h : o < recordBytes) (h2 : o % 64 = 0) :
    (adminState [(0, frozenTenancy)] [] 0x8B saveBody).dev.openLine (0x4000000000 + o) := by
  have hq : ∀ q < 128, (adminState [(0, frozenTenancy)] [] 0x8B saveBody).dev.openLine (0x4000000000 + 64 * q) := by
    unfold Device.openLine
    decide +kernel
  rw [show o = 64 * (o / 64) by omega]
  exact hq _ (by simp only [recordBytes] at h; omega)

/-- A device whose PCA has a role and its link up, with a copy's, an ordered load's and a hart's read outstanding, and a signal held. -/
def linkState (role : BitVec 2) : State :=
  stateOf { (coreDevice { Bank.empty with transfers := [{ smallLoad with kind := .ordered }] }).setReg Reg.hifPcaCtrl 0 with
    boot := { Boot.none with pcaRole := role }
    links := { Links.reset with pca := true }
    tenancies := [(0, { Tenancy.off with on := true, target := 1, heldMsi := true, windows := [(0, smallWindow)] })]
    admin := { Ring.unset with job := .copying 0x8000000000 0x1000 64 false 0 [] }
    outbound := [{ id := 6, pc := .a, owner := .copy .admin, addr := 0x8000000000, bytes := 64, issued := 0, got := none },
                 { id := 7, pc := .a, owner := .transfer 0 1 7, addr := 0x8000000000, bytes := 64, issued := 0, got := none },
                 { id := 8, pc := .a, owner := .hart (.host 0), addr := 0x8000000000, bytes := 8, issued := 0, got := none }] }

/-- A read of 4 bytes by the bridge. -/
def smallInbound (a : Nat) : Inbound :=
  { link := 0, kind := .read, posted := false, addr := a, length := 4, contiguous := true, data := [],
    bar := .memory }

/-- A device in RUNNING with its operating point, die 0's rail ramping to a voltage if one is given. -/
def pointState (status : Word) (ramp : Nat) : State :=
  stateOf (({ liveDevice with
    cfg := .running, boot := { Boot.none with maxOpp := 3 }, alm := { Almanac.reset with ticks := 256 }
    gov := { Governor.reset with dies :=
      (Vector.replicate 4 DieGov.reset).set 0 { DieGov.reset with ramp := if ramp = 0 then none else some ramp } }
    }.setReg Reg.pwrStatus status).setReg (Reg.pwrRail 0) 550)

/-- The device at a window's end in the take-up of point 2 from point 1, its rails standing. -/
def takingState : State :=
  let s := pointState 0x11 0
  stateOf { s.dev with gov := { s.dev.gov with takeUp := some 2 } }

/-- A booted device whose host caches hold two lines in the L2 of core 2, the first of them changed. -/
def cachedState : State :=
  stateOf { liveDevice with hostCache :=
    [(0x1000 / 64, { data := List.replicate 64 0, dirty := some (.l2 2), l2 := [2], l3 := [] }),
     (0x1040 / 64, { data := List.replicate 64 0, dirty := none, l2 := [2], l3 := [] })] }

/-- A device with host pair 0 and island pair 0 stopped and unit 44 offline since the last poll. -/
def stoppedState : State :=
  stateOf ({ liveDevice with safety := { Safety.reset with
    hostStopped := 1, islandStopped := 1, offAtPoll := [44] } }.setUnitOff 44 true)

/-- A device in RUNNING with software stream 0 of the Vigil armed and due at 0, at a time in ns. -/
def vigilState (ns : Nat) : State :=
  stateOf ((((({ liveDevice with
    cfg := .running, alm := { Almanac.reset with count := BitVec.ofNat 96 (ns * 2 ^ 32) }
    safety := { Safety.reset with vigilArmed := [0] } }.setReg (Reg.vglCfg 0) 0xA000000000000000).setReg
    (Reg.vglPeriod 0) 10).setReg (Reg.vglAge 0) 10).setReg (Reg.vglDue 0) 0))

/-- A device with the watchdog enabled. -/
def dogState : State := stateOf (liveDevice.setReg Reg.safWdog 0x80000001)

/-- The same, its whole period of ticks later. -/
def dogLateState : State := stateOf { dogState.dev with alm := { dogState.dev.alm with ticks := 1000 } }

/-- A device in RUNNING whose window 0 is that of tenancy 0. -/
def netDevice : Device :=
  { liveDevice with
    cfg := .running, tenancies := [(0, { Tenancy.off with on := true, windows := [(0, smallWindow)] })] }

/-- A frame that waits for a receive queue. -/
def smallFrame : RxFrame := { id := 0, bytes := List.replicate 64 0, port := 1, cls := 2, stamp := none, canId := 0 }

/-- Queue `k` running with one descriptor of a length posted, and with the frames given waiting. -/
def queueState (k len : Nat) (l : List RxFrame) : State :=
  stateOf (((((({ netDevice with
    queues := [(k, { FrameQueue.unset with tail := 1, state := .running, waiting := l })]
    mem := memWrite [] 0x4000000000 (bytesOfNat 8 0x4000002000 ++ bytesOfNat 2 len ++ List.replicate 22 0)
    }.setReg (if k < 32 then Reg.tsnQCtrl k else Reg.gwyHqCtrl (k - 32)) 0x21).setReg
    (if k < 32 then Reg.tsnQBase k else Reg.gwyHqBase (k - 32)) 0x4000000000).setReg
    (Reg.gwyRouteMatch 0) 0xB8000000).setReg (Reg.gwyRouteDest 0 0) 0xD000000000000000)))

/-- A queue whose tenancy is off. -/
def unreadyQueue : State := let s := queueState 16 60 []; stateOf { s.dev with tenancies := [] }

/-- A frame at egress with the descriptor it came from. -/
def smallEgress (o : Option (Nat × Half × List Byte)) : EgressFrame :=
  { id := 0, bytes := List.replicate 60 0, oneStep := false, origin := o }

/-- Port 0 enabled with its link up, frames of class 3 waiting at it, and transmit queue 16 waiting for a departure. -/
def portState (l : List EgressFrame) : State :=
  stateOf (((((((((({ netDevice with
    queues := [(16, { FrameQueue.unset with tail := 1, state := .running, departing := true })]
    sw := { Switch.reset with egress := [(3, l)] } }.setReg (Reg.tsnPortCtrl 0) 1).setReg Reg.tsnStatus 3).setReg
    (Reg.tsnFdbKey 0) 0x8000000000000000).setReg (Reg.tsnFdbAct 0) 2).setReg (Reg.tsnGclLen 0) 2).setReg
    (Reg.tsnQCtrl 16) 0x21).setReg (Reg.tsnQBase 16) 0x4000000000).setReg
    (Reg.tsnGcl 0 0) 0xFF0001F4).setReg (Reg.tsnGcl 0 1) 0xFF0001F4).setReg (Reg.tsnGclCycle 0) 10000)

/-- Camera port 0 on, its stream 0 with two buffers of 16 bytes and selected type 42, and that stream's frame. -/
def cameraDevice (x : CsiStream) : Device :=
  (((((({ netDevice with csi := [(0, x)] }.setReg (Reg.csiPortCtrl 0) 1).setReg (Reg.csiSctrl 0) 0x201).setReg
    (Reg.csiSlen 0) 16).setReg (Reg.csiSstride 0) 0x80).setReg (Reg.csiSbase 0) 0x4000000000).setReg (Reg.csiSdt 0)
    0x40000000000)

/-- Stream 0 with a frame of some bytes in progress, or none. -/
def cameraState (n : Option Nat) : State :=
  stateOf (cameraDevice { CsiStream.idle with frame := n.map fun k => { stamp := 0, bytes := List.replicate k 0 } })

/-- Stream 0 with both buffers full. -/
def fullCamera : State := stateOf (cameraDevice { CsiStream.idle with fill := 2 })

/-- A classic CAN frame of 4 bytes. -/
def smallCan : CanFrame := { id := 1, ide := false, fdf := false, brs := false, rtr := false, data := [1, 2, 3, 4] }

/-- The gateway with controller 0 in a mode, its transmit queue, routes from it and from ACF stream 0 back to it, and ACF
stream 1 gathering. -/
def gatewayState (mode : Word) (l : List CanFrame) : State :=
  stateOf (((((((((({ netDevice with
    can := [(0, { CanCtl.idle with txq := l })]
    acf := [(1, { messages := [1], seq := 0 })] }.setReg (Reg.gwyCanCtrl 0) mode).setReg
    (Reg.gwyRouteMatch 0) 0x80000000).setReg (Reg.gwyRouteId 0) 1).setReg (Reg.gwyRouteMask 0) 0x7FF).setReg
    (Reg.gwyRouteDest 0 0) 0xC000000000000000).setReg (Reg.gwyRouteMatch 1) 0x90000000).setReg
    (Reg.gwyRouteDest 1 0) 0xC000000000000000).setReg (Reg.gwyAcfCtrl 0) 1).setReg (Reg.gwyAcfCtrl 1) 3))

/-- Controller 0 off its bus, with automatic recovery. -/
def busOffState : State :=
  stateOf ({ netDevice with can := [(0, { CanCtl.idle with conf := .busOff, txErr := 255 })] }.setReg (Reg.gwyCanCtrl 0) 6)

/-- A frame of ACF stream identifier 0 with a subtype and messages. -/
def acfBytes (sub : Byte) (m : List Byte) : List Byte :=
  List.replicate 12 0 ++ [0x22, 0xF0] ++ [sub, 0x80, BitVec.ofNat 8 m.length, 0] ++ List.replicate 8 0 ++ m

/-- The small CAN frame of bus 3 in an ACF_CAN_BRIEF message. -/
def acfSmall : List Byte := [4, 3, 0, 3, 0, 0, 0, 1, 1, 2, 3, 4]

/-- A twin of low rank with link 0 up and a poll outstanding; where it may back off, one poll was missed and both chunks are
in progress. -/
def twinState (b : Bool) : State :=
  stateOf { liveDevice with
    cfg := .running, boot := { Boot.none with pcbRole := 3 }, links := { Links.reset with pcb0 := true }
    twin0 := { TwinLink.reset with polling := true, missed := if b then 1 else 0, peerChunk := b }
    admin := { Ring.unset with job := if b then .copying 0x1000 0xC000000000 64 false 0 [] else .idle } }

/-- A configuration state with a command in progress or none, context 1 OPEN, and a wake enabled. -/
def cfgState (c : CfgState) (busy : Option CfgBusy) : State :=
  stateOf ({ liveDevice with cfg := c, busy := busy, ctxs := [(1, openCtx1)] }.setReg Reg.cfgWake 0x100)

/-- A device with an identity, version 5 running, and a floor of 3 to be raised. -/
def securityState (floor : Word) : State :=
  stateOf (({ liveDevice with
    boot := { Boot.none with version := 5 }
    sec := { Security.reset with identity := true, record := some { floor := 3, revoke := 0, counter := 7 } }
    }.setReg Reg.secAttAddr 0x4000000000).setReg Reg.secFloorReq floor)

/-- The same with a report and a record on their way. -/
def attestingState : State :=
  let s := securityState 5
  stateOf { s.dev with sec := { s.dev.sec with
    attest := some 0x4000000000, writing := some { floor := 5, revoke := 0, counter := 8 } } }

/-- Class 0 STATIC_HIGH with a reservation on DDR half 0, and half 1 one clean window short of undoing its step. -/
def shortState : State :=
  stateOf ((({ liveDevice with half1 := { clean := 63, steps := [8] } }.setReg (Reg.mrgClass 0) 2).setReg
    (Reg.mrgClassResDdr0 0) 100).setReg Reg.ddrCntWindow 1000)

/-- A job of context 1, on a cluster or not. -/
def smallJob (k : Option Nat) : FmJob :=
  { started := none, ctx := 1, slab := 0, index := 0, priority := 0, order := 0, done := 0, cluster := k, inputs := none, sat := 0 }

/-- Legacy partition 0 in a pool slice, with a pool of one page and that job. -/
def foremanState (k : Option Nat) : State :=
  stateOf ((((({ liveDevice with
    cfg := .running
    cal := { Calendar.reset with started := true, slices := [0], usable := [0] }
    ctxs := [(1, { openCtx1 with loaded :=
      [(0, .package { image := 0x110000, roleMap := [], raw := [], steps := 3, priority := 0, results := [] })] })]
    tenancies := [(0, { Tenancy.off with on := true, windows := [(0, { smallWindow with base := 0x100000, limit := 0x11FFFF })] })]
    jobs := [smallJob k] }.setReg (Reg.calPart 0) 0x81000001).setReg (Reg.calEntry 0) 0xA000000000000001).setReg
    (Reg.calCtx 1) 0x8000040000000001).setReg (Reg.fmnPoolSize 0) 1).setReg (Reg.fmnPoolBase 0) 0x4000000000)

/-- A fixed port takes every line of the job's page and of its place in the pool. -/
theorem page_open (o : Nat) (h : o < pageBytes) (h2 : o % 64 = 0) :
    (foremanState (some 0)).dev.openLine (0x100000 + o) ∧
      (foremanState (some 0)).dev.openLine ((foremanState (some 0)).dev.slotAddr 0 0 + o) := by
  have hq : ∀ q < 1024, (foremanState (some 0)).dev.openLine (0x100000 + 64 * q) ∧
      (foremanState (some 0)).dev.openLine ((foremanState (some 0)).dev.slotAddr 0 0 + 64 * q) := by
    unfold Device.openLine
    decide +kernel
  rw [show o = 64 * (o / 64) by omega]
  exact hq _ (by simp only [pageBytes] at h; omega)

/-- A boot that copies sections, whose image has three empty ones with the digest of no bytes. -/
def copiesState : State :=
  let d := (phaseState .copying).dev
  stateOf { d with boot := { d.boot with
    flash := memWrite (memWrite (memWrite [] 0xD0 (sha512 [])) 0x120 (sha512 [])) 0x170 (sha512 []) } }

/-! ### The statements' hypotheses are met -/


/-- States and operands that meet the hypotheses of WellFormedCompletes. -/
theorem witness_well_formed_completes :
    (Instr.governorWindowEnd (List.replicate 96 0)).wellFormed = true ∧ (Instr.governorWindowEnd []).wellFormed = false :=
  by decide

/-- States and operands that meet the hypotheses of QueueDrains. -/
theorem witness_queue_drains :
    ∀ c ∈ [Instr.powerOn, Instr.railEnRelease, Instr.refClkStop], c.wellFormed = true :=
  by decide

/-- States and operands that meet the hypotheses of StoresStayCanonical. -/
theorem witness_stores_stay_canonical :
    State.reset.dev.Canonical ∧ ∃ t, step State.reset = .next t :=
  ⟨⟨rfl, rfl, Table.canon_nil _⟩, _, rfl⟩

/-- States and operands that meet the hypotheses of TickAddsIncrement. -/
theorem witness_tick_adds_increment :
    (Device.reset.power.vddAon && Device.reset.power.refClk) = true ∧ ((phaseState .held).dev.power.vddAon && ({ Power.reset with refClk := false } : Power).refClk) = false :=
  by decide

/-- States and operands that meet the hypotheses of DeadDeviceStands. -/
theorem witness_dead_device_stands_1 :
    (Instr.calendarStart).wellFormed = true ∧ State.reset.dev.live = false ∧ (Instr.calendarStart).alwaysOn = false ∧ ∀ who a n e r h, Instr.calendarStart ≠ .readClear who a n e r h :=
  ⟨by decide, by decide, by decide, nofun⟩

/-- States and operands that meet the hypotheses of DeadDeviceStands. -/
theorem witness_dead_device_stands_2 :
    (phaseState .bootStopped).dev.live = false ∧ (phaseState .bootStopped).dev.romAnswers (.island 0) 0x5000E00000 = true ∧ (phaseState .bootStopped).dev.present (.island 0) = true :=
  by decide +kernel

/-- States and operands that meet the hypotheses of SuppliesAndReference. -/
theorem witness_supplies_and_reference_1 :
    (State.reset.dev.power.vddAon && State.reset.dev.power.refClk) = true ∧ State.reset.dev.power.phase = .held ∧ State.reset.dev.power.start = .powerOn :=
  by decide

/-- States and operands that meet the hypotheses of SuppliesAndReference. -/
theorem witness_supplies_and_reference_2 :
    (asleepState.dev.power.vddAon && asleepState.dev.power.refClk) = true ∧ asleepState.dev.power.phase = .asleep :=
  by decide

/-- States and operands that meet the hypotheses of PowerStarts. -/
theorem witness_power_starts :
    State.reset.dev.power.vddAon = false ∨ (State.reset.dev.power.railEn = false ∧ State.reset.dev.power.phase = .held) :=
  by decide

/-- States and operands that meet the hypotheses of WarmStartsKeep. -/
theorem witness_warm_starts_keep :
    railState.dev.Canonical ∧ (railState.dev.power.vddAon && railState.dev.power.refClk) = true ∧ railState.dev.power.phase ≠ .asleep ∧ railState.dev.power.railEn = true ∧ ∃ r, regRowAt Reg.cfgSticky = some r ∧ r.sticky = true :=
  ⟨⟨rfl, rfl, Table.canon_nil _⟩, by decide, by decide, by decide, _, rfl, rfl⟩

/-- States and operands that meet the hypotheses of BootSteps. -/
theorem witness_boot_steps_1 :
    railState.dev.power.vddAon = true ∧ railState.dev.power.refClk = true ∧ railState.dev.power.railEn = true ∧ railState.dev.power.phase = .held :=
  by decide

/-- States and operands that meet the hypotheses of BootSteps. -/
theorem witness_boot_steps_2 :
    let f : Device := { railState.dev with boot := { railState.dev.boot with flash := [(0x8000000, 1)] } }
    f.hasHelper = true ∧ ∃ bytes x, f.checkedRecord bytes = some x :=
  ⟨by decide, _, RpRecord.mk 0 0 0, checkedRecord_bytes _ _⟩

/-- States and operands that meet the hypotheses of BootSteps. -/
theorem witness_boot_steps_3 :
    (phaseState .training).dev.power.phase = .training ∧ (phaseState .zeroing).dev.power.phase = .zeroing ∧ (phaseState .copying).dev.power.phase = .copying ∧ ((phaseState .copying).dev.copiesMatch = false) :=
  by decide +kernel

/-- States and operands that meet the hypotheses of BootSteps. -/
theorem witness_boot_steps_4 :
    copiesState.dev.power.phase = .copying ∧ copiesState.dev.copiesMatch = true ∧ (copiesState.dev.power.vddAon && copiesState.dev.power.refClk) = true :=
  by decide +kernel

/-- States and operands that meet the hypotheses of WakesLatch. -/
theorem witness_wakes_latch :
    (asleepState.dev.power.vddAon && asleepState.dev.power.refClk) = true ∧ asleepState.dev.power.phase = .asleep ∧ (asleepState.dev.regBit Reg.cfgWake 8 = true ∧ asleepState.dev.regBit Reg.cfgWake 9 = false) :=
  by decide

/-- States and operands that meet the hypotheses of AlmanacAccesses. -/
theorem witness_almanac_accesses :
    liveState.dev.live = true ∧ liveState.dev.present (.host 0) = true ∧ liveState.dev.fireDue 0 = false ∧ cmpState.dev.fireDue 0 = true :=
  by decide

/-- States and operands that meet the hypotheses of ComparatorFires. -/
theorem witness_comparator_fires :
    (cmpState.dev.power.vddAon && cmpState.dev.power.refClk) = true ∧ cmpState.dev.regBit Reg.almCmpCtrl 0 = true ∧ (cmpState.dev.reg (Reg.almCmp 0)).toNat ≤ cmpState.dev.ns.toNat ∧ tget cmpState.dev.alm.fired 0 ≠ some cmpState.dev.alm.ticks ∧ cmpState.dev.regBit Reg.almCmpCtrl 1 = false :=
  by decide

/-- States and operands that meet the hypotheses of HeraldClaim. -/
theorem witness_herald_claim_1 :
    claimState.dev.live = true ∧ claimState.dev.present (.host 0) = true ∧ targetDenied (.host 0) 0 = false ∧ claimState.dev.targetExists 0 = true ∧ claimState.dev.eligible 0 600 = true :=
  by decide

/-- States and operands that meet the hypotheses of HeraldClaim. -/
theorem witness_herald_claim_2 :
    ∀ u, liveState.dev.eligible 0 u = false :=
  fun _ => rfl

/-- States and operands that meet the hypotheses of HeraldComplete. -/
theorem witness_herald_complete_1 :
    serviceState.dev.live = true ∧ serviceState.dev.present (.host 0) = true ∧ targetDenied (.host 0) 0 = false ∧ serviceState.dev.targetExists 0 = true ∧ tget serviceState.dev.herald.inserv 600 = some 0 ∧ serviceState.dev.levelSense 600 = false :=
  by decide

/-- States and operands that meet the hypotheses of HeraldComplete. -/
theorem witness_herald_complete_2 :
    tget serviceState.dev.herald.inserv 67 = some 0 ∧ serviceState.dev.asserted 67 = true ∧ tget serviceState.dev.herald.inserv 5 ≠ some 0 :=
  by decide

/-- States and operands that meet the hypotheses of HeraldPendWrites. -/
theorem witness_herald_pend_writes :
    claimState.dev.live = true ∧ claimState.dev.present (.host 0) = true ∧ claimState.dev.levelSense 600 = false ∧ 600 ∈ claimState.dev.herald.pend ∧ 601 ∉ claimState.dev.herald.pend ∧ hrdSource 601 = true ∧ claimState.dev.islandOwned 601 = false :=
  by decide

/-- States and operands that meet the hypotheses of HeraldEnables. -/
theorem witness_herald_enables :
    claimState.dev.live = true ∧ claimState.dev.present (.host 0) = true ∧ targetDenied (.host 0) 0 = false ∧ claimState.dev.targetExists 0 = true ∧ targetDenied (.host 0) 48 = true :=
  by decide

/-- States and operands that meet the hypotheses of HeraldFilterOutput. -/
theorem witness_herald_filter_output_1 :
    lineState.dev.live = true ∧ hrdSource 72 = true ∧ hrdSoftware 72 = false ∧ lineState.dev.herald.out.contains 72 = false ∧ lineState.dev.lineMay 72 true = true ∧ lineState.dev.sense 72 = 2 ∧ 72 ∉ lineState.dev.herald.pend :=
  by decide

/-- States and operands that meet the hypotheses of HeraldFilterOutput. -/
theorem witness_herald_filter_output_2 :
    hrdSource 67 = true ∧ hrdSoftware 67 = false ∧ serviceState.dev.herald.out.contains 67 = true ∧ lineState.dev.sense 67 = 0 ∧ (stateOf { liveDevice with herald := { Herald.reset with out := [67] } }).dev.lineMay 67 false = true :=
  by decide

/-- States and operands that meet the hypotheses of MachineTimer. -/
theorem witness_machine_timer :
    liveState.dev.live = true ∧ liveState.dev.hasTimer 0 = true :=
  by decide

/-- States and operands that meet the hypotheses of MatmulAccumulates. -/
theorem witness_matmul_accumulates :
    ∃ q, coreState.dev.mayIssue 0 .exec q ∧ cleanUse { core := 0 } ∧ coreState.dev.inShare q.ctx 0 (4 * rowSegs .int8 .int8) = true ∧ (coreState.dev.activations q (coreState.dev.bank 0 q.ctx) .int8 .int8 (.bench 0)).isSome = true :=
  ⟨coreSeat, ⟨by decide, rfl, by decide, by decide⟩, ⟨rfl, rfl⟩, by decide, by decide⟩

/-- States and operands that meet the hypotheses of WeightsAndSwap. -/
theorem witness_weights_and_swap :
    ∃ q, coreState.dev.mayIssue 0 .exec q ∧ coreState.dev.inShare q.ctx 0 (tileBytes .int8 .int8) = true ∧ min 256 ((coreState.dev.bank 0 q.ctx).setreg (.drainRows 0)) = 0 :=
  ⟨coreSeat, ⟨by decide, rfl, by decide, by decide⟩, by decide, by decide⟩

/-- States and operands that meet the hypotheses of VectorLanes. -/
theorem witness_vector_lanes :
    ∃ q, coreState.dev.mayIssue 0 .exec q ∧ cleanUse { core := 0 } ∧ coreState.dev.inShare q.ctx 0 8 = true ∧ segIndex ((coreState.dev.bank 0 q.ctx).lane 0 0) < 1 :=
  ⟨coreSeat, ⟨by decide, rfl, by decide, by decide⟩, ⟨rfl, rfl⟩, by decide, by decide⟩

/-- States and operands that meet the hypotheses of ProductTables. -/
theorem witness_product_tables :
    ∃ q, coreState.dev.mayIssue 0 .exec q ∧ cleanUse { core := 0 } ∧ coreState.dev.inShare q.ctx 0 2048 = true ∧ coreState.dev.inShare q.ctx 0 0 = true ∧ isEscape (laneCode [0x11] 0 0) = false :=
  ⟨coreSeat, ⟨by decide, rfl, by decide, by decide⟩, ⟨rfl, rfl⟩, by decide, by decide, by decide⟩

/-- States and operands that meet the hypotheses of SequencerControl. -/
theorem witness_sequencer_control_1 :
    ∃ q, coreState.dev.mayIssue 0 .exec q ∧ cleanUse { core := 0 } ∧ coreState.dev.activeCount q.ctx ≤ q.slab.loopMax.getD 0 :=
  ⟨coreSeat, ⟨by decide, rfl, by decide, by decide⟩, ⟨rfl, rfl⟩, by decide⟩

/-- States and operands that meet the hypotheses of SequencerControl. -/
theorem witness_sequencer_control_2 :
    ∃ q a, fullState.dev.mayIssue 0 .exec q ∧ fullState.dev.servingBase q.ctx = some a ∧ fullState.dev.addrOff a = false ∧ (fullState.dev.lineIssue 0 (fullState.dev.bucketOwner q.ctx) a).isSome = true ∧ q.slab.loopMax.getD 0 < fullState.dev.activeCount q.ctx :=
  ⟨coreSeat, 0x4000000000, ⟨by decide, rfl, by decide, by decide⟩, by decide, by decide, by decide, by decide⟩

/-- States and operands that meet the hypotheses of SequencerControl. -/
theorem witness_sequencer_control_3 :
    ∃ q a, offTableState.dev.mayIssue 0 .exec q ∧ offTableState.dev.servingBase q.ctx = some a ∧ offTableState.dev.addrOff a = true :=
  ⟨coreSeat, 0x4000000000, ⟨by decide, rfl, by decide, by decide⟩, by decide, by decide⟩

/-- States and operands that meet the hypotheses of SequencerControl. -/
theorem witness_sequencer_control_4 :
    ∃ q a, heldTableState.dev.mayIssue 0 .exec q ∧ heldTableState.dev.servingBase q.ctx = some a ∧ heldTableState.dev.addrOff a = false ∧ heldTableState.dev.lineIssue 0 (heldTableState.dev.bucketOwner q.ctx) a = none :=
  ⟨coreSeat, 0, ⟨by decide, rfl, by decide, by decide⟩, by decide, by decide, by decide⟩

/-- States and operands that meet the hypotheses of SyncOperations. -/
theorem witness_sync_operations_1 :
    ∃ q, coreState.dev.mayIssue 0 .load q ∧ (coreState.dev.bank 0 q.ctx).outstanding .load = [] ∧ (coreState.dev.obj q 0).toNat + 1 < 2 ^ 32 ∧ 2 ^ 32 ≤ (coreState.dev.obj q 1).toNat + 1 :=
  ⟨coreSeat, ⟨by decide, rfl, by decide, by decide⟩, by decide, by decide, by decide⟩

/-- States and operands that meet the hypotheses of SyncOperations. -/
theorem witness_sync_operations_2 :
    ∃ q, loadState.dev.mayIssue 0 .load q ∧ (loadState.dev.bank 0 q.ctx).outstanding .load ≠ [] :=
  ⟨coreSeat, ⟨by decide, rfl, by decide, by decide⟩, by decide⟩

/-- States and operands that meet the hypotheses of WaitReleased. -/
theorem witness_wait_released :
    ∃ q, waitState.dev.live = true ∧ waitState.dev.seat 0 = some q ∧ ((waitState.dev.bank 0 q.ctx).unit .load).waiting = some (.taking 1 2) ∧ (waitState.dev.bank 0 q.ctx).walking = false ∧ (2 : Half) ≤ waitState.dev.obj q 1 ∧ ((waitState.dev.bank 0 q.ctx).unit .exec).waiting = some (.atLeast 0 2) ∧ waitState.dev.obj q 0 < 2 :=
  ⟨coreSeat, by decide, rfl, by decide, by decide, by decide, by decide, by decide⟩

/-- States and operands that meet the hypotheses of TransfersIssue. -/
theorem witness_transfers_issue_1 :
    ∃ q, coreState.dev.mayIssue 0 .store q ∧ cleanUse { core := 0 } ∧ coreState.dev.farAddr q (.role 0 0) = some 0x4000000000 ∧ coreState.dev.inShare q.ctx 0 64 = true ∧ coreState.dev.veto q (.role 0 0) 0x4000000000 64 true true = none ∧ coreState.dev.veto q (.role 0 0) 0x4000000000 8 true false = none ∧ (coreState.dev.bank 0 q.ctx).outstanding .store = [] ∧ coreState.dev.loadsFull q (coreState.dev.bank 0 q.ctx) = false ∧ (coreState.dev.ten (coreState.dev.ctx q.ctx).tenancy).log = none :=
  ⟨coreSeat, ⟨by decide, rfl, by decide, by decide⟩, ⟨rfl, rfl⟩, by decide, by decide, by decide, by decide, by decide, by decide, by decide⟩

/-- States and operands that meet the hypotheses of TransfersIssue. -/
theorem witness_transfers_issue_2 :
    ∃ q, loadState.dev.mayIssue 0 .load q ∧ (loadState.dev.bank 0 q.ctx).outstanding .load ≠ [] :=
  ⟨coreSeat, ⟨by decide, rfl, by decide, by decide⟩, by decide⟩

/-- States and operands that meet the hypotheses of TransfersIssue. -/
theorem witness_transfers_issue_3 :
    ∃ q, fullLoads.dev.mayIssue 0 .load q ∧ fullLoads.dev.loadsFull q (fullLoads.dev.bank 0 q.ctx) = true :=
  ⟨coreSeat, ⟨by decide, rfl, by decide, by decide⟩, by decide⟩

/-- States and operands that meet the hypotheses of WalkWaitsForSlots. -/
theorem witness_walk_waits_for_slots :
    ∃ q, coreState.dev.mayIssue 0 .load q ∧ coreState.dev.roleBase q (q.roleOf 0) = some 0x4000000000 ∧ planRows tinyPlan = [0] ∧ coreState.dev.obj q 2 = 0 ∧ coreState.dev.obj q 0 = 1 ∧ coreState.dev.loadsFull q (coreState.dev.bank 0 q.ctx) = false ∧ walkOk tinyWalk = true ∧ coreState.dev.vetoRole (coreState.dev.ctx q.ctx).tenancy 0x4000000000 (walkPitch tinyWalk) false true = none :=
  ⟨coreSeat, ⟨by decide, rfl, by decide, by decide⟩, by decide, by decide, by decide, by decide, by decide, by decide, by decide⟩

/-- States and operands that meet the hypotheses of TransferLands. -/
theorem witness_transfer_lands_1 :
    ∃ x, loadState.dev.live = true ∧ ((loadState.dev.bank 0 1).transfers.find? fun t => decide (t.id = 7) && decide (t.unit = .load)) = some x ∧ x.kind = .plain .none none none ∧ x.done = 0 ∧ x.cut = false ∧ x.sent = x.lines.length ∧ 0 < x.lines.length ∧ loadState.dev.twinHeld x.far = false ∧ loadState.dev.isOutbound x.far = false ∧ x.data = [] ∧ x.bytes % 64 = 0 :=
  ⟨_, by decide, rfl, by decide, by decide, by decide, by decide, by decide, by decide, by decide, by decide, by decide⟩

/-- States and operands that meet the hypotheses of TransferLands. -/
theorem witness_transfer_lands_2 :
    ∃ x, storingState.dev.live = true ∧ ((storingState.dev.bank 0 1).transfers.find? fun t => decide (t.id = 7) && decide (t.unit = .store)) = some x ∧ x.kind = .plain .none none none ∧ x.done = 0 ∧ x.cut = false ∧ x.sent = x.lines.length ∧ 0 < x.lines.length ∧ storingState.dev.twinHeld x.far = false ∧ ∀ off ∈ x.lines, storingState.dev.isOutbound (x.far + off) = false :=
  ⟨_, by decide, rfl, by decide, by decide, by decide, by decide, by decide, by decide, by decide⟩

/-- States and operands that meet the hypotheses of StoreDigests. -/
theorem witness_store_digests :
    ∃ q g, loadState.dev.mayIssue 0 .store q ∧ cleanUse { core := 0 } ∧ (loadState.dev.bank 0 q.ctx).digest = some g ∧ q.slab.resultAt g.result = some 0 :=
  ⟨coreSeat, _, ⟨by decide, rfl, by decide, by decide⟩, ⟨rfl, rfl⟩, rfl, by decide⟩

/-- States and operands that meet the hypotheses of CalendarSlices. -/
theorem witness_calendar_slices_1 :
    runState.dev.live = true ∧ runState.dev.cfg = .running ∧ runState.dev.busy = none ∧ runState.dev.cal.started = false ∧ runState.dev.reg Reg.calStart ≤ runState.dev.ns :=
  by decide

/-- States and operands that meet the hypotheses of CalendarSlices. -/
theorem witness_calendar_slices_2 :
    (∃ e, sliceReady.dev.entry 0 = some e ∧ e.start ≤ sliceReady.dev.frameOff ∧ sliceReady.dev.frameOff < e.stop) ∧ 0 ∉ sliceReady.dev.cal.slices :=
  ⟨⟨_, rfl, by decide, by decide⟩, by decide⟩

/-- States and operands that meet the hypotheses of CalendarSlices. -/
theorem witness_calendar_slices_3 :
    coreState.dev.cal.started = true ∧ (∃ e, coreState.dev.entry 0 = some e ∧ e.kind = .slice 1 ∧ e.start ≤ coreState.dev.frameOff ∧ coreState.dev.frameOff < e.stop) ∧ 0 ∈ coreState.dev.cal.slices :=
  ⟨rfl, ⟨_, rfl, by decide, by decide, by decide⟩, by decide⟩

/-- States and operands that meet the hypotheses of CalendarSlices. -/
theorem witness_calendar_slices_4 :
    ∃ e, (overrunState 980).dev.entry 0 = some e ∧ e.kind = .slice 1 ∧ 0 ∈ (overrunState 980).dev.cal.usable ∧ e.stop - 20 ≤ (overrunState 980).dev.frameOff ∧ ((overrunState 980).dev.ctx 1).st = .opened ∧ ((overrunState 980).dev.ctx 1).run.any (fun r => r.overrun.isSome && r.stopped.isNone) = true :=
  ⟨_, rfl, by decide, by decide, by decide, by decide, by decide⟩

/-- States and operands that meet the hypotheses of HolidaySlots. -/
theorem witness_holiday_slots_1 :
    (slotState none 0).dev.live = true ∧ (slotState none 0).dev.cfg = .running ∧ (slotState none 0).dev.cal.started = true ∧ (slotState none 0).dev.entry 0 = some { kind := .holiday 0, start := 0, stop := 1000 } ∧ (slotState none 0).dev.frameOff < 980 ∧ (slotState none 0).dev.stestOn = true :=
  by decide

/-- States and operands that meet the hypotheses of HolidaySlots. -/
theorem witness_holiday_slots_2 :
    980 ≤ (slotState (some 5) 980).dev.frameOff ∧ 0 ∈ (slotState (some 5) 980).dev.cal.usable ∧ ((slotState (some 5) 980).dev.stest 0).running = some 5 ∧ ((slotState (some 5) 980).dev.stest 0).entry.isSome = true ∧ ((slotState (some 5) 980).dev.stest 0).skipped = false ∧ (slotState (some 5) 980).dev.chunkPassed 5 (.march true []) = some true ∧ (slotState (some 5) 980).dev.chunkPassed 5 (.digests []) = none :=
  by decide

/-- States and operands that meet the hypotheses of RunsStart. -/
theorem witness_runs_start_1 :
    (descState 3 [0]).dev.takes (.ring 0 1) 3 (smallDesc 3 [0]) ∧ ((descState 3 [0]).dev.ring (.ring 0 1)).ctx = some 1 ∧ tget ((descState 3 [0]).dev.ctx 1).loaded 0 = some (.slab smallSlab) ∧ (descState 3 [0]).dev.rolesOk 0 smallSlab (roleEntries (smallDesc 3 [0])) = true :=
  ⟨⟨by decide, by decide, by decide⟩, by decide, by decide, by decide⟩

/-- States and operands that meet the hypotheses of RunsStart. -/
theorem witness_runs_start_2 :
    (descState 3 [1]).dev.takes (.ring 0 1) 3 (smallDesc 3 [1]) ∧ (descState 3 [1]).dev.entryOpen (.ring 0 1) ∧ (descState 3 [1]).dev.jobOf (.ring 0 1) (smallDesc 3 [1]) = none ∧ tget ((descState 3 [1]).dev.ctx 1).loaded 1 = none :=
  ⟨⟨by decide, by decide, by decide⟩, ringDevice_open _ _ _, by decide, by decide⟩

/-- States and operands that meet the hypotheses of RunsStart. -/
theorem witness_runs_start_3 :
    ∃ x y, (startState.dev.ring (startState.dev.ctxRing 1)).queued = [x] ∧ x.opcode = 3 ∧ (startState.dev.ring (startState.dev.ctxRing 1)).job = .running ∧ (startState.dev.ctx 1).st = .opened ∧ (startState.dev.ctx 1).run = none ∧ startState.dev.cal.started = true ∧ startState.dev.ctxUsable 1 = true ∧ startState.dev.ctxOffline 1 = false ∧ tget (startState.dev.ctx 1).loaded (x.field 0x20 1) = some (.slab y) ∧ startState.dev.tagVeto (startState.dev.ctx 1).tenancy y (roleEntries x) = none :=
  ⟨smallDesc 3 [0], smallSlab, by decide, by decide, by decide, by decide, by decide, by decide, by decide, by decide, by decide, by decide⟩

/-- States and operands that meet the hypotheses of ResultsAndRunEnd. -/
theorem witness_results_and_run_end_1 :
    ∃ r y, runEndState.dev.live = true ∧ runEndState.dev.runSlab 1 = some (r, y) ∧ (runEndState.dev.ctx 1).st = .opened ∧ runEndState.dev.entryOpen (runEndState.dev.ctxRing 1) ∧ y.resultAt 5 = some 0 ∧ y.results[0]? = some smallResult ∧ r.stopped = none ∧ tget r.delivered 0 = none ∧ smallResult.checked = false ∧ runEndState.dev.resultPending 1 { core := 0, ctx := 1, slab := y, run := r, replica := false, slabCore := 0 } smallResult = false ∧ runEndState.dev.resultStored r 0 { core := 0, ctx := 1, slab := y, run := r, replica := false, slabCore := 0 } smallResult = true ∧ runEndState.dev.tagsDue 1 = false ∧ runEndState.dev.entryHeld (runEndState.dev.ctxRing 1) = false :=
  ⟨storedRun, smallSlab, by decide, rfl, by decide, ringDevice_open _ _ _, by decide, rfl, rfl, rfl, rfl, by decide, by decide, by decide, by decide⟩

/-- States and operands that meet the hypotheses of ResultsAndRunEnd. -/
theorem witness_results_and_run_end_2 :
    ∃ r y, endedState.dev.runSlab 1 = some (r, y) ∧ endedState.dev.storesPending 1 = false ∧ endedState.dev.tagsDue 1 = false ∧ endedState.dev.entryHeld (endedState.dev.ctxRing 1) = false ∧ r.stopped = none ∧ r.overrun = none ∧ endedState.dev.allEnded 1 y = true ∧ r.delivered.length = y.results.length ∧ (∀ i < y.results.length, (tget r.delivered i).isSome = true) ∧ (endedState.dev.ring (endedState.dev.ctxRing 1)).queued = [smallDesc 3 [0]] ∧ endedState.dev.entryOpen (endedState.dev.ctxRing 1) :=
  ⟨_, smallSlab, rfl, by decide, by decide, by decide, by decide, by decide, by decide, by decide, by decide, by decide, ⟨nofun, rfl, rfl, by decide, fun _ _ h => by cases h; rfl⟩⟩

/-- States and operands that meet the hypotheses of ResultsAndRunEnd. -/
theorem witness_results_and_run_end_3 :
    ∃ r y, storingState.dev.runSlab 1 = some (r, y) ∧ storingState.dev.resultPending 1 { core := 0, ctx := 1, slab := y, run := r, replica := false, slabCore := 0 } smallResult = true :=
  ⟨freshRun, smallSlab, rfl, by decide⟩

/-- States and operands that meet the hypotheses of CheckerAndSupervision. -/
theorem witness_checker_and_supervision_1 :
    ∃ r y z, (checkedState 1 2).dev.live = true ∧ (checkedState 1 2).dev.runSlab 1 = some (r, y) ∧ y.resultAt 5 = some 0 ∧ y.results[0]? = some z ∧ z.checked = true ∧ r.stopped = none ∧ tget r.digests (digestKey 0 false) = some 1 ∧ tget r.digests (digestKey 0 true) = some 2 ∧ 0 ∉ r.released ∧ 0 ∉ r.withheld ∧ (checkedState 1 2).dev.resultPending 1 { core := 0, ctx := 1, slab := y, run := r, replica := false, slabCore := 0 } z = false ∧ (checkedState 1 2).dev.tagsDue 1 = false ∧ (checkedState 1 2).dev.entryHeld ((checkedState 1 2).dev.ctxRing 1) = false ∧ (checkedState 1 2).dev.entryOpen ((checkedState 1 2).dev.ctxRing 1) :=
  ⟨_, _, _, by decide, rfl, by decide, rfl, by decide, by decide, by decide, by decide, by decide, by decide, by decide, by decide, by decide, ringDevice_open _ _ _⟩

/-- States and operands that meet the hypotheses of CheckerAndSupervision. -/
theorem witness_checker_and_supervision_2 :
    ∃ r y, (checkedState 1 1).dev.runSlab 1 = some (r, y) ∧ tget r.digests (digestKey 0 false) = tget r.digests (digestKey 0 true) :=
  ⟨_, _, rfl, by decide⟩

/-- States and operands that meet the hypotheses of CheckerAndSupervision. -/
theorem witness_checker_and_supervision_3 :
    ∃ q, (beatsState 2).dev.seat 0 = some q ∧ q.run.overrun ≠ some .budget ∧ q.slab.budget < tgetD q.run.beats 0 0 :=
  ⟨_, rfl, by decide, by decide⟩

/-- States and operands that meet the hypotheses of CheckerAndSupervision. -/
theorem witness_checker_and_supervision_4 :
    ∃ q, (beatsState 1).dev.seat 0 = some q ∧ tgetD q.run.beats 0 0 ≤ q.slab.budget :=
  ⟨_, rfl, by decide⟩

/-- States and operands that meet the hypotheses of CheckerAndSupervision. -/
theorem witness_checker_and_supervision_5 :
    ∃ r y, (beatsState 1).dev.runSlab 1 = some (r, y) ∧ y.resultAt 5 = some 0 ∧ tget r.bounds 0 = some 0 ∧ 0 ≤ (beatsState 1).dev.alm.ticks ∧ tget r.delivered 0 = none ∧ 0 ∉ r.deadlines ∧ r.stopped = none :=
  ⟨_, _, rfl, by decide, by decide, by decide, by decide, by decide, by decide⟩

/-- States and operands that meet the hypotheses of CheckerAndSupervision. -/
theorem witness_checker_and_supervision_6 :
    ∃ r y, (beatsState 2).dev.runSlab 1 = some (r, y) ∧ tget r.bounds 0 = some 1 ∧ (beatsState 2).dev.alm.ticks < 1 :=
  ⟨_, _, rfl, by decide, by decide⟩

/-- States and operands that meet the hypotheses of TeardownOfOneContext. -/
theorem witness_teardown_of_one_context_1 :
    (tearState false).dev.live = true ∧ (∃ x, ((tearState false).dev.ctx 1).teardown = some x ∧ x.drained = false ∧ x.close = false) ∧ ((tearState false).dev.ctx 1).st = .tearing ∧ (tearState false).dev.transfersPending 1 = false ∧ ((tearState false).dev.ring ((tearState false).dev.ctxRing 1)).queued.length ≤ queueMax ∧ (tearState false).dev.entryHeld ((tearState false).dev.ctxRing 1) = false :=
  ⟨by decide, ⟨_, rfl, rfl, rfl⟩, by decide, by decide, by decide, by decide⟩

/-- States and operands that meet the hypotheses of TeardownOfOneContext. -/
theorem witness_teardown_of_one_context_2 :
    (∃ x, ((tearState true).dev.ctx 1).teardown = some x ∧ x.drained = true ∧ x.close = false) ∧ (tearState true).dev.scrubHeld 1 = false ∧ ((tearState true).dev.ten ((tearState true).dev.ctx 1).tenancy).log = none ∧ (0 ∈ (tearState true).dev.ctxCores 1 ∧ 0 ∈ (tearState true).dev.boundWindows 1) :=
  ⟨⟨_, rfl, rfl, rfl⟩, by decide, by decide, by decide, by decide⟩

/-- States and operands that meet the hypotheses of TeardownOfOneContext. -/
theorem witness_teardown_of_one_context_3 :
    ∃ s : State, (∃ x, (s.dev.ctx 1).teardown = some x ∧ x.drained = true) ∧ s.dev.scrubHeld 1 = true :=
  ⟨let s := tearState true; { s with dev := { s.dev.setTen 0 { s.dev.ten 0 with windows := [(0, { smallWindow with base := 0x10000, limit := 0x1FFFF })] } with half0 := { clean := 0, steps := [8] } } }, ⟨_, rfl, rfl⟩, by decide +kernel⟩

/-- States and operands that meet the hypotheses of DoorbellWrites. -/
theorem witness_doorbell_writes_1 :
    (descState 0 []).dev.live = true ∧ (descState 0 []).dev.present (.host 0) = true ∧ (descState 0 []).dev.doorbellOpen (.host 0) (.ring 0 1) = true ∧ (descState 0 []).dev.doorbellOpen (.host 0) .admin = false ∧ ((5 : Half) - ((descState 0 []).dev.ring (.ring 0 1)).sqHead).toNat ≤ 2 ^ ((descState 0 []).dev.ring (.ring 0 1)).n ∧ 2 ^ ((descState 0 []).dev.ring (.ring 0 1)).n < ((17 : Half) - ((descState 0 []).dev.ring (.ring 0 1)).sqHead).toNat ∧ (((descState 0 []).dev.ring (.ring 0 1)).cqTail - 0).toNat ≤ 2 ^ ((descState 0 []).dev.ring (.ring 0 1)).n ∧ 2 ^ ((descState 0 []).dev.ring (.ring 0 1)).n < (((descState 0 []).dev.ring (.ring 0 1)).cqTail - 1).toNat :=
  by decide

/-- States and operands that meet the hypotheses of DoorbellWrites. -/
theorem witness_doorbell_writes_2 :
    (adminState [] [] 0 []).dev.doorbellOpen (.host 0) .admin = true ∧ ((adminState [] [] 0 []).dev.admin.cqTail - 0).toNat ≤ 2 ^ (adminState [] [] 0 []).dev.admin.n ∧ (adminState [] [] 0 []).dev.notices = [] :=
  by decide

/-- States and operands that meet the hypotheses of DescriptorFetches. -/
theorem witness_descriptor_fetches_1 :
    (fetchState 0).dev.wantsFetch (.ring 0 1) = true ∧ ((fetchState 0).dev.begun.engineTurn (.ring 0 1)).isSome = true ∧ ((fetchState 0).dev.ring (.ring 0 1)).fetchAt = 0x4000001000 ∧ (fetchState 0).dev.inMemory 0x4000001000 64 = true ∧ (fetchState 0).dev.ringAddrOk (.ring 0 1) 0x4000001000 64 true false = true ∧ (fetchState 0).dev.addrOff 0x4000001000 = false ∧ fieldAt ((fetchState 0).dev.coRead 0x4000001000 64) 0x1C 4 = 0 ∧ (fetchState 0).dev.entriesFor (.ring 0 1) { index := 0, raw := (fetchState 0).dev.coRead 0x4000001000 64, reserved := 1 } = some 1 :=
  by decide +kernel

/-- States and operands that meet the hypotheses of DescriptorFetches. -/
theorem witness_descriptor_fetches_2 :
    fieldAt ((fetchState 1).dev.coRead 0x4000001000 64) 0x1C 4 ≠ 0 ∧ (descState 0 []).dev.wantsFetch (.ring 0 1) = false :=
  by decide +kernel

/-- States and operands that meet the hypotheses of DescriptorFetches. -/
theorem witness_descriptor_fetches_3 :
    (descState 0 []).dev.takes (.ring 0 1) 0 (smallDesc 0 []) ∧ (descState 0 []).dev.entryOpen (.ring 0 1) :=
  ⟨⟨by decide, by decide, by decide⟩, ringDevice_open _ _ _⟩

/-- States and operands that meet the hypotheses of Copies. -/
theorem witness_copies_1 :
    (descState 6 copyBody).dev.takes (.ring 0 1) 6 (smallDesc 6 copyBody) ∧ (descState 6 copyBody).dev.entryOpen (.ring 0 1) ∧ (smallDesc 6 copyBody).field 0x20 8 = 0x4000002000 ∧ copyShape 0x4000002000 0x4000003000 128 false = none ∧ (descState 6 copyBody).dev.ringAddrOk (.ring 0 1) 0x4000002000 128 true false = true ∧ (descState 6 copyBody).dev.ringAddrOk (.ring 0 1) 0x4000003000 128 false true = true ∧ (descState 6 copyBody).dev.ringAddrOk (.ring 0 1) 0x4000FFF000 8192 false true = false ∧ copyShape 0x4000002000 0x4000003000 100 false = some 1 :=
  ⟨⟨by decide, by decide, by decide⟩, ringDevice_open _ _ _, by decide, by decide, by decide, by decide, by decide, by decide⟩

/-- States and operands that meet the hypotheses of Copies. -/
theorem witness_copies_2 :
    (copyState.dev.live = true ∧ (copyState.dev.ring (.ring 0 1)).queued = [smallDesc 6 copyBody] ∧ (copyState.dev.ring (.ring 0 1)).job = .copying 0x4000002000 0x4000003000 128 false 0 [] ∧ copyState.dev.wantsCopy (.ring 0 1) = true ∧ (copyState.dev.begun.engineTurn (.ring 0 1)).isSome = true ∧ copyState.dev.isOutbound 0x4000002000 = false) ∧ ∀ o < 128, o % 64 = 0 → copyState.dev.openLine (0x4000002000 + o) ∧ copyState.dev.openLine (0x4000003000 + o) ∧ copyState.dev.descVeto (.ring 0 1) (0x4000002000 + o) (min 64 (128 - o)) true false = none ∧ copyState.dev.descVeto (.ring 0 1) (0x4000003000 + o) (min 64 (128 - o)) false true = none :=
  ⟨by decide +kernel, fun o h h2 => by
    have h3 : o = 0 ∨ o = 64 := by omega
    rcases h3 with rfl | rfl <;> exact ⟨⟨by decide, by decide, by decide⟩, ⟨by decide, by decide, by decide⟩, by decide, by decide⟩⟩

/-- States and operands that meet the hypotheses of Copies. -/
theorem witness_copies_3 :
    copyState.dev.wantsFetch (.ring 0 1) = false ∧ (descState 6 copyBody).dev.wantsCopy (.ring 0 1) = false :=
  by decide +kernel

/-- States and operands that meet the hypotheses of LoadsAndUnloads. -/
theorem witness_loads_and_unloads_1 :
    (descState 1 loadBody).dev.takes (.ring 0 1) 1 (smallDesc 1 loadBody) ∧ (descState 1 loadBody).dev.entryOpen (.ring 0 1) ∧ ((descState 1 loadBody).dev.ring (.ring 0 1)).ctx = some 1 ∧ (descState 1 loadBody).dev.admissionBusy = false ∧ (descState 1 loadBody).dev.gov.takeUp = none ∧ ((descState 1 loadBody).dev.begun.admissionTurn (.ring 0 1)).isSome = true ∧ (descState 1 loadBody).dev.descVeto (.ring 0 1) 0x4000003000 32 false true = none ∧ (descState 1 loadBody).dev.inMemory 0x4000003000 32 = true ∧ (descState 1 loadBody).dev.descVeto (.ring 0 1) 0x4000002000 256 true false = none :=
  ⟨⟨by decide, by decide, by decide⟩, ringDevice_open _ _ _, by decide, by decide, by decide, by decide +kernel, by decide, by decide, by decide⟩

/-- States and operands that meet the hypotheses of LoadsAndUnloads. -/
theorem witness_loads_and_unloads_2 :
    admitState.dev.live = true ∧ admitState.dev.entryOpen (.ring 0 1) ∧ (∃ x, (admitState.dev.ring (.ring 0 1)).queued = [x]) ∧ (admitState.dev.ring (.ring 0 1)).job = .admitting 2 (.slab smallSlab) 0x4000003000 [] [] ∧ admitState.dev.headHeld (.ring 0 1) = false ∧ admitState.dev.entryHeld (.ring 0 1) = false ∧ admitState.dev.copyVeto [] = none ∧ admitState.dev.isOutbound 0x4000003000 = false ∧ (admitState.dev.copyVeto [(0x8000000000, [])]).isSome = true :=
  ⟨by decide, ringDevice_open _ _ _, ⟨_, rfl⟩, by decide, by decide, by decide, by decide, by decide, by decide⟩

/-- States and operands that meet the hypotheses of LoadsAndUnloads. -/
theorem witness_loads_and_unloads_3 :
    (descState 2 [0]).dev.takes (.ring 0 1) 2 (smallDesc 2 [0]) ∧ (tget ((descState 2 [0]).dev.ctx 1).loaded ((smallDesc 2 [0]).field 0x20 1)).isSome = true :=
  ⟨⟨by decide, by decide, by decide⟩, by decide⟩

/-- States and operands that meet the hypotheses of LoadsAndUnloads. -/
theorem witness_loads_and_unloads_4 :
    (descState 2 [1]).dev.takes (.ring 0 1) 2 (smallDesc 2 [1]) ∧ tget ((descState 2 [1]).dev.ctx 1).loaded ((smallDesc 2 [1]).field 0x20 1) = none :=
  ⟨⟨by decide, by decide, by decide⟩, by decide⟩

/-- States and operands that meet the hypotheses of ServingSlots. -/
theorem witness_serving_slots_1 :
    (serveState 4 [] 0).dev.takes (.ring 0 1) 4 (smallDesc 4 []) ∧ (serveState 4 [] 0).dev.entryOpen (.ring 0 1) ∧ ((serveState 4 [] 0).dev.ring (.ring 0 1)).ctx = some 1 ∧ (serveState 4 [] 0).dev.ctxServing 1 = true ∧ (serveState 4 [] 0).dev.servingBase 1 = some 0x4000000000 ∧ (serveState 4 [] 0).dev.rangeOff 0x4000000000 (0x240 + 32 * (serveState 4 [] 0).dev.ctxSlots 1) = false ∧ (serveState 4 [] 0).dev.portHolds 28 0x4000000000 = false ∧ 0 < (serveState 4 [] 0).dev.ctxSlots 1 ∧ (serveState 4 [] 0).dev.slotState 0x4000000000 0 = 0 ∧ ((serveState 4 [] 0).dev.activeSlots 0x4000000000).length < (serveState 4 [] 0).dev.ctxSlots 1 :=
  ⟨⟨by decide, by decide, by decide⟩, ⟨nofun, rfl, rfl, by decide, fun _ _ h => by cases h; rfl⟩, by decide, by decide, by decide, by decide, by decide, by decide, by decide, by decide⟩

/-- States and operands that meet the hypotheses of ServingSlots. -/
theorem witness_serving_slots_2 :
    (serveState 5 [0] 1).dev.takes (.ring 0 1) 5 (smallDesc 5 [0]) ∧ (serveState 5 [0] 1).dev.slotState 0x4000000000 0 ≠ 0 ∧ ∀ n < (serveState 5 [0] 1).dev.ctxSlots 1, (serveState 5 [0] 1).dev.slotState 0x4000000000 n ≠ 0 :=
  ⟨⟨by decide, by decide, by decide⟩, by decide, by decide⟩

/-- States and operands that meet the hypotheses of ServingSlots. -/
theorem witness_serving_slots_3 :
    (serveState 5 [7] 1).dev.takes (.ring 0 1) 5 (smallDesc 5 [7]) ∧ (serveState 5 [7] 1).dev.ctxSlots 1 ≤ (smallDesc 5 [7]).field 0x20 2 :=
  ⟨⟨by decide, by decide, by decide⟩, by decide⟩

/-- States and operands that meet the hypotheses of ServingSlots. -/
theorem witness_serving_slots_4 :
    (serveState 4 [] 0).dev.takes (.ring 0 1) 4 (smallDesc 4 []) ∧ (descState 4 []).dev.takes (.ring 0 1) 4 (smallDesc 4 []) ∧ (descState 4 []).dev.servingBase 1 = none :=
  ⟨⟨by decide, by decide, by decide⟩, ⟨by decide, by decide, by decide⟩, by decide⟩

/-- States and operands that meet the hypotheses of AdminTenancies. -/
theorem witness_admin_tenancies_1 :
    liveState.dev.live = true ∧ liveState.dev.present (.host 0) = true ∧ liveState.dev.regBit Reg.hifAdminCtrl 0 = false ∧ (0x401 : Half).getLsbD 0 = true ∧ liveState.dev.notices = [] ∧ liveState.dev.adminSettingsOk 0x401 = true ∧ liveState.dev.adminSettingsOk 0x1 = false :=
  by decide

/-- States and operands that meet the hypotheses of AdminTenancies. -/
theorem witness_admin_tenancies_2 :
    (stateOf (liveDevice.setReg Reg.hifAdminCtrl 1)).dev.regBit Reg.hifAdminCtrl 0 = true ∧ (0x400 : Half).getLsbD 0 = false :=
  by decide

/-- States and operands that meet the hypotheses of AdminTenancies. -/
theorem witness_admin_tenancies_3 :
    (adminState [] [] 0x81 [0]).dev.takes .admin 0x81 (adminDesc 0x81 [0]) ∧ (adminState [] [] 0x81 [0]).dev.entryOpen .admin ∧ ((adminState [] [] 0x81 [0]).dev.ten 0).on = false :=
  ⟨⟨by decide, by decide, by decide⟩, adminState_open _ _ _ _, by decide⟩

/-- States and operands that meet the hypotheses of AdminTenancies. -/
theorem witness_admin_tenancies_4 :
    (adminState [(0, onTenancy)] [] 0x82 [0]).dev.takes .admin 0x82 (adminDesc 0x82 [0]) ∧ ((adminState [(0, onTenancy)] [] 0x82 [0]).dev.ten 0).on = true ∧ (adminState [(0, onTenancy)] [] 0x82 [0]).dev.ctxsOf 0 = [] ∧ onTenancy.log = none ∧ onTenancy.queued = false :=
  ⟨⟨by decide, by decide, by decide⟩, by decide, by decide, by decide, by decide⟩

/-- States and operands that meet the hypotheses of AdminTenancies. -/
theorem witness_admin_tenancies_5 :
    (adminState [(0, onTenancy)] [] 0x83 windowBody).dev.takes .admin 0x83 (adminDesc 0x83 windowBody) ∧ onTenancy.admitting = false ∧ (adminState [(0, onTenancy)] [] 0x83 windowBody).dev.windowInUse 0 1 = false ∧ (adminState [(0, onTenancy)] [] 0x83 windowBody).dev.windowAllowed 0 1 (windowOf (adminDesc 0x83 windowBody)) = true ∧ (adminState [(0, onTenancy)] [] 0x83 windowBody).dev.windowInUse 0 0 = true :=
  ⟨⟨by decide, by decide, by decide⟩, by decide, by decide, by decide, by decide⟩

/-- States and operands that meet the hypotheses of AdminTenancies. -/
theorem witness_admin_tenancies_6 :
    (adminState [(0, onTenancy)] [] 0x84 [0, 1]).dev.takes .admin 0x84 (adminDesc 0x84 [0, 1]) ∧ (adminState [(0, onTenancy)] [] 0x84 [0, 1]).dev.windowInUse 0 1 = false :=
  ⟨⟨by decide, by decide, by decide⟩, by decide⟩

/-- States and operands that meet the hypotheses of AdminTenancies. -/
theorem witness_admin_tenancies_7 :
    (adminState [(0, onTenancy)] [] 0x85 ringBody).dev.takes .admin 0x85 (adminDesc 0x85 ringBody) ∧ (adminState [(0, onTenancy)] [] 0x85 ringBody).dev.ringBound (ringRefOf 0 2) = false ∧ ((adminState [(0, onTenancy)] [] 0x85 ringBody).dev.ring (ringRefOf 0 2)).queued = [] ∧ (adminState [(0, onTenancy)] [] 0x85 ringBody).dev.ringPlaced 0 4 0x4000000000 0x4000000400 = true ∧ (adminState [(0, onTenancy)] [] 0x85 ringBody).dev.ringPlaced 0 4 0x1000 0x2000 = false :=
  ⟨⟨by decide, by decide, by decide⟩, by decide, by decide, by decide, by decide⟩

/-- States and operands that meet the hypotheses of AdminTenancies. -/
theorem witness_admin_tenancies_8 :
    (adminState [(0, onTenancy)] [] 0x86 [0, 1]).dev.takes .admin 0x86 (adminDesc 0x86 [0, 1]) ∧ ((adminState [(0, onTenancy)] [] 0x86 [0, 1]).dev.ring (ringRefOf 0 1)).state = .stopped ∧ ((adminState [(0, onTenancy)] [] 0x86 [0, 1]).dev.ring (ringRefOf 0 1)).cause ≠ 0 :=
  ⟨⟨by decide, by decide, by decide⟩, by decide, by decide⟩

/-- States and operands that meet the hypotheses of AdminContexts. -/
theorem witness_admin_contexts_1 :
    (openState [1, 0, 1, 0xFF]).dev.takes .admin 0x87 (adminDesc 0x87 [1, 0, 1, 0xFF]) ∧ (openState [1, 0, 1, 0xFF]).dev.entryOpen .admin ∧ (openState [1, 0, 1, 0xFF]).dev.openOk 1 0 1 0xFF = true ∧ ((openState [1, 0, 1, 0xFF]).dev.ten 0).log = none ∧ (openState [1, 0, 1, 0xFF]).dev.openOk 2 0 1 0xFF = false ∧ (openState [1, 0, 1, 0xFF]).dev.ctxServing 1 = false :=
  ⟨⟨by decide, by decide, by decide⟩, ⟨nofun, rfl, rfl, by decide, nofun⟩, by decide, by decide, by decide, by decide⟩

/-- States and operands that meet the hypotheses of AdminContexts. -/
theorem witness_admin_contexts_2 :
    (openServing false).dev.takes .admin 0x87 (adminDesc 0x87 [1, 0, 1, 0]) ∧ (openServing false).dev.openOk 1 0 1 0 = true ∧ (openServing false).dev.ctxServing 1 = true ∧ (tget ((openServing false).dev.ten 0).windows 0) = some smallWindow ∧ (openServing false).dev.rangeOff smallWindow.base (emptyTable 1).length = false ∧ (openServing false).dev.portHolds 28 smallWindow.base = false ∧ (openServing true).dev.rangeOff smallWindow.base (emptyTable 1).length = true :=
  ⟨⟨by decide, by decide, by decide⟩, by decide, by decide, by decide, by decide +kernel, by decide, by decide +kernel⟩

/-- States and operands that meet the hypotheses of AdminContexts. -/
theorem witness_admin_contexts_3 :
    (adminState [] [(1, runningCtx)] 0x88 [1]).dev.takes .admin 0x88 (adminDesc 0x88 [1]) ∧ ((adminState [] [(1, runningCtx)] 0x88 [1]).dev.ctx 1).st = .opened ∧ ((adminState [] [(1, runningCtx)] 0x88 [1]).dev.ctx 2).st ≠ .opened :=
  ⟨⟨by decide, by decide, by decide⟩, by decide, by decide⟩

/-- States and operands that meet the hypotheses of AdminContexts. -/
theorem witness_admin_contexts_4 :
    (adminState [(0, onTenancy)] [] 0x89 [0]).dev.takes .admin 0x89 (adminDesc 0x89 [0]) ∧ onTenancy.on = true ∧ onTenancy.frozen = false :=
  ⟨⟨by decide, by decide, by decide⟩, by decide, by decide⟩

/-- States and operands that meet the hypotheses of AdminContexts. -/
theorem witness_admin_contexts_5 :
    freezingState.dev.live = true ∧ freezingState.dev.admin.job = .freezing 0 ∧ freezingState.dev.admin.queued = [adminDesc 0x89 [0]] ∧ (freezingState.dev.ten 0).queued = false ∧ (∀ c ∈ freezingState.dev.ctxsOf 0, (freezingState.dev.ctx c).st ≠ .tearing) ∧ freezingState.dev.entryHeld .admin = false ∧ freezingState.dev.entryOpen .admin :=
  ⟨by decide, by decide, by decide, by decide, by decide, by decide, ⟨nofun, rfl, rfl, by decide, nofun⟩⟩

/-- States and operands that meet the hypotheses of AdminContexts. -/
theorem witness_admin_contexts_6 :
    (adminState [(0, frozenTenancy)] [] 0x8A [0]).dev.takes .admin 0x8A (adminDesc 0x8A [0]) ∧ frozenTenancy.on = true ∧ frozenTenancy.frozen = true :=
  ⟨⟨by decide, by decide, by decide⟩, by decide, by decide⟩

/-- States and operands that meet the hypotheses of SaveRestoreAndLog. -/
theorem witness_save_restore_and_log_1 :
    (adminState [(0, frozenTenancy)] [] 0x8B saveBody).dev.takes .admin 0x8B (adminDesc 0x8B saveBody) ∧ (adminState [(0, frozenTenancy)] [] 0x8B saveBody).dev.entryOpen .admin ∧ (adminState [(0, frozenTenancy)] [] 0x8B saveBody).dev.recordVeto 0x4000000000 = none ∧ ∀ o < recordBytes, o % 64 = 0 → (adminState [(0, frozenTenancy)] [] 0x8B saveBody).dev.openLine (0x4000000000 + o) :=
  ⟨⟨by decide, by decide, by decide⟩, adminState_open _ _ _ _, by decide, fun o h h2 => record_open o h h2⟩

/-- States and operands that meet the hypotheses of SaveRestoreAndLog. -/
theorem witness_save_restore_and_log_2 :
    (adminState [(0, frozenTenancy)] [] 0x8C saveBody).dev.takes .admin 0x8C (adminDesc 0x8C saveBody) ∧ (adminState [(0, frozenTenancy)] [] 0x8C saveBody).dev.admissionBusy = false ∧ (adminState [(0, frozenTenancy)] [] 0x8C saveBody).dev.gov.takeUp = none ∧ frozenTenancy.windows = [] ∧ frozenTenancy.rings = [] ∧ (adminState [(0, frozenTenancy)] [] 0x8C saveBody).dev.ctxsOf 0 = [] ∧ recordOk ((adminState [(0, frozenTenancy)] [] 0x8C saveBody).dev.coRead 0x4000000000 recordBytes) = false :=
  ⟨⟨by decide, by decide, by decide⟩, by decide, by decide, by decide, by decide, by decide, by decide +kernel⟩

/-- States and operands that meet the hypotheses of SaveRestoreAndLog. -/
theorem witness_save_restore_and_log_3 :
    (adminState [(0, onTenancy)] [] 0x8D (logBody 1)).dev.takes .admin 0x8D (adminDesc 0x8D (logBody 1)) ∧ (adminDesc 0x8D (logBody 1)).field 0x21 1 = 1 ∧ onTenancy.log = none ∧ (adminState [(0, onTenancy)] [] 0x8D (logBody 1)).dev.bitmapOk 0 0x8000 = true :=
  ⟨⟨by decide, by decide, by decide⟩, by decide, by decide, by decide⟩

/-- States and operands that meet the hypotheses of SaveRestoreAndLog. -/
theorem witness_save_restore_and_log_4 :
    (adminState [(0, loggedTenancy)] [] 0x8D (logBody 2)).dev.takes .admin 0x8D (adminDesc 0x8D (logBody 2)) ∧ (adminDesc 0x8D (logBody 2)).field 0x21 1 = 2 ∧ loggedTenancy.log = some 0x9000 ∧ (adminState [(0, loggedTenancy)] [] 0x8D (logBody 2)).dev.bitmapOk 0 0x8000 = true ∧ (adminState [(0, loggedTenancy)] [] 0x8D (logBody 3)).dev.takes .admin 0x8D (adminDesc 0x8D (logBody 3)) :=
  ⟨⟨by decide, by decide, by decide⟩, by decide, by decide, by decide, by decide, by decide, by decide⟩

/-- States and operands that meet the hypotheses of SaveRestoreAndLog. -/
theorem witness_save_restore_and_log_5 :
    loggingState.dev.live = true ∧ loggingState.dev.admin.job = .logging 0 0x9000 5 ∧ loggingState.dev.admin.queued = [adminDesc 0x8D (logBody 2)] ∧ loggingState.dev.writesBefore 0 5 = false ∧ loggingState.dev.bitmapHeld = [] ∧ loggingState.dev.entryHeld .admin = false ∧ loggingState.dev.entryOpen .admin :=
  ⟨by decide, by decide, by decide, by decide, by decide, by decide, ⟨nofun, rfl, rfl, by decide, nofun⟩⟩

/-- States and operands that meet the hypotheses of SaveRestoreAndLog. -/
theorem witness_save_restore_and_log_6 :
    (restoreState.dev.takes .admin 0x8C (adminDesc 0x8C saveBody) ∧ restoreState.dev.recordVeto 0x4000000000 = none) ∧ recordOk (restoreState.dev.coRead 0x4000000000 recordBytes) = true ∧ restoreState.dev.recordMatches (restoreState.dev.coRead 0x4000000000 recordBytes) = true ∧ restoreState.dev.linkImages (restoreState.dev.coRead 0x4000000000 recordBytes) = [] ∧ ((restoreState.dev.begun.pass 28 0x4000000000 recordBytes false).2.rebuild [] 0 (restoreState.dev.coRead 0x4000000000 recordBytes)).isRight = true :=
  ⟨⟨⟨by decide, by decide, by decide⟩, by decide⟩, by rw [restoreState_record]; exact emptyRecord_ok, by rw [restoreState_record]; exact emptyRecord_read.1, by rw [restoreState_record]; exact emptyRecord_read.2.1, by rw [restoreState_record]; exact emptyRecord_read.2.2⟩

/-- States and operands that meet the hypotheses of RegisterAccesses. -/
theorem witness_register_accesses_1 :
    liveState.dev.live = true ∧ liveState.dev.present (.host 0) = true ∧ liveState.dev.region 0x5F00000000 = .reserved ∧ liveState.dev.region 0x5000000000 = .regs 0 ∧ regSized 2 4 = false ∧ (regRowAt 0).any (fun r => r.bytes ≠ 8) = true :=
  by decide

/-- States and operands that meet the hypotheses of RegisterAccesses. -/
theorem witness_register_accesses_2 :
    ∃ off, liveState.dev.region (0x5000000000 + off) = .regs off ∧ regSized off 4 = true ∧ regRowAt off = none ∧ allUnassigned off 4 = true :=
  ⟨0xFFF0, by decide⟩

/-- States and operands that meet the hypotheses of RegisterAccesses. -/
theorem witness_register_accesses_3 :
    ∃ r, regRowAt 0x38 = some r ∧ regSized 0x38 4 = true ∧ r.bytes = 4 ∧ r.off ≠ 0x310004 ∧ r.off ≠ 0x200000 ∧ targetRow r = false ∧ r.off ∉ specialRows ∧ writeDenied (.host 0) r = false ∧ liveState.dev.recordHeld 0x38 = none :=
  ⟨_, rfl, by decide, by decide, by decide, by decide, by decide, by decide, by decide, by decide⟩

/-- States and operands that meet the hypotheses of RegisterAccesses. -/
theorem witness_register_accesses_4 :
    ∃ r, regRowAt 0xE00000 = some r ∧ slotOf r.off = 0x0E ∧ r.bytes = 4 ∧ regSized 0xE00000 4 = true :=
  ⟨_, rfl, by decide, by decide, by decide⟩

/-- States and operands that meet the hypotheses of RegisterAccesses. -/
theorem witness_register_accesses_5 :
    cachedState.dev.live = true ∧ cachedState.dev.present (.host 2) = true ∧ cachedState.dev.inMemory 0x1008 8 = true ∧ hartSized 0x1008 8 = true ∧ cachedState.dev.addrOff 0x1008 = false ∧ (tget cachedState.dev.hostCache (0x1008 / 64)).isSome = true :=
  by decide

/-- States and operands that meet the hypotheses of PcieEvents. -/
theorem witness_pcie_events_1 :
    (linkState 2).dev.live = true ∧ (linkState 2).dev.role .a = 2 ∧ (linkState 2).dev.linkState .a 0 = true ∧ (linkState 2).dev.linkUp .a = true ∧ ((linkState 2).dev.ten 0).heldMsi = true ∧ ((linkState 2).dev.ten 0).target.toNat = 1 :=
  by decide

/-- States and operands that meet the hypotheses of PcieEvents. -/
theorem witness_pcie_events_2 :
    (linkState 1).dev.role .a = 1 ∧ (linkState 1).dev.linkUp .a = true ∧ (1 : Word) ≠ (linkState 1).dev.msiAddr .a ∧ (linkState 1).dev.outbound.find? (fun o => o.id = 9 && o.got.isNone) = none :=
  by decide

/-- States and operands that meet the hypotheses of PcieEvents. -/
theorem witness_pcie_events_3 :
    ∃ o, (linkState 1).dev.outbound.find? (fun o => o.id = 8 && o.got.isNone) = some o ∧ o.owner = .hart (.host 0) ∧ (linkState 1).dev.present (.host 0) = true ∧ ∀ p ∈ (linkState 1).dev.outbound, p.owner = o.owner → p.id = 8 :=
  ⟨_, rfl, rfl, by decide, by decide⟩

/-- States and operands that meet the hypotheses of PcieEvents. -/
theorem witness_pcie_events_4 :
    ∃ o, (linkState 1).dev.outbound.find? (fun o => o.id = 6 && o.got.isNone) = some o ∧ o.owner = .copy .admin ∧ (linkState 1).dev.admin.job = .copying 0x8000000000 0x1000 64 false 0 [] ∧ ∀ p ∈ (linkState 1).dev.outbound, p.owner = o.owner → p.id = 6 :=
  ⟨_, rfl, rfl, rfl, by decide⟩

/-- States and operands that meet the hypotheses of PcieEvents. -/
theorem witness_pcie_events_5 :
    ∃ o x, (linkState 1).dev.outbound.find? (fun o => o.id = 7 && o.got.isNone) = some o ∧ (∀ p ∈ (linkState 1).dev.outbound, p.owner = o.owner → p.id = 7) ∧ x.data = [] ∧ x.done = 0 ∧ x.sent = 1 ∧ x.cut = false ∧ (∀ e ∈ (linkState 1).dev.banks, ∀ y ∈ e.2.transfers, y.lines.length ≤ y.sent) ∧ o.owner = .transfer 0 1 7 ∧ (linkState 1).dev.ownTransfer 0 1 7 = some x ∧ x.unit = .load ∧ x.kind = .ordered ∧ (linkState 1).dev.outTimeout o.pc ≤ (linkState 1).dev.alm.ticks - o.issued ∧ (linkState 1).dev.alm.ticks - o.issued < ((linkState 1).dev.setReg Reg.hifPcaCtrl 0x50000).outTimeout o.pc ∧ ((linkState 1).dev.ctx 1).run = some freshRun ∧ freshRun.stopped = none :=
  ⟨_, _, rfl, by decide, by decide, by decide, by decide, by decide, by decide, rfl, rfl, rfl, rfl, by decide, by decide, by decide, rfl⟩

/-- States and operands that meet the hypotheses of InboundRequests. -/
theorem witness_inbound_requests_1 :
    (linkState 2).dev.live = true ∧ (linkState 2).dev.role .a ≠ 0 ∧ (linkState 2).dev.linkUpAt .a 0 = true ∧ (linkState 2).dev.unitOff (pcUnit .a) = false ∧ (linkState 2).dev.isMsi .a (smallInbound 0x4000000000) = false ∧ (linkState 2).dev.inboundAddr .a (smallInbound 0x4000000000) = some 0x4000000000 ∧ (linkState 2).dev.inboundVeto .a (smallInbound 0x4000000000) 0x4000000000 = none ∧ (linkState 2).dev.inMemory 0x4000000000 1 = true ∧ (linkState 2).dev.rangeOff 0x4000000000 4 = false ∧ (Instr.inboundRequest .a (smallInbound 0x4000000000)).wellFormed = true ∧ ((linkState 2).dev.ten ((linkState 2).dev.inTenancy .a)).log = none :=
  by decide

/-- States and operands that meet the hypotheses of InboundRequests. -/
theorem witness_inbound_requests_2 :
    ∀ l ∈ lineAddrs 0x4000000000 4, (linkState 2).dev.openLine l :=
  fun l h => by
    have h2 : l = 0x4000000000 := by simpa [lineAddrs] using h
    subst h2; exact ⟨by decide, by decide, by decide⟩

/-- States and operands that meet the hypotheses of InboundRequests. -/
theorem witness_inbound_requests_3 :
    (linkState 2).dev.inboundAddr .a (smallInbound 0x5F00000000) = some 0x5F00000000 ∧ (linkState 2).dev.inboundVeto .a (smallInbound 0x5F00000000) 0x5F00000000 = some 3 ∧ (linkState 2).dev.fld Reg.hifSticky 4 2 = 0 ∧ ((linkState 2).dev.setUnitOff 44 true).unitOff (pcUnit .a) = true ∧ (smallInbound 0).posted = false ∧ (linkState 2).dev.inboundAddr .a { smallInbound 0 with bar := .map } = none :=
  by decide

/-- States and operands that meet the hypotheses of InboundRequests. -/
theorem witness_inbound_requests_4 :
    (linkState 1).dev.role .a = 1 ∧ (linkState 1).dev.linkUpAt .a 0 = true ∧ (linkState 1).dev.isMsi .a { smallInbound ((linkState 1).dev.msiAddr .a).toNat with kind := .write, data := [1, 0, 0, 0], bar := .map } = true :=
  by decide

/-- States and operands that meet the hypotheses of GovernorWindows. -/
theorem witness_governor_windows_1 :
    (pointState 0x11 0).dev.live = true ∧ (List.replicate 96 (0 : BitVec 16)).length = 96 ∧ (pointState 0x11 0).dev.gov.wanted = none ∧ (pointState 0x11 0).dev.windowDue = true ∧ (pointState 0x11 0).dev.point ≠ 0 ∧ liveState.dev.windowDue = false ∧ countOf (List.replicate 96 0) 0 < (pointCounts (pointState 0x11 0).dev.point).1 ∧ (pointState 0 0).dev.point = 0 :=
  by decide

/-- States and operands that meet the hypotheses of GovernorWindows. -/
theorem witness_governor_windows_2 :
    ((pointState 0x11 600).dev.die 0).ramp = some 600 ∧ (pointState 0x11 600).dev.tooSoon (.rail 0) = false ∧ (pointState 0x11 550).dev.tooSoon (.rail 0) = false ∧ (pointState 0x11 600).dev.rail 0 ≠ 600 ∧ (pointState 0x11 600).dev.rail 0 < 2000 ∧ 5 ≤ (pointState 0x11 600).dev.rail 0 ∧ ((pointState 0x11 550).dev.die 0).ramp = some 550 ∧ (pointState 0x11 550).dev.rail 0 = 550 ∧ (pointState 0x11 550).dev.busy ≠ some .stop :=
  by decide

/-- States and operands that meet the hypotheses of GovernorWindows. -/
theorem witness_governor_windows_3 :
    (pointState 0x11 0).dev.present (.host 0) = true ∧ (pointState 0x11 0).dev.oppVeto 0 = some 5 ∧ (pointState 0x11 0).dev.oppVeto 1 = none ∧ (pointState 0x11 0).dev.oppVeto 2 = none ∧ (pointState 0x11 0).dev.point = 1 ∧ (pointState 0x11 0).dev.admissionBusy = false :=
  by decide

/-- States and operands that meet the hypotheses of GovernorWindows. -/
theorem witness_governor_windows_4 :
    takingState.dev.windowDue = true ∧ takingState.dev.gov.takeUp = some 2 ∧ takingState.dev.point ≠ 0 ∧ takingState.dev.busy = none ∧ takingState.dev.railsStand = true ∧ (∀ n < 96, min (pointCounts takingState.dev.point).1 (pointCounts 2).1 ≤ countOf (List.replicate 96 2000) n) :=
  by decide +kernel

/-- States and operands that meet the hypotheses of GovernorWindows. -/
theorem witness_governor_windows_5 :
    ∃ s : State, s.dev.live = true ∧ (s.dev.die 0).ramp = some 600 ∧ s.dev.tooSoon (.rail 0) = true :=
  ⟨let s := pointState 0x11 600; { s with dev := s.dev.noted (.rail 0) }, by decide⟩

/-- States and operands that meet the hypotheses of GovernorWindows. -/
theorem witness_governor_windows_6 :
    ∃ s : State, s.dev.admissionBusy = true ∧ s.dev.oppVeto 2 = none ∧ s.dev.point ≠ 2 ∧ s.dev.live = true :=
  ⟨let s := pointState 0x11 0; { s with dev := { s.dev with admin := { s.dev.admin with job := .reading [] } } }, by decide⟩

/-- States and operands that meet the hypotheses of IslandMismatches. -/
theorem witness_island_mismatches_1 :
    runState.dev.live = true ∧ runState.dev.pairCompared 0 = true ∧ stoppedState.dev.pairCompared 0 = false ∧ runState.dev.safety.islandStopped.getLsbD 0 = false ∧ runState.dev.boot.islandSplit = false ∧ stoppedState.dev.safety.islandStopped ≠ 0 ∧ stoppedState.dev.safety.islandStopped.getLsbD 1 = false ∧ stoppedState.dev.present (.island 2) = true ∧ stoppedState.dev.safety.hostStopped.getLsbD 0 = true ∧ stoppedState.dev.splitCluster 0 = false ∧ stoppedState.dev.live = true :=
  by decide

/-- States and operands that meet the hypotheses of IslandMismatches. -/
theorem witness_island_mismatches_2 :
    ∃ l, tget cachedState.dev.hostCache (0x1008 / 64) = some l ∧ l.heldIn (.l2 2) = true ∧ l.dirty = some (.l2 2) ∧ l.heldIn (.l2 3) = false :=
  ⟨_, rfl, by decide, by decide, by decide⟩

/-- States and operands that meet the hypotheses of IslandMismatches. -/
theorem witness_island_mismatches_3 :
    ∃ l, tget cachedState.dev.hostCache (0x1048 / 64) = some l ∧ l.heldIn (.l2 2) = true ∧ l.dirty ≠ some (.l2 2) ∧ cachedState.dev.addrOff (lineOf 0x1048) = false :=
  ⟨_, rfl, by decide, by decide, by decide⟩

/-- States and operands that meet the hypotheses of IslandMismatches. -/
theorem witness_island_mismatches_4 :
    (vigilState 1).dev.live = true ∧ (vigilState 1).dev.cfg = .running ∧ (vigilState 1).dev.regBit (Reg.vglCfg 0) 63 = true ∧ 0 ∈ (vigilState 1).dev.safety.vigilArmed ∧ 0 ∉ (vigilState 1).dev.safety.vigilMissed ∧ (vigilState 1).dev.fld (Reg.vglPeriod 0) 0 32 ≠ 0 ∧ (vigilState 1).dev.reg (Reg.vglDue 0) < (vigilState 1).dev.ns ∧ (vigilState 0).dev.ns ≤ (vigilState 0).dev.reg (Reg.vglDue 0) :=
  by decide

/-- States and operands that meet the hypotheses of ManagementAndVigil. -/
theorem witness_management_and_vigil_1 :
    stoppedState.dev.live = true ∧ stoppedState.dev.tooSoon .managementPoll = false ∧ ({ stoppedState with dev := stoppedState.dev.noted .managementPoll } : State).dev.tooSoon .managementPoll = true ∧ managedUnit 44 = true ∧ stoppedState.dev.unitOff 44 = true ∧ 44 ∈ stoppedState.dev.safety.offAtPoll ∧ stoppedState.dev.present (.island 2) = true ∧ stoppedState.dev.present (.host 2) = true ∧ whoIsIsland (.island 2) = true ∧ whoIsIsland (.host 2) = false :=
  by decide

/-- States and operands that meet the hypotheses of ManagementAndVigil. -/
theorem witness_management_and_vigil_2 :
    (vigilState 0x20000000).dev.present (.host 0) = true ∧ (vigilState 1).dev.regBit (Reg.vglCfg 0) 61 = true ∧ (vigilState 1).dev.fld (Reg.vglAge 0) 0 32 ≠ 0 ∧ (vigilState 1).dev.ns.toNat < (5 : Word).toNat ∧ ¬ ((vigilState 1).dev.ns.toNat < (1 : Word).toNat) :=
  by decide

/-- States and operands that meet the hypotheses of Watchdog. -/
theorem witness_watchdog_1 :
    liveState.dev.live = true ∧ liveState.dev.present (.island 0) = true ∧ whoIsIsland (.island 0) = true ∧ liveState.dev.wdogOn = false ∧ (0x80000001 : Half).getLsbD 31 = true ∧ (0x80000001 : Half).toNat % 2 ^ 16 ≠ 0 :=
  by decide

/-- States and operands that meet the hypotheses of Watchdog. -/
theorem witness_watchdog_2 :
    dogState.dev.live = true ∧ dogState.dev.present (.island 0) = true ∧ dogState.dev.wdogOn = true ∧ dogState.dev.safety.wdogExpired = false ∧ dogState.dev.wdogCount = 0 ∧ dogState.dev.wdogWhole = 1000 ∧ dogLateState.dev.wdogOn = true ∧ dogLateState.dev.wdogCount = dogLateState.dev.wdogWhole ∧ dogLateState.dev.safety.wdogExpired = false :=
  by decide

/-- States and operands that meet the hypotheses of FrameQueues. -/
theorem witness_frame_queues_1 :
    (queueState 0 60 []).dev.live = true ∧ (queueState 0 60 []).dev.present (.host 0) = true ∧ ((queueState 0 60 []).dev.queue 0).state = .running ∧ 2 ^ (queueState 0 60 []).dev.qLog 0 < countDiff 9 ((queueState 0 60 []).dev.queue 0).head ∧ 2 ^ (queueState 0 60 []).dev.qLog 0 < countDiff ((queueState 0 60 []).dev.queue 0).head 1 ∧ countDiff 4 ((queueState 0 60 []).dev.queue 0).head ≤ 2 ^ (queueState 0 60 []).dev.qLog 0 ∧ ((queueState 0 60 []).dev.queue 1).state = .unset ∧ (queueState 0 60 []).dev.qReady 1 = false :=
  by decide +kernel

/-- States and operands that meet the hypotheses of FrameQueues. -/
theorem witness_frame_queues_2 :
    (queueState 0 60 [smallFrame]).dev.qReady 0 = true ∧ (queueState 0 60 [smallFrame]).dev.qVeto 0 = none ∧ (queueState 0 60 [smallFrame]).dev.inMemory ((queueState 0 60 [smallFrame]).dev.qAddr 0 0) 32 = true ∧ (queueState 0 60 [smallFrame]).dev.vetoRole 0 0x4000002000 64 true false = none ∧ qReceives 0 = true ∧ (queueState 0 60 [smallFrame]).dev.inMemory 0x4000002000 1 = true ∧ ((queueState 0 60 [smallFrame]).dev.ten 0).log = none ∧ fieldAt ((queueState 0 60 [smallFrame]).dev.rd 0x4000000000 32) 0 8 = 0x4000002000 ∧ lineAddrs 0x4000000000 32 = [0x4000000000] ∧ (queueState 0 60 [smallFrame]).dev.portDone 30 0x4000000000 32 = 0 ∧ (stateOf ((queueState 0 60 [smallFrame]).dev.setReg (Reg.mrgClass 0) 2)).dev.qReady 0 = true ∧ (stateOf { (queueState 0 60 [smallFrame]).dev.setReg (Reg.mrgClass 0) 2 with buckets := [(bucketKey 30 256 0, creditCap)] }).dev.portHolds 30 0x4000000000 = true :=
  by decide +kernel

/-- States and operands that meet the hypotheses of FrameQueues. -/
theorem witness_frame_queues_3 :
    (queueState 0 60 [smallFrame]).dev.openLine 0x4000000000 ∧ (∀ l ∈ lineAddrs 0x4000000000 32, (queueState 0 60 [smallFrame]).dev.openLine l) ∧ ∀ l ∈ lineAddrs 0x4000002000 64, (queueState 0 60 [smallFrame]).dev.openLine l :=
  ⟨by unfold Device.openLine; decide +kernel, by unfold Device.openLine; decide +kernel, by unfold Device.openLine; decide +kernel⟩

/-- States and operands that meet the hypotheses of FrameQueues. -/
theorem witness_frame_queues_4 :
    (queueState 16 59 []).dev.qReady 16 = true ∧ (queueState 16 59 []).dev.qVeto 16 = none ∧ fieldAt ((queueState 16 59 []).dev.rd 0x4000000000 32) 8 2 = 59 ∧ (queueState 16 60 []).dev.vetoRole 0 0x4000002000 60 false false = none ∧ fieldAt ((queueState 16 60 []).dev.rd 0x4000000000 32) 8 2 = 60 ∧ fieldAt ((queueState 16 60 []).dev.rd 0x4000000000 32) 12 1 < 10 ∧ (queueState 16 60 []).dev.unitOff 80 = false ∧ (queueState 16 60 []).dev.frameBytes + 64 ≤ frameMemory :=
  by decide +kernel

/-- States and operands that meet the hypotheses of FrameQueues. -/
theorem witness_frame_queues_5 :
    (queueState 40 9 []).dev.qReady 40 = true ∧ (queueState 40 9 []).dev.qVeto 40 = none ∧ lengthOk 9 = false ∧ fieldAt ((queueState 40 9 []).dev.rd 0x4000000000 32) 8 2 = 9 ∧ (queueState 40 8 []).dev.routeFor 56 (hostFrame ((queueState 40 8 []).dev.rd 0x4000000000 32) ((queueState 40 8 []).dev.rd 0x4000002000 8)) = some 0xB10000 ∧ (((List.range 4).map fun j => (queueState 40 8 []).dev.reg (0xB10000 + 16 + 8 * j)).filter fun w => bitOf w 63) = [0xD000000000000000] ∧ (queueState 40 8 []).dev.qVeto 40 = none ∧ (queueState 40 8 []).dev.vetoRole 0 0x4000002000 8 false false = none :=
  by decide +kernel

/-- States and operands that meet the hypotheses of FrameQueues. -/
theorem witness_frame_queues_6 :
    (unreadyQueue).dev.live = true ∧ (unreadyQueue).dev.qReady 16 = true ∧ ((unreadyQueue).dev.qVeto 16).isSome = true :=
  by decide +kernel

/-- States and operands that meet the hypotheses of SwitchFrames. -/
theorem witness_switch_frames_1 :
    (portState [smallEgress none]).dev.live = true ∧ (portState []).dev.portLink 0 = true ∧ (portState []).dev.portOn 0 = true ∧ (portState []).dev.portOn 1 = false ∧ (portState []).dev.portLink 2 = false ∧ (portState []).dev.fdbMatch (List.replicate 60 0) = some 2 ∧ (portState []).dev.streamFor 2 = none ∧ portsOf 2 0 = [1] ∧ (portState []).dev.unitOff 81 = false ∧ (portState []).dev.frameBytes + 64 ≤ frameMemory ∧ (portState []).dev.fdbMatch (List.replicate 60 1) = none ∧ (portState []).dev.gclLength 0 = 2 ∧ (portState []).dev.gclLength 1 = 0 ∧ (portState []).dev.reg (Reg.tsnGclBase 0) ≤ (portState []).dev.ns ∧ (portState []).dev.gclPhase 0 < (portState []).dev.entryEnd 0 0 ∧ (stateOf ((portState []).dev.setReg (Reg.tsnGclBase 0) (2 ^ 60))).dev.ns < (stateOf ((portState []).dev.setReg (Reg.tsnGclBase 0) (2 ^ 60))).dev.reg (Reg.tsnGclBase 0) ∧ (portState []).dev.regBit Reg.tsnStatus 0 = true ∧ (portState []).dev.cfg = .running ∧ (portState []).dev.busy = none :=
  by decide +kernel

/-- States and operands that meet the hypotheses of SwitchFrames. -/
theorem witness_switch_frames_2 :
    tgetD (portState [smallEgress none]).dev.sw.egress 3 [] = [smallEgress none] ∧ (portState [smallEgress none]).dev.mayStart 0 3 = true ∧ (∀ h : Fin 8, 3 < h → (portState [smallEgress none]).dev.mayStart 0 h = false) ∧ (portState []).dev.mayStart 0 3 = false :=
  by decide +kernel

/-- States and operands that meet the hypotheses of SwitchFrames. -/
theorem witness_switch_frames_3 :
    (portState [smallEgress (some (16, 0, List.replicate 32 0))]).dev.mayStart 0 3 = true ∧ (portState []).dev.qRuns 16 = true ∧ ((portState []).dev.queue 16).departing = true ∧ ((portState []).dev.queue 16).head = 0 ∧ (portState []).dev.qVeto 16 = none ∧ ((portState []).dev.queue 16).back = none ∧ (portState []).dev.portHolds 30 ((portState []).dev.qAddr 16 0) = false ∧ (portState []).dev.inMemory ((portState []).dev.qAddr 16 0) 32 = true ∧ ((portState []).dev.ten ((portState []).dev.qTenancy 16)).log = none :=
  by decide +kernel

/-- States and operands that meet the hypotheses of CameraFrames. -/
theorem witness_camera_frames_1 :
    (cameraState none).dev.live = true ∧ (cameraState none).dev.csiOn 0 = true ∧ (cameraState none).dev.csiOn 1 = false ∧ (cameraState none).dev.csiLead 0 = true ∧ (cameraState none).dev.unitOff 48 = false ∧ ((cameraState none).dev.stream 0).frame = none ∧ countDiff ((cameraState none).dev.stream 0).fill ((cameraState none).dev.stream 0).rel ≠ (cameraState none).dev.csiBuffers 0 ∧ (cameraState none).dev.csiChecked 0 = false ∧ (cameraState none).dev.present (.host 0) = true :=
  by decide +kernel

/-- States and operands that meet the hypotheses of CameraFrames. -/
theorem witness_camera_frames_2 :
    ((cameraState (some 0)).dev.stream 0).frame = some { stamp := 0, bytes := [] } ∧ (cameraState (some 0)).dev.regBit (Reg.csiSdt 0) 42 = true ∧ (cameraState (some 0)).dev.regBit (Reg.csiSdt 0) 43 = false ∧ (cameraState (some 0)).dev.csiLength 0 = 16 ∧ (cameraState (some 0)).dev.vetoRole 0 ((cameraState (some 0)).dev.csiBuffer 0 + 64) 16 true false = none ∧ (cameraState (some 0)).dev.inMemory ((cameraState (some 0)).dev.csiBuffer 0 + 64) 1 = true ∧ ((cameraState (some 0)).dev.ten 0).log = none :=
  by decide +kernel

/-- States and operands that meet the hypotheses of CameraFrames. -/
theorem witness_camera_frames_3 :
    (∀ l ∈ lineAddrs ((cameraState (some 0)).dev.csiBuffer 0 + 64) 16, (cameraState (some 0)).dev.openLine l) ∧ ∀ l ∈ lineAddrs ((cameraState (some 16)).dev.csiBuffer 0) 64, (cameraState (some 16)).dev.openLine l :=
  ⟨by unfold Device.openLine; decide +kernel, by unfold Device.openLine; decide +kernel⟩

/-- States and operands that meet the hypotheses of CameraFrames. -/
theorem witness_camera_frames_4 :
    ((cameraState (some 16)).dev.stream 0).frame = some { stamp := 0, bytes := List.replicate 16 0 } ∧ (cameraState (some 16)).dev.csiLength 0 ≤ 16 ∧ (cameraState (some 16)).dev.csiLength 0 < 16 + 1 ∧ (cameraState (some 16)).dev.vetoRole 0 ((cameraState (some 16)).dev.csiBuffer 0) 64 true false = none ∧ (cameraState (some 16)).dev.inMemory ((cameraState (some 16)).dev.csiBuffer 0) 1 = true :=
  by decide +kernel

/-- States and operands that meet the hypotheses of CameraFrames. -/
theorem witness_camera_frames_5 :
    fullCamera.dev.live = true ∧ fullCamera.dev.csiOn 0 = true ∧ fullCamera.dev.unitOff 48 = false ∧ (fullCamera.dev.stream 0).frame = none ∧ countDiff (fullCamera.dev.stream 0).fill (fullCamera.dev.stream 0).rel = fullCamera.dev.csiBuffers 0 ∧ countDiff (fullCamera.dev.stream 0).fill 1 ≤ countDiff (fullCamera.dev.stream 0).fill (fullCamera.dev.stream 0).rel ∧ countDiff (fullCamera.dev.stream 0).fill (fullCamera.dev.stream 0).rel < countDiff (fullCamera.dev.stream 0).fill 3 :=
  by decide +kernel

/-- States and operands that meet the hypotheses of CanAndAcf. -/
theorem witness_can_and_acf_1 :
    (gatewayState 2 []).dev.live = true ∧ (gatewayState 2 []).dev.canUp 0 = true ∧ (gatewayState 2 []).dev.canUp 1 = false ∧ Instr.wellFormed (.canFrameReceived 0 smallCan) = true ∧ (gatewayState 2 []).dev.routeFor 0 smallCan = some 0xB10000 ∧ (((List.range 4).map fun j => (gatewayState 2 []).dev.reg (0xB10000 + 16 + 8 * j)).filter fun w => bitOf w 63) = [0xC000000000000000] ∧ ((gatewayState 2 []).dev.canCtl 0).txq.length < txQueueSize ∧ (gatewayState 2 []).dev.routeFor 0 { smallCan with id := 5 } = none ∧ (gatewayState 2 []).dev.regBit Reg.gwyCtrl 0 = false ∧ smallCan.data.length ≤ 8 :=
  by decide +kernel

/-- States and operands that meet the hypotheses of CanAndAcf. -/
theorem witness_can_and_acf_2 :
    (gatewayState 2 [smallCan]).dev.canUp 0 = true ∧ (gatewayState 2 [smallCan]).dev.canMode 0 ≠ 3 ∧ ((gatewayState 2 [smallCan]).dev.canCtl 0).txq ≠ [] ∧ (gatewayState 3 [smallCan]).dev.canMode 0 = 3 ∧ (gatewayState 1 []).dev.canMode 0 = 1 :=
  by decide +kernel

/-- States and operands that meet the hypotheses of CanAndAcf. -/
theorem witness_can_and_acf_3 :
    ∃ s : State, s.dev.live = true ∧ s.dev.gatewayOn = true ∧ s.dev.canMode 0 ≠ 0 ∧ s.dev.unitOff 64 = false ∧ (s.dev.canCtl 0).conf ≠ .busOff ∧ 255 < (s.dev.canCtl 0).txErr :=
  ⟨stateOf { (gatewayState 2 []).dev with can := [(0, { CanCtl.idle with txErr := 256 })] }, by decide +kernel⟩

/-- States and operands that meet the hypotheses of CanAndAcf. -/
theorem witness_can_and_acf_4 :
    (busOffState.dev.canCtl 0).conf = .busOff ∧ busOffState.dev.canOn 0 = true ∧ busOffState.dev.unitOff 64 = false ∧ busOffState.dev.regBit (Reg.gwyCanCtrl 0) 2 = true ∧ (busOffState.dev.canCtl 1).conf ≠ .busOff ∧ busOffState.dev.live = true :=
  by decide +kernel

/-- States and operands that meet the hypotheses of CanAndAcf. -/
theorem witness_can_and_acf_5 :
    (gatewayState 2 []).dev.gatewayOn = true ∧ (gatewayState 2 []).dev.acfStreamOf (acfBytes 0x82 []) = some 0 ∧ (gatewayState 2 []).dev.acfData 0 (acfBytes 0x03 []) = none ∧ (gatewayState 2 []).dev.acfData 0 (acfBytes 0x82 acfSmall) = some acfSmall ∧ acfParse acfSmall = some (smallCan, 3, []) ∧ (gatewayState 2 []).dev.routeFor 16 smallCan = some 0xB10040 ∧ (((List.range 4).map fun j => (gatewayState 2 []).dev.reg (0xB10040 + 16 + 8 * j)).filter fun w => bitOf w 63) = [0xC000000000000000] ∧ (gatewayState 2 []).dev.acfStreamOf (List.replicate 60 0) = none ∧ (gatewayState 2 []).dev.acfStreamOf (acfBytes 0x03 []) = some 0 :=
  by decide +kernel

/-- States and operands that meet the hypotheses of CanAndAcf. -/
theorem witness_can_and_acf_6 :
    (gatewayState 2 []).dev.acfDir 1 true = true ∧ (tgetD (gatewayState 2 []).dev.acf 1 AcfTx.empty).messages ≠ [] ∧ (gatewayState 2 []).dev.acfDir 0 true = false :=
  by decide +kernel

/-- States and operands that meet the hypotheses of TwinPolls. -/
theorem witness_twin_polls_1 :
    (twinState false).dev.live = true ∧ (twinState false).dev.tooSoon .twinRefresh = false ∧ (twinState false).dev.tooSoon .twinPoll = false ∧ ((twinState false).dev.noted .twinPoll).tooSoon .twinPoll = true ∧ ((twinState false).dev.noted .twinRefresh).tooSoon .twinRefresh = true ∧ liveState.dev.live = true ∧ liveState.dev.isTwin = false ∧ (twinState false).dev.isTwin = true ∧ (twinState false).dev.twinUp 0 = true ∧ (twinState false).dev.twinUp 1 = false ∧ ((twinState false).dev.twin 0).polling = true ∧ ((twinState false).dev.twin 0).missed = 0 ∧ ((twinState false).dev.twin 1).polling = false ∧ (twinState true).dev.live = true ∧ ((twinState true).dev.twin 0).polling = true ∧ ((twinState true).dev.twin 0).missed ≠ 0 ∧ (List.replicate 16 (0 : Half)).length = 16 :=
  by decide +kernel

/-- States and operands that meet the hypotheses of TwinPolls. -/
theorem witness_twin_polls_2 :
    (twinState true).dev.isTwin = true ∧ (twinState true).dev.rank = false ∧ ((twinState true).dev.twin 0).peerChunk = true ∧ ((twinState true).dev.twin 0).backedOff = false ∧ (twinState true).dev.ownChunk 0 = true ∧ ((twinState false).dev.twin 0).peerChunk = false :=
  by decide +kernel

/-- States and operands that meet the hypotheses of ConfigurationCommands. -/
theorem witness_configuration_commands_1 :
    ∀ c ∈ [CfgState.empty, .refused, .loading, .sealed, .running], (cfgState c none).dev.live = true ∧ (cfgState c none).dev.present (.island 0) = true ∧ (cfgState c none).dev.cfg = c ∧ (cfgState c none).dev.busy = none :=
  by decide +kernel

/-- States and operands that meet the hypotheses of ConfigurationCommands. -/
theorem witness_configuration_commands_2 :
    (cfgState .loading (some .seal)).dev.busy ≠ none ∧ (cfgState .loading (some .seal)).dev.live = true ∧ (cfgState .loading (some .seal)).dev.present (.host 0) = true ∧ whoIsIsland (.island 0) = true ∧ whoIsIsland (.host 0) = false ∧ (cfgState .empty none).dev.present (.host 0) = true ∧ ((cfgState .running none).dev.ctx 1).st = .opened ∧ ((cfgState .running none).dev.ctx 2).st ≠ .opened ∧ (∀ e ∈ (cfgState .running none).dev.ctxs, e.1 = 2 → e.2.st ≠ .opened) ∧ (cfgState .empty none).dev.fld Reg.cfgWake 0 12 ≠ 0 ∧ liveState.dev.fld Reg.cfgWake 0 12 = 0 ∧ liveState.dev.present (.island 0) = true ∧ liveState.dev.cfg = .empty :=
  by decide +kernel

/-- States and operands that meet the hypotheses of AttestationAndFloor. -/
theorem witness_attestation_and_floor_1 :
    (securityState 5).dev.live = true ∧ (securityState 5).dev.present (.island 0) = true ∧ (securityState 5).dev.sec.identity = true ∧ (securityState 5).dev.sec.attest = none ∧ ((securityState 5).dev.reg Reg.secAttAddr).toNat % 64 = 0 ∧ (securityState 5).dev.inMemory ((securityState 5).dev.reg Reg.secAttAddr).toNat 512 = true ∧ liveState.dev.sec.identity = false ∧ liveState.dev.live = true ∧ liveState.dev.present (.host 0) = true ∧ liveState.dev.sec.record = none ∧ whoIsBridge (.bridge .a) = true ∧ (linkState 1).dev.present (.bridge .a) = true ∧ (linkState 1).dev.live = true :=
  by decide +kernel

/-- States and operands that meet the hypotheses of AttestationAndFloor. -/
theorem witness_attestation_and_floor_2 :
    (securityState 5).dev.sec.record = some (RpRecord.mk 3 0 7) ∧ (securityState 5).dev.sec.writing = none ∧ ¬ ((securityState 5).dev.boot.version < (5 : Half) ∨ (5 : Half) < (3 : Half) ∨ ((0 : BitVec 4) ||| BitVec.ofNat 4 ((securityState 5).dev.fld Reg.secFloorReq 32 4)).getLsbD (securityState 5).dev.boot.rootIndex.toNat = true) ∧ (securityState 5).dev.fld Reg.secFloorReq 0 32 = 5 ∧ (securityState 2).dev.fld Reg.secFloorReq 0 32 = 2 ∧ (2 : Half) < (3 : Half) :=
  by decide +kernel

/-- States and operands that meet the hypotheses of AttestationAndFloor. -/
theorem witness_attestation_and_floor_3 :
    attestingState.dev.live = true ∧ attestingState.dev.sec.attest = some 0x4000000000 ∧ attestingState.dev.sec.writing = some (RpRecord.mk 5 0 8) :=
  by decide +kernel

/-- States and operands that meet the hypotheses of AttestationAndFloor. -/
theorem witness_attestation_and_floor_4 :
    let k := recordKey attestingState.dev.helperData; let n := Config.nonce attestingState.dev.freeIndex; recordAuthentic k n ((RpRecord.mk 5 0 8).bytes k n) = true ∧ recordOf ((RpRecord.mk 5 0 8).bytes k n) = RpRecord.mk 5 0 8 :=
  ⟨record_authentic _ _ _, rfl⟩

/-- States and operands that meet the hypotheses of MemoryUnitsAndForeman. -/
theorem witness_memory_units_and_foreman_1 :
    liveState.dev.live = true ∧ liveState.dev.tooSoon (.temperature 0) = false ∧ liveState.dev.tooSoon (.patrol 0) = false ∧ liveState.dev.tooSoon .countWindow = false ∧ shortState.dev.tooSoon .countWindow = false ∧ (liveState.dev.noted (.temperature 0)).tooSoon (.temperature 0) = true ∧ (liveState.dev.noted (.patrol 0)).tooSoon (.patrol 0) = true ∧ (liveState.dev.noted .countWindow).tooSoon .countWindow = true ∧ (64 : Nat) < 2 * liveState.dev.ddrHalf ∧ liveState.dev.channelOf 64 = 0 ∧ liveState.dev.shortClasses { waiting := [] } 0 = [] ∧ shortState.dev.live = true ∧ 0 ∈ shortState.dev.shortClasses { waiting := [(0, 0)] } 0 ∧ 8 ∉ shortState.dev.half0.steps ∧ 63 ≤ shortState.dev.half1.clean ∧ shortState.dev.half1.steps ≠ [] :=
  by decide +kernel

/-- States and operands that meet the hypotheses of MemoryUnitsAndForeman. -/
theorem witness_memory_units_and_foreman_2 :
    (foremanState (some 0)).dev.live = true ∧ (foremanState (some 0)).dev.foremanOn 0 = true ∧ ((foremanState (some 0)).dev.readyJobs 0).find? (fun j => j.ctx = 1 && j.cluster.isSome) = some (smallJob (some 0)) ∧ (foremanState (some 0)).dev.backing 1 0 = some 0x100000 ∧ (foremanState (some 0)).dev.freePlace 0 = some 0 ∧ inMask ((foremanState (some 0)).dev.partMask 0) 0 = true ∧ (foremanState (some 0)).dev.unitOff 0 = false ∧ ((foremanState (some 0)).dev.readyJobs 0).find? (fun j => j.cluster = some 0) = some (smallJob (some 0)) ∧ ((foremanState (some 0)).dev.jobsFor 0 0).filter (fun j => j.cluster.isNone) = [] ∧ (foremanState (some 0)).dev.pool 0 = [] ∧ (foremanState (some 0)).dev.rangeOff 0x100000 pageBytes = false ∧ (foremanState (some 0)).dev.rangeOff ((foremanState (some 0)).dev.slotAddr 0 0) pageBytes = false ∧ (smallJob (some 0)).inputs = none ∧ ((foremanState (some 0)).dev.jobPackage (smallJob (some 0))).any (fun q => decide ((smallJob (some 0)).done + 1 < q.steps)) = true :=
  by decide +kernel

/-- States and operands that meet the hypotheses of MemoryUnitsAndForeman. -/
theorem witness_memory_units_and_foreman_3 :
    (foremanState none).dev.foremanOn 0 = true ∧ ((foremanState none).dev.readyJobs 0).find? (fun j => j.cluster = some 0) = none ∧ bestJob (((foremanState none).dev.jobsFor 0 0).filter fun j => j.cluster.isNone) = some (smallJob none) ∧ ((foremanState none).dev.freePlace 0).isSome = true ∧ (foremanState none).dev.live = true :=
  by decide +kernel

/-- States and operands that meet the hypotheses of MemoryUnitsAndForeman. -/
theorem witness_memory_units_and_foreman_4 :
    ∀ o < pageBytes, o % 64 = 0 → (foremanState (some 0)).dev.openLine (0x100000 + o) ∧ (foremanState (some 0)).dev.openLine ((foremanState (some 0)).dev.slotAddr 0 0 + o) :=
  fun o h h2 => page_open o h h2

/-- States and operands that meet the hypotheses of MemoryUnitsAndForeman. -/
theorem witness_memory_units_and_foreman_5 :
    ∃ s j, State.dev s = { (foremanState (some 0)).dev with jobs := [j] } ∧ j.inputs.isSome = true ∧ ((s.dev.readyJobs 0).find? fun j => j.cluster = some 0) = some j ∧ ((s.dev.jobsFor 0 0).filter fun j => j.cluster.isNone) = [] ∧ (s.dev.jobPackage j).any (fun q => decide (j.done + 1 < q.steps)) = true :=
  ⟨stateOf { (foremanState (some 0)).dev with jobs := [{ smallJob (some 0) with inputs := some [] }] }, { smallJob (some 0) with inputs := some [] }, by decide +kernel⟩

/-! ### Ill-formed commands are refused -/

/-- A governor window that names 95 clusters' counts. -/
theorem test_governor_window_short : exec (.governorWindowEnd (List.replicate 95 0)) liveState = .fault .illFormed := rfl

/-- An inbound write whose data does not have its length. -/
theorem test_inbound_write_length :
    exec (.inboundRequest .a { smallInbound 0 with kind := .write, data := [1] }) liveState = .fault .illFormed := rfl

/-- A status block of 15 words. -/
theorem test_poll_answer_short : exec (.twinPollAnswer 0 (List.replicate 15 0)) liveState = .fault .illFormed := rfl

/-- A CAN frame of 65 bytes. -/
theorem test_can_frame_long :
    exec (.canFrameReceived 0 { smallCan with fdf := true, data := List.replicate 65 0 }) liveState = .fault .illFormed := rfl

/-- A classic CAN frame of 9 bytes. -/
theorem test_can_classic_long :
    exec (.canFrameReceived 0 { smallCan with data := List.replicate 9 0 }) liveState = .fault .illFormed := rfl

/-- A base frame with an identifier of 12 bits. -/
theorem test_can_base_identifier : exec (.canFrameReceived 0 { smallCan with id := 0x800 }) liveState = .fault .illFormed := rfl

/-! ### Numbers that the spec, or a standard it names, works out -/

/-- The check value of CRC-32C: that of the digits 1 to 9. -/
theorem test_crc32c : crc32c [0x31, 0x32, 0x33, 0x34, 0x35, 0x36, 0x37, 0x38, 0x39] = 0xE3069283 := by decide +kernel

/-- SHA-512 of no bytes begins as FIPS 180-4's vectors say. -/
theorem test_sha512 : (sha512 []).take 4 = [0xCF, 0x83, 0xE1, 0x35] := by decide +kernel

/-- SHA-256 of no bytes begins as FIPS 180-4's vectors say. -/
theorem test_sha256 : (sha256 []).take 4 = [0xE3, 0xB0, 0xC4, 0x42] := by decide +kernel

/-- Entry 0 of the example of chapter 7: context 5 from 2,000 to 10,000 µs, in ticks of 10 ns. -/
theorem test_calendar_slice : (liveDevice.setReg (Reg.calEntry 0) 0x8000000500C80320).entry 0 =
    some { kind := .slice 5, start := 200000, stop := 1000000 } := by decide +kernel

/-- Entry 2 of that example: a holiday slot of cluster 14 from 19,000 to 20,000 µs. -/
theorem test_calendar_holiday : (liveDevice.setReg (Reg.calEntry 2) 0xC000000E076C0064).entry 2 =
    some { kind := .holiday 14, start := 1900000, stop := 2000000 } := by decide +kernel

/-- The hot half of chapter 6: class 2, TARGET, reserves 80,000 MB/s on half 1. -/
def hotDevice : Device :=
  ((liveDevice.setReg (Reg.mrgClass 2) 1).setReg (Reg.mrgClassResDdr1 2) 80000).setReg Reg.ddrCntWindow 10000

/-- Channel 5 served 1,968,000 B of class 2 with it waiting throughout: short. -/
theorem test_short_window :
    { hotDevice with served := [(8 * 5 + 2, 1968000)] }.shortClasses { waiting := [(5, 2)] } 1 = [2] := by decide +kernel

/-- It owes 2,000,000 B: with these served it is not short. -/
theorem test_full_window :
    { hotDevice with served := [(8 * 5 + 2, 2000000)] }.shortClasses { waiting := [(5, 2)] } 1 = [] := by decide +kernel

/-- The frame of chapter 11's example: extended, FD, 20 bytes. -/
def exampleFrame : CanFrame :=
  { id := 0x18F00A21, ide := true, fdf := true, brs := false, rtr := false, data := List.replicate 20 0 }

/-- Its copy for host queue 2 has can_id 0x78F0_0A21. -/
theorem test_copy_host : canIdOf (copyFor exampleFrame 0xD032000000000000) = 0x78F00A21 := by decide +kernel

/-- Its ACF_CAN message has length 9, no padding and bus_id 3. -/
theorem test_copy_acf : ((acfMessage (copyFor exampleFrame 0xD014000000000000) 0 3).take 4, (acfMessage exampleFrame 0 3).length) =
    (([0x02, 0x09, 0x2A, 0x03] : List Byte), 36) := by decide +kernel

/-- Its copy for a classic bus is dropped, and GWY_SIZE_RECORD names source 3, destination 9, length 20 and the identifier. -/
theorem test_copy_dropped :
    (liveDevice.sendCopy 3 exampleFrame (0, 0) 3 0x8009000000000321).reg Reg.gwySizeRecord = 0x0309140038F00A21 := by
  decide +kernel

/-- The scale byte of the signed Q8B block with A = 0.3. -/
theorem test_q8b_scale : q8bScale 127 (3 / 10) = 0x77 := by decide +kernel

/-- The filter of chapter 5's first example: 5 × 5 over 3 × 3, with a padding on every side. -/
def filterPlan (pad : Nat) : WalkPlan :=
  { tinyPlan with fh := 5, fw := 5, height := 3, width := 3, pt := pad, pb := pad, pl := pad, pr := pad }

/-- No output without padding, 3 rows with a padding of 2, 7 with one of 4. -/
theorem test_filter_height : [0, 2, 4].map (fun n => planH (filterPlan n)) = [0, 3, 7] := by decide

/-- A 2 × 2 filter of stride 3 on an 8 × 8 map: rows 2 and 5 are never fetched. -/
theorem test_stride_rows :
    planRows { tinyPlan with fh := 2, fw := 2, sh := 3, sw := 3, height := 8, width := 8 } = [0, 1, 3, 4, 6, 7] := by decide

end Sys2Proof.Machine
end

/-!
PROOF. Accesses to the register blocks and to cached memory (O46): what each function on the way of an access answers, stated
once, and the statement put together from these.
-/

namespace Sys2Proof.Machine

/-! ### Registers and records -/

/-- A filter that keeps every entry of a key leaves the value at that key. -/
theorem tget_filter_of_keeps {α : Type} (m : Table α) {p : Nat × α → Bool} {k : Nat} (h : ∀ v, p (k, v) = true) :
    tget (m.filter p) k = tget m k := by
  induction m with
  | nil => rfl
  | cons e m ih =>
    obtain ⟨j, w⟩ := e
    by_cases hj : j = k
    · subst hj
      simp [h, tget]
    · by_cases hp : p (j, w) = true <;> simp [hp, tget, hj, ih]

/-- Whether a register is a record depends on its offset alone. -/
theorem Device.recordHeld_eq_none_congr {d : Device} (e : Device) {a : Nat} (h : d.recordHeld a = none) :
    e.recordHeld a = none := by
  revert h
  unfold Device.recordHeld
  repeat' split
  all_goals simp

/-- Dropping records leaves every register that is no record. -/
theorem Device.reg_dropRecords {d : Device} {a : Nat} (h : d.recordHeld a = none) : d.dropRecords.reg a = d.reg a := by
  unfold Device.reg Device.dropRecords
  rw [tget_filter_of_keeps d.regs fun v => by simp [h]]

/-! ### Corrected words of a hart (R287, R308) -/

section
variable (d : Device) (who : Who) (h : HartUse)

@[simp] theorem Device.hartCe_mem : (d.hartCe who h).mem = d.mem := by cases who <;> rfl
@[simp] theorem Device.hartCe_herald : (d.hartCe who h).herald = d.herald := by cases who <;> rfl
@[simp] theorem Device.hartCe_cfg : (d.hartCe who h).cfg = d.cfg := by cases who <;> rfl
@[simp] theorem Device.hartCe_safety : (d.hartCe who h).safety = d.safety := by cases who <;> rfl
@[simp] theorem Device.hartCe_hostCache : (d.hartCe who h).hostCache = d.hostCache := by cases who <;> rfl
@[simp] theorem Device.hartCe_region (a : Nat) : (d.hartCe who h).region a = d.region a := by cases who <;> rfl
@[simp] theorem Device.hartCe_inMemory (a n : Nat) : (d.hartCe who h).inMemory a n = d.inMemory a n := by
  simp [Device.inMemory]
@[simp] theorem Device.hartCe_unitOfAddr (a : Nat) : (d.hartCe who h).unitOfAddr a = d.unitOfAddr a := by cases who <;> rfl

/-- Counting corrected words changes no register outside the counters of the host caches and the island's SRAM. -/
theorem Device.hartCe_reg {b : Nat} (hb : b < 0xe00580 ∨ 0xe005e4 < b) : (d.hartCe who h).reg b = d.reg b := by
  cases who with
  | host n =>
    unfold Device.hartCe Device.addCount Device.setFld
    rw [Device.reg_setReg_ne _ _ (by unfold Reg.safCeL3; omega),
      Device.reg_setReg_ne _ _ (by unfold Reg.safCeHost; omega)]
  | island i => exact Device.reg_setReg_ne _ _ (by unfold Reg.safCeIsland; omega)
  | bridge c => rfl

/-- The Quarries are two. -/
theorem Device.quarry_lt_of_region {a q : Nat} (hr : d.region a = .quarry q) : q < 2 := by
  unfold Device.region at hr
  repeat' split at hr
  all_goals simp only [Region.quarry.injEq, reduceCtorEq] at hr
  all_goals omega

/-- The Benches are 96. -/
theorem Device.bench_lt_of_region {a core : Nat} (hr : d.region a = .bench core) : core < 96 := by
  unfold Device.region at hr
  repeat' split at hr
  all_goals simp only [Region.bench.injEq, reduceCtorEq] at hr
  simp only [Bool.and_eq_true, decide_eq_true_eq] at *
  omega

/-- A DDR address lies in one of the eight channels. -/
theorem Device.channelOf_lt (a : Nat) : d.channelOf a < 8 := by
  unfold Device.channelOf
  dsimp only
  split <;> omega

/-- The managed unit of an address is one of the first 46. -/
theorem Device.unitOfAddr_lt {a u : Nat} (hu : d.unitOfAddr a = some u) : u < 46 := by
  unfold Device.unitOfAddr at hu
  split at hu <;> simp only [Option.some.injEq, reduceCtorEq] at hu
  case h_1 =>
    have := d.channelOf_lt a
    omega
  case h_2 hr =>
    have := d.quarry_lt_of_region hr
    omega
  case h_3 hr =>
    have := d.bench_lt_of_region hr
    omega
  all_goals omega

/-- Counting corrected words takes no unit offline. -/
@[simp] theorem Device.hartCe_addrOff (a : Nat) : (d.hartCe who h).addrOff a = d.addrOff a := by
  unfold Device.addrOff
  rw [Device.hartCe_unitOfAddr]
  split
  · next u hu =>
    have hlt := d.unitOfAddr_lt hu
    simp only [Device.unitOff, Device.regBit, Device.hartCe_safety]
    rw [Device.hartCe_reg d who h (by unfold Reg.safUnitOff; omega)]
  · rfl

/-- Counting corrected words changes no register's write rule. -/
@[simp] theorem Device.hartCe_mayWrite (w : Who) (rule : WriteRule) :
    (d.hartCe who h).mayWrite w rule = d.mayWrite w rule := by
  have hreg := d.hartCe_reg who h (b := Reg.hifAdminCtrl) (by unfold Reg.hifAdminCtrl; omega)
  cases rule <;> simp [Device.mayWrite, Device.regBit, hreg]

end

/-! ### Regions of an access (R14, R420) -/

/-- A reserved address answers a write with an error. -/
theorem busWrite_reserved {d : Device} {a : Nat} (hr : d.region a = .reserved) (who : Who) (n : Nat) (v : Word) (op : StoreOp)
    (attr : PageAttr) : busWrite d who a n v op attr = d.reply .error := by
  simp [busWrite, hr, Device.deny]

/-- A reserved address answers a read with an error. -/
theorem busRead_reserved {d : Device} {a : Nat} (hr : d.region a = .reserved) (who : Who) (n : Nat) (e : Ecc) (reserve : Bool)
    (attr : PageAttr) : busRead d who a n e reserve attr = d.reply .error := by
  simp [busRead, hr, Device.deny]

/-- A plain store in the register blocks is a register write. -/
theorem busWrite_regs_store {d : Device} {a off : Nat} (hr : d.region a = .regs off) (who : Who) (n : Nat) (v : Word)
    (attr : PageAttr) : busWrite d who a n v .store attr = regWrite d who off n v := by
  simp [busWrite, hr, plainOp]

/-- Every other operation in the register blocks has no effect on a cache block and answers an error to an atomic one. -/
theorem busWrite_regs_op {d : Device} {a off : Nat} (hr : d.region a = .regs off) (who : Who) (n : Nat) (v : Word) {op : StoreOp}
    (hop : op ≠ .store) (attr : PageAttr) :
    busWrite d who a n v op attr = d.reply (if blockOp op then .written else .error) := by
  have hplain : plainOp op = false := by
    cases op
    case store => exact absurd rfl hop
    all_goals rfl
  cases hb : blockOp op <;> simp [busWrite, hr, hplain, Device.ioBlock, hb, Device.deny]

/-- A read in the register blocks is a register read. -/
theorem busRead_regs {d : Device} {a off : Nat} (hr : d.region a = .regs off) (who : Who) (n : Nat) (e : Ecc) (attr : PageAttr) :
    busRead d who a n e false attr = regRead d who off n := by
  simp [busRead, hr]

/-- A load-reserve in the register blocks answers an error. -/
theorem busRead_regs_reserve {d : Device} {a off : Nat} (hr : d.region a = .regs off) (who : Who) (n : Nat) (e : Ecc)
    (attr : PageAttr) : busRead d who a n e true attr = d.reply .error := by
  simp [busRead, hr, Device.deny]

/-! ### What a register access meets (R9 to R11, R303, R353) -/

/-- A write that is not one of its register's width, naturally aligned, answers an error. -/
theorem regWrite_misfit {off n : Nat} (hm : regSized off n = false ∨ (regRowAt off).any (fun r => r.bytes ≠ n) = true)
    (d : Device) (who : Who) (v : Word) : regWrite d who off n v = d.reply .error := by
  obtain hs | hany := hm
  · simp [regWrite, hs, Device.deny]
  · obtain ⟨r, hrow, hw⟩ := (Option.any_eq_true _ _).1 hany
    simp [regWrite, hrow, of_decide_eq_true hw, Device.deny]

/-- A read that is not one of its register's width, naturally aligned, answers an error. -/
theorem regRead_misfit {off n : Nat} (hm : regSized off n = false ∨ (regRowAt off).any (fun r => r.bytes ≠ n) = true)
    (d : Device) (who : Who) : regRead d who off n = d.reply .error := by
  obtain hs | hany := hm
  · simp [regRead, hs, Device.deny]
  · obtain ⟨r, hrow, hw⟩ := (Option.any_eq_true _ _).1 hany
    simp [regRead, hrow, of_decide_eq_true hw, Device.deny]

/-- A write that covers only unassigned bytes is ignored, but for one to SAF by any other than an island hart. -/
theorem regWrite_unassigned {off n : Nat} (hs : regSized off n = true) (hrow : regRowAt off = none)
    (hu : allUnassigned off n = true) (d : Device) (who : Who) (v : Word) :
    regWrite d who off n v = d.reply (if slotOf off ≠ 0x0E ∨ whoIsIsland who = true then .written else .error) := by
  by_cases hsaf : slotOf off ≠ 0x0E ∨ whoIsIsland who = true <;> simp [regWrite, hs, hrow, hu, hsaf, Device.deny]

/-- A read that covers only unassigned bytes answers 0. -/
theorem regRead_unassigned {who : Who} (hb : whoIsBridge who = false) {off n : Nat} (hs : regSized off n = true)
    (hrow : regRowAt off = none) (hu : allUnassigned off n = true) (d : Device) :
    regRead d who off n = d.reply (.value 0) := by
  simp [regRead, hs, hb, hrow, hu]

/-- A write to a register that its requester may not write answers an error. -/
theorem regWrite_denied {who : Who} {r : RegRow} {off n : Nat} (hs : regSized off n = true) (hrow : regRowAt off = some r)
    (hd : writeDenied who r = true) (d : Device) (v : Word) : regWrite d who off n v = d.reply .error := by
  simp [regWrite, hs, hrow, hd, Device.deny]

section
variable {r : RegRow} {off n : Nat} (hs : regSized off n = true) (hrow : regRowAt off = some r) (hw : r.bytes = n)
include hs hrow hw

/-- Any other write of a register's width goes to its row. -/
theorem regWrite_row {who : Who} (hd : writeDenied who r = false) (d : Device) (v : Word) :
    regWrite d who off n v = d.writeRow who r off (if n = 4 then wordOf (halfOf v) else v) := by
  simp [regWrite, hs, hrow, hw, hd]

/-- A hart's read of a register's width goes to its row. -/
theorem regRead_row {who : Who} (hb : whoIsBridge who = false) (d : Device) : regRead d who off n = d.readRow who r off := by
  simp [regRead, hs, hb, hrow, hw]

end

/-- A register of SAF yields to island harts alone. -/
theorem writeDenied_saf {who : Who} {r : RegRow} (hsaf : slotOf r.off = 0x0E) (hi : whoIsIsland who = false) :
    writeDenied who r = true := by
  simp [writeDenied, hsaf, hi]

/-! ### Field types (R11, R13) -/

/-- A bit of a mask. -/
theorem getLsbD_mask (m : Nat) {i : Nat} (hi : i < 64) : (BitVec.ofNat 64 m).getLsbD i = m.testBit i := by
  rw [BitVec.getLsbD_ofNat, decide_eq_true hi, Bool.true_and]

/-- A bit of a mask that is in force only under a condition. -/
theorem getLsbD_mask_if (c : Bool) (m : Nat) {i : Nat} (hi : i < 64) :
    (BitVec.ofNat 64 (if c then m else 0)).getLsbD i = (m.testBit i && c) := by
  rw [getLsbD_mask _ hi]
  cases c <;> simp

/-- A register without an operation of its own takes a write by its field types. -/
theorem Device.writeRow_plain {r : RegRow} (hr : r.off ∉ specialRows) (d : Device) (who : Who) (a : Nat) (v : Word) :
    d.writeRow who r a v = d.plainWrite who r a v := by
  unfold Device.writeRow
  dsimp only
  split
  case h_38 => rfl
  all_goals next hoff => exact absurd (hoff ▸ by decide : r.off ∈ specialRows) hr

/-- A register without an operation of its own, and of no Herald target, answers a read with what it shows. -/
theorem Device.readRow_plain {r : RegRow} (hclaim : r.off ≠ 0x310004) (hnow : r.off ≠ 0x200000) (ht : targetRow r = false)
    (d : Device) (who : Who) (a : Nat) : d.readRow who r a = (d.readClears r a).reply (.value (d.view r a)) := by
  simp [Device.readRow, hclaim, hnow, ht]

section
variable (d : Device) (who : Who) (r : RegRow) (a : Nat)

@[simp] theorem Device.readClears_mem : (d.readClears r a).mem = d.mem := by unfold Device.readClears; split <;> rfl
@[simp] theorem Device.readClears_herald : (d.readClears r a).herald = d.herald := by unfold Device.readClears; split <;> rfl
@[simp] theorem Device.reply_reg (x : Answer) (b : Nat) : (d.reply x).reg b = d.reg b := rfl

/-- A read changes no other register. -/
theorem Device.readClears_reg_ne {b : Nat} (hb : b ≠ a) : (d.readClears r a).reg b = d.reg b := by
  unfold Device.readClears
  split
  · rfl
  · exact Device.reg_setReg_ne _ _ hb

/-- A read returns the RC bits of a register to their reset value and leaves the others. -/
theorem Device.readClears_getLsbD {i : Nat} (hi : i < 64) :
    ((d.readClears r a).reg a).getLsbD i = if r.rc.testBit i then (regReset a).getLsbD i else (d.reg a).getLsbD i := by
  unfold Device.readClears
  split
  · simp [*]
  · simp only [Device.reg_setReg, BitVec.getLsbD_or, BitVec.getLsbD_and, BitVec.getLsbD_not, getLsbD_mask r.rc hi, hi]
    cases r.rc.testBit i <;> simp

@[simp] theorem Device.plainWrite_mem (v : Word) : (d.plainWrite who r a v).mem = d.mem := rfl
@[simp] theorem Device.plainWrite_herald (v : Word) : (d.plainWrite who r a v).herald = d.herald := rfl
@[simp] theorem Device.plainWrite_answer (v : Word) : (d.plainWrite who r a v).answer = .written := rfl

/-- A write by field types changes no other register that is no record. -/
theorem Device.plainWrite_reg_ne {b : Nat} (hb : b ≠ a) (hrec : d.recordHeld b = none) (v : Word) :
    (d.plainWrite who r a v).reg b = d.reg b := by
  unfold Device.plainWrite
  rw [Device.reg_dropRecords (Device.recordHeld_eq_none_congr _ hrec), Device.reg_setReg_ne _ _ hb, Device.reply_reg]

/-- A write by field types clears the W1C bits it has a 1 for, where its requester can, and gives the RW bits its value, where
the state lets it; every other bit stays. -/
theorem Device.plainWrite_getLsbD (hrec : d.recordHeld a = none) (v : Word) {i : Nat} (hi : i < 64) :
    ((d.plainWrite who r a v).reg a).getLsbD i =
      if r.w1c.testBit i && mayClear who a && v.getLsbD i then false
      else if r.rw.testBit i && d.mayWrite who r.rule then v.getLsbD i else (d.reg a).getLsbD i := by
  have hrule : (d.reply .written).mayWrite who r.rule = d.mayWrite who r.rule := by cases r.rule <;> rfl
  unfold Device.plainWrite
  rw [Device.reg_dropRecords (Device.recordHeld_eq_none_congr _ hrec), Device.reg_setReg, Device.reply_reg, hrule]
  simp only [BitVec.getLsbD_or, BitVec.getLsbD_and, BitVec.getLsbD_not, getLsbD_mask_if _ _ hi, hi]
  cases r.w1c.testBit i && mayClear who a <;> cases r.rw.testBit i && d.mayWrite who r.rule <;> cases v.getLsbD i <;> simp

end

/-! ### Cached memory (R285, R286) -/

/-- A range in memory begins in the DDR or in a Quarry. -/
theorem Device.region_of_inMemory {d : Device} {a n : Nat} (hm : d.inMemory a n = true) :
    (∃ half, d.region a = .ddr half) ∨ ∃ q, d.region a = .quarry q := by
  unfold Device.inMemory at hm
  split at hm
  · exact .inl ⟨_, by assumption⟩
  · exact .inr ⟨_, by assumption⟩
  · cases hm

section
variable {d : Device} {a n : Nat} (hm : d.inMemory a n = true) (hs : hartSized a n = true) (ho : d.addrOff a = false)
include hm hs ho

/-- A host core's store to memory by a page that leaves it cacheable goes to its caches. -/
theorem busWrite_cached (c : Fin 24) (v : Word) :
    busWrite d (.host c) a n v .store .pma = d.cachedStore c a (bytesOfNat n v.toNat) .store := by
  obtain ⟨half, hr⟩ | ⟨q, hr⟩ := Device.region_of_inMemory hm <;>
    simp [busWrite, hr, hartWrite, blockOp, whoIsBridge, hs, Device.hartOff, ho, plainOp, Device.memoryStore]

/-- A host core's load from memory by a page that leaves it cacheable goes to its caches. -/
theorem busRead_cached (c : Fin 24) (e : Ecc) : busRead d (.host c) a n e false .pma = d.cachedRead c a n e false := by
  obtain ⟨half, hr⟩ | ⟨q, hr⟩ := Device.region_of_inMemory hm <;>
    simp [busRead, hr, hartRead, whoIsBridge, hs, Device.hartOff, ho, Device.memoryRead]

end

/-- The line of an address has the address's line number. -/
@[simp] theorem lineOf_div (a : Nat) : lineOf a / 64 = a / 64 := by unfold lineOf; omega

section
variable {d : Device} {a : Nat} {l : HostLine} (hl : tget d.hostCache (a / 64) = some l) (c : Fin 24)
include hl

/-- A store to a held line changes the line in the caches alone. -/
theorem Device.cachedStore_held (bs : List Byte) : d.cachedStore c a bs .store = (d.cachedWrite c a l bs).reply .written := by
  simp [Device.cachedStore, Device.withLine, hl]

/-- A load of a held line answers its bytes and shares the line. -/
theorem Device.cachedRead_held (k : Nat) (e : Ecc) :
    d.cachedRead c a k e false =
      (d.putLine (lineOf a) (l.sharedBy c)).reply (.value (BitVec.ofNat 64 (fieldAt l.data (a % 64) k))) := by
  simp [Device.cachedRead, Device.withLine, hl]

end

section
variable (d : Device) (c : Fin 24) (a : Nat) (l : HostLine) (bs : List Byte)

@[simp] theorem Device.putLine_mem (line : Nat) : (d.putLine line l).mem = d.mem := rfl

/-- A line put in place is the one held. -/
@[simp] theorem Device.tget_putLine : tget (d.putLine (lineOf a) l).hostCache (a / 64) = some l := by
  simp [Device.putLine, tget_tput_self]

/-- A line put in place leaves every other line. -/
theorem Device.tget_putLine_ne {b : Nat} (hb : b ≠ a / 64) :
    tget (d.putLine (lineOf a) l).hostCache b = tget d.hostCache b := by
  simp [Device.putLine, tget_tput_ne _ _ hb]

@[simp] theorem Device.cachedWrite_mem : (d.cachedWrite c a l bs).mem = d.mem := rfl

/-- A line written by a core is that core's alone, changed. -/
theorem Device.tget_cachedWrite :
    tget (d.cachedWrite c a l bs).hostCache (a / 64) = some (ownedBy c (splice l.data (a % 64) bs)) := d.tget_putLine a _

/-- A core's write leaves every other line. -/
theorem Device.tget_cachedWrite_ne {b : Nat} (hb : b ≠ a / 64) :
    tget (d.cachedWrite c a l bs).hostCache b = tget d.hostCache b := d.tget_putLine_ne a _ hb

/-- No other core's reservation of a line outlives a core's write to it. -/
theorem Device.reservation_cachedWrite {w : Nat × Nat} (hw : w ∈ (d.cachedWrite c a l bs).reservations) (hline : w.2 = a / 64) :
    w.1 = c.val := by
  simpa [Device.cachedWrite, Device.breakReservations, hline] using (List.mem_filter.1 hw).2

end

/-- Sharing a line keeps its bytes. -/
@[simp] theorem HostLine.sharedBy_data (l : HostLine) (c : Fin 24) : (l.sharedBy c).data = l.data := rfl

/-- A line shared by a core lies in its L2. -/
theorem HostLine.mem_l2_sharedBy (l : HostLine) (c : Fin 24) : c.val ∈ (l.sharedBy c).l2 := (mem_addMember _ _ _).2 (.inl rfl)

/-! ### The two commands -/

section
variable (d : Device)

@[simp] theorem Device.begun_region (a : Nat) : d.begun.region a = d.region a := rfl
@[simp] theorem Device.begun_inMemory (a n : Nat) : d.begun.inMemory a n = d.inMemory a n := rfl
@[simp] theorem Device.begun_addrOff (a : Nat) : d.begun.addrOff a = d.addrOff a := rfl
@[simp] theorem Device.begun_mayWrite (who : Who) (rule : WriteRule) : d.begun.mayWrite who rule = d.mayWrite who rule := by
  cases rule <;> rfl

end

/-- The device as an access of a requester finds it: begun, with the corrected words that its hart met counted. -/
def Device.found (d : Device) (who : Who) (h : HartUse) : Device := d.begun.hartCe who h

section
variable (d : Device) (who : Who) (h : HartUse)

@[simp] theorem Device.found_mem : (d.found who h).mem = d.mem := by simp [Device.found]
@[simp] theorem Device.found_herald : (d.found who h).herald = d.herald := by simp [Device.found]
@[simp] theorem Device.found_hostCache : (d.found who h).hostCache = d.hostCache := by simp [Device.found]
@[simp] theorem Device.found_region (a : Nat) : (d.found who h).region a = d.region a := by simp [Device.found]
@[simp] theorem Device.found_inMemory (a n : Nat) : (d.found who h).inMemory a n = d.inMemory a n := by simp [Device.found]
@[simp] theorem Device.found_addrOff (a : Nat) : (d.found who h).addrOff a = d.addrOff a := by simp [Device.found]
@[simp] theorem Device.found_mayWrite (w : Who) (rule : WriteRule) :
    (d.found who h).mayWrite w rule = d.mayWrite w rule := by simp [Device.found]

end

section
variable {who : Who} {s : State} (hlive : s.dev.live = true) (hp : s.dev.present who = true)
include hlive hp

/-- REGISTER_WRITE by a requester that is present, on a live device. -/
theorem exec_registerWrite_live (a n : Nat) (v : Word) (op : StoreOp) (h : HartUse) :
    exec (.registerWrite who a n v op h) s = .next { s with dev := busWrite (s.dev.found who h) who a n v op h.attr } :=
  actBy_eq (fun d => busWrite (d.hartCe who h) who a n v op h.attr) hlive hp

/-- READ_CLEAR by a requester that is present, on a live device. -/
theorem exec_readClear_live (a n : Nat) (e : Ecc) (reserve : Bool) (h : HartUse) :
    exec (.readClear who a n e reserve h) s =
      .next { s with dev := busRead (s.dev.found who h) who a n e reserve h.attr } := by
  change act s _ = _
  simp [act_eq, hlive, hp, Device.found]

section
variable {a off n : Nat} {r : RegRow} (hregs : s.dev.region a = .regs off) (hs : regSized off n = true)
  (hrow : regRowAt off = some r) (hw : r.bytes = n)
include hregs hs hrow hw

/-- A read of a register without an operation of its own answers what it shows and returns its RC bits to their reset value. -/
theorem exec_readClear_row (hclaim : r.off ≠ 0x310004) (hnow : r.off ≠ 0x200000) (ht : targetRow r = false)
    (hb : whoIsBridge who = false) (e : Ecc) (h : HartUse) :
    ∃ t, exec (.readClear who a n e false h) s = .next t ∧ t.dev.answer = .value ((s.dev.found who h).view r off) ∧
      t.dev.mem = s.dev.mem ∧ t.dev.herald = s.dev.herald ∧ (∀ b ≠ off, t.dev.reg b = (s.dev.found who h).reg b) ∧
      ∀ i < 64, (t.dev.reg off).getLsbD i =
        if r.rc.testBit i then (regReset off).getLsbD i else ((s.dev.found who h).reg off).getLsbD i := by
  rw [exec_readClear_live hlive hp, busRead_regs ((s.dev.found_region who h a).trans hregs), regRead_row hs hrow hw hb,
    Device.readRow_plain hclaim hnow ht]
  exact ⟨_, rfl, rfl, by simp, by simp, fun b hne => by simp [Device.readClears_reg_ne _ _ _ hne],
    fun i hi => Device.readClears_getLsbD _ _ _ hi⟩

/-- A write to a register without an operation of its own goes by its field types. -/
theorem exec_registerWrite_row (hr : r.off ∉ specialRows) (hd : writeDenied who r = false) (hrec : s.dev.recordHeld off = none)
    (v : Word) (h : HartUse) :
    ∃ t, exec (.registerWrite who a n v .store h) s = .next t ∧ t.dev.answer = .written ∧ t.dev.mem = s.dev.mem ∧
      t.dev.herald = s.dev.herald ∧
      (∀ b ≠ off, s.dev.recordHeld b = none → t.dev.reg b = (s.dev.found who h).reg b) ∧
      ∀ i < 64, (t.dev.reg off).getLsbD i =
        if r.w1c.testBit i && mayClear who off && (if n = 4 then wordOf (halfOf v) else v).getLsbD i then false
        else if r.rw.testBit i && s.dev.mayWrite who r.rule then (if n = 4 then wordOf (halfOf v) else v).getLsbD i
        else ((s.dev.found who h).reg off).getLsbD i := by
  rw [exec_registerWrite_live hlive hp, busWrite_regs_store ((s.dev.found_region who h a).trans hregs),
    regWrite_row hs hrow hw hd, Device.writeRow_plain hr]
  refine ⟨_, rfl, rfl, by simp, by simp,
    fun b hne hb => Device.plainWrite_reg_ne _ _ _ _ hne (Device.recordHeld_eq_none_congr _ hb) _, fun i hi => ?_⟩
  have hbit := (s.dev.found who h).plainWrite_getLsbD who r off (Device.recordHeld_eq_none_congr _ hrec)
    (if n = 4 then wordOf (halfOf v) else v) hi
  rwa [Device.found_mayWrite] at hbit

end

end

section
variable {s : State} {c : Fin 24} {a n : Nat} {l : HostLine} {h : HartUse} (hlive : s.dev.live = true)
  (hp : s.dev.present (.host c) = true) (hattr : h.attr = .pma) (hm : s.dev.inMemory a n = true)
  (hs : hartSized a n = true) (ho : s.dev.addrOff a = false) (hl : tget s.dev.hostCache (a / 64) = some l)
include hlive hp hattr hm hs ho hl

/-- A host core's store to a held line: the bytes go to that core's L2 alone, and no other core's reservation of the line stands. -/
theorem exec_registerWrite_held (v : Word) :
    ∃ t, exec (.registerWrite (.host c) a n v .store h) s = .next t ∧ t.dev.answer = .written ∧ t.dev.mem = s.dev.mem ∧
      tget t.dev.hostCache (a / 64) = some (ownedBy c (splice l.data (a % 64) (bytesOfNat n v.toNat))) ∧
      (∀ b ≠ a / 64, tget t.dev.hostCache b = tget s.dev.hostCache b) ∧
      ∀ w ∈ t.dev.reservations, w.2 = a / 64 → w.1 = c.val := by
  rw [exec_registerWrite_live hlive hp, hattr, busWrite_cached (by simpa using hm) hs (by simpa using ho),
    Device.cachedStore_held (l := l) (by simpa using hl)]
  exact ⟨_, rfl, rfl, by simp, Device.tget_cachedWrite _ _ _ _ _,
    fun b hb => by simp [Device.tget_cachedWrite_ne _ _ _ _ _ hb],
    fun w hw => Device.reservation_cachedWrite _ _ _ _ _ hw⟩

/-- A host core's load of a held line answers its bytes; that core's L2 then holds the line too. -/
theorem exec_readClear_held (e : Ecc) :
    ∃ t, exec (.readClear (.host c) a n e false h) s = .next t ∧
      t.dev.answer = .value (BitVec.ofNat 64 (fieldAt l.data (a % 64) n)) ∧ t.dev.mem = s.dev.mem ∧
      (∃ m, tget t.dev.hostCache (a / 64) = some m ∧ m.data = l.data ∧ c.val ∈ m.l2) ∧
      ∀ b ≠ a / 64, tget t.dev.hostCache b = tget s.dev.hostCache b := by
  rw [exec_readClear_live hlive hp, hattr, busRead_cached (by simpa using hm) hs (by simpa using ho),
    Device.cachedRead_held (l := l) (by simpa using hl)]
  exact ⟨_, rfl, rfl, by simp, ⟨_, Device.tget_putLine _ _ _, by simp, l.mem_l2_sharedBy c⟩,
    fun b hb => by simp [Device.tget_putLine_ne _ _ _ hb]⟩

end

/-- Settles O46: an access goes by what its address names, and each kind of access by the lemma about it. -/
theorem registerAccesses : Obligations.RegisterAccesses := by
  intro who n v e h s hlive hp
  have hwrite := fun a op => exec_registerWrite_live hlive hp a n v op h
  have hread := fun a reserve => exec_readClear_live hlive hp a n e reserve h
  refine ⟨fun a hres => ?reserved, fun a off hregs => ?regs, ?cached⟩
  case reserved =>
    have hres' := (s.dev.found_region who h a).trans hres
    exact List.forall_mem_cons.2 ⟨(hwrite a .store).trans (by rw [busWrite_reserved hres']; rfl),
      List.forall_mem_singleton.2 ((hread a false).trans (by rw [busRead_reserved hres']; rfl))⟩
  case regs =>
    have hregs' := (s.dev.found_region who h a).trans hregs
    refine ⟨fun hm => ?misfit, fun op hop => ?otherOp, ?loadReserve, fun hs hrow hu hb => ⟨?ignored, ?zero⟩,
      fun r hs hrow hw => ?row⟩
    case misfit =>
      exact List.forall_mem_cons.2
        ⟨(hwrite a .store).trans (by rw [busWrite_regs_store hregs', regWrite_misfit hm]; rfl),
          List.forall_mem_singleton.2 ((hread a false).trans (by rw [busRead_regs hregs', regRead_misfit hm]; rfl))⟩
    case otherOp => exact (hwrite a op).trans (by rw [busWrite_regs_op hregs' who n v hop]; rfl)
    case loadReserve => exact (hread a true).trans (by rw [busRead_regs_reserve hregs']; rfl)
    case ignored =>
      exact (hwrite a .store).trans (by rw [busWrite_regs_store hregs', regWrite_unassigned hs hrow hu]; rfl)
    case zero => exact (hread a false).trans (by rw [busRead_regs hregs', regRead_unassigned hb hs hrow hu]; rfl)
    case row =>
      refine ⟨fun hsaf hi => ?_,
        fun hclaim hnow ht hb => exec_readClear_row hlive hp hregs hs hrow hw hclaim hnow ht hb e h,
        fun hr hd hrec => exec_registerWrite_row hlive hp hregs hs hrow hw hr hd hrec v h⟩
      have hd := writeDenied_saf hsaf hi
      exact (hwrite a .store).trans (by rw [busWrite_regs_store hregs', regWrite_denied hs hrow hd]; rfl)
  case cached =>
    rintro c a l rfl hattr hm hs ho hl
    exact ⟨exec_registerWrite_held hlive hp hattr hm hs ho hl v, exec_readClear_held hlive hp hattr hm hs ho hl e⟩

end Sys2Proof.Machine

/-!
PROOF. The instructions of a core's units in their turn (O21 to O24, O28, O29): what an instruction comes to on a live device,
stated once for an instruction with a beat of its own and once for a MATMUL, which may share one.
-/

namespace Sys2Proof.Machine

/-! ### The turn of a unit -/

section
variable {s : State} {u : CoreUse} {k : UnitKind} {q : Seat} {f : Device → Seat → Bank → Did}
  (hi : s.dev.mayIssue u.core k q) (hu : cleanUse u)
include hi hu

/-- In its unit's turn, with clean codes, an instruction with a beat of its own is issued. -/
theorem actLive_issueEcc :
    actLive s (fun d => d.issueEcc u k f) = .next { s with dev := s.dev.begun.issue u.core k f } := by
  rw [actLive_eq _ hi.1, Device.issueEcc_clean (Device.mayIssue_begun hi).2.1 hu]

/-- One that takes effect leaves its device, with its bank one instruction further on. -/
theorem actLive_issueEcc_done {d : Device} {b : Bank}
    (hf : f (s.dev.begun.countBeat q k) q ((s.dev.bank u.core q.ctx).newBeat k) = .done d b) :
    actLive s (fun d => d.issueEcc u k f) =
      .next { s with dev := d.setBank u.core q.ctx (b.setUnit k (b.unit k).advance) } := by
  rw [actLive_issueEcc hi hu, Device.issue_done (Device.mayIssue_begun hi) hf]

/-- One that ends the run leaves its device with the run stopped. -/
theorem actLive_issueEcc_ends {d : Device} {x y : Byte}
    (hf : f (s.dev.begun.countBeat q k) q ((s.dev.bank u.core q.ctx).newBeat k) = .ends d x y) :
    actLive s (fun d => d.issueEcc u k f) = .next { s with dev := d.stopRun q.ctx x y } := by
  rw [actLive_issueEcc hi hu, Device.issue_eq (Device.mayIssue_begun hi), Device.begun_bank, hf]
  rfl

/-- One that holds changes nothing. -/
theorem actLive_issueEcc_hold
    (hf : f (s.dev.begun.countBeat q k) q ((s.dev.bank u.core q.ctx).newBeat k) = .hold) :
    actLive s (fun d => d.issueEcc u k f) = .next { s with dev := s.dev.begun } := by
  rw [actLive_issueEcc hi hu, Device.issue_eq (Device.mayIssue_begun hi), Device.begun_bank, hf]

end

/-- The device with its contexts replaced: what an instruction of the execute unit finds, whose run has counted a beat. -/
def Device.withCtxs (d : Device) (cs : Table Ctx) : Device := { d with ctxs := cs }

/-- Counting a beat changes the contexts at most. -/
theorem Device.countBeat_eq_withCtxs (d : Device) (q : Seat) (k : UnitKind) :
    d.countBeat q k = d.withCtxs (d.countBeat q k).ctxs := by
  unfold Device.countBeat
  split <;> rfl

/-- An instruction in its unit's turn, whether its beat is its own or not: the device it finds has other contexts at most; one that
takes effect leaves its device, with its bank one instruction further on, and one that holds changes nothing. -/
theorem Device.issueIn_outcome {d : Device} {core : Nat} {k : UnitKind} {q : Seat} (hi : d.mayIssue core k q)
    (shared : Bank → Bool) : ∃ cs, ∀ f : Device → Seat → Bank → Did,
      (∀ e b, f (d.withCtxs cs) q ((d.bank core q.ctx).newBeat k) = .done e b →
        d.issueIn core k shared f = e.setBank core q.ctx (b.setUnit k (b.unit k).advance)) ∧
      (f (d.withCtxs cs) q ((d.bank core q.ctx).newBeat k) = .hold → d.issueIn core k shared f = d) := by
  obtain ⟨-, hseat, hended, hwait⟩ := hi
  have hfound : ∃ cs, (if shared (d.bank core q.ctx) then d else d.countBeat q k) = d.withCtxs cs := by
    split
    · exact ⟨d.ctxs, rfl⟩
    · exact ⟨_, Device.countBeat_eq_withCtxs _ _ _⟩
  obtain ⟨cs, hcs⟩ := hfound
  refine ⟨cs, fun f => ⟨fun e b hf => ?_, fun hf => ?_⟩⟩
  · simp [Device.issueIn, hseat, hended, hwait, hcs, hf, Device.settle, Device.seat_core hseat]
  · simp [Device.issueIn, hseat, hended, hwait, hcs, hf]

/-- The same for a command of a unit in its turn, with clean codes. -/
theorem actLive_issueEccIn {s : State} {u : CoreUse} {k : UnitKind} {q : Seat} (hi : s.dev.mayIssue u.core k q)
    (hu : cleanUse u) (shared : Bank → Bool) : ∃ cs, ∀ f : Device → Seat → Bank → Did,
      (∀ e b, f (s.dev.begun.withCtxs cs) q ((s.dev.bank u.core q.ctx).newBeat k) = .done e b →
        actLive s (fun d => d.issueEccIn u k shared f) =
          .next { s with dev := e.setBank u.core q.ctx (b.setUnit k (b.unit k).advance) }) ∧
      (f (s.dev.begun.withCtxs cs) q ((s.dev.bank u.core q.ctx).newBeat k) = .hold →
        actLive s (fun d => d.issueEccIn u k shared f) = .next { s with dev := s.dev.begun }) := by
  obtain ⟨cs, hcs⟩ := Device.issueIn_outcome (Device.mayIssue_begun hi) shared
  have hseat : s.dev.begun.seat u.core = some q := hi.2.1
  have hissue : ∀ f, actLive s (fun d => d.issueEccIn u k shared f) =
      .next { s with dev := s.dev.begun.issueIn u.core k shared f } := fun f => by
    rw [actLive_eq _ hi.1]
    simp [Device.issueEccIn, hseat, hu.1, hu.2]
  refine ⟨cs, fun f => ⟨fun e b hf => ?_, fun hf => ?_⟩⟩
  · rw [hissue f, (hcs f).1 e b hf]
  · rw [hissue f, (hcs f).2 hf]

section
variable (d : Device) (cs : Table Ctx)

@[simp] theorem Device.withCtxs_mem : (d.withCtxs cs).mem = d.mem := rfl
@[simp] theorem Device.withCtxs_objects : (d.withCtxs cs).objects = d.objects := rfl
@[simp] theorem Device.withCtxs_inShare (c off n : Nat) : (d.withCtxs cs).inShare c off n = d.inShare c off n := rfl
@[simp] theorem Device.withCtxs_shareAddr (c core off : Nat) : (d.withCtxs cs).shareAddr c core off = d.shareAddr c core off := rfl
@[simp] theorem Device.withCtxs_shareRead (c core off n : Nat) :
    (d.withCtxs cs).shareRead c core off n = d.shareRead c core off n := rfl
@[simp] theorem Device.begun_inShare (c off n : Nat) : d.begun.inShare c off n = d.inShare c off n := rfl
@[simp] theorem Device.begun_shareAddr (c core off : Nat) : d.begun.shareAddr c core off = d.shareAddr c core off := rfl
@[simp] theorem Device.begun_shareRead (c core off n : Nat) : d.begun.shareRead c core off n = d.shareRead c core off n := rfl

end

/-! ### Counting numbers (R128, R129) -/

section
variable (d : Device) (q : Seat) (t : Tally)

@[simp] theorem Device.modRun_mem (c : Nat) (f : Run → Run) : (d.modRun c f).mem = d.mem := rfl
@[simp] theorem Device.modRun_objects (c : Nat) (f : Run → Run) : (d.modRun c f).objects = d.objects := rfl

/-- Counting numbers changes no byte of memory. -/
@[simp] theorem Device.count_mem : (d.count q t).mem = d.mem := by
  unfold Device.count
  dsimp only
  repeat' split
  all_goals rfl

/-- Counting numbers changes no synchronisation object. -/
@[simp] theorem Device.count_objects : (d.count q t).objects = d.objects := by
  unfold Device.count
  dsimp only
  repeat' split
  all_goals rfl

/-- Counting numbers changes no register but the two of the numbers. -/
theorem Device.count_reg {a : Nat} (hs : a ≠ Reg.cfgNumSticky) (ht : a ≠ Reg.cfgSatTotal) : (d.count q t).reg a = d.reg a := by
  unfold Device.count
  dsimp only
  have hrun : ∀ (e : Device) (f : Run → Run), (e.modRun q.ctx f).reg a = e.reg a := fun _ _ => rfl
  have hor : ∀ (e : Device) (m : Nat), (e.orReg Reg.cfgNumSticky m).reg a = e.reg a := fun e _ => e.reg_setReg_ne _ hs
  have hadd : ∀ e : Device, (e.addCount Reg.cfgSatTotal 0 32 t.sat).reg a = e.reg a := fun e => e.reg_setReg_ne _ ht
  repeat' split
  all_goals simp only [hrun, hor, hadd]

/-- Counting numbers moves no share. -/
@[simp] theorem Device.count_shareAddr (c core off : Nat) : (d.count q t).shareAddr c core off = d.shareAddr c core off := by
  unfold Device.shareAddr Device.shareBase Device.fld
  rw [d.count_reg q t (by unfold Reg.calCtx Reg.cfgNumSticky; omega) (by unfold Reg.calCtx Reg.cfgSatTotal; omega)]

end

end Sys2Proof.Machine

namespace Sys2Proof.Machine

/-! ### The parts of a bank -/

section
variable (b : Bank) (e : Fin 2) (x : Engine)

/-- The engine just replaced. -/
@[simp] theorem Bank.eng_setEng : (b.setEng e x).eng e = x := by
  unfold Bank.setEng Bank.eng
  split <;> rfl

/-- Replacing an engine leaves the other one. -/
@[simp] theorem Bank.eng_setEng_other : (b.setEng e x).eng (1 - e) = b.eng (1 - e) := by
  obtain rfl | rfl : e = 0 ∨ e = 1 := by omega
  all_goals rfl

@[simp] theorem Bank.setEng_exec : (b.setEng e x).exec = b.exec := by unfold Bank.setEng; split <;> rfl
@[simp] theorem Bank.newBeat_eng (k : UnitKind) : (b.newBeat k).eng e = b.eng e := by unfold Bank.newBeat; split <;> rfl
/-- A row that waits for its partner is no part of an engine. -/
theorem Bank.openRow_eng (o : Option (Fin 2)) : ({ b with openRow := o } : Bank).eng e = b.eng e := rfl

@[simp] theorem Bank.newBeat_exec (k : UnitKind) : (b.newBeat k).exec = b.exec := by unfold Bank.newBeat; split <;> rfl
@[simp] theorem Bank.newBeat_walk (k : UnitKind) : (b.newBeat k).walk = b.walk := by unfold Bank.newBeat; split <;> rfl
@[simp] theorem Bank.setUnit_eng (k : UnitKind) (y : UnitState) : (b.setUnit k y).eng e = b.eng e := by cases k <;> rfl

end

/-! ### The accumulator row of a MATMUL (R36, R39) -/

/-- A beat updates at most 64 entries of a row. -/
theorem modeN_le (m : EngineMode) : modeN m ≤ 64 := by cases m <;> decide

section
variable (w : WeightReg) (m : EngineMode) (wf xf : Fmt) (xs : List Nat) (row : Nat) (clear : Bool)

/-- The updates of a row leave every entry they do not name. -/
theorem tgetD_accRow_of_notMem {ns : List Nat} {k : Nat} (hk : ∀ n ∈ ns, k ≠ 64 * row + n) (t : Table AccVal) :
    tgetD (accRow w m wf xf xs row clear ns t).1 k .zero = tgetD t k .zero := by
  induction ns generalizing t with
  | nil => rfl
  | cons n ns ih =>
    rw [accRow, ih (fun i hi => hk i (by simp [hi])), tgetD_tputD_ne _ _ _ _ (hk n (by simp))]

/-- The updates of a row give each column the update of its old entry, or of zero after a clear. -/
theorem tgetD_accRow_of_mem {ns : List Nat} (hd : ns.Nodup) {n : Nat} (hn : n ∈ ns) (t : Table AccVal) :
    tgetD (accRow w m wf xf xs row clear ns t).1 (64 * row + n) .zero =
      (accUpdate w m wf xf xs n (if clear then .zero else tgetD t (64 * row + n) .zero)).1 := by
  induction ns generalizing t with
  | nil => simp at hn
  | cons j ns ih =>
    obtain ⟨hj, hd⟩ := List.nodup_cons.1 hd
    obtain rfl | hn := List.mem_cons.1 hn
    · rw [accRow, tgetD_accRow_of_notMem _ _ _ _ _ _ _ (fun i hi h => hj (by rwa [show n = i by omega])), tgetD_tputD_self]
    · have hne : 64 * row + n ≠ 64 * row + j := fun h => hj (by rwa [show j = n by omega])
      rw [accRow, ih hd hn, tgetD_tputD_ne _ _ _ _ hne]

end

/-- An integer mode adds the exact integer dot product. -/
theorem accUpdate_int {m : EngineMode} (hm : modeInt m = true) (w : WeightReg) (wf xf : Fmt) (xs : List Nat) (n : Nat) (old : AccVal) :
    (accUpdate w m wf xf xs n old).1 = .int (old.asInt + intDot xf wf xs (w.column m wf n)) := by
  simp [accUpdate, hm]

/-- The sum that a MATMUL leaves for its row: cleared or kept, with the sums of the row's segments added where it names them. -/
def rowSumAfter (d : Device) (q : Seat) (e : Engine) (op : MatmulOp) : Int :=
  (if op.clear then 0 else tgetD e.updating.rowSums op.row.val 0) +
    (op.rowSum.map fun off => segSums (rowSegs op.mode (modeActivation op.mode op.xFmt))
      (d.shareRead q.ctx q.core off (4 * rowSegs op.mode (modeActivation op.mode op.xFmt)))).getD 0

/-- The engine with a MATMUL's row in the bank that takes updates. -/
def Engine.withRow (e : Engine) (op : MatmulOp) (xs : List Nat) (sum : Int) : Engine :=
  e.setUpdating
    { entries := (accRow e.computing op.mode (modeWeight op.mode e.computing.fmt) (modeActivation op.mode op.xFmt) xs op.row.val
        op.clear (List.range (modeN op.mode)) e.updating.entries).1
      rowSums := tputD e.updating.rowSums op.row.val sum 0 }

section
variable (e : Engine) (a : AccBank)

@[simp] theorem Engine.setUpdating_filling : (e.setUpdating a).filling = e.filling := by unfold Engine.setUpdating; split <;> rfl
@[simp] theorem Engine.setUpdating_computing : (e.setUpdating a).computing = e.computing := by
  unfold Engine.setUpdating; split <;> rfl

/-- The bank that takes updates, just replaced. -/
@[simp] theorem Engine.updating_setUpdating : (e.setUpdating a).updating = a := by
  unfold Engine.updating
  rw [Engine.setUpdating_filling]
  unfold Engine.setUpdating
  split <;> simp [*]

/-- The bank that does not take updates stands. -/
theorem Engine.setUpdating_other : if e.filling then (e.setUpdating a).a0 = e.a0 else (e.setUpdating a).a1 = e.a1 := by
  unfold Engine.setUpdating
  split <;> rfl

end

/-- What an activation row reads does not depend on the contexts, the answer, or a row that waits for a partner. -/
theorem Device.activations_found (d : Device) (cs : Table Ctx) (q : Seat) (b : Bank) (k : UnitKind) (m : EngineMode) (f : Fmt)
    (x : ActSource) : (d.begun.withCtxs cs).activations q (b.newBeat k) m f x = d.activations q b m f x := by
  cases x with
  | bench off => rfl
  | feed i j row =>
    unfold Device.activations
    rw [Bank.newBeat_walk]
    rfl

/-- A MATMUL that takes the feed of no plan in force holds. -/
theorem matmul_hold {d : Device} {q : Seat} {b : Bank} {op : MatmulOp} (hfed : fedSource op.source = true)
    (hfeeds : b.feeds false = false) : matmul d q b op = .hold := by
  simp [matmul, hfed, hfeeds]

/-- Any other whose reads lie in the share adds its row. -/
theorem matmul_done {d : Device} {q : Seat} {b : Bank} {op : MatmulOp} {xs : List Nat}
    (hfeeds : fedSource op.source = true → b.feeds false = true)
    (hxs : d.activations q b op.mode (modeActivation op.mode op.xFmt) op.source = some xs)
    (hsum : ∀ off, op.rowSum = some off →
      d.inShare q.ctx off (4 * rowSegs op.mode (modeActivation op.mode op.xFmt)) = true) :
    ∃ t o, matmul d q b op = .done (d.count q t)
      { b.setEng op.engine (({ b.eng op.engine with active := op.weights }).withRow op xs
          (rowSumAfter d q { b.eng op.engine with active := op.weights } op)) with openRow := o } := by
  have hheld : (fedSource op.source && !b.feeds false) = false := by
    cases hf : fedSource op.source
    · rfl
    · simp [hfeeds hf]
  unfold matmul
  simp only [hheld, hxs, Bool.false_eq_true, if_false]
  cases hr : op.rowSum with
  | none => exact ⟨_, _, by simp [Engine.withRow, rowSumAfter, hr]; exact ⟨rfl, rfl⟩⟩
  | some off => exact ⟨_, _, by simp [Engine.withRow, rowSumAfter, hr, hsum off hr]; exact ⟨rfl, rfl⟩⟩

/-- Settles O21: a MATMUL that does not hold leaves its row's engine with the row added, and each entry is what the update of its
column gives. -/
theorem matmulAccumulates : Obligations.MatmulAccumulates := by
  intro u op s q xs hi hu b e xf wf hxs hsum
  obtain ⟨cs, hcs⟩ := actLive_issueEccIn hi hu (sharesBeat op)
  obtain ⟨hdone, hhold⟩ := hcs fun d q b => matmul d q b op
  have hfeeds : ∀ v, (b.newBeat .exec).feeds v = b.feeds v := fun v => by simp [Bank.feeds]
  have heng : { (b.newBeat .exec).eng op.engine with active := op.weights } = e := by simp [e]
  refine ⟨fun hfed hno => hhold (matmul_hold hfed ((hfeeds false).trans hno)), fun hfed => ?_⟩
  obtain ⟨t, o, hm⟩ := matmul_done (d := s.dev.begun.withCtxs cs) (q := q) (b := b.newBeat .exec) (op := op) (xs := xs)
    (fun h => (hfeeds false).trans (hfed h)) ((Device.activations_found _ _ _ _ _ _ _ _).trans hxs) hsum
  rw [heng] at hm
  have hentry : ∀ n < modeN op.mode, _ := fun n hn =>
    tgetD_accRow_of_mem e.computing op.mode wf xf xs op.row.val op.clear List.nodup_range (List.mem_range.2 hn) e.updating.entries
  refine ⟨_, hdone _ _ hm, by simp, by simp, ?_⟩
  dsimp only
  rw [Device.bank_setBank]
  simp only [Bank.setUnit_eng, Bank.openRow_eng, Bank.eng_setEng, Engine.withRow, Engine.updating_setUpdating,
    Engine.setUpdating_filling, Engine.setUpdating_computing, tgetD_tputD_self]
  refine ⟨fun n hn => ⟨hentry n hn, fun hint => ?_⟩, fun k hk => ?_, ?_, fun k hk => ?_, trivial, trivial,
    e.setUpdating_other _, by simp, ?_⟩
  · rw [hentry n hn, accUpdate_int hint]
  · refine tgetD_accRow_of_notMem _ _ _ _ _ _ _ (fun n hn => ?_) _
    have := List.mem_range.1 hn
    have := modeN_le op.mode
    omega
  · simp [rowSumAfter, Device.seat_core hi.2.1, e, xf]
  · exact tgetD_tputD_ne _ _ _ _ hk
  · simp [Bank.setUnit, Bank.unit, UnitState.advance]

end Sys2Proof.Machine

/-!
PROOF. WTLOAD and ACCSWAP (O22): the weight register that a load fills, and the rows that a drain writes.
-/

namespace Sys2Proof.Machine

/-! ### WTLOAD (R37, R137) -/

section
variable (e : Engine) (w : WeightReg)

@[simp] theorem Engine.load_active : (e.load w).active = e.active := by unfold Engine.load; split <;> rfl
@[simp] theorem Engine.load_a0 : (e.load w).a0 = e.a0 := by unfold Engine.load; split <;> rfl
@[simp] theorem Engine.load_a1 : (e.load w).a1 = e.a1 := by unfold Engine.load; split <;> rfl

/-- A load leaves the register that computes. -/
@[simp] theorem Engine.load_computing : (e.load w).computing = e.computing := by
  unfold Engine.load Engine.computing
  split <;> simp_all

/-- A load fills the register that does not compute. -/
theorem Engine.load_idle : if e.active then (e.load w).w0 = w else (e.load w).w1 = w := by
  unfold Engine.load
  split <;> rfl

end

/-- A WTLOAD of a mode other than Sett4 whose codes lie in the share loads them. -/
theorem wtload_done {d : Device} {q : Seat} {op : WtloadOp} (b : Bank) (hm : op.mode ≠ .sett4)
    (hs : d.inShare q.ctx op.codes (tileBytes op.mode (modeWeight op.mode op.fmt)) = true) :
    ∃ t, wtload d q b op = .done (d.count q t) (b.setEng op.engine ((b.eng op.engine).load
      { mode := op.mode, fmt := modeWeight op.mode op.fmt, scales := [], spalls := []
        data := d.shareRead q.ctx q.core op.codes (tileBytes op.mode (modeWeight op.mode op.fmt)) })) := by
  obtain ⟨engine, mode, fmt, codes, scales, spalls⟩ := op
  cases mode
  case sett4 => exact absurd rfl hm
  all_goals exact ⟨_, by simp [wtload, hs]; rfl⟩

/-! ### Packed elements (R120) -/

/-- Packed 4-bit elements take half as many bytes. -/
theorem packNibbles_length : ∀ l : List Nat, (packNibbles l).length = (l.length + 1) / 2
  | [] => rfl
  | [_] => by simp [packNibbles]
  | _ :: _ :: l => by
    simp only [packNibbles, List.length_cons, packNibbles_length l]
    omega

/-- Elements of whole bytes take as many bytes as their format says. -/
theorem flatMap_bytesOfNat_length (k : Nat) (l : List Nat) : (l.flatMap (bytesOfNat k)).length = l.length * k := by
  induction l with
  | nil => simp
  | cons x l ih => simp [ih, Nat.add_mul, Nat.add_comm]

/-- Elements packed take the bytes of their number. -/
theorem packElems_length (f : Fmt) (l : List Nat) : (packElems f l).length = elemBytes f l.length := by
  cases f
  case int4 =>
    simp only [packElems, packNibbles_length, elemBytes, fmtBits, ceilDiv]
    omega
  all_goals
    simp only [packElems, flatMap_bytesOfNat_length, elemBytes, fmtBits, ceilDiv]
    omega

/-! ### The drain (R38, R130) -/

/-- Setting lanes changes the vector registers alone. -/
theorem Bank.setLanes_eq (b : Bank) (v lane : Nat) (l : List Nat) : b.setLanes v lane l = { b with vregs := (b.setLanes v lane l).vregs } := by
  induction l generalizing b lane with
  | nil => rfl
  | cons x l ih => rw [Bank.setLanes, ih]

/-- A drain changes no part of the bank but the vector registers. -/
theorem drainRows_bank (q : Seat) (e : Fin 2) (a : AccBank) (params : List Byte) (n : Nat) (d : Device) (b : Bank) (row : Nat) :
    (drainRows d q b e a params n row).2 = { b with vregs := (drainRows d q b e a params n row).2.vregs } := by
  induction n generalizing d b row with
  | zero => rfl
  | succ n ih =>
    rw [drainRows]
    dsimp only
    split
    · rw [ih, Bank.setLanes_eq]
    · rw [ih]

/-- A drain to the Bench writes its rows alone. -/
theorem memByte_drainRows {q : Seat} {e : Fin 2} {b : Bank} (hv : b.setreg (.drainToVector e) % 2 ≠ 1) (a : AccBank)
    (params : List Byte) {addr : Nat} (n : Nat) (d : Device) (row : Nat)
    (hout : ∀ r, row ≤ r → r < row + n →
      addr < d.shareAddr q.ctx q.core (b.setreg (.drainDest e) + r * b.setreg (.drainStride e)) ∨
      d.shareAddr q.ctx q.core (b.setreg (.drainDest e) + r * b.setreg (.drainStride e)) +
        elemBytes (fmtOfNat (b.setreg (.drainFormat e))) (modeN (modeOfNat (b.setreg (.drainMode e)))) ≤ addr) :
    memByte (drainRows d q b e a params n row).1.mem addr = memByte d.mem addr := by
  induction n generalizing d row with
  | zero => rfl
  | succ n ih =>
    have hrow := hout row (Nat.le_refl _) (by omega)
    rw [drainRows]
    simp only [hv, if_false]
    rw [ih _ _ fun r h1 h2 => ?_]
    · unfold Device.shareWrite
      rw [Device.memByte_wr_out _ _ _ _ ?_, Device.count_mem]
      rw [Device.count_shareAddr, packElems_length]
      simpa [drainRow] using hrow
    · exact (Device.count_shareAddr _ _ _ _ _ _).symm ▸ hout r (by omega) (by omega)

/-- What a drain reads of its parameters, and the rows that it writes to the Bench, lie in the share. -/
def Device.drainFits (d : Device) (q : Seat) (b : Bank) (e : Fin 2) : Prop :=
  min 256 (b.setreg (.drainRows e)) = 0 ∨
    (d.inShare q.ctx (b.setreg (.drainTable e)) (16 * modeN (modeOfNat (b.setreg (.drainMode e)))) = true ∧
      (b.setreg (.drainToVector e) % 2 = 1 ∨
        d.inShare q.ctx (b.setreg (.drainDest e) + (min 256 (b.setreg (.drainRows e)) - 1) * b.setreg (.drainStride e))
          (elemBytes (fmtOfNat (b.setreg (.drainFormat e))) (modeN (modeOfNat (b.setreg (.drainMode e))))) = true))

/-- The engine with its banks swapped: the one that took updates is left empty. -/
def Engine.swapped (g : Engine) : Engine := { g.setUpdating .empty with filling := !g.filling }

/-- An ACCSWAP whose drain fits drains its rows and swaps the banks. -/
theorem accswap_done {d : Device} {q : Seat} {b : Bank} {e : Fin 2} (h : d.drainFits q b e) :
    ∃ params, accswap d q b e =
      .done (drainRows d q b e (b.eng e).updating params (min 256 (b.setreg (.drainRows e))) 0).1
        ((drainRows d q b e (b.eng e).updating params (min 256 (b.setreg (.drainRows e))) 0).2.setEng e (b.eng e).swapped) := by
  refine ⟨d.shareRead q.ctx q.core (b.setreg (.drainTable e)) (16 * modeN (modeOfNat (b.setreg (.drainMode e)))), ?_⟩
  unfold accswap
  dsimp only
  rw [if_neg]
  · simp [Engine.swapped]
  · obtain h | ⟨ht, h | h⟩ := h <;> simp [*]

/-- After a swap the other bank takes updates, as it was, and the drained one is empty. -/
theorem Engine.swapped_banks (g : Engine) :
    if g.filling then g.swapped.a1 = .empty ∧ g.swapped.a0 = g.a0 else g.swapped.a0 = .empty ∧ g.swapped.a1 = g.a1 := by
  unfold Engine.swapped Engine.setUpdating
  split <;> exact ⟨rfl, rfl⟩

@[simp] theorem Engine.setUpdating_w0 (g : Engine) (a : AccBank) : (g.setUpdating a).w0 = g.w0 := by
  unfold Engine.setUpdating; split <;> rfl
@[simp] theorem Engine.setUpdating_w1 (g : Engine) (a : AccBank) : (g.setUpdating a).w1 = g.w1 := by
  unfold Engine.setUpdating; split <;> rfl

/-- Settles O22: the load of a weight register and the swap of the accumulator banks, each in its unit's turn. -/
theorem weightsAndSwap : Obligations.WeightsAndSwap := by
  intro u s q hi hu b
  obtain ⟨cs, hcs⟩ := actLive_issueEccIn hi hu fun _ => false
  have hcore := Device.seat_core hi.2.1
  refine ⟨fun op hm hs => ?load, fun e => ?swap⟩
  case load =>
    obtain ⟨t, ht⟩ := wtload_done (d := s.dev.begun.withCtxs cs) (q := q) (b.newBeat .exec) hm hs
    refine ⟨_, (hcs fun d q b => wtload d q b op).1 _ _ ht, by simp, ?_⟩
    dsimp only
    rw [Device.bank_setBank]
    simp only [Bank.setUnit_eng, Bank.eng_setEng, Bank.eng_setEng_other, Bank.newBeat_eng, Engine.load_computing,
      Engine.load_active, Engine.load_a0, Engine.load_a1, hcore]
    exact ⟨trivial, (b.eng op.engine).load_idle _, trivial, trivial, trivial, trivial⟩
  case swap =>
    intro m f rows dest stride hfit
    obtain ⟨params, ht⟩ := accswap_done (d := s.dev.begun.withCtxs cs) (q := q) (b := b.newBeat .exec) (e := e)
      hfit
    refine ⟨_, (hcs fun d q b => accswap d q b e).1 _ _ ht, ?_, fun hv a hout => ?_⟩
    · dsimp only
      rw [Device.bank_setBank]
      simp only [Bank.setUnit_eng, Bank.eng_setEng, Bank.newBeat_eng]
      exact ⟨rfl, by simp [Engine.swapped, b], by simp [Engine.swapped, b], (b.eng e).swapped_banks⟩
    · rw [Device.setBank_mem]
      refine memByte_drainRows (q := q) (b := b.newBeat .exec) hv _ _ _ (s.dev.begun.withCtxs cs) 0 fun r _ hr => ?_
      rw [hcore]
      exact hout r (by rwa [Nat.zero_add] at hr)

end Sys2Proof.Machine

/-!
PROOF. Vector arithmetic and segment evaluation (O23): the lanes of a register set lane by lane.
-/

namespace Sys2Proof.Machine

/-! ### Lanes (R42) -/

/-- Setting lanes leaves every lane they do not name. -/
theorem tgetD_setLanes_of_notMem {v : Nat} (hv : v < 32) {key : Nat} (l : List Nat) (b : Bank) (lane : Nat)
    (hl : lane + l.length ≤ 128) (hk : key < laneKey v lane ∨ laneKey v (lane + l.length) ≤ key) :
    tgetD (b.setLanes v lane l).vregs key 0 = tgetD b.vregs key 0 := by
  induction l generalizing b lane with
  | nil => rfl
  | cons x l ih =>
    simp only [List.length_cons, laneKey] at hl hk ih
    rw [Bank.setLanes, ih _ _ (by omega) (by omega)]
    refine tgetD_tputD_ne _ _ _ _ ?_
    rw [Nat.mod_eq_of_lt hv, Nat.mod_eq_of_lt (by omega : lane < 128), laneKey]
    omega

/-- Setting lanes gives each its value. -/
theorem tgetD_setLanes_of_mem {v : Nat} (hv : v < 32) (l : List Nat) (b : Bank) (lane : Nat) (hl : lane + l.length ≤ 128) {i : Nat}
    (hi : i < l.length) : tgetD (b.setLanes v lane l).vregs (laneKey v (lane + i)) 0 = BitVec.ofNat 32 l[i] := by
  induction l generalizing b lane i with
  | nil => simp at hi
  | cons x l ih =>
    simp only [List.length_cons] at hl hi
    rw [Bank.setLanes]
    cases i with
    | zero =>
      rw [tgetD_setLanes_of_notMem hv _ _ _ (by omega) (by simp only [laneKey]; omega), Nat.mod_eq_of_lt hv,
        Nat.mod_eq_of_lt (by omega : lane < 128)]
      exact tgetD_tputD_self _ _ _ _
    | succ i =>
      rw [show lane + (i + 1) = lane + 1 + i by omega, ih _ _ (by omega) (by omega)]
      rfl

section
variable (b : Bank) (v : Fin 32) (f : Nat → Half)

/-- A register set lane by lane holds its values. -/
theorem Bank.lane_setVreg {i : Nat} (hi : i < 128) : (b.setVreg v f).lane v i = f i := by
  have h := tgetD_setLanes_of_mem v.isLt ((List.range 128).map fun i => (f i).toNat) b 0 (by simp) (i := i) (by simpa using hi)
  rw [Nat.zero_add] at h
  simpa [Bank.lane, Bank.setVreg] using h

/-- Setting a register leaves every other one. -/
theorem Bank.lane_setVreg_ne {w : Fin 32} (hw : w ≠ v) {i : Nat} (hi : i < 128) : (b.setVreg v f).lane w i = b.lane w i := by
  refine tgetD_setLanes_of_notMem v.isLt _ _ _ (by simp) ?_
  have hne : w.val ≠ v.val := fun h => hw (Fin.ext h)
  simp only [laneKey, List.length_map, List.length_range]
  omega

@[simp] theorem Bank.setUnit_lane (k : UnitKind) (y : UnitState) (w : Fin 32) (i : Nat) :
    (b.setUnit k y).lane w i = b.lane w i := by cases k <;> rfl

/-- Setting a register changes the vector registers alone. -/
theorem Bank.setVreg_eq : b.setVreg v f = { b with vregs := (b.setVreg v f).vregs } := Bank.setLanes_eq _ _ _ _

end

/-! ### Lanewise instructions -/

/-- The bank that a lanewise instruction leaves: its destination set, its unit one instruction further on. -/
def Bank.lanewiseDone (b : Bank) (v : Fin 32) (f : Nat → Half) : Bank :=
  ((b.newBeat .exec).setVreg v f).setUnit .exec b.exec.advance

section
variable (b : Bank) (v : Fin 32) (f : Nat → Half)

/-- It holds the values in the destination. -/
theorem Bank.lane_lanewiseDone {i : Nat} (hi : i < 128) : (b.lanewiseDone v f).lane v i = f i := by
  rw [Bank.lanewiseDone, Bank.setUnit_lane, Bank.lane_setVreg _ _ _ hi]

/-- It has every other register as it was. -/
theorem Bank.lane_lanewiseDone_ne {w : Fin 32} (hw : w ≠ v) {i : Nat} (hi : i < 128) :
    (b.lanewiseDone v f).lane w i = b.lane w i := by
  rw [Bank.lanewiseDone, Bank.setUnit_lane, Bank.lane_setVreg_ne _ _ _ hw hi]
  rfl

/-- It differs from the bank before in the vector registers, the unit and the row that waits for a partner alone. -/
theorem Bank.lanewiseDone_eq : b.lanewiseDone v f =
    { b with vregs := (b.lanewiseDone v f).vregs, exec := b.exec.advance, openRow := none } := by
  rw [Bank.lanewiseDone, Bank.setVreg_eq]
  rfl

end

/-- A lanewise instruction leaves its bank so, and memory as it was. -/
theorem exec_lanewise {s : State} {u : CoreUse} {q : Seat} (hi : s.dev.mayIssue u.core .exec q) (hu : cleanUse u)
    {f : Device → Seat → Bank → Did} {v : Fin 32} {g : Nat → Half × Tally}
    (hf : ∀ cs, f (s.dev.begun.withCtxs cs) q ((s.dev.bank u.core q.ctx).newBeat .exec) =
      lanewise (s.dev.begun.withCtxs cs) q ((s.dev.bank u.core q.ctx).newBeat .exec) v g) :
    ∃ t, actLive s (fun d => d.issueEcc u .exec f) = .next t ∧ t.dev.mem = s.dev.mem ∧
      t.dev.bank u.core q.ctx = (s.dev.bank u.core q.ctx).lanewiseDone v fun l => (g l).1 := by
  obtain ⟨cs, hcs⟩ := actLive_issueEccIn hi hu fun _ => false
  refine ⟨_, (hcs f).1 _ _ (hf cs), by simp, ?_⟩
  dsimp only
  rw [Device.bank_setBank, Bank.lanewiseDone, Bank.setVreg_eq]
  rfl

/-- What O23 says of the lanes, the engines, the SETREG registers and the position of a lanewise instruction. -/
theorem exec_lanewise_lanes {s : State} {u : CoreUse} {q : Seat} (hi : s.dev.mayIssue u.core .exec q) (hu : cleanUse u)
    {f : Device → Seat → Bank → Did} {v : Fin 32} {g : Nat → Half × Tally}
    (hf : ∀ cs, f (s.dev.begun.withCtxs cs) q ((s.dev.bank u.core q.ctx).newBeat .exec) =
      lanewise (s.dev.begun.withCtxs cs) q ((s.dev.bank u.core q.ctx).newBeat .exec) v g) :
    ∃ t, actLive s (fun d => d.issueEcc u .exec f) = .next t ∧ t.dev.mem = s.dev.mem ∧
      ((∀ l < 128, (t.dev.bank u.core q.ctx).lane v l = (g l).1) ∧
        (∀ w ≠ v, ∀ l < 128, (t.dev.bank u.core q.ctx).lane w l = (s.dev.bank u.core q.ctx).lane w l) ∧
        (t.dev.bank u.core q.ctx).eng0 = (s.dev.bank u.core q.ctx).eng0 ∧
        (t.dev.bank u.core q.ctx).eng1 = (s.dev.bank u.core q.ctx).eng1 ∧
        (t.dev.bank u.core q.ctx).setregs = (s.dev.bank u.core q.ctx).setregs ∧
        (t.dev.bank u.core q.ctx).exec.position = (s.dev.bank u.core q.ctx).exec.position + 1) := by
  obtain ⟨t, ht, hmem, hbank⟩ := exec_lanewise hi hu hf
  refine ⟨t, ht, hmem, ?_⟩
  rw [hbank]
  refine ⟨fun l hl => Bank.lane_lanewiseDone _ _ _ hl, fun w hw l hl => Bank.lane_lanewiseDone_ne _ _ _ hw hl, ?_⟩
  rw [Bank.lanewiseDone_eq]
  exact ⟨rfl, rfl, rfl, rfl⟩

/-- What a SEGEVAL forms in a lane from the bytes of its table (R43). -/
def segevalLane (bs : List Byte) (b : Bank) (src : Fin 32) (l : Nat) : Half × Tally :=
  let k := segIndex (b.lane src l)
  let slope := readF32 (BitVec.ofNat 32 (fieldAt bs (8 * k) 4))
  let icept := readF32 (BitVec.ofNat 32 (fieldAt bs (8 * k + 4) 4))
  f32Result ((slope.1.mul (b.f32 src l).1).add icept.1) [(b.f32 src l).2, slope.2, icept.2]

/-- A SEGEVAL whose table lies in the share and covers every index works lane by lane. -/
theorem segeval_lanewise {d : Device} {q : Seat} {b : Bank} {op : SegevalOp} (hn : op.entries ≤ 1024)
    (hs : d.inShare q.ctx op.table (8 * op.entries) = true) (hk : ∀ l < 128, segIndex (b.lane op.s l) < op.entries) :
    segeval d q b op =
      lanewise d q b op.d (segevalLane (d.shareRead q.ctx q.core op.table (8 * op.entries)) b op.s) := by
  have hany : ((List.range 128).any fun i => decide (op.entries ≤ segIndex (b.lane op.s i))) = false := by
    simp only [List.any_eq_false, List.mem_range, decide_eq_true_eq]
    exact fun i hi => Nat.not_le.2 (hk i hi)
  simp only [segeval, Nat.min_eq_left hn, hs, hany, Bool.not_true, Bool.false_eq_true, if_false]
  rfl

/-- Settles O23: each of the instructions works lane by lane. -/
theorem vectorLanes : Obligations.VectorLanes := by
  intro u s q hi hu b lanes
  have hcore := Device.seat_core hi.2.1
  refine ⟨fun d x y z => ?fma, fun d x y => ?add, fun d x y => ?maxFp, fun d x y => ?maxInt, fun op hn hs hk => ?segeval⟩
  case fma =>
    exact exec_lanewise_lanes hi hu (g := fun l => f32Result (((b.f32 x l).1.mul (b.f32 y l).1).add (b.f32 z l).1)
      [(b.f32 x l).2, (b.f32 y l).2, (b.f32 z l).2]) fun _ => rfl
  case add =>
    exact exec_lanewise_lanes hi hu (g := fun l => f32Result ((b.f32 x l).1.add (b.f32 y l).1) [(b.f32 x l).2, (b.f32 y l).2])
      fun _ => rfl
  case maxFp =>
    exact exec_lanewise_lanes hi hu
      (g := fun l => f32Result (valMax (b.f32 x l).1 (b.f32 y l).1) [(b.f32 x l).2, (b.f32 y l).2]) fun _ => rfl
  case maxInt =>
    exact exec_lanewise_lanes hi hu (g := fun l => (BitVec.ofInt 32 (max (b.i32 x l) (b.i32 y l)), .zero)) fun _ => rfl
  case segeval =>
    rw [← hcore]
    exact exec_lanewise_lanes hi hu (g := segevalLane (s.dev.shareRead q.ctx q.core op.table (8 * op.entries)) b op.s)
      fun cs => segeval_lanewise (d := s.dev.begun.withCtxs cs) hn hs hk

end Sys2Proof.Machine

/-!
PROOF. Product-table mode (O24): the entries that PTBUILD forms, and the lookup of PTLOOK lane by lane.
-/

namespace Sys2Proof.Machine

/-! ### PTBUILD (R44) -/

section
variable {α : Type} [DecidableEq α] (g : Nat → α) (e : α)

/-- A table filled key by key has its old value at every key not named. -/
theorem tgetD_foldl_tputD_of_notMem {l : List Nat} {k : Nat} (hk : k ∉ l) (t : Table α) :
    tgetD (l.foldl (fun t i => tputD t i (g i) e) t) k e = tgetD t k e := by
  induction l generalizing t with
  | nil => rfl
  | cons i l ih =>
    obtain ⟨hi, hl⟩ := not_or.1 (mt List.mem_cons.2 hk)
    rw [List.foldl_cons, ih hl, tgetD_tputD_ne _ _ _ _ hi]

/-- A table filled key by key has the new value at every key named. -/
theorem tgetD_foldl_tputD_of_mem {l : List Nat} {k : Nat} (hk : k ∈ l) (t : Table α) :
    tgetD (l.foldl (fun t i => tputD t i (g i) e) t) k e = g k := by
  induction l generalizing t with
  | nil => simp at hk
  | cons i l ih =>
    rw [List.foldl_cons]
    by_cases hl : k ∈ l
    · exact ih hl _
    · obtain rfl := (List.mem_cons.1 hk).resolve_right hl
      rw [tgetD_foldl_tputD_of_notMem _ _ hl, tgetD_tputD_self]

end

/-- Entry i of the tables that PTBUILD forms: code value i mod 16 times activation i / 16, entry 8 of a table +0. -/
def tableEntry (bs : List Byte) (i : Nat) : Half × Tally :=
  if i % 16 = 8 then (0, .zero)
  else formF32 ((Val.ofInt (tableCode (i % 16))).mul (layoutBf16.read (fieldAt bs (2 * (i / 16)) 2)).1)

/-- The bank with the tables that PTBUILD forms from the bytes of its activations. -/
def Bank.withTables (b : Bank) (bs : List Byte) : Bank :=
  { b with tables := (List.range 128).foldl (fun t i => tputD t i (tableEntry bs i).1 0) b.tables }

/-- An entry of the tables just formed. -/
theorem Bank.tables_withTables (b : Bank) (bs : List Byte) {i : Nat} (hi : i < 128) :
    tgetD (b.withTables bs).tables i 0 = (tableEntry bs i).1 :=
  tgetD_foldl_tputD_of_mem (fun i => (tableEntry bs i).1) 0 (List.mem_range.2 hi) b.tables

section
variable (b : Bank) (bs : List Byte) (k : UnitKind) (x : UnitState)

@[simp] theorem Bank.withTables_vregs : (b.withTables bs).vregs = b.vregs := rfl
@[simp] theorem Bank.newBeat_vregs : (b.newBeat k).vregs = b.vregs := by unfold Bank.newBeat; split <;> rfl
@[simp] theorem Bank.setUnit_vregs : (b.setUnit k x).vregs = b.vregs := by cases k <;> rfl
@[simp] theorem Bank.setUnit_tables : (b.setUnit k x).tables = b.tables := by cases k <;> rfl

end

/-- A PTBUILD within the share fills the tables with these entries. -/
theorem ptbuild_done {d : Device} {q : Seat} {off : Nat} (b : Bank) (hs : d.inShare q.ctx off 16 = true) :
    ∃ t, ptbuild d q b off = .done (d.count q t) (b.withTables (d.shareRead q.ctx q.core off 16)) := by
  have hentries : ((List.range 128).map fun i => (i, if i % 16 = 8 then ((0 : Half), Tally.zero) else
      formF32 ((Val.ofInt (tableCode (i % 16))).mul ((((List.range 8).map fun t =>
        layoutBf16.read (fieldAt (d.shareRead q.ctx q.core off 16) (2 * t) 2)).getD (i / 16) (.nan, .zero)).1)))) =
      (List.range 128).map fun i => (i, tableEntry (d.shareRead q.ctx q.core off 16) i) :=
    List.map_congr_left fun i hi => by
      have := List.mem_range.1 hi
      simp [tableEntry, List.getD, List.getElem?_range (show i / 16 < 8 by omega)]
  unfold ptbuild
  rw [hs]
  simp only [Bool.not_true, Bool.false_eq_true, if_false, hentries, List.foldl_map]
  exact ⟨_, rfl⟩

/-! ### PTLOOK (R140) -/

/-- What a lookup without an escape forms in a lane. -/
def lookLane (codes : List Byte) (b : Bank) (op : PtlookOp) (l : Nat) : Half × Tally :=
  let t := readF32 (tgetD b.tables (16 * op.table.val + laneCode codes l op.position.val) 0)
  f32Result ((t.1.mul (.ofRat (scaleVal (tgetD b.laneScales l 0)))).add (b.f32 op.group l).1) [(b.f32 op.group l).2, t.2]

/-- Without an escape the lookups of lanes take no spall entry. -/
theorem lanesLook_eq {b : Bank} {op : PtlookOp} {codes : List Byte} {ls : List Nat}
    (h : ∀ l ∈ ls, isEscape (laneCode codes l op.position.val) = false) (sp : List Spall) :
    lanesLook b op codes ls sp = .ok (ls.map (lookLane codes b op)) := by
  induction ls generalizing sp with
  | nil => rfl
  | cons l ls ih =>
    simp only [lanesLook, h l (by simp), Bool.false_eq_true, if_false, ih (fun i hi => h i (by simp [hi]))]
    rfl

/-- A PTLOOK within the share that begins no block and meets no escape works lane by lane. -/
theorem ptlook_lanewise {d : Device} {q : Seat} {b : Bank} {op : PtlookOp} (hscales : op.scales = none)
    (hs : d.inShare q.ctx op.codes 2048 = true) (hsp : d.inShare q.ctx op.spalls 0 = true)
    (hesc : ∀ l < 128, isEscape (laneCode (d.shareRead q.ctx q.core op.codes 2048) l op.position.val) = false) :
    ptlook d q b op = lanewise d q b op.group (lookLane (d.shareRead q.ctx q.core op.codes 2048) b op) := by
  have hnone : ((List.range 128).filter fun l =>
      isEscape (laneCode (d.shareRead q.ctx q.core op.codes 2048) l op.position.val)) = [] := by
    simpa [List.filter_eq_nil_iff] using hesc
  simp only [ptlook, hs, hnone, hscales, hsp, List.length_nil, Nat.mul_zero, Bool.not_true, Bool.false_eq_true, if_false,
    lanesLook_eq (fun l hl => hesc l (List.mem_range.1 hl)), lanewise, Bank.setVreg, List.map_map]
  rfl

/-- Settles O24: the tables that PTBUILD forms, entry by entry, and PTLOOK lane by lane. -/
theorem productTables : Obligations.ProductTables := by
  intro u s q hi hu b
  have hcore := Device.seat_core hi.2.1
  refine ⟨fun off hs => ?build, fun op hscales hs hsp => ?look⟩
  case build =>
    obtain ⟨cs, hcs⟩ := actLive_issueEccIn hi hu fun _ => false
    obtain ⟨t, ht⟩ := ptbuild_done (d := s.dev.begun.withCtxs cs) (q := q) (b.newBeat .exec) hs
    refine ⟨_, (hcs fun d q b => ptbuild d q b off).1 _ _ ht, by simp, ?_⟩
    dsimp only
    rw [Device.bank_setBank]
    refine ⟨by simp [b], fun k hk c hc => ?_⟩
    rw [Bank.setUnit_tables, Bank.tables_withTables _ _ (by omega), tableEntry, show (16 * k + c) % 16 = c by omega,
      show (16 * k + c) / 16 = k by omega, hcore]
    split <;> rfl
  case look =>
    intro codes hesc
    obtain ⟨t, ht, hmem, hbank⟩ := exec_lanewise hi hu (f := fun d q b => ptlook d q b op) (g := lookLane codes b op)
      fun cs => by
        have h := ptlook_lanewise (d := s.dev.begun.withCtxs cs) (b := b.newBeat .exec) hscales hs hsp (hcore ▸ hesc)
        rw [hcore] at h
        exact h
    refine ⟨t, ht, hmem, ?_⟩
    rw [hbank]
    refine ⟨fun l hl => Bank.lane_lanewiseDone _ _ _ hl, fun w hw l hl => Bank.lane_lanewiseDone_ne _ _ _ hw hl, ?_⟩
    rw [Bank.lanewiseDone_eq]

end Sys2Proof.Machine

/-!
PROOF. What moving data leaves as it is (O28 to O30, O39 to O41): the operations on memory, the host caches and the port
regulators change those alone, and sending lines on a link changes what the links owe and what is sent besides.
-/

namespace Sys2Proof.Machine

/-! ### The device without its stores -/

/-- The device without what reads and writes of memory change: the memory, the lines and reservations of the hosts, the bytes
served, the regulators' credit and waits, and the bits of logs that wait. -/
def Device.offStores (d : Device) : Device :=
  { d with mem := [], hostCache := [], reservations := [], served := [], buckets := [], portWaits := [], bitmapHeld := [] }

/-- Devices that differ in their stores alone agree in whatever does not look at the stores. -/
theorem Device.eq_of_offStores {α : Type} (f : Device → α) (hf : ∀ x : Device, f x.offStores = f x) {d e : Device}
    (h : e.offStores = d.offStores) : f e = f d := by
  rw [← hf e, h, hf]

section
variable (d : Device)

/-- Credit taken from a bucket changes the regulators alone. -/
theorem Device.useCredit_stores (k n : Nat) : (d.useCredit k n).offStores = d.offStores ∧ (d.useCredit k n).mem = d.mem ∧
    (d.useCredit k n).hostCache = d.hostCache := by
  unfold Device.useCredit
  generalize tputD d.buckets _ _ _ = m
  exact ⟨rfl, rfl, rfl⟩

@[simp] theorem Device.offStores_wr (a : Nat) (bs : List Byte) : (d.wr a bs).offStores = d.offStores := rfl

/-- A line given up by the host caches changes stores alone. -/
@[simp] theorem Device.offStores_dropLine (line : Nat) : (d.dropLine line).offStores = d.offStores := by
  unfold Device.dropLine
  repeat' split
  all_goals rfl

@[simp] theorem Device.offStores_dropLines (a n : Nat) : (d.dropLines a n).offStores = d.offStores := by
  unfold Device.dropLines
  induction lineAddrs a n generalizing d with
  | nil => rfl
  | cons l ls ih => rw [List.foldl_cons, ih, Device.offStores_dropLine]

@[simp] theorem Device.offStores_coWrite (a : Nat) (bs : List Byte) : (d.coWrite a bs).offStores = d.offStores :=
  d.offStores_dropLines a bs.length

@[simp] theorem Device.offStores_serveLine (line n : Nat) (write : Bool) : (d.serveLine line n write).offStores = d.offStores := by
  unfold Device.serveLine
  split <;> rfl

@[simp] theorem Device.offStores_serve (a n : Nat) (write : Bool) : (d.serve a n write).offStores = d.offStores := by
  unfold Device.serve
  induction lineAddrs a n generalizing d with
  | nil => rfl
  | cons l ls ih => rw [List.foldl_cons, ih, Device.offStores_serveLine]

@[simp] theorem Device.serveLine_mem (line n : Nat) (write : Bool) : (d.serveLine line n write).mem = d.mem := by
  unfold Device.serveLine
  split <;> rfl

@[simp] theorem Device.serveLine_hostCache (line n : Nat) (write : Bool) :
    (d.serveLine line n write).hostCache = d.hostCache := by
  unfold Device.serveLine
  split <;> rfl

/-- An access served changes no byte of memory and no line of a host cache. -/
@[simp] theorem Device.serve_mem (a n : Nat) (write : Bool) : (d.serve a n write).mem = d.mem := by
  unfold Device.serve
  induction lineAddrs a n generalizing d with
  | nil => rfl
  | cons l ls ih => rw [List.foldl_cons, ih, Device.serveLine_mem]

@[simp] theorem Device.serve_hostCache (a n : Nat) (write : Bool) : (d.serve a n write).hostCache = d.hostCache := by
  unfold Device.serve
  induction lineAddrs a n generalizing d with
  | nil => rfl
  | cons l ls ih => rw [List.foldl_cons, ih, Device.serveLine_hostCache]

/-- A line that a port lets through takes credit at most. -/
theorem Device.lineIssue_some {d e : Device} {port owner a : Nat} {x : Bool} (h : d.lineIssue port owner a = some (x, e)) :
    e.offStores = d.offStores ∧ e.mem = d.mem ∧ e.hostCache = d.hostCache := by
  unfold Device.lineIssue at h
  dsimp only at h
  repeat' split at h
  all_goals simp only [Option.some.injEq, Prod.mk.injEq, reduceCtorEq] at h
  all_goals rw [← h.2]
  · exact ⟨rfl, rfl, rfl⟩
  · exact d.useCredit_stores _ _
  · exact d.useCredit_stores _ _
  · exact ⟨rfl, rfl, rfl⟩
  · exact ⟨rfl, rfl, rfl⟩

/-- Lines that a port lets through take credit at most. -/
theorem Device.linesIssue_stores (port owner : Nat) (l : List Nat) :
    (d.linesIssue port owner l).2.2.offStores = d.offStores ∧ (d.linesIssue port owner l).2.2.mem = d.mem ∧
      (d.linesIssue port owner l).2.2.hostCache = d.hostCache := by
  induction l generalizing d with
  | nil => exact ⟨rfl, rfl, rfl⟩
  | cons a l ih =>
    rw [Device.linesIssue]
    split
    · exact ⟨rfl, rfl, rfl⟩
    · next x e h =>
      obtain ⟨h1, h2, h3⟩ := Device.lineIssue_some h
      obtain ⟨i1, i2, i3⟩ := ih e
      exact ⟨i1.trans h1, i2.trans h2, i3.trans h3⟩

@[simp] theorem Device.offStores_linesIssue (port owner : Nat) (l : List Nat) :
    (d.linesIssue port owner l).2.2.offStores = d.offStores := (d.linesIssue_stores port owner l).1
@[simp] theorem Device.linesIssue_mem (port owner : Nat) (l : List Nat) : (d.linesIssue port owner l).2.2.mem = d.mem :=
  (d.linesIssue_stores port owner l).2.1
@[simp] theorem Device.linesIssue_hostCache (port owner : Nat) (l : List Nat) :
    (d.linesIssue port owner l).2.2.hostCache = d.hostCache := (d.linesIssue_stores port owner l).2.2

@[simp] theorem Device.offStores_charge (port a n : Nat) (write : Bool) : (d.charge port a n write).offStores = d.offStores := by
  simp [Device.charge]

/-- An access charged at a port changes no byte of memory and no line of a host cache. -/
@[simp] theorem Device.charge_mem (port a n : Nat) (write : Bool) : (d.charge port a n write).mem = d.mem := by
  simp [Device.charge]

@[simp] theorem Device.charge_hostCache (port a n : Nat) (write : Bool) : (d.charge port a n write).hostCache = d.hostCache := by
  simp [Device.charge]

/-! ### The log of written pages (R272, R273) -/

@[simp] theorem Device.offStores_putBit (e : Nat × Nat) : (d.putBit e).offStores = d.offStores := by simp [Device.putBit]

@[simp] theorem Device.offStores_flushBits (l : List (Nat × Nat)) : (Device.flushBits l d).offStores = d.offStores := by
  induction l generalizing d with
  | nil => rfl
  | cons e l ih =>
    rw [Device.flushBits]
    split
    · rfl
    · rw [ih, Device.offStores_putBit]

@[simp] theorem Device.offStores_markBit (e : Nat × Nat) : (d.markBit e).offStores = d.offStores :=
  d.offStores_flushBits _

@[simp] theorem Device.offStores_markBits (bitmap : Nat) (l : List Nat) :
    (l.foldl (fun d b => d.markBit (bitmap, b)) d).offStores = d.offStores := by
  induction l generalizing d with
  | nil => rfl
  | cons b l ih => rw [List.foldl_cons, ih, Device.offStores_markBit]

/-- Marking the pages of a write in the log in force changes stores alone. -/
@[simp] theorem Device.offStores_logWrite (t a n : Nat) : (d.logWrite t a n).offStores = d.offStores := by
  unfold Device.logWrite
  split
  · exact d.offStores_markBits _ _
  · rfl

/-- Without a log in force nothing is marked. -/
theorem Device.logWrite_of_none {t : Nat} (h : (d.ten t).log = none) (a n : Nat) : d.logWrite t a n = d := by
  simp [Device.logWrite, h]

end

/-! ### Lines sent on a link (R276) -/

/-- The device without its stores, what the links owe, the numbers given and what is sent. -/
def Device.offLinks (d : Device) : Device := { d.offStores with outbound := [], nextId := 0, sent := [] }

/-- The same of devices that differ in these alone. -/
theorem Device.eq_of_offLinks {α : Type} (f : Device → α) (hf : ∀ x : Device, f x.offLinks = f x) {d e : Device}
    (h : e.offLinks = d.offLinks) : f e = f d := by
  rw [← hf e, h, hf]

/-- Devices that differ in their stores alone. -/
theorem Device.offLinks_of_offStores {d e : Device} (h : e.offStores = d.offStores) : e.offLinks = d.offLinks := by
  unfold Device.offLinks
  rw [h]

section
variable (d : Device)

@[simp] theorem Device.offLinks_emit (o : Output) : (d.emit o).offLinks = d.offLinks := rfl
@[simp] theorem Device.offLinks_emitRead (pc : Pc) (w : OutOwner) (a n : Nat) : (d.emitRead pc w a n).offLinks = d.offLinks := rfl
@[simp] theorem Device.emitRead_mem (pc : Pc) (w : OutOwner) (a n : Nat) : (d.emitRead pc w a n).mem = d.mem := rfl
@[simp] theorem Device.emitRead_nextId (pc : Pc) (w : OutOwner) (a n : Nat) : (d.emitRead pc w a n).nextId = d.nextId + 1 := rfl

/-- The reads that a load's lines send on links. -/
def Device.sendReads (d : Device) (w : OutOwner) (n : Nat) (l : List Nat) : Device :=
  l.foldl (fun d a => match d.region a with
    | .outbound pc _ => d.emitRead pc w a n
    | _ => d) d

/-- They change what the links owe and what is sent, and give numbers. -/
theorem Device.sendReads_links (w : OutOwner) (n : Nat) (l : List Nat) :
    (d.sendReads w n l).offLinks = d.offLinks ∧ (d.sendReads w n l).mem = d.mem ∧ d.nextId ≤ (d.sendReads w n l).nextId := by
  unfold Device.sendReads
  induction l generalizing d with
  | nil => exact ⟨rfl, rfl, Nat.le_refl _⟩
  | cons a l ih =>
    rw [List.foldl_cons]
    split
    · next pc _ _ =>
      obtain ⟨h1, h2, h3⟩ := ih (d.emitRead pc w a n)
      exact ⟨h1, h2, Nat.le_of_succ_le h3⟩
    · exact ih d

end

/-! ### Transfers that go on (R52, R53, R188) -/

/-- A transfer that goes on changes stores, what the links owe and what is sent; the memory stands and no number is taken back. Of its
own parts it changes the lines issued, by no more lines than there is room for and than it has left. -/
theorem Device.advance_spec (d : Device) (core c : Nat) (t : Transfer) (room : Nat) :
    (d.advance core c t room).2.1.offLinks = d.offLinks ∧ (d.advance core c t room).2.1.mem = d.mem ∧
      d.nextId ≤ (d.advance core c t room).2.1.nextId ∧
      ∃ issued excess, (d.advance core c t room).2.2 = { t with issued := issued, excess := excess } ∧
        (issued.map (·.2)).sum ≤ t.sent + min room (t.lines.length - t.sent) := by
  have hr := d.linesIssue_stores (core / 4) (d.bucketOwner c)
  have hlen : ∀ n, ((((((t.lines.drop t.sent).take room).map (t.far + ·)).takeWhile fun a => !d.addrOff a).take n).length ≤
      min room (t.lines.length - t.sent)) := fun n => by
    have h := (List.takeWhile_sublist (fun a => !d.addrOff a) (l := ((t.lines.drop t.sent).take room).map (t.far + ·))).length_le
    simp only [List.length_map, List.length_take, List.length_drop] at h ⊢
    omega
  unfold Device.advance
  dsimp only
  generalize (((t.lines.drop t.sent).take room).map (t.far + ·)).takeWhile (fun a => !d.addrOff a) = online at hlen ⊢
  obtain ⟨h1, h2, -⟩ := hr online
  have hid : (d.linesIssue (core / 4) (d.bucketOwner c) online).2.2.nextId = d.nextId :=
    Device.eq_of_offStores Device.nextId (fun _ => rfl) h1
  generalize d.linesIssue (core / 4) (d.bucketOwner c) online = r at *
  have hsent := r.2.2.sendReads_links (.transfer core c t.id) t.lineBytes (online.take r.1)
  obtain ⟨h3, h4, h5⟩ := hsent
  refine ⟨?_, ?_, ?_, ?_⟩
  · split
    · exact h3.trans (Device.offLinks_of_offStores h1)
    · exact Device.offLinks_of_offStores h1
  · split
    · exact h4.trans h2
    · exact h2
  · split
    · exact hid ▸ h5
    · exact hid.ge
  · split
    · exact ⟨t.issued, t.excess, rfl, Nat.le_add_right _ _⟩
    · refine ⟨_, _, rfl, ?_⟩
      simp only [List.map_append, List.sum_append, List.map_cons, List.map_nil, List.sum_cons, List.sum_nil, Nat.add_zero]
      exact Nat.add_le_add_left (hlen r.1) _

end Sys2Proof.Machine

/-!
PROOF. XFER and ORDERED at their issue (O28): what is put in flight, and what a size or an alignment ends.
-/

namespace Sys2Proof.Machine

/-! ### Streamers in their turn -/

/-- A streamer counts no beat. -/
theorem Device.countBeat_streamer (d : Device) (q : Seat) {k : UnitKind} (hk : k ≠ .exec) : d.countBeat q k = d := if_neg hk

/-- A streamer's instruction begins no beat. -/
theorem Bank.newBeat_streamer (b : Bank) {k : UnitKind} (hk : k ≠ .exec) : b.newBeat k = b := if_neg hk

@[simp] theorem Bank.setUnit_transfers (b : Bank) (k : UnitKind) (x : UnitState) : (b.setUnit k x).transfers = b.transfers := by
  cases k <;> rfl

@[simp] theorem Bank.unit_setUnit (b : Bank) (k : UnitKind) (x : UnitState) : (b.setUnit k x).unit k = x := by
  cases k <;> rfl

/-- A seat's run is that of its context, and has not been stopped. -/
theorem Device.seat_run {d : Device} {core : Nat} {q : Seat} (h : d.seat core = some q) :
    (d.ctx q.ctx).run = some q.run ∧ q.run.stopped = none := by
  unfold Device.seat at h
  repeat' split at h
  all_goals try cases h
  obtain ⟨h, hs⟩ := Option.filter_eq_some_iff.1 h
  refine ⟨?_, Option.isNone_iff_eq_none.1 hs⟩
  unfold Device.seatIn at h
  repeat' split at h
  all_goals simp_all
  · subst h
    simp [*]
  · obtain ⟨_, _, rfl⟩ := h
    simp [*]

/-- A run stopped in its unit's turn ends with the status it is given. -/
theorem Device.stopRun_stopped {d : Device} {core : Nat} {q : Seat} (h : d.seat core = some q) (status detail : Byte) :
    ((d.stopRun q.ctx status detail).ctx q.ctx).run.bind (·.stopped) = some (status, detail) := by
  obtain ⟨hrun, hstop⟩ := Device.seat_run h
  simp [Device.stopRun, hrun, Run.stop, hstop]

/-! ### Putting a transfer in flight (R52, R53, R188) -/

/-- The lines of a transfer that is not cut short do not depend on those issued. -/
theorem Transfer.lines_issued (t : Transfer) (l : List (Nat × Nat)) (x : Bool) (h : t.cut = false) :
    ({ t with issued := l, excess := x } : Transfer).lines = t.lines := by
  unfold Transfer.lines
  simp only [h, Bool.false_eq_true, if_false]
  rfl

/-- A transfer launched is numbered and put at the end of its bank's transfers, with no more of its lines issued than its streamer may
still have outstanding and than it has. -/
theorem Device.launch_spec (d : Device) (q : Seat) (b : Bank) (k : UnitKind) (far near bytes farBytes : Nat) (kind : TransferKind)
    (data : List Byte) :
    let r := d.launch q b k far near bytes farBytes kind data
    r.1.offLinks = d.offLinks ∧ d.nextId < r.1.nextId ∧
      (k ≠ .store ∨ (d.ten (d.ctx q.ctx).tenancy).log = none → r.1.mem = d.mem) ∧
      ∃ x, r.2 = { b with transfers := b.transfers ++ [x] } ∧ x.id = d.nextId ∧ x.unit = k ∧ x.far = far ∧ x.near = near ∧
        x.bytes = bytes ∧ x.kind = kind ∧ x.data = data ∧ x.done = 0 ∧ x.sent ≤ lineLimit k - d.linesOut q.core k ∧
        x.sent ≤ x.lines.length := by
  intro r
  let t : Transfer := { id := d.nextId, unit := k, far := far, near := near, bytes := bytes, kind := kind, data := data,
                        issued := [], done := 0, excess := false, cut := false }
  let e : Device := { d with nextId := d.nextId + 1 }
  let e' : Device := if k = .store then e.logWrite (e.ctx q.ctx).tenancy far farBytes else e
  have he : e'.offStores = e.offStores := by
    simp only [e']
    split
    · exact Device.offStores_logWrite _ _ _ _
    · rfl
  have hout : e'.linesOut q.core k = d.linesOut q.core k := 
    (Device.eq_of_offStores (·.linesOut q.core k) (fun _ => rfl) he).trans rfl
  have hid : e'.nextId = d.nextId + 1 := 
    (Device.eq_of_offStores Device.nextId (fun _ => rfl) he).trans rfl
  have hr : r = ((e'.advance q.core q.ctx t (lineLimit k - e'.linesOut q.core k)).2.1,
    { b with transfers := b.transfers ++ [(e'.advance q.core q.ctx t (lineLimit k - e'.linesOut q.core k)).2.2] }) := rfl
  obtain ⟨h1, h2, h3, issued, excess, h4, h5⟩ := e'.advance_spec q.core q.ctx t (lineLimit k - e'.linesOut q.core k)
  rw [hr]
  refine ⟨h1.trans ((Device.offLinks_of_offStores he).trans rfl), by simp only [hid] at h3 ⊢; omega, fun hq => h2.trans ?_, _, rfl, ?_⟩
  · simp only [e']
    split
    · next hk =>
      have hlog : (e.ten (e.ctx q.ctx).tenancy).log = none := hq.resolve_left fun hne => hne hk
      rw [e.logWrite_of_none hlog]
    · rfl
  · rw [h4]
    have hsent : t.sent = 0 := rfl
    rw [hsent, hout] at h5
    refine ⟨rfl, rfl, rfl, rfl, rfl, rfl, rfl, rfl, ?_, ?_⟩
    · simp only [Transfer.sent]
      omega
    · rw [Transfer.lines_issued t issued excess rfl]
      simp only [Transfer.sent]
      omega

section
variable {s : State} {u : CoreUse} {k : UnitKind} {q : Seat} {f : Device → Seat → Bank → Did}
  (hi : s.dev.mayIssue u.core k q) (hu : cleanUse u) (hk : k ≠ .exec)
include hi hu hk

/-- A streamer's instruction that launches a transfer in its turn. -/
theorem exec_launch {b : Bank} {far near bytes farBytes : Nat} {kind : TransferKind} {data : List Byte}
    (hb : b.transfers = (s.dev.bank u.core q.ctx).transfers)
    (hf : f s.dev.begun q (s.dev.bank u.core q.ctx) =
      .done (s.dev.begun.launch q b k far near bytes farBytes kind data).1
        (s.dev.begun.launch q b k far near bytes farBytes kind data).2) :
    ∃ t x, actLive s (fun d => d.issueEcc u k f) = .next t ∧
      (t.dev.bank u.core q.ctx).transfers = (s.dev.bank u.core q.ctx).transfers ++ [x] ∧ x.id = s.dev.nextId ∧
      s.dev.nextId < t.dev.nextId ∧ x.unit = k ∧ x.far = far ∧ x.near = near ∧ x.bytes = bytes ∧ x.kind = kind ∧
      x.data = data ∧ x.done = 0 ∧ x.sent ≤ lineLimit k - s.dev.linesOut u.core k ∧ x.sent ≤ x.lines.length ∧
      ((s.dev.ten (s.dev.ctx q.ctx).tenancy).log = none → t.dev.mem = s.dev.mem) := by
  have hcore := Device.seat_core hi.2.1
  obtain ⟨-, hid, hmem, x, hx, h1, h2, h3, h4, h5, h6, h7, h8, h9, h10⟩ :=
    s.dev.begun.launch_spec q b k far near bytes farBytes kind data
  refine ⟨_, x, actLive_issueEcc_done hi hu
    (by rw [Device.countBeat_streamer _ _ hk, Bank.newBeat_streamer _ hk]; exact hf), ?_⟩
  dsimp only
  rw [Device.bank_setBank, Bank.setUnit_transfers, hx, ← hb]
  exact ⟨rfl, h1, hid, h2, h3, h4, h5, h6, h7, h8, hcore ▸ h9, h10, fun hl => hmem (.inr hl)⟩

/-- One that a size or an alignment ends moves nothing. -/
theorem exec_ends {status detail : Byte} (hf : f s.dev.begun q (s.dev.bank u.core q.ctx) = .ends s.dev.begun status detail) :
    ∃ t, actLive s (fun d => d.issueEcc u k f) = .next t ∧ t.dev.mem = s.dev.mem ∧ t.dev.sent = [] ∧
      (t.dev.ctx q.ctx).run.bind (·.stopped) = some (status, detail) ∧
      (t.dev.bank u.core q.ctx).transfers = (s.dev.bank u.core q.ctx).transfers :=
  ⟨_, actLive_issueEcc_ends (d := s.dev.begun) hi hu (by rw [Device.countBeat_streamer _ _ hk, Bank.newBeat_streamer _ hk]; exact hf), rfl, rfl,
    Device.stopRun_stopped (Device.mayIssue_begun hi).2.1 status detail, rfl⟩

end

/-! ### XFER (R54, R55) -/

/-- The unit of a streamer. -/
def streamerOf (store : Bool) : UnitKind := if store then .store else .load

theorem streamerOf_ne (store : Bool) : streamerOf store ≠ .exec := by cases store <;> decide

/-- A bank whose digest takes bytes has the transfers it had. -/
@[simp] theorem Bank.digestWith_transfers (b : Bank) (bs : List Byte) : (b.digestWith bs).transfers = b.transfers := by
  unfold Bank.digestWith
  split <;> rfl

section
variable {d : Device} {q : Seat} {b : Bank} {store : Bool} {op : XferOp}

/-- A load holds while 32 are in flight on its core. -/
theorem xfer_hold (hs : store = false) (hfull : d.loadsFull q b = true) : xfer d q b store op = .hold := by
  simp [xfer, hs, hfull]

variable (hroom : store = true ∨ d.loadsFull q b = false)
include hroom

theorem xfer_room : (!store && d.loadsFull q b) = false := by
  obtain rfl | h := hroom
  · rfl
  · simp [h]

/-- A size that the streamers do not take ends the run. -/
theorem xfer_size (hn : op.bytes % 64 ≠ 0 ∨ op.bytes = 0 ∨ 65536 < op.bytes) :
    xfer d q b store op = .ends d St.sizeUnsupported 0x01 := by
  have hbad : (decide (op.bytes % 64 ≠ 0) || decide (op.bytes = 0) || decide (65536 < op.bytes)) = true := by
    simpa [or_assoc] using hn
  simp only [xfer, xfer_room hroom, hbad, Bool.false_eq_true, if_false, if_true]

section
variable (hn : op.bytes % 64 = 0) (h0 : 0 < op.bytes) (hmax : op.bytes ≤ 65536) {a : Nat} (ha : d.farAddr q op.far = some a)
include hn h0 hmax ha

/-- An end that is not aligned ends the run. -/
theorem xfer_misaligned (hal : op.bench % 64 ≠ 0 ∨ a % 64 ≠ 0) : xfer d q b store op = .ends d St.sizeUnsupported 0x02 := by
  have hbad : (decide (op.bench % 64 ≠ 0) || decide (a % 64 ≠ 0)) = true := by simpa using hal
  have hsize : (decide (op.bytes % 64 ≠ 0) || decide (op.bytes = 0) || decide (65536 < op.bytes)) = false := by
    simp [hn, hmax, Nat.ne_of_gt h0]
  simp only [xfer, xfer_room hroom, hsize, ha, hbad, Bool.false_eq_true, if_false, if_true]

/-- Any other within the share and open to its access is launched. -/
theorem xfer_launch (hbench : op.bench % 64 = 0) (hfar : a % 64 = 0) (hs : d.inShare q.ctx op.bench op.bytes = true)
    (hsum : ∀ p, op.rowSum = some p → d.inShare q.ctx p.1 (rowSumBytes p.2 op.bytes) = true)
    (hveto : d.veto q op.far a (codecSize op.codec op.bytes) store true = none) :
    ∃ (b' : Bank) (n : Nat), b'.transfers = b.transfers ∧
      let r := d.launch q b' (streamerOf store) a op.bench op.bytes n (.plain op.codec op.rowSum (d.tensorTag q op a))
        (if store then codecEncode op.codec (d.shareRead q.ctx q.core op.bench op.bytes) else [])
      xfer d q b store op = .done r.1 r.2 := by
  have hsize : (decide (op.bytes % 64 ≠ 0) || decide (op.bytes = 0) || decide (65536 < op.bytes)) = false := by
    simp [hn, hmax, Nat.ne_of_gt h0]
  refine ⟨if store then b.digestWith (codecEncode op.codec (d.shareRead q.ctx q.core op.bench op.bytes)) else b,
    if store then (codecEncode op.codec (d.shareRead q.ctx q.core op.bench op.bytes)).length else codecSize op.codec op.bytes,
    by split <;> simp, ?_⟩
  simp only [xfer, xfer_room hroom, hsize, ha, hbench, hfar, hs, hveto]
  cases hr : op.rowSum with
  | none => cases store <;> rfl
  | some p =>
    simp only [hsum p hr]
    cases store <;> rfl

end

end

/-! ### ORDERED (R56) -/

section
variable {d : Device} {q : Seat} {b : Bank} {k : UnitKind} {op : OrderedOp}

/-- With transfers of its streamer outstanding an ordered access waits for them. -/
theorem orderedStart_wait (h : b.outstanding k ≠ []) : orderedStart d q b k op = .done d (b.wait k (.ordered op)) := by
  simp [orderedStart, h]

variable (h : b.outstanding k = [])
include h

/-- A size that is none of an ordered access ends the run. -/
theorem orderedStart_size (hn : orderedSize op.bytes = false) : orderedStart d q b k op = .ends d St.sizeUnsupported 0x01 := by
  simp [orderedStart, h, orderedIssue, hn]

section
variable (hn : orderedSize op.bytes = true) {a : Nat} (ha : d.farAddr q op.far = some a)
include hn ha

/-- An end that is not naturally aligned ends the run. -/
theorem orderedStart_misaligned (hal : a % op.bytes ≠ 0 ∨ op.bench % op.bytes ≠ 0) :
    orderedStart d q b k op = .ends d St.sizeUnsupported 0x02 := by
  have hbad : (decide (a % op.bytes ≠ 0) || decide (op.bench % op.bytes ≠ 0)) = true := by simpa using hal
  simp only [orderedStart, h, orderedIssue, hn, ha, hbad, List.isEmpty_nil, Bool.not_true, Bool.false_eq_true, if_false, if_true]

/-- Any other within the share and open to its access is launched. -/
theorem orderedStart_launch {store : Bool} (hk : k = streamerOf store) (hfar : a % op.bytes = 0) (hbench : op.bench % op.bytes = 0)
    (hs : d.inShare q.ctx op.bench op.bytes = true) (hveto : d.veto q op.far a op.bytes store false = none) :
    ∃ b' : Bank, b'.transfers = b.transfers ∧
      let r := d.launch q b' k a op.bench op.bytes op.bytes .ordered
        (if store then d.shareRead q.ctx q.core op.bench op.bytes else [])
      orderedStart d q b k op = .done r.1 r.2 := by
  refine ⟨_, b.digestWith_transfers (if store then d.shareRead q.ctx q.core op.bench op.bytes else []), ?_⟩
  have hfree : (b.outstanding k).isEmpty = true := by simp [h]
  simp only [orderedStart, hfree, if_true]
  subst hk
  cases store <;> simp [streamerOf, orderedIssue, hn, ha, hfar, hbench, hs, hveto]

end

end

/-! ### The obligation -/

/-- Settles O28: each instruction of a streamer comes to its form's case above, and what is launched stands at the end of the
transfers in flight. -/
theorem transfersIssue : Obligations.TransfersIssue := by
  intro u store s q k hi hu b quiet flies sized
  have hk : k ≠ .exec := streamerOf_ne store
  have hbeat : s.dev.begun.countBeat q k = s.dev.begun := Device.countBeat_streamer _ _ hk
  have hnew : (s.dev.bank u.core q.ctx).newBeat k = b := Bank.newBeat_streamer _ hk
  have hcore : q.core = u.core := Device.seat_core hi.2.1
  refine ⟨fun op => ⟨fun hs hfull => ?_, fun hroom => ⟨fun hn h0 hmax a ha => ⟨fun hb hfar hin hsum hv => ?_, fun hal => ?_⟩,
    fun hn => ?_⟩⟩, fun op => ⟨fun hout hn => ?_, fun hout hn a ha => ⟨fun hal => ?_, fun hfar hb hin hv => ?_⟩, fun hout => ?_⟩⟩
  · exact actLive_issueEcc_hold hi hu (by rw [hbeat, hnew]; exact xfer_hold hs hfull)
  · obtain ⟨b', n, hb', hx⟩ := xfer_launch (d := s.dev.begun) (q := q) (b := b) hroom hn h0 hmax ha hb hfar hin hsum hv
    rw [← hcore]
    exact exec_launch hi hu hk hb' hx
  · exact exec_ends hi hu hk (xfer_misaligned (d := s.dev.begun) (b := b) hroom hn h0 hmax ha hal)
  · exact exec_ends hi hu hk (xfer_size (d := s.dev.begun) (b := b) hroom hn)
  · exact exec_ends hi hu hk (orderedStart_size (d := s.dev.begun) hout hn)
  · exact exec_ends hi hu hk (orderedStart_misaligned (d := s.dev.begun) hout hn ha hal)
  · obtain ⟨b', hb', hx⟩ := orderedStart_launch (d := s.dev.begun) hout hn ha rfl hfar hb hin hv
    rw [← hcore]
    exact exec_launch hi hu hk hb' hx
  · refine ⟨_, actLive_issueEcc_done (d := s.dev.begun) (b := b.wait k (.ordered op)) hi hu
      (by rw [hbeat, hnew]; exact orderedStart_wait hout), rfl, ?_, ?_⟩
    · simp [Bank.wait, UnitState.advance]
    · simp [Bank.wait, b]

end Sys2Proof.Machine

/-!
PROOF. The rows of a WALK at their issue (O29): none without a free slot, and one with one.
-/

namespace Sys2Proof.Machine

/-- What a bank and a device must be for the walk in force to issue its next row: a bound role and the row itself. -/
structure WalkAt (b : Bank) (w : WalkState) (y : Nat) : Prop where
  walk : b.walk = some w
  row : (planRows w.op.plan)[w.next]? = some y

section
variable {d : Device} {q : Seat} {b : Bank} {w : WalkState} {y n : Nat}

/-- Past its last row a walk issues nothing. -/
theorem walkGo_end (hw : b.walk = some w) (hr : (planRows w.op.plan)[w.next]? = none) : walkGo q n d b = .done d b := by
  cases n <;> simp [walkGo, hw, hr]

variable (h : WalkAt b w y)
include h

/-- Without a free slot, or with 32 loads in flight, it waits to take 1 from the object of its free slots. -/
theorem walkGo_wait (hwait : d.obj q w.op.free = 0 ∨ d.loadsFull q b = true) :
    walkGo q (n + 1) d b = .done d (b.wait .load (.taking w.op.free 1)) := by
  have hbusy : (decide ((d.obj q w.op.free).toNat = 0) || d.loadsFull q b) = true := by
    obtain h | h := hwait <;> simp [h]
  simp only [walkGo, h.walk, h.row, hbusy, if_true]

/-- With a free slot and room in flight it takes the slot and launches its row into it. -/
theorem walkGo_row (hobj : d.obj q w.op.free ≠ 0) (hfull : d.loadsFull q b = false)
    (hs : d.inShare q.ctx (w.op.lines + w.next % w.op.plan.slots * planRowBytes w.op.plan) (planRowBytes w.op.plan) = true)
    (hsum : ∀ p, w.op.rowSum = some p →
      d.inShare q.ctx p.1 (w.op.plan.slots * rowSumBytes p.2 (planRowBytes w.op.plan)) = true)
    (hveto : d.vetoRole (d.ctx q.ctx).tenancy (w.base + y * walkPitch w.op) (walkPitch w.op) false true = none) :
    let r := (d.setObj q w.op.free (d.obj q w.op.free - 1)).launch q b .load (w.base + y * walkPitch w.op)
      (w.op.lines + w.next % w.op.plan.slots * planRowBytes w.op.plan) (planRowBytes w.op.plan) (walkPitch w.op)
      (.walkRow w.op y) []
    walkGo q (n + 1) d b = walkGo q n r.1 { r.2 with walk := some { w with next := w.next + 1 } } := by
  have hbusy : (decide ((d.obj q w.op.free).toNat = 0) || d.loadsFull q b) = false := by
    simpa [hfull, ← BitVec.toNat_eq] using fun h0 => hobj (BitVec.eq_of_toNat_eq h0)
  simp only [walkGo, h.walk, h.row, hbusy, hs, hveto, Bool.false_eq_true, if_false, Bool.true_and]
  cases hr : w.op.rowSum with
  | none => rfl
  | some p =>
    simp only [hsum p hr]
    rfl

end

/-- A slot's object just set reads back. -/
@[simp] theorem Device.obj_setObj (d : Device) (q : Seat) (o : Nat) (v : Half) : (d.setObj q o v).obj q o = v :=
  tgetD_tputD_self _ _ _ _

/-- A WALK within its limits whose role is bound begins with its first row. -/
theorem walk_begin {d : Device} {q : Seat} {b : Bank} {op : WalkOp} {base : Nat} (hok : walkOk op = true)
    (hrole : d.roleBase q (q.roleOf op.role.val) = some base) :
    walk d q b op =
      walkGo q (planRows op.plan).length d { b with walk := some { op := op, base := base + op.base, next := 0 } } := by
  simp [walk, hok, hrole]

/-- After its first row a walk that finds no further slot free waits where rows are left. -/
theorem walkGo_rest {d : Device} {q : Seat} {b : Bank} {w : WalkState} {y : Nat} {ys : List Nat}
    (hw : b.walk = some w) (hn : w.next = 1) (hrows : planRows w.op.plan = y :: ys) (hobj : d.obj q w.op.free = 0) :
    walkGo q ys.length d b = .done d (if ys = [] then b else b.wait .load (.taking w.op.free 1)) := by
  cases ys with
  | nil => rfl
  | cons z zs => exact walkGo_wait (y := z) ⟨hw, by simp [hrows, hn]⟩ (.inl hobj)

/-- The bank of a walk that has issued its first row. -/
def Bank.walked (b : Bank) (w : WalkState) (x : Transfer) : Bank :=
  { b with transfers := b.transfers ++ [x], walk := some { w with next := 1 } }

/-- A walk at its first row, with one slot free and room in flight: that row is launched, the slot is taken, and the rows that are
left wait. -/
theorem walkGo_first {d : Device} {q : Seat} {b : Bank} {w : WalkState} {y : Nat} {ys : List Nat} (hw : b.walk = some w)
    (h0 : w.next = 0) (hrows : planRows w.op.plan = y :: ys) (hobj : d.obj q w.op.free = 1) (hfull : d.loadsFull q b = false)
    (hs : d.inShare q.ctx w.op.lines (planRowBytes w.op.plan) = true)
    (hsum : ∀ p, w.op.rowSum = some p →
      d.inShare q.ctx p.1 (w.op.plan.slots * rowSumBytes p.2 (planRowBytes w.op.plan)) = true)
    (hveto : d.vetoRole (d.ctx q.ctx).tenancy (w.base + y * walkPitch w.op) (walkPitch w.op) false true = none) :
    ∃ e x, walkGo q (ys.length + 1) d b = .done e
        (if ys = [] then b.walked w x else (b.walked w x).wait .load (.taking w.op.free 1)) ∧
      x.far = w.base + y * walkPitch w.op ∧ x.near = w.op.lines ∧ x.bytes = planRowBytes w.op.plan ∧ x.unit = .load ∧
      e.obj q w.op.free = 0 ∧ e.mem = d.mem := by
  have hslot : w.op.lines + w.next % w.op.plan.slots * planRowBytes w.op.plan = w.op.lines := by simp [h0]
  have hrow := walkGo_row (n := ys.length) ⟨hw, by simp [hrows, h0]⟩ (fun h => absurd (hobj.symm.trans h) (by decide)) hfull
    (hslot.symm ▸ hs) hsum hveto
  rw [hrow, hslot]
  have hset : (d.setObj q w.op.free (d.obj q w.op.free - 1)).obj q w.op.free = 0 := by simp [hobj]
  have hmem₀ : (d.setObj q w.op.free (d.obj q w.op.free - 1)).mem = d.mem := rfl
  generalize d.setObj q w.op.free (d.obj q w.op.free - 1) = e at hset hmem₀ ⊢
  obtain ⟨hoff, -, hmem, x, hx, -, hunit, hfar, hnear, hbytes, -⟩ := e.launch_spec q b .load (w.base + y * walkPitch w.op)
    w.op.lines (planRowBytes w.op.plan) (walkPitch w.op) (.walkRow w.op y) []
  dsimp only at hoff hmem hx ⊢
  have hnone : _ = (0 : Half) := (Device.eq_of_offLinks (·.obj q w.op.free) (fun _ => rfl) hoff).trans hset
  rw [hx, h0]
  exact ⟨_, x, walkGo_rest (b := b.walked w x) (w := { w with next := 1 }) rfl rfl hrows hnone, hfar, hnear, hbytes, hunit, hnone,
    (hmem (.inl UnitKind.noConfusion)).trans hmem₀⟩

/-- Settles O29: the first row waits or is issued as the object of the free slots says, and once the slot is taken the object shows
none free to the rows that are left. -/
theorem walkWaitsForSlots : Obligations.WalkWaitsForSlots := by
  intro u op s q base y ys hi hu hrole hrows hok b full
  let w : WalkState := { op := op, base := base + op.base, next := 0 }
  let bw : Bank := { b with walk := some w }
  have hk : UnitKind.load ≠ .exec := by decide
  have hbeat : s.dev.begun.countBeat q .load = s.dev.begun := Device.countBeat_streamer _ _ hk
  have hnew : (s.dev.bank u.core q.ctx).newBeat .load = b := Bank.newBeat_streamer _ hk
  have hat : WalkAt bw w y := ⟨rfl, by simp [w, hrows]⟩
  have hbegin : walk s.dev.begun q b op = walkGo q (ys.length + 1) s.dev.begun bw := by
    rw [walk_begin (d := s.dev.begun) hok hrole, hrows, List.length_cons]
  refine ⟨fun hfull x => ((transfersIssue u false s q hi hu).1 x).1 rfl hfull, fun hwait => ?_, fun hobj hfull hin hsum hv => ?_⟩
  · refine ⟨_, actLive_issueEcc_done (d := s.dev.begun) (b := bw.wait .load (.taking op.free 1)) hi hu
      (by rw [hbeat, hnew, hbegin]; exact walkGo_wait hat hwait), rfl, rfl, ?_⟩
    dsimp only
    rw [Device.bank_setBank]
    exact ⟨rfl, rfl, rfl⟩
  · obtain ⟨e, x, hgo, hfar, hnear, hbytes, hunit, hnone, hmem⟩ :=
      walkGo_first (d := s.dev.begun) (b := bw) (w := w) rfl rfl hrows hobj hfull hin hsum hv
    refine ⟨_, x, actLive_issueEcc_done hi hu (by rw [hbeat, hnew, hbegin, hgo]), ?_⟩
    have hidle : b.load.waiting = none := hi.2.2.2
    dsimp only
    rw [Device.bank_setBank]
    refine ⟨?_, hfar, hnear, hbytes, hunit, hnone, hmem, ?_, ?_⟩
    · split <;> rfl
    · split <;> rfl
    · split
      · exact hidle
      · rfl

end Sys2Proof.Machine

/-!
PROOF. Ranges of memory taken together (O30, O40): reading and writing bytes one piece after another.
-/

namespace Sys2Proof.Machine

/-- A range read is its pieces read one after another. -/
theorem memRead_add (m : List Host.Cell) (a n k : Nat) : memRead m a (n + k) = memRead m a n ++ memRead m (a + n) k := by
  induction n generalizing a with
  | zero => simp [memRead]
  | succ n ih =>
    rw [Nat.succ_add, memRead, ih (a + 1), memRead, Nat.add_assoc, Nat.add_comm 1 n]
    rfl

/-- Bytes written are their pieces written one after another. -/
theorem memWrite_append (m : List Host.Cell) (a : Nat) (xs ys : List Byte) :
    memWrite m a (xs ++ ys) = memWrite (memWrite m a xs) (a + xs.length) ys := by
  induction xs generalizing m a with
  | nil => rfl
  | cons x xs ih =>
    rw [List.cons_append, memWrite, ih, memWrite, List.length_cons, Nat.add_assoc, Nat.add_comm 1]

/-- The first bytes of a list written are a first piece of it and then what follows in it. -/
theorem memWrite_take (m : List Host.Cell) (a n k : Nat) (bs : List Byte) :
    memWrite m a (bs.take (n + k)) = memWrite (memWrite m a (bs.take n)) (a + n) ((bs.drop n).take k) := by
  rw [List.take_add, memWrite_append]
  obtain h | h := Nat.le_total n bs.length
  · rw [List.length_take_of_le h]
  · simp [List.drop_eq_nil_of_le h, memWrite]

/-- Two memories that read alike over a range give the same bytes of it. -/
theorem memRead_congr {m m' : List Host.Cell} {a n : Nat} (h : ∀ x, a ≤ x → x < a + n → memByte m x = memByte m' x) :
    memRead m a n = memRead m' a n := by
  induction n generalizing a with
  | zero => rfl
  | succ n ih =>
    rw [memRead, memRead, h a (Nat.le_refl _) (by omega), ih fun x hx hn => h x (by omega) (by omega)]

/-! ### The host caches' lines (R288) -/

/-- Two devices with the same memory and the same lines in the host caches. -/
structure Device.SameBytes (d e : Device) : Prop where
  mem : e.mem = d.mem
  cache : e.hostCache = d.hostCache

namespace Device.SameBytes

variable {d e : Device}

theorem dropLine (h : d.SameBytes e) (line : Nat) : (d.dropLine line).SameBytes (e.dropLine line) := by
  obtain ⟨hm, hc⟩ := h
  unfold Device.dropLine
  rw [hc]
  split
  · dsimp only
    split
    · exact ⟨congrArg (memWrite · line _) hm, congrArg (tdel · _) hc⟩
    · exact ⟨hm, congrArg (tdel · _) hc⟩
  · exact ⟨hm, hc⟩

theorem foldDrop (h : d.SameBytes e) (l : List Nat) :
    (l.foldl (fun d a => d.dropLine a) d).SameBytes (l.foldl (fun d a => d.dropLine a) e) := by
  induction l generalizing d e with
  | nil => exact h
  | cons a l ih => exact ih (h.dropLine a)

theorem dropLines (h : d.SameBytes e) (a n : Nat) : (d.dropLines a n).SameBytes (e.dropLines a n) :=
  h.foldDrop (lineAddrs a n)

/-- A coherent read looks at the memory and the host caches alone. -/
theorem coRead (h : d.SameBytes e) (a n : Nat) : e.coRead a n = d.coRead a n := by
  simp only [Device.coRead, Device.rd, (h.dropLines a n).mem]

end Device.SameBytes

end Sys2Proof.Machine

/-!
PROOF. TRANSFER_COMPLETE of all the lines of a transfer (O30): what its lines move, and that the transfer is over.
-/

namespace Sys2Proof.Machine

/-! ### Lines that complete -/

/-- What the completion of lines leaves as it was besides memory: the population of the map, the registers below the Marshal's, and
the banks. -/
structure Device.SameMap (d e : Device) : Prop where
  boot : e.boot = d.boot
  regs : ∀ a < 0x600000, e.reg a = d.reg a
  banks : e.banks = d.banks

namespace Device.SameMap

variable {d e f : Device}

theorem refl (d : Device) : d.SameMap d := ⟨rfl, fun _ _ => rfl, rfl⟩

theorem trans (h : d.SameMap e) (h' : e.SameMap f) : d.SameMap f :=
  ⟨h'.boot.trans h.boot, fun a ha => (h'.regs a ha).trans (h.regs a ha), h'.banks.trans h.banks⟩

theorem ddrHalf (h : d.SameMap e) : e.ddrHalf = d.ddrHalf := by
  unfold Device.ddrHalf
  rw [h.boot]

theorem region (h : d.SameMap e) (a : Nat) : e.region a = d.region a := by
  simp only [Device.region, h.ddrHalf]

theorem isOutbound (h : d.SameMap e) (a : Nat) : e.isOutbound a = d.isOutbound a := by
  simp only [Device.isOutbound, h.region]

theorem bank (h : d.SameMap e) (core c : Nat) : e.bank core c = d.bank core c := by
  simp only [Device.bank, h.banks]

theorem shareAddr (h : d.SameMap e) (c : Fin 256) (core off : Nat) : e.shareAddr c core off = d.shareAddr c core off := by
  have hc := c.isLt
  simp only [Device.shareAddr, Device.shareBase, Device.fld]
  rw [h.regs _ (by unfold Reg.calCtx; omega)]

/-- A register of the Marshal or above set. -/
theorem setReg (h : d.SameMap e) {a : Nat} (ha : 0x600000 ≤ a) (v : Word) : d.SameMap (e.setReg a v) :=
  h.trans ⟨rfl, fun _ hb => e.reg_setReg_ne v (by omega), rfl⟩

end Device.SameMap

section
variable (d : Device)

/-- A latency missed is counted and raised. -/
theorem Device.latencyMiss_spec (cls : Nat) : d.SameMap (d.latencyMiss cls) ∧ (d.latencyMiss cls).mem = d.mem := by
  have h := ((Device.SameMap.refl d).setReg (a := Reg.mrgMissCount cls) (by unfold Reg.mrgMissCount; omega)
    (putBits (d.reg (Reg.mrgMissCount cls)) 0 16 (holdAdd 16 (d.fld (Reg.mrgMissCount cls) 0 16) 1)))
  exact ⟨(h.setReg (a := Reg.mrgMissSticky) (by decide) _).trans ⟨rfl, fun _ _ => rfl, rfl⟩, rfl⟩

theorem Device.checkLatency_spec (a elapsed : Nat) :
    d.SameMap (d.checkLatency a elapsed) ∧ (d.checkLatency a elapsed).mem = d.mem := by
  unfold Device.checkLatency
  dsimp only
  split
  · exact d.latencyMiss_spec _
  · exact ⟨.refl d, rfl⟩

theorem Device.checkWindowLatency_spec (t a elapsed : Nat) :
    d.SameMap (d.checkWindowLatency t a elapsed) ∧ (d.checkWindowLatency t a elapsed).mem = d.mem := by
  unfold Device.checkWindowLatency
  repeat' split
  · refine ⟨?_, rfl⟩
    exact ((Device.SameMap.refl d).setReg (by unfold Reg.hifWinMiss; omega) _).setReg (by decide) _
  · exact ⟨.refl d, rfl⟩
  · exact ⟨.refl d, rfl⟩

theorem Device.serveLine_sameMap (a n : Nat) (write : Bool) : d.SameMap (d.serveLine a n write) := by
  unfold Device.serveLine
  split <;> exact ⟨rfl, fun _ _ => rfl, rfl⟩

/-- A write to memory changes memory alone. -/
theorem Device.wr_sameMap (a : Nat) (bs : List Byte) : d.SameMap (d.wr a bs) := ⟨rfl, fun _ _ => rfl, rfl⟩

/-- The lines of results noted as stored change the run alone. -/
theorem Device.noteStored_spec (core c a : Nat) : d.SameMap (d.noteStored core c a) ∧ (d.noteStored core c a).mem = d.mem := by
  unfold Device.noteStored
  split
  · exact ⟨.refl d, rfl⟩
  · split
    · exact ⟨.refl d, rfl⟩
    · refine List.foldlRecOn _ _ (motive := fun e => d.SameMap e ∧ e.mem = d.mem) ⟨.refl d, rfl⟩ fun e he i _ => ?_
      repeat' split
      · exact he
      · exact he
      · exact ⟨he.1.trans ⟨rfl, fun _ _ => rfl, rfl⟩, he.2⟩
      · exact he

end

/-- What a line's completion does before its data moves: it is served and judged. -/
def Device.lineJudged (d : Device) (c : Nat) (t : Transfer) (off tick : Nat) : Device :=
  let a := t.far + off
  let elapsed := (d.alm.ticks - tick) * 10
  let d := (d.serveLine a t.lineBytes (t.unit = .store)).checkLatency a elapsed
  if d.inMemory a 1 then d else d.checkWindowLatency (d.ctx c).tenancy a elapsed

theorem Device.lineJudged_spec (d : Device) (c : Nat) (t : Transfer) (off tick : Nat) :
    d.SameMap (d.lineJudged c t off tick) ∧ (d.lineJudged c t off tick).mem = d.mem := by
  unfold Device.lineJudged
  dsimp only
  have hserve := d.serveLine_sameMap (t.far + off) t.lineBytes (t.unit = .store)
  have hmem := d.serveLine_mem (t.far + off) t.lineBytes (t.unit = .store)
  generalize d.serveLine (t.far + off) t.lineBytes (t.unit = .store) = e at hserve hmem ⊢
  obtain ⟨h1, m1⟩ := e.checkLatency_spec (t.far + off) ((d.alm.ticks - tick) * 10)
  generalize e.checkLatency (t.far + off) ((d.alm.ticks - tick) * 10) = f at h1 m1 ⊢
  split
  · exact ⟨hserve.trans h1, m1.trans hmem⟩
  · obtain ⟨h2, m2⟩ := f.checkWindowLatency_spec (f.ctx c).tenancy (t.far + off) ((d.alm.ticks - tick) * 10)
    exact ⟨hserve.trans (h1.trans h2), m2.trans (m1.trans hmem)⟩

/-- Once judged, a store's line goes to its far end and a load's is read. -/
theorem lineDone_eq (core c : Nat) (d : Device) (t : Transfer) (off tick : Nat) :
    lineDone core c d t off tick =
      if t.unit = .store then
        ((storeLine (d.lineJudged c t off tick) (t.far + off) ((t.data.drop (64 * t.done)).take t.lineBytes)).noteStored core c
          (t.far + off), { t with done := t.done + 1 })
      else
        (d.lineJudged c t off tick,
          { t with data := t.data ++ (d.lineJudged c t off tick).rd (t.far + off) t.lineBytes, done := t.done + 1 }) := rfl

/-! ### Loads -/

section
variable {core c : Nat} {x : Transfer} (hunit : x.unit ≠ .store) (hbytes : x.lineBytes = 64)
include hunit hbytes

/-- The lines of a load that complete read their bytes and write nothing. -/
theorem linesDone_load (ticks : List Nat) (i : Nat) (d : Device) (done : Nat) (data : List Byte) :
    let l := ((List.range' i ticks.length).map (64 * ·)).zip ticks
    let r := linesDone core c l d { x with data := data, done := done }
    d.SameMap r.1 ∧ r.1.mem = d.mem ∧
      r.2 = { x with data := data ++ d.rd (x.far + 64 * i) (64 * ticks.length), done := done + ticks.length } := by
  induction ticks generalizing i d done data with
  | nil => exact ⟨.refl d, rfl, by simp [linesDone, Device.rd, memRead]⟩
  | cons k ticks ih =>
    obtain ⟨h1, m1⟩ := d.lineJudged_spec c { x with data := data, done := done } (64 * i) k
    have hrd : ∀ a n, (d.lineJudged c { x with data := data, done := done } (64 * i) k).rd a n = d.rd a n :=
      fun a n => congrArg (memRead · a n) m1
    have hline : lineDone core c d { x with data := data, done := done } (64 * i) k =
        (d.lineJudged c { x with data := data, done := done } (64 * i) k,
          { x with data := data ++ d.rd (x.far + 64 * i) 64, done := done + 1 }) := by
      rw [lineDone_eq, if_neg hunit, hrd]
      exact hbytes ▸ rfl
    obtain ⟨h2, m2, r2⟩ := ih (i + 1) (d.lineJudged c { x with data := data, done := done } (64 * i) k) (done + 1)
      (data ++ d.rd (x.far + 64 * i) 64)
    dsimp only
    rw [List.length_cons, List.range'_succ, List.map_cons, List.zip_cons_cons, linesDone, hline]
    refine ⟨h1.trans h2, m2.trans m1, r2.trans ?_⟩
    have hrest : d.rd (x.far + 64 * i) (64 * (ticks.length + 1)) =
        d.rd (x.far + 64 * i) 64 ++ d.rd (x.far + 64 * (i + 1)) (64 * ticks.length) := by
      rw [show 64 * (ticks.length + 1) = 64 + 64 * ticks.length by omega, Device.rd, memRead_add]
      rfl
    rw [hrest, List.append_assoc, Nat.add_assoc, Nat.add_comm 1, hrd]

end

/-! ### Stores -/

/-- A line of a store whose far end is no outbound range puts its bytes there. -/
theorem lineDone_store {core c : Nat} {d : Device} {x : Transfer} {off tick : Nat} (hunit : x.unit = .store)
    (hbytes : x.lineBytes = 64) (hout : d.isOutbound (x.far + off) = false) :
    let r := lineDone core c d x off tick
    d.SameMap r.1 ∧ r.1.mem = memWrite d.mem (x.far + off) ((x.data.drop (64 * x.done)).take 64) ∧
      r.2 = { x with done := x.done + 1 } := by
  obtain ⟨h1, m1⟩ := d.lineJudged_spec c x off tick
  have hput : storeLine (d.lineJudged c x off tick) (x.far + off) ((x.data.drop (64 * x.done)).take 64) =
      (d.lineJudged c x off tick).wr (x.far + off) ((x.data.drop (64 * x.done)).take 64) := by
    have hout' : (d.lineJudged c x off tick).isOutbound (x.far + off) = false := (h1.isOutbound _).trans hout
    unfold Device.isOutbound at hout'
    unfold storeLine
    split
    · next h => simp [h] at hout'
    · rfl
  obtain ⟨h2, m2⟩ := ((d.lineJudged c x off tick).wr (x.far + off) ((x.data.drop (64 * x.done)).take 64)).noteStored_spec
    core c (x.far + off)
  dsimp only
  rw [lineDone_eq, if_pos hunit, hbytes, hput]
  refine ⟨(h1.trans (Device.wr_sameMap _ _ _)).trans h2, m2.trans ?_, rfl⟩
  rw [← m1, Device.wr]

/-- The lines of a store that complete put its bytes at its far end, one line after another. -/
theorem linesDone_store {core c : Nat} {x : Transfer} (hunit : x.unit = .store) (hbytes : x.lineBytes = 64) (ticks : List Nat)
    (d : Device) (i : Nat) (hout : ∀ off ∈ (List.range' i ticks.length).map (64 * ·), d.isOutbound (x.far + off) = false) :
    let l := ((List.range' i ticks.length).map (64 * ·)).zip ticks
    let r := linesDone core c l d { x with done := i }
    d.SameMap r.1 ∧ r.1.mem = memWrite d.mem (x.far + 64 * i) ((x.data.drop (64 * i)).take (64 * ticks.length)) ∧
      r.2 = { x with done := i + ticks.length } := by
  induction ticks generalizing d i with
  | nil => exact ⟨.refl d, by simp [linesDone, memWrite], rfl⟩
  | cons k ticks ih =>
    rw [List.length_cons, List.range'_succ, List.map_cons] at hout
    obtain ⟨h1, m1, r1⟩ := lineDone_store (core := core) (c := c) (x := { x with done := i }) (tick := k) hunit hbytes
      (hout _ List.mem_cons_self)
    obtain ⟨h2, m2, r2⟩ := ih (lineDone core c d { x with done := i } (64 * i) k).1 (i + 1)
      fun off hoff => (h1.isOutbound _).trans (hout off (List.mem_cons_of_mem _ hoff))
    dsimp only
    rw [List.length_cons, List.range'_succ, List.map_cons, List.zip_cons_cons, linesDone, r1]
    refine ⟨h1.trans h2, m2.trans ?_, r2.trans (by rw [Nat.add_assoc, Nat.add_comm 1])⟩
    rw [m1, show 64 * (ticks.length + 1) = 64 + 64 * ticks.length by omega, memWrite_take, List.drop_drop]
    rfl

/-! ### Transfers that wait -/

/-- Whether no transfer of a number is in a bank. -/
def Device.lacks (d : Device) (core c id : Nat) : Prop := ∀ y ∈ (d.bank core c).transfers, y.id ≠ id

/-- The device without its stores, its links' reads, its banks and its contexts. -/
def Device.offRuns (d : Device) : Device := { d.offLinks with banks := [], ctxs := [] }

/-- What the issue of waiting lines leaves: memory, all but the stores, links, banks and contexts, and the numbers that no transfer of
a bank has. -/
structure Device.Reissued (d e : Device) : Prop where
  off : e.offRuns = d.offRuns
  mem : e.mem = d.mem
  lacks : ∀ core c id, d.lacks core c id → e.lacks core c id

namespace Device.Reissued

variable {d e f : Device}

theorem refl (d : Device) : d.Reissued d := ⟨rfl, rfl, fun _ _ _ h => h⟩

theorem trans (h : d.Reissued e) (h' : e.Reissued f) : d.Reissued f :=
  ⟨h'.off.trans h.off, h'.mem.trans h.mem, fun core c id hl => h'.lacks core c id (h.lacks core c id hl)⟩

theorem shareAddr (h : d.Reissued e) (c core off : Nat) : e.shareAddr c core off = d.shareAddr c core off :=
  (congrArg (·.shareAddr c core off) h.off : e.offRuns.shareAddr c core off = d.offRuns.shareAddr c core off)

end Device.Reissued

section
variable (d : Device) (core c : Nat)

/-- A bank replaced by one whose transfers have numbers of its own alone. -/
theorem Device.reissued_setBank {b : Bank} (h : ∀ y ∈ b.transfers, ∃ z ∈ (d.bank core c).transfers, y.id = z.id) :
    d.Reissued (d.setBank core c b) := by
  refine ⟨rfl, rfl, fun core' c' id hl y hy => ?_⟩
  by_cases hkey : core' * 256 + c' = core * 256 + c
  · have hbank : ∀ x : Device, x.bank core' c' = x.bank core c := fun x => by simp only [Device.bank, hkey]
    rw [hbank, Device.bank_setBank] at hy
    obtain ⟨z, hz, hid⟩ := h y hy
    exact hid ▸ hl z (by rw [hbank]; exact hz)
  · rw [Device.bank_setBank_ne _ _ hkey] at hy
    exact hl y hy

theorem Device.reissued_setTransfer (t : Transfer) : d.Reissued (d.setTransfer core c t) := by
  refine d.reissued_setBank core c fun y hy => ?_
  obtain ⟨z, hz, rfl⟩ := List.mem_map.1 hy
  refine ⟨z, hz, ?_⟩
  split
  · next h => exact h.symm
  · rfl

theorem Device.reissued_retire (id : Nat) : d.Reissued (d.setBank core c ((d.bank core c).retire id)) :=
  d.reissued_setBank core c fun y hy => ⟨y, (List.mem_filter.1 hy).1, rfl⟩

theorem Device.reissued_cutTransfer (t : Transfer) : d.Reissued (d.cutTransfer core c t) := by
  unfold Device.cutTransfer
  split
  · exact d.reissued_retire core c _
  · exact d.reissued_setTransfer core c _

theorem Device.reissued_advance (t : Transfer) (room : Nat) : d.Reissued (d.advance core c t room).2.1 := by
  obtain ⟨hoff, hmem, -⟩ := d.advance_spec core c t room
  refine ⟨congrArg (fun x : Device => { x with banks := [], ctxs := [] }) hoff, hmem, fun core' c' id hl y hy => hl y ?_⟩
  rwa [Device.eq_of_offLinks (·.bank core' c') (fun _ => rfl) hoff] at hy

theorem Device.reissued_stopRun (status detail : Byte) : d.Reissued (d.stopRun c status detail) := ⟨rfl, rfl, fun _ _ _ hl => hl⟩

theorem Device.reissued_reissue (t : Transfer) : d.Reissued (d.reissue core c t) := by
  unfold Device.reissue
  split
  · exact .refl d
  · dsimp only
    have h := (d.reissued_advance core c t (lineLimit t.unit - d.linesOut core t.unit)).trans
      (Device.reissued_setTransfer _ core c (d.advance core c t (lineLimit t.unit - d.linesOut core t.unit)).2.2)
    split
    · exact (h.trans (Device.reissued_cutTransfer _ core c _)).trans (Device.reissued_stopRun _ c _ _)
    · exact h

/-- Issuing what waits on a core changes no memory and puts no transfer into a bank. -/
theorem Device.reissued_reissueCore : d.Reissued (d.reissueCore core) := by
  unfold Device.reissueCore
  refine List.foldlRecOn _ _ (motive := d.Reissued) (.refl d) fun e he x _ => ?_
  split
  · exact List.foldlRecOn _ _ (motive := d.Reissued) he fun f hf t _ => hf.trans (f.reissued_reissue core _ t)
  · exact he

end

/-! ### The end of a transfer -/

/-- A transfer retired is in its bank no longer. -/
theorem Device.lacks_retire (d : Device) (core c id : Nat) {b : Bank} (hb : b.transfers = ((d.bank core c).retire id).transfers) :
    ∀ e : Device, (e.setBank core c b).lacks core c id := by
  intro e y hy
  rw [Device.bank_setBank, hb] at hy
  simpa using (List.mem_filter.1 hy).2

section
variable {d : Device} {core c : Nat} {t : Transfer} (hdone : t.lines.length ≤ t.done) (hcut : t.cut = false)
include hdone hcut

/-- A store whose last line has completed is over, and memory stands. -/
theorem Device.progress_store (hunit : t.unit = .store) :
    d.Reissued (d.progress core c t) ∧ (d.progress core c t).lacks core c t.id := by
  let e := d.setTransfer core c t
  let f := e.setBank core c ((e.bank core c).retire t.id)
  have hend : f.Reissued (e.complete core c t) := by
    have hcomplete : e.complete core c t = if t.kind = .ordered then f else f.chunkEnd t.far := by
      simp [Device.complete, hcut, hunit, f]
    rw [hcomplete]
    split
    · exact .refl f
    · unfold Device.chunkEnd
      split
      · exact ⟨rfl, rfl, fun _ _ _ hl => hl⟩
      · exact .refl f
  have hlast : (e.complete core c t).Reissued (d.progress core c t) := by
    rw [Device.progress, if_pos hdone]
    exact Device.reissued_reissueCore _ core
  refine ⟨(d.reissued_setTransfer core c t).trans ((e.reissued_retire core c t.id).trans (hend.trans hlast)), ?_⟩
  exact hlast.lacks _ _ _ (hend.lacks _ _ _ (e.lacks_retire core c t.id rfl e))

/-- A plain load without codec or row sums whose last line has completed puts its data into the Bench and is over. -/
theorem Device.progress_load (hunit : t.unit = .load) {tensor : Option (Nat × Nat × Nat)} (hkind : t.kind = .plain .none none tensor) :
    let e := d.progress core c t
    (∀ off, e.shareAddr c core off = d.shareAddr c core off) ∧
      e.mem = memWrite d.mem (d.shareAddr c core t.near) (t.data.take t.bytes) ∧ e.lacks core c t.id := by
  let e := d.setTransfer core c t
  let b := (e.bank core c).retire t.id
  let w := e.shareWrite c core t.near (t.data.take t.bytes)
  obtain ⟨b', hb', hcomplete⟩ : ∃ b' : Bank, b'.transfers = b.transfers ∧ e.complete core c t = w.setBank core c b' := by
    refine ⟨_, ?_, by simp [Device.complete, hcut, hunit, landLoad, walkLanded, hkind, codecDecode]; rfl⟩
    split <;> rfl
  have hlast : (w.setBank core c b').Reissued (d.progress core c t) := by
    rw [Device.progress, if_pos hdone, ← hcomplete]
    exact Device.reissued_reissueCore _ core
  exact ⟨fun off => hlast.shareAddr c core off, hlast.mem, hlast.lacks _ _ _ (e.lacks_retire core c t.id hb' w)⟩

end

/-! ### The obligation -/

/-- As many ticks are listed for the lines to come as have been issued and not completed. -/
theorem Transfer.issueTicks_length (t : Transfer) : t.issueTicks.length = t.sent - t.done := by
  simp [Transfer.issueTicks, Transfer.sent]

section
variable {d : Device} {core c id : Nat} {k : UnitKind} {x : Transfer}
  (hfind : ((d.bank core c).transfers.find? fun t => decide (t.id = id) && decide (t.unit = k)) = some x)
  (hdone : x.done = 0) (hsent : x.sent = x.lines.length)
include hfind hdone hsent

/-- More lines than are outstanding do not complete. -/
theorem transferComplete_over {n : Nat} (hn : x.lines.length < n) (ecc : Ecc) : transferComplete d core k c id n ecc = d := by
  have hlen : (((x.lines.drop x.done).take n).zip x.issueTicks).length < n := by
    rw [List.length_zip, Transfer.issueTicks_length, hdone, hsent]
    omega
  have hstop : (decide (n = 0) || decide ((((x.lines.drop x.done).take n).zip x.issueTicks).length < n) ||
      (k = .load && d.isOutbound x.far) || (decide (x.kind ≠ .ordered) && d.twinHeld x.far)) = true := by
    simp only [hlen, decide_true, Bool.or_true, Bool.true_or]
  simp only [transferComplete, hfind, hstop, if_true]

/-- All of them do, with clean codes and behind no peer's chunk. -/
theorem transferComplete_all (hpos : 0 < x.lines.length) (hout : (k = .load && d.isOutbound x.far) = false)
    (htwin : d.twinHeld x.far = false) :
    let r := linesDone core c (x.lines.zip x.issueTicks) d x
    transferComplete d core k c id x.lines.length .clean = r.1.progress core c r.2 := by
  have hlen : ¬ (x.lines.zip x.issueTicks).length < x.lines.length := by
    rw [List.length_zip, Transfer.issueTicks_length, hdone, hsent]
    omega
  have hgo : (decide (x.lines.length = 0) || decide ((x.lines.zip x.issueTicks).length < x.lines.length) ||
      (k = .load && d.isOutbound x.far) || (decide (x.kind ≠ .ordered) && d.twinHeld x.far)) = false := by
    simp only [hlen, Nat.ne_of_gt hpos, hout, htwin, decide_false, Bool.and_false, Bool.or_false]
  simp only [transferComplete, hfind, hdone, List.drop_zero, List.take_length, hgo, Bool.false_eq_true, if_false]
  rfl

end

/-- The lines of a plain load without codec. -/
theorem Transfer.lines_load {x : Transfer} (hunit : x.unit = .load) {sums : Option (Nat × Fmt)}
    {tensor : Option (Nat × Nat × Nat)} (hkind : x.kind = .plain .none sums tensor) (hcut : x.cut = false) :
    x.lines = (List.range' 0 (x.bytes / 64)).map (64 * ·) := by
  simp [Transfer.lines, Transfer.parts, partLines, codecLines, hunit, hkind, hcut, List.range_eq_range']

/-- The lines of a store. -/
theorem Transfer.lines_store {x : Transfer} (hunit : x.unit = .store) (hcut : x.cut = false) :
    x.lines = (List.range' 0 (ceilDiv x.data.length 64)).map (64 * ·) := by
  simp [Transfer.lines, hunit, hcut, List.range_eq_range']

/-- Settles O30: the lines read or write their bytes one after another, and with the last of them the transfer is over. -/
theorem transferLands : Obligations.TransferLands := by
  intro core k c id s x tensor hlive hfind hkind hdone hcut hsent hpos htwin all
  have hexec : ∀ n, exec (.transferComplete core k c id .clean n) s =
      .next { s with dev := transferComplete s.dev.begun core k c id n .clean } :=
    fun n => actLive_eq (fun d => transferComplete d core k c id n .clean) hlive
  obtain ⟨hid, hunit⟩ : x.id = id ∧ x.unit = k := by simpa using List.find?_some hfind
  have hbytes : x.lineBytes = 64 := if_neg (by rw [hkind]; exact TransferKind.noConfusion)
  have hticks : x.issueTicks.length = x.lines.length := by rw [Transfer.issueTicks_length, hsent, hdone, Nat.sub_zero]
  have hfirst : { x with done := 0 } = x := by rw [← hdone]
  refine ⟨fun n hn => ?_, fun hk hout hdata hmul => ?_, fun hk hout => ?_⟩
  · rw [hexec, transferComplete_over (d := s.dev.begun) hfind hdone hsent hn]
  · subst hk
    have hall := transferComplete_all (d := s.dev.begun) hfind hdone hsent hpos hout htwin
    have hlines := Transfer.lines_load hunit hkind hcut
    have hn : x.lines.length = x.bytes / 64 := by simp [hlines]
    obtain ⟨hmap, hmem, hx⟩ := linesDone_load (core := core) (c := c) (x := x) (by rw [hunit]; exact UnitKind.noConfusion) hbytes
      x.issueTicks 0 s.dev.begun 0 []
    have hstart : { x with data := [], done := 0 } = x := by rw [← hdata, ← hdone]
    rw [hticks, hn, ← hlines, hstart] at hmap hmem hx
    generalize linesDone core c (x.lines.zip x.issueTicks) s.dev.begun x = r at hall hmap hmem hx
    have hwhole : 64 * (x.bytes / 64) = x.bytes := by omega
    have hread : r.2.data = s.dev.rd x.far x.bytes := by simp [hx, hwhole, Device.rd]
    have hid' : r.2.id = id := by rw [hx]; exact hid
    have hnear : r.2.near = x.near ∧ r.2.bytes = x.bytes := by rw [hx]; exact ⟨rfl, rfl⟩
    have hend : r.2.lines.length ≤ r.2.done := by
      rw [Transfer.lines_load (by rw [hx]; exact hunit) (by rw [hx]; exact hkind) (by rw [hx]; exact hcut), hx]
      simp
    obtain ⟨haddr, hmem', hlacks⟩ := Device.progress_load (d := r.1) (core := core) (c := c) hend (by rw [hx]; exact hcut)
      (by rw [hx]; exact hunit) (by rw [hx]; exact hkind)
    rw [← hall] at haddr hmem' hlacks
    have hbase : r.1.shareAddr c core x.near = s.dev.shareAddr c core x.near := hmap.shareAddr c core x.near
    have hwritten : (transferComplete s.dev.begun core .load c id x.lines.length .clean).mem =
        memWrite s.dev.mem (s.dev.shareAddr c core x.near) (s.dev.rd x.far x.bytes) := by
      rw [hmem', hmem, hnear.1, hnear.2, hbase, hread, List.take_of_length_le (by simp [Device.rd])]
      rfl
    have hlen : (s.dev.rd x.far x.bytes).length = x.bytes := memRead_length _ _ _
    refine ⟨_, hexec _, fun y hy => hid' ▸ hlacks y hy, ?_, fun a ha => ?_⟩
    · rw [Device.shareRead, haddr, hbase, Device.rd, hwritten]
      calc memRead (memWrite s.dev.mem (s.dev.shareAddr c core x.near) (s.dev.rd x.far x.bytes)) _ x.bytes
          _ = memRead (memWrite s.dev.mem (s.dev.shareAddr c core x.near) (s.dev.rd x.far x.bytes)) _
              (s.dev.rd x.far x.bytes).length := by rw [hlen]
          _ = s.dev.rd x.far x.bytes := memRead_memWrite _ _ _
    · rw [hwritten]
      exact memByte_memWrite_out _ _ _ _ (by rwa [hlen])
  · subst hk
    have hall := transferComplete_all (d := s.dev.begun) hfind hdone hsent hpos rfl htwin
    have hlines := Transfer.lines_store hunit hcut
    have hn : x.lines.length = ceilDiv x.data.length 64 := by simp [hlines]
    obtain ⟨hmap, hmem, hx⟩ := linesDone_store (core := core) (c := c) hunit hbytes x.issueTicks s.dev.begun 0
      (by rw [hticks, hn, ← hlines]; exact hout)
    rw [hticks, hn, ← hlines, hfirst] at hmap hmem hx
    generalize linesDone core c (x.lines.zip x.issueTicks) s.dev.begun x = r at hall hmap hmem hx
    have hid' : r.2.id = id := by rw [hx]; exact hid
    have hend : r.2.lines.length ≤ r.2.done := by
      rw [Transfer.lines_store (by rw [hx]; exact hunit) (by rw [hx]; exact hcut), hx]
      simp
    obtain ⟨hlast, hlacks⟩ := Device.progress_store (d := r.1) (core := core) (c := c) hend (by rw [hx]; exact hcut)
      (by rw [hx]; exact hunit)
    rw [← hall] at hlast hlacks
    have hcover : x.data.length ≤ 64 * ceilDiv x.data.length 64 := by unfold ceilDiv; omega
    have hwritten : (transferComplete s.dev.begun core .store c id x.lines.length .clean).mem =
        memWrite s.dev.mem x.far x.data := by
      rw [hlast.mem, hmem, Nat.mul_zero, Nat.add_zero, List.drop_zero, List.take_of_length_le hcover]
      rfl
    refine ⟨_, hexec _, fun y hy => hid' ▸ hlacks y hy, ?_, fun a ha => ?_⟩
    · rw [Device.rd, hwritten, memRead_memWrite]
    · rw [hwritten]
      exact memByte_memWrite_out _ _ _ _ ha

end Sys2Proof.Machine

/-!
PROOF. The rings (O39 to O41): what leaves them as they are, what a port holds, and the turn of the copy engine.
-/

namespace Sys2Proof.Machine

/-! ### What leaves the rings of the tenancies as they are -/

/-- A ring is kept by what keeps the tenancies and the administrative ring. -/
theorem Device.ring_congr {d e : Device} (k : RingRef) (ht : e.tenancies = d.tenancies) (ha : e.admin = d.admin) :
    e.ring k = d.ring k := by
  cases k with
  | admin => exact ha
  | ring t r => simp only [Device.ring, Device.ten, ht]

section
variable (d : Device)

/-- A register recorded on a condition changes the registers alone. -/
theorem Device.recordIf_rings (c : Bool) (a : Nat) (v : Word) :
    (d.recordIf c a v).tenancies = d.tenancies ∧ (d.recordIf c a v).admin = d.admin := by
  unfold Device.recordIf
  split <;> exact ⟨rfl, rfl⟩

/-- A teardown begun keeps the rings. -/
theorem Device.tearDown_rings (c core : Nat) (status detail recorded : Byte) :
    (d.tearDown c core status detail recorded).tenancies = d.tenancies ∧
      (d.tearDown c core status detail recorded).admin = d.admin := by
  unfold Device.tearDown
  split
  · exact ⟨rfl, rfl⟩
  · exact ⟨rfl, rfl⟩
  · simp [Device.noteTeardown, Device.recordIf_rings]

theorem Device.noteUe_rings (a : Nat) : (d.noteUe a).tenancies = d.tenancies ∧ (d.noteUe a).admin = d.admin := by
  unfold Device.noteUe
  split <;> simp [Device.recordIf_rings]

/-- An uncorrectable word recorded keeps the rings. -/
theorem Device.memUe_rings (a : Nat) : (d.memUe a).tenancies = d.tenancies ∧ (d.memUe a).admin = d.admin := by
  have h := d.noteUe_rings a
  unfold Device.memUe
  split
  · split
    · next c _ =>
      obtain ⟨h1, h2⟩ := ((d.noteUe a).latch 9).tearDown_rings c _ St.eccUncorr 1 1
      exact ⟨h1.trans h.1, h2.trans h.2⟩
    · exact h
  · exact h

end

/-! ### Ports and turns (R188, R259) -/

/-- Whether a line waits at a port, by its class and its credit. -/
theorem Device.lineIssue_isNone (d : Device) (port owner a : Nat) : (d.lineIssue port owner a).isNone =
    (d.inMemory a 1 && match d.classKind (d.classOf a) with
      | 2 => !decide (creditLine ≤ d.credit (bucketKey port owner (d.classOf a)))
      | 1 => d.throttled a (d.classOf a) false ||
        (!decide (creditLine ≤ d.credit (bucketKey port owner (d.classOf a))) && d.throttled a (d.classOf a) true)
      | _ => d.throttled a (d.classOf a) false) := by
  unfold Device.lineIssue
  dsimp only
  repeat' split
  all_goals simp_all

theorem Device.begun_portHolds (d : Device) (p k) : d.begun.portHolds p k = d.portHolds p k := by
  rw [Device.portHolds, Device.portHolds, Device.lineIssue_isNone, Device.lineIssue_isNone]
  rfl

theorem Device.begun_wantsFetch (d : Device) (k : RingRef) : d.begun.wantsFetch k = d.wantsFetch k := by
  rw [Device.wantsFetch, Device.wantsFetch, Device.begun_portHolds]
  rfl

theorem Device.begun_wantsCopy (d : Device) (k : RingRef) : d.begun.wantsCopy k = d.wantsCopy k := by
  unfold Device.wantsCopy
  simp only [Device.begun_portHolds, Device.entryHeld]
  rfl

/-- A head is taken up whatever the answer and what is sent. -/
theorem Device.begun_takes {d : Device} {k : RingRef} {op : Nat} {x : QDesc} (h : d.takes k op x) : d.begun.takes k op x := by
  obtain ⟨hlive, hhead, hveto⟩ := h
  refine ⟨hlive, ?_, hveto⟩
  rw [← hhead]
  simp only [Device.headOf, Device.entryHeld, Device.begun_portHolds]
  rfl

/-- What a memory range is not: at a link, or at a twin's. -/
theorem Device.readDown_inMemory {d : Device} {a n : Nat} (h : d.inMemory a n = true) :
    d.readDown a = none ∧ ∀ pc l, d.region a ≠ .outbound pc l := by
  have hregion : ∀ pc l, d.region a ≠ .outbound pc l := by
    intro pc l hr
    simp [Device.inMemory, hr] at h
  have htwin : d.twinLinkOf a = none := by
    unfold Device.twinLinkOf
    split
    · next l hr => exact absurd hr (hregion _ l)
    · rfl
  exact ⟨by simp only [Device.readDown, Device.linkDown_inMemory h, htwin], hregion⟩

/-- A turn of the copy engine moves the arbiter alone. -/
theorem Device.engineTurn_eq {d g : Device} {k : RingRef} (h : d.engineTurn k = some g) :
    ∃ i, g = { d with arb := { d.arb with engine := i } } := by
  unfold Device.engineTurn at h
  split at h
  · split at h
    · exact ⟨_, (Option.some.inj h).symm⟩
    · cases h
  · cases h

end Sys2Proof.Machine

/-!
PROOF. DESCRIPTOR_FETCH (O39): what stops a ring, and what a fetched descriptor comes to.
-/

namespace Sys2Proof.Machine

/-! ### Notices (R268) -/

section
variable (d : Device)

@[simp] theorem Device.emitWrites_tenancies (pc : Pc) (a : Nat) (bs : List Byte) :
    (d.emitWrites pc a bs).tenancies = d.tenancies :=
  List.foldlRecOn _ _ (motive := fun e : Device => e.tenancies = d.tenancies) rfl fun _ he _ _ => he

/-- A write of the administrative ring keeps the tenancies. -/
theorem Device.ringWrite_admin_tenancies (a : Nat) (bs : List Byte) : (d.ringWrite .admin a bs).tenancies = d.tenancies := by
  unfold Device.ringWrite
  dsimp only [Device.ringLog]
  split
  · simp
  · exact Device.eq_of_offStores Device.tenancies (fun _ => rfl) (by simp)

/-- An entry put on the administrative ring keeps the tenancies. -/
theorem Device.putEntry_admin_tenancies (tags : List Byte) (status detail kind : Byte) (index : Half) (payload : List Byte) :
    (d.putEntry .admin tags status detail kind index payload).1.tenancies = d.tenancies := by
  unfold Device.putEntry
  dsimp only
  split
  · unfold Device.linkFailed
    split <;> rfl
  · split
    · rw [Device.ringWrite_admin_tenancies]
      rfl
    · rfl

theorem Device.signalAdmin_tenancies : d.signalAdmin.tenancies = d.tenancies := by
  unfold Device.signalAdmin
  dsimp only
  repeat' split
  all_goals rfl

/-- Notices written keep the tenancies. -/
theorem Device.flushNotices_tenancies (n : Nat) : (Device.flushNotices n d).tenancies = d.tenancies := by
  induction n generalizing d with
  | zero => rfl
  | succ n ih =>
    rw [Device.flushNotices]
    split
    · rfl
    · next x rest _ =>
      have hput := d.putEntry_admin_tenancies (0xFF :: 0xFF :: List.replicate 22 0) x.status x.detail 0x04 0xFFFFFFFF x.payload
      dsimp only
      split
      · rfl
      · split
        · rw [ih, Device.signalAdmin_tenancies]
          exact hput
        · exact hput

theorem Device.notice_tenancies (n : Notice) : (d.notice n).tenancies = d.tenancies :=
  Device.flushNotices_tenancies _ _

/-- A ring that runs is stopped by a fault, with its cause where it is a tenancy's, and keeps its count and its queue. -/
theorem Device.ringFault_stops (k : RingRef) (cause : Byte) (h : (d.ring k).state = .running) :
    ((d.ringFault k cause).ring k).state = .stopped ∧ ((d.ringFault k cause).ring k).sqHead = (d.ring k).sqHead ∧
      ((d.ringFault k cause).ring k).queued = (d.ring k).queued ∧
      (k ≠ .admin → ((d.ringFault k cause).ring k).cause = cause) := by
  cases k with
  | admin =>
    have hfault : d.ringFault .admin cause = d.adminFault := if_pos h
    rw [hfault]
    exact ⟨rfl, rfl, rfl, fun hk => absurd rfl hk⟩
  | ring t r =>
    let x : Ring := { d.ring (.ring t r) with state := .stopped, cause := cause }
    have hkept : (d.ringFault (.ring t r) cause).ring (.ring t r) = x := by
      have hring : ∀ e : Device, e.tenancies = (d.setRing (.ring t r) x).tenancies → e.ring (.ring t r) = x := fun e he => by
        rw [← d.ring_setRing (.ring t r) x]
        simp only [Device.ring, Device.ten, he]
      obtain ⟨n, hfault⟩ : ∃ n, d.ringFault (.ring t r) cause = ((d.setRing (.ring t r) x).orReg Reg.hifSticky 1).notice n :=
        ⟨_, if_neg (not_not.2 h)⟩
      apply hring
      rw [hfault, Device.notice_tenancies]
      rfl
    rw [hkept]
    exact ⟨rfl, rfl, rfl, fun _ => rfl⟩

end

/-! ### The fetch (R251) -/

section
variable {d : Device} {k : RingRef} {a : Nat} (ha : (d.ring k).fetchAt = a) (hm : d.inMemory a 64 = true)
  (hok : d.ringAddrOk k a 64 true false = true) (hon : d.addrOff a = false)
include ha hm hok hon

/-- A descriptor in memory that can be read is queued. -/
theorem Device.fetch_clean : d.fetch k .clean = (d.charge 28 a 64 false).enqueue k (d.coRead a 64) := by
  obtain ⟨hd, hr⟩ := Device.readDown_inMemory hm
  simp only [Device.fetch, ha, hd, hok, hon, Bool.not_true, Bool.or_false, Bool.false_eq_true, if_false]
  rfl

/-- An uncorrectable word of it stops the ring. -/
theorem Device.fetch_uncorrectable (i : Nat) :
    d.fetch k (.uncorrectable i) = ((d.charge 28 a 64 false).memUe (a + i)).ringFault k 0x04 := by
  obtain ⟨hd, hr⟩ := Device.readDown_inMemory hm
  simp only [Device.fetch, ha, hd, hok, hon, Bool.not_true, Bool.or_false, Bool.false_eq_true, if_false]
  rfl

end

/-- A descriptor whose count is its ring's is queued where its entries are free. -/
theorem Device.enqueue_fits {d : Device} {k : RingRef} {raw : List Byte} {n : Nat} (hmay : d.mayFetch k = true)
    (hcount : fieldAt raw 0x1C 4 = (d.ring k).sqHead.toNat)
    (hn : d.entriesFor k { index := (d.ring k).sqHead, raw := raw, reserved := 1 } = some n) :
    d.enqueue k raw = if (d.ring k).free < n then d else
      Device.settleHead queueMax (d.setRing k { d.ring k with
        sqHead := (d.ring k).sqHead + 1
        queued := (d.ring k).queued ++ [{ index := (d.ring k).sqHead, raw := raw, reserved := n }] }) k := by
  simp only [Device.enqueue, hmay, hcount, hn, Bool.not_true, Bool.false_eq_true, if_false, ne_eq, not_true_eq_false]

/-- One with another count stops its ring. -/
theorem Device.enqueue_miscounted {d : Device} {k : RingRef} {raw : List Byte} (hmay : d.mayFetch k = true)
    (hcount : fieldAt raw 0x1C 4 ≠ (d.ring k).sqHead.toNat) : d.enqueue k raw = d.ringFault k 0x03 := by
  simp [Device.enqueue, hmay, hcount]

/-- Settles O39: a fetch reads the descriptor through port 28, which leaves its ring as it was, and then queues it or stops the
ring. -/
theorem descriptorFetches : Obligations.DescriptorFetches := by
  intro k s hlive d r
  have hexec : ∀ e, exec (.descriptorFetch k e) s = .next { s with dev := descriptorFetch d k e } :=
    fun e => actLive_eq (fun x => descriptorFetch x k e) hlive
  refine ⟨fun hno e => ?_, ?_, fun y hy hopen => ?_⟩
  · rw [hexec]
    obtain hno | hno := hno
    · simp [descriptorFetch, d, Device.begun_wantsFetch, hno]
    · simp [descriptorFetch, hno]
  · intro g hwant hturn hm hok hon m raw x stopped
    have hfetch : ∀ e, descriptorFetch d k e = g.fetch k e := fun e => by
      simp only [descriptorFetch, hturn]
      simp [d, Device.begun_wantsFetch, hwant]
    obtain ⟨i, hg⟩ := Device.engineTurn_eq hturn
    have hgr : g.ring k = r := by rw [hg]; rfl
    have hmg : g.inMemory r.fetchAt 64 = true := by rw [hg]; exact hm
    have hokg : g.ringAddrOk k r.fetchAt 64 true false = true := by rw [hg]; exact hok
    have hong : g.addrOff r.fetchAt = false := by rw [hg]; exact hon
    have hm' : m.offStores = g.offStores := Device.offStores_charge _ _ _ _ _
    have hring : m.ring k = r := (Device.eq_of_offStores (·.ring k) (fun _ => rfl) hm').trans hgr
    have hmay : s.dev.mayFetch k = true := by
      simp only [Device.wantsFetch, Device.canFetch, Bool.and_eq_true] at hwant
      exact hwant.1.1.1.1.1
    have hmay' : m.mayFetch k = true :=
      ((Device.eq_of_offStores (·.mayFetch k) (fun _ => rfl) hm').trans (by rw [hg]; rfl)).trans hmay
    have hrun : (m.ring k).state = .running := by
      simp only [Device.mayFetch, Bool.and_eq_true, decide_eq_true_eq] at hmay'
      exact hmay'.1
    have hclean : g.fetch k .clean = m.enqueue k raw := by
      have hbytes : g.coRead r.fetchAt 64 = raw := Device.SameBytes.coRead (d := s.dev) (by subst hg; exact ⟨rfl, rfl⟩) _ _
      rw [← hbytes]
      exact Device.fetch_clean (by rw [hgr]) hmg hokg hong
    refine ⟨fun n => ?_, fun hcount => ?_, fun hcount n hn => ?_⟩
    · have hue : g.fetch k (.uncorrectable n) = (m.memUe (r.fetchAt + n)).ringFault k 0x04 :=
        Device.fetch_uncorrectable (by rw [hgr]) hmg hokg hong n
      obtain ⟨hten, hadmin⟩ := m.memUe_rings (r.fetchAt + n)
      have hsame := Device.ring_congr k hten hadmin
      have hstop := Device.ringFault_stops (m.memUe (r.fetchAt + n)) k 0x04 (by rw [hsame]; exact hrun)
      rw [hsame, hring] at hstop
      exact ⟨_, by rw [hexec, hfetch, hue], hstop⟩
    · have hstop := Device.ringFault_stops m k 0x03 hrun
      rw [hring] at hstop
      exact ⟨_, by rw [hexec, hfetch, hclean, Device.enqueue_miscounted hmay' (by rw [hring]; exact hcount)], hstop⟩
    · have hentries : m.entriesFor k x = some n :=
        ((Device.eq_of_offStores (·.entriesFor k x) (fun _ => rfl) hm').trans (by rw [hg]; rfl)).trans hn
      have hqueue := Device.enqueue_fits hmay' (raw := raw) (by rw [hring]; exact hcount) (by rw [hring]; exact hentries)
      rw [hring] at hqueue
      refine ⟨fun hfree => ?_, fun hfree => ?_⟩
      · rw [hexec, hfetch, hclean, hqueue, if_neg (Nat.not_lt.2 hfree)]
      · rw [hexec, hfetch, hclean, hqueue, if_pos hfree]
  · obtain ⟨rest, hq, -⟩ := Device.takes_queued hy
    have hnop : exec (.nop k) s = .next { s with dev := d.onHead k 0 fun e _ => e.finish k St.ok 0 0 } :=
      actLive_eq (fun x => x.onHead k 0 fun e _ => e.finish k St.ok 0 0) hlive
    rw [hnop, Device.onHead_takes (Device.begun_takes hy), Device.finish_eq (d := d) St.ok 0 0 hopen hq]

end Sys2Proof.Machine

/-!
PROOF. Coherent bytes (O40): the newest value of a byte, what lines given up by the host caches leave in memory, and what coherent
writes and moves come to.
-/

namespace Sys2Proof.Machine

/-! ### The newest value of a byte (R288) -/

/-- The value of a byte whose line a host cache may hold. -/
def heldByte (h : Option HostLine) (a : Nat) (b : Byte) : Byte :=
  match h with
  | some h => if h.dirty.isSome then (h.data.take 64).getD (a % 64) b else b
  | none => b

/-- The newest value of a byte: that of its line in a host cache where it has been changed there, else memory's. -/
def Device.coByte (d : Device) (a : Nat) : Byte := heldByte (tget d.hostCache (a / 64)) a (memByte d.mem a)

/-- A byte of a range just written, or of memory outside it. -/
theorem memByte_memWrite (m : List Host.Cell) (a : Nat) (bs : List Byte) (x : Nat) :
    memByte (memWrite m a bs) x = if a ≤ x then bs.getD (x - a) (memByte m x) else memByte m x := by
  split
  · next hax =>
    obtain ⟨i, rfl⟩ := Nat.exists_eq_add_of_le hax
    rw [Nat.add_sub_cancel_left]
    by_cases hi : i < bs.length
    · rw [memByte_memWrite_in m a bs i hi, List.getD_eq_getElem _ _ hi]
    · rw [memByte_memWrite_out m a bs _ (by omega), List.getD_eq_default _ _ (by omega)]
  · exact memByte_memWrite_out m a bs x (by omega)

/-- Bytes of memory, one by one. -/
theorem memRead_eq_map (m : List Host.Cell) (a n : Nat) : memRead m a n = (List.range n).map fun i => memByte m (a + i) := by
  induction n generalizing a with
  | zero => rfl
  | succ n ih =>
    rw [memRead, ih, List.range_succ_eq_map, List.map_cons, List.map_map]
    simp [Function.comp_def, Nat.add_assoc, Nat.add_comm 1]

/-! ### Lines given up -/

/-- The numbers of the lines that a range touches. -/
def lineNums (a n : Nat) : List Nat := if n = 0 then [] else (List.range ((a + n - 1) / 64 + 1 - a / 64)).map (a / 64 + ·)

theorem lineAddrs_eq_map (a n : Nat) : lineAddrs a n = (lineNums a n).map (64 * ·) := by
  unfold lineAddrs lineNums
  split
  · rfl
  · simp

theorem mem_lineNums {a n l : Nat} : l ∈ lineNums a n ↔ 0 < n ∧ a / 64 ≤ l ∧ l ≤ (a + n - 1) / 64 := by
  unfold lineNums
  split
  · next h => simp [h]
  · next h =>
    simp only [List.mem_map, List.mem_range]
    constructor
    · rintro ⟨i, hi, rfl⟩
      omega
    · rintro ⟨-, h1, h2⟩
      exact ⟨l - a / 64, by omega, by omega⟩

/-- A byte of a range is in a line of it. -/
theorem div_mem_lineNums {a n x : Nat} (h : a ≤ x) (h' : x < a + n) : x / 64 ∈ lineNums a n :=
  mem_lineNums.2 ⟨by omega, Nat.div_le_div_right h, Nat.div_le_div_right (by omega)⟩

/-- The lines of a range are those of its pieces. -/
theorem mem_lineNums_add {a n k l : Nat} :
    l ∈ lineNums a (n + k) ↔ l ∈ lineNums a n ∨ l ∈ lineNums (a + n) k := by
  simp only [mem_lineNums]
  omega

section
variable (d : Device)

/-- A line given up leaves its newest bytes in memory, and no cache holds it. -/
theorem Device.dropLine_bytes (l : Nat) :
    (∀ x, memByte (d.dropLine (64 * l)).mem x = if x / 64 = l then d.coByte x else memByte d.mem x) ∧
      ∀ k, tget (d.dropLine (64 * l)).hostCache k = if k = l then none else tget d.hostCache k := by
  have hl : 64 * l / 64 = l := by omega
  have hdel : ∀ k, tget (tdel d.hostCache l) k = if k = l then none else tget d.hostCache k := fun k => by
    split
    · next h => rw [h, tget_tdel_self]
    · next h => exact tget_tdel_ne _ h
  unfold Device.dropLine
  rw [hl]
  split
  · next h hget =>
    cases hd : h.dirty with
    | none =>
      refine ⟨fun x => ?_, hdel⟩
      have hx : memByte d.mem x = if x / 64 = l then d.coByte x else memByte d.mem x := by
        split
        · next hx => simp [Device.coByte, hx, hget, heldByte, hd]
        · rfl
      exact hx
    | some c =>
      refine ⟨fun x => ?_, hdel⟩
      have hx : memByte (memWrite d.mem (64 * l) (h.data.take 64)) x = if x / 64 = l then d.coByte x else memByte d.mem x := by
        split
        · next hx =>
          have hoff : x - 64 * l = x % 64 := by omega
          rw [memByte_memWrite, if_pos (by omega), hoff]
          simp [Device.coByte, hx, hget, heldByte, hd]
        · next hx =>
          have hlen : (h.data.take 64).length ≤ 64 := by simp
          exact memByte_memWrite_out _ _ _ _ (by omega)
      exact hx
  · next hget =>
    refine ⟨fun x => ?_, fun k => ?_⟩
    · split
      · next hx => rw [Device.coByte, hx, hget, heldByte]
      · rfl
    · split
      · next hk => rw [hk, hget]
      · rfl

/-- A byte held in no line of a host cache, and one whose line and byte are another device's. -/
theorem Device.coByte_of_none {x : Nat} (h : tget d.hostCache (x / 64) = none) : d.coByte x = memByte d.mem x := by
  rw [Device.coByte, h, heldByte]

theorem Device.coByte_congr {d e : Device} {x : Nat} (hc : tget e.hostCache (x / 64) = tget d.hostCache (x / 64))
    (hm : memByte e.mem x = memByte d.mem x) : e.coByte x = d.coByte x := by
  rw [Device.coByte, Device.coByte, hc, hm]

/-- A line given up leaves the newest value of every byte. -/
theorem Device.coByte_dropLine (l x : Nat) : (d.dropLine (64 * l)).coByte x = d.coByte x := by
  obtain ⟨hm, hc⟩ := d.dropLine_bytes l
  by_cases h : x / 64 = l
  · rw [Device.coByte_of_none _ (by rw [hc, if_pos h]), hm, if_pos h]
  · exact Device.coByte_congr (by rw [hc, if_neg h]) (by rw [hm, if_neg h])

/-- Lines given up one after another leave their newest bytes in memory, and no cache holds them. -/
theorem Device.foldDrop_bytes (ls : List Nat) :
    let e := (ls.map (64 * ·)).foldl (fun d l => d.dropLine l) d
    (∀ x, memByte e.mem x = if x / 64 ∈ ls then d.coByte x else memByte d.mem x) ∧
      ∀ k, tget e.hostCache k = if k ∈ ls then none else tget d.hostCache k := by
  induction ls generalizing d with
  | nil => exact ⟨fun _ => rfl, fun _ => rfl⟩
  | cons l ls ih =>
    obtain ⟨hm, hc⟩ := d.dropLine_bytes l
    obtain ⟨hm', hc'⟩ := ih (d.dropLine (64 * l))
    refine ⟨fun x => (hm' x).trans ?_, fun k => (hc' k).trans ?_⟩
    · rw [d.coByte_dropLine, hm]
      by_cases h : x / 64 = l <;> simp [h]
    · rw [hc]
      by_cases h : k = l <;> simp [h]

/-- The lines of a range given up. -/
theorem Device.dropLines_bytes (a n : Nat) :
    (∀ x, memByte (d.dropLines a n).mem x = if x / 64 ∈ lineNums a n then d.coByte x else memByte d.mem x) ∧
      ∀ k, tget (d.dropLines a n).hostCache k = if k ∈ lineNums a n then none else tget d.hostCache k := by
  rw [Device.dropLines, lineAddrs_eq_map]
  exact d.foldDrop_bytes _

/-- A coherent read gives the newest value of each byte. -/
theorem Device.coRead_eq_map (a n : Nat) : d.coRead a n = (List.range n).map fun i => d.coByte (a + i) := by
  rw [Device.coRead, Device.rd, memRead_eq_map]
  refine List.map_congr_left fun i hi => ?_
  rw [(d.dropLines_bytes a n).1, if_pos (div_mem_lineNums (by omega) (by have := List.mem_range.1 hi; omega))]

/-! ### Moves of bytes (R258, R288) -/

/-- What a coherent move of bytes from one range to another comes to. -/
structure Device.Moved (d e : Device) (src dst n : Nat) : Prop where
  off : e.offStores = d.offStores
  mem : ∀ x, memByte e.mem x =
    if dst ≤ x ∧ x < dst + n then d.coByte (src + (x - dst)) else if x / 64 ∈ lineNums dst n then d.coByte x else memByte d.mem x
  cache : ∀ k, tget e.hostCache k = if k ∈ lineNums dst n then none else tget d.hostCache k

end

namespace Device.Moved

variable {d e f : Device} {src dst n k : Nat}

/-- No byte moved. -/
theorem refl (d : Device) (src dst : Nat) : d.Moved d src dst 0 :=
  ⟨rfl, fun x => by simp [lineNums, show ¬ (dst ≤ x ∧ x < dst) by omega], fun k => by simp [lineNums]⟩

/-- The newest value of a byte after a move. -/
theorem coByte (h : d.Moved e src dst n) (x : Nat) :
    e.coByte x = if dst ≤ x ∧ x < dst + n then d.coByte (src + (x - dst)) else d.coByte x := by
  by_cases hl : x / 64 ∈ lineNums dst n
  · rw [Device.coByte_of_none _ (by rw [h.cache, if_pos hl]), h.mem, if_pos hl]
  · have hx : ¬ (dst ≤ x ∧ x < dst + n) := fun hx => hl (div_mem_lineNums hx.1 hx.2)
    rw [if_neg hx]
    exact Device.coByte_congr (by rw [h.cache, if_neg hl]) (by rw [h.mem, if_neg hx, if_neg hl])

/-- Two moves one after another, whose first does not write what the second reads. -/
theorem trans (h : d.Moved e src dst n) (h' : e.Moved f (src + n) (dst + n) k)
    (hsep : ∀ i < k, ¬ (dst ≤ src + n + i ∧ src + n + i < dst + n)) : d.Moved f src dst (n + k) := by
  refine ⟨h'.off.trans h.off, fun x => ?_, fun l => ?_⟩
  · rw [h'.mem]
    by_cases hnew : dst + n ≤ x ∧ x < dst + n + k
    · have hfrom : src + n + (x - (dst + n)) = src + (x - dst) := by omega
      have hkept := hsep (x - (dst + n)) (by omega)
      rw [if_pos hnew, h.coByte, if_neg hkept, hfrom, if_pos (by omega)]
    · rw [if_neg hnew, h.coByte, h.mem]
      simp only [mem_lineNums_add]
      by_cases hold : dst ≤ x ∧ x < dst + n
      · simp only [if_pos hold, ite_self, if_pos (show dst ≤ x ∧ x < dst + (n + k) by omega)]
      · simp only [if_neg hold, if_neg (show ¬ (dst ≤ x ∧ x < dst + (n + k)) by omega)]
        by_cases h1 : x / 64 ∈ lineNums dst n <;> by_cases h2 : x / 64 ∈ lineNums (dst + n) k <;> simp [h1, h2]
  · rw [h'.cache, h.cache]
    simp only [mem_lineNums_add]
    by_cases h1 : l ∈ lineNums dst n <;> by_cases h2 : l ∈ lineNums (dst + n) k <;> simp [h1, h2]

end Device.Moved

/-- A coherent write of what was read coherently is a move. -/
theorem Device.moved_coWrite {d e : Device} (hoff : e.offStores = d.offStores) (hbytes : d.SameBytes e) (src dst n : Nat) :
    d.Moved (e.coWrite dst (d.coRead src n)) src dst n := by
  have hlen : (d.coRead src n).length = n := by simp [Device.coRead_eq_map]
  have hlines := d.dropLines_bytes dst n
  have hsame := hbytes.dropLines dst n
  refine ⟨(e.offStores_coWrite _ _).trans hoff, fun x => ?_, fun k => ?_⟩
  · have hmem : (e.coWrite dst (d.coRead src n)).mem = memWrite (e.dropLines dst n).mem dst (d.coRead src n) := by
      simp only [Device.coWrite, hlen]
      rfl
    rw [hmem, hsame.mem]
    by_cases hx : dst ≤ x ∧ x < dst + n
    · obtain ⟨i, rfl⟩ := Nat.exists_eq_add_of_le hx.1
      rw [if_pos hx, memByte_memWrite_in _ _ _ i (by omega), Nat.add_sub_cancel_left]
      simp [Device.coRead_eq_map]
    · rw [if_neg hx, memByte_memWrite_out _ _ _ _ (by omega), hlines.1]
  · have hcache : (e.coWrite dst (d.coRead src n)).hostCache = (e.dropLines dst n).hostCache := by
      simp only [Device.coWrite, hlen]
      rfl
    rw [hcache, hsame.cache, hlines.2]

/-- What has been moved: the destination holds the source's newest bytes, and elsewhere the lines of the destination have been given
up. -/
theorem Device.Moved.bytes {d e : Device} {src dst n : Nat} (h : d.Moved e src dst n) :
    e.rd dst n = d.coRead src n ∧
      ∀ a, (a < dst ∨ dst + n ≤ a) → memByte e.mem a = memByte (d.dropLines dst n).mem a := by
  refine ⟨?_, fun a ha => ?_⟩
  · rw [Device.rd, memRead_eq_map, Device.coRead_eq_map]
    refine List.map_congr_left fun i hi => ?_
    rw [h.mem, if_pos (by have := List.mem_range.1 hi; omega), Nat.add_sub_cancel_left]
  · rw [h.mem, if_neg (by omega), (d.dropLines_bytes dst n).1]

end Sys2Proof.Machine

/-!
PROOF. COPY and COPY_COMPLETE (O40): the lines of a chunk moved one after another, and what an uncorrectable word leaves of them.
-/

namespace Sys2Proof.Machine

/-! ### What stands after a line, or a record of an uncorrectable word -/

/-- A range in the DDR or the Quarry is at no twin. -/
theorem Device.twinLinkOf_inMemory {d : Device} {a n : Nat} (h : d.inMemory a n = true) : d.twinLinkOf a = none := by
  obtain ⟨-, hr⟩ := Device.readDown_inMemory h
  unfold Device.twinLinkOf
  split
  · next l hl => exact absurd hl (hr _ l)
  · rfl

theorem Device.isOutbound_inMemory {d : Device} {a n : Nat} (h : d.inMemory a n = true) : d.isOutbound a = false := by
  obtain ⟨-, hr⟩ := Device.readDown_inMemory h
  unfold Device.isOutbound
  split
  · next pc l hl => exact absurd hl (hr pc l)
  · rfl

/-- An entry that can be written can be whatever the stores. -/
theorem Device.entryOpen_of_offStores {d e : Device} {k : RingRef} (h : e.offStores = d.offStores) (ho : d.entryOpen k) :
    e.entryOpen k := by
  rwa [Device.eq_of_offStores (·.entryOpen k) (fun _ => rfl) h]

/-- The device with other registers, those from the unit registers of the safety island on as they were. -/
structure Device.LowRegs (d e : Device) : Prop where
  only : ∃ r, e = { d with regs := r }
  high : ∀ x, 0xe00040 ≤ x → e.reg x = d.reg x

namespace Device.LowRegs

variable {d e : Device}

theorem refl (d : Device) : d.LowRegs d := ⟨⟨d.regs, rfl⟩, fun _ _ => rfl⟩

theorem setReg (h : d.LowRegs e) {a : Nat} (ha : a < 0xe00040) (v : Word) : d.LowRegs (e.setReg a v) := by
  obtain ⟨⟨r, rfl⟩, hr⟩ := h
  exact ⟨⟨_, rfl⟩, fun x hx => (Device.reg_setReg_ne _ v (by omega)).trans (hr x hx)⟩

theorem recordIf (h : d.LowRegs e) (c : Bool) {a : Nat} (ha : a < 0xe00040) (v : Word) : d.LowRegs (e.recordIf c a v) := by
  unfold Device.recordIf
  split
  · exact h.setReg ha v
  · exact h

theorem orReg (h : d.LowRegs e) {a : Nat} (ha : a < 0xe00040) (m : Nat) : d.LowRegs (e.orReg a m) := h.setReg ha _

theorem addrOff (h : d.LowRegs e) (a : Nat) : e.addrOff a = d.addrOff a := by
  have hunit : e.unitOfAddr a = d.unitOfAddr a := by
    obtain ⟨⟨r, rfl⟩, -⟩ := h
    rfl
  have hsafety : e.safety = d.safety := by
    obtain ⟨⟨r, rfl⟩, -⟩ := h
    rfl
  unfold Device.addrOff
  rw [hunit, hsafety]
  split
  · simp only [Device.unitOff, Device.regBit]
    rw [h.high _ (by unfold Reg.safUnitOff; omega)]
  · rfl

theorem entryOpen (h : d.LowRegs e) {k : RingRef} (ho : d.entryOpen k) : e.entryOpen k := by
  obtain ⟨hs, hm, hr, hoff, hl⟩ := ho
  have haddr := h.addrOff
  obtain ⟨⟨r, rfl⟩, -⟩ := h
  exact ⟨hs, hm, hr, (haddr _).trans hoff, hl⟩

end Device.LowRegs

/-- An uncorrectable word recorded changes registers alone. -/
theorem Device.noteUe_lowRegs (d : Device) (a : Nat) : d.LowRegs (d.noteUe a) := by
  have hrecord : ∀ {e : Device}, d.LowRegs e → d.LowRegs (e.latch 9) := fun h => h.orReg (by decide) _
  unfold Device.noteUe
  split
  · exact hrecord ((((Device.LowRegs.refl d).recordIf _ (by decide) _).recordIf _ (by decide) _).orReg (by decide) _)
  · exact hrecord ((((Device.LowRegs.refl d).recordIf _ (by decide) _).recordIf _ (by decide) _).orReg (by decide) _)
  · exact hrecord (.refl d)
  · exact .refl d

/-- One of the DDR or the Quarry tears no context down. -/
theorem Device.memUe_lowRegs {d : Device} {a : Nat} (h : ∀ core, d.region a ≠ .bench core) : d.LowRegs (d.memUe a) := by
  unfold Device.memUe
  split
  · next core hr => exact absurd hr (h core)
  · exact d.noteUe_lowRegs a

/-! ### A line of a copy (R258) -/

/-- A line in memory, in a class that a port lets through at once. -/
theorem Device.lineIssue_open {d : Device} {a : Nat} (h : d.openLine a) (port owner : Nat) :
    d.lineIssue port owner a = some (false, d) := by
  obtain ⟨hm, hk, ht⟩ := h
  simp [Device.lineIssue, hm, hk, ht]

theorem Device.portHolds_open {d : Device} {a : Nat} (h : d.openLine a) (port : Nat) : d.portHolds port a = false := by
  rw [Device.portHolds, Device.lineIssue_open h]
  rfl

/-- What a line of a copy needs to move: both ends in memory, let through by port 28, and open to their accesses. -/
structure CopyLine (d : Device) (k : RingRef) (j : CopyJob) (m w : Nat) : Prop where
  src : d.openLine (j.src + m)
  dst : d.openLine (j.dst + m)
  reads : d.descVeto k (j.src + m) w true false = none
  writes : d.descVeto k (j.dst + m) w false true = none

/-- A line can move whatever the stores. -/
theorem CopyLine.of_offStores {d e : Device} {k : RingRef} {j : CopyJob} {m w : Nat} (h : e.offStores = d.offStores)
    (hl : CopyLine d k j m w) : CopyLine e k j m w := by
  have hopen : ∀ a, e.openLine a = d.openLine a := fun a => Device.eq_of_offStores (·.openLine a) (fun _ => rfl) h
  have hveto : ∀ a n r v, e.descVeto k a n r v = d.descVeto k a n r v := fun a n r v =>
    Device.eq_of_offStores (·.descVeto k a n r v) (fun _ => rfl) h
  exact ⟨hopen _ ▸ hl.src, hopen _ ▸ hl.dst, (hveto _ _ _ _).trans hl.reads, (hveto _ _ _ _).trans hl.writes⟩

section
variable {d : Device} {k : RingRef} {j : CopyJob} {bad : Option Nat} {m w : Nat} (hw : w = min 64 (j.len - m)) (hpos : 0 < w)
  (hline : CopyLine d k j m w)
include hw hpos hline

/-- The line of an uncorrectable word ends the copy. -/
theorem copyLines_bad {i : Nat} (hbad : bad = some i) (hi : m ≤ i ∧ i < m + w) (n : Nat) (got : List Byte) :
    copyLines k j bad (n + 1) d m got = (d.memUe (j.src + i), m, some (St.eccUncorr, d.eccDetail (j.src + m))) := by
  have hlink := Device.isOutbound_inMemory hline.src.1
  have htwin : d.twinHeld (j.dst + m) = false := by rw [Device.twinHeld, Device.twinLinkOf_inMemory hline.dst.1]
  have hveto : d.copyLineVeto k j m w = none := by rw [Device.copyLineVeto, hline.reads, hline.writes]
  simp only [copyLines, ← hw, hlink, hveto, htwin, Device.lineIssue_open hline.src, Device.portHolds_open hline.dst, hbad]
  simp [Nat.ne_of_gt hpos, hi]

/-- Any other line moves. -/
theorem copyLines_line (hlog : ∀ t r, k = .ring t r → (d.ten t).log = none)
    (hbad : ∀ i, bad = some i → ¬ (m ≤ i ∧ i < m + w)) (n : Nat) (got : List Byte) :
    ∃ e, d.Moved e (j.src + m) (j.dst + m) w ∧
      copyLines k j bad (n + 1) d m got = copyLines k j bad n e (m + w) (got.drop w) := by
  have hlink := Device.isOutbound_inMemory hline.src.1
  have htwin : d.twinHeld (j.dst + m) = false := by rw [Device.twinHeld, Device.twinLinkOf_inMemory hline.dst.1]
  have hveto : d.copyLineVeto k j m w = none := by rw [Device.copyLineVeto, hline.reads, hline.writes]
  have hgood : (bad.any fun i => decide (m ≤ i) && decide (i < m + w)) = false := by
    cases bad with
    | none => rfl
    | some i => simpa using hbad i rfl
  have hserve := d.offStores_serve (j.src + m) w false
  have hput := Device.ringWrite_inMemory (d := d.serve (j.src + m) w false) (k := k) (d.coRead (j.src + m) w)
    ((Device.eq_of_offStores (·.inMemory (j.dst + m) 1) (fun _ => rfl) hserve).trans hline.dst.1)
    (fun t r hk => (Device.eq_of_offStores (fun x => (x.ten t).log) (fun _ => rfl) hserve).trans (hlog t r hk))
  have hmove := Device.moved_coWrite (d := d)
    (e := (d.serve (j.src + m) w false).charge 28 (j.dst + m) (d.coRead (j.src + m) w).length true)
    ((Device.offStores_charge _ _ _ _ _).trans hserve) ⟨by simp, by simp⟩ (j.src + m) (j.dst + m) w
  rw [← hput] at hmove
  generalize he : (d.serve (j.src + m) w false).ringWrite k (j.dst + m) (d.coRead (j.src + m) w) = e at hmove
  have hend : e.chunkEnd (j.dst + m) = e := by
    have htwin' : e.twinLinkOf (j.dst + m) = none :=
      (Device.eq_of_offStores (·.twinLinkOf (j.dst + m)) (fun _ => rfl) hmove.off).trans
        (Device.twinLinkOf_inMemory hline.dst.1)
    rw [Device.chunkEnd, htwin']
  refine ⟨e, hmove, ?_⟩
  simp only [copyLines, ← hw, hlink, hveto, htwin, Device.lineIssue_open hline.src, Device.portHolds_open hline.dst, hgood]
  simp [Nat.ne_of_gt hpos, he, hend]

end

/-! ### The lines of a chunk (R259) -/

/-- The first `n` bytes of a copy's lines move, none of them of an uncorrectable word: whole lines, or the rest of the copy. -/
theorem copyLines_first {k : RingRef} {j : CopyJob} {bad : Option Nat} (hsep : j.src + j.len ≤ j.dst ∨ j.dst + j.len ≤ j.src)
    (more : Nat) : ∀ (fuel : Nat) {d : Device} {m n : Nat} (got : List Byte), fuel = ceilDiv n 64 → m + n ≤ j.len →
      (m + n = j.len ∨ n % 64 = 0) → (∀ o < n, o % 64 = 0 → CopyLine d k j (m + o) (min 64 (j.len - (m + o)))) →
      (∀ t r, k = .ring t r → (d.ten t).log = none) → (∀ i, bad = some i → ¬ (m ≤ i ∧ i < m + n)) →
      ∃ e, d.Moved e (j.src + m) (j.dst + m) n ∧
        copyLines k j bad (fuel + more) d m got = copyLines k j bad more e (m + n) (got.drop n) := by
  intro fuel
  induction fuel with
  | zero =>
    intro d m n got hfuel _ _ _ _ _
    have hn : n = 0 := by unfold ceilDiv at hfuel; omega
    subst hn
    exact ⟨d, .refl d _ _, by simp⟩
  | succ fuel ih =>
    intro d m n got hfuel hlen hwhole hlines hlog hbad
    have hn : 0 < n := by unfold ceilDiv at hfuel; omega
    have hw : min 64 n = min 64 (j.len - m) := by omega
    obtain ⟨e, hmove, hstep⟩ := copyLines_line (n := fuel + more) (got := got) hw (by omega)
      (hw.symm ▸ hlines 0 hn rfl) hlog (fun i hi hin => hbad i hi (by omega))
    generalize hwn : min 64 n = w at hmove hstep
    have hrest : fuel = ceilDiv (n - w) 64 := by unfold ceilDiv at hfuel ⊢; omega
    have hoff := hmove.off
    obtain ⟨f, hmove', hstep'⟩ := ih (d := e) (m := m + w) (n := n - w) (got.drop w) hrest (by omega) (by omega)
      (fun o ho hmul => by
        have hnext := hlines (w + o) (by omega) (by omega)
        rw [← Nat.add_assoc] at hnext
        exact hnext.of_offStores hoff)
      (fun t r hk => (Device.eq_of_offStores (fun x => (x.ten t).log) (fun _ => rfl) hoff).trans (hlog t r hk))
      (fun i hi hin => hbad i hi (by omega))
    have hsum : w + (n - w) = n := by omega
    rw [← Nat.add_assoc, ← Nat.add_assoc] at hmove'
    refine ⟨f, ?_, ?_⟩
    · rw [← hsum]
      exact hmove.trans hmove' fun i hi => by omega
    · rw [Nat.succ_add, hstep, hstep', List.drop_drop, Nat.add_assoc, hsum]

/-- The shape of a copy that the device performs: its ends are apart, and they are of whole lines or of a size of an ordered access
and aligned to it. -/
theorem copyShape_none {src dst len : Nat} {ordered : Bool} (h : copyShape src dst len ordered = none) :
    (src + len ≤ dst ∨ dst + len ≤ src) ∧
      ((orderedSize len = true ∧ src % len = 0) ∨ (len % 64 = 0 ∧ src % 64 = 0)) := by
  unfold copyShape at h
  cases ordered with
  | true =>
    simp only [if_true] at h
    split at h
    · cases h
    · next hsize =>
      split at h
      · cases h
      · next hal =>
        split at h
        · cases h
        · next hov =>
          simp only [overlaps, Bool.not_eq_true, Bool.not_eq_false', Bool.and_eq_false_iff, Bool.or_eq_true, decide_eq_true_eq,
            decide_eq_false_iff_not, not_or, not_not] at hsize hal hov
          have hpos : 0 < len := by
            rcases Nat.eq_zero_or_pos len with rfl | hpos
            · simp [orderedSize] at hsize
            · exact hpos
          exact ⟨by omega, .inl ⟨hsize, hal.1⟩⟩
  | false =>
    simp only [Bool.false_eq_true, if_false] at h
    split at h
    · cases h
    · next hsize =>
      split at h
      · cases h
      · next hal =>
        split at h
        · cases h
        · next hov =>
          simp only [overlaps, Bool.not_eq_true, Bool.and_eq_false_iff, Bool.or_eq_true, decide_eq_true_eq,
            decide_eq_false_iff_not, not_or, not_not] at hsize hal hov
          exact ⟨by omega, .inr ⟨hsize.1.1, hal.1⟩⟩

/-- The DDR and the Quarry end below the Benches. -/
theorem Device.lt_of_inMemory {d : Device} {a n : Nat} (h : d.inMemory a n = true) : a < 0x4018000000 := by
  have hhalf : 2 * d.ddrHalf ≤ 0x2000000000 := by
    unfold Device.ddrHalf
    split <;> omega
  by_contra hge
  have hregion : ∀ x, d.region a ≠ .ddr x ∧ d.region a ≠ .quarry x := by
    intro x
    unfold Device.region
    rw [if_neg (by omega), if_neg (by omega), if_neg (by simp; omega), if_neg (by simp; omega)]
    repeat' split
    all_goals simp
  unfold Device.inMemory at h
  split at h
  · next x _ hx _ => exact (hregion x).1 hx
  · next x _ hx _ => exact (hregion x).2 hx
  · cases h

/-- The Benches begin above them. -/
theorem Device.le_of_bench {d : Device} {a core : Nat} (h : d.region a = .bench core) : 0x4400000000 ≤ a := by
  unfold Device.region at h
  repeat' split at h
  all_goals simp_all

/-- A line of the DDR or the Quarry holds no byte of a Bench. -/
theorem Device.region_ne_bench {d : Device} {a b : Nat} (h : d.inMemory a 1 = true) (hline : a / 64 = b / 64) (core : Nat) :
    d.region b ≠ .bench core := by
  intro hb
  have hlt := Device.lt_of_inMemory h
  have hge := Device.le_of_bench hb
  omega

/-- The line of a byte of a copy is the one its 64 bytes begin: the ends are of whole lines, or the copy is of one ordered access. -/
theorem copy_sameLine {src len m b i : Nat} (h : (orderedSize len = true ∧ src % len = 0) ∨ (len % 64 = 0 ∧ src % 64 = 0))
    (hm : m % 64 = 0) (hb : b ≤ i ∧ i < b + 64 ∧ b % 64 = 0 ∧ i / 64 = b / 64) (hi : m + i < len) :
    (src + (m + b)) / 64 = (src + (m + i)) / 64 := by
  obtain ⟨hsize, hal⟩ | ⟨-, hal⟩ := h
  · simp only [orderedSize, Bool.or_eq_true, decide_eq_true_eq] at hsize
    obtain (((rfl | rfl) | rfl) | rfl) | rfl := hsize <;> omega
  · omega

/-! ### The obligation -/

/-- A COPY that is taken up has the effect of its shape and of its windows. -/
theorem exec_copy {k : RingRef} {s : State} {x : QDesc} (h : s.dev.takes k 6 x) :
    exec (.copy k) s = .next { s with dev := copyTaken s.dev.begun k x } := by
  have hcopy : exec (.copy k) s = .next { s with dev := s.dev.begun.onHead k 6 fun d x => copyTaken d k x } :=
    actLive_eq (fun d => d.onHead k 6 fun d x => copyTaken d k x) h.1
  rw [hcopy, Device.onHead_takes (Device.begun_takes h)]

/-- The turn of a copy from memory moves what is left of its chunk. -/
theorem copyComplete_eq {d g : Device} {k : RingRef} {j : CopyJob} {m : Nat} (hwant : d.wantsCopy k = true)
    (hturn : d.engineTurn k = some g) (hjob : (d.ring k).job = .copying j.src j.dst j.len j.ordered m [])
    (hout : g.isOutbound j.src = false) (ecc : Ecc) : copyComplete d k ecc = g.copyMove k j m [] ecc := by
  have hregion : ∀ pc l, g.region j.src ≠ .outbound pc l := fun pc l h => by simp [Device.isOutbound, h] at hout
  simp only [copyComplete, hwant, hturn, hjob, Bool.not_true, Bool.false_eq_true, if_false]
  split
  · next h _ => exact absurd h (hregion _ _)
  · rfl

/-- A chunk moved with clean codes: the copy completes, or waits for its next turn. -/
theorem Device.copyMove_clean {d e : Device} {k : RingRef} {j : CopyJob} {m m' : Nat}
    (h : copyLines k j none (ceilDiv (j.chunk m) 64) d m [] = (e, m', none)) : d.copyMove k j m [] .clean =
      if m' = j.len then e.finish k St.ok 0 m'
      else e.setRing k { e.ring k with job := .copying j.src j.dst j.len j.ordered m' [] } := by
  simp only [Device.copyMove, h, List.drop_nil]

/-- A chunk with an uncorrectable word, whose line ends the copy. -/
theorem Device.copyMove_uncorrectable {d e : Device} {k : RingRef} {j : CopyJob} {m m' i : Nat} {v : Byte × Byte}
    (h : copyLines k j (some (m + i)) (ceilDiv (j.chunk m) 64) d m [] = (e, m', some v)) :
    d.copyMove k j m [] (.uncorrectable i) = e.finish k v.1 v.2 m' := by
  simp only [Device.copyMove, h]

/-- Settles O40: the lines of a chunk move up to its end, or up to the line of the uncorrectable word. -/
theorem copies : Obligations.Copies := by
  intro t j s k d hopen
  refine ⟨fun x hx => ?_, fun hlive hno e => ?_, ?_⟩
  · have hexec := exec_copy hx
    obtain ⟨rest, hq, -⟩ := Device.takes_queued hx
    have hfinish : ∀ status detail, d.finish k status detail 0 = d.doneWith k x status detail 0 := fun status detail =>
      Device.finish_eq (d := d) status detail 0 hopen hq
    intro src dst len ordered
    have hshape : ∀ v, copyShape src dst len ordered = v → copyTaken d k x = match v with
        | some v => d.finish k St.sizeUnsupported v 0
        | none =>
          if !d.ringAddrOk k src len true false then d.finish k St.bounds (d.boundsDetail src) 0
          else if !d.ringAddrOk k dst len false true then d.finish k St.bounds (d.boundsDetail dst) 0
          else d.setRing k { d.ring k with job := .copying src dst len ordered 0 [] } := by
      rintro v rfl
      rfl
    have hokd : ∀ a r w, d.ringAddrOk k a len r w = s.dev.ringAddrOk k a len r w := fun _ _ _ => rfl
    refine ⟨fun v hv => ?_, fun hv => ⟨fun hsrc => ?_, fun hsrc hdst => ?_, fun hsrc hdst => ?_⟩⟩
    · rw [hexec, hshape _ hv]
      dsimp only
      rw [hfinish]
    · rw [hexec, hshape _ hv]
      simp only [hokd, hsrc, hfinish]
      rfl
    · rw [hexec, hshape _ hv]
      simp only [hokd, hsrc, hdst, hfinish]
      rfl
    · rw [hexec, hshape _ hv]
      simp only [hokd, hsrc, hdst]
      rfl
  · have hexec : exec (.copyComplete k e) s = .next { s with dev := copyComplete d k e } :=
      actLive_eq (fun x => copyComplete x k e) hlive
    rw [hexec]
    obtain hno | hno := hno
    · simp [copyComplete, d, Device.begun_wantsCopy, hno]
    · simp [copyComplete, hno]
  · intro x rest src dst len ordered m g hlive hq hjob hshape hm hlt hwant hturn hout n hlines moved
    obtain ⟨hsep, hshape'⟩ := copyShape_none hshape
    obtain ⟨i₀, hg⟩ := Device.engineTurn_eq hturn
    let c : CopyJob := { src := src, dst := dst, len := len, ordered := ordered }
    have hn : m + n ≤ len ∧ (m + n = len ∨ n % 64 = 0) ∧ 0 < n := by
      simp only [n]
      omega
    have hbytes : s.dev.SameBytes g := by rw [hg]; exact ⟨rfl, rfl⟩
    have hlog : ∀ t r, k = .ring t r → (g.ten t).log = none := by rw [hg]; exact hopen.2.2.2.2
    have hline : ∀ o < n, o % 64 = 0 → CopyLine g k c (m + o) (min 64 (len - (m + o))) := fun o ho hmul => by
      obtain ⟨hsrc, hdst, hread, hwrite⟩ := hlines o ho hmul
      have hw : min 64 (n - o) = min 64 (len - (m + o)) := by simp only [n]; omega
      rw [Nat.add_assoc, hw] at hread hwrite
      rw [Nat.add_assoc] at hsrc hdst
      have hopen : ∀ a, s.dev.openLine a → g.openLine a := fun a ha => by rw [hg]; exact ha
      have hveto : ∀ a n r w, g.descVeto k a n r w = s.dev.descVeto k a n r w := fun a n r w => by rw [hg]; rfl
      exact ⟨hopen _ hsrc, hopen _ hdst, (hveto _ _ _ _).trans hread, (hveto _ _ _ _).trans hwrite⟩
    have hsame : ∀ {e : Device} {b : Nat}, g.Moved e (src + m) (dst + m) b →
        e.ring k = s.dev.ring k ∧ e.ctxs = s.dev.ctxs ∧ e.regs = s.dev.regs ∧ e.entryOpen k := fun h => by
      have hring : ∀ {α : Type} (f : Device → α), (∀ x : Device, f x.offStores = f x) → f g = f s.dev → f _ = f s.dev :=
        fun f hf hfg => (Device.eq_of_offStores f hf h.off).trans hfg
      exact ⟨hring (·.ring k) (fun _ => rfl) (by rw [hg]; rfl), hring Device.ctxs (fun _ => rfl) (by rw [hg]; rfl),
        hring Device.regs (fun _ => rfl) (by rw [hg]; rfl), Device.entryOpen_of_offStores h.off (by rw [hg]; exact hopen)⟩
    have hmoved : ∀ {e : Device} {b : Nat}, g.Moved e (src + m) (dst + m) b → moved e b := fun h =>
      ⟨(hsame h).1, (hsame h).2.1, h.bytes.1.trans (hbytes.coRead _ _), fun a ha =>
        (h.bytes.2 a ha).trans (congrArg (memByte · a) (hbytes.dropLines _ _).mem)⟩
    have hexec : ∀ e, exec (.copyComplete k e) s = .next { s with dev := g.copyMove k c m [] e } := fun e => by
      have hwant' : d.wantsCopy k = true := (Device.begun_wantsCopy _ _).trans hwant
      have hout' : g.isOutbound src = false := by rw [hg]; exact hout
      rw [← copyComplete_eq (j := c) hwant' hturn hjob hout' e]
      exact actLive_eq (fun x => copyComplete x k e) hlive
    refine ⟨?_, ?_⟩
    · obtain ⟨e, hmove, hcopy⟩ := copyLines_first (j := c) (bad := none) hsep 0 _ (d := g) [] rfl hn.1 hn.2.1 hline hlog
        (fun i hi => by cases hi)
      obtain ⟨hring, -, hregs, hopen'⟩ := hsame hmove
      refine ⟨e, _, hexec _, hmoved hmove, hregs, ?_⟩
      dsimp only
      rw [Device.copyMove_clean (hcopy.trans rfl), hring]
      split
      · next hend =>
        rw [Device.finish_eq St.ok 0 _ hopen' (hring ▸ hq)]
        exact congrArg _ hend
      · rfl
    · intro i hi b
      have hb : b ≤ i ∧ i < b + 64 ∧ b % 64 = 0 ∧ i / 64 = b / 64 := by simp only [b]; omega
      obtain ⟨rest', hfuel⟩ : ∃ r, ceilDiv n 64 = ceilDiv b 64 + (r + 1) :=
        ⟨ceilDiv n 64 - ceilDiv b 64 - 1, by unfold ceilDiv; omega⟩
      obtain ⟨e, hmove, hcopy⟩ := copyLines_first (j := c) (bad := some (m + i)) hsep (rest' + 1) _ (d := g) (m := m) (n := b) []
        rfl (by show m + b ≤ len; omega) (.inr hb.2.2.1) (fun o ho => hline o (by omega)) hlog
        (fun i' hi' => by cases hi'; omega)
      rw [List.drop_nil] at hcopy
      have hlast := (hline b (by omega) hb.2.2.1).of_offStores hmove.off
      have hend := copyLines_bad (bad := some (m + i)) rfl (by show 0 < min 64 (len - (m + b)); omega) hlast rfl
        (by show m + b ≤ m + i ∧ m + i < m + b + min 64 (len - (m + b)); omega) rest' []
      have hsameLine : (src + (m + b)) / 64 = (src + (m + i)) / 64 := copy_sameLine hshape' hm hb (by omega)
      have hue : e.LowRegs (e.memUe (src + (m + i))) := Device.memUe_lowRegs (Device.region_ne_bench hlast.src.1 hsameLine)
      obtain ⟨hring, -, -, hopen'⟩ := hsame hmove
      have hdetail : e.eccDetail (src + (m + b)) = s.dev.eccDetail (src + (m + b)) :=
        (Device.eq_of_offStores (·.eccDetail (src + (m + b))) (fun _ => rfl) hmove.off).trans (by rw [hg]; rfl)
      have hopen'' := hue.entryOpen hopen'
      have hmoved₁ : moved e b := hmoved hmove
      have hmoved' : moved (e.memUe (src + (m + i))) b ∧ (e.memUe (src + (m + i))).ring k = s.dev.ring k := by
        obtain ⟨⟨r, hr⟩, -⟩ := hue
        rw [hr]
        exact ⟨hmoved₁, hring⟩
      refine ⟨e.memUe (src + (m + i)), _, hexec _, hmoved'.1, ?_⟩
      dsimp only
      have hall := hcopy.trans hend
      rw [← hfuel] at hall
      rw [Device.copyMove_uncorrectable hall, Device.finish_eq _ _ _ hopen'' (hmoved'.2 ▸ hq), Nat.add_assoc, hdetail]

end Sys2Proof.Machine

/-!
PROOF. LOAD, ADMISSION_COMPLETE and UNLOAD (O41): what each comes to at the head of its ring.
-/

namespace Sys2Proof.Machine

/-! ### A head refused or ended -/

/-- The head refused, where it is no RUN and its entry can be written. -/
theorem Device.refuse_eq {d : Device} {k : RingRef} {x : QDesc} {rest : List QDesc} (detail : Byte) (ho : d.entryOpen k)
    (hq : (d.ring k).queued = x :: rest) (hop : x.opcode ≠ 3) : d.refuse k detail = d.doneWith k x St.refused detail 0 := by
  rw [← Device.finish_eq St.refused detail 0 ho hq]
  simp only [Device.refuse, Device.finish, Device.dismiss, hq]
  rw [if_pos hop]

/-- A link's failure noted is a register's change. -/
theorem Device.noteLink_lowRegs (d : Device) (a : Nat) (v : Byte × Byte) : d.LowRegs (d.noteLink a v) := by
  unfold Device.noteLink Device.linkFailed
  repeat' split
  · exact .refl d
  · exact (Device.LowRegs.refl d).orReg (by decide) _
  · exact (Device.LowRegs.refl d).orReg (by decide) _
  · exact .refl d

/-- Registers keep the rings. -/
theorem Device.LowRegs.ring {d e : Device} (h : d.LowRegs e) (k : RingRef) : e.ring k = d.ring k := by
  obtain ⟨⟨r, rfl⟩, -⟩ := h
  exact Device.ring_congr k rfl rfl

/-- The head ended by what stood in its way. -/
theorem Device.vetoed_eq {d : Device} {k : RingRef} {x : QDesc} {rest : List QDesc} (a : Nat) (v : Byte × Byte)
    (ho : d.entryOpen k) (hq : (d.ring k).queued = x :: rest) :
    d.vetoed k a v = (d.noteLink a v).doneWith k x v.1 v.2 0 := by
  have h := d.noteLink_lowRegs a v
  exact Device.finish_eq v.1 v.2 0 (h.entryOpen ho) (by rw [h.ring, hq])

/-- Registers keep what an address is. -/
theorem Device.LowRegs.eccDetail {d e : Device} (h : d.LowRegs e) (a : Nat) : e.eccDetail a = d.eccDetail a := by
  obtain ⟨⟨r, rfl⟩, -⟩ := h
  rfl

/-- With clean codes the work of a descriptor goes on. -/
theorem Device.descEcc_clean (d : Device) (k : RingRef) (a : Nat) (f : Device → Device) : d.descEcc k a .clean f = f d := rfl

/-- An uncorrectable word of what a descriptor reads, in the DDR or the Quarry, ends the descriptor. -/
theorem Device.descEcc_uncorrectable {d : Device} {k : RingRef} {x : QDesc} {rest : List QDesc} {a i : Nat} (ho : d.entryOpen k)
    (hq : (d.ring k).queued = x :: rest) (hb : ∀ core, d.region (a + i) ≠ .bench core) (f : Device → Device) :
    d.descEcc k a (.uncorrectable i) f = (d.memUe (a + i)).doneWith k x St.eccUncorr (d.eccDetail (a + i)) 0 := by
  have h := Device.memUe_lowRegs hb
  have hq' : ((d.memUe (a + i)).ring k).queued = x :: rest := by rw [h.ring, hq]
  rw [← h.eccDetail]
  exact Device.finish_eq _ _ 0 (h.entryOpen ho) hq'

/-! ### Admissions (R97, R256) -/

/-- A turn of the admission unit moves the arbiter alone. -/
theorem Device.admissionTurn_eq {d g : Device} {k : RingRef} (h : d.admissionTurn k = some g) :
    ∃ i, g = { d with arb := { d.arb with admission := i } } := by
  unfold Device.admissionTurn at h
  split at h
  · split at h
    · exact ⟨_, (Option.some.inj h).symm⟩
    · cases h
  · cases h

/-- A LOAD waits for an admission, a change of operating point, and its turn. -/
theorem loadTaken_waits {d : Device} {k : RingRef} (x : QDesc) (ecc : Ecc)
    (h : d.admissionBusy = true ∨ d.gov.takeUp.isSome = true ∨ d.admissionTurn k = none) : loadTaken d k x ecc = d := by
  unfold loadTaken
  obtain h | h | h := h
  · simp [h]
  · simp [h]
  · rw [h]
    split <;> rfl

section
variable {d g : Device} {k : RingRef} {x : QDesc} {n : Nat} (hmem : g.inMemory (x.field 0x20 8) n = true)
include hmem

section
variable (hbusy : d.admissionBusy = false) (htake : d.gov.takeUp = none) (hturn : d.admissionTurn k = some g)
  (hreport : g.descVeto k (x.field 0x28 8) 32 false true = none) (hhead : g.descVeto k (x.field 0x20 8) 256 true false = none)
include hbusy htake hturn hreport hhead

/-- In its turn, with its report and the head of its image open to it, a LOAD reads the head. -/
theorem loadTaken_head {ecc : Ecc} (hecc : ∀ i, eccBefore 256 ecc ≠ .uncorrectable i) :
    loadTaken d k x ecc = loadHead g k x (g.rd (x.field 0x20 8) 256) ecc := by
  obtain ⟨-, hr⟩ := Device.readDown_inMemory hmem
  simp only [loadTaken, hbusy, htake, hturn, hreport, hhead, Option.isSome_none, Bool.or_self, Bool.false_eq_true, if_false]

/-- An uncorrectable word of the head ends it. -/
theorem loadTaken_uncorrectable {ecc : Ecc} {i : Nat} (hecc : eccBefore 256 ecc = .uncorrectable i) :
    loadTaken d k x ecc = g.descEcc k (x.field 0x20 8) (.uncorrectable i) id := by
  obtain ⟨-, hr⟩ := Device.readDown_inMemory hmem
  simp only [loadTaken, hbusy, htake, hturn, hreport, hhead, hecc, Option.isSome_none, Bool.or_self, Bool.false_eq_true, if_false]

end

/-- With the whole image open to it, it reads the image through port 28. -/
theorem loadHead_image {head : List Byte} (hn : imageLength head = n)
    (hveto : g.descVeto k (x.field 0x20 8) n true false = none) (ecc : Ecc) :
    loadHead g k x head ecc = (g.charge 28 (x.field 0x20 8) n false).descEcc k (x.field 0x20 8) (eccBefore n ecc)
      fun d => loadImage d k x (d.rd (x.field 0x20 8) n) := by
  obtain ⟨-, hr⟩ := Device.readDown_inMemory hmem
  simp only [loadHead, hn, hveto]

end

/-- A report written in memory. -/
theorem Device.reportWrite_memory {d : Device} {k : RingRef} {a : Nat} (bs : List Byte) (hm : d.isOutbound a = false)
    (hlog : ∀ t r, k = .ring t r → (d.ten t).log = none) :
    (d.reportWrite k a bs).offStores = d.offStores ∧ (d.reportWrite k a bs).mem = memWrite d.mem a bs := by
  have hl : d.ringLog k a bs.length = d := by
    cases k with
    | admin => rfl
    | ring t r => exact d.logWrite_of_none (hlog t r rfl) _ _
  have hw : d.reportWrite k a bs = (d.charge 28 a bs.length true).wr a bs := by
    unfold Device.isOutbound at hm
    unfold Device.reportWrite
    rw [hl]
    dsimp only
    split
    · next h => simp [h] at hm
    · rfl
  rw [hw]
  exact ⟨(Device.offStores_wr _ _ _).trans (d.offStores_charge _ _ _ _), by simp [Device.wr]⟩

/-- A copy of an admission made in memory. -/
theorem Device.copyIn_memory {d : Device} {c t : Nat} {w : Nat × List Byte} (hm : d.isOutbound w.1 = false)
    (hlog : (d.ten t).log = none) :
    (d.copyIn c t w).offStores = d.offStores ∧ (d.copyIn c t w).mem = memWrite d.mem w.1 w.2 := by
  have hw : d.copyIn c t w = ((d.linesIssue (((d.ctxCores c).headD 0) / 4) (d.bucketOwner c)
      (lineAddrs w.1 w.2.length)).2.2.serve w.1 w.2.length true).wr w.1 w.2 := by
    unfold Device.isOutbound at hm
    unfold Device.copyIn
    rw [d.logWrite_of_none hlog]
    dsimp only
    split
    · next h => simp [h] at hm
    · rfl
  rw [hw]
  exact ⟨(Device.offStores_wr _ _ _).trans (by simp), by simp [Device.wr]⟩

/-- The copies of an admission made in memory, one after another. -/
theorem Device.copyIn_fold {d : Device} {c t : Nat} {writes : List (Nat × List Byte)}
    (hm : ∀ w ∈ writes, d.isOutbound w.1 = false) (hlog : (d.ten t).log = none) :
    (writes.foldl (fun d w => d.copyIn c t w) d).offStores = d.offStores ∧
      (writes.foldl (fun d w => d.copyIn c t w) d).mem = writes.foldl (fun m w => memWrite m w.1 w.2) d.mem := by
  induction writes generalizing d with
  | nil => exact ⟨rfl, rfl⟩
  | cons w ws ih =>
    obtain ⟨h1, h2⟩ := Device.copyIn_memory (c := c) (hm w List.mem_cons_self) hlog
    have hout : ∀ a, (d.copyIn c t w).isOutbound a = d.isOutbound a := fun a =>
      Device.eq_of_offStores (·.isOutbound a) (fun _ => rfl) h1
    obtain ⟨h3, h4⟩ := ih (d := d.copyIn c t w) (fun v hv => (hout v.1).trans (hm v (List.mem_cons_of_mem _ hv)))
      ((Device.eq_of_offStores (fun x => (x.ten t).log) (fun _ => rfl) h1).trans hlog)
    exact ⟨h3.trans h1, by rw [List.foldl_cons, h4, h2]; rfl⟩

/-! ### What a read of an image leaves -/

/-- A device whose memory, ring, contexts, entry's way and map are another's. -/
structure Device.AsRead (d e : Device) (k : RingRef) : Prop where
  mem : e.mem = d.mem
  ring : e.ring k = d.ring k
  ctxs : e.ctxs = d.ctxs
  entry : d.entryOpen k → e.entryOpen k
  region : ∀ a, e.region a = d.region a

/-- An uncorrectable word of what is read then ends the descriptor, with nothing else changed. -/
theorem Device.AsRead.uncorrectable {d e : Device} {k : RingRef} {x : QDesc} {rest : List QDesc} {a i : Nat} (h : d.AsRead e k)
    (ho : d.entryOpen k) (hq : (d.ring k).queued = x :: rest) (hb : ∀ core, d.region (a + i) ≠ .bench core)
    (f : Device → Device) :
    ∃ m : Device, e.descEcc k a (.uncorrectable i) f = m.doneWith k x St.eccUncorr (d.eccDetail (a + i)) 0 ∧ m.mem = d.mem ∧
      m.ring k = d.ring k ∧ m.ctxs = d.ctxs := by
  have hb' : ∀ core, e.region (a + i) ≠ .bench core := fun core => by rw [h.region]; exact hb core
  have hdetail : e.eccDetail (a + i) = d.eccDetail (a + i) := by simp only [Device.eccDetail, h.region]
  refine ⟨_, (Device.descEcc_uncorrectable (h.entry ho) (by rw [h.ring, hq]) hb' f).trans (by rw [hdetail]), ?_⟩
  have hue := Device.memUe_lowRegs hb'
  have hring := hue.ring k
  obtain ⟨⟨r, hr⟩, -⟩ := hue
  rw [hr] at hring ⊢
  exact ⟨h.mem, hring.trans h.ring, h.ctxs⟩

/-- No byte of a range in the DDR or the Quarry is a Bench's. -/
theorem Device.region_ne_bench_of_mem {d : Device} {a n i : Nat} (h : d.inMemory a n = true) (hi : i < n) (core : Nat) :
    d.region (a + i) ≠ .bench core := by
  intro hb
  have hlast : d.inMemory (a + (n - 1)) 1 = true := by
    unfold Device.inMemory at h ⊢
    split at h
    · next he => simp [he]
    · next he => simp [he]
    · cases h
  have hlt := Device.lt_of_inMemory hlast
  have hge := Device.le_of_bench hb
  omega

/-! ### The obligation -/

/-- What stands of a ring, the contexts, the registers and the entry's way where the stores alone have changed. -/
theorem Device.kept_of_offStores {d e : Device} (k : RingRef) (h : e.offStores = d.offStores) :
    e.ring k = d.ring k ∧ e.ctxs = d.ctxs ∧ e.regs = d.regs ∧ (d.entryOpen k → e.entryOpen k) :=
  ⟨Device.eq_of_offStores (·.ring k) (fun _ => rfl) h, Device.eq_of_offStores Device.ctxs (fun _ => rfl) h,
    Device.eq_of_offStores Device.regs (fun _ => rfl) h, Device.entryOpen_of_offStores h⟩

/-- A LOAD refused writes its report, and its head is refused. -/
theorem Device.refuseLoad_eq {d : Device} {k : RingRef} {x : QDesc} {rest : List QDesc} {report : Nat} (img : List Byte)
    (reason : Byte) (hm : d.isOutbound report = false) (ho : d.entryOpen k) (hq : (d.ring k).queued = x :: rest)
    (hop : x.opcode ≠ 3) : ∃ m : Device, d.refuseLoad k report img reason = m.doneWith k x St.refused reason 0 ∧
      m.offStores = d.offStores ∧ m.mem = memWrite d.mem report (d.refusalReport img reason) := by
  obtain ⟨hoff, hmem⟩ := Device.reportWrite_memory (d.refusalReport img reason) hm ho.2.2.2.2
  obtain ⟨hring, -, -, hopen⟩ := Device.kept_of_offStores k hoff
  exact ⟨_, Device.refuse_eq reason (hopen ho) (by rw [hring, hq]) hop, hoff, hmem⟩

section
variable {d : Device} {t : Fin 64} {j : Fin 17} {x : QDesc} {c : Nat} {img : List Byte} (hctx : (d.ring (.ring t j)).ctx = some c)
include hctx

/-- The ring's tenancy and context. -/
theorem Device.ringOwner_eq : d.ringOwner (.ring t j) = some (t.val, c) := by
  simp only [Device.ringOwner, hctx]

/-- An image that fails a check is refused with its reason. -/
theorem loadImage_fails {reason : Byte}
    (h : d.admitted c t (x.field 0x20 8) (slice x.raw 0x30 16) img (d.ring (.ring t j)) = .inl reason) :
    loadImage d (.ring t j) x img = d.refuseLoad (.ring t j) (x.field 0x28 8) img reason := by
  simp only [loadImage, Device.ringOwner_eq hctx, h]

/-- One that passes needs its entries, and room for its report; then the admission goes on. -/
theorem loadImage_passes {l : Loaded}
    (h : d.admitted c t (x.field 0x20 8) (slice x.raw 0x30 16) img (d.ring (.ring t j)) = .inr l) :
    loadImage d (.ring t j) x img =
      if 2 ^ (d.ring (.ring t j)).n < (loadedResults l).length + 1 then
        d.refuseLoad (.ring t j) (x.field 0x28 8) img 0x44
      else if !d.allowed t (x.field 0x28 8) (32 + (d.reportTail c t (d.ring (.ring t j)) l).length) false true then
        d.finish (.ring t j) St.bounds 0x01 0
      else d.setRing (.ring t j) { d.ring (.ring t j) with
        job := .admitting (d.freeSlot c) l (x.field 0x28 8) (d.copiesOf c t img l)
          (d.reportTail c t (d.ring (.ring t j)) l) } := by
  simp only [loadImage, Device.ringOwner_eq hctx, h]

end

section
variable {d : Device} {t : Fin 64} {j : Fin 17} {c : Nat} {slot report : Nat} {l : Loaded} {writes : List (Nat × List Byte)}
  {tail : List Byte} (hctx : (d.ring (.ring t j)).ctx = some c)
  (hjob : (d.ring (.ring t j)).job = .admitting slot l report writes tail)
include hctx hjob

/-- An admission whose ring is held, or whose entry port 28 holds, waits. -/
theorem admissionComplete_held (h : d.headHeld (.ring t j) = true ∨ d.entryHeld (.ring t j) = true) :
    admissionComplete d (.ring t j) = d := by
  have hheld : (d.headHeld (.ring t j) || d.entryHeld (.ring t j)) = true := by simpa using h
  simp only [admissionComplete, Device.ringOwner_eq hctx, hjob, hheld, if_true]

variable (hhead : d.headHeld (.ring t j) = false) (hentry : d.entryHeld (.ring t j) = false)
include hhead hentry

/-- One with a copy that cannot be made ends with what stands in the way. -/
theorem admissionComplete_vetoed {a : Nat} {v : Byte × Byte} (h : d.copyVeto writes = some (a, v)) :
    admissionComplete d (.ring t j) = d.vetoed (.ring t j) a v := by
  simp only [admissionComplete, Device.ringOwner_eq hctx, hjob, hhead, hentry, h, Bool.or_self, Bool.false_eq_true, if_false]

/-- Any other puts the load at its index, and makes its copies and its report. -/
theorem admissionComplete_made (h : d.copyVeto writes = none) (hout : d.isOutbound report = false)
    (houts : ∀ w ∈ writes, d.isOutbound w.1 = false) (hlog : (d.ten t).log = none) :
    ∃ m : Device, admissionComplete d (.ring t j) = m.finish (.ring t j) St.ok 0 slot ∧
      m.offStores = (d.setCtx c { d.ctx c with loaded := tput (d.ctx c).loaded slot l }).offStores ∧
      m.mem = memWrite (writes.foldl (fun m w => memWrite m w.1 w.2) d.mem) report (d.admittedReport l tail) := by
  let e := d.setCtx c { d.ctx c with loaded := tput (d.ctx c).loaded slot l }
  obtain ⟨hoff, hmem⟩ := Device.copyIn_fold (d := e) (c := c) (t := t) houts hlog
  have hreport : ∀ f : Device, f.offStores = e.offStores → f.admittedReport l tail = d.admittedReport l tail := fun f hf =>
    (Device.eq_of_offStores (·.admittedReport l tail) (fun _ => rfl) hf).trans rfl
  obtain ⟨hoff', hmem'⟩ := Device.reportWrite_memory (k := .ring t j) (a := report)
    ((writes.foldl (fun d w => d.copyIn c t w) e).admittedReport l tail)
    ((Device.eq_of_offStores (·.isOutbound report) (fun _ => rfl) hoff).trans hout)
    (fun t' r hk => by
      cases hk
      exact (Device.eq_of_offStores (fun x => (x.ten t).log) (fun _ => rfl) hoff).trans hlog)
  refine ⟨_, ?_, hoff'.trans hoff, hmem'.trans (by rw [hmem, hreport _ hoff]; rfl)⟩
  simp only [admissionComplete, Device.ringOwner_eq hctx, hjob, hhead, hentry, h, Bool.or_self, Bool.false_eq_true, if_false]
  rfl

end

section
variable {s : State} {t : Fin 64} {j : Fin 17} {c : Nat} {x : QDesc} {rest : List QDesc}

/-- A LOAD at the head of its ring is taken up. -/
theorem exec_load (hx : s.dev.takes (.ring t j) 1 x) (e : Ecc) :
    exec (.load t j e) s = .next { s with dev := loadTaken s.dev.begun (.ring t j) x e } := by
  have hload : exec (.load t j e) s =
      .next { s with dev := s.dev.begun.onHead (.ring t j) 1 fun d x => loadTaken d (.ring t j) x e } :=
    actLive_eq (fun d => d.onHead (.ring t j) 1 fun d x => loadTaken d (.ring t j) x e) hx.1
  rw [hload, Device.onHead_takes (Device.begun_takes hx)]

/-- An UNLOAD at the head of its ring is taken up. -/
theorem exec_unload (hx : s.dev.takes (.ring t j) 2 x) :
    exec (.unload t j) s = .next { s with dev := unloadTaken s.dev.begun (.ring t j) x } := by
  have hun : exec (.unload t j) s =
      .next { s with dev := s.dev.begun.onHead (.ring t j) 2 fun d x => unloadTaken d (.ring t j) x } :=
    actLive_eq (fun d => d.onHead (.ring t j) 2 fun d x => unloadTaken d (.ring t j) x) hx.1
  rw [hun, Device.onHead_takes (Device.begun_takes hx)]

section
variable {g : Device} {n : Nat} (hx : s.dev.takes (.ring t j) 1 x) (hmem : s.dev.inMemory (x.field 0x20 8) n = true)
  (hbusy : s.dev.admissionBusy = false) (htake : s.dev.gov.takeUp = none) (hturn : s.dev.begun.admissionTurn (.ring t j) = some g)
  (hreport : s.dev.descVeto (.ring t j) (x.field 0x28 8) 32 false true = none)
  (hhead : s.dev.descVeto (.ring t j) (x.field 0x20 8) 256 true false = none)
include hx hmem hbusy htake hturn hreport hhead

/-- In its turn a LOAD of an open report and head, without an uncorrectable word in the head, reads its image where that is open. -/
theorem exec_load_image (hn : imageLength (s.dev.rd (x.field 0x20 8) 256) = n)
    (hveto : s.dev.descVeto (.ring t j) (x.field 0x20 8) n true false = none) {ecc : Ecc}
    (hecc : ∀ i, eccBefore 256 ecc ≠ .uncorrectable i) :
    exec (.load t j ecc) s = .next { s with dev := (
      (g.charge 28 (x.field 0x20 8) n false).descEcc (.ring t j) (x.field 0x20 8) (eccBefore n ecc)
        fun d => loadImage d (.ring t j) x (d.rd (x.field 0x20 8) n)) } := by
  obtain ⟨_, hg⟩ := Device.admissionTurn_eq hturn
  have hgveto : ∀ a n r w, g.descVeto (.ring t j) a n r w = s.dev.descVeto (.ring t j) a n r w := fun a n r w => by rw [hg]; rfl
  have hgmem : g.inMemory (x.field 0x20 8) n = true := by rw [hg]; exact hmem
  have hread : g.rd (x.field 0x20 8) 256 = s.dev.rd (x.field 0x20 8) 256 := by rw [hg]; rfl
  rw [exec_load hx, loadTaken_head (d := s.dev.begun) hgmem hbusy htake hturn ((hgveto _ _ _ _).trans hreport)
    ((hgveto _ _ _ _).trans hhead) hecc, loadHead_image hgmem (by rw [hread, hn]) ((hgveto _ _ _ _).trans hveto)]

/-- An uncorrectable word of the head ends it. -/
theorem exec_load_uncorrectable {ecc : Ecc} {i : Nat} (hecc : eccBefore 256 ecc = .uncorrectable i) :
    exec (.load t j ecc) s = .next { s with dev := g.descEcc (.ring t j) (x.field 0x20 8) (.uncorrectable i) id } := by
  obtain ⟨_, hg⟩ := Device.admissionTurn_eq hturn
  have hgveto : ∀ a n r w, g.descVeto (.ring t j) a n r w = s.dev.descVeto (.ring t j) a n r w := fun a n r w => by rw [hg]; rfl
  have hgmem : g.inMemory (x.field 0x20 8) n = true := by rw [hg]; exact hmem
  rw [exec_load hx, loadTaken_uncorrectable (d := s.dev.begun) hgmem hbusy htake hturn ((hgveto _ _ _ _).trans hreport)
    ((hgveto _ _ _ _).trans hhead) hecc]

end

variable (hopen : s.dev.entryOpen (.ring t j)) (hctx : (s.dev.ring (.ring t j)).ctx = some c)
include hopen hctx

/-- The UNLOAD of an index that holds nothing is refused. -/
theorem exec_unload_empty (hx : s.dev.takes (.ring t j) 2 x) (hnone : tget (s.dev.ctx c).loaded (x.field 0x20 1) = none) :
    exec (.unload t j) s = .next { s with dev := s.dev.begun.doneWith (.ring t j) x St.refused 0x42 0 } := by
  obtain ⟨rest, hq, hop, -⟩ := Device.takes_queued hx
  have howner : s.dev.begun.ringOwner (.ring t j) = some (t.val, c) := Device.ringOwner_eq hctx
  have hnone' : tget (s.dev.begun.ctx c).loaded (x.field 0x20 1) = none := hnone
  rw [exec_unload hx, ← Device.refuse_eq (d := s.dev.begun) (k := .ring t j) 0x42 hopen hq (by rw [hop]; decide)]
  simp only [unloadTaken, howner, hnone', Option.isNone_none, if_true]

/-- The UNLOAD of an index that holds a load releases it. -/
theorem exec_unload_held (hx : s.dev.takes (.ring t j) 2 x)
    (hsome : (tget (s.dev.ctx c).loaded (x.field 0x20 1)).isSome = true) :
    exec (.unload t j) s =
      .next { s with dev := (s.dev.begun.release c (x.field 0x20 1)).doneWith (.ring t j) x St.ok 0 0 } := by
  obtain ⟨rest, hq, -, -⟩ := Device.takes_queued hx
  have howner : s.dev.begun.ringOwner (.ring t j) = some (t.val, c) := Device.ringOwner_eq hctx
  have hsome' : (tget (s.dev.begun.ctx c).loaded (x.field 0x20 1)).isNone = false := Option.isNone_eq_false_iff.2 hsome
  have hoff : (s.dev.begun.release c (x.field 0x20 1)).offStores =
    (s.dev.begun.setCtx c { s.dev.ctx c with loaded := tdel (s.dev.ctx c).loaded (x.field 0x20 1) }).offStores := rfl
  obtain ⟨hring, -, -, hopen'⟩ := Device.kept_of_offStores (.ring t j) hoff
  have hdone := Device.finish_eq St.ok 0 0 (hopen' hopen) (by rw [hring]; exact hq)
  rw [exec_unload hx, ← hdone]
  simp only [unloadTaken, howner, hsome', Bool.false_eq_true, if_false]

/-- An admission that nothing holds, whose copies can be made, makes them and its report and completes with its index. -/
theorem exec_admissionComplete_made {slot report : Nat} {l : Loaded} {writes : List (Nat × List Byte)} {tail : List Byte}
    (hlive : s.dev.live = true) (hq : (s.dev.ring (.ring t j)).queued = x :: rest)
    (hjob : (s.dev.ring (.ring t j)).job = .admitting slot l report writes tail)
    (hhead : s.dev.headHeld (.ring t j) = false) (hentry : s.dev.entryHeld (.ring t j) = false)
    (hveto : s.dev.copyVeto writes = none) (hout : s.dev.isOutbound report = false)
    (houts : ∀ w ∈ writes, s.dev.isOutbound w.1 = false) :
    ∃ m : Device, exec (.admissionComplete t j) s = .next { s with dev := m.doneWith (.ring t j) x St.ok 0 slot } ∧
      m.offStores =
        (s.dev.begun.setCtx c { s.dev.ctx c with loaded := tput (s.dev.ctx c).loaded slot l }).offStores ∧
      m.mem = memWrite (writes.foldl (fun m w => memWrite m w.1 w.2) s.dev.mem) report
        (s.dev.begun.admittedReport l tail) := by
  obtain ⟨m, hm, hoff, hmem⟩ := admissionComplete_made (d := s.dev.begun) hctx hjob hhead
    ((Device.begun_portHolds _ _ _).trans hentry) hveto hout houts (hopen.2.2.2.2 t j rfl)
  obtain ⟨hring, -, -, hopen'⟩ := Device.kept_of_offStores (.ring t j) hoff
  have hexec : exec (.admissionComplete t j) s = .next { s with dev := admissionComplete s.dev.begun (.ring t j) } :=
    actLive_eq (fun d => admissionComplete d (.ring t j)) hlive
  have hdone := Device.finish_eq St.ok 0 slot (hopen' hopen) (by rw [hring]; exact hq)
  exact ⟨m, by rw [hexec, hm, hdone], hoff, hmem⟩

end

/-- Settles O41: a LOAD goes on to its image, which is refused, ended or admitted; an admission makes its copies and then its
report; and an UNLOAD gives back what its index holds. -/
theorem loadsAndUnloads : Obligations.LoadsAndUnloads := by
  intro t j c s k d r hopen hctx
  refine ⟨fun x hx => ?_, ?_, fun x hx => ?_⟩
  · obtain ⟨rest, hq, hop, -⟩ := Device.takes_queued hx
    have hop' : x.opcode ≠ 3 := by rw [hop]; decide
    refine ⟨fun hwait e => by rw [exec_load hx, loadTaken_waits x e hwait], ?_⟩
    intro g hbusy htake hturn a report n hreport hrm hhead hveto hmem e img refused checked
    obtain ⟨i₀, hg⟩ := Device.admissionTurn_eq hturn
    have hgring : g.ring k = r := by rw [hg]; rfl
    have hgopen : g.entryOpen k := by rw [hg]; exact hopen
    have hgm : g.mem = s.dev.mem ∧ g.ctxs = s.dev.ctxs ∧ g.regs = s.dev.regs := by rw [hg]; exact ⟨rfl, rfl, rfl⟩
    have heoff : e.offStores = g.offStores := g.offStores_charge 28 a n false
    obtain ⟨hering, hectxs, heregs, heopen⟩ := Device.kept_of_offStores k heoff
    have hem : e.mem = s.dev.mem := (g.charge_mem 28 a n false).trans hgm.1
    have himage : ∀ ecc, (∀ i, eccBefore 256 ecc ≠ .uncorrectable i) → exec (.load t j ecc) s =
        .next { s with dev := e.descEcc k a (eccBefore n ecc) fun d => loadImage d k x (d.rd a n) } := fun ecc hecc =>
      exec_load_image hx hmem hbusy htake hturn hreport hhead rfl hveto hecc
    have hclean : exec (.load t j .clean) s = .next { s with dev := loadImage e k x img } := by
      have hread : e.rd a n = img := by rw [Device.rd, hem]; rfl
      rw [himage _ fun i h => Ecc.noConfusion h, eccBefore, Device.descEcc_clean, hread]
    clear_value e img n
    have hout : e.isOutbound report = false :=
      (Device.eq_of_offStores (·.isOutbound report) (fun _ => rfl) heoff).trans
        (Device.isOutbound_inMemory (a := report) (n := 32) (by rw [hg]; exact hrm))
    have heq : (e.ring k).queued = x :: rest := by rw [hering, hgring]; exact hq
    have hrefused : ∀ reason, loadImage e k x img = e.refuseLoad k report img reason → refused reason := fun reason h => by
      obtain ⟨m, hm, hoff, hmem'⟩ := Device.refuseLoad_eq img reason hout (heopen hgopen) heq hop'
      obtain ⟨hmring, hmctxs, hmregs, -⟩ := Device.kept_of_offStores k hoff
      exact ⟨m, _, hclean, hmem'.trans (by rw [hem]), hmring.trans (hering.trans hgring), hmctxs.trans (hectxs.trans hgm.2.1),
        hmregs.trans (heregs.trans hgm.2.2), h.trans hm⟩
    have hectx : (e.ring k).ctx = some c := by rw [hering, hgring]; exact hctx
    have hchecked : e.admitted c t a (slice x.raw 0x30 16) img (e.ring k) = checked := by rw [hering, hgring]
    refine ⟨fun i hi => ?_, fun reason hbad => ?_, ?_⟩
    · have hnb : ∀ core, s.dev.region (a + i) ≠ .bench core := Device.region_ne_bench_of_mem hmem hi
      have hge : s.dev.AsRead g k := ⟨hgm.1, hgring, hgm.2.1, fun _ => hgopen, by rw [hg]; exact fun _ => rfl⟩
      have hee : s.dev.AsRead e k := ⟨hem, hering.trans hgring, hectxs.trans hgm.2.1, fun _ => heopen hgopen, fun b =>
        (Device.eq_of_offStores (·.region b) (fun _ => rfl) heoff).trans (hge.region b)⟩
      by_cases hi' : i < 256
      · obtain ⟨m, hm, h1, h2, h3⟩ := hge.uncorrectable hopen hq hnb id
        exact ⟨m, _, exec_load_uncorrectable hx hmem hbusy htake hturn hreport hhead (if_pos hi'), h1, h2, h3, hm⟩
      · obtain ⟨m, hm, h1, h2, h3⟩ := hee.uncorrectable hopen hq hnb fun d => loadImage d k x (d.rd a n)
        have hlate : eccBefore 256 (.uncorrectable i) = .clean := if_neg hi'
        have hword : eccBefore n (.uncorrectable i) = .uncorrectable i := if_pos hi
        exact ⟨m, _, by rw [himage _ (by rw [hlate]; exact fun i h => Ecc.noConfusion h), hword], h1, h2, h3, hm⟩
    · exact hrefused reason (loadImage_fails hectx (hchecked.trans hbad))
    · intro l hgood tail
      have hpass := loadImage_passes hectx (hchecked.trans hgood)
      rw [hering, hgring] at hpass
      have hallowed : e.allowed t report (32 + tail.length) false true = s.dev.allowed t report (32 + tail.length) false true :=
        (Device.eq_of_offStores (·.allowed t report (32 + tail.length) false true) (fun _ => rfl) heoff).trans (by rw [hg]; rfl)
      refine ⟨fun hmany => hrefused 0x44 (hpass.trans (if_pos hmany)), fun hfew => ⟨fun hroom => ?_, fun hroom => ?_⟩⟩
      · rw [hclean, hpass, if_neg (Nat.not_lt.2 hfew), hallowed, hroom, ← Device.finish_eq _ _ _ (heopen hgopen) heq]
        rfl
      · rw [hclean, hpass, if_neg (Nat.not_lt.2 hfew), hallowed, hroom]
        rfl
  · intro x rest slot l report writes tail hlive hq hjob
    have hexec : exec (.admissionComplete t j) s = .next { s with dev := admissionComplete d k } :=
      actLive_eq (fun d => admissionComplete d k) hlive
    have hentry' : d.entryHeld k = s.dev.entryHeld k := Device.begun_portHolds _ _ _
    refine ⟨fun hheld => ?_, fun hhead hentry => ⟨fun a v hveto => ?_, fun hveto hout houts => ?_⟩⟩
    · rw [hexec, admissionComplete_held (d := d) hctx hjob (by rw [hentry']; exact hheld)]
    · rw [hexec, admissionComplete_vetoed (d := d) hctx hjob hhead (hentry'.trans hentry) hveto,
        Device.vetoed_eq (d := d) (k := k) a v hopen hq]
    · obtain ⟨m, hm, hoff, hmem⟩ := exec_admissionComplete_made hopen hctx hlive hq hjob hhead hentry hveto hout houts
      obtain ⟨hring, hctxs, hregs, -⟩ := Device.kept_of_offStores k hoff
      have hctx' : ∀ i, m.ctx i = (d.setCtx c { s.dev.ctx c with loaded := tput (s.dev.ctx c).loaded slot l }).ctx i := fun i => by
        rw [Device.ctx, hctxs]
        rfl
      exact ⟨m, _, hm, rfl, hmem, (hctx' c).trans (Device.ctx_setCtx d c _), hring, hregs, fun i hi =>
        (hctx' i).trans (Device.ctx_setCtx_ne _ _ hi)⟩
  · refine ⟨exec_unload_empty hopen hctx hx, fun hsome => ⟨d.release c (x.field 0x20 1), _, exec_unload_held hopen hctx hx hsome,
      rfl, rfl, rfl, rfl, ?_, fun i' hi => ?_⟩⟩
    · exact Device.ctx_setCtx d c { s.dev.ctx c with loaded := tdel (s.dev.ctx c).loaded (x.field 0x20 1) }
    · exact Device.ctx_setCtx_ne (d := d) { s.dev.ctx c with loaded := tdel (s.dev.ctx c).loaded (x.field 0x20 1) } hi

end Sys2Proof.Machine

/-!
PROOF. The pace governor (O49): what rail steps and pace faults change, what a window notes, and what a change request comes to.
-/

namespace Sys2Proof.Machine

/-! ### Rail steps and pace faults (R62, R65) -/

/-- The device without what the governor changes of it: registers, its dies, the ticks of its duties, and what is sent. -/
def Device.offGov (d : Device) : Device :=
  { d with regs := [], gov := { d.gov with dies := Vector.replicate 4 ⟨false, 0, none⟩ }, paced := [], sent := [] }

/-- The same of devices that differ in these alone. -/
theorem Device.eq_of_offGov {α : Type} (f : Device → α) (hf : ∀ x : Device, f x.offGov = f x) {d e : Device}
    (h : e.offGov = d.offGov) : f e = f d := by
  rw [← hf e, h, hf]

/-- What steps of rails change of the registers: the rails and the count of steps. -/
structure Device.Stepped (d e : Device) : Prop where
  off : e.offGov = d.offGov
  regs : ∀ a, a < 0x100008 ∨ a = Reg.pwrPaceFault ∨ 0x100020 ≤ a → e.reg a = d.reg a

/-- What the governor changes of the registers: its own from the steps to the pace records, and the fault latch; a bit of a fault
stays. -/
structure Device.Governed (d e : Device) : Prop where
  off : e.offGov = d.offGov
  regs : ∀ a, a < 0x100008 ∨ (0x100400 ≤ a ∧ a < 0xe00004) → e.reg a = d.reg a
  faults : ∀ i, d.regBit Reg.pwrPaceFault i = true → e.regBit Reg.pwrPaceFault i = true
  latched : ∀ i, d.regBit Reg.safFaultLatch i = true → e.regBit Reg.safFaultLatch i = true

namespace Device.Stepped

variable {d e f : Device}

theorem refl (d : Device) : d.Stepped d := ⟨rfl, fun _ _ => rfl⟩

theorem trans (h : d.Stepped e) (h' : e.Stepped f) : d.Stepped f :=
  ⟨h'.off.trans h.off, fun a ha => (h'.regs a ha).trans (h.regs a ha)⟩

theorem governed (h : d.Stepped e) : d.Governed e := by
  refine ⟨h.off, fun a ha => h.regs a (by omega), fun i hi => ?_, fun i hi => ?_⟩
  · rwa [Device.regBit, h.regs _ (.inr (.inl rfl))]
  · rwa [Device.regBit, h.regs _ (.inr (.inr (by decide)))]

end Device.Stepped

namespace Device.Governed

variable {d e f : Device}

theorem refl (d : Device) : d.Governed d := (Device.Stepped.refl d).governed

theorem trans (h : d.Governed e) (h' : e.Governed f) : d.Governed f :=
  ⟨h'.off.trans h.off, fun a ha => (h'.regs a ha).trans (h.regs a ha), fun i hi => h'.faults i (h.faults i hi),
    fun i hi => h'.latched i (h.latched i hi)⟩

theorem point (h : d.Governed e) : e.point = d.point := by
  rw [Device.point, Device.fld, h.regs _ (.inl (by decide))]
  rfl

end Device.Governed

section
variable (d : Device) (i : Fin 4)

theorem Device.stepped_setDie (x : DieGov) : d.Stepped (d.setDie i x) := ⟨rfl, fun _ _ => rfl⟩

theorem Device.stepped_addCount (lo : Nat) : d.Stepped (d.addCount Reg.pwrGovSteps lo 16 1) :=
  ⟨rfl, fun a ha => Device.reg_setReg_ne _ _ (by unfold Reg.pwrPaceFault at ha; unfold Reg.pwrGovSteps; omega)⟩

theorem Device.stepped_stepRail (target : Nat) : d.Stepped (d.stepRail i target) :=
  ⟨rfl, fun a ha => (Device.reg_setReg_ne (d.setDie i { d.die i with settling := true, clean := 0 }) _
    (by unfold Reg.pwrPaceFault at ha; unfold Reg.pwrRail; omega)).trans rfl⟩

theorem Device.stepped_startRamp (target : Nat) : d.Stepped (d.startRamp i target) := by
  unfold Device.startRamp
  split
  · exact d.stepped_setDie i _
  · exact (d.stepped_setDie i _).trans (Device.stepped_stepRail _ i target)

end

/-- A mask set in a word keeps its bits, and sets its own. -/
theorem bitOf_or (w m : Word) (k : Nat) : bitOf (w ||| m) k = (bitOf w k || bitOf m k) := by
  simp [bitOf]

theorem bitOf_twoPow {k : Nat} (hk : k < 64) : bitOf (BitVec.ofNat 64 (2 ^ k)) k = true := by
  rw [bitOf, BitVec.getLsbD_ofNat]
  simp [hk, Nat.testBit_two_pow_self]

section
variable (d : Device)

theorem Device.regBit_orReg (a : Nat) {k : Nat} (hk : k < 64) : (d.orReg a (2 ^ k)).regBit a k = true := by
  rw [Device.regBit, Device.orReg, Device.reg_setReg, bitOf_or, bitOf_twoPow hk, Bool.or_true]

theorem Device.regBit_orReg_of_set {b k : Nat} (a m : Nat) (h : d.regBit b k = true) : (d.orReg a m).regBit b k = true := by
  unfold Device.regBit at h ⊢
  by_cases hab : b = a
  · rw [hab] at h ⊢
    rw [Device.orReg, Device.reg_setReg, bitOf_or, h, Bool.true_or]
  · rw [Device.orReg, Device.reg_setReg_ne _ _ hab, h]

/-- A pace record is no rate and no bit of a fault. -/
theorem Device.governed_recordIf (c : Bool) {a : Nat} (ha : a = Reg.pwrPaceRecord ∨ a = Reg.pwrPaceTime) (v : Word) :
    d.Governed (d.recordIf c a v) := by
  have hset : d.Governed (d.setReg a v) := by
    have hne : ∀ b, b < 0x100008 ∨ b = Reg.pwrPaceFault ∨ 0x100400 ≤ b → b ≠ a := by
      unfold Reg.pwrPaceFault
      unfold Reg.pwrPaceRecord Reg.pwrPaceTime at ha
      omega
    refine ⟨rfl, fun b hb => d.reg_setReg_ne _ (hne b (by omega)), fun i hi => ?_, fun i hi => ?_⟩
    · rwa [Device.regBit, d.reg_setReg_ne _ (hne _ (.inr (.inl rfl)))]
    · rwa [Device.regBit, d.reg_setReg_ne _ (hne _ (.inr (.inr (by decide))))]
  unfold Device.recordIf
  split
  · exact hset
  · exact .refl d

/-- A bit of a pace fault or of the fault latch set. -/
theorem Device.governed_orReg {a : Nat} (ha : a = Reg.pwrPaceFault ∨ a = Reg.safFaultLatch) (m : Nat) :
    d.Governed (d.orReg a m) := by
  refine ⟨rfl, fun b hb => d.reg_setReg_ne _ ?_, fun i hi => d.regBit_orReg_of_set _ _ hi,
    fun i hi => d.regBit_orReg_of_set _ _ hi⟩
  unfold Reg.pwrPaceFault Reg.safFaultLatch at ha
  omega

/-- A pace fault: its bit and the latch are set, and a rail may ramp. -/
theorem Device.paceFault_spec (i : Fin 4) (core count ceiling : Nat) :
    d.Governed (d.paceFault i core count ceiling) ∧ (d.paceFault i core count ceiling).regBit Reg.pwrPaceFault i = true ∧
      (d.paceFault i core count ceiling).regBit Reg.safFaultLatch 2 = true := by
  let e := (d.recordIf (decide (d.reg Reg.pwrPaceFault = 0)) Reg.pwrPaceRecord (BitVec.ofNat 64 (count * 2 ^ 16 + core)))
  let f := e.recordIf (decide (d.reg Reg.pwrPaceFault = 0)) Reg.pwrPaceTime e.ns
  let g := (f.orReg Reg.pwrPaceFault (2 ^ i.val)).latch 2
  have hf : d.Governed f := (d.governed_recordIf _ (.inl rfl) _).trans (e.governed_recordIf _ (.inr rfl) _)
  have hlatch : (f.orReg Reg.pwrPaceFault (2 ^ i.val)).Governed g := Device.governed_orReg _ (.inr rfl) _
  have hg : d.Governed g := (hf.trans (f.governed_orReg (.inl rfl) _)).trans hlatch
  have hbits : g.regBit Reg.pwrPaceFault i = true ∧ g.regBit Reg.safFaultLatch 2 = true :=
    ⟨hlatch.faults i (f.regBit_orReg _ (by omega)), Device.regBit_orReg _ _ (by omega)⟩
  obtain ⟨e', he', hlast⟩ : ∃ e', d.paceFault i core count ceiling = e' ∧ g.Governed e' := by
    refine ⟨if (decide (g.rail i < ceiling) && decide ((g.die i).ramp ≠ some ceiling)) = true then
      if (g.startRamp i ceiling).gov.takeUp.isSome then g.startRamp i ceiling
      else (g.startRamp i ceiling).countRaise
      else g, rfl, ?_⟩
    have hramp := g.stepped_startRamp i ceiling
    split
    · split
      · exact hramp.governed
      · exact (hramp.trans (Device.stepped_addCount _ 0)).governed
    · exact .refl g
  rw [he']
  exact ⟨hg.trans hlast, hlast.faults _ hbits.1, hlast.latched _ hbits.2⟩

end

/-! ### The end of a window on the dies (R62) -/

/-- No core of a die is slow where every count reaches the floor. -/
theorem slowCore_none {counts : List (BitVec 16)} {i : Fin 4} {floor : Nat}
    (h : ∀ k < 24, floor ≤ countOf counts (24 * i + k)) : slowCore counts i floor = none := by
  rw [slowCore, Option.map_eq_none_iff, List.find?_eq_none]
  intro k hk
  simpa using h k (List.mem_range.1 hk)

/-- One is where a count does not. -/
theorem slowCore_some {counts : List (BitVec 16)} {i : Fin 4} {floor : Nat}
    (h : ∃ k < 24, countOf counts (24 * i + k) < floor) : ∃ x, slowCore counts i floor = some x := by
  obtain ⟨k, hk, hlt⟩ := h
  rw [← Option.isSome_iff_exists, slowCore, Option.isSome_map, List.find?_isSome]
  exact ⟨k, List.mem_range.2 hk, by simpa using hlt⟩

section
variable (d : Device) (counts : List (BitVec 16)) (i : Fin 4)

/-- A die without a slow core steps its rail at most. -/
theorem Device.dieWindow_steps (h : slowCore counts i (pointCounts d.point).1 = none) : d.Stepped (d.dieWindow counts i) := by
  unfold Device.dieWindow
  dsimp only
  rw [h]
  dsimp only
  have hset := d.stepped_setDie i { d.die i with settling := false }
  split
  · exact hset
  · split
    · exact (hset.trans (Device.stepped_stepRail _ i _)).trans (Device.stepped_addCount _ 0)
    · have hclean : ∀ x, d.Stepped ((d.setDie i { d.die i with settling := false }).setDie i x) := fun x =>
        hset.trans (Device.stepped_setDie _ i x)
      have hlower : ∀ (e : Device) (p : Bool) (v : Nat), d.Stepped e →
          d.Stepped (if p then (e.stepRail i v).countLower else e) := fun e p v he => by
        split
        · exact (he.trans (e.stepped_stepRail i v)).trans (Device.stepped_addCount _ 16)
        · exact he
      exact hlower _ _ _ (hclean _)

/-- One with a slow core has a pace fault. -/
theorem Device.dieWindow_faults {x : Nat × Nat} (h : slowCore counts i (pointCounts d.point).1 = some x) :
    d.Governed (d.dieWindow counts i) ∧ (d.dieWindow counts i).regBit Reg.pwrPaceFault i = true ∧
      (d.dieWindow counts i).regBit Reg.safFaultLatch 2 = true := by
  let e := d.setDie i { d.die i with settling := false }
  let f := e.setDie i { e.die i with clean := 0 }
  have hf : d.Governed f := ((d.stepped_setDie i _).trans (e.stepped_setDie i _)).governed
  have hfault : d.dieWindow counts i = f.paceFault i x.1 x.2 (pointVolts d.point).2.2 := by
    unfold Device.dieWindow
    dsimp only
    rw [h]
  obtain ⟨hg, hbits⟩ := f.paceFault_spec i x.1 x.2 (pointVolts d.point).2.2
  rw [hfault]
  exact ⟨hf.trans hg, hbits⟩

/-- A die's window is the governor's. -/
theorem Device.dieWindow_governed : d.Governed (d.dieWindow counts i) := by
  cases h : slowCore counts i (pointCounts d.point).1 with
  | none => exact (d.dieWindow_steps counts i h).governed
  | some x => exact (d.dieWindow_faults counts i h).1

/-- The windows of dies, one after another. -/
theorem Device.dieWindows_governed (l : List (Fin 4)) : d.Governed (l.foldl (fun d i => d.dieWindow counts i) d) :=
  List.foldlRecOn l _ (motive := d.Governed) (.refl d) fun e he j _ => he.trans (e.dieWindow_governed counts j)

/-- Without a slow core they step rails at most. -/
theorem Device.dieWindows_steps (l : List (Fin 4)) (h : ∀ j ∈ l, slowCore counts j (pointCounts d.point).1 = none) :
    d.Stepped (l.foldl (fun d i => d.dieWindow counts i) d) :=
  List.foldlRecOn l _ (motive := d.Stepped) (.refl d) fun e he j hj =>
    he.trans (e.dieWindow_steps counts j (by rw [he.governed.point]; exact h j hj))

/-- Each die with a slow core has its bit of a pace fault. -/
theorem Device.dieWindows_faults {l : List (Fin 4)} {j : Fin 4} (hj : j ∈ l)
    (h : ∃ x, slowCore counts j (pointCounts d.point).1 = some x) :
    (l.foldl (fun d i => d.dieWindow counts i) d).regBit Reg.pwrPaceFault j = true ∧
      (l.foldl (fun d i => d.dieWindow counts i) d).regBit Reg.safFaultLatch 2 = true := by
  induction l generalizing d with
  | nil => cases hj
  | cons k l ih =>
    obtain ⟨x, hx⟩ := h
    obtain rfl | hj := List.mem_cons.1 hj
    · obtain ⟨-, hfault, hlatch⟩ := d.dieWindow_faults counts _ hx
      have hrest := (d.dieWindow counts j).dieWindows_governed counts l
      exact ⟨hrest.faults _ hfault, hrest.latched _ hlatch⟩
    · exact ih (d.dieWindow counts k) hj ⟨x, by rw [(d.dieWindow_governed counts k).point]; exact hx⟩

end

/-! ### The rates of a window (R67) -/

/-- A field of a word given as a number. -/
theorem bitsAt_ofNat (v lo len : Nat) (h : v < 2 ^ 64) : bitsAt (BitVec.ofNat 64 v) lo len = v / 2 ^ lo % 2 ^ len := by
  rw [bitsAt, BitVec.toNat_ofNat, Nat.mod_eq_of_lt h]

/-- What a core's rate register takes from a window. -/
def rateAfter (d : Device) (counts : List (BitVec 16)) (n : Nat) : Word :=
  BitVec.ofNat 64 (min (countOf counts n) (d.fld (Reg.pwrCoreRate n) 16 16) * 2 ^ 16 + countOf counts n)

section
variable (d : Device) (counts : List (BitVec 16))

/-- The rates noted change the rate registers of the cores alone, each from its own count and minimum. -/
theorem Device.noteRates_spec : (d.noteRates counts).offGov = d.offGov ∧ (d.noteRates counts).gov = d.gov ∧
    (∀ a, (∀ n < 96, a ≠ Reg.pwrCoreRate n) → (d.noteRates counts).reg a = d.reg a) ∧
      ∀ n < 96, (d.noteRates counts).reg (Reg.pwrCoreRate n) = rateAfter d counts n := by
  unfold Device.noteRates
  generalize 96 = m
  induction m with
  | zero => exact ⟨rfl, rfl, fun _ _ => rfl, fun _ h => absurd h (Nat.not_lt_zero _)⟩
  | succ m ih =>
    rw [List.range_succ, List.foldl_append, List.foldl_cons, List.foldl_nil]
    obtain ⟨hoff, hgov, hother, hrate⟩ := ih
    have hinj : ∀ n < m, Reg.pwrCoreRate n ≠ Reg.pwrCoreRate m := fun n hn => by unfold Reg.pwrCoreRate; omega
    have hold : ∀ lo len, Device.fld _ (Reg.pwrCoreRate m) lo len = d.fld (Reg.pwrCoreRate m) lo len := fun lo len =>
      congrArg (bitsAt · lo len) (hother _ fun n hn => (hinj n hn).symm)
    refine ⟨hoff, hgov, fun a ha => ?_, fun n hn => ?_⟩
    · exact (Device.reg_setReg_ne _ _ (ha m (Nat.lt_succ_self m))).trans (hother a fun n hn => ha n (by omega))
    · obtain rfl | hlt := Nat.eq_or_lt_of_le (Nat.le_of_lt_succ hn)
      · rw [Device.reg_setReg, hold]
        rfl
      · exact (Device.reg_setReg_ne _ _ (hinj n hlt)).trans (hrate n hlt)

/-- The rate register holds the count, and the lower of the count and its minimum. -/
theorem rateAfter_fields (n : Nat) : bitsAt (rateAfter d counts n) 0 16 = countOf counts n ∧
    bitsAt (rateAfter d counts n) 16 16 = min (countOf counts n) (d.fld (Reg.pwrCoreRate n) 16 16) := by
  have hc : countOf counts n < 2 ^ 16 := (counts.getD n 0).isLt
  unfold rateAfter
  generalize countOf counts n = c at hc
  generalize d.fld (Reg.pwrCoreRate n) 16 16 = v
  have hmin : min c v ≤ c := Nat.min_le_left c v
  generalize min c v = w at hmin
  rw [bitsAt_ofNat _ _ _ (by omega), bitsAt_ofNat _ _ _ (by omega)]
  omega

end

/-! ### The end of a window (R62, R414) -/

/-- The device with the window that has ended taken. -/
def Device.tookWindow (d : Device) : Device := { d with gov := { d.gov with window := d.alm.ticks / 256 } }

/-- A window that has ended is taken, its rates are noted where a point is in force, and it is a take-up's or the dies'. -/
theorem governorWindowEnd_due {d : Device} {counts : List (BitVec 16)} (hdue : d.windowDue = true) :
    governorWindowEnd d counts =
      let e := if d.tookWindow.point = 0 then d.tookWindow else d.tookWindow.noteRates counts
      match e.gov.wanted with
      | some p => e.askedWindow counts p
      | none => if e.point = 0 then e else allDies.foldl (fun d i => d.dieWindow counts i) e := by
  unfold governorWindowEnd
  rw [hdue]
  rfl

/-- A window that has ended, at a point in force. -/
theorem governorWindowEnd_inForce {d : Device} {counts : List (BitVec 16)} (hdue : d.windowDue = true) (hpoint : d.point ≠ 0) :
    governorWindowEnd d counts = match d.gov.wanted with
      | some p => (d.tookWindow.noteRates counts).askedWindow counts p
      | none => allDies.foldl (fun d i => d.dieWindow counts i) (d.tookWindow.noteRates counts) := by
  obtain ⟨-, hgov, hother, -⟩ := d.tookWindow.noteRates_spec counts
  have hpoint₁ : d.tookWindow.point ≠ 0 := hpoint
  have hpoint₂ : (d.tookWindow.noteRates counts).point ≠ 0 := by
    rw [Device.point, Device.fld, hother _ fun n _ => by unfold Reg.pwrStatus Reg.pwrCoreRate; omega]
    exact hpoint
  have hwanted : (d.tookWindow.noteRates counts).gov.wanted = d.gov.wanted :=
    (congrArg Governor.wanted hgov).trans rfl
  rw [governorWindowEnd_due hdue]
  simp only [if_false, hpoint₁, hpoint₂, hwanted]

/-- A field just set reads back. -/
theorem bitsAt_putBits (w : Word) {lo len : Nat} (v : Nat) (h : lo + len ≤ 64) :
    bitsAt (putBits w lo len v) lo len = v % 2 ^ len := by
  refine Nat.eq_of_testBit_eq fun i => ?_
  rw [bitsAt, Nat.testBit_mod_two_pow, Nat.testBit_div_two_pow, Nat.testBit_mod_two_pow]
  by_cases hi : i < len
  · have hbit : i + lo < 64 := by omega
    have hmask : ((2 ^ len - 1) * 2 ^ lo).testBit (i + lo) = true := by
      rw [Nat.testBit_mul_two_pow, Nat.testBit_two_pow_sub_one]
      simp [hi]
    have hval : (v % 2 ^ len * 2 ^ lo).testBit (i + lo) = v.testBit i := by
      rw [Nat.testBit_mul_two_pow, Nat.testBit_mod_two_pow]
      simp [hi]
    rw [BitVec.testBit_toNat, putBits, BitVec.getLsbD_or, BitVec.getLsbD_and, BitVec.getLsbD_not, BitVec.getLsbD_ofNat,
      BitVec.getLsbD_ofNat, hmask, hval]
    simp [hi, hbit]
  · simp [hi]

/-- The point put in force, with its counts. -/
theorem Device.forcePoint_spec (d : Device) (p : BitVec 2) : (d.forcePoint p.toNat).point = p.toNat ∧
    (d.forcePoint p.toNat).reg Reg.pwrCounts =
      BitVec.ofNat 64 ((pointCounts p.toNat).2.1 * 2 ^ 16 + (pointCounts p.toNat).1) := by
  have hp : p.toNat < 4 := p.isLt
  unfold Device.forcePoint
  dsimp only
  refine ⟨?_, ?_⟩
  · rw [Device.point, Device.fld, Device.reg_setReg_ne _ _ (by decide), Device.reg_setReg]
    split
    · next h => rw [h]; decide
    · rw [bitsAt_ofNat _ _ _ (by omega)]
      omega
  · rw [Device.reg_setReg]
    split
    · next h => rw [h]; rfl
    · rfl

/-- The counts of a point put in force, and no RUN to complete: the change request is done. -/
theorem Device.switchCounts_spec {d : Device} (p : BitVec 2) (hbusy : d.busy = none) :
    (d.switchCounts p).point = p.toNat ∧ (d.switchCounts p).gov.takeUp = none ∧
      (d.switchCounts p).reg Reg.pwrCounts =
        BitVec.ofNat 64 ((pointCounts p.toNat).2.1 * 2 ^ 16 + (pointCounts p.toNat).1) ∧
      (d.switchCounts p).fld Reg.cfgOppStatus 4 2 = 1 ∧ (d.switchCounts p).mem = d.mem ∧ (d.switchCounts p).ctxs = d.ctxs := by
  let e : Device := { d.forcePoint p.toNat with gov := { d.gov with takeUp := none } }
  let f : Device := allDies.foldl (fun d i => d.setDie i { d.die i with settling := false, clean := 0 }) e
  have hswitch : d.switchCounts p = f.setFld Reg.cfgOppStatus 4 2 1 := by
    have hf : f.busy = none := hbusy
    have h : d.switchCounts p = if f.busy = some .run then f.enterRunning else f.setFld Reg.cfgOppStatus 4 2 1 := rfl
    rw [h, hf]
    rfl
  have hreg : ∀ a, a ≠ Reg.cfgOppStatus → (f.setFld Reg.cfgOppStatus 4 2 1).reg a = (d.forcePoint p.toNat).reg a :=
    fun a ha => f.reg_setReg_ne _ ha
  rw [hswitch]
  refine ⟨?_, rfl, ?_, ?_, rfl, rfl⟩
  · rw [Device.point, Device.fld, hreg _ (by decide)]
    exact (d.forcePoint_spec p).1
  · rw [hreg _ (by decide)]
    exact (d.forcePoint_spec p).2
  · rw [Device.fld, Device.setFld, Device.reg_setReg, bitsAt_putBits _ _ (by omega)]
    rfl

/-! ### Rail steps (R65) -/

section
variable (d : Device) {i j : Fin 4}

/-- A die replaced leaves the others. -/
theorem Device.die_setDie_ne (x : DieGov) (h : j ≠ i) : (d.setDie i x).die j = d.die j := by
  have hne : i.val ≠ j.val := fun he => h (Fin.ext he.symm)
  simp [Device.die, Device.setDie, hne]

/-- The step of a rail: 5 mV towards its target, announced; memory, the contexts and the other dies stand. -/
theorem Device.stepRail_spec (target : Nat) (hlow : d.rail i < 2000) :
    (d.stepRail i target).rail i = (if d.rail i < target then d.rail i + 5 else d.rail i - 5) ∧
      (d.stepRail i target).sent = d.sent ++ [.avs i (if d.rail i < target then d.rail i + 5 else d.rail i - 5)] ∧
      ∀ j ≠ i, (d.stepRail i target).rail j = d.rail j ∧ (d.stepRail i target).die j = d.die j := by
  let v := if d.rail i < target then d.rail i + 5 else d.rail i - 5
  let e := d.setDie i { d.die i with settling := true, clean := 0 }
  have hv : v < 2 ^ 64 := by
    simp only [v]
    split <;> omega
  have hreg : ∀ a, (d.stepRail i target).reg a = (e.setReg (Reg.pwrRail i) (BitVec.ofNat 64 v)).reg a := fun _ => rfl
  refine ⟨?_, rfl, fun j hj => ⟨?_, d.die_setDie_ne _ hj⟩⟩
  · rw [Device.rail, hreg, Device.reg_setReg, BitVec.toNat_ofNat, Nat.mod_eq_of_lt hv]
  · have hne : Reg.pwrRail j ≠ Reg.pwrRail i := by
      have hij : j.val ≠ i.val := fun h => hj (Fin.ext h)
      unfold Reg.pwrRail
      omega
    rw [Device.rail, hreg, Device.reg_setReg_ne _ _ hne]
    rfl

/-- A step of the governor counted is no rail's. -/
theorem Device.rail_countRaise (j : Fin 4) : d.countRaise.rail j = d.rail j := by
  have hne : Reg.pwrRail j ≠ Reg.pwrGovSteps := by
    unfold Reg.pwrRail Reg.pwrGovSteps
    omega
  exact congrArg BitVec.toNat (d.reg_setReg_ne _ hne)

variable {target : Nat} (hramp : (d.die i).ramp = some target)
include hramp

/-- Before its time a rail that ramps stands. -/
theorem railStep_tooSoon (h : d.tooSoon (.rail i) = true) : railStep d i = d := by
  simp only [railStep, hramp, h, if_true]

variable (h : d.tooSoon (.rail i) = false)
include h

/-- At its target its ramp ends. -/
theorem railStep_ends (hat : d.rail i = target) (hbusy : d.busy ≠ some .stop) :
    railStep d i = d.setDie i { d.die i with ramp := none } := by
  have hstop : ∀ e : Device, e.busy = d.busy → e.stopProgress = e := fun e he => by simp [Device.stopProgress, he, hbusy]
  simp only [railStep, hramp, h, hat, Bool.false_eq_true, if_false, if_true]
  exact hstop _ rfl

/-- Short of it the rail makes a step, which may be counted. -/
theorem railStep_steps (hat : d.rail i ≠ target) :
    railStep d i = d.stepRail i target ∨ railStep d i = (d.stepRail i target).countRaise := by
  simp only [railStep, hramp, h, hat, Bool.false_eq_true, if_false]
  split
  · exact .inr rfl
  · exact .inl rfl

end

/-! ### Change requests (R415) -/

/-- A take-up begun steps rails at most, with the point asked for taken up. -/
theorem Device.beginTakeUp_spec (d : Device) (p : BitVec 2) :
    (d.beginTakeUp p).gov.takeUp = some p ∧ (d.beginTakeUp p).mem = d.mem ∧
      ∀ a, a < 0x100008 → (d.beginTakeUp p).reg a = d.reg a := by
  let e : Device := { d with gov := { d.gov with asked := none, takeUp := some p } }
  have hsteps : e.Stepped (d.beginTakeUp p) := by
    refine List.foldlRecOn _ _ (motive := e.Stepped) (.refl e) fun f hf i _ => ?_
    split
    · exact hf.trans (f.stepped_startRamp i _)
    · split
      · exact hf.trans (f.stepped_startRamp i _)
      · exact hf
  exact ⟨Device.eq_of_offGov (·.gov.takeUp) (fun _ => rfl) hsteps.off,
    (Device.eq_of_offGov Device.mem (fun _ => rfl) hsteps.off).trans rfl,
    fun a ha => (hsteps.regs a (.inl ha)).trans rfl⟩

/-- A request refused: its cause and its sticky bit. -/
theorem Device.refuseChange_spec (d : Device) (cause p : Nat) :
    (d.refuseChange cause p).regBit Reg.cfgSticky 1 = true ∧
      (d.refuseChange cause p).reg Reg.cfgOppStatus = BitVec.ofNat 64 (cause * 256 + 0x30 + p) ∧
      ∀ a, a ≠ Reg.cfgSticky → a ≠ Reg.cfgOppStatus → (d.refuseChange cause p).reg a = d.reg a := by
  let e := d.setReg Reg.cfgOppStatus (BitVec.ofNat 64 (cause * 256 + 0x30 + p))
  refine ⟨e.regBit_orReg Reg.cfgSticky (k := 1) (by omega), ?_, fun a h1 h2 => ?_⟩
  · exact (e.reg_setReg_ne _ (by decide)).trans (d.reg_setReg _ _)
  · exact (e.reg_setReg_ne _ h1).trans (d.reg_setReg_ne _ h2)

/-! ### The obligation -/

/-- The end of a window, with a count for each core. -/
theorem exec_governorWindowEnd {s : State} (hlive : s.dev.live = true) {counts : List (BitVec 16)} (h : counts.length = 96) :
    exec (.governorWindowEnd counts) s = .next { s with dev := governorWindowEnd s.dev.begun counts } :=
  actIf_eq (fun d => governorWindowEnd d counts) (by simp [Instr.wellFormed, h]) hlive

/-- The window's counts put in force the point asked for, once every rail has stood through it with no core slow. -/
theorem askedWindow_switches {d : Device} {counts : List (BitVec 16)} {p : BitVec 2} (htake : d.gov.takeUp.isSome = true)
    (hstand : d.railsStand = true)
    (hpace : ∀ n < 96, min (pointCounts d.point).1 (pointCounts p.toNat).1 ≤ countOf counts n) :
    d.askedWindow counts p = d.switchCounts p := by
  have hdie : ∀ i : Fin 4, d.takeUpWindow counts p i = d := fun i => by
    have hslow := slowCore_none (counts := counts) (i := i) fun k hk => hpace (24 * i + k) (by omega)
    unfold Device.takeUpWindow
    rw [hslow]
    split <;> rfl
  have hdies : allDies.foldl (fun d i => d.takeUpWindow counts p i) d = d :=
    List.foldlRecOn allDies _ (motive := (· = d)) rfl fun e he i _ => by rw [he, hdie]
  have hnone : d.gov.takeUp.isNone = false := by simpa [Option.isNone_eq_false_iff] using htake
  simp only [Device.askedWindow, hdies, hstand, hnone]
  rfl

section
variable {s : State} {counts : List (BitVec 16)} (hlive : s.dev.live = true) (hlen : counts.length = 96)
  (hdue : s.dev.windowDue = true) (hpoint : s.dev.point ≠ 0)
include hlive hlen hdue hpoint

/-- A window without a slow core, through which every rail has stood, puts the counts of the point taken up in force. -/
theorem exec_governorWindowEnd_switches {p : BitVec 2} (htake : s.dev.gov.takeUp = some p) (hstand : s.dev.railsStand = true)
    (hpace : ∀ n < 96, min (pointCounts s.dev.point).1 (pointCounts p.toNat).1 ≤ countOf counts n) :
    exec (.governorWindowEnd counts) s =
      .next { s with dev := (s.dev.begun.tookWindow.noteRates counts).switchCounts p } := by
  obtain ⟨-, hgov, hother, -⟩ := s.dev.begun.tookWindow.noteRates_spec counts
  have hwanted : s.dev.begun.gov.wanted = some p := congrArg (·.or s.dev.gov.asked) htake
  have hpoint' : (s.dev.begun.tookWindow.noteRates counts).point = s.dev.point := by
    rw [Device.point, Device.fld, hother _ fun n _ => by unfold Reg.pwrStatus Reg.pwrCoreRate; omega]
    rfl
  have hstand' : (s.dev.begun.tookWindow.noteRates counts).railsStand = true := by
    simp only [Device.railsStand, Device.die, hgov]
    exact hstand
  have htake' : (s.dev.begun.tookWindow.noteRates counts).gov.takeUp.isSome = true := by
    rw [hgov]
    exact Option.isSome_iff_exists.2 ⟨p, htake⟩
  rw [exec_governorWindowEnd hlive hlen, governorWindowEnd_inForce (d := s.dev.begun) hdue hpoint, hwanted]
  dsimp only
  rw [askedWindow_switches htake' hstand' (by rw [hpoint']; exact hpace)]

/-- A window with no point asked for notes the rates, and is each die's. -/
theorem exec_governorWindowEnd_dies (hwanted : s.dev.gov.wanted = none) :
    exec (.governorWindowEnd counts) s = .next { s with dev := (
      allDies.foldl (fun d i => d.dieWindow counts i) (s.dev.begun.tookWindow.noteRates counts)) } := by
  have hwanted' : s.dev.begun.gov.wanted = none := hwanted
  rw [exec_governorWindowEnd hlive hlen, governorWindowEnd_inForce (d := s.dev.begun) hdue hpoint, hwanted']

end

theorem mem_allDies : ∀ i : Fin 4, i ∈ allDies := by decide

/-- The rates and faults of a window's dies. -/
theorem Device.windowNoted_spec (d : Device) (counts : List (BitVec 16)) :
    let e := allDies.foldl (fun d i => d.dieWindow counts i) (d.tookWindow.noteRates counts)
    e.mem = d.mem ∧ e.ctxs = d.ctxs ∧
      (∀ n < 96, e.fld (Reg.pwrCoreRate n) 0 16 = countOf counts n ∧
        e.fld (Reg.pwrCoreRate n) 16 16 = min (countOf counts n) (d.fld (Reg.pwrCoreRate n) 16 16)) ∧
      (∀ i : Fin 4, (∃ k < 24, countOf counts (24 * i + k) < (pointCounts d.point).1) →
        e.regBit Reg.pwrPaceFault i = true ∧ e.regBit Reg.safFaultLatch 2 = true) ∧
      ((∀ n < 96, (pointCounts d.point).1 ≤ countOf counts n) → e.reg Reg.pwrPaceFault = d.reg Reg.pwrPaceFault) := by
  obtain ⟨hoff, -, hother, hrate⟩ := d.tookWindow.noteRates_spec counts
  have hpoint : (d.tookWindow.noteRates counts).point = d.point := by
    rw [Device.point, Device.fld, hother _ fun n _ => by unfold Reg.pwrStatus Reg.pwrCoreRate; omega]
    rfl
  have hdies := (d.tookWindow.noteRates counts).dieWindows_governed counts allDies
  refine ⟨?_, ?_, fun n hn => ?_, fun i hslow => ?_, fun hpace => ?_⟩
  · exact Device.eq_of_offGov (d := d.tookWindow) Device.mem (fun _ => rfl) (hdies.off.trans hoff)
  · exact Device.eq_of_offGov (d := d.tookWindow) Device.ctxs (fun _ => rfl) (hdies.off.trans hoff)
  · have hreg := (hdies.regs (Reg.pwrCoreRate n) (.inr (by unfold Reg.pwrCoreRate; omega))).trans (hrate n hn)
    rw [Device.fld, Device.fld, hreg]
    exact rateAfter_fields d.tookWindow counts n
  · exact Device.dieWindows_faults _ counts (mem_allDies i) (slowCore_some (by rw [hpoint]; exact hslow))
  · have hsteps := (d.tookWindow.noteRates counts).dieWindows_steps counts allDies fun j _ =>
      slowCore_none fun k hk => by rw [hpoint]; exact hpace _ (by omega)
    refine (hsteps.regs _ (.inr (.inl rfl))).trans ((hother _ fun n _ => ?_).trans rfl)
    unfold Reg.pwrPaceFault Reg.pwrCoreRate
    omega

/-- The window of no point in force and none asked for is taken. -/
theorem governorWindowEnd_noPoint {d : Device} (counts : List (BitVec 16)) (hdue : d.windowDue = true) (hpoint : d.point = 0)
    (hwanted : d.gov.wanted = none) : governorWindowEnd d counts = d.tookWindow := by
  have hpoint' : d.tookWindow.point = 0 := hpoint
  have hwanted' : d.tookWindow.gov.wanted = none := hwanted
  rw [governorWindowEnd_due hdue]
  simp only [hpoint', hwanted', if_true]

section
variable {s : State} (hlive : s.dev.live = true)
include hlive

/-- RAIL_STEP of a rail short of its target steps the rail. -/
theorem exec_railStep_steps {i : Fin 4} {target : Nat} (hramp : (s.dev.die i).ramp = some target)
    (hsoon : s.dev.tooSoon (.rail i) = false) (hat : s.dev.rail i ≠ target) (hlow : s.dev.rail i < 2000) :
    ∃ t, exec (.railStep i) s = .next t ∧
      t.dev.rail i = (if s.dev.rail i < target then s.dev.rail i + 5 else s.dev.rail i - 5) ∧
      t.dev.sent = [.avs i (t.dev.rail i)] ∧ t.dev.mem = s.dev.mem ∧ t.dev.ctxs = s.dev.ctxs ∧
      ∀ j ≠ i, t.dev.rail j = s.dev.rail j ∧ t.dev.die j = s.dev.die j := by
  have hexec : exec (.railStep i) s = .next { s with dev := railStep s.dev.begun i } :=
    actLive_eq (fun d => railStep d i) hlive
  obtain ⟨hrail, hsent, hothers⟩ := s.dev.begun.stepRail_spec (i := i) target hlow
  have hsent' : (s.dev.begun.stepRail i target).sent = [.avs i ((s.dev.begun.stepRail i target).rail i)] := by
    rw [hsent, hrail]
    rfl
  rw [hexec]
  obtain h | h := railStep_steps (d := s.dev.begun) hramp hsoon hat
  · rw [h]
    exact ⟨_, rfl, hrail, hsent', rfl, rfl, hothers⟩
  · rw [h]
    let e := s.dev.begun.stepRail i target
    refine ⟨_, rfl, (e.rail_countRaise i).trans hrail, hsent'.trans ?_, rfl, rfl, fun j hj =>
      ⟨(e.rail_countRaise j).trans (hothers j hj).1, (hothers j hj).2⟩⟩
    rw [e.rail_countRaise i]

/-- The effect of a change request. -/
theorem exec_cfgOppReq {who : Who} (v : Half) (hpresent : s.dev.present who = true) :
    exec (.cfgOppReq who v) s = .next { s with dev := cfgOppReq s.dev.begun v } :=
  actBy_eq (fun d => cfgOppReq d v) hlive hpresent

end

section
variable {d : Device} {v : Half}

/-- A change request with a cause against it is refused. -/
theorem cfgOppReq_refused {cause : Nat} (h : d.oppVeto (v.toNat % 4) = some cause) :
    cfgOppReq d v = (d.reply .written).refuseChange cause (v.toNat % 4) := by
  have h' : (d.reply .written).oppVeto (v.toNat % 4) = some cause := h
  simp only [cfgOppReq, h']

variable (h : d.oppVeto (v.toNat % 4) = none)
include h

/-- One for the point in force is done. -/
theorem cfgOppReq_inForce (hp : v.toNat % 4 = d.point) :
    cfgOppReq d v = (d.reply .written).setReg Reg.cfgOppStatus (BitVec.ofNat 64 (0x10 + v.toNat % 4)) := by
  have h' : (d.reply .written).oppVeto (v.toNat % 4) = none := h
  have hp' : v.toNat % 4 = (d.reply .written).point := hp
  simp only [cfgOppReq, h']
  rw [if_pos hp']

/-- Any other is in progress: taken up, or asked for while an admission goes on. -/
theorem cfgOppReq_other (hp : v.toNat % 4 ≠ d.point) : cfgOppReq d v =
    let e := (d.reply .written).setReg Reg.cfgOppStatus (BitVec.ofNat 64 (0x20 + v.toNat % 4))
    if d.admissionBusy then { e with gov := { d.gov with asked := some (BitVec.ofNat 2 (v.toNat % 4)) } }
    else e.beginTakeUp (BitVec.ofNat 2 (v.toNat % 4)) := by
  have h' : (d.reply .written).oppVeto (v.toNat % 4) = none := h
  have hp' : v.toNat % 4 ≠ (d.reply .written).point := hp
  simp only [cfgOppReq, h']
  rw [if_neg hp']
  rfl

end

/-- Settles O49: a window notes the rates, and its dies step their rails or have a pace fault, or the point asked for comes into
force; a rail steps 5 mV at its time; and a change request is refused, done at once, taken up, or kept for later. -/
theorem governorWindows : Obligations.GovernorWindows := by
  intro s hlive d
  refine ⟨fun counts hlen hdue => ?_, fun counts p hlen hdue htake hpoint hbusy hstand hpace => ?_,
    fun counts hlen hdue hwanted hpoint => ?_, fun hwanted hpoint hdue counts hlen => ?_, fun i target hramp => ?_, ?_⟩
  · rw [exec_governorWindowEnd hlive hlen]
    have hdue' : d.windowDue = false := hdue
    simp [governorWindowEnd, d, hdue']
  · obtain ⟨hoff, -⟩ := s.dev.begun.tookWindow.noteRates_spec counts
    have hbusy' : (s.dev.begun.tookWindow.noteRates counts).busy = none :=
      (Device.eq_of_offGov Device.busy (fun _ => rfl) hoff).trans hbusy
    obtain ⟨hp, hnone, hcounts, hdone, hmem, hctxs⟩ := Device.switchCounts_spec p hbusy'
    exact ⟨_, exec_governorWindowEnd_switches hlive hlen hdue hpoint htake hstand hpace, hp, hnone, hcounts, hdone,
      hmem.trans (Device.eq_of_offGov (d := s.dev.begun.tookWindow) Device.mem (fun _ => rfl) hoff),
      hctxs.trans (Device.eq_of_offGov (d := s.dev.begun.tookWindow) Device.ctxs (fun _ => rfl) hoff)⟩
  · exact ⟨_, exec_governorWindowEnd_dies hlive hlen hdue hpoint hwanted, s.dev.begun.windowNoted_spec counts⟩
  · rw [exec_governorWindowEnd hlive hlen, governorWindowEnd_noPoint (d := s.dev.begun) counts hdue hpoint hwanted]
    rfl
  · have hexec : exec (.railStep i) s = .next { s with dev := railStep d i } := actLive_eq (fun d => railStep d i) hlive
    refine ⟨fun hsoon => ?_, fun hsoon hat hlow _ => exec_railStep_steps hlive hramp hsoon hat hlow,
      fun hsoon hat hstop => ?_⟩
    · rw [hexec, railStep_tooSoon (d := d) hramp hsoon]
    · rw [hexec, railStep_ends (d := d) hramp hsoon hat hstop]
  · intro who v hpresent p
    have hp : p < 4 := Nat.mod_lt _ (by decide)
    have hexec := exec_cfgOppReq hlive v hpresent
    refine ⟨fun cause hcause => ?_, fun hnone => ⟨fun hsame => ?_, fun hother hfree => ?_, fun hother hbusy => ?_⟩⟩
    · rw [cfgOppReq_refused (d := s.dev.begun) hcause] at hexec
      obtain ⟨hsticky, hstatus, hregs⟩ := (s.dev.begun.reply .written).refuseChange_spec cause p
      exact ⟨_, hexec, rfl, hsticky, hstatus, rfl, rfl, hregs⟩
    · rw [hexec, cfgOppReq_inForce (d := s.dev.begun) hnone hsame]
    · have hfree' : s.dev.begun.admissionBusy = false := hfree
      let e := (s.dev.begun.reply .written).setReg Reg.cfgOppStatus (BitVec.ofNat 64 (0x20 + p))
      have htake : cfgOppReq s.dev.begun v = e.beginTakeUp (BitVec.ofNat 2 p) := by
        rw [cfgOppReq_other (d := s.dev.begun) hnone hother, hfree']
        rfl
      obtain ⟨htaken, hmem, hregs⟩ := e.beginTakeUp_spec (BitVec.ofNat 2 p)
      refine ⟨_, hexec, ?_, ?_, ?_, ?_⟩
      · exact (congrArg (·.gov.takeUp) htake).trans htaken
      · simp only [htake]
        rw [Device.fld, hregs _ (by decide), Device.reg_setReg, bitsAt_ofNat _ _ _ (by omega)]
        omega
      · exact (congrArg Device.mem htake).trans hmem
      · simp only [htake]
        exact (hregs _ (by decide)).trans (Device.reg_setReg_ne _ _ (by decide))
    · have hbusy' : s.dev.begun.admissionBusy = true := hbusy
      rw [hexec, cfgOppReq_other (d := s.dev.begun) hnone hother, hbusy']
      rfl

end Sys2Proof.Machine

/-!
PROOF. Counters, waits and loops of a core's units (O25 to O27, O31): what a context fault leaves, and what an operation on a
synchronisation object comes to in its unit's turn.
-/

namespace Sys2Proof.Machine

/-! ### Seats and beats (R217, R330) -/

/-- A seat is in the usable slice time of its context, which is OPEN. -/
theorem Device.seat_ctx {d : Device} {core : Nat} {q : Seat} (h : d.seat core = some q) :
    d.usableCtx core = some q.ctx ∧ (d.ctx q.ctx).st = .opened := by
  unfold Device.seat at h
  split at h
  · cases h
  split at h
  · cases h
  next c hc =>
  split at h
  · cases h
  next hst =>
  obtain ⟨h, -⟩ := Option.filter_eq_some_iff.1 h
  have hctx : q.ctx = c := by
    unfold Device.seatIn at h
    repeat' split at h
    all_goals simp_all
    · exact h ▸ rfl
    · obtain ⟨_, _, rfl⟩ := h
      rfl
  rw [hctx]
  simp only [Bool.or_eq_true, decide_eq_true_eq, not_or, not_not] at hst
  exact ⟨hc, hst.1⟩

/-- Counting a beat changes its run alone, which stays unstopped where it was. -/
theorem Device.countBeat_ctx (d : Device) (q : Seat) (k : UnitKind) : ∃ f : Run → Run, (∀ r, (f r).stopped = r.stopped) ∧
    (d.countBeat q k).ctx q.ctx = { d.ctx q.ctx with run := (d.ctx q.ctx).run.map f } := by
  unfold Device.countBeat
  split
  · exact ⟨fun r => { r with beats := tmodD r.beats q.core 0 (· + 1) }, fun _ => rfl, d.ctx_setCtx _ _⟩
  · exact ⟨id, fun _ => rfl, by simp⟩

@[simp] theorem Device.countBeat_objects (d : Device) (q : Seat) (k : UnitKind) : (d.countBeat q k).objects = d.objects := by
  rw [Device.countBeat_eq_withCtxs]
  rfl

@[simp] theorem Device.countBeat_banks (d : Device) (q : Seat) (k : UnitKind) : (d.countBeat q k).banks = d.banks := by
  rw [Device.countBeat_eq_withCtxs]
  rfl

@[simp] theorem Device.countBeat_obj (d : Device) (q p : Seat) (k : UnitKind) (o : Nat) :
    (d.countBeat q k).obj p o = d.obj p o := by
  simp [Device.obj]

@[simp] theorem Device.begun_obj (d : Device) (q : Seat) (o : Nat) : d.begun.obj q o = d.obj q o := rfl

/-- A beat begun leaves the units as they were. -/
@[simp] theorem Bank.newBeat_unit (b : Bank) (k k' : UnitKind) : (b.newBeat k).unit k' = b.unit k' := by
  unfold Bank.newBeat
  split <;> cases k' <;> rfl

@[simp] theorem Bank.newBeat_outstanding (b : Bank) (k k' : UnitKind) : (b.newBeat k).outstanding k' = b.outstanding k' := by
  unfold Bank.newBeat
  split <;> rfl

/-! ### Context faults (R223, R226) -/

/-- What a context fault that is not a stream's tag leaves: the context TEARING with its status and detail, and memory, the banks and
the objects as they were. -/
structure Device.TornDown (d e : Device) (c : Nat) (status detail : Byte) : Prop where
  st : (e.ctx c).st = .tearing
  teardown : (e.ctx c).teardown.map (fun x => (x.status, x.detail)) = some (status, detail)
  mem : e.mem = d.mem
  objects : e.objects = d.objects
  banks : e.banks = d.banks

/-- The record of a teardown is in registers. -/
theorem Device.noteTeardown_lowRegs (d : Device) (c core : Nat) (status detail : Byte) :
    d.LowRegs (d.noteTeardown c core status detail) :=
  ((((Device.LowRegs.refl d).setReg (a := Reg.calTdCount) (by decide) _).recordIf _ (by decide) _).recordIf _ (by decide) _).orReg
    (by decide) _

/-- A context as its teardown leaves it. -/
def Ctx.torn (x : Ctx) (core : Nat) (status detail : Byte) : Ctx :=
  { x with
    st := .tearing
    run := x.run.map fun r => r.stop status detail
    teardown := some { status := status, detail := detail, core := BitVec.ofNat 8 core, close := false, drained := false } }

/-- A fault of an OPEN context tears it down, and registers take the record. -/
theorem Device.ctxFault_lowRegs {d : Device} {c : Nat} (core : Nat) {status : Byte} (detail : Byte)
    (ho : (d.ctx c).st = .opened) (hs : status ≠ St.streamTag) :
    (d.setCtx c ((d.ctx c).torn core status detail)).LowRegs (d.ctxFault c core status detail) := by
  simp only [Device.ctxFault, if_neg hs, Device.tearDown, ho]
  exact Device.noteTeardown_lowRegs _ _ _ _ _

theorem Device.tornDown_ctxFault {d : Device} {c : Nat} (core : Nat) {status : Byte} (detail : Byte)
    (ho : (d.ctx c).st = .opened) (hs : status ≠ St.streamTag) : d.TornDown (d.ctxFault c core status detail) c status detail := by
  obtain ⟨⟨r, hr⟩, -⟩ := Device.ctxFault_lowRegs core detail ho hs
  have hctx := d.ctx_setCtx c ((d.ctx c).torn core status detail)
  rw [hr]
  exact ⟨congrArg Ctx.st hctx, congrArg (fun x : Ctx => x.teardown.map fun x => (x.status, x.detail)) hctx, rfl, rfl, rfl⟩

/-- An instruction that faults in its unit's turn tears its context down. -/
theorem Device.tornDown_issue {d : Device} {core : Nat} {k : UnitKind} {q : Seat} {status detail : Byte}
    {f : Device → Seat → Bank → Did} (hi : d.mayIssue core k q) (hs : status ≠ St.streamTag)
    (hf : f (d.countBeat q k) q ((d.bank core q.ctx).newBeat k) = .fault status detail) :
    d.TornDown (d.issue core k f) q.ctx status detail := by
  obtain ⟨g, -, hctx⟩ := d.countBeat_ctx q k
  have ho : ((d.countBeat q k).ctx q.ctx).st = .opened := by rw [hctx]; exact (Device.seat_ctx hi.2.1).2
  obtain ⟨hst, htd, hmem, hobj, hbanks⟩ := Device.tornDown_ctxFault core detail ho hs
  rw [Device.issue_fault hi hf]
  exact ⟨hst, htd, hmem.trans (by simp), hobj.trans (by simp), hbanks.trans (by simp)⟩

/-! ### Synchronisation objects (R84, R87) -/

/-- Another object stands where one is set. -/
theorem Device.obj_setObj_ne (d : Device) (q : Seat) {o o' : Nat} (v : Half) (h : o' ≠ o) :
    (d.setObj q o v).obj q o' = d.obj q o' :=
  tgetD_tputD_ne _ _ _ _ (by unfold objKey; omega)

section
variable {d : Device} {q : Seat} {b : Bank} {o n : Nat}

/-- A SIG that fits adds to the counter. -/
theorem syncSig_fits (h : (d.obj q o).toNat + n < 2 ^ 32) :
    syncSig d q b o n = .done (d.setObj q o (BitVec.ofNat 32 ((d.obj q o).toNat + n))) b := by
  simp only [syncSig, Device.addObj, if_neg (Nat.not_le.2 h)]

/-- One that does not fit is a fault. -/
theorem syncSig_over (h : 2 ^ 32 ≤ (d.obj q o).toNat + n) : syncSig d q b o n = .fault St.bounds 0x06 := by
  simp only [syncSig, Device.addObj, if_pos h]

end

/-- A synchronisation instruction that takes effect: it leaves its object at a value, every other object and memory as they were, and
its unit one instruction further on, waiting or not. -/
def SyncDone (s : State) (a : SyncAt) (q : Seat) (f : Device → Seat → Bank → Did) (x : Half) (w : Option WaitCond) : Prop :=
  ∃ t, actLive s (fun d => d.issue a.core a.unit f) = .next t ∧ t.dev.mem = s.dev.mem ∧ t.dev.obj q a.object = x ∧
    (∀ o ≠ a.object, t.dev.obj q o = s.dev.obj q o) ∧ ((t.dev.bank a.core q.ctx).unit a.unit).waiting = w ∧
    ((t.dev.bank a.core q.ctx).unit a.unit).position = ((s.dev.bank a.core q.ctx).unit a.unit).position + 1

section
variable {s : State} {a : SyncAt} {q : Seat} {f : Device → Seat → Bank → Did} (hi : s.dev.mayIssue a.core a.unit q)
include hi

/-- A synchronisation instruction in its unit's turn. -/
theorem actLive_issue : actLive s (fun d => d.issue a.core a.unit f) =
    .next { s with dev := s.dev.begun.issue a.core a.unit f } := actLive_eq _ hi.1

/-- One that holds changes nothing. -/
theorem actLive_issue_hold
    (hf : f (s.dev.begun.countBeat q a.unit) q ((s.dev.bank a.core q.ctx).newBeat a.unit) = .hold) :
    actLive s (fun d => d.issue a.core a.unit f) = .next { s with dev := s.dev.begun } := by
  rw [actLive_issue hi, Device.issue_eq (Device.mayIssue_begun hi), Device.begun_bank, hf]

/-- One that faults tears its context down. -/
theorem exec_sync_fault {x y : Byte} (hx : x ≠ St.streamTag)
    (hf : f (s.dev.begun.countBeat q a.unit) q ((s.dev.bank a.core q.ctx).newBeat a.unit) = .fault x y) :
    ∃ t, actLive s (fun d => d.issue a.core a.unit f) = .next t ∧ t.dev.objects = s.dev.objects ∧ t.dev.mem = s.dev.mem ∧
      (t.dev.ctx q.ctx).st = .tearing ∧ (t.dev.ctx q.ctx).teardown.map (fun x => (x.status, x.detail)) = some (x, y) := by
  obtain ⟨hst, htd, hmem, hobj, -⟩ := Device.tornDown_issue (Device.mayIssue_begun hi) hx hf
  exact ⟨_, actLive_issue hi, hobj, hmem, hst, htd⟩

/-- One that takes effect, changing its object alone. -/
theorem syncDone_of_done {d : Device} {b : Bank} {x : Half} {w : Option WaitCond}
    (hf : f (s.dev.begun.countBeat q a.unit) q ((s.dev.bank a.core q.ctx).newBeat a.unit) = .done d b)
    (hmem : d.mem = s.dev.mem) (hobj : d.obj q a.object = x) (hother : ∀ o ≠ a.object, d.obj q o = s.dev.obj q o)
    (hb : b.unit a.unit = { (s.dev.bank a.core q.ctx).unit a.unit with waiting := w }) : SyncDone s a q f x w := by
  refine ⟨_, (actLive_issue hi).trans (by rw [Device.issue_done (Device.mayIssue_begun hi) hf]), hmem, hobj, hother, ?_⟩
  dsimp only
  rw [Device.bank_setBank, Bank.unit_setUnit, hb]
  exact ⟨rfl, rfl⟩

/-- One that sets its object and goes on. -/
theorem syncDone_sets {x : Half}
    (hf : f (s.dev.begun.countBeat q a.unit) q ((s.dev.bank a.core q.ctx).newBeat a.unit) =
      .done ((s.dev.begun.countBeat q a.unit).setObj q a.object x) ((s.dev.bank a.core q.ctx).newBeat a.unit)) :
    SyncDone s a q f x none :=
  syncDone_of_done hi hf (s.dev.begun.countBeat_mem q a.unit) (Device.obj_setObj _ _ _ _)
    (fun o ho => (Device.obj_setObj_ne _ _ _ ho).trans (by simp)) (by rw [Bank.newBeat_unit, ← hi.2.2.2])

/-- One that leaves its object and goes on. -/
theorem syncDone_passes
    (hf : f (s.dev.begun.countBeat q a.unit) q ((s.dev.bank a.core q.ctx).newBeat a.unit) =
      .done (s.dev.begun.countBeat q a.unit) ((s.dev.bank a.core q.ctx).newBeat a.unit)) :
    SyncDone s a q f (s.dev.obj q a.object) none :=
  syncDone_of_done hi hf (s.dev.begun.countBeat_mem q a.unit) (by simp) (fun o _ => by simp)
    (by rw [Bank.newBeat_unit, ← hi.2.2.2])

/-- One that leaves its object and waits. -/
theorem syncDone_waits {w : WaitCond}
    (hf : f (s.dev.begun.countBeat q a.unit) q ((s.dev.bank a.core q.ctx).newBeat a.unit) =
      .done (s.dev.begun.countBeat q a.unit) (((s.dev.bank a.core q.ctx).newBeat a.unit).wait a.unit w)) :
    SyncDone s a q f (s.dev.obj q a.object) (some w) :=
  syncDone_of_done hi hf (s.dev.begun.countBeat_mem q a.unit) (by simp) (fun o _ => by simp) (by simp [Bank.wait])

end

/-- Settles O26: each operation comes to its case above, as the counter and its streamer's transfers say. -/
theorem syncOperations : Obligations.SyncOperations := by
  intro a s q hi v b done torn
  let d := s.dev.begun.countBeat q a.unit
  let b' := (s.dev.bank a.core q.ctx).newBeat a.unit
  have hobj : d.obj q a.object = s.dev.obj q a.object := by simp [d]
  have hout : b'.outstanding a.unit = b.outstanding a.unit := Bank.newBeat_outstanding _ _ _
  have hfits : ∀ n, v + n < 2 ^ 32 → syncSig d q b' a.object n = .done (d.setObj q a.object (BitVec.ofNat 32 (v + n))) b' :=
    fun n hn => by rw [syncSig_fits (by rwa [hobj]), hobj]
  have hover : ∀ n, 2 ^ 32 ≤ v + n → syncSig d q b' a.object n = .fault St.bounds 0x06 := fun n hn =>
    syncSig_over (by rwa [hobj])
  refine ⟨fun n => ⟨fun hn => syncDone_sets hi (hfits _ hn), fun hn => exec_sync_fault hi (by decide) (hover _ hn)⟩,
    fun x => syncDone_sets hi rfl, fun x => ?_, fun n => ?_, fun hk n => ?_,
    fun hk n => ⟨fun ho hn => ?_, fun ho hn => ?_, fun ho => ?_⟩⟩
  · split
    · next hx => exact syncDone_passes hi (if_pos (hobj ▸ hx))
    · next hx => exact syncDone_waits hi (if_neg (hobj ▸ hx))
  · split
    · next hn => exact syncDone_sets hi ((if_pos (hobj ▸ hn)).trans (by rw [hobj]))
    · next hn => exact syncDone_waits hi (if_neg (hobj ▸ hn))
  · exact actLive_issue_hold hi (if_pos hk)
  · exact syncDone_sets hi ((if_neg hk).trans ((if_pos (by rw [hout, ho]; rfl)).trans (hfits _ hn)))
  · exact exec_sync_fault hi (by decide) ((if_neg hk).trans ((if_pos (by rw [hout, ho]; rfl)).trans (hover _ hn)))
  · exact syncDone_waits hi ((if_neg hk).trans (if_neg (by rw [hout]; simpa using ho)))

/-! ### Waits that end (R85, R86) -/

section
variable {s : State} {core : Fin 96} {k : UnitKind} {q : Seat} {w : WaitCond} (hlive : s.dev.live = true)
  (hseat : s.dev.seat core = some q) (hw : ((s.dev.bank core q.ctx).unit k).waiting = some w)
include hlive hseat hw

/-- A wait whose condition does not hold goes on. -/
theorem exec_wait_held (hr : released s.dev.begun q (s.dev.bank core q.ctx) k w = none) :
    exec (.syncWaitReleased core k) s = .next { s with dev := s.dev.begun } := by
  have hrel : syncRelease s.dev.begun core k = s.dev.begun := by
    simp only [syncRelease, show s.dev.begun.seat core = some q from hseat, Device.begun_bank, hw, hr]
  exact (actLive_eq (fun d => syncRelease d core k) hlive).trans (by rw [hrel])

/-- One whose condition holds leaves its device and its bank. -/
theorem exec_wait_done {d : Device} {b : Bank} (hr : released s.dev.begun q (s.dev.bank core q.ctx) k w = some (.done d b)) :
    exec (.syncWaitReleased core k) s = .next { s with dev := d.setBank core q.ctx b } := by
  have hrel : syncRelease s.dev.begun core k = d.setBank core q.ctx b := by
    simp only [syncRelease, show s.dev.begun.seat core = some q from hseat, Device.begun_bank, hw, hr, Device.settleWait,
      Device.seat_core hseat]
  exact (actLive_eq (fun d => syncRelease d core k) hlive).trans (by rw [hrel])

end

/-- Outside a walk, a unit that waits to take an amount takes it where it can. -/
theorem released_taking {d : Device} {q : Seat} {b : Bank} (k : UnitKind) (o : Nat) (n : Half) (hwalk : b.walking = false) :
    released d q b k (.taking o n) = if n ≤ d.obj q o then
      some (.done (d.setObj q o (d.obj q o - n)) (b.setUnit k { b.unit k with waiting := none })) else none := by
  simp [released, hwalk]

/-- Settles O27: where the condition holds the unit's wait is over, and where it does not nothing is done. -/
theorem waitReleased : Obligations.WaitReleased := by
  intro core k s q o n hlive hseat b held
  refine ⟨fun hw => ⟨fun hn => ?_, fun hn => ?_⟩, fun hw hwalk => ⟨fun hn => ?_, fun hn => ?_⟩⟩
  · refine ⟨_, exec_wait_done hlive hseat hw (if_pos hn), ?_, rfl, rfl, ?_⟩ <;>
      dsimp only <;> rw [Device.bank_setBank, Bank.unit_setUnit]
  · exact exec_wait_held hlive hseat hw (if_neg (BitVec.not_le.2 hn))
  · refine ⟨_, exec_wait_done hlive hseat hw ((released_taking k o n hwalk).trans (if_pos hn)), ?_,
      Device.obj_setObj _ _ _ _, fun o' ho => Device.obj_setObj_ne _ _ _ ho, rfl⟩
    dsimp only
    rw [Device.bank_setBank, Bank.unit_setUnit]
  · exact exec_wait_held hlive hseat hw ((released_taking k o n hwalk).trans (if_neg (BitVec.not_le.2 hn)))

end Sys2Proof.Machine

/-!
PROOF. DIGEST (O31), SETREG, LOOP and END (O25): what each changes of its unit's bank and of the run.
-/

namespace Sys2Proof.Machine

/-! ### DIGEST (R117) -/

@[simp] theorem Bank.setUnit_digest (b : Bank) (k : UnitKind) (x : UnitState) : (b.setUnit k x).digest = b.digest := by
  cases k <;> rfl

/-- A run changed is the run of its context. -/
theorem Device.modRun_run {d : Device} {c : Nat} {r : Run} (h : (d.ctx c).run = some r) (f : Run → Run) :
    ((d.modRun c f).ctx c).run = some (f r) := by
  simp [Device.modRun, h]

/-- A DIGEST in its unit's turn that leaves a device and a bank. -/
theorem exec_digest_done {u : CoreUse} {s : State} {q : Seat} (hi : s.dev.mayIssue u.core .store q) (hu : cleanUse u)
    {op : DigestOp} {d : Device} {b : Bank} (hf : digest s.dev.begun q (s.dev.bank u.core q.ctx) op = .done d b) :
    exec (.digest u op) s = .next { s with dev := d.setBank u.core q.ctx (b.setUnit .store (b.unit .store).advance) } :=
  actLive_issueEcc_done hi hu hf

/-- Closing an open digest of a result of the slab sends it to the run. -/
theorem digest_stop {d : Device} {q : Seat} {b : Bank} {g : DigestAcc} {i : Nat} (hg : b.digest = some g)
    (hi : q.slab.resultAt g.result = some i) : digest d q b .stop =
      .done (d.modRun q.ctx fun r => { r with digests := tput r.digests (digestKey i q.replica) g.crc })
        { b with digest := none } := by
  simp only [digest, hg, hi]

/-- Settles O31: DIGEST changes its bank's digest, and with the close of one the run's digests. -/
theorem storeDigests : Obligations.StoreDigests := by
  intro u s q hi hu b
  refine ⟨fun r => ⟨_, exec_digest_done hi hu rfl, rfl, ?_⟩, fun g i hg hr =>
    ⟨_, exec_digest_done hi hu (digest_stop hg hr), rfl, ?_, ?_⟩⟩
  · simp [b]
  · simp
  · have hrun := Device.modRun_run (d := s.dev.begun) (Device.seat_run hi.2.1).1
      fun r => { r with digests := tput r.digests (digestKey i q.replica) g.crc }
    exact (congrArg (·.bind fun r => tget r.digests (digestKey i q.replica)) hrun).trans (tget_tput_self _ _ _)

/-! ### SETREG (R80) -/

/-- The registers of SETREG have numbers of their own. -/
theorem coreRegKey_injective : Function.Injective coreRegKey := by
  intro r r' h
  cases r <;> cases r' <;> simp [coreRegKey, Fin.ext_iff] at h ⊢ <;> omega

/-! ### LOOP (R81) -/

section
variable {d : Device} {q : Seat} {b : Bank} {k : UnitKind}

/-- The bank with a loop of a count opened by a unit. -/
def Bank.opened (b : Bank) (k : UnitKind) (n : Nat) : Bank := b.setUnit k { b.unit k with loops := (n :: (b.unit k).loops).take 4 }

/-- A context without a serving table has no active slot. -/
theorem loopOp_noTable (h : d.servingBase q.ctx = none) :
    loopOp d q b k .activeSlots = .done d (b.opened k (d.activeCount q.ctx)) := by
  simp only [loopOp, h, Device.activeCount]
  rfl

variable {a : Nat} (h : d.servingBase q.ctx = some a)
include h

theorem loopOp_offline (hoff : d.addrOff a = true) : loopOp d q b k .activeSlots = .ends d St.unitOffline 0 := by
  simp [loopOp, h, hoff]

theorem loopOp_held (hon : d.addrOff a = false) (hp : d.lineIssue (q.core / 4) (d.bucketOwner q.ctx) a = none) :
    loopOp d q b k .activeSlots = .hold := by
  simp [loopOp, h, hon, hp]

variable (hon : d.addrOff a = false) (hp : (d.lineIssue (q.core / 4) (d.bucketOwner q.ctx) a).isSome = true)
include hon hp

/-- Where the port lets the read through, the count is opened within the declared maximum, and is otherwise a fault. -/
theorem loopOp_read : ∃ e : Device, e.mem = d.mem ∧ loopOp d q b k .activeSlots =
    if q.slab.loopMax.getD 0 < d.activeCount q.ctx then .fault St.bounds 0x03 else .done e (b.opened k (d.activeCount q.ctx)) := by
  obtain ⟨⟨x, e⟩, he⟩ := Option.isSome_iff_exists.1 hp
  obtain ⟨hoff, hmem, -⟩ := Device.lineIssue_some he
  have hcount : e.activeCount q.ctx = d.activeCount q.ctx := by
    simp only [Device.activeCount, Device.rd, hmem, Device.eq_of_offStores (·.servingBase q.ctx) (fun _ => rfl) hoff]
  refine ⟨e.serve a 4 false, (e.serve_mem _ _ _).trans hmem, ?_⟩
  simp only [loopOp, h, hon, he, hcount, Bool.false_eq_true, if_false]
  rfl

end

section
variable (d : Device) (q : Seat) (k : UnitKind)

/-- A beat counted moves no serving table. -/
@[simp] theorem Device.countBeat_servingBase : (d.countBeat q k).servingBase q.ctx = d.servingBase q.ctx := by
  obtain ⟨f, -, hctx⟩ := d.countBeat_ctx q k
  have hten : ∀ t, (d.countBeat q k).ten t = d.ten t := fun t => by rw [Device.countBeat_eq_withCtxs]; rfl
  simp only [Device.servingBase, hctx, hten]

@[simp] theorem Device.countBeat_activeCount : (d.countBeat q k).activeCount q.ctx = d.activeCount q.ctx := by
  simp only [Device.activeCount, Device.rd, Device.countBeat_servingBase, Device.countBeat_mem]

@[simp] theorem Device.countBeat_addrOff (a : Nat) : (d.countBeat q k).addrOff a = d.addrOff a := by
  rw [Device.countBeat_eq_withCtxs]
  rfl

@[simp] theorem Device.countBeat_bucketOwner (c : Nat) : (d.countBeat q k).bucketOwner c = d.bucketOwner c := by
  rw [Device.countBeat_eq_withCtxs]
  rfl

/-- Whether a port holds a line does not depend on the beats counted. -/
theorem Device.countBeat_lineIssue (port owner a : Nat) :
    ((d.begun.countBeat q k).lineIssue port owner a).isNone = (d.lineIssue port owner a).isNone := by
  rw [Device.countBeat_eq_withCtxs, Device.lineIssue_isNone, Device.lineIssue_isNone]
  rfl

end

section
variable {u : CoreUse} {k : UnitKind} {s : State} {q : Seat} (hi : s.dev.mayIssue u.core k q) (hu : cleanUse u)
include hi hu

/-- A LOOP that opens a loop does so in its unit alone. -/
theorem exec_loop_opens {c : LoopCount} {n : Nat} {d : Device} (hmem : d.mem = s.dev.mem)
    (hf : loopOp (s.dev.begun.countBeat q k) q ((s.dev.bank u.core q.ctx).newBeat k) k c =
      .done d (((s.dev.bank u.core q.ctx).newBeat k).opened k n)) :
    ∃ t, exec (.loop u k c) s = .next t ∧ t.dev.mem = s.dev.mem ∧
      ((t.dev.bank u.core q.ctx).unit k).loops = (n :: ((s.dev.bank u.core q.ctx).unit k).loops).take 4 ∧
      ((t.dev.bank u.core q.ctx).unit k).position = ((s.dev.bank u.core q.ctx).unit k).position + 1 := by
  refine ⟨_, actLive_issueEcc_done hi hu hf, hmem, ?_⟩
  dsimp only
  rw [Device.bank_setBank, Bank.unit_setUnit, Bank.opened, Bank.unit_setUnit, Bank.newBeat_unit]
  exact ⟨rfl, rfl⟩

section
variable {a : Nat} (ha : s.dev.servingBase q.ctx = some a)
include ha

/-- One whose table is at a unit held offline ends the run. -/
theorem exec_loop_offline (hoff : s.dev.addrOff a = true) :
    ∃ t, exec (.loop u k .activeSlots) s = .next t ∧ t.dev.mem = s.dev.mem ∧
      (t.dev.ctx q.ctx).run.bind (·.stopped) = some (St.unitOffline, 0) ∧ t.dev.bank u.core q.ctx = s.dev.bank u.core q.ctx := by
  obtain ⟨f, hf, hctx⟩ := s.dev.begun.countBeat_ctx q k
  obtain ⟨hrun, hstop⟩ := Device.seat_run hi.2.1
  have hends := loopOp_offline (d := s.dev.begun.countBeat q k) (q := q) (b := (s.dev.bank u.core q.ctx).newBeat k) (k := k)
    (a := a) (by rw [Device.countBeat_servingBase]; exact ha) (by rw [Device.countBeat_addrOff]; exact hoff)
  refine ⟨_, actLive_issueEcc_ends hi hu hends, by simp [Device.stopRun], ?_, Device.countBeat_bank _ _ _ _ _⟩
  simp [Device.stopRun, hctx, hrun, Run.stop, hf, hstop]

/-- One whose port holds the read waits. -/
theorem exec_loop_held (hon : s.dev.addrOff a = false)
    (hp : s.dev.lineIssue (u.core.val / 4) (s.dev.bucketOwner q.ctx) a = none) :
    exec (.loop u k .activeSlots) s = .next { s with dev := s.dev.begun } := by
  refine actLive_issueEcc_hold hi hu (loopOp_held (a := a) ?_ ?_ (Option.isNone_iff_eq_none.1 ?_))
  · rw [Device.countBeat_servingBase]
    exact ha
  · rw [Device.countBeat_addrOff]
    exact hon
  · rw [Device.countBeat_lineIssue, Device.countBeat_bucketOwner, Device.seat_core hi.2.1]
    exact Option.isNone_iff_eq_none.2 hp

omit hu in
/-- One whose port lets the read through opens its loop, or is a fault. -/
theorem loopOp_found (hon : s.dev.addrOff a = false)
    (hp : (s.dev.lineIssue (u.core.val / 4) (s.dev.bucketOwner q.ctx) a).isSome = true) : ∃ e : Device, e.mem = s.dev.mem ∧
      loopOp (s.dev.begun.countBeat q k) q ((s.dev.bank u.core q.ctx).newBeat k) k .activeSlots =
        if q.slab.loopMax.getD 0 < s.dev.activeCount q.ctx then .fault St.bounds 0x03
        else .done e (((s.dev.bank u.core q.ctx).newBeat k).opened k (s.dev.activeCount q.ctx)) := by
  obtain ⟨e, hmem, he⟩ := loopOp_read (d := s.dev.begun.countBeat q k) (q := q) (b := (s.dev.bank u.core q.ctx).newBeat k) (k := k)
    (a := a) (by rw [Device.countBeat_servingBase]; exact ha) (by rw [Device.countBeat_addrOff]; exact hon)
    (by rw [← Option.isNone_eq_false_iff, Device.countBeat_lineIssue, Device.countBeat_bucketOwner, Device.seat_core hi.2.1]
        exact Option.isNone_eq_false_iff.2 hp)
  rw [Device.countBeat_activeCount] at he
  exact ⟨e, hmem.trans (Device.countBeat_mem _ _ _), he⟩

end

end

/-! ### END (R83) -/

/-- A unit that has ended issues nothing. -/
theorem Device.issue_ended {d : Device} {core : Nat} {k : UnitKind} {c : Nat} (hc : d.usableCtx core = some c)
    (he : ((d.bank core c).unit k).ended = true) (f : Device → Seat → Bank → Did) : d.issue core k f = d := by
  unfold Device.issue Device.issueIn
  split
  · rfl
  · next q hq =>
    have hctx : q.ctx = c := Option.some.inj ((Device.seat_ctx hq).1.symm.trans hc)
    simp [hctx, he]

/-- Settles O25: SETREG, LOOP and END each come to their case above. -/
theorem sequencerControl : Obligations.SequencerControl := by
  intro u k s q hi hu b
  refine ⟨?_, fun c => ?_, ?_⟩
  · rintro rfl r v
    refine ⟨_, actLive_issueEcc_done (f := fun d _ b => setreg d b r v) hi hu rfl, Device.countBeat_mem _ _ _, ?_⟩
    dsimp only
    rw [Device.bank_setBank]
    refine ⟨congrArg BitVec.toNat (tgetD_tputD_self _ _ _ _), fun r' hr => congrArg BitVec.toNat (tgetD_tputD_ne _ _ _ _ ?_), rfl⟩
    exact fun h => hr (coreRegKey_injective h)
  · intro n port
    refine ⟨fun hopen => ?_, ?_⟩
    · cases c with
      | fixed n => exact exec_loop_opens hi hu (s.dev.begun.countBeat_mem q k) rfl
      | activeSlots =>
        cases ha : s.dev.servingBase q.ctx with
        | none =>
          have hnone := loopOp_noTable (d := s.dev.begun.countBeat q k) (q := q) (b := b.newBeat k) (k := k)
            (by rw [Device.countBeat_servingBase]; exact ha)
          rw [Device.countBeat_activeCount] at hnone
          exact exec_loop_opens hi hu (s.dev.begun.countBeat_mem q k) hnone
        | some a =>
          obtain ⟨hmax, hon, hp⟩ := hopen rfl a ha
          obtain ⟨e, hmem, he⟩ := loopOp_found hi ha hon hp
          exact exec_loop_opens hi hu hmem (he.trans (if_neg (Nat.not_lt.2 hmax)))
    · rintro rfl a ha
      refine ⟨exec_loop_offline hi hu ha, exec_loop_held hi hu ha, fun hon hp hmax => ?_⟩
      obtain ⟨e, hmem, he⟩ := loopOp_found hi ha hon hp
      obtain ⟨hst, htd, -, -, hbanks⟩ := Device.tornDown_issue (f := fun d q b => loopOp d q b k .activeSlots)
        (Device.mayIssue_begun hi) (by decide) (he.trans (if_pos hmax))
      refine ⟨_, actLive_issueEcc hi hu, hst, htd, ?_⟩
      simp only [Device.bank, hbanks]
      rfl
  · refine ⟨_, actLive_issueEcc_done (f := fun d _ b => endOp d b k) hi hu rfl, Device.countBeat_mem _ _ _, ?_⟩
    let b' := (b.newBeat k).setUnit k { (b.newBeat k).unit k with ended := true }
    have hended : ∀ d : Device,
        (((d.setBank u.core q.ctx (b'.setUnit k (b'.unit k).advance)).bank u.core q.ctx).unit k).ended = true := fun d => by simp [b', UnitState.advance]
    refine ⟨hended _, Device.issue_ended ?_ (hended _)⟩
    have hctx := (Device.seat_ctx hi.2.1).1
    rw [← hctx, Device.countBeat_eq_withCtxs]
    rfl

end Sys2Proof.Machine

/-!
PROOF. RUN and RUN_START (O34): a RUN at the head of its ring, and the run that a start begins.
-/

namespace Sys2Proof.Machine

/-! ### A head completed (R251, R260) -/

/-- An entry that can be written is written at the tail of its ring. -/
theorem Device.putEntry_open {d : Device} {k : RingRef} (h : d.entryOpen k) (tags : List Byte) (status detail kind : Byte) (index : Half)
    (payload : List Byte) : d.putEntry k tags status detail kind index payload =
      (((d.setRing k { d.ring k with cqTail := (d.ring k).cqTail + 1 }).charge 28 (d.ring k).entryAt 64 true).coWrite (d.ring k).entryAt
        (entryBytes (d.ring k) tags status detail kind index payload), true) := by
  obtain ⟨-, hm, hr, ho, hl⟩ := h
  have hwrite := Device.ringWrite_inMemory (d := d.setRing k { d.ring k with cqTail := (d.ring k).cqTail + 1 }) (k := k)
    (entryBytes (d.ring k) tags status detail kind index payload) ((d.setRing_addr k _ _ 64).1.trans hm)
    fun t r hk => ((d.setRing_ok k _ 0 0 true true).2 t r hk).trans (hl t r hk)
  have hlen : (entryBytes (d.ring k) tags status detail kind index payload).length = 64 := by simp [entryBytes]
  simp only [Device.putEntry, Device.linkDown_inMemory hm, hr, ho, Bool.not_false, Bool.and_self, if_true, hwrite, hlen]

/-- Taking a head off its ring leaves the way of the next entry open. -/
theorem Device.entryOpen_popHead {d : Device} {k : RingRef} (h : d.entryOpen k) : (d.popHead k).entryOpen k := by
  obtain ⟨hs, hm, hr, ho, hl⟩ := h
  have hring : (d.popHead k).ring k = { d.ring k with queued := (d.ring k).queued.drop 1, job := .idle } := d.ring_setRing k _
  have hat : ((d.popHead k).ring k).entryAt = (d.ring k).entryAt := by rw [hring]; rfl
  rw [Device.entryOpen, hat, hring]
  exact ⟨hs, (d.setRing_addr k _ _ 64).1.trans hm, (d.setRing_ok k _ _ _ _ _).1.trans hr, (d.setRing_addr k _ _ 64).2.1.trans ho,
    fun t r hk => ((d.setRing_ok k _ 0 0 true true).2 t r hk).trans (hl t r hk)⟩

/-- The head of a ring taken off it with its last entry is completed. -/
theorem Device.lastEntry_popHead {d : Device} {k : RingRef} (h : d.entryOpen k) (x : QDesc) (tags : List Byte)
    (status detail kind : Byte) (payload : List Byte) :
    Device.settleHead queueMax ((d.popHead k).lastEntry k x tags status detail kind payload) k =
      d.completed k x tags status detail kind payload := by
  have hne : ∀ y : Ring, y.state = (d.ring k).state → y ≠ Ring.unset := fun y hy he => h.1 (hy.symm.trans (congrArg Ring.state he))
  have hring : (d.popHead k).ring k = { d.ring k with queued := (d.ring k).queued.drop 1, job := .idle } := d.ring_setRing k _
  let y : Ring := { d.ring k with cqTail := (d.ring k).cqTail + 1, queued := (d.ring k).queued.drop 1, job := .idle }
  have htwice : (d.popHead k).setRing k y = d.setRing k y := Device.setRing_setRing _ _ (hne _ rfl) (hne _ rfl)
  simp only [Device.lastEntry, Device.entry', Device.putEntry_open (Device.entryOpen_popHead h), hring, if_true]
  rw [htwice]
  rfl

/-- Without a job of a RUN none is dropped. -/
theorem Device.dropJob_of_none {d : Device} {k : RingRef} {x : QDesc} (h : d.jobOf k x = none) : d.dropJob k x = d := by
  unfold Device.dropJob
  split
  · rfl
  · next c hc =>
    have hany : (d.jobs.any fun j => decide (j.ctx = c) && decide (j.index = x.index)) = false := by
      simpa [Device.jobOf, hc] using h
    rw [hany]
    rfl

/-- A RUN without a job refused ends with a RUN_END entry of no slab run. -/
theorem Device.refuse_run {d : Device} {k : RingRef} {x : QDesc} {rest : List QDesc} (detail : Byte) (ho : d.entryOpen k)
    (hq : (d.ring k).queued = x :: rest) (hop : x.opcode = 3) (hj : d.jobOf k x = none) :
    d.refuse k detail = d.completed k x (d.descTags k x) St.refused detail 0x02
      (jobPayload (x.field 0x20 1) 0 0 (2 ^ 64 - 1) d.ns) := by
  have hns : (d.popHead k).ns = d.ns := (d.setRing_addr k _ 0 0).2.2.2
  rw [← Device.lastEntry_popHead ho]
  simp only [Device.refuse, Device.dismiss, hq, hop, hj, Device.jobResults, List.foldl_nil, Device.dropJob_of_none hj, hns]
  rfl

/-! ### RUN (R257) -/

section
variable {s : State} {t : Fin 64} {r : Fin 17} {x : QDesc} (hx : s.dev.takes (.ring t r) 3 x)
include hx

/-- A RUN at the head of its ring is taken up. -/
theorem exec_run : exec (.run t r) s = .next { s with dev := runTaken s.dev.begun (.ring t r) x } := by
  have hrun : exec (.run t r) s = .next { s with dev := s.dev.begun.onHead (.ring t r) 3 fun d x => runTaken d (.ring t r) x } :=
    actLive_eq (fun d => d.onHead (.ring t r) 3 fun d x => runTaken d (.ring t r) x) hx.1
  rw [hrun, Device.onHead_takes (Device.begun_takes hx)]

/-- One that is refused ends with its entry. -/
theorem exec_run_refused {detail : Byte} (hr : runTaken s.dev.begun (.ring t r) x = s.dev.begun.refuse (.ring t r) detail)
    (ho : s.dev.entryOpen (.ring t r)) (hj : s.dev.jobOf (.ring t r) x = none) :
    exec (.run t r) s = .next { s with dev := (
      s.dev.begun.completed (.ring t r) x (s.dev.begun.descTags (.ring t r) x) St.refused detail 0x02
        (jobPayload (x.field 0x20 1) 0 0 (2 ^ 64 - 1) s.dev.begun.ns)) } := by
  obtain ⟨rest, hq, hop, -⟩ := Device.takes_queued hx
  rw [exec_run hx, hr, Device.refuse_run (d := s.dev.begun) (k := .ring t r) detail ho hq hop hj]

end

section
variable {d : Device} {k : RingRef} {x : QDesc} {c : Nat} (hc : (d.ring k).ctx = some c)
include hc

/-- A RUN of an index that holds nothing is refused. -/
theorem runTaken_empty (h : tget (d.ctx c).loaded (x.field 0x20 1) = none) : runTaken d k x = d.refuse k 0x42 := by
  simp only [runTaken, hc, h]

/-- A RUN of a slab is taken up where its role entries are in order. -/
theorem runTaken_slab {y : Slab} (h : tget (d.ctx c).loaded (x.field 0x20 1) = some (.slab y)) : runTaken d k x =
    if d.rolesOk (d.ctx c).tenancy y (roleEntries x) then d.setRing k { d.ring k with job := .running } else d.refuse k 0x43 := by
  simp only [runTaken, hc, h]

/-- A RUN of a package with role entries is refused. -/
theorem runTaken_package_roles {p : Package} (h : tget (d.ctx c).loaded (x.field 0x20 1) = some (.package p))
    (hn : x.field 0x21 1 ≠ 0) : runTaken d k x = d.refuse k 0x43 := by
  simp only [runTaken, hc, h, if_pos hn]

/-- One without is submitted to the Foreman. -/
theorem runTaken_package {p : Package} (h : tget (d.ctx c).loaded (x.field 0x20 1) = some (.package p)) (hn : x.field 0x21 1 = 0) :
    ∃ j : FmJob, runTaken d k x = { d.setRing k { d.ring k with job := .running } with jobs := d.jobs ++ [j] } ∧ j.ctx = c ∧
      j.priority = p.priority ∧ j.slab = x.field 0x20 1 ∧ j.index = x.index ∧ j.done = 0 ∧ j.started = none := by
  simp only [runTaken, hc, h, hn, ne_eq, not_true_eq_false, if_false]
  exact ⟨_, rfl, rfl, rfl, rfl, rfl, rfl, rfl⟩

end

/-! ### The lines that a start reads (R188, R255) -/

/-- Credit is taken whatever the answer and what is sent. -/
theorem Device.begun_useCredit (d : Device) (k n : Nat) : d.begun.useCredit k n = (d.useCredit k n).begun := by
  unfold Device.useCredit
  rw [Device.begun_buckets]
  generalize tputD d.buckets _ _ _ = m
  rfl

/-- A line passes a port whatever the answer and what is sent. -/
theorem Device.begun_lineIssue (d : Device) (port owner a : Nat) :
    d.begun.lineIssue port owner a = (d.lineIssue port owner a).map fun r => (r.1, r.2.begun) := by
  have hclass : d.begun.classOf a = d.classOf a := rfl
  have hkind : ∀ c, d.begun.classKind c = d.classKind c := fun _ => rfl
  have hcredit : ∀ k, d.begun.credit k = d.credit k := fun _ => rfl
  have hheld : ∀ c x, d.begun.throttled a c x = d.throttled a c x := fun _ _ => rfl
  unfold Device.lineIssue
  simp only [hclass, hkind, hcredit, hheld, Device.begun_inMemory, Device.begun_useCredit]
  repeat' split
  all_goals rfl

/-- As many lines pass a port whatever the answer and what is sent. -/
theorem Device.begun_linesIssue (d : Device) (port owner : Nat) (l : List Nat) :
    (d.begun.linesIssue port owner l).1 = (d.linesIssue port owner l).1 := by
  induction l generalizing d with
  | nil => rfl
  | cons a l ih =>
    simp only [Device.linesIssue, Device.begun_lineIssue]
    cases d.lineIssue port owner a with
    | none => rfl
    | some r => exact congrArg (· + 1) (ih r.2)

/-! ### The objects and the units of a run that begins (R83, R84) -/

/-- The initial value of a slab's object. -/
def Slab.objectInit (s : Slab) (i : Nat) : Half := ((s.objects[i]?).map (·.init)).getD 0

/-- One object of a slab at its initial value, in every copy of it. -/
def Device.initObject (c : Nat) (s : Slab) (d : Device) (i : Nat) : Device :=
  let d := { d with objects := tputD d.objects (objKey c false i) (s.objectInit i) 0 }
  if s.replica then { d with objects := tputD d.objects (objKey c true i) (s.objectInit i) 0 } else d

/-- A slab's objects are set one after another. -/
theorem Device.initObjects_eq_foldl (d : Device) (c : Nat) (s : Slab) :
    d.initObjects c s = (List.range s.objects.length).foldl (Device.initObject c s) d := rfl

/-- One object set changes the objects alone, and of the primary's no other. -/
theorem Device.initObject_spec (d : Device) (c : Nat) (s : Slab) (j : Nat) : ∃ o, d.initObject c s j = { d with objects := o } ∧
    ∀ i < 65536, tgetD o (objKey c false i) 0 = if i = j then s.objectInit j else tgetD d.objects (objKey c false i) 0 := by
  have hprimary : ∀ i < 65536, tgetD (tputD d.objects (objKey c false j) (s.objectInit j) 0) (objKey c false i) 0 =
      if i = j then s.objectInit j else tgetD d.objects (objKey c false i) 0 := by
    intro i _
    split
    · next h => rw [h, tgetD_tputD_self]
    · next h => exact tgetD_tputD_ne _ _ _ _ (by unfold objKey; omega)
  unfold Device.initObject
  dsimp only
  split
  · refine ⟨_, rfl, fun i hi => (tgetD_tputD_ne _ _ _ _ ?_).trans (hprimary i hi)⟩
    simp only [objKey, Bool.false_eq_true, if_true, if_false]
    omega
  · exact ⟨_, rfl, hprimary⟩

/-- The objects of a list set change the objects alone, and of the primary's those of the list. -/
theorem Device.initObject_foldl (c : Nat) (s : Slab) (l : List Nat) (d : Device) :
    ∃ o, l.foldl (Device.initObject c s) d = { d with objects := o } ∧
      ∀ i < 65536, tgetD o (objKey c false i) 0 = if i ∈ l then s.objectInit i else tgetD d.objects (objKey c false i) 0 := by
  induction l generalizing d with
  | nil => exact ⟨d.objects, rfl, fun i _ => by simp⟩
  | cons j l ih =>
    obtain ⟨o, ho, hj⟩ := d.initObject_spec c s j
    obtain ⟨o', ho', hl⟩ := ih (d.initObject c s j)
    refine ⟨o', by rw [List.foldl_cons, ho', ho], fun i hi => (hl i hi).trans ?_⟩
    rw [ho]
    dsimp only
    rw [hj i hi]
    by_cases h : i = j <;> by_cases h' : i ∈ l <;> simp [h, h']

/-- The units of some cores of a context at the start of their programs. -/
def Device.restartCores (d : Device) (c : Nat) (cores : List Nat) : Device :=
  cores.foldl (fun d core => d.setBank core c (d.bank core c).restart) d

/-- They change the banks alone, and of these those of the cores and the context. -/
theorem Device.restartCores_spec (c : Fin 256) (cores : List Nat) (d : Device) :
    (∃ b, d.restartCores c cores = { d with banks := b }) ∧
      (∀ core, (d.restartCores c cores).bank core c = if core ∈ cores then (d.bank core c).restart else d.bank core c) ∧
      ∀ (c' : Fin 256), c' ≠ c → ∀ core, (d.restartCores c cores).bank core c' = d.bank core c' := by
  induction cores generalizing d with
  | nil => exact ⟨⟨d.banks, rfl⟩, fun _ => by simp [Device.restartCores], fun _ _ _ => rfl⟩
  | cons j l ih =>
    obtain ⟨⟨b, hb⟩, hin, hout⟩ := ih (d.setBank j c (d.bank j c).restart)
    refine ⟨⟨b, hb⟩, fun core => (hin core).trans ?_, fun c' hc core => (hout c' hc core).trans (d.bank_setBank_ne _ ?_)⟩
    · by_cases h : core = j
      · subst h
        rw [Device.bank_setBank]
        by_cases h' : core ∈ l <;> simp [h', Bank.restart]
      · rw [Device.bank_setBank_ne _ _ (by omega)]
        simp [h]
    · have := c.isLt
      have := c'.isLt
      have := Fin.val_ne_of_ne hc
      omega

/-! ### The tag lines of a run (R255) -/

/-- A run with other tag lines read and the frame fields of a tag header. -/
def Run.withFrame (r : Run) (lines : Table Tags) (g : Tags) : Run :=
  { r with tagLines := lines, tags := { g with context := r.tags.context, tenancy := r.tags.tenancy, seqTag := r.tags.seqTag } }

/-- What the tag lines of a run change besides the run: what the links owe, what is sent, the numbers given and the bytes served. -/
structure Device.TagsRead (d e : Device) (c : Nat) : Prop where
  mem : e.mem = d.mem
  regs : e.regs = d.regs
  tenancies : e.tenancies = d.tenancies
  objects : e.objects = d.objects
  banks : e.banks = d.banks
  ctxs : ∀ c' ≠ c, e.ctx c' = d.ctx c'

theorem Device.TagsRead.trans {d e f : Device} {c : Nat} (h : d.TagsRead e c) (h' : e.TagsRead f c) : d.TagsRead f c :=
  ⟨h'.mem.trans h.mem, h'.regs.trans h.regs, h'.tenancies.trans h.tenancies, h'.objects.trans h.objects, h'.banks.trans h.banks,
    fun c' hc => (h'.ctxs c' hc).trans (h.ctxs c' hc)⟩

/-- What differs in its stores alone, with the same memory. -/
theorem Device.tagsRead_of_offStores {d e : Device} (c : Nat) (h : e.offStores = d.offStores) (hm : e.mem = d.mem) : d.TagsRead e c :=
  ⟨hm, Device.eq_of_offStores Device.regs (fun _ => rfl) h, Device.eq_of_offStores Device.tenancies (fun _ => rfl) h,
    Device.eq_of_offStores Device.objects (fun _ => rfl) h, Device.eq_of_offStores Device.banks (fun _ => rfl) h,
    fun c' _ => Device.eq_of_offStores (·.ctx c') (fun _ => rfl) h⟩

/-- The run of the context changed. -/
theorem Device.tagsRead_modRun (d : Device) (c : Nat) (f : Run → Run) : d.TagsRead (d.modRun c f) c :=
  ⟨rfl, rfl, rfl, rfl, rfl, fun _ hc => Device.ctx_setCtx_ne _ _ hc⟩

/-- One tag line of a run read, or asked for over a link. -/
def Device.readTag (c : Nat) (d : Device) (e : Nat × Nat) : Device :=
  match d.region e.2 with
  | .outbound pc _ => d.emitRead pc (.tag c e.1) e.2 64
  | _ => (d.serve e.2 64 false).modRun c fun r => r.withTag e.1 (tagsOf (d.rd e.2 24))

theorem Device.readTags_eq_foldl (d : Device) (c : Nat) (l : List (Nat × Nat)) : d.readTags c l = l.foldl (Device.readTag c) d := rfl

theorem Device.readTag_spec {d : Device} {c : Nat} {r : Run} (h : (d.ctx c).run = some r) (x : Nat × Nat) :
    d.TagsRead (d.readTag c x) c ∧ ∃ lines g, ((d.readTag c x).ctx c).run = some (r.withFrame lines g) := by
  unfold Device.readTag
  split
  · exact ⟨⟨rfl, rfl, rfl, rfl, rfl, fun _ _ => rfl⟩, r.tagLines, r.tags, h⟩
  · have hoff := d.offStores_serve x.2 64 false
    have hrun : ((d.serve x.2 64 false).ctx c).run = some r := by
      rw [Device.eq_of_offStores (·.ctx c) (fun _ => rfl) hoff, h]
    exact ⟨(Device.tagsRead_of_offStores c hoff (d.serve_mem _ _ _)).trans (Device.tagsRead_modRun _ c _), _, _,
      Device.modRun_run hrun _⟩

/-- The tag lines of a run change of it the lines read and its frame fields. -/
theorem Device.readTags_spec (c : Nat) (l : List (Nat × Nat)) {d : Device} {r : Run} (h : (d.ctx c).run = some r) :
    d.TagsRead (d.readTags c l) c ∧ ∃ lines g, ((d.readTags c l).ctx c).run = some (r.withFrame lines g) := by
  simp only [Device.readTags_eq_foldl]
  induction l generalizing d r with
  | nil => exact ⟨⟨rfl, rfl, rfl, rfl, rfl, fun _ _ => rfl⟩, r.tagLines, r.tags, h⟩
  | cons x l ih =>
    obtain ⟨h1, lines, g, hr⟩ := Device.readTag_spec h x
    obtain ⟨h2, lines', g', hr'⟩ := ih hr
    exact ⟨h1.trans h2, lines', g', hr'⟩

/-! ### The step count of a serving table (R228) -/

/-- A write of a ring changes stores and what is sent. -/
theorem Device.offLinks_ringWrite (d : Device) (k : RingRef) (a : Nat) (bs : List Byte) :
    (d.ringWrite k a bs).offLinks = d.offLinks := by
  have hlog : (d.ringLog k a bs.length).offStores = d.offStores := by
    cases k with
    | admin => rfl
    | ring t r => exact d.offStores_logWrite _ _ _
  unfold Device.ringWrite
  dsimp only
  split
  · refine Eq.trans ?_ (Device.offLinks_of_offStores hlog)
    exact List.foldlRecOn _ _ (motive := fun e : Device => e.offLinks = (d.ringLog k a bs.length).offLinks) rfl
      fun _ he _ _ => he
  · exact Device.offLinks_of_offStores (by rw [Device.offStores_coWrite, Device.offStores_charge, hlog])

/-- One to no link puts its bytes into memory. -/
theorem Device.rd_ringWrite {d : Device} (k : RingRef) {a : Nat} (bs : List Byte) (h : d.isOutbound a = false) :
    (d.ringWrite k a bs).rd a bs.length = bs := by
  have hlog : (d.ringLog k a bs.length).offStores = d.offStores := by
    cases k with
    | admin => rfl
    | ring t r => exact d.offStores_logWrite _ _ _
  have hout : (d.ringLog k a bs.length).isOutbound a = false :=
    (Device.eq_of_offStores (·.isOutbound a) (fun _ => rfl) hlog).trans h
  unfold Device.ringWrite
  dsimp only
  split
  · next pc l hr => simp [Device.isOutbound, hr] at hout
  · exact memRead_memWrite _ _ _

/-- Without a serving table no step is counted. -/
theorem Device.countStep_noTable {d : Device} {c : Nat} (h : d.servingBase c = none) : d.countStep c = d := by
  simp only [Device.countStep, h]

/-- With one at a unit that is online the count is raised. -/
theorem Device.countStep_table {d : Device} {c a : Nat} (h : d.servingBase c = some a) (hon : d.addrOff a = false) :
    d.countStep c = d.ringWrite (d.ctxRing c) (a + 8) (bytesOfNat 8 (natOfBytes (d.coRead (a + 8) 8) + 1)) := by
  simp only [Device.countStep, h, hon, Bool.false_eq_true, if_false]

/-- A step counted at no unit held offline changes stores and what is sent. -/
theorem Device.offLinks_countStep {d : Device} {c : Nat} (h : ∀ a, d.servingBase c = some a → d.addrOff a = false) :
    (d.countStep c).offLinks = d.offLinks := by
  cases hb : d.servingBase c with
  | none => rw [Device.countStep_noTable hb]
  | some a => rw [Device.countStep_table hb (h a hb), Device.offLinks_ringWrite]

/-! ### The start of a run (R83, R105, R107) -/

/-- The device with a run of a slab begun: its objects, its units and its context as the run finds them. -/
def Device.beginRun (d : Device) (c : Nat) (y : Slab) (r : Run) : Device :=
  let e := (d.initObjects c y).restartCores c y.cores
  e.setCtx c { e.ctx c with run := some r }

/-- A run begun changes the objects, the banks and its context alone. -/
theorem Device.beginRun_only (d : Device) (c : Fin 256) (y : Slab) (r : Run) :
    ∃ o b, d.beginRun c y r = { d.setCtx c { d.ctx c with run := some r } with objects := o, banks := b } := by
  obtain ⟨o, ho, -⟩ := d.initObject_foldl c y (List.range y.objects.length)
  obtain ⟨⟨b, hb⟩, -⟩ := (d.initObjects c y).restartCores_spec c y.cores
  refine ⟨o, b, ?_⟩
  unfold Device.beginRun
  rw [hb, Device.initObjects_eq_foldl, ho]
  rfl

/-- Its objects are at their initial values. -/
theorem Device.beginRun_objects (d : Device) (c : Fin 256) (y : Slab) (r : Run) {i : Nat} {o : SyncObj} (hi : i < 65536)
    (h : y.objects[i]? = some o) : tgetD (d.beginRun c y r).objects (objKey c false i) 0 = o.init := by
  obtain ⟨hlt, -⟩ := List.getElem?_eq_some_iff.1 h
  obtain ⟨objects, ho, hinit⟩ := d.initObject_foldl c y (List.range y.objects.length)
  obtain ⟨⟨b, hb⟩, -⟩ := (d.initObjects c y).restartCores_spec c y.cores
  have hobjects : (d.beginRun c y r).objects = objects := by
    unfold Device.beginRun
    rw [hb, Device.initObjects_eq_foldl, ho]
    rfl
  rw [hobjects, hinit i hi, if_pos (List.mem_range.2 hlt), Slab.objectInit, h]
  rfl

/-- Its banks are at the start of their programs, and those of other contexts stand. -/
theorem Device.beginRun_banks (d : Device) (c : Fin 256) (y : Slab) (r : Run) :
    (∀ core ∈ y.cores, (d.beginRun c y r).bank core c = (d.bank core c).restart) ∧
      ∀ (c' : Fin 256), c' ≠ c → ∀ core, (d.beginRun c y r).bank core c' = d.bank core c' := by
  obtain ⟨o, ho, -⟩ := d.initObject_foldl c y (List.range y.objects.length)
  obtain ⟨-, hin, hout⟩ := (d.initObjects c y).restartCores_spec c y.cores
  have hbank : ∀ core c', (d.initObjects c y).bank core c' = d.bank core c' := fun core c' => by
    rw [Device.initObjects_eq_foldl, ho]
    rfl
  exact ⟨fun core hcore => ((hin core).trans (if_pos hcore)).trans (by rw [hbank]), fun c' hc core => (hout c' hc core).trans (hbank _ _)⟩

section
variable {d : Device} {c : Nat} {x : QDesc} {y : Slab} {lines : List (Nat × Nat)} (hs : d.startable c = some (x, y))
  (hlines : d.tagAddrs (d.ctx c).tenancy y (roleEntries x) = lines)
include hs hlines

/-- A run whose tag lines its port holds waits. -/
theorem runStart_held (h : (d.linesIssue y.port (d.bucketOwner c) (lines.map (·.2))).1 < lines.length) (ecc : Ecc) :
    runStart d c ecc = d := by
  simp only [runStart, hs, hlines, if_pos h]

/-- One that may read all its tag lines, which its port lets through, begins. -/
theorem runStart_begins {g : Device} (h : lines.length ≤ (d.linesIssue y.port (d.bucketOwner c) (lines.map (·.2))).1)
    (hg : (d.linesIssue y.port (d.bucketOwner c) (lines.map (·.2))).2.2 = g)
    (hveto : g.tagVeto (d.ctx c).tenancy y (roleEntries x) = none) :
    runStart d c .clean = ((g.beginRun c y (g.newRun c y x)).countStep c).readTags c lines := by
  simp only [runStart, hs, hlines, if_neg (Nat.not_lt.2 h), hg, hveto]
  rfl

end

/-- The value that a table made of some keys gives one of them. -/
theorem tget_filterMap_key {α : Type} (f : Nat → Option α) (l : List Nat) (i : Nat) :
    tget (l.filterMap fun j => (f j).map fun v => (j, v)) i = if i ∈ l then f i else none := by
  induction l with
  | nil => rfl
  | cons j l ih =>
    rw [List.filterMap_cons]
    cases hf : f j with
    | none =>
      by_cases h : i = j
      · subst h
        simp [ih, hf]
      · simp [ih, h]
    | some v =>
      by_cases h : i = j
      · subst h
        simp [tget, hf]
      · simp [tget, ih, h, Ne.symm h]

/-- The bound, in ticks, of a result of a run of a context that starts now (R104, R107). -/
def Device.resultBound (d : Device) (c : Nat) (z : ResultDecl) : Option Nat :=
  (walkCalendar (d.slicesOf c) d.frameTicks (d.alm.ticks - d.cal.frameTick)
    (needTicks d.floorCount z (d.ringLatency (d.ctx c).tenancy (d.ring (d.ctxRing c))))).map fun b => d.cal.frameTick + b

/-- The bounds of a run are those of its results. -/
theorem Device.tget_runBounds (d : Device) (c : Nat) {y : Slab} {i : Nat} {z : ResultDecl} (h : y.results[i]? = some z) :
    tget (d.runBounds c y) i = d.resultBound c z := by
  obtain ⟨hlt, -⟩ := List.getElem?_eq_some_iff.1 h
  have hbounds : d.runBounds c y = (List.range y.results.length).filterMap fun j =>
      ((y.results[j]?).bind (d.resultBound c)).map fun v => (j, v) := by
    unfold Device.runBounds
    congr 1
    funext j
    cases y.results[j]? with
    | none => rfl
    | some z => exact (Option.map_map _ _ _).symm
  rw [hbounds, tget_filterMap_key (fun j => (y.results[j]?).bind (d.resultBound c)), if_pos (List.mem_range.2 hlt), h]
  rfl

/-- Without tagged entries a run reads no tag line. -/
theorem Device.tagAddrs_untagged (d : Device) (t : Nat) (y : Slab) {l : List (Nat × Bool × Nat)} (h : l.any (·.2.1) = false) :
    d.tagAddrs t y l = [] := by
  have hnone : l.zipIdx.filter (·.1.2.1) = [] := List.filter_eq_nil_iff.2 fun e he => by
    simpa using List.any_eq_false.1 h e.1 (List.fst_mem_of_mem_zipIdx he)
  rw [Device.tagAddrs, hnone]
  rfl

/-! ### RUN_START in the usable time of a slice -/

/-- The slab whose run may start now, with every condition of R105. -/
theorem Device.startable_eq {d : Device} {c : Nat} {x : QDesc} {rest : List QDesc} {y : Slab} (hcfg : d.cfg = .running)
    (hq : (d.ring (d.ctxRing c)).queued = x :: rest) (hop : x.opcode = 3) (hjob : (d.ring (d.ctxRing c)).job = .running)
    (hctx : (d.ring (d.ctxRing c)).ctx = some c) (hst : (d.ctx c).st = .opened) (hrun : (d.ctx c).run = none)
    (hcal : d.cal.started = true) (husable : d.ctxUsable c = true) (honline : d.ctxOffline c = false)
    (hload : tget (d.ctx c).loaded (x.field 0x20 1) = some (.slab y)) : d.startable c = some (x, y) := by
  simp [Device.startable, hq, hload, hcfg, hst, hctx, hjob, hop, hrun, hcal, husable, honline]

/-- What the start of a run leaves, its tag lines aside. -/
structure Device.RunBegun (d e : Device) (c : Fin 256) (y : Slab) (r : Run) : Prop where
  run : (e.ctx c).run = some r
  objects : ∀ i o, i < 65536 → y.objects[i]? = some o → tgetD e.objects (objKey c false i) 0 = o.init
  banks : ∀ core ∈ y.cores, e.bank core c = (d.bank core c).restart
  others : ∀ c' : Fin 256, c' ≠ c → e.ctx c' = d.ctx c' ∧ ∀ core, e.bank core c' = d.bank core c'
  regs : e.regs = d.regs
  tenancies : e.tenancies = d.tenancies

/-- A run begun, with its step counted. -/
theorem Device.runBegun_countStep (d : Device) (c : Fin 256) (y : Slab) (r : Run)
    (hon : ∀ a, d.servingBase c = some a → d.addrOff a = false) :
    d.RunBegun ((d.beginRun c y r).countStep c) c y r ∧
      (d.servingBase c = none → ((d.beginRun c y r).countStep c).mem = d.mem) ∧
      ∀ a, d.servingBase c = some a → d.isOutbound (a + 8) = false →
        ((d.beginRun c y r).countStep c).rd (a + 8) 8 = bytesOfNat 8 (natOfBytes (d.coRead (a + 8) 8) + 1) := by
  obtain ⟨hin, hout⟩ := d.beginRun_banks c y r
  have hobjects := fun i o => d.beginRun_objects c y r (i := i) (o := o)
  obtain ⟨o, b, he⟩ := d.beginRun_only c y r
  generalize d.beginRun c y r = e at hin hout hobjects he ⊢
  have hctx : ∀ c', e.ctx c' = (d.setCtx c { d.ctx c with run := some r }).ctx c' := fun c' => by rw [he]; rfl
  have hten : ∀ t, e.ten t = d.ten t := fun t => by rw [he]; rfl
  have hbase : e.servingBase c = d.servingBase c := by simp only [Device.servingBase, hctx, Device.ctx_setCtx, hten]
  have hoff : ∀ a, e.addrOff a = d.addrOff a := fun a => by rw [he]; rfl
  have hlinks := Device.offLinks_countStep (d := e) (c := c) fun a ha => (hoff a).trans (hon a (hbase ▸ ha))
  have hctx' : ∀ c', (e.countStep c).ctx c' = (d.setCtx c { d.ctx c with run := some r }).ctx c' := fun c' =>
    (Device.eq_of_offLinks (·.ctx c') (fun _ => rfl) hlinks).trans (hctx c')
  have hbank : ∀ core c', (e.countStep c).bank core c' = e.bank core c' := fun core c' =>
    Device.eq_of_offLinks (·.bank core c') (fun _ => rfl) hlinks
  refine ⟨⟨(congrArg Ctx.run (hctx' c)).trans (congrArg Ctx.run (d.ctx_setCtx c _)), fun i o hi h => ?_,
    fun core hcore => (hbank _ _).trans (hin core hcore), fun c' hc => ⟨?_, fun core => (hbank _ _).trans (hout c' hc core)⟩, ?_, ?_⟩,
    fun hnone => ?_, fun a ha hmem => ?_⟩
  · rw [Device.eq_of_offLinks Device.objects (fun _ => rfl) hlinks, hobjects i o hi h]
  · exact (hctx' c').trans (Device.ctx_setCtx_ne _ _ (Fin.val_ne_of_ne hc))
  · rw [Device.eq_of_offLinks Device.regs (fun _ => rfl) hlinks, he]
    rfl
  · rw [Device.eq_of_offLinks Device.tenancies (fun _ => rfl) hlinks, he]
    rfl
  · rw [Device.countStep_noTable (hbase.trans hnone), he]
    rfl
  · have hout' : e.isOutbound (a + 8) = false := by rw [he]; exact hmem
    have hread : e.coRead (a + 8) 8 = d.coRead (a + 8) 8 := Device.SameBytes.coRead (by rw [he]; exact ⟨rfl, rfl⟩) _ _
    have hwritten := Device.rd_ringWrite (e.ctxRing c) (bytesOfNat 8 (natOfBytes (d.coRead (a + 8) 8) + 1)) hout'
    rw [bytesOfNat_length] at hwritten
    rw [Device.countStep_table (hbase.trans ha) ((hoff a).trans (hon a ha)), hread, hwritten]

/-- A run begun from a device is begun from every device that differs from it in its stores alone. -/
theorem Device.RunBegun.of_offStores {d e f : Device} {c : Fin 256} {y : Slab} {r : Run} (h : e.offStores = d.offStores)
    (hb : e.RunBegun f c y r) : d.RunBegun f c y r := by
  have hctx : ∀ c', e.ctx c' = d.ctx c' := fun c' => Device.eq_of_offStores (·.ctx c') (fun _ => rfl) h
  have hbank : ∀ core c', e.bank core c' = d.bank core c' := fun core c' => Device.eq_of_offStores (·.bank core c') (fun _ => rfl) h
  obtain ⟨hrun, hobjects, hbanks, hothers, hregs, htens⟩ := hb
  exact ⟨hrun, hobjects, fun core hc => hbank core c ▸ hbanks core hc,
    fun c' hc => ⟨(hothers c' hc).1.trans (hctx c'), fun core => ((hothers c' hc).2 core).trans (hbank core c')⟩,
    hregs.trans (Device.eq_of_offStores Device.regs (fun _ => rfl) h),
    htens.trans (Device.eq_of_offStores Device.tenancies (fun _ => rfl) h)⟩

/-- Tag lines read after it leave it as it is, but for the run. -/
theorem Device.RunBegun.tagsRead {d e f : Device} {c : Fin 256} {y : Slab} {r r' : Run} (hb : d.RunBegun e c y r)
    (h : e.TagsRead f c) (hr : (f.ctx c).run = some r') : d.RunBegun f c y r' := by
  have hbank : ∀ core c', f.bank core c' = e.bank core c' := fun core c' => by simp only [Device.bank, h.banks]
  exact ⟨hr, fun i o hi ho => by rw [h.objects]; exact hb.objects i o hi ho, fun core hc => (hbank core c).trans (hb.banks core hc),
    fun c' hc => ⟨(h.ctxs c' (Fin.val_ne_of_ne hc)).trans (hb.others c' hc).1,
      fun core => (hbank core c').trans ((hb.others c' hc).2 core)⟩,
    h.regs.trans hb.regs, h.tenancies.trans hb.tenancies⟩

/-- The start of a run whose tag lines may be read and pass their port: what it begins, the frame fields it takes, and the step it
counts. -/
theorem runStart_spec {d : Device} {c : Fin 256} {x : QDesc} {y : Slab} {lines : List (Nat × Nat)}
    (hs : d.startable c = some (x, y)) (hlines : d.tagAddrs (d.ctx c).tenancy y (roleEntries x) = lines)
    (hall : lines.length ≤ (d.linesIssue y.port (d.bucketOwner c) (lines.map (·.2))).1)
    (hveto : d.tagVeto (d.ctx c).tenancy y (roleEntries x) = none) (hon : ∀ a, d.servingBase c = some a → d.addrOff a = false) :
    ∃ read g, d.RunBegun (runStart d c .clean) c y ((d.newRun c y x).withFrame read g) ∧
      (lines = [] → g.timestamp = (tagsOf x.raw).timestamp) ∧ (d.servingBase c = none → (runStart d c .clean).mem = d.mem) ∧
      ∀ a, d.servingBase c = some a → d.isOutbound (a + 8) = false →
        (runStart d c .clean).rd (a + 8) 8 = bytesOfNat 8 (natOfBytes (d.coRead (a + 8) 8) + 1) := by
  obtain ⟨hoff, hmem, hcache⟩ := d.linesIssue_stores y.port (d.bucketOwner c) (lines.map (·.2))
  have hbegins := runStart_begins hs hlines hall rfl
  generalize (d.linesIssue y.port (d.bucketOwner c) (lines.map (·.2))).2.2 = e at hbegins hoff hmem hcache
  rw [hbegins ((Device.eq_of_offStores (·.tagVeto (d.ctx c).tenancy y (roleEntries x)) (fun _ => rfl) hoff).trans hveto)]
  have hrun : e.newRun c y x = d.newRun c y x := Device.eq_of_offStores (·.newRun c y x) (fun _ => rfl) hoff
  have hbase : e.servingBase c = d.servingBase c := Device.eq_of_offStores (·.servingBase c) (fun _ => rfl) hoff
  have hread : ∀ a n, e.coRead a n = d.coRead a n := Device.SameBytes.coRead ⟨hmem, hcache⟩
  rw [hrun]
  obtain ⟨hb, hnone, htable⟩ := e.runBegun_countStep c y (d.newRun c y x) fun a ha =>
    (Device.eq_of_offStores (·.addrOff a) (fun _ => rfl) hoff).trans (hon a (hbase ▸ ha))
  obtain ⟨ht, read, g, hr⟩ := Device.readTags_spec c lines hb.run
  refine ⟨read, g, (hb.tagsRead ht hr).of_offStores hoff, fun hl => ?_, fun h => ?_, fun a ha hout => ?_⟩
  · subst hl
    exact congrArg (fun r : Run => r.tags.timestamp) (Option.some.inj (hr.symm.trans hb.run))
  · rw [ht.mem, hnone (hbase.trans h), hmem]
  · rw [Device.rd, ht.mem, ← hread]
    exact htable a (hbase.trans ha) ((Device.eq_of_offStores (·.isOutbound (a + 8)) (fun _ => rfl) hoff).trans hout)

/-- Settles O34: a RUN that is taken up comes to its case above, and a start begins the run, counts its step and reads its tag
lines. -/
theorem runsStart : Obligations.RunsStart := by
  intro s
  refine ⟨?_, ?_⟩
  · intro t r x c hx hc k d refused
    refine ⟨fun y hy => ⟨fun hok => ?_, fun hbad ho hj => ?_⟩, fun hnone ho hj => ?_,
      fun p hp => ⟨fun hn ho hj => ?_, fun hn => ?_⟩⟩
    · rw [exec_run hx, runTaken_slab (d := s.dev.begun) (k := k) hc hy]
      exact congrArg (fun e => Host.Outcome.next { s with dev := e }) (if_pos hok)
    · exact exec_run_refused hx ((runTaken_slab (d := s.dev.begun) (k := k) hc hy).trans (if_neg (Bool.eq_false_iff.1 hbad))) ho hj
    · exact exec_run_refused hx (runTaken_empty (d := s.dev.begun) (k := k) hc hnone) ho hj
    · exact exec_run_refused hx (runTaken_package_roles (d := s.dev.begun) (k := k) hc hp hn) ho hj
    · obtain ⟨j, hj, hjob⟩ := runTaken_package (d := s.dev.begun) (k := k) hc hp hn
      refine ⟨_, exec_run hx, ?_⟩
      dsimp only
      rw [hj]
      exact ⟨congrArg Ring.job (Device.ring_setRing s.dev.begun k _), rfl, j, rfl, hjob⟩
  · intro c x rest y d k ten hlive hcfg hq hop hjob hctx hst hrun hcal husable honline hload hveto hon lines issued
    have hstart : d.begun.startable c = some (x, y) :=
      Device.startable_eq (d := d.begun) hcfg hq hop hjob hctx hst hrun hcal husable honline hload
    have hissued : (d.begun.linesIssue y.port (d.begun.bucketOwner c) (lines.map Prod.snd)).1 = issued :=
      d.begun_linesIssue y.port (d.bucketOwner c) (lines.map Prod.snd)
    have hexec : ∀ e, exec (.runStart c e) s = .next { s with dev := runStart d.begun c e } := fun e =>
      actLive_eq (fun d => runStart d c e) hlive
    refine ⟨fun hfew e => ?_, fun hall => ?_⟩
    · rw [hexec, runStart_held (lines := lines) hstart rfl (hissued.trans_lt hfew)]
    · obtain ⟨read, g, hb, hown, hnone, htable⟩ :=
        runStart_spec (d := d.begun) (lines := lines) hstart rfl (hall.trans hissued.ge) hveto hon
      have hclean := hexec .clean
      have hread : ∀ a n, d.begun.coRead a n = d.coRead a n := Device.SameBytes.coRead ⟨rfl, rfl⟩
      generalize runStart d.begun c .clean = f at hb hnone htable hclean
      refine ⟨_, _, hclean, hb.run, rfl, rfl, rfl, rfl, rfl, rfl, rfl, rfl, rfl, rfl, fun hplain => ?_,
        fun i z hz => d.begun.tget_runBounds c hz, hb.objects, fun core hcore => ?_, hb.others, hb.regs, hb.tenancies, hnone,
        fun a ha hout _ => (htable a ha hout).trans (by rw [hread])⟩
      · exact hown (d.tagAddrs_untagged ten y hplain)
      · rw [hb.banks core hcore]
        exact ⟨rfl, rfl, rfl, rfl⟩

end Sys2Proof.Machine

/-!
PROOF. RUN_END (O35): its entry carries the count of the descriptor at the head of the ring, and not that of the run.
-/

namespace Sys2Proof.Machine

/-- A slab without cores, objects or results: a run of it has ended as soon as it has begun. -/
def idleSlab : Slab :=
  { id := 0, image := 0, roleMap := [], replica := false, oppoint := 0, roles := [], results := [], loopMax := none,
    replicaMap := [], primary := [], replicaCores := [], grants := [], objects := [], share := 0, named := [] }

/-- A run of it with count 1. -/
def misnumberedRun : Run :=
  { slab := 0, index := 1, roleBases := [], own := tagsOf [], tagLines := [], tags := tagsOf [], startTick := 0, startNs := 0,
    bounds := [], stored := [], delivered := [], digests := [], released := [], withheld := [], deadlines := [], sat := 0,
    beats := [], overrun := none, stopped := none }

/-- A RUN with count 0. -/
def misnumberedDesc : QDesc := { index := 0, raw := [], reserved := 1 }

/-- A live device whose context 0 has that run, with that RUN at the head of its ring 0, whose entries lie in Quarry 0. -/
def misnumberedState : State where
  dev := { Device.reset with
    power := { Power.reset with phase := .up }
    ctxs := [(0, { Ctx.closed with st := .opened, tenancy := 0, loaded := [(0, .slab idleSlab)], run := some misnumberedRun })]
    tenancies := [(0, { Tenancy.off with
      on := true
      windows := [(0, { base := 0x4000000000, limit := 0x4000000FFF, read := true, write := true, sideEffect := false, latency := 0 })]
      rings := [(0, { Ring.unset with
        n := 4, cqBase := 0x4000000000, state := .running, ctx := some 0, queued := [misnumberedDesc], job := .running })] })] }
  pending := []

/-- The ring's entries can be written. -/
theorem misnumberedState_open : misnumberedState.dev.entryOpen (misnumberedState.dev.ctxRing 0) :=
  ⟨nofun, rfl, rfl, by decide, fun _ _ h => by cases h; rfl⟩

/-- In the RUN_END entry that the model writes, the first byte of the count is 0. -/
theorem runEnd_misnumberedState : ∃ t, exec (.runEnd 0) misnumberedState = .next t ∧ memByte t.dev.mem 0x400000001C = 0 :=
  ⟨_, rfl, by decide⟩

/-- A byte that a coherent write puts. -/
theorem Device.memByte_coWrite (d : Device) (a : Nat) {bs : List Byte} {i : Nat} (h : i < bs.length) :
    memByte (d.coWrite a bs).mem (a + i) = bs[i] := memByte_memWrite_in _ a bs i h

/-- A ring with nothing queued has no head to check. -/
theorem Device.settleHead_empty {d : Device} {k : RingRef} (n : Nat) (h : (d.ring k).queued = []) :
    Device.settleHead n d k = d := by
  cases n with
  | zero => rfl
  | succ n => simp only [Device.settleHead, h]

/-- Refutes O35: the statement gives the RUN_END entry the run's count, where the model writes that of the descriptor at the head of
the ring (`Device.lastEntry`). A run takes its count from that descriptor as it starts, but the statement does not ask it of its state:
in `misnumberedState` the run has count 1, the descriptor has count 0, and the entry holds 0. -/
theorem not_resultsAndRunEnd : ¬ Obligations.ResultsAndRunEnd := by
  intro h
  obtain ⟨-, -, hend⟩ := h 0 misnumberedState misnumberedRun idleSlab (by decide) rfl (by decide) misnumberedState_open
  obtain ⟨t, m, ht, hsettled, -, -, -, hring, hmem, -⟩ :=
    hend (by decide) (by decide) rfl rfl (by decide) rfl nofun misnumberedDesc [] (by decide)
  obtain ⟨t', ht', hbyte⟩ := runEnd_misnumberedState
  obtain rfl : t = t' := Host.Outcome.next.inj (ht.symm.trans ht')
  have hlast : t.dev = m := hsettled.trans (Device.settleHead_empty _ (by rw [hring]))
  have hcount : memByte m.mem (0x4000000000 + 0x1C) = 1 := by
    rw [hmem]
    exact (Device.memByte_coWrite misnumberedState.dev 0x4000000000 (i := 0x1C) (by decide)).trans (by decide)
  rw [hlast, hcount] at hbyte
  exact absurd hbyte (by decide)

end Sys2Proof.Machine

/-!
PROOF. Temperature, refresh and patrols of the memories (O60): duties at their spacing, counters that hold, and error records.
-/

namespace Sys2Proof.Machine

/-! ### Counters that hold (R174, R181, R233) -/

/-- A counter raised holds at its largest value. -/
theorem Device.fld_addCount (d : Device) (a n : Nat) {lo len : Nat} (h : lo + len ≤ 64) :
    (d.addCount a lo len n).fld a lo len = min (2 ^ len - 1) (d.fld a lo len + n) := by
  rw [Device.addCount, Device.setFld, Device.fld, Device.reg_setReg, bitsAt_putBits _ _ h, holdAdd, Nat.min_comm]
  have hpos : 0 < 2 ^ len := Nat.two_pow_pos len
  exact Nat.mod_eq_of_lt (by omega)

/-- Raising one changes no other register. -/
theorem Device.reg_addCount_ne (d : Device) {a b : Nat} (lo len n : Nat) (h : b ≠ a) :
    (d.addCount a lo len n).reg b = d.reg b := d.reg_setReg_ne _ h

/-! ### Duties at a fixed spacing (R182, R185, R194) -/

/-- A duty that was done too short a time ago is not repeated. -/
theorem actPaced_soon {k : Duty} {s : State} (f : Device → Device) (hlive : s.dev.live = true) (h : s.dev.tooSoon k = true) :
    actPaced k s f = .next { s with dev := s.dev.begun } := by
  have hsoon : s.dev.begun.tooSoon k = true := h
  rw [actPaced, actLive_eq _ hlive, if_pos hsoon]

/-- Else it is done and noted. -/
theorem actPaced_due {k : Duty} {s : State} (f : Device → Device) (hlive : s.dev.live = true) (h : s.dev.tooSoon k = false) :
    actPaced k s f = .next { s with dev := f (s.dev.begun.noted k) } := by
  have hdue : s.dev.begun.tooSoon k = false := h
  rw [actPaced, actLive_eq _ hlive, if_neg (Bool.eq_false_iff.1 hdue)]

/-! ### Temperature (R182, R183) -/

/-- A bit of a word is its field of one bit. -/
theorem bitOf_eq_bitsAt (w : Word) (i : Nat) : bitOf w i = decide (bitsAt w i 1 = 1) := by
  rw [bitOf, BitVec.getLsbD, Nat.testBit_eq_decide_div_mod_eq]
  rfl

/-- A bit set as a field of one bit reads back. -/
theorem Device.regBit_setFld (d : Device) (a : Nat) {i : Nat} (hi : i < 64) (b : Bool) :
    (d.setFld a i 1 (if b then 1 else 0)).regBit a i = b := by
  rw [Device.regBit, Device.setFld, Device.reg_setReg, bitOf_eq_bitsAt, bitsAt_putBits _ _ (by omega)]
  cases b <;> rfl

/-- A temperature reading after its spacing sets the hot bit of its channel, and the sticky bit where it is too hot. -/
theorem exec_ddrTempRead {s : State} {c : Fin 8} (hot tooHot : Bool) (hlive : s.dev.live = true)
    (hdue : s.dev.tooSoon (.temperature c) = false) :
    ∃ t, exec (.ddrTempRead c hot tooHot) s = .next t ∧ t.dev.mem = s.dev.mem ∧
      t.dev.regBit Reg.ddrStatus (8 + c) = (hot || tooHot) ∧
      t.dev.regBit Reg.ddrSticky (16 + c) = (s.dev.regBit Reg.ddrSticky (16 + c) || tooHot) ∧
      ∀ a, a ≠ Reg.ddrStatus → a ≠ Reg.ddrSticky → t.dev.reg a = s.dev.reg a := by
  let e := (s.dev.begun.noted (.temperature c)).setFld Reg.ddrStatus (8 + c.val) 1 (if hot || tooHot then 1 else 0)
  have hexec : execDdrTempRead c hot tooHot s =
      .next { s with dev := if tooHot then e.orReg Reg.ddrSticky (2 ^ (16 + c.val)) else e } := actPaced_due _ hlive hdue
  have hstatus : e.regBit Reg.ddrStatus (8 + c) = (hot || tooHot) := Device.regBit_setFld _ _ (by omega) _
  have hother : ∀ a, a ≠ Reg.ddrStatus → e.reg a = s.dev.reg a := fun a ha => Device.reg_setReg_ne _ _ ha
  have hsticky : e.regBit Reg.ddrSticky (16 + c) = s.dev.regBit Reg.ddrSticky (16 + c) :=
    congrArg (bitOf · (16 + c)) (hother _ (by decide))
  refine ⟨_, hexec, ?_⟩
  cases tooHot with
  | false => exact ⟨rfl, hstatus, by rw [Bool.or_false]; exact hsticky, fun a ha _ => hother a ha⟩
  | true =>
    refine ⟨rfl, ?_, ?_, fun a ha ha' => (e.reg_setReg_ne _ ha').trans (hother a ha)⟩
    · exact (congrArg (bitOf · (8 + c)) (e.reg_setReg_ne _ (by decide))).trans hstatus
    · rw [Bool.or_true]
      exact e.regBit_orReg _ (by omega)

/-! ### Error records (R174, R181, R347) -/

/-- Corrected words counted one by one at one counter, which holds, and nothing else. -/
theorem Device.memCes_count {d : Device} {a r : Nat} {w : List Nat}
    (h : ∀ i ∈ w, ∀ e : Device, e.boot = d.boot → e.memCe (a + i) = e.addCount r 0 16 1) :
    (d.memCes a w).mem = d.mem ∧ (d.memCes a w).fld r 0 16 = min 0xFFFF (d.fld r 0 16 + w.length) ∧
      ∀ b ≠ r, (d.memCes a w).reg b = d.reg b := by
  unfold Device.memCes
  induction w generalizing d with
  | nil =>
    have hlt : d.fld r 0 16 < 2 ^ 16 := Nat.mod_lt _ (by decide)
    refine ⟨rfl, ?_, fun _ _ => rfl⟩
    rw [List.foldl_nil, List.length_nil]
    omega
  | cons i w ih =>
    have hfirst : d.memCe (a + i) = d.addCount r 0 16 1 := h i List.mem_cons_self d rfl
    have hcount : (d.addCount r 0 16 1).fld r 0 16 = min 0xFFFF (d.fld r 0 16 + 1) := d.fld_addCount r 1 (by omega)
    obtain ⟨hmem, hfld, hother⟩ := ih (d := d.addCount r 0 16 1) fun i hi e he => h i (List.mem_cons_of_mem _ hi) e he
    rw [List.foldl_cons, hfirst]
    refine ⟨hmem, ?_, fun b hb => (hother b hb).trans (d.reg_addCount_ne 0 16 1 hb)⟩
    rw [hfld, hcount, List.length_cons]
    omega

/-- The device with an uncorrectable word recorded at a unit: the first with its address `v` and time, in registers `A` and `T`, and its
bit `k` of the sticky register `S`. -/
def Device.ueRecorded (d : Device) (first : Bool) (A T S k : Nat) (v : Word) : Device :=
  let e := d.recordIf first A v
  (((e.recordIf first T e.ns).orReg S (2 ^ k)).latch 9)

/-- Its bits are set, and the address and the time are those of the first. -/
theorem Device.ueRecorded_spec (d : Device) (first : Bool) {A T S k : Nat} (v : Word) (hk : k < 64) (hAT : A ≠ T) (hAS : A ≠ S)
    (hTS : T ≠ S) (hA : A ≠ Reg.safFaultLatch) (hT : T ≠ Reg.safFaultLatch) :
    (d.ueRecorded first A T S k v).mem = d.mem ∧ (d.ueRecorded first A T S k v).regBit S k = true ∧
      (d.ueRecorded first A T S k v).regBit Reg.safFaultLatch 9 = true ∧
      (d.ueRecorded first A T S k v).reg A = (if first then v else d.reg A) ∧
      (d.ueRecorded first A T S k v).reg T = (if first then d.ns else d.reg T) := by
  unfold Device.ueRecorded
  dsimp only
  have hsticky : ∀ e : Device, ((e.orReg S (2 ^ k)).latch 9).regBit S k = true ∧
      ((e.orReg S (2 ^ k)).latch 9).regBit Reg.safFaultLatch 9 = true := fun e =>
    ⟨Device.regBit_orReg_of_set _ _ _ (e.regBit_orReg S hk), Device.regBit_orReg _ _ (by omega)⟩
  have hkept : ∀ (e : Device) b, b ≠ S → b ≠ Reg.safFaultLatch → ((e.orReg S (2 ^ k)).latch 9).reg b = e.reg b :=
    fun e b hb hb' => (Device.reg_setReg_ne _ _ hb').trans (e.reg_setReg_ne _ hb)
  rw [hkept _ A hAS hA, hkept _ T hTS hT]
  refine ⟨?_, (hsticky _).1, (hsticky _).2, ?_, ?_⟩
  · unfold Device.recordIf
    cases first <;> rfl
  · cases first with
    | false => rfl
    | true => exact (Device.reg_setReg_ne _ _ hAT).trans (d.reg_setReg A v)
  · cases first with
    | false => rfl
    | true => exact Device.reg_setReg _ _ _

/-! ### The lines of the Quarry and of the DDR (R172, R178) -/

section
variable (d : Device)

/-- A half of the DDR is of whole rows of its channels, and both lie below the Quarries. -/
theorem Device.ddrHalf_bounds : d.ddrHalf % 1024 = 0 ∧ d.ddrHalf ≤ 0x1000000000 := by
  unfold Device.ddrHalf
  split <;> decide

/-- The bytes of a line of a Quarry. -/
theorem Device.region_quarryLine (q : Fin 2) (l : Fin 3145728) {i : Nat} (hi : i < 64) :
    d.region (0x4000000000 + q.val * 0xC000000 + 64 * l.val + i) = .quarry q := by
  have hhalf := d.ddrHalf_bounds.2
  have hl := l.isLt
  unfold Device.region
  rw [if_neg (by omega), if_neg (by omega)]
  match q with
  | 0 => exact if_pos (by simp; omega)
  | 1 => exact (if_neg (by simp; omega)).trans (if_pos (by simp; omega))

/-- The bytes of a line of the DDR. -/
theorem Device.region_ddrLine {a i : Nat} (ha : a < 2 * d.ddrHalf) (hal : a % 64 = 0) (hi : i < 64) :
    (∃ h, d.region (a + i) = .ddr h) ∧ d.channelOf (a + i) = d.channelOf a := by
  have hhalf := d.ddrHalf_bounds.1
  have hsame : a + i < d.ddrHalf ↔ a < d.ddrHalf := by omega
  refine ⟨?_, ?_⟩
  · by_cases hlow : a + i < d.ddrHalf
    · exact ⟨0, if_pos hlow⟩
    · exact ⟨1, (if_neg hlow).trans (if_pos (by omega))⟩
  · simp only [Device.channelOf, hsame]
    split <;> omega

end

/-! ### Patrols (R175, R185) -/

/-- What an address names depends on the population of the DDR alone. -/
theorem Device.region_of_boot {d e : Device} (h : e.boot = d.boot) (a : Nat) :
    e.region a = d.region a ∧ e.channelOf a = d.channelOf a := by
  have hhalf : e.ddrHalf = d.ddrHalf := by simp only [Device.ddrHalf, h]
  exact ⟨by simp only [Device.region, hhalf], by simp only [Device.channelOf, hhalf]⟩

theorem Device.recordIf_channelOf (d : Device) (c : Bool) (r : Nat) (v : Word) (a : Nat) :
    (d.recordIf c r v).channelOf a = d.channelOf a := by
  unfold Device.recordIf
  split <;> rfl

section
variable {d : Device} {a : Nat}

theorem Device.memCe_quarry {q : Nat} (h : d.region a = .quarry q) : d.memCe a = d.addCount (Reg.qryCe q) 0 16 1 := by
  simp only [Device.memCe, h]

theorem Device.memCe_ddr {half : Nat} (h : d.region a = .ddr half) : d.memCe a = d.addCount (Reg.ddrCe (d.channelOf a)) 0 16 1 := by
  simp only [Device.memCe, h]

theorem Device.memUe_quarry {q : Nat} (h : d.region a = .quarry q) : d.memUe a =
    d.ueRecorded (d.fld Reg.qrySticky 0 2 = 0) Reg.qryUeAddr Reg.qryUeTime Reg.qrySticky q (BitVec.ofNat 64 a) := by
  simp only [Device.memUe, Device.noteUe, h]
  rfl

theorem Device.memUe_ddr {half : Nat} (h : d.region a = .ddr half) : d.memUe a =
    d.ueRecorded (d.fld Reg.ddrSticky 8 8 = 0) Reg.ddrUeAddr Reg.ddrUeTime Reg.ddrSticky (8 + d.channelOf a) (BitVec.ofNat 64 a) := by
  simp only [Device.memUe, Device.noteUe, h, Device.recordIf_channelOf]
  rfl

end

section
variable {d : Device} (q : Fin 2) (l : Fin 3145728)

/-- The corrected words of a line of a Quarry, counted. -/
theorem Device.memCes_quarryLine {w : List Nat} (hw : ∀ i ∈ w, i < 64) :
    let e := d.memCes (0x4000000000 + q.val * 0xC000000 + 64 * l.val) w
    e.mem = d.mem ∧ e.fld (Reg.qryCe q) 0 16 = min 0xFFFF (d.fld (Reg.qryCe q) 0 16 + w.length) ∧
      ∀ b ≠ Reg.qryCe q, e.reg b = d.reg b :=
  Device.memCes_count fun i hi e _ => Device.memCe_quarry (e.region_quarryLine q l (hw i hi))

/-- An uncorrectable one, recorded. -/
theorem Device.memUe_quarryLine {i : Nat} (hi : i < 64) :
    let a := 0x4000000000 + q.val * 0xC000000 + 64 * l.val + i
    let e := d.memUe a
    e.mem = d.mem ∧ e.regBit Reg.qrySticky q = true ∧ e.regBit Reg.safFaultLatch 9 = true ∧
      if d.fld Reg.qrySticky 0 2 = 0 then e.reg Reg.qryUeAddr = BitVec.ofNat 64 a ∧ e.reg Reg.qryUeTime = d.ns
      else e.reg Reg.qryUeAddr = d.reg Reg.qryUeAddr ∧ e.reg Reg.qryUeTime = d.reg Reg.qryUeTime := by
  intro a e
  have he : e = _ := Device.memUe_quarry (d.region_quarryLine q l hi)
  obtain ⟨hmem, hbit, hlatch, haddr, htime⟩ := d.ueRecorded_spec (d.fld Reg.qrySticky 0 2 = 0) (A := Reg.qryUeAddr)
    (T := Reg.qryUeTime) (S := Reg.qrySticky) (k := q) (BitVec.ofNat 64 a) (by omega) (by decide) (by decide) (by decide)
    (by decide) (by decide)
  rw [he]
  refine ⟨hmem, hbit, hlatch, ?_⟩
  split
  · next hfirst => exact ⟨by simpa [hfirst] using haddr, by simpa [hfirst] using htime⟩
  · next hfirst => exact ⟨by simpa [hfirst] using haddr, by simpa [hfirst] using htime⟩

end

section
variable {d : Device} {a c : Nat} (ha : a < 2 * d.ddrHalf) (hc : d.channelOf a = c) (hal : a % 64 = 0)
include ha hc hal

/-- The corrected words of a line of the DDR, counted at its channel. -/
theorem Device.memCes_ddrLine {w : List Nat} (hw : ∀ i ∈ w, i < 64) :
    (d.memCes a w).mem = d.mem ∧ (d.memCes a w).fld (Reg.ddrCe c) 0 16 = min 0xFFFF (d.fld (Reg.ddrCe c) 0 16 + w.length) ∧
      ∀ b ≠ Reg.ddrCe c, (d.memCes a w).reg b = d.reg b := by
  refine Device.memCes_count fun i hi e he => ?_
  obtain ⟨⟨half, hregion⟩, hchannel⟩ := d.region_ddrLine ha hal (hw i hi)
  obtain ⟨hr, hch⟩ := Device.region_of_boot he (a + i)
  rw [Device.memCe_ddr (hr.trans hregion), hch, hchannel, hc]

/-- An uncorrectable one, recorded; the first with its address and time. -/
theorem Device.memUe_ddrLine (hc' : c < 8) {i : Nat} (hi : i < 64) :
    (d.memUe (a + i)).mem = d.mem ∧ (d.memUe (a + i)).regBit Reg.ddrSticky (8 + c) = true ∧
      (d.memUe (a + i)).regBit Reg.safFaultLatch 9 = true ∧
      (d.fld Reg.ddrSticky 8 8 = 0 → (d.memUe (a + i)).reg Reg.ddrUeAddr = BitVec.ofNat 64 (a + i) ∧
        (d.memUe (a + i)).reg Reg.ddrUeTime = d.ns) := by
  obtain ⟨⟨half, hregion⟩, hchannel⟩ := d.region_ddrLine ha hal hi
  obtain ⟨hmem, hbit, hlatch, haddr, htime⟩ := d.ueRecorded_spec (d.fld Reg.ddrSticky 8 8 = 0) (A := Reg.ddrUeAddr)
    (T := Reg.ddrUeTime) (S := Reg.ddrSticky) (k := 8 + c) (BitVec.ofNat 64 (a + i)) (by omega) (by decide) (by decide) (by decide)
    (by decide) (by decide)
  rw [Device.memUe_ddr hregion, hchannel, hc]
  exact ⟨hmem, hbit, hlatch, fun hfirst => ⟨by simpa [hfirst] using haddr, by simpa [hfirst] using htime⟩⟩

end

/-- A patrol of a Quarry records what the codes report of its line. -/
theorem exec_quarryPatrol {s : State} (q : Fin 2) (l : Fin 3145728) (ecc : Ecc) (hlive : s.dev.live = true) :
    exec (.quarryPatrol q l ecc) s =
      .next { s with dev := s.dev.begun.memEcc (0x4000000000 + q.val * 0xC000000 + 64 * l.val) ecc } :=
  actLive_eq (fun d => d.memEcc (0x4000000000 + q.val * 0xC000000 + 64 * l.val) ecc) hlive

section
variable {s : State} (c : Fin 8) {a : Nat} (ecc : Ecc) (hlive : s.dev.live = true)
include hlive

/-- A patrol of a channel too short a time after the last does nothing. -/
theorem exec_ddrPatrol_soon (h : s.dev.tooSoon (.patrol c) = true) :
    exec (.ddrPatrol c a ecc) s = .next { s with dev := s.dev.begun } := by
  have hexec : execDdrPatrol c a ecc s = _ := actLive_eq _ hlive
  have hsoon : s.dev.begun.tooSoon (.patrol c) = true := h
  exact hexec.trans (by rw [if_neg (by simp [hsoon])])

/-- Else it is noted, and records what the codes report of its line. -/
theorem exec_ddrPatrol_due (h : s.dev.tooSoon (.patrol c) = false) (ha : a < 2 * s.dev.ddrHalf) (hc : s.dev.channelOf a = c.val) :
    exec (.ddrPatrol c a ecc) s = .next { s with dev := (s.dev.begun.noted (.patrol c)).memEcc a ecc } := by
  have hexec : execDdrPatrol c a ecc s = _ := actLive_eq _ hlive
  have hdue : s.dev.begun.tooSoon (.patrol c) = false := h
  have ha' : a < 2 * s.dev.begun.ddrHalf := ha
  have hc' : s.dev.begun.channelOf a = c.val := hc
  exact hexec.trans (by rw [if_pos (by simp [hdue, ha', hc'])])

end

/-! ### Duties not yet due, and refresh (R182, R194; log entry 15) -/

section
variable {s : State} (hlive : s.dev.live = true)
include hlive

theorem exec_ddrTempRead_soon {c : Fin 8} (hot tooHot : Bool) (h : s.dev.tooSoon (.temperature c) = true) :
    exec (.ddrTempRead c hot tooHot) s = .next { s with dev := s.dev.begun } := by
  have hexec : execDdrTempRead c hot tooHot s = _ := actPaced_soon _ hlive h
  exact hexec

theorem exec_ddrCountWindowEnd_soon (w : DdrWindow) (h : s.dev.tooSoon .countWindow = true) :
    exec (.ddrCountWindowEnd w) s = .next { s with dev := s.dev.begun } := by
  have hexec : execDdrCountWindowEnd w s = _ := actPaced_soon _ hlive h
  exact hexec

/-- A refresh is counted. -/
theorem exec_ddrRefresh (c : Fin 8) (managed : Bool) : exec (.ddrRefresh c managed) s =
    .next { s with dev := { s.dev.begun with
      refreshes := tmodD s.dev.refreshes (2 * c.val + if managed then 1 else 0) 0 (· + 1) } } := by
  have hexec : execDdrRefresh c managed s = _ := actLive_eq _ hlive
  exact hexec

end

end Sys2Proof.Machine

/-!
PROOF. The end of a count window (O60): the counts shown, and each half of the DDR judged.
-/

namespace Sys2Proof.Machine

/-! ### The counts of a window (R194) -/

/-- Registers set one after another, each to a value that the registers have no part in. -/
theorem Device.foldl_setReg {d : Device} (r : Nat → Nat) (v : Device → Nat → Word)
    (hv : ∀ (e : Device) a w i, v (e.setReg a w) i = v e i) {l : List Nat} (hr : ∀ i ∈ l, ∀ j ∈ l, r i = r j → i = j) :
    let e := l.foldl (fun d i => d.setReg (r i) (v d i)) d
    (∃ regs, e = { d with regs := regs }) ∧ (∀ i ∈ l, e.reg (r i) = v d i) ∧ ∀ b, (∀ i ∈ l, b ≠ r i) → e.reg b = d.reg b := by
  induction l generalizing d with
  | nil => exact ⟨⟨d.regs, rfl⟩, fun _ h => (nomatch h), fun _ _ => rfl⟩
  | cons i l ih =>
    obtain ⟨⟨regs, honly⟩, hin, hout⟩ := ih (d := d.setReg (r i) (v d i)) fun j hj k hk =>
      hr j (List.mem_cons_of_mem _ hj) k (List.mem_cons_of_mem _ hk)
    dsimp only at honly hin hout ⊢
    rw [List.foldl_cons]
    refine ⟨⟨regs, honly⟩, fun j hj => ?_, fun b hb => ?_⟩
    · by_cases hjl : j ∈ l
      · rw [hin j hjl, hv]
      · obtain rfl := (List.mem_cons.1 hj).resolve_right hjl
        rw [hout _ fun k hk hjk => hjl (hr j List.mem_cons_self k (List.mem_cons_of_mem _ hk) hjk ▸ hk), Device.reg_setReg]
    · rw [hout b fun k hk => hb k (List.mem_cons_of_mem _ hk), Device.reg_setReg_ne _ _ (hb i List.mem_cons_self)]

/-- The end of a window shows the bytes served, by channel and class, and changes no register below the counts. -/
theorem Device.copyCounts_spec (d : Device) : (∃ regs, d.copyCounts = { d with regs := regs }) ∧
    (∀ i c : Fin 8, d.copyCounts.reg (Reg.ddrBytes i c) = BitVec.ofNat 64 (d.servedBytes i c % 2 ^ 32)) ∧
    (∀ (i : Fin 2) (c : Fin 8), d.copyCounts.reg (Reg.qryBytes i c) = BitVec.ofNat 64 (d.servedBytes (8 + i) c / 64 % 2 ^ 32)) ∧
    ∀ b < 0x700100, d.copyCounts.reg b = d.reg b := by
  obtain ⟨⟨r₁, hddr⟩, hddrIn, hddrOut⟩ := Device.foldl_setReg (d := d) (fun i => Reg.ddrBytes (i / 8) (i % 8))
    (fun d i => BitVec.ofNat 64 (d.servedBytes (i / 8) (i % 8) % 2 ^ 32)) (fun _ _ _ _ => rfl) (l := List.range 64)
    (fun i _ j _ h => by unfold Reg.ddrBytes at h; omega)
  generalize he : (List.range 64).foldl _ d = e at hddr hddrIn hddrOut
  obtain ⟨⟨r₂, hqry⟩, hqryIn, hqryOut⟩ := Device.foldl_setReg (d := e) (fun i => Reg.qryBytes (i / 8) (i % 8))
    (fun d i => BitVec.ofNat 64 (d.servedBytes (8 + i / 8) (i % 8) / 64 % 2 ^ 32)) (fun _ _ _ _ => rfl) (l := List.range 16)
    (fun i _ j _ h => by unfold Reg.qryBytes at h; omega)
  have hcopy : d.copyCounts = (List.range 16).foldl (fun d i =>
      d.setReg (Reg.qryBytes (i / 8) (i % 8)) (BitVec.ofNat 64 (d.servedBytes (8 + i / 8) (i % 8) / 64 % 2 ^ 32))) e := by
    rw [← he]
    rfl
  rw [← hcopy] at hqry hqryIn hqryOut
  have hserved : ∀ i c, e.servedBytes i c = d.servedBytes i c := fun i c => by rw [hddr]; rfl
  refine ⟨⟨r₂, by rw [hqry, hddr]⟩, fun i c => ?_, fun i c => ?_, fun b hb => ?_⟩
  · rw [hqryOut _ fun k _ => by unfold Reg.ddrBytes Reg.qryBytes; omega]
    have hin := hddrIn (8 * i + c) (List.mem_range.2 (by omega))
    rwa [show (8 * i.val + c.val) / 8 = i.val by omega, show (8 * i.val + c.val) % 8 = c.val by omega] at hin
  · have hin := hqryIn (8 * i + c) (List.mem_range.2 (by omega))
    rwa [show (8 * i.val + c.val) / 8 = i.val by omega, show (8 * i.val + c.val) % 8 = c.val by omega, hserved] at hin
  · rw [hqryOut b fun k _ => by unfold Reg.qryBytes; omega, hddrOut b fun k _ => by unfold Reg.ddrBytes; omega]

/-! ### A half judged (R197 to R200) -/

/-- The regulation of a half. -/
def Device.halfReg (d : Device) (i : Fin 2) : HalfReg := if i = 0 then d.half0 else d.half1

/-- The device without what judging a half changes of it: registers, the regulation of the halves, the lines of the Herald. -/
def Device.offHalves (d : Device) : Device :=
  { d with regs := [], half0 := ⟨0, []⟩, half1 := ⟨0, []⟩, herald := Herald.reset }

/-- The same of devices that differ in these alone. -/
theorem Device.eq_of_offHalves {α : Type} (f : Device → α) (hf : ∀ x : Device, f x.offHalves = f x) {d e : Device}
    (h : e.offHalves = d.offHalves) : f e = f d := by
  rw [← hf e, h, hf]

/-- The sticky registers that judging a half sets bits of. -/
def judgedSticky (a : Nat) : Prop := a = Reg.mrgThrottleSticky ∨ a = Reg.mrgShortSticky ∨ a = Reg.safFaultLatch

/-- The classes short on a half follow from the bytes served, the classes and their reservations, and the length of the window. -/
theorem Device.shortClasses_congr {d e : Device} (hserved : e.servedBytes = d.servedBytes)
    (hregs : ∀ a, a < 0x600d04 ∨ a = Reg.ddrCntWindow → e.reg a = d.reg a) (w : DdrWindow) (half : Nat) :
    e.shortClasses w half = d.shortClasses w half := by
  refine List.filter_congr fun c hc => ?_
  have hc8 : c < 8 := List.mem_range.1 hc
  have hkind : e.classKind c = d.classKind c := congrArg (bitsAt · 0 2) (hregs _ (.inl (by unfold Reg.mrgClass; omega)))
  have hticks : e.fld Reg.ddrCntWindow 0 20 = d.fld Reg.ddrCntWindow 0 20 := congrArg (bitsAt · 0 20) (hregs _ (.inr rfl))
  have hres : ∀ half, e.resDdr half c = d.resDdr half c := fun half =>
    congrArg (bitsAt · 0 32) (hregs _ (.inl (by unfold Reg.mrgClassResDdr0 Reg.mrgClassResDdr1; split <;> omega)))
  have hshort : ∀ ch, e.shortOn w ch c = d.shortOn w ch c := fun ch => by
    unfold Device.shortOn
    rw [hserved, hticks, hkind, hres]
  simp only [hshort]

/-- What judging half `i` changes: of the registers those of throttling and the fault latch; bits that are set and lines that are raised
stay so, and the other half stands. -/
structure Device.Judged (d e : Device) (i : Fin 2) : Prop where
  off : e.offHalves = d.offHalves
  regs : ∀ a, a < 0x600d04 ∨ (0x600d80 ≤ a ∧ a < 0xe00004) → e.reg a = d.reg a
  bits : ∀ a, judgedSticky a → ∀ k, d.regBit a k = true → e.regBit a k = true
  raised : ∀ n ∈ d.herald.raised, n ∈ e.herald.raised
  other : ∀ j ≠ i, e.halfReg j = d.halfReg j

namespace Device.Judged

variable {d e f : Device} {i : Fin 2}

theorem refl (d : Device) (i : Fin 2) : d.Judged d i := ⟨rfl, fun _ _ => rfl, fun _ _ _ h => h, fun _ h => h, fun _ _ => rfl⟩

theorem trans (h : d.Judged e i) (h' : e.Judged f i) : d.Judged f i :=
  ⟨h'.off.trans h.off, fun a ha => (h'.regs a ha).trans (h.regs a ha), fun a ha k hk => h'.bits a ha k (h.bits a ha k hk),
    fun n hn => h'.raised n (h.raised n hn), fun j hj => (h'.other j hj).trans (h.other j hj)⟩

/-- The classes short on a half are those that were. -/
theorem shortClasses (h : d.Judged e i) (w : DdrWindow) (half : Nat) : e.shortClasses w half = d.shortClasses w half :=
  Device.shortClasses_congr (Device.eq_of_offHalves Device.servedBytes (fun _ => rfl) h.off)
    (fun a ha => h.regs a (ha.imp_right fun ha => by subst ha; decide)) w half

end Device.Judged

section
variable (d : Device) (i : Fin 2)

theorem Device.judged_setReg {a : Nat} (ha : a = Reg.mrgThrottleSteps ∨ (0x600d40 ≤ a ∧ a < 0x600d80)) (v : Word) :
    d.Judged (d.setReg a v) i := by
  have hne : ∀ b, b < 0x600d04 ∨ (0x600d80 ≤ b ∧ b < 0xe00004) ∨ judgedSticky b → b ≠ a := by
    unfold judgedSticky Reg.mrgThrottleSticky Reg.mrgShortSticky Reg.safFaultLatch
    unfold Reg.mrgThrottleSteps at ha
    omega
  refine ⟨rfl, fun b hb => d.reg_setReg_ne _ (hne b (by tauto)), fun b hb k hk => ?_, fun _ h => h, fun _ _ => rfl⟩
  rwa [Device.regBit, d.reg_setReg_ne _ (hne b (.inr (.inr hb)))]

theorem Device.judged_orReg {a : Nat} (ha : judgedSticky a) (m : Nat) : d.Judged (d.orReg a m) i := by
  unfold judgedSticky Reg.mrgThrottleSticky Reg.mrgShortSticky Reg.safFaultLatch at ha
  exact ⟨rfl, fun b hb => d.reg_setReg_ne _ (by omega), fun _ _ _ hk => d.regBit_orReg_of_set _ _ hk, fun _ h => h, fun _ _ => rfl⟩

theorem Device.judged_raise (n : Nat) : d.Judged (d.raise n) i :=
  ⟨rfl, fun _ _ => rfl, fun _ _ _ h => h, fun _ h => (mem_addMember _ _ _).2 (.inr h), fun _ _ => rfl⟩

theorem Device.judged_setHalf (h : HalfReg) : d.Judged (d.setHalf i h) i := by
  unfold Device.setHalf
  split
  · next hi =>
    have hi : i = 0 := Fin.ext hi
    exact ⟨rfl, fun _ _ => rfl, fun _ _ _ h => h, fun _ h => h, fun j hj => (if_neg (hi ▸ hj)).trans (if_neg (hi ▸ hj)).symm⟩
  · next hi =>
    exact ⟨rfl, fun _ _ => rfl, fun _ _ _ h => h, fun _ h => h, fun j hj => by
      have hj : j = 0 := Fin.ext (by have := Fin.val_ne_of_ne hj; omega)
      exact (if_pos hj).trans (if_pos hj).symm⟩

@[simp] theorem Device.halfReg_setHalf (h : HalfReg) : (d.setHalf i h).halfReg i = h := by
  match i with
  | 0 => rfl
  | 1 => rfl

theorem Device.throttleSteps_eq : d.throttleSteps i = (d.halfReg i).steps := by
  match i with
  | 0 => rfl
  | 1 => rfl

/-- The times of classes written. -/
theorem Device.judged_stampClasses {l : List Nat} (hl : ∀ c ∈ l, c < 8) : d.Judged (d.stampClasses l) i := by
  unfold Device.stampClasses
  induction l generalizing d with
  | nil => exact .refl d i
  | cons c l ih =>
    obtain ⟨hc, hl⟩ := List.forall_mem_cons.1 hl
    exact (d.judged_setReg i (.inr (by unfold Reg.mrgThrottleTime; omega)) _).trans (ih _ hl)

theorem Device.halfReg_stampClasses (l : List Nat) : (d.stampClasses l).halfReg i = d.halfReg i := by
  unfold Device.stampClasses
  induction l generalizing d with
  | nil => rfl
  | cons c l ih => exact ih _

/-- The device with a throttle step taken on a half, and its records. -/
def Device.stepTaken (half st bit : Nat) (steps l : List Nat) : Device :=
  let e := (d.setHalf half { clean := 0, steps := st :: steps }).orReg Reg.mrgThrottleSticky (2 ^ bit)
  (((e.addCount Reg.mrgThrottleSteps 0 16 1).stampClasses l).raise 69).latch 12

/-- It raises source 69 and sets the bits of the half and of the fault latch. -/
theorem Device.stepTaken_spec (st : Nat) {bit : Nat} (steps : List Nat) {l : List Nat} (hl : ∀ c ∈ l, c < 8) (hbit : bit < 64) :
    d.Judged (d.stepTaken i st bit steps l) i ∧ (d.stepTaken i st bit steps l).halfReg i = { clean := 0, steps := st :: steps } ∧
      69 ∈ (d.stepTaken i st bit steps l).herald.raised ∧
      (d.stepTaken i st bit steps l).regBit Reg.safFaultLatch 12 = true ∧
      (d.stepTaken i st bit steps l).regBit Reg.mrgThrottleSticky bit = true := by
  let e₁ := d.setHalf i { clean := 0, steps := st :: steps }
  let e₂ := e₁.orReg Reg.mrgThrottleSticky (2 ^ bit)
  let e₃ := e₂.addCount Reg.mrgThrottleSteps 0 16 1
  let e₄ := e₃.stampClasses l
  let e₅ := e₄.raise 69
  have h₁₂ : d.Judged e₂ i := (d.judged_setHalf i _).trans (e₁.judged_orReg i (.inl rfl) _)
  have h₂₄ : e₂.Judged e₄ i := (e₂.judged_setReg i (.inl rfl) _).trans (e₃.judged_stampClasses i hl)
  have h₄₆ : e₄.Judged (e₅.latch 12) i := (e₄.judged_raise i 69).trans (e₅.judged_orReg i (.inr (.inr rfl)) _)
  refine ⟨(h₁₂.trans h₂₄).trans h₄₆, ?_, ?_, e₅.regBit_orReg _ (by omega), ?_⟩
  · exact (e₃.halfReg_stampClasses i l).trans (d.halfReg_setHalf i _)
  · exact (mem_addMember _ _ _).2 (.inl rfl)
  · exact (h₂₄.trans h₄₆).bits _ (.inl rfl) bit (e₁.regBit_orReg _ hbit)

/-- The class that a step takes next is one of the eight. -/
theorem Device.nextTarget_lt {half c : Nat} (h : d.nextTarget half = some c) : c < 8 := by
  unfold Device.nextTarget at h
  dsimp only at h
  revert h
  refine List.foldlRecOn _ _ (motive := fun o : Option Nat => o = some c → c < 8) (fun h => by cases h) fun o ho x hx => ?_
  have hx8 : x < 8 := List.mem_range.1 (List.mem_filter.1 hx).1
  split
  · rintro ⟨⟩
    exact hx8
  · split
    · rintro ⟨⟩
      exact hx8
    · exact ho

/-- A half with a short class takes the step that throttles BEST, or else the next that is not in force. -/
theorem Device.throttleStep_eq : d.throttleStep i =
    if 8 ∈ (d.halfReg i).steps then
      match d.nextTarget i with
      | some c => d.stepTaken i c (16 + 8 * i + c) (d.halfReg i).steps [c]
      | none => d.setHalf i { clean := 0, steps := (d.halfReg i).steps }
    else d.stepTaken i 8 i (d.halfReg i).steps ((List.range 8).filter fun c => d.classKind c = 0) := by
  unfold Device.throttleStep
  rw [d.throttleSteps_eq i]
  simp only [Bool.not_eq_true', List.contains_eq_mem, decide_eq_false_iff_not]
  rw [ite_not]
  rfl

end

/-- What judging a half with some short classes comes to: a clean window counted, with a step undone from the 64th on, or a step taken. -/
structure Device.HalfJudged (d e : Device) (l : List Nat) (i : Fin 2) : Prop where
  clean : l = [] → (e.halfReg i).clean = min 64 ((d.halfReg i).clean + 1) ∧
    (e.halfReg i).steps = if 63 ≤ (d.halfReg i).clean then (d.halfReg i).steps.drop 1 else (d.halfReg i).steps
  short : l ≠ [] → (e.halfReg i).clean = 0 ∧
    (8 ∉ (d.halfReg i).steps → (e.halfReg i).steps = 8 :: (d.halfReg i).steps ∧ 69 ∈ e.herald.raised ∧
      e.regBit Reg.safFaultLatch 12 = true ∧ e.regBit Reg.mrgThrottleSticky i = true) ∧
    ∀ c ∈ l, e.regBit Reg.mrgShortSticky (8 * i + c) = true

/-- It stands while the other half is judged. -/
theorem Device.HalfJudged.trans {d e f : Device} {l : List Nat} {i j : Fin 2} (h : d.HalfJudged e l i) (h' : e.Judged f j)
    (hij : i ≠ j) : d.HalfJudged f l i := by
  have hhalf := h'.other i hij
  refine ⟨fun hl => hhalf ▸ h.clean hl, fun hl => ?_⟩
  obtain ⟨hclean, hstep, hbits⟩ := h.short hl
  refine ⟨hhalf ▸ hclean, fun h8 => ?_, fun c hc => h'.bits _ (.inr (.inl rfl)) _ (hbits c hc)⟩
  obtain ⟨hsteps, hraised, hlatch, hsticky⟩ := hstep h8
  exact ⟨hhalf ▸ hsteps, h'.raised _ hraised, h'.bits _ (.inr (.inr rfl)) _ hlatch, h'.bits _ (.inl rfl) _ hsticky⟩

section
variable (d : Device) (i : Fin 2)

/-- The regulation of a half after a window without a short class. -/
def HalfReg.afterClean (r : HalfReg) : HalfReg :=
  { clean := min 64 (r.clean + 1), steps := if 63 ≤ r.clean then r.steps.drop 1 else r.steps }

/-- A clean window of a half. -/
theorem Device.cleanWindow_spec : d.Judged (d.cleanWindow i) i ∧ d.HalfJudged (d.cleanWindow i) [] i := by
  have hhalf : (if i.val = 0 then d.half0 else d.half1) = d.halfReg i := by
    match i with
    | 0 => rfl
    | 1 => rfl
  have hclean : ∀ e : Device, e.halfReg i = (d.halfReg i).afterClean → d.HalfJudged e [] i := fun e he =>
    ⟨fun _ => ⟨congrArg HalfReg.clean he, congrArg HalfReg.steps he⟩, fun h => absurd rfl h⟩
  have hset := d.judged_setHalf i (d.halfReg i).afterClean
  have hread := d.halfReg_setHalf i (d.halfReg i).afterClean
  unfold Device.cleanWindow
  simp only [hhalf]
  split
  · next x rest hsteps =>
    split
    · next h64 =>
      have hafter : ({ clean := min 64 ((d.halfReg i).clean + 1), steps := rest } : HalfReg) = (d.halfReg i).afterClean := by
        simp only [HalfReg.afterClean, hsteps, if_pos (show 63 ≤ (d.halfReg i).clean by omega), List.drop_one, List.tail_cons]
      rw [hafter]
      exact ⟨hset.trans (Device.judged_setReg _ i (.inl rfl) _), hclean _ hread⟩
    · next h64 =>
      have hafter : ({ clean := min 64 ((d.halfReg i).clean + 1), steps := (d.halfReg i).steps } : HalfReg) = (d.halfReg i).afterClean := by
        simp only [HalfReg.afterClean, if_neg (show ¬ 63 ≤ (d.halfReg i).clean by omega)]
      rw [hafter]
      exact ⟨hset, hclean _ hread⟩
  · next hsteps =>
    have hafter : ({ clean := min 64 ((d.halfReg i).clean + 1), steps := (d.halfReg i).steps } : HalfReg) = (d.halfReg i).afterClean := by
      simp [HalfReg.afterClean, hsteps]
    rw [hafter]
    exact ⟨hset, hclean _ hread⟩

/-- A throttle step of a half. -/
theorem Device.throttleStep_spec : d.Judged (d.throttleStep i) i ∧ ((d.throttleStep i).halfReg i).clean = 0 ∧
    (8 ∉ (d.halfReg i).steps → ((d.throttleStep i).halfReg i).steps = 8 :: (d.halfReg i).steps ∧
      69 ∈ (d.throttleStep i).herald.raised ∧ (d.throttleStep i).regBit Reg.safFaultLatch 12 = true ∧
      (d.throttleStep i).regBit Reg.mrgThrottleSticky i = true) := by
  rw [d.throttleStep_eq i]
  split
  · next h8 =>
    split
    · next c hc =>
      have hc8 := d.nextTarget_lt hc
      obtain ⟨hjudged, hhalf, -⟩ := d.stepTaken_spec i c (bit := 16 + 8 * i + c) (d.halfReg i).steps (l := [c]) (by simpa using hc8)
        (by omega)
      exact ⟨hjudged, congrArg HalfReg.clean hhalf, fun h => absurd h8 h⟩
    · exact ⟨d.judged_setHalf i _, congrArg HalfReg.clean (d.halfReg_setHalf i _), fun h => absurd h8 h⟩
  · obtain ⟨hjudged, hhalf, hraised, hlatch, hsticky⟩ := d.stepTaken_spec i 8 (bit := i) (d.halfReg i).steps
      (l := (List.range 8).filter fun c => d.classKind c = 0) (fun c hc => List.mem_range.1 (List.mem_filter.1 hc).1) (by omega)
    exact ⟨hjudged, congrArg HalfReg.clean hhalf, fun _ => ⟨congrArg HalfReg.steps hhalf, hraised, hlatch, hsticky⟩⟩

/-- The bits of short classes set. -/
theorem Device.shortBits_spec {l : List Nat} (hl : ∀ c ∈ l, c < 8) :
    let e := l.foldl (fun d c => d.orReg Reg.mrgShortSticky (2 ^ (8 * i.val + c))) d
    d.Judged e i ∧ e.halfReg i = d.halfReg i ∧ ∀ c ∈ l, e.regBit Reg.mrgShortSticky (8 * i + c) = true := by
  induction l generalizing d with
  | nil => exact ⟨.refl d i, rfl, fun _ h => nomatch h⟩
  | cons c l ih =>
    obtain ⟨hc, hl⟩ := List.forall_mem_cons.1 hl
    let e := d.orReg Reg.mrgShortSticky (2 ^ (8 * i.val + c))
    obtain ⟨hjudged, hhalf, hbits⟩ := ih e hl
    refine ⟨(d.judged_orReg i (.inr (.inl rfl)) _).trans hjudged, hhalf, List.forall_mem_cons.2 ⟨?_, hbits⟩⟩
    exact hjudged.bits _ (.inr (.inl rfl)) _ (d.regBit_orReg _ (by omega))

/-- A half judged at the end of a window. -/
theorem Device.judgeHalf_spec (w : DdrWindow) :
    d.Judged (d.judgeHalf w i) i ∧ d.HalfJudged (d.judgeHalf w i) (d.shortClasses w i) i := by
  have hl : ∀ c ∈ d.shortClasses w i, c < 8 := fun c hc => List.mem_range.1 (List.mem_filter.1 hc).1
  unfold Device.judgeHalf
  cases hs : d.shortClasses w i with
  | nil => exact d.cleanWindow_spec i
  | cons c l =>
    obtain ⟨hbits, hhalf, hset⟩ := d.shortBits_spec i (hs ▸ hl)
    dsimp only at hbits hhalf hset ⊢
    generalize (c :: l).foldl _ d = e at hbits hhalf hset ⊢
    obtain ⟨hstep, hclean, htaken⟩ := e.throttleStep_spec i
    rw [hhalf] at htaken
    exact ⟨hbits.trans hstep, ⟨fun h => (nomatch h),
      fun _ => ⟨hclean, htaken, fun c hc => hstep.bits _ (.inr (.inl rfl)) _ (hset c hc)⟩⟩⟩

end

/-- The regulation that judging starts from is all it takes of the device it starts from. -/
theorem Device.HalfJudged.of_halfReg {d d' e : Device} {l : List Nat} {i : Fin 2} (h : d.HalfJudged e l i)
    (hd : d.halfReg i = d'.halfReg i) : d'.HalfJudged e l i := by
  obtain ⟨hclean, hshort⟩ := h
  exact ⟨hd ▸ hclean, hd ▸ hshort⟩

/-- The end of a count window after its spacing: the counts are shown, none is left, and each half is judged. -/
theorem exec_ddrCountWindowEnd {s : State} (w : DdrWindow) (hlive : s.dev.live = true) (hdue : s.dev.tooSoon .countWindow = false) :
    ∃ t, exec (.ddrCountWindowEnd w) s = .next t ∧ t.dev.mem = s.dev.mem ∧ t.dev.ctxs = s.dev.ctxs ∧
      (∀ i c : Fin 8, t.dev.reg (Reg.ddrBytes i c) = BitVec.ofNat 64 (s.dev.servedBytes i c % 2 ^ 32)) ∧
      (∀ (i : Fin 2) (c : Fin 8), t.dev.reg (Reg.qryBytes i c) = BitVec.ofNat 64 (s.dev.servedBytes (8 + i) c / 64 % 2 ^ 32)) ∧
      t.dev.served = [] ∧ ∀ i : Fin 2, s.dev.HalfJudged t.dev (s.dev.shortClasses w i) i := by
  let d := s.dev.begun.noted .countWindow
  let e := d.copyCounts.judgeHalf w 0
  let f := e.judgeHalf w 1
  have hexec : execDdrCountWindowEnd w s = .next { s with dev := { f with served := [] } } := actPaced_due _ hlive hdue
  obtain ⟨⟨regs, hcopy⟩, hddr, hqry, hlow⟩ := d.copyCounts_spec
  obtain ⟨hfirst, hhalf₀⟩ := d.copyCounts.judgeHalf_spec 0 w
  obtain ⟨hsecond, hhalf₁⟩ := e.judgeHalf_spec 1 w
  have hshort : ∀ half, d.copyCounts.shortClasses w half = s.dev.shortClasses w half :=
    Device.shortClasses_congr (by rw [hcopy]; rfl) (fun a ha => hlow a (by unfold Reg.ddrCntWindow at ha; omega)) w
  have hstart : ∀ i, d.copyCounts.halfReg i = s.dev.halfReg i := fun i => by rw [hcopy]; rfl
  have hregs : ∀ a, 0x600d80 ≤ a ∧ a < 0xe00004 → f.reg a = d.copyCounts.reg a := fun a ha =>
    (hsecond.regs a (.inr ha)).trans (hfirst.regs a (.inr ha))
  have hjudged : ∀ i : Fin 2, s.dev.HalfJudged f (s.dev.shortClasses w i) i := fun i => by
    match i with
    | 0 => exact ((hshort 0 ▸ hhalf₀).trans hsecond (by decide)).of_halfReg (hstart 0)
    | 1 => exact (((hfirst.shortClasses w 1).trans (hshort 1)) ▸ hhalf₁).of_halfReg ((hfirst.other 1 (by decide)).trans (hstart 1))
  have hkept : ∀ {α : Type} (g : Device → α), (∀ x : Device, g x.offHalves = g x) → g f = g d.copyCounts := fun g hg =>
    (Device.eq_of_offHalves g hg hsecond.off).trans (Device.eq_of_offHalves g hg hfirst.off)
  refine ⟨_, hexec, (hkept Device.mem fun _ => rfl).trans (by rw [hcopy]; rfl),
    (hkept Device.ctxs fun _ => rfl).trans (by rw [hcopy]; rfl), fun i c => ?_, fun i c => ?_, rfl,
    fun i => ⟨(hjudged i).clean, (hjudged i).short⟩⟩
  · exact (hregs _ (by unfold Reg.ddrBytes; omega)).trans (hddr i c)
  · exact (hregs _ (by unfold Reg.qryBytes; omega)).trans (hqry i c)

end Sys2Proof.Machine

/-!
PROOF. The steps of jobs (O60): what the Foreman changes on the way of a step, and FOREMAN_STEP_END.
-/

namespace Sys2Proof.Machine

/-! ### What the Foreman changes (R233 to R237) -/

/-- The device without its stores, its registers, and what the Foreman keeps of pools and jobs. -/
def Device.offForeman (d : Device) : Device :=
  { d.offStores with regs := [], pools := [], jobs := [], lastSteps := [], nextId := 0 }

/-- The same of devices that differ in these alone. -/
theorem Device.eq_of_offForeman {α : Type} (f : Device → α) (hf : ∀ x : Device, f x.offForeman = f x) {d e : Device}
    (h : e.offForeman = d.offForeman) : f e = f d := by
  rw [← hf e, h, hf]

/-- What the steps of jobs change on their way: of the registers the counts of saturations alone, and no place of the pool. -/
structure Device.Worked (d e : Device) (p : Nat) : Prop where
  off : e.offForeman = d.offForeman
  regs : ∀ a, Reg.cfgSatTotal < a → e.reg a = d.reg a
  slots : (e.pool p).map Page.slot = (d.pool p).map Page.slot

/-- The pages of a pool lie at no unit held offline. -/
def Device.poolOnline (d : Device) (p : Nat) : Prop :=
  ∀ y ∈ d.pool p, d.rangeOff (d.slotAddr p y.slot) pageBytes = false

namespace Device.Worked

variable {d e f : Device} {p : Nat}

theorem refl (d : Device) (p : Nat) : d.Worked d p := ⟨rfl, fun _ _ => rfl, rfl⟩

theorem trans (h : d.Worked e p) (h' : e.Worked f p) : d.Worked f p :=
  ⟨h'.off.trans h.off, fun a ha => (h'.regs a ha).trans (h.regs a ha), h'.slots.trans h.slots⟩

/-- What changes the stores alone. -/
theorem of_offStores (h : e.offStores = d.offStores) : d.Worked e p := by
  refine ⟨?_, fun a _ => Device.eq_of_offStores (·.reg a) (fun _ => rfl) h, ?_⟩
  · unfold Device.offForeman
    rw [h]
  · rw [Device.eq_of_offStores (·.pool p) (fun _ => rfl) h]

theorem unitOff (h : d.Worked e p) (u : Nat) : e.unitOff u = d.unitOff u := by
  unfold Device.unitOff Device.regBit
  rw [h.regs _ (by unfold Reg.cfgSatTotal Reg.safUnitOff; omega)]

theorem rangeOff (h : d.Worked e p) (a n : Nat) : e.rangeOff a n = d.rangeOff a n := by
  have hunit : e.unitOfAddr = d.unitOfAddr := Device.eq_of_offForeman Device.unitOfAddr (fun _ => rfl) h.off
  have hports : e.safety.closedPorts = d.safety.closedPorts :=
    Device.eq_of_offForeman (·.safety.closedPorts) (fun _ => rfl) h.off
  have haddr : e.addrOff = d.addrOff := by
    funext a
    simp only [Device.addrOff, hunit, hports, h.unitOff]
  simp only [Device.rangeOff, haddr]

theorem slotAddr (h : d.Worked e p) (q slot : Nat) : e.slotAddr q slot = d.slotAddr q slot := by
  unfold Device.slotAddr Device.fld
  rw [h.regs _ (by unfold Reg.cfgSatTotal Reg.fmnPoolBase; omega)]

theorem freePlace (h : d.Worked e p) : e.freePlace p = d.freePlace p := by
  have hpages : e.poolPages p = d.poolPages p := by
    unfold Device.poolPages Device.fld
    rw [h.regs _ (by unfold Reg.cfgSatTotal Reg.fmnPoolSize; omega)]
  have htaken : ∀ k, ((e.pool p).all fun x => x.slot ≠ k) = (d.pool p).all fun x => x.slot ≠ k := fun k => by
    have hall := congrArg (List.all · fun slot => decide (slot ≠ k)) h.slots
    simp only [List.all_map] at hall
    exact hall
  simp only [Device.freePlace, hpages, htaken]

theorem poolOnline (h : d.Worked e p) (hon : d.poolOnline p) : e.poolOnline p := by
  intro y hy
  have hslot : y.slot ∈ (d.pool p).map Page.slot := h.slots ▸ List.mem_map_of_mem hy
  obtain ⟨x, hx, hxy⟩ := List.mem_map.1 hslot
  rw [h.slotAddr, h.rangeOff, ← hxy]
  exact hon x hx

end Device.Worked

section
variable (d : Device) (p : Nat)

@[simp] theorem Device.pool_setPool (l : List Page) : (d.setPool p l).pool p = l := tgetD_tputD_self _ _ _ _

/-- A pool replaced by one with the same places. -/
theorem Device.worked_setPool {l : List Page} (h : l.map Page.slot = (d.pool p).map Page.slot) : d.Worked (d.setPool p l) p :=
  ⟨rfl, fun _ _ => rfl, by rw [d.pool_setPool p l, h]⟩

/-- Pins set keep the places. -/
theorem Device.worked_pin (c : Nat) {f : Page → Page} (h : ∀ x, (f x).slot = x.slot) : d.Worked (d.pin p c f) p := by
  have hset : d.Worked (d.setPool p ((d.pool p).map fun x => if x.ctx = c then f x else x)) p := by
    refine d.worked_setPool p ?_
    rw [List.map_map]
    refine List.map_congr_left fun x _ => ?_
    dsimp only [Function.comp_apply]
    split
    · exact h x
    · rfl
  exact hset.trans ⟨rfl, fun _ _ => rfl, rfl⟩

theorem Device.worked_lastSteps (m : Table Nat) : d.Worked { d with lastSteps := m } p := ⟨rfl, fun _ _ => rfl, rfl⟩

theorem Device.worked_setJob (j : FmJob) : d.Worked (d.setJob j) p := ⟨rfl, fun _ _ => rfl, rfl⟩

/-- A page written keeps the places. -/
theorem Device.worked_writePage (o : Page × List Byte) : d.Worked (d.writePage p o) p := by
  have hset := (d.wr (d.slotAddr p o.1.slot) o.2).worked_setPool p
    (l := (d.pool p).map fun y => if y.slot = o.1.slot then { y with dirty := true } else y) (by
      rw [List.map_map]
      refine List.map_congr_left fun x _ => ?_
      dsimp only [Function.comp_apply]
      split <;> rfl)
  exact (Device.Worked.of_offStores (d.offStores_wr _ _)).trans hset

theorem Device.worked_countSats (n : Nat) : d.Worked (d.countSats n) p := by
  unfold Device.countSats
  split
  · exact .refl d p
  · refine ⟨rfl, fun a ha => ?_, rfl⟩
    unfold Reg.cfgSatTotal at ha
    exact (Device.reg_setReg_ne _ _ (by unfold Reg.cfgNumSticky; omega)).trans
      (Device.reg_setReg_ne _ _ (by unfold Reg.cfgSatTotal; omega))

/-- Pages charged to a grant change stores alone, and no memory. -/
theorem Device.chargePages_stores (port : Nat) (l : List Nat) (write : Bool) :
    (d.chargePages port l write).offStores = d.offStores ∧ (d.chargePages port l write).mem = d.mem := by
  unfold Device.chargePages
  induction l generalizing d with
  | nil => exact ⟨rfl, rfl⟩
  | cons a l ih =>
    obtain ⟨hoff, hmem⟩ := ih (d.charge port a pageBytes write)
    exact ⟨hoff.trans (d.offStores_charge _ _ _ _), hmem.trans (d.charge_mem _ _ _ _)⟩

/-! ### The jobs of a partition (R235) -/

/-- A job that stands for one of the device's is a job of the device once it is set. -/
theorem Device.mem_setJob {i j : FmJob} (hi : i ∈ d.jobs) (hc : i.ctx = j.ctx) (hx : i.index = j.index) :
    j ∈ (d.setJob j).jobs :=
  List.mem_map.2 ⟨i, hi, by simp [hc, hx]⟩

/-- Each other job of the device then is one that was there before. -/
theorem Device.mem_jobs_setJob {i j : FmJob} (hi : i ∈ (d.setJob j).jobs) : i = j ∨ i ∈ d.jobs := by
  obtain ⟨i', hi', rfl⟩ := List.mem_map.1 hi
  split
  · exact .inl rfl
  · exact .inr hi'

variable {p}

/-- A ready job is a job of the device. -/
theorem Device.mem_jobs_of_ready {j : FmJob} (h : j ∈ d.readyJobs p) : j ∈ d.jobs := (List.mem_filter.1 h).1

/-- The pages of a step lie at places of the pool. -/
theorem Device.mem_jobSlots {j : FmJob} {a : Nat} (h : a ∈ d.jobSlots p j) : ∃ y ∈ d.pool p, d.slotAddr p y.slot = a := by
  obtain ⟨n, -, hn⟩ := List.mem_filterMap.1 h
  obtain ⟨y, hy, rfl⟩ := Option.map_eq_some_iff.1 hn
  exact ⟨y, List.mem_of_find?_eq_some hy, rfl⟩

/-- So do the pages it writes. -/
theorem Device.mem_stepOutputs {j : FmJob} {o : Page × List Byte} (h : o ∈ d.stepOutputs p j) : o.1 ∈ d.pool p := by
  obtain ⟨n, -, hn⟩ := List.mem_filterMap.1 h
  obtain ⟨y, hy, rfl⟩ := Option.map_eq_some_iff.1 hn
  exact List.mem_of_find?_eq_some hy

end

/-- A device that has a job of a RUN on a cluster, with some steps done. -/
def Device.keepsJob (d : Device) (j : FmJob) (k done : Nat) (f : FmJob → Prop) : Prop :=
  ∃ i ∈ d.jobs, i.ctx = j.ctx ∧ i.index = j.index ∧ i.cluster = some k ∧ i.done = done ∧ f i

/-! ### A step begun (R237) -/

section
variable {d : Device} {p k : Nat} {j : FmJob}

/-- A step that lacks a page does not begin. -/
theorem Device.beginStep_missing (h : d.missing p j ≠ []) : d.beginStep p k j = d := by
  unfold Device.beginStep
  rw [if_pos (by simp [h])]

/-- No page of a step is at a unit held offline where none of its pool is. -/
theorem Device.jobSlots_online (hon : d.poolOnline p) : ((d.jobSlots p j).any fun a => d.rangeOff a pageBytes) = false := by
  rw [List.any_eq_false]
  intro a ha
  obtain ⟨y, hy, rfl⟩ := d.mem_jobSlots ha
  simp [hon y hy]

/-- The job of a step begun, with the pages of the step as they stand. -/
def Device.begunJob (d : Device) (p : Nat) (j : FmJob) : FmJob :=
  { j with inputs := some ((d.jobSlots p j).map fun a => d.rd a pageBytes), started := j.started.or (some d.ns) }

/-- A step that lacks no page, and whose pages its port lets through, begins. -/
theorem Device.beginStep_begins (hon : d.poolOnline p) (hin : j.inputs = none) (hall : d.missing p j = [])
    (hheld : d.pagesHeld k (d.jobSlots p j) = false) :
    d.beginStep p k j = (d.chargePages k (d.jobSlots p j) false).setJob (d.begunJob p j) := by
  unfold Device.beginStep
  simp [hin, hall, hheld, Device.jobSlots_online hon, Device.begunJob]

/-- Where no page of the pool is at a unit held offline, a step begins or waits. -/
theorem Device.beginStep_cases (k : Nat) (j : FmJob) (hon : d.poolOnline p) : d.beginStep p k j = d ∨
    d.beginStep p k j = (d.chargePages k (d.jobSlots p j) false).setJob (d.begunJob p j) := by
  by_cases hwait : (j.inputs.isSome || !(d.missing p j).isEmpty || d.pagesHeld k (d.jobSlots p j)) = true
  · exact .inl (if_pos hwait)
  · simp only [Bool.or_eq_true, not_or, Bool.not_eq_true, Option.isSome_eq_false_iff, Option.isNone_iff_eq_none,
      Bool.not_eq_false', List.isEmpty_iff] at hwait
    obtain ⟨⟨hin, hall⟩, hheld⟩ := hwait
    exact .inr (Device.beginStep_begins hon hin hall hheld)

/-- It keeps the memory, the registers, and its job on the cluster. -/
theorem Device.beginStep_spec (hon : d.poolOnline p) (hj : j ∈ d.jobs) (hk : j.cluster = some k) :
    d.Worked (d.beginStep p k j) p ∧ (d.beginStep p k j).mem = d.mem ∧ (d.beginStep p k j).regs = d.regs ∧
      (d.beginStep p k j).keepsJob j k j.done fun _ => True := by
  obtain ⟨hoff, hmem⟩ := d.chargePages_stores k (d.jobSlots p j) false
  obtain h | h := Device.beginStep_cases k j hon
  · rw [h]
    exact ⟨.refl d p, rfl, rfl, j, hj, rfl, rfl, hk, rfl, trivial⟩
  · rw [h]
    refine ⟨(Device.Worked.of_offStores hoff).trans (Device.worked_setJob _ p _), hmem,
      (Device.eq_of_offStores Device.regs (fun _ => rfl) hoff :), d.begunJob p j, ?_, rfl, rfl, hk, rfl, trivial⟩
    exact Device.mem_setJob _ (i := j) (Device.eq_of_offStores Device.jobs (fun _ => rfl) hoff ▸ hj) rfl rfl

/-- The device with the pages that a job's next step needs pinned and used. -/
def Device.pinNeeded (d : Device) (p : Nat) (j : FmJob) : Device :=
  d.pin p j.ctx fun x => if (d.jobPages j).contains x.page then { x with pinned := true, used := d.nextId } else x

theorem Device.pinNeeded_spec (d : Device) (p : Nat) (j : FmJob) : d.Worked (d.pinNeeded p j) p ∧
    (d.pinNeeded p j).mem = d.mem ∧ (d.pinNeeded p j).regs = d.regs ∧ (d.pinNeeded p j).jobs = d.jobs :=
  ⟨d.worked_pin p j.ctx fun x => by split <;> rfl, rfl, rfl, rfl⟩

/-- A job put on a cluster is there, whether its step begins or waits. -/
theorem Device.startJob_spec (k : Nat) (hon : d.poolOnline p) (hj : j ∈ d.jobs) :
    d.Worked (d.startJob p k j) p ∧ (d.startJob p k j).mem = d.mem ∧ (d.startJob p k j).regs = d.regs ∧
      (d.startJob p k j).keepsJob j k j.done fun _ => True := by
  let j' : FmJob := { j with cluster := some k }
  obtain ⟨hpin, hmem, hregs, hjobs⟩ := d.pinNeeded_spec p j
  have hset : d.Worked ((d.pinNeeded p j).setJob j') p := hpin.trans (Device.worked_setJob _ p j')
  obtain ⟨hwork, hmem', hregs', hkeeps⟩ := Device.beginStep_spec (hset.poolOnline hon)
    (Device.mem_setJob _ (i := j) (j := j') (hjobs ▸ hj) rfl rfl) rfl
  exact ⟨hset.trans hwork, hmem'.trans hmem, hregs'.trans hregs, hkeeps⟩

/-- While the pool has a free place no context is blocked, and nothing is evicted by force (R236). -/
theorem Device.forceVictim_free (port : Nat) (h : (d.freePlace p).isSome = true) : d.forceVictim p port = d := by
  unfold Device.forceVictim
  dsimp only
  cases d.readyJobs p with
  | nil => rfl
  | cons j l =>
    have hfree : d.blocked p j = false := by
      obtain ⟨slot, hslot⟩ := Option.isSome_iff_exists.1 h
      simp [Device.blocked, hslot]
    rw [if_pos (by simp [hfree])]

end

/-! ### The end of a step (R235) -/

/-- A search in a list mapped finds the image of what was found before, where an element that fits then is that image or fitted. -/
theorem find?_map_of_find? {α : Type} {P Q : α → Bool} {g : α → α} {j j' : α} (hg : g j = j') (hj : Q j' = true) (l : List α)
    (h : ∀ i ∈ l, Q (g i) = true → g i = j' ∨ P i = true) (hfind : l.find? P = some j) : (l.map g).find? Q = some j' := by
  induction l with
  | nil => cases hfind
  | cons i l ih =>
    rw [List.map_cons]
    by_cases hP : P i = true
    · rw [List.find?_cons_of_pos hP] at hfind
      obtain rfl := Option.some.inj hfind
      rw [hg, List.find?_cons_of_pos hj]
    · by_cases hQ : Q (g i) = true
      · rw [List.find?_cons_of_pos hQ, (h i List.mem_cons_self hQ).resolve_right hP]
      · rw [List.find?_cons_of_neg hP] at hfind
        rw [List.find?_cons_of_neg hQ]
        exact ih (fun i hi => h i (List.mem_cons_of_mem _ hi)) hfind

section
variable {d e : Device} {p : Nat} {j j' : FmJob} (hwork : d.Worked e p) (hjobs : e.jobs = (d.setJob j').jobs)
  (hready : d.jobReady p j = true) (hctx : j'.ctx = j.ctx) (horder : j'.order = j.order)

/-- What makes a job ready, its place before the jobs of its context apart, is kept. -/
theorem Device.Worked.jobReady_iff (h : d.Worked e p) (i : FmJob) : e.jobReady p i = true ↔
    (d.ctxPart i.ctx = p ∧ (d.ctx i.ctx).st = .opened ∧ d.ctxOffline i.ctx = false) ∧
      ∀ x ∈ e.jobs, x.ctx = i.ctx → i.order ≤ x.order := by
  have hreg : e.reg (Reg.calCtx i.ctx) = d.reg (Reg.calCtx i.ctx) := h.regs _ (by unfold Reg.cfgSatTotal Reg.calCtx; omega)
  have hctx : e.ctx i.ctx = d.ctx i.ctx := Device.eq_of_offForeman (·.ctx i.ctx) (fun _ => rfl) h.off
  have hoff : e.unitOff = d.unitOff := funext h.unitOff
  simp [Device.jobReady, Device.ctxPart, Device.ctxOffline, Device.ctxMask, Device.fld, hreg, hctx, hoff, and_assoc, imp_iff_not_or]

include hwork hjobs hready hctx horder

/-- The job set for a ready one is ready. -/
theorem Device.jobReady_set : e.jobReady p j' = true := by
  obtain ⟨hopen, hfirst⟩ := ((Device.Worked.refl d p).jobReady_iff j).1 hready
  refine (hwork.jobReady_iff j').2 ⟨hctx ▸ hopen, fun x hx hxj => ?_⟩
  obtain rfl | hx := d.mem_jobs_setJob (hjobs ▸ hx)
  · exact Nat.le_refl _
  · exact horder ▸ hfirst x hx (hxj.trans hctx)

/-- No other job has become ready. -/
theorem Device.jobReady_of_set {i : FmJob}
    (hi : e.jobReady p i = true) : d.jobReady p i = true := by
  obtain ⟨-, hfirst⟩ := ((Device.Worked.refl d p).jobReady_iff j).1 hready
  obtain ⟨hopen, hbefore⟩ := (hwork.jobReady_iff i).1 hi
  refine ((Device.Worked.refl d p).jobReady_iff i).2 ⟨hopen, fun x hx hxi => ?_⟩
  by_cases hdup : x.ctx = j'.ctx ∧ x.index = j'.index
  · have hset := hbefore j' (hjobs ▸ d.mem_setJob hx hdup.1 hdup.2) (hdup.1.symm.trans hxi)
    have hle := hfirst x hx (hdup.1.trans hctx)
    omega
  · exact hbefore x (hjobs ▸ List.mem_map.2 ⟨x, hx, by simp [hdup]⟩) hxi

/-- It is the cluster's own where the job it stands for was. -/
theorem Device.own_set {k : Nat} (hindex : j'.index = j.index) (hk : j'.cluster = some k)
    (hown : ((d.readyJobs p).find? fun j => j.cluster = some k) = some j) :
    ((e.readyJobs p).find? fun j => j.cluster = some k) = some j' := by
  let g : FmJob → FmJob := fun i => if i.ctx = j'.ctx && i.index = j'.index then j' else i
  have hset : e.jobs = d.jobs.map g := hjobs
  have hj : g j = j' := if_pos (by simp [hctx, hindex])
  rw [Device.readyJobs, List.find?_filter] at hown ⊢
  rw [hset]
  refine find?_map_of_find? hj ?_ d.jobs (fun i _ hi => ?_) hown
  · simp [Device.jobReady_set hwork hjobs hready hctx horder, hk]
  · by_cases hdup : i.ctx = j'.ctx ∧ i.index = j'.index
    · exact .inl (if_pos (by simp [hdup]))
    · have hi' : g i = i := if_neg (by simpa using hdup)
      simp only [hi', decide_eq_true_eq] at hi ⊢
      exact .inr ⟨Device.jobReady_of_set hwork hjobs hready hctx horder hi.1, hi.2⟩

/-- No job waits for the cluster where none did. -/
theorem Device.jobsFor_set {k : Nat} (hk : j'.cluster = some k) (hnone : (d.jobsFor p k).filter (fun j => j.cluster.isNone) = []) :
    (e.jobsFor p k).filter (fun j => j.cluster.isNone) = [] := by
  have hmask : ∀ c, e.ctxMask c = d.ctxMask c := fun c => by
    unfold Device.ctxMask Device.fld
    rw [hwork.regs _ (by unfold Reg.cfgSatTotal Reg.calCtx; omega)]
  simp only [Device.jobsFor, Device.readyJobs, List.filter_filter, List.filter_eq_nil_iff, Bool.and_eq_true] at hnone ⊢
  rintro i hi ⟨hfree, hon, hi'⟩
  obtain rfl | hi := d.mem_jobs_setJob (hjobs ▸ hi)
  · simp [hk] at hfree
  · exact hnone i hi ⟨hfree, hmask i.ctx ▸ hon, Device.jobReady_of_set hwork hjobs hready hctx horder hi'⟩

end

section
variable {d : Device} {p k : Nat} {j : FmJob}

/-- The end of a step that is not the last of its package counts the step, and completes no RUN. -/
theorem Device.endStep_spec (hgo : d.lastDone { j with done := j.done + 1 } = false) :
    d.Worked (d.endStep p k j) p ∧
      ∃ sat, (d.endStep p k j).jobs = (d.setJob { j with done := j.done + 1, inputs := none, sat := sat }).jobs := by
  let out := d.stepOutputs p j
  let sats := Config.stepSats (d.jobImage j) j.done (j.inputs.getD [])
  let j' : FmJob := { j with done := j.done + 1, inputs := none, sat := holdAdd 32 j.sat sats }
  let e₁ := d.chargePages k (out.map fun o => d.slotAddr p o.1.slot) true
  let e₂ := e₁.countSats sats
  let e₃ := out.foldl (fun d o => d.writePage p o) e₂
  let e₄ := e₃.pin p j.ctx fun x => { x with pinned := false, used := if (d.jobPages j).contains x.page then d.nextId else x.used }
  let e₅ : Device := { e₄.setJob j' with lastSteps := tput e₄.lastSteps j.ctx d.nextId }
  obtain ⟨hcharge, -⟩ := d.chargePages_stores k (out.map fun o => d.slotAddr p o.1.slot) true
  have hjobs₁ : e₁.jobs = d.jobs := Device.eq_of_offStores Device.jobs (fun _ => rfl) hcharge
  have hjobs₂ : e₂.jobs = d.jobs := by
    rw [← hjobs₁]
    unfold e₂ Device.countSats
    split <;> rfl
  have hwork₂ : d.Worked e₂ p := (Device.Worked.of_offStores hcharge).trans (e₁.worked_countSats p sats)
  have hwritten : d.Worked e₃ p ∧ e₃.jobs = d.jobs :=
    List.foldlRecOn out _ (motive := fun e : Device => d.Worked e p ∧ e.jobs = d.jobs) ⟨hwork₂, hjobs₂⟩
      fun e ⟨hw, hj⟩ o _ => ⟨hw.trans (e.worked_writePage p o), hj⟩
  obtain ⟨hwork₃, hjobs₃⟩ := hwritten
  have hwork₄ : d.Worked e₄ p := hwork₃.trans (e₃.worked_pin p j.ctx fun _ => rfl)
  have hwork₅ : d.Worked e₅ p := (hwork₄.trans (e₄.worked_setJob p j')).trans (Device.worked_lastSteps _ p _)
  have hjobs₅ : e₅.jobs = (d.setJob j').jobs := by
    have hset : e₅.jobs = e₃.jobs.map fun i => if i.ctx = j'.ctx && i.index = j'.index then j' else i := rfl
    rw [hset, hjobs₃]
    rfl
  have hlast : e₅.lastDone j' = false := by
    rw [← hgo]
    unfold Device.lastDone Device.jobPackage
    rw [Device.eq_of_offForeman (·.ctx j'.ctx) (fun _ => rfl) hwork₅.off]
  have hend : d.endStep p k j = e₅ := if_neg (Bool.eq_false_iff.1 hlast)
  rw [hend]
  exact ⟨hwork₅, _, hjobs₅⟩

/-- A cluster with a job goes on with it where no other waits for it. -/
theorem Device.nextJob_own (hown : ((d.readyJobs p).find? fun j => j.cluster = some k) = some j)
    (hnone : (d.jobsFor p k).filter (fun j => j.cluster.isNone) = []) : d.nextJob p k = d.startJob p k j := by
  unfold Device.nextJob
  rw [hown, hnone]
  rfl

/-- A cluster without one takes the best that waits for it. -/
theorem Device.nextJob_best (hown : ((d.readyJobs p).find? fun j => j.cluster = some k) = none)
    (hbest : bestJob ((d.jobsFor p k).filter fun j => j.cluster.isNone) = some j) : d.nextJob p k = d.startJob p k j := by
  unfold Device.nextJob
  rw [hown, hbest]

/-- The best of some jobs is one of them. -/
theorem mem_of_bestJob {l : List FmJob} (h : bestJob l = some j) : j ∈ l := by
  induction l with
  | nil => cases h
  | cons i l ih =>
    unfold bestJob at h
    split at h
    · next x hx =>
      split at h
      · exact List.mem_cons_of_mem _ (ih (hx.trans h))
      · exact Option.some.inj h ▸ List.mem_cons_self
    · exact Option.some.inj h ▸ List.mem_cons_self

end

/-- A job with a step of its package to come after the next has not ended with the next. -/
theorem Device.lastDone_of_lt {d : Device} {j : FmJob} {q : Package} (hq : d.jobPackage j = some q) (h : j.done + 1 < q.steps) :
    d.lastDone { j with done := j.done + 1 } = false := by
  have hq' : d.jobPackage { j with done := j.done + 1 } = some q := hq
  simp only [Device.lastDone, hq', Option.all_some, decide_eq_false_iff_not]
  omega

/-! ### FOREMAN_STEP_END -/

section
variable {d : Device} {p k : Nat} {j : FmJob} (hon : d.foremanOn p = true) (hmask : inMask (d.partMask p) k = true)
  (hunit : d.unitOff k = false) (hfree : (d.freePlace p).isSome = true) (hpool : d.poolOnline p)
include hon hmask hunit hfree hpool

/-- A free cluster takes the best of the jobs that wait for it. -/
theorem foremanStepEnd_free (hown : ((d.readyJobs p).find? fun j => j.cluster = some k) = none)
    (hbest : bestJob ((d.jobsFor p k).filter fun j => j.cluster.isNone) = some j) :
    (foremanStepEnd d p k).mem = d.mem ∧ (foremanStepEnd d p k).regs = d.regs ∧
      (foremanStepEnd d p k).keepsJob j k j.done fun _ => True := by
  have hj : j ∈ d.jobs := d.mem_jobs_of_ready (p := p) (List.mem_filter.1 (List.mem_filter.1 (mem_of_bestJob hbest)).1).1
  obtain ⟨hwork, hmem, hregs, hkeeps⟩ := Device.startJob_spec k hpool hj
  have hend : foremanStepEnd d p k = d.startJob p k j := by
    unfold foremanStepEnd
    rw [if_neg (by simp [hon, hmask, hunit]), hown, Device.nextJob_best hown hbest]
    exact Device.forceVictim_free k (hwork.freePlace ▸ hfree)
  rw [hend]
  exact ⟨hmem, hregs, hkeeps⟩

/-- A job whose step has not begun begins it, or waits for what it lacks. -/
theorem foremanStepEnd_begins (hown : ((d.readyJobs p).find? fun j => j.cluster = some k) = some j) (hin : j.inputs = none) :
    foremanStepEnd d p k = d.beginStep p k j := by
  have hk : j.cluster = some k := by simpa using List.find?_some hown
  obtain ⟨hwork, -⟩ := Device.beginStep_spec hpool (d.mem_jobs_of_ready (List.mem_of_find?_eq_some hown)) hk
  unfold foremanStepEnd
  rw [if_neg (by simp [hon, hmask, hunit]), hown]
  dsimp only
  rw [if_pos (by simp [hin])]
  exact Device.forceVictim_free k (hwork.freePlace ▸ hfree)

/-- The step of a job whose pages are all there begins with the pages as they stand; one that lacks a page waits. -/
theorem foremanStepEnd_unbegun (hports : ∀ y ∈ d.pool p, d.portHolds k (d.slotAddr p y.slot) = false)
    (hown : ((d.readyJobs p).find? fun j => j.cluster = some k) = some j) (hin : j.inputs = none) :
    (foremanStepEnd d p k).mem = d.mem ∧ (d.missing p j ≠ [] → foremanStepEnd d p k = d) ∧
      (d.missing p j = [] → (foremanStepEnd d p k).keepsJob j k j.done fun i =>
        i.inputs = some ((d.jobSlots p j).map fun a => d.rd a pageBytes)) := by
  have hk : j.cluster = some k := by simpa using List.find?_some hown
  have hj : j ∈ d.jobs := d.mem_jobs_of_ready (List.mem_of_find?_eq_some hown)
  rw [foremanStepEnd_begins hon hmask hunit hfree hpool hown hin]
  obtain ⟨-, hmem, -⟩ := Device.beginStep_spec hpool hj hk
  refine ⟨hmem, Device.beginStep_missing, fun hall => ?_⟩
  have hheld : d.pagesHeld k (d.jobSlots p j) = false := by
    refine List.any_eq_false.2 fun a ha => ?_
    obtain ⟨y, hy, rfl⟩ := d.mem_jobSlots ha
    simp [hports y hy]
  rw [Device.beginStep_begins hpool hin hall hheld]
  have hjobs : (d.chargePages k (d.jobSlots p j) false).jobs = d.jobs :=
    Device.eq_of_offStores Device.jobs (fun _ => rfl) (d.chargePages_stores _ _ _).1
  exact ⟨d.begunJob p j, Device.mem_setJob _ (i := j) (hjobs ▸ hj) rfl rfl, rfl, rfl, hk, rfl, rfl⟩

/-- A job whose step ends, and is not its last, stays on its cluster with the step counted. -/
theorem foremanStepEnd_counts (hports : ∀ y ∈ d.pool p, d.portHolds k (d.slotAddr p y.slot) = false)
    (hown : ((d.readyJobs p).find? fun j => j.cluster = some k) = some j) (hin : j.inputs.isSome = true)
    (hnone : (d.jobsFor p k).filter (fun j => j.cluster.isNone) = [])
    (hgo : d.lastDone { j with done := j.done + 1 } = false) :
    (foremanStepEnd d p k).keepsJob j k (j.done + 1) fun _ => True := by
  have hk : j.cluster = some k := by simpa using List.find?_some hown
  have hj : j ∈ d.readyJobs p := List.mem_of_find?_eq_some hown
  have hready : d.jobReady p j = true := (List.mem_filter.1 hj).2
  have hheld : d.stepHeld p k j = false := by
    rw [Device.stepHeld, hgo, Bool.false_and, Bool.or_false, Device.pagesHeld, List.any_eq_false]
    intro a ha
    obtain ⟨o, ho, rfl⟩ := List.mem_map.1 ha
    simp [hports o.1 (d.mem_stepOutputs ho)]
  have honline : ((d.stepOutputs p j).any fun o => d.rangeOff (d.slotAddr p o.1.slot) pageBytes) = false :=
    List.any_eq_false.2 fun o ho => by simpa using hpool o.1 (d.mem_stepOutputs ho)
  obtain ⟨hwork, sat, hjobs⟩ := Device.endStep_spec (p := p) (k := k) hgo
  have hown' := Device.own_set hwork hjobs hready rfl rfl rfl hk hown
  have hnone' := Device.jobsFor_set hwork hjobs hready rfl rfl hk hnone
  obtain ⟨hstart, -, -, hkeeps⟩ := Device.startJob_spec k (hwork.poolOnline hpool)
    (Device.mem_jobs_of_ready _ (List.mem_of_find?_eq_some hown'))
  have hend : foremanStepEnd d p k = ((d.endStep p k j).nextJob p k).forceVictim p k := by
    unfold foremanStepEnd
    rw [if_neg (by simp [hon, hmask, hunit]), hown]
    dsimp only
    rw [if_neg (by simp [Option.isSome_iff_ne_none.1 hin]), if_neg (by simp [hheld]), if_neg (by simp [honline])]
  rw [hend, Device.nextJob_own hown' hnone', Device.forceVictim_free k ((hwork.trans hstart).freePlace ▸ hfree)]
  exact hkeeps

end

/-- FOREMAN_STEP_END on a live device. -/
theorem exec_foremanStepEnd {s : State} (p : Fin 16) (k : Fin 24) (hlive : s.dev.live = true) :
    exec (.foremanStepEnd p k) s = .next { s with dev := foremanStepEnd s.dev.begun p k } :=
  actLive_eq (fun d => foremanStepEnd d p k) hlive

end Sys2Proof.Machine

/-!
PROOF. Paging (O60): what reporting on a ring leaves of registers and pools, a page moved into a free place, and FOREMAN_PAGE_IN.
-/

namespace Sys2Proof.Machine

/-! ### A RUN reported (R260, R313) -/

/-- What reporting on a ring changes of registers and pools: the sticky bits of the host interface, and the pins of pages. -/
structure Device.Reported (d e : Device) : Prop where
  regs : ∀ a, a ≠ Reg.hifSticky → e.reg a = d.reg a
  pages : ∀ p, ∀ x ∈ d.pool p, ∃ y ∈ e.pool p, y.slot = x.slot ∧ y.ctx = x.ctx ∧ y.page = x.page

namespace Device.Reported

variable {d e f : Device}

/-- What keeps the registers and the pools. -/
theorem of_same (hr : e.regs = d.regs) (hp : e.pools = d.pools) : d.Reported e :=
  ⟨fun a _ => by simp only [Device.reg, hr], fun p x hx => ⟨x, by simpa only [Device.pool, hp] using hx, rfl, rfl, rfl⟩⟩

theorem refl (d : Device) : d.Reported d := of_same rfl rfl

theorem trans (h : d.Reported e) (h' : e.Reported f) : d.Reported f := by
  refine ⟨fun a ha => (h'.regs a ha).trans (h.regs a ha), fun p x hx => ?_⟩
  obtain ⟨y, hy, hslot, hctx, hpage⟩ := h.pages p x hx
  obtain ⟨z, hz, hslot', hctx', hpage'⟩ := h'.pages p y hy
  exact ⟨z, hz, hslot'.trans hslot, hctx'.trans hctx, hpage'.trans hpage⟩

end Device.Reported

/-- The value at a key of a table whose values are mapped. -/
theorem tgetD_map_values {α β : Type} {f : α → β} {x : α} {y : β} (m : Table α) (h : f x = y) (k : Nat) :
    tgetD (m.map fun e => (e.1, f e.2)) k y = f (tgetD m k x) := by
  unfold tgetD
  induction m with
  | nil => exact h.symm
  | cons e m ih =>
    obtain ⟨i, v⟩ := e
    rw [List.map_cons, tget, tget]
    split
    · rfl
    · exact ih

section
variable (d : Device)

theorem Device.reported_sticky (m : Nat) : d.Reported (d.orReg Reg.hifSticky m) :=
  ⟨fun _ ha => d.reg_setReg_ne _ ha, (Device.Reported.refl d).pages⟩

theorem Device.reported_setRing (k : RingRef) (x : Ring) : d.Reported (d.setRing k x) := by
  cases k <;> exact .of_same rfl rfl

/-- A signal sent or held. -/
theorem Device.reported_signal (t : Nat) : d.Reported (d.signal t) := by
  unfold Device.signal
  dsimp only
  repeat' split
  all_goals exact .of_same rfl rfl

theorem Device.reported_signalAdmin : d.Reported d.signalAdmin := by
  unfold Device.signalAdmin
  dsimp only
  repeat' split
  all_goals exact .of_same rfl rfl

theorem Device.reported_putEntry (k : RingRef) (tags : List Byte) (status detail kind : Byte) (index : Half)
    (payload : List Byte) : d.Reported (d.putEntry k tags status detail kind index payload).1 := by
  unfold Device.putEntry
  dsimp only
  split
  · next pc _ => cases pc <;> exact d.reported_sticky _
  · split
    · have hwrite := Device.offLinks_ringWrite (d.setRing k { d.ring k with cqTail := (d.ring k).cqTail + 1 }) k (d.ring k).entryAt
        (entryBytes (d.ring k) tags status detail kind index payload)
      exact (d.reported_setRing k _).trans (.of_same (Device.eq_of_offLinks Device.regs (fun _ => rfl) hwrite)
        (Device.eq_of_offLinks Device.pools (fun _ => rfl) hwrite))
    · exact .refl d

theorem Device.reported_notices (l : List Notice) : d.Reported { d with notices := l } := .of_same rfl rfl

theorem Device.reported_adminFault : d.Reported d.adminFault :=
  .trans (e := { d with admin := { d.admin with state := .stopped } }) (.of_same rfl rfl) (Device.reported_sticky _ 2)

theorem Device.reported_flushNotices (n : Nat) : d.Reported (Device.flushNotices n d) := by
  induction n generalizing d with
  | zero => exact .refl d
  | succ n ih =>
    rw [Device.flushNotices]
    split
    · exact .refl d
    · next x rest _ =>
      have hput := d.reported_putEntry .admin (0xFF :: 0xFF :: List.replicate 22 0) x.status x.detail 0x04 0xFFFFFFFF x.payload
      dsimp only
      split
      · exact .refl d
      · split
        · exact ((hput.trans (Device.reported_notices _ rest)).trans (Device.reported_signalAdmin _)).trans (ih _)
        · exact hput.trans (Device.reported_adminFault _)

theorem Device.reported_notice (n : Notice) : d.Reported (d.notice n) :=
  (d.reported_notices (d.notices ++ [n])).trans (Device.reported_flushNotices _ _)

theorem Device.reported_ringFault (k : RingRef) (cause : Byte) : d.Reported (d.ringFault k cause) := by
  unfold Device.ringFault
  split
  · split
    · exact d.reported_adminFault
    · exact .refl d
  · dsimp only
    split
    · exact .refl d
    · exact ((d.reported_setRing _ _).trans (Device.reported_sticky _ 1)).trans (Device.reported_notice _ _)

/-- An entry written, or its ring stopped. -/
theorem Device.reported_entry (k : RingRef) (tags : List Byte) (status detail kind : Byte) (index : Half)
    (payload : List Byte) : d.Reported (d.entry' k tags status detail kind index payload).1 := by
  have hput := d.reported_putEntry k tags status detail kind index payload
  unfold Device.entry'
  dsimp only
  split
  · exact hput
  · exact hput.trans (Device.reported_ringFault _ _ _)

theorem Device.reported_lastEntry (k : RingRef) (x : QDesc) (tags : List Byte) (status detail kind : Byte)
    (payload : List Byte) : d.Reported (d.lastEntry k x tags status detail kind payload) := by
  have hentry := d.reported_entry k tags status detail kind x.index payload
  unfold Device.lastEntry Device.notifyFor
  dsimp only
  repeat' split
  · exact hentry
  · exact hentry.trans (Device.reported_signalAdmin _)
  · exact hentry.trans (Device.reported_signal _ _)
  · exact hentry

theorem Device.reported_jobEntry (k : RingRef) (x : QDesc) (id : BitVec 16) (start : Nat) (status detail : Byte) :
    d.Reported (d.jobEntry k x id start status detail).1 := by
  have huse : d.Reported (d.useEntry k) := by
    unfold Device.useEntry
    dsimp only
    split
    · exact .refl d
    · exact d.reported_setRing k _
  exact huse.trans (Device.reported_entry _ _ _ _ _ _ _ _)

theorem Device.reported_jobEntries (k : RingRef) (x : QDesc) (start : Nat) (status detail : Byte) (l : List (BitVec 16)) :
    d.Reported (l.foldl (fun d id => (d.jobEntry k x id start status detail).1) d) := by
  induction l generalizing d with
  | nil => exact .refl d
  | cons id l ih =>
    rw [List.foldl_cons]
    exact (d.reported_jobEntry k x id start status detail).trans (ih _)

/-- A job dropped leaves its pages in their places. -/
theorem Device.reported_dropJob (k : RingRef) (x : QDesc) : d.Reported (d.dropJob k x) := by
  unfold Device.dropJob
  split
  · exact .refl d
  · next c _ =>
    dsimp only
    split
    · exact .refl d
    · let free : Page → Page := fun y => if y.ctx = c then { y with pinned := false } else y
      have hpools : ∀ p, tgetD (d.pools.map fun e => (e.1, e.2.map free)) p [] = (d.pool p).map free := fun p =>
        tgetD_map_values (f := List.map free) (x := []) d.pools rfl p
      have hfree : ∀ y, (free y).slot = y.slot ∧ (free y).ctx = y.ctx ∧ (free y).page = y.page := fun y => by
        unfold free
        split <;> exact ⟨rfl, rfl, rfl⟩
      refine ⟨fun _ _ => rfl, fun p y hy => ⟨free y, ?_, hfree y⟩⟩
      exact (hpools p ▸ List.mem_map_of_mem hy : free y ∈ tgetD (d.pools.map fun e => (e.1, e.2.map free)) p [])

theorem Device.reported_popHead (k : RingRef) : d.Reported (d.popHead k) := d.reported_setRing k _

theorem Device.reported_done (k : RingRef) (status detail : Byte) (value : Nat) : d.Reported (d.done k status detail value) := by
  unfold Device.done
  split
  · exact .refl d
  · exact (d.reported_popHead k).trans (Device.reported_lastEntry _ _ _ _ _ _ _ _)

/-- The head of a ring completed with one entry, or with the entries of its results and its own. -/
theorem Device.reported_dismiss (k : RingRef) (status detail : Byte) : d.Reported (d.dismiss k status detail) := by
  unfold Device.dismiss
  split
  · exact .refl d
  · next x _ _ =>
    split
    · exact d.reported_done k status detail 0
    · dsimp only
      exact (((d.reported_jobEntries k x _ status detail _).trans (Device.reported_dropJob _ k x)).trans
        (Device.reported_popHead _ k)).trans (Device.reported_lastEntry _ _ _ _ _ _ _ _)

theorem Device.reported_settleHead (n : Nat) (k : RingRef) : d.Reported (Device.settleHead n d k) := by
  induction n generalizing d with
  | zero => exact .refl d
  | succ n ih =>
    rw [Device.settleHead]
    repeat' split
    · exact .refl d
    · exact .refl d
    · exact (d.reported_dismiss k _ _).trans (ih _)
    · exact .refl d

/-- The RUN of a job ended by an access that failed. -/
theorem Device.reported_jobFail (j : FmJob) (status detail : Byte) : d.Reported (d.jobFail j status detail) := by
  unfold Device.jobFail
  dsimp only
  split
  · exact .refl d
  · exact (d.reported_dismiss _ _ _).trans (Device.reported_settleHead _ _ _)

/-- A step that begins, waits, or ends its RUN. -/
theorem Device.reported_beginStep (p k : Nat) (j : FmJob) : d.Reported (d.beginStep p k j) := by
  obtain ⟨hoff, -⟩ := d.chargePages_stores k (d.jobSlots p j) false
  unfold Device.beginStep
  dsimp only
  repeat' split
  · exact .refl d
  · exact d.reported_jobFail j _ _
  · exact .of_same (Device.eq_of_offStores Device.regs (fun _ => rfl) hoff :) (Device.eq_of_offStores Device.pools (fun _ => rfl) hoff :)

end

/-! ### A page moved into the pool (R188, R233) -/

/-- Lines in memory, in classes that ports let through at once. -/
theorem Device.linesIssue_open {d : Device} (port owner : Nat) {l : List Nat} (h : ∀ a ∈ l, d.openLine a) :
    d.linesIssue port owner l = (l.length, false, d) := by
  induction l with
  | nil => rfl
  | cons a l ih =>
    obtain ⟨ha, hl⟩ := List.forall_mem_cons.1 h
    rw [Device.linesIssue, Device.lineIssue_open ha]
    dsimp only
    rw [ih hl]
    rfl

/-- A move whose lines are all let through is made, and is served. -/
theorem Device.viaMove_open {d : Device} (port : Nat) {src dst n : Nat} (hsrc : ∀ a ∈ lineAddrs src n, d.openLine a)
    (hdst : ∀ a ∈ lineAddrs dst n, d.openLine a) (f : Device → Device) :
    ∃ e, d.viaMove port src dst n f = f e ∧ e.offStores = d.offStores ∧ e.mem = d.mem := by
  let lines := lineAddrs src n ++ lineAddrs dst n
  let before := d.portDone port src (2 * n)
  let g : Device := { d with portWaits := d.portForget port src (2 * n) }
  have hlines : d.linesIssue port 256 (lines.drop before) = ((lines.drop before).length, false, d) :=
    Device.linesIssue_open port 256 fun a ha => (List.mem_append.1 (List.mem_of_mem_drop ha)).elim (hsrc a) (hdst a)
  have hpass : d.passLines port src (2 * n) lines = (true, g) := by
    unfold Device.passLines
    dsimp only
    rw [hlines, if_neg (by rw [List.length_drop]; omega)]
  refine ⟨(g.serve src n false).serve dst n true, ?_, by simp; rfl, by simp; rfl⟩
  unfold Device.viaMove
  rw [hpass]
  rfl

/-- The lines of a page that begins a line. -/
theorem lineAddrs_page {a l : Nat} (ha : a % 64 = 0) (hl : l ∈ lineAddrs a pageBytes) : ∃ o < pageBytes, o % 64 = 0 ∧ l = a + o := by
  rw [lineAddrs_eq_map] at hl
  obtain ⟨i, hi, rfl⟩ := List.mem_map.1 hl
  obtain ⟨-, hlow, hhigh⟩ := mem_lineNums.1 hi
  unfold pageBytes at hhigh ⊢
  exact ⟨64 * i - a, by omega, by omega, by omega⟩

/-- A place of a pool begins a line. -/
theorem Device.slotAddr_aligned (d : Device) (p slot : Nat) : d.slotAddr p slot % 64 = 0 := by
  unfold Device.slotAddr pageBytes
  omega

/-- The device with a page added to a pool, and counted. -/
def Device.pageAdded (d : Device) (p : Nat) (x : Page) : Device :=
  let d := d.addCount Reg.fmnPageIns 0 32 1
  { d.setPool p (d.pool p ++ [x]) with nextId := d.nextId + 1 }

theorem Device.pageAdded_eq (d : Device) (p : Nat) (x : Page) : d.pageAdded p x =
    { (d.addCount Reg.fmnPageIns 0 32 1).setPool p ((d.addCount Reg.fmnPageIns 0 32 1).pool p ++ [x]) with
      nextId := (d.addCount Reg.fmnPageIns 0 32 1).nextId + 1 } := rfl

theorem Device.pool_pageAdded (d : Device) (p : Nat) (x : Page) : (d.pageAdded p x).pool p = d.pool p ++ [x] :=
  tgetD_tputD_self _ _ _ _

/-- A step then lacks every other page that it lacked. -/
theorem Device.missing_pageAdded (d : Device) {p : Nat} {x : Page} {j : FmJob} {m : Nat} (hm : m ∈ d.missing p j) (hne : m ≠ x.page) :
    m ∈ (d.pageAdded p x).missing p j := by
  obtain ⟨hneeds, hlacks⟩ := List.mem_filter.1 hm
  refine List.mem_filter.2 ⟨hneeds, ?_⟩
  rw [Device.pageOf, Option.isNone_iff_eq_none] at hlacks ⊢
  rw [Device.pool_pageAdded, List.find?_append, hlacks]
  simp [hne.symm]

theorem Device.mem_wr (d : Device) (a : Nat) (bs : List Byte) : (d.wr a bs).mem = memWrite d.mem a bs := rfl

theorem Device.rd_congr {d e : Device} (h : e.mem = d.mem) (a n : Nat) : e.rd a n = d.rd a n := by rw [Device.rd, h, Device.rd]

/-- Clean codes are no record. -/
theorem Device.memEcc_clean (d : Device) (a : Nat) : d.memEcc a .clean = d := rfl

/-- A page whose lines ports let through, at no unit held offline, is copied in, and the step of its job begins where it was the
last that lacked. -/
theorem Device.pageIn_open {d : Device} {p slot a : Nat} (j : FmJob) (n cluster : Nat) (ha : a % 64 = 0)
    (hfrom : d.rangeOff a pageBytes = false) (hto : d.rangeOff (d.slotAddr p slot) pageBytes = false)
    (hopen : ∀ o < pageBytes, o % 64 = 0 → d.openLine (a + o) ∧ d.openLine (d.slotAddr p slot + o)) :
    ∃ e : Device, ∃ x : Page, d.pageIn' p cluster slot a j n .clean = (e.pageAdded p x).beginStep p cluster j ∧
      (x.slot = slot ∧ x.ctx = j.ctx ∧ x.page = n) ∧ e.offStores = d.offStores ∧
      e.mem = memWrite d.mem (d.slotAddr p slot) (d.rd a pageBytes) := by
  have hsrc : ∀ l ∈ lineAddrs a pageBytes, d.openLine l := fun l hl => by
    obtain ⟨o, ho, hal, rfl⟩ := lineAddrs_page ha hl
    exact (hopen o ho hal).1
  have hdst : ∀ l ∈ lineAddrs (d.slotAddr p slot) pageBytes, d.openLine l := fun l hl => by
    obtain ⟨o, ho, hal, rfl⟩ := lineAddrs_page (d.slotAddr_aligned p slot) hl
    exact (hopen o ho hal).2
  unfold Device.pageIn'
  dsimp only
  rw [if_neg (by simp [hfrom, hto])]
  obtain ⟨e, hmove, hoff, hmem⟩ := Device.viaMove_open cluster hsrc hdst _
  rw [hmove, Device.memEcc_clean]
  generalize hg : e.wr (d.slotAddr p slot) (e.rd a pageBytes) = g
  exact ⟨g, _, congrArg (fun e : Device => e.beginStep p cluster j) (Device.pageAdded_eq g p _).symm, ⟨rfl, rfl, rfl⟩,
    by rw [← hg, Device.offStores_wr, hoff], by rw [← hg, Device.mem_wr, Device.rd_congr hmem, hmem]⟩

/-- FOREMAN_PAGE_IN of a page that the next step of a job on a cluster needs, with a free place for it. -/
theorem foremanPageIn_free {d : Device} {p c n a slot : Nat} {j : FmJob} (hon : d.foremanOn p = true)
    (hjob : ((d.readyJobs p).find? fun j => j.ctx = c && j.cluster.isSome) = some j) (hback : d.backing c n = some a)
    (hfree : d.freePlace p = some slot) (ecc : Ecc) :
    foremanPageIn d p c n ecc = if n ∈ d.missing p j then d.pageIn' p (j.cluster.getD 0) slot a j n ecc else d := by
  unfold foremanPageIn
  rw [hjob]
  simp only [hon, hback, hfree, Bool.not_true, Bool.false_or, Bool.not_eq_true', List.contains_eq_mem, decide_eq_false_iff_not]
  exact ite_not ..

/-- It counts the page, which then stands in its place; while another is lacked, its bytes alone change in memory. -/
theorem foremanPageIn_copied {d : Device} {p c n a slot : Nat} {j : FmJob} (hon : d.foremanOn p = true)
    (hjob : ((d.readyJobs p).find? fun j => j.ctx = c && j.cluster.isSome) = some j) (hback : d.backing c n = some a)
    (hfree : d.freePlace p = some slot) (ha : a % 64 = 0) (hfrom : d.rangeOff a pageBytes = false)
    (hto : d.rangeOff (d.slotAddr p slot) pageBytes = false)
    (hopen : ∀ o < pageBytes, o % 64 = 0 → d.openLine (a + o) ∧ d.openLine (d.slotAddr p slot + o)) (hn : n ∈ d.missing p j) :
    (foremanPageIn d p c n .clean).fld Reg.fmnPageIns 0 32 = min 0xFFFFFFFF (d.fld Reg.fmnPageIns 0 32 + 1) ∧
      (∃ x ∈ (foremanPageIn d p c n .clean).pool p, x.slot = slot ∧ x.ctx = j.ctx ∧ x.page = n) ∧
      ((∃ m ∈ d.missing p j, m ≠ n) →
        (foremanPageIn d p c n .clean).mem = memWrite d.mem (d.slotAddr p slot) (d.rd a pageBytes)) := by
  obtain ⟨e, x, hpage, ⟨hslot, hctx, hnum⟩, hoff, hmem⟩ := Device.pageIn_open j n (j.cluster.getD 0) ha hfrom hto hopen
  have hreg : e.fld Reg.fmnPageIns 0 32 = d.fld Reg.fmnPageIns 0 32 :=
    Device.eq_of_offStores (·.fld Reg.fmnPageIns 0 32) (fun _ => rfl) hoff
  have hmissing : e.missing p j = d.missing p j := Device.eq_of_offStores (·.missing p j) (fun _ => rfl) hoff
  rw [foremanPageIn_free hon hjob hback hfree, if_pos hn, hpage]
  have hstep := (e.pageAdded p x).reported_beginStep p (j.cluster.getD 0) j
  refine ⟨?_, ?_, fun ⟨m, hm, hne⟩ => ?_⟩
  · rw [Device.fld, hstep.regs _ (by decide), ← hreg]
    exact e.fld_addCount Reg.fmnPageIns 1 (lo := 0) (len := 32) (by omega)
  · obtain ⟨y, hy, hyslot, hyctx, hypage⟩ := hstep.pages p x (by rw [Device.pool_pageAdded]; simp)
    exact ⟨y, hy, hyslot.trans hslot, hyctx.trans hctx, hypage.trans hnum⟩
  · have hlacks := e.missing_pageAdded (x := x) (hmissing ▸ hm) (hnum ▸ hne)
    rw [Device.beginStep_missing (List.ne_nil_of_mem hlacks)]
    exact hmem

theorem Device.begun_rangeOff (d : Device) (a n : Nat) : d.begun.rangeOff a n = d.rangeOff a n := rfl

theorem Device.begun_openLine (d : Device) (a : Nat) : d.begun.openLine a ↔ d.openLine a := Iff.rfl

/-- FOREMAN_PAGE_IN on a live device. -/
theorem exec_foremanPageIn {s : State} (p : Fin 16) (c : Fin 256) (n : Nat) (ecc : Ecc) (hlive : s.dev.live = true) :
    exec (.foremanPageIn p c n ecc) s = .next { s with dev := foremanPageIn s.dev.begun p c n ecc } :=
  actLive_eq (fun d => foremanPageIn d p c n ecc) hlive

end Sys2Proof.Machine

/-!
PROOF. The memory units and the Foreman (O60), put together.
-/

namespace Sys2Proof.Machine

/-- Settles O60: each unit has one lemma for what its command comes to, and the statement puts them together. -/
theorem memoryUnitsAndForeman : Obligations.MemoryUnitsAndForeman := by
  intro s hlive d corrects
  refine ⟨fun c => ⟨fun hsoon hot tooHot => exec_ddrTempRead_soon hlive hot tooHot hsoon,
      fun hsoon a e => exec_ddrPatrol_soon c e hlive hsoon, fun hsoon w => exec_ddrCountWindowEnd_soon hlive w hsoon⟩,
    fun c hot tooHot hdue => exec_ddrTempRead hot tooHot hlive hdue, fun c m => exec_ddrRefresh hlive c m, fun q l => ?_,
    fun c a ha hc hal hdue => ?_, fun w hdue => ?_, fun p c n a slot j hon hjob hback hfree hal hfrom hto hopen => ?_, ?_⟩
  · refine ⟨exec_quarryPatrol q l .clean hlive, fun w hw => ?_, fun i hi => ?_⟩
    · exact ⟨_, exec_quarryPatrol q l (.corrected w) hlive, Device.memCes_quarryLine q l hw⟩
    · exact ⟨_, exec_quarryPatrol q l (.uncorrectable i) hlive, Device.memUe_quarryLine q l hi⟩
  · have hexec := fun ecc => exec_ddrPatrol_due c ecc hlive hdue ha hc
    refine ⟨hexec .clean, fun w hw => ?_, fun i hi => ?_⟩
    · exact ⟨_, hexec (.corrected w), Device.memCes_ddrLine (d := d.noted (.patrol c)) ha hc hal hw⟩
    · exact ⟨_, hexec (.uncorrectable i), Device.memUe_ddrLine (d := d.noted (.patrol c)) ha hc hal c.isLt hi⟩
  · obtain ⟨t, hexec, hmem, hctxs, hddr, hqry, hserved, hhalves⟩ := exec_ddrCountWindowEnd w hlive hdue
    refine ⟨t, hexec, hmem, hctxs, hddr, hqry, hserved, fun i => ⟨(hhalves i).clean, fun hshort => ?_⟩⟩
    obtain ⟨hclean, hstep, hbits⟩ := (hhalves i).short hshort
    exact ⟨hclean, hstep, fun c hc => hbits c hc⟩
  · refine ⟨_, exec_foremanPageIn p c n .clean hlive, fun hn => ?_, fun hn => ?_⟩
    · rw [foremanPageIn_free (d := s.dev.begun) hon hjob hback hfree]
      exact congrArg (fun e => ({ s with dev := e } : State)) (if_neg hn)
    · have hoff := s.dev.begun_rangeOff
      have hline := s.dev.begun_openLine
      exact foremanPageIn_copied (d := s.dev.begun) hon hjob hback hfree hal ((hoff _ _).trans hfrom) ((hoff _ _).trans hto)
        (fun o ho hal => ⟨(hline _).2 (hopen o ho hal).1, (hline _).2 (hopen o ho hal).2⟩) hn
  · intro p k j hon hmask hunit hfree hpool keeps own
    have hexec := exec_foremanStepEnd p k hlive
    have honline : d.poolOnline p := fun y hy => (hpool y hy).1
    have hports : ∀ y ∈ d.pool p, d.portHolds k (d.slotAddr p y.slot) = false := fun y hy =>
      (s.dev.begun_portHolds k _).trans (hpool y hy).2
    refine ⟨fun hown hbest => ⟨_, hexec, foremanStepEnd_free (d := d) hon hmask hunit hfree honline hown hbest⟩,
      fun hown hin => ⟨_, hexec, ?_⟩, fun hown hin hnone ⟨q, hq, hsteps⟩ => ⟨_, hexec, ?_⟩⟩
    · obtain ⟨hmem, hwaits, hbegins⟩ := foremanStepEnd_unbegun (d := d) hon hmask hunit hfree honline hports hown hin
      exact ⟨hmem, fun hlacks => congrArg (fun e => ({ s with dev := e } : State)) (hwaits hlacks), hbegins⟩
    · exact foremanStepEnd_counts (d := d) hon hmask hunit hfree honline hports hown hin hnone
        (Device.lastDone_of_lt (d := d) hq hsteps)

end Sys2Proof.Machine

/-!
PROOF. Writes of the copy engine (O42): what a coherent write leaves of the newest bytes, and the parts of what it has written.
-/

namespace Sys2Proof.Machine

/-! ### Coherent writes (R288) -/

/-- Bytes written coherently: they are the newest of their range, every other byte keeps its newest value, and no host cache holds a
line of the range. -/
structure Device.Wrote (d e : Device) (a : Nat) (bs : List Byte) : Prop where
  off : e.offStores = d.offStores
  byte : ∀ x, e.coByte x = if a ≤ x ∧ x < a + bs.length then bs.getD (x - a) 0 else d.coByte x
  cache : ∀ l, tget e.hostCache l = if l ∈ lineNums a bs.length then none else tget d.hostCache l

/-- A coherent write on a device with another's memory and host caches. -/
theorem Device.wrote_coWrite {d e : Device} (hoff : e.offStores = d.offStores) (hbytes : d.SameBytes e) (a : Nat) (bs : List Byte) :
    d.Wrote (e.coWrite a bs) a bs := by
  have hsame := hbytes.dropLines a bs.length
  obtain ⟨hbyte, hline⟩ := d.dropLines_bytes a bs.length
  have hcache : ∀ l, tget (e.coWrite a bs).hostCache l = if l ∈ lineNums a bs.length then none else tget d.hostCache l := fun l =>
    (congrArg (tget · l) hsame.cache).trans (hline l)
  have hmem : (e.coWrite a bs).mem = memWrite (d.dropLines a bs.length).mem a bs := congrArg (memWrite · a bs) hsame.mem
  refine ⟨(e.offStores_coWrite a bs).trans hoff, fun x => ?_, hcache⟩
  by_cases hx : a ≤ x ∧ x < a + bs.length
  · obtain ⟨i, rfl⟩ := Nat.exists_eq_add_of_le hx.1
    have hi : i < bs.length := by omega
    rw [Device.coByte_of_none _ (by rw [hcache, if_pos (div_mem_lineNums hx.1 hx.2)]), hmem, memByte_memWrite_in _ _ _ i hi,
      if_pos hx, Nat.add_sub_cancel_left, List.getD_eq_getElem _ _ hi]
  · have hout : memByte (e.coWrite a bs).mem x = memByte (d.dropLines a bs.length).mem x := by
      rw [hmem, memByte_memWrite_out _ _ _ _ (by omega)]
    rw [if_neg hx]
    by_cases hl : x / 64 ∈ lineNums a bs.length
    · rw [Device.coByte_of_none _ (by rw [hcache, if_pos hl]), hout, hbyte, if_pos hl]
    · exact Device.coByte_congr (by rw [hcache, if_neg hl]) (by rw [hout, hbyte, if_neg hl])

/-- A write of a ring to no link, without a log in force. -/
theorem Device.ringWrite_eq {d : Device} {k : RingRef} {a : Nat} (bs : List Byte) (h : d.isOutbound a = false)
    (hl : ∀ t r, k = .ring t r → (d.ten t).log = none) : d.ringWrite k a bs = (d.charge 28 a bs.length true).coWrite a bs := by
  have hlog : d.ringLog k a bs.length = d := by
    cases k with
    | admin => rfl
    | ring t r => exact d.logWrite_of_none (hl t r rfl) _ _
  unfold Device.isOutbound at h
  unfold Device.ringWrite
  rw [hlog]
  dsimp only
  split
  · next hr => simp [hr] at h
  · rfl

theorem Device.wrote_ringWrite {d : Device} {k : RingRef} {a : Nat} (bs : List Byte) (h : d.isOutbound a = false)
    (hl : ∀ t r, k = .ring t r → (d.ten t).log = none) : d.Wrote (d.ringWrite k a bs) a bs := by
  rw [Device.ringWrite_eq bs h hl]
  exact Device.wrote_coWrite (d.offStores_charge _ _ _ _) ⟨d.charge_mem _ _ _ _, d.charge_hostCache _ _ _ _⟩ a bs

@[simp] theorem Device.coRead_length (d : Device) (a n : Nat) : (d.coRead a n).length = n := by simp [Device.coRead_eq_map]

/-- A part of what has been written reads back coherently. -/
theorem Device.Wrote.coRead_part {d e : Device} {a b n : Nat} {bs : List Byte} (h : d.Wrote e a bs) (p q r : List Byte)
    (hbs : bs = p ++ q ++ r) (hb : b = a + p.length) (hn : n = q.length) : e.coRead b n = q := by
  subst hbs hb hn
  rw [Device.coRead_eq_map]
  refine List.ext_getElem (by simp) fun i hi hi' => ?_
  have hin : a ≤ a + p.length + i ∧ a + p.length + i < a + (p ++ q ++ r).length := by
    simp only [List.length_append]
    omega
  have hoff : a + p.length + i - a = p.length + i := by omega
  rw [List.getElem_map, List.getElem_range, h.byte, if_pos hin, hoff]
  simp [List.getD_eq_getElem?_getD, List.getElem?_append, hi']

/-! ### Writes within a range -/

/-- A range that no host cache holds a line of. -/
def Device.Uncached (d : Device) (a n : Nat) : Prop := ∀ l ∈ lineNums a n, tget d.hostCache l = none

/-- Its newest bytes are memory's. -/
theorem Device.Uncached.rd {d : Device} {a n : Nat} (h : d.Uncached a n) : d.rd a n = d.coRead a n := by
  rw [Device.rd, memRead_eq_map, Device.coRead_eq_map]
  refine List.map_congr_left fun i hi => ?_
  have hi' := List.mem_range.1 hi
  rw [Device.coByte_of_none _ (h _ (div_mem_lineNums (by omega) (by omega)))]

/-- What writes within a range leave: all but the stores, the newest value of every byte outside the range, and what no host cache
held. -/
structure Device.WroteWithin (d e : Device) (lo hi : Nat) : Prop where
  off : e.offStores = d.offStores
  byte : ∀ x, x < lo ∨ hi ≤ x → e.coByte x = d.coByte x
  cache : ∀ l, tget d.hostCache l = none → tget e.hostCache l = none

theorem Device.Wrote.within {d e : Device} {a lo hi : Nat} {bs : List Byte} (h : d.Wrote e a bs) (hlo : lo ≤ a)
    (hhi : a + bs.length ≤ hi) : d.WroteWithin e lo hi := by
  refine ⟨h.off, fun x hx => (h.byte x).trans (if_neg (by omega)), fun l hl => (h.cache l).trans ?_⟩
  rw [hl, ite_self]

/-- What has been written is in no host cache. -/
theorem Device.Wrote.uncached {d e : Device} {a b n : Nat} {bs : List Byte} (h : d.Wrote e a bs) (hb : a ≤ b)
    (hn : b + n ≤ a + bs.length) : e.Uncached b n := fun l hl => by
  refine (h.cache l).trans (if_pos ?_)
  rw [mem_lineNums] at hl ⊢
  omega

namespace Device.WroteWithin

variable {d e f : Device} {lo hi a n : Nat}

theorem trans (h : d.WroteWithin e lo hi) (h' : e.WroteWithin f lo hi) : d.WroteWithin f lo hi :=
  ⟨h'.off.trans h.off, fun x hx => (h'.byte x hx).trans (h.byte x hx), fun l hl => h'.cache l (h.cache l hl)⟩

theorem mono (h : d.WroteWithin e lo hi) {lo' hi' : Nat} (hlo : lo' ≤ lo) (hhi : hi ≤ hi') : d.WroteWithin e lo' hi' :=
  ⟨h.off, fun x hx => h.byte x (by omega), h.cache⟩

theorem coRead (h : d.WroteWithin e lo hi) (ha : a + n ≤ lo ∨ hi ≤ a) : e.coRead a n = d.coRead a n := by
  rw [Device.coRead_eq_map, Device.coRead_eq_map]
  refine List.map_congr_left fun i hi' => h.byte _ ?_
  have := List.mem_range.1 hi'
  omega

theorem uncached (h : d.WroteWithin e lo hi) (hu : d.Uncached a n) : e.Uncached a n := fun l hl => h.cache l (hu l hl)

/-- What a ring may write, and which addresses are links, stay. -/
theorem isOutbound (h : d.WroteWithin e lo hi) (x : Nat) : e.isOutbound x = d.isOutbound x :=
  Device.eq_of_offStores (·.isOutbound x) (fun _ => rfl) h.off

theorem log (h : d.WroteWithin e lo hi) (t : Nat) : (e.ten t).log = (d.ten t).log :=
  Device.eq_of_offStores (fun y => (y.ten t).log) (fun _ => rfl) h.off

end Device.WroteWithin

/-- Bytes that stand in memory as their newest values. -/
structure Device.Holds (d : Device) (a : Nat) (bs : List Byte) : Prop where
  uncached : d.Uncached a bs.length
  newest : d.coRead a bs.length = bs

theorem Device.Holds.rd {d : Device} {a n : Nat} {bs : List Byte} (h : d.Holds a bs) (hn : bs.length = n) : d.rd a n = bs :=
  hn ▸ h.uncached.rd.trans h.newest

/-- A part of what has just been written stands so, whatever is written elsewhere. -/
theorem Device.Wrote.holds {d e : Device} {a b : Nat} {bs : List Byte} (h : d.Wrote e a bs) (p q r : List Byte)
    (hbs : bs = p ++ q ++ r) (hb : b = a + p.length) : e.Holds b q :=
  ⟨h.uncached (by omega) (by rw [hbs, hb]; simp only [List.length_append]; omega), h.coRead_part p q r hbs hb rfl⟩

theorem Device.WroteWithin.holds {d e : Device} {lo hi a : Nat} {bs : List Byte} (h : d.WroteWithin e lo hi) (hb : d.Holds a bs)
    (ha : a + bs.length ≤ lo ∨ hi ≤ a) : e.Holds a bs :=
  ⟨h.uncached hb.uncached, (h.coRead ha).trans hb.newest⟩

end Sys2Proof.Machine

/-!
PROOF. JOIN and LEAVE (O42): the active list of a serving table and its slots, and what each command makes of them.
-/

namespace Sys2Proof.Machine

/-! ### The active list (R227) -/

theorem natOfBytes_lt (bs : List Byte) : natOfBytes bs < 256 ^ bs.length := by
  induction bs with
  | nil => simp [natOfBytes]
  | cons b bs ih =>
    have := b.isLt
    rw [natOfBytes, List.length_cons, Nat.pow_succ]
    omega

/-- A list that a serving table has room for, of numbers that fit its entries. -/
def activeFits (l : List Nat) : Prop := l.length ≤ 256 ∧ ∀ x ∈ l, x < 65536

theorem Device.activeSlots_fits (d : Device) (a : Nat) : activeFits (d.activeSlots a) := by
  refine ⟨by simp [Device.activeSlots], fun x hx => ?_⟩
  obtain ⟨i, -, rfl⟩ := List.mem_map.1 hx
  have h := natOfBytes_lt (d.coRead (a + 0x40 + 2 * i) 2)
  rwa [Device.coRead_length] at h

theorem addMember_length_le (l : List Nat) (k : Nat) : (addMember l k).length ≤ l.length + 1 := by
  induction l with
  | nil => simp [addMember]
  | cons j l ih =>
    unfold addMember
    split
    · simp
    · split
      · simp
      · simpa using ih

theorem activeFits.addMember {l : List Nat} (h : activeFits l) {k : Nat} (hl : l.length < 256) (hk : k < 65536) :
    activeFits (addMember l k) := by
  refine ⟨(addMember_length_le l k).trans hl, fun x hx => ?_⟩
  obtain rfl | hx := (mem_addMember l k x).1 hx
  · exact hk
  · exact h.2 x hx

theorem activeFits.dropMember {l : List Nat} (h : activeFits l) (k : Nat) : activeFits (dropMember l k) :=
  ⟨(List.length_filter_le _ _).trans h.1, fun x hx => h.2 x ((mem_dropMember l k x).1 hx).1⟩

theorem Device.ctxSlots_le (d : Device) (c : Nat) : d.ctxSlots c ≤ 256 :=
  Nat.succ_le_of_lt (Nat.mod_lt _ (by decide))

/-- A slot's state is the newest value of its first byte. -/
theorem Device.slotState_eq (d : Device) (a i : Nat) : d.slotState a i = d.coByte (a + 0x240 + 32 * i) := by
  simp [Device.slotState, Device.coRead_eq_map]

/-- The active list looks at the first 0x240 bytes of a table alone. -/
theorem Device.WroteWithin.activeSlots {d e : Device} {lo hi a : Nat} (h : d.WroteWithin e lo hi) (ha : a + 0x240 ≤ lo) :
    e.activeSlots a = d.activeSlots a := by
  unfold Device.activeSlots
  rw [h.coRead (.inl (by omega))]
  refine List.map_congr_left fun i hi' => ?_
  have := List.mem_range.1 hi'
  rw [h.coRead (.inl (by omega))]

section
variable {d : Device} {k : RingRef} {a : Nat} {l : List Nat} (hcount : d.isOutbound a = false) (hlist : d.isOutbound (a + 0x40) = false)
  (hlog : ∀ t r, k = .ring t r → (d.ten t).log = none) (hl : activeFits l)
include hcount hlist hlog hl

/-- An active list written is within its table's first 0x240 bytes, and reads back. -/
theorem Device.writeActive_spec :
    d.WroteWithin (d.writeActive k a l) a (a + 0x240) ∧ (d.writeActive k a l).activeSlots a = l := by
  obtain ⟨hlen, hfit⟩ := hl
  have hflat := flatMap_bytesOfNat_length 2 l
  have hwrite := Device.wrote_ringWrite (bytesOfNat 4 l.length) hcount hlog
  have hhead := hwrite.within (hi := a + 0x40) (Nat.le_refl a) (by simp)
  have hwrite' := Device.wrote_ringWrite ((l.flatMap (bytesOfNat 2)) ++ List.replicate (512 - 2 * l.length) 0xFF)
    ((hhead.isOutbound _).trans hlist) fun t r hk => (hhead.log t).trans (hlog t r hk)
  have htail := hwrite'.within (lo := a + 0x40) (hi := a + 0x240) (Nat.le_refl _) (by simp [hflat]; omega)
  refine ⟨(hwrite.within (Nat.le_refl a) (by simp)).trans (hwrite'.within (by omega) (by simp [hflat]; omega)), ?_⟩
  change Device.activeSlots (Device.ringWrite _ _ _ _) a = l
  have hnum : min 256 (natOfBytes (bytesOfNat 4 l.length)) = l.length := by
    rw [natOfBytes_bytesOfNat 4 _ (by omega)]
    omega
  have hread : (d.ringWrite k a (bytesOfNat 4 l.length)).coRead a 4 = bytesOfNat 4 l.length :=
    hwrite.coRead_part [] _ [] (by simp) rfl (bytesOfNat_length 4 _).symm
  rw [Device.activeSlots, htail.coRead (.inl (by omega)), hread, hnum]
  refine List.ext_getElem (by simp) fun i hi hi' => ?_
  have hparts : l = l.take i ++ l[i] :: l.drop (i + 1) := by simp
  have hbytes : (l.flatMap (bytesOfNat 2)) ++ List.replicate (512 - 2 * l.length) 0xFF = (l.take i).flatMap (bytesOfNat 2) ++
      bytesOfNat 2 l[i] ++ ((l.drop (i + 1)).flatMap (bytesOfNat 2) ++ List.replicate (512 - 2 * l.length) 0xFF) := by
    conv_lhs => rw [hparts, List.flatMap_append, List.flatMap_cons]
    simp
  have hat : a + 0x40 + 2 * i = a + 0x40 + ((l.take i).flatMap (bytesOfNat 2)).length := by
    rw [flatMap_bytesOfNat_length, List.length_take_of_le (Nat.le_of_lt hi')]
    omega
  rw [List.getElem_map, List.getElem_range,
    hwrite'.coRead_part _ _ _ hbytes hat (bytesOfNat_length 2 _).symm, natOfBytes_bytesOfNat 2 _ (hfit _ (List.getElem_mem hi'))]

end

/-! ### A serving command on its table (R227 to R230, R313) -/

/-- A head that is taken up has its command's effect. -/
theorem actLive_onHead {s : State} {k : RingRef} {op : Nat} {x : QDesc} (hx : s.dev.takes k op x) (f : Device → QDesc → Device) :
    actLive s (fun d => d.onHead k op f) = .next { s with dev := f s.dev.begun x } := by
  rw [actLive_eq _ hx.1, Device.onHead_takes (Device.begun_takes hx)]

section
variable {d : Device} {t : Fin 64} {j : Fin 17} {c : Nat} (hctx : (d.ring (.ring t j)).ctx = some c)
include hctx

theorem Device.onTable_noTable (ecc : Ecc) (f : Device → Nat → Nat → Device) (h : d.ctxServing c = false ∨ d.servingBase c = none) :
    d.onTable (.ring t j) ecc f = d.refuse (.ring t j) 0x32 := by
  obtain h | h := h
  · simp only [Device.onTable, Device.ringOwner_eq hctx, h]
  · cases hs : d.ctxServing c <;> simp only [Device.onTable, Device.ringOwner_eq hctx, h, hs]

theorem Device.onTable_table {a : Nat} (ecc : Ecc) (f : Device → Nat → Nat → Device) (hserving : d.ctxServing c = true)
    (hbase : d.servingBase c = some a) : d.onTable (.ring t j) ecc f =
      if d.rangeOff a (0x240 + 32 * d.ctxSlots c) then d.finish (.ring t j) St.unitOffline 0 0
      else if d.portHolds 28 a then d
      else (d.charge 28 a 0x240 false).descEcc (.ring t j) a ecc fun d => f d c a := by
  simp only [Device.onTable, Device.ringOwner_eq hctx, hserving, hbase]

/-- A table in order is read through port 28, and the command does its work. -/
theorem Device.onTable_open {a : Nat} (f : Device → Nat → Nat → Device) (hserving : d.ctxServing c = true)
    (hbase : d.servingBase c = some a) (hon : d.rangeOff a (0x240 + 32 * d.ctxSlots c) = false) (hport : d.portHolds 28 a = false) :
    d.onTable (.ring t j) .clean f = f (d.charge 28 a 0x240 false) c a := by
  rw [Device.onTable_table hctx _ _ hserving hbase, if_neg (Bool.eq_false_iff.1 hon), if_neg (Bool.eq_false_iff.1 hport),
    Device.descEcc_clean]

end

/-- The device with a slot's entry marked in use, with the tag and the request of a descriptor. -/
def Device.slotMarked (d : Device) (k : RingRef) (x : QDesc) (e : Nat) : Device :=
  (d.ringWrite k e [1, 0]).ringWrite k (e + 4) (slice x.raw 0x30 4 ++ slice x.raw 0x20 16)

/-- The same with the step count of the table, the step at which the slot joins. -/
def Device.slotJoined (d : Device) (k : RingRef) (x : QDesc) (a e : Nat) : Device :=
  (d.slotMarked k x e).ringWrite k (e + 0x18) ((d.slotMarked k x e).coRead (a + 8) 8)

/-- What JOIN does on its context's table. -/
def joinAt (k : RingRef) (x : QDesc) (d : Device) (c a : Nat) : Device :=
  match (List.range (d.ctxSlots c)).find? fun i => d.slotState a i = 0 with
  | none => d.refuse k 0x30
  | some i =>
    if d.ctxSlots c ≤ (d.activeSlots a).length then d.refuse k 0x30
    else ((d.slotJoined k x a (a + 0x240 + 32 * i)).writeActive k a (addMember (d.activeSlots a) i)).finish k St.ok 0 i

/-- What LEAVE does on its context's table. -/
def leaveAt (k : RingRef) (x : QDesc) (d : Device) (c a : Nat) : Device :=
  let i := x.field 0x20 2
  if d.ctxSlots c ≤ i || d.slotState a i = 0 then d.refuse k 0x31
  else
    let g := d.ringWrite k (a + 0x240 + 32 * i) [0]
    (g.writeActive k a (dropMember (g.activeSlots a) i)).finish k St.ok 0 0

theorem exec_join {s : State} {t : Fin 64} {j : Fin 17} {x : QDesc} (hx : s.dev.takes (.ring t j) 4 x) (ecc : Ecc) :
    exec (.join t j ecc) s =
      .next { s with dev := s.dev.begun.onTable (.ring t j) ecc (joinAt (.ring t j) x) } :=
  actLive_onHead hx fun d x => joinTaken d (.ring t j) x ecc

theorem exec_leave {s : State} {t : Fin 64} {j : Fin 17} {x : QDesc} (hx : s.dev.takes (.ring t j) 5 x) (ecc : Ecc) :
    exec (.leave t j ecc) s =
      .next { s with dev := s.dev.begun.onTable (.ring t j) ecc (leaveAt (.ring t j) x) } :=
  actLive_onHead hx fun d x => leaveTaken d (.ring t j) x ecc

/-! ### A slot joined (R228) -/

/-- A table that a ring may write: no byte of it is at a link, and no log of the ring's tenancy is in force. -/
structure Device.TableOpen (d : Device) (k : RingRef) (a slots : Nat) : Prop where
  here : ∀ b, a ≤ b → b < a + 0x240 + 32 * slots → d.isOutbound b = false
  log : ∀ t r, k = .ring t r → (d.ten t).log = none

theorem Device.WroteWithin.tableOpen {d e : Device} {lo hi : Nat} {k : RingRef} {a slots : Nat} (h : d.WroteWithin e lo hi)
    (ht : d.TableOpen k a slots) : e.TableOpen k a slots :=
  ⟨fun b hb hb' => (h.isOutbound b).trans (ht.here b hb hb'), fun t r hk => (h.log t).trans (ht.log t r hk)⟩

section
variable {d : Device} {k : RingRef} {x : QDesc} {a slots e : Nat} (ht : d.TableOpen k a slots) (he : a + 0x240 ≤ e)
  (he' : e + 32 ≤ a + 0x240 + 32 * slots)
include ht he he'

theorem Device.slotMarked_spec :
    d.WroteWithin (d.slotMarked k x e) e (e + 0x18) ∧ (d.slotMarked k x e).Holds e [1] ∧
      (d.slotMarked k x e).Holds (e + 4) (slice x.raw 0x30 4) ∧ (d.slotMarked k x e).Holds (e + 8) (slice x.raw 0x20 16) := by
  have hstate := Device.wrote_ringWrite (a := e) [1, 0] (ht.here e (by omega) (by omega)) ht.log
  have ht' := (hstate.within (Nat.le_refl e) (Nat.le_refl _)).tableOpen ht
  have hbody := Device.wrote_ringWrite (a := e + 4) (slice x.raw 0x30 4 ++ slice x.raw 0x20 16)
    (ht'.here _ (by omega) (by omega)) ht'.log
  refine ⟨(hstate.within (by omega) (by simp)).trans (hbody.within (by omega) (by simp)), ?_, ?_, ?_⟩
  · exact (hbody.within (Nat.le_refl _) (Nat.le_refl _)).holds (hstate.holds [] [1] [0] rfl rfl) (.inl (by simp))
  · exact hbody.holds [] _ _ rfl rfl
  · exact hbody.holds (slice x.raw 0x30 4) _ [] (by simp) (by simp)

/-- The entry of a slot that has joined. -/
theorem Device.slotJoined_spec :
    d.WroteWithin (d.slotJoined k x a e) e (e + 32) ∧ (d.slotJoined k x a e).Holds e [1] ∧
      (d.slotJoined k x a e).Holds (e + 4) (slice x.raw 0x30 4) ∧ (d.slotJoined k x a e).Holds (e + 8) (slice x.raw 0x20 16) ∧
      (d.slotJoined k x a e).Holds (e + 0x18) (d.coRead (a + 8) 8) := by
  obtain ⟨hmarked, hstate, htag, hrequest⟩ := Device.slotMarked_spec (x := x) ht he he'
  have ht' := hmarked.tableOpen ht
  have hstep := Device.wrote_ringWrite (a := e + 0x18) ((d.slotMarked k x e).coRead (a + 8) 8)
    (ht'.here _ (by omega) (by omega)) ht'.log
  have hin := hstep.within (hi := e + 32) (Nat.le_refl _) (by simp)
  refine ⟨(hmarked.mono (Nat.le_refl e) (by omega)).trans (hin.mono (by omega) (Nat.le_refl _)), hin.holds hstate (.inl (by simp)),
    hin.holds htag (.inl (by simp)), hin.holds hrequest (.inl (by simp)), ?_⟩
  rw [← hmarked.coRead (.inl (by omega))]
  exact hstep.holds [] _ [] (by simp) rfl

end

/-! ### A table changed (R229, R230) -/

/-- What a JOIN or a LEAVE leaves of a table and of the bytes beside it, but for its own slot. -/
structure Device.TableChanged (d e : Device) (a slots slot : Nat) (l : List Nat) : Prop where
  off : e.offStores = d.offStores
  active : e.activeSlots a = l
  others : ∀ n < slots, n ≠ slot → e.slotState a n = d.slotState a n
  outside : ∀ b, b < a ∨ a + 0x240 + 32 * slots ≤ b → e.coRead b 1 = d.coRead b 1

/-- The entry of a slot written, and then the active list. -/
theorem Device.writeActive_changes {d e : Device} {k : RingRef} {a slots slot : Nat} {l : List Nat} (ht : d.TableOpen k a slots)
    (hslot : slot < slots) (hentry : d.WroteWithin e (a + 0x240 + 32 * slot) (a + 0x240 + 32 * slot + 32)) (hl : activeFits l) :
    e.WroteWithin (e.writeActive k a l) a (a + 0x240) ∧ d.TableChanged (e.writeActive k a l) a slots slot l := by
  have ht' := hentry.tableOpen ht
  obtain ⟨hlist, hactive⟩ := Device.writeActive_spec (ht'.here a (by omega) (by omega)) (ht'.here _ (by omega) (by omega)) ht'.log hl
  refine ⟨hlist, hlist.off.trans hentry.off, hactive, fun n hn hne => ?_, fun b hb => ?_⟩
  · rw [Device.slotState_eq, Device.slotState_eq, hlist.byte _ (by omega), hentry.byte _ (by omega)]
  · rw [hlist.coRead (by omega), hentry.coRead (by omega)]

/-! ### The cases of JOIN and of LEAVE (R229, R230) -/

/-- What JOIN does where every slot is in use, or the active list is full. -/
theorem joinAt_full {k : RingRef} {x : QDesc} {d : Device} {c a : Nat}
    (h : (∀ n < d.ctxSlots c, d.slotState a n ≠ 0) ∨ d.ctxSlots c ≤ (d.activeSlots a).length) :
    joinAt k x d c a = d.refuse k 0x30 := by
  unfold joinAt
  split
  · rfl
  · next i hi =>
    have hfree := List.find?_some hi
    have hlt := List.mem_range.1 (List.mem_of_find?_eq_some hi)
    obtain h | h := h
    · exact absurd (of_decide_eq_true hfree) (h i hlt)
    · exact if_pos h

/-- What it does where a slot is free. -/
theorem joinAt_free {k : RingRef} {x : QDesc} {d : Device} {c a i : Nat} (hi : i < d.ctxSlots c) (hfree : d.slotState a i = 0)
    (hlow : ∀ n < i, d.slotState a n ≠ 0) (hroom : (d.activeSlots a).length < d.ctxSlots c) : joinAt k x d c a =
      ((d.slotJoined k x a (a + 0x240 + 32 * i)).writeActive k a (addMember (d.activeSlots a) i)).finish k St.ok 0 i := by
  have hfind : (List.range (d.ctxSlots c)).find? (fun i => decide (d.slotState a i = 0)) = some i := by
    rw [List.find?_range_eq_some]
    simpa [hfree, hi] using hlow
  simp only [joinAt, hfind]
  rw [if_neg (by omega)]

section
variable {k : RingRef} {x : QDesc} {d : Device} {c a i : Nat} (hfield : x.field 0x20 2 = i)
include hfield

theorem leaveAt_free (h : d.ctxSlots c ≤ i ∨ d.slotState a i = 0) : leaveAt k x d c a = d.refuse k 0x31 := by
  unfold leaveAt
  rw [hfield, if_pos (by simpa using h)]

theorem leaveAt_used (hi : i < d.ctxSlots c) (hused : d.slotState a i ≠ 0) : leaveAt k x d c a =
      let g := d.ringWrite k (a + 0x240 + 32 * i) [0]
      (g.writeActive k a (dropMember (g.activeSlots a) i)).finish k St.ok 0 0 := by
  unfold leaveAt
  rw [hfield, if_neg (by simpa [hi] using hused)]

end

/-! ### What a read of a table leaves -/

theorem Device.begun_ctxSlots (d : Device) (c : Nat) : d.begun.ctxSlots c = d.ctxSlots c := rfl

/-- A device as it stands when a command has read a table through port 28: the newest bytes and all but the stores are as they were. -/
structure Device.TableRead (d g : Device) : Prop where
  off : g.offStores = d.begun.offStores
  mem : g.mem = d.mem
  newest : ∀ a n, g.coRead a n = d.coRead a n

theorem Device.tableRead (d : Device) (a n : Nat) : d.TableRead (d.begun.charge 28 a n false) :=
  ⟨d.begun.offStores_charge 28 a n false, d.begun.charge_mem 28 a n false,
    Device.SameBytes.coRead ⟨d.begun.charge_mem 28 a n false, d.begun.charge_hostCache 28 a n false⟩⟩

namespace Device.TableRead

variable {d g : Device} {k : RingRef} {c : Nat} (h : d.TableRead g)
include h

theorem slotState (a i : Nat) : g.slotState a i = d.slotState a i := by rw [Device.slotState, h.newest, Device.slotState]

theorem activeSlots (a : Nat) : g.activeSlots a = d.activeSlots a := by simp only [Device.activeSlots, h.newest]

theorem ctxSlots (c : Nat) : g.ctxSlots c = d.ctxSlots c :=
  (Device.eq_of_offStores (·.ctxSlots c) (fun _ => rfl) h.off).trans (d.begun_ctxSlots c)

theorem tableOpen {a slots : Nat} (hopen : d.entryOpen k) (hhere : ∀ b, a ≤ b → b < a + 0x240 + 32 * slots → d.isOutbound b = false) :
    g.TableOpen k a slots := by
  obtain ⟨-, -, -, -, hlog⟩ := hopen
  exact ⟨fun b hb hb' => (Device.eq_of_offStores (·.isOutbound b) (fun _ => rfl) h.off).trans (hhere b hb hb'),
    fun t r hk => (Device.eq_of_offStores (fun y => (y.ten t).log) (fun _ => rfl) h.off).trans (hlog t r hk)⟩

end Device.TableRead

/-! ### JOIN and LEAVE on their table -/

section
variable {s : State} {t : Fin 64} {j : Fin 17} {c : Nat} {x : QDesc}

/-- A JOIN or a LEAVE at the head of its ring does some work on its context's table. -/
theorem exec_serving {op : Nat} {i : Instr} (hx : s.dev.takes (.ring t j) op x)
    (hi : op = 4 ∧ i = .join t j .clean ∨ op = 5 ∧ i = .leave t j .clean) :
    op ≠ 3 ∧ ∃ f, exec i s = .next { s with dev := s.dev.begun.onTable (.ring t j) .clean f } := by
  obtain ⟨rfl, rfl⟩ | ⟨rfl, rfl⟩ := hi
  · exact ⟨by decide, _, exec_join hx .clean⟩
  · exact ⟨by decide, _, exec_leave hx .clean⟩

variable {g : Device} (hread : s.dev.TableRead g) (hopen : s.dev.entryOpen (.ring t j)) {rest : List QDesc}
  (hq : (s.dev.ring (.ring t j)).queued = x :: rest)
include hread hopen hq

/-- A command refused once it has read its table. -/
theorem serving_refused {i : Instr} (hop : x.opcode ≠ 3) (detail : Byte)
    (hexec : exec i s = .next { s with dev := g.refuse (.ring t j) detail }) :
    ∃ (m : Device) (n : State), exec i s = .next n ∧ n.dev = m.doneWith (.ring t j) x St.refused detail 0 ∧
      m.mem = s.dev.mem ∧ m.ctxs = s.dev.ctxs ∧ m.ring (.ring t j) = s.dev.ring (.ring t j) ∧ m.regs = s.dev.regs := by
  obtain ⟨hring, hctxs, hregs, hopen'⟩ := Device.kept_of_offStores (.ring t j) hread.off
  exact ⟨g, _, hexec, Device.refuse_eq detail (hopen' hopen) (by rw [hring]; exact hq) hop, hread.mem, hctxs, hring, hregs⟩

/-- A command completed once it has changed its table. -/
theorem serving_changed {i : Instr} {m : Device} {a slots slot value : Nat} {l : List Nat} (hm : g.TableChanged m a slots slot l)
    (hexec : exec i s = .next { s with dev := m.finish (.ring t j) St.ok 0 value }) :
    ∃ n : State, exec i s = .next n ∧ n.dev = m.doneWith (.ring t j) x St.ok 0 value ∧ m.activeSlots a = l ∧
      m.regs = s.dev.regs ∧ m.ctxs = s.dev.ctxs ∧ m.ring (.ring t j) = s.dev.ring (.ring t j) ∧
      (∀ n < slots, n ≠ slot → m.slotState a n = s.dev.slotState a n) ∧
      ∀ b, b < a ∨ a + 0x240 + 32 * slots ≤ b → m.coRead b 1 = s.dev.coRead b 1 := by
  obtain ⟨hring, hctxs, hregs, hopen'⟩ := Device.kept_of_offStores (.ring t j) (hm.off.trans hread.off)
  exact ⟨_, hexec, Device.finish_eq St.ok 0 value (hopen' hopen) (by rw [hring]; exact hq), hm.active, hregs, hctxs, hring,
    fun n hn hne => (hm.others n hn hne).trans (hread.slotState a n), fun b hb => (hm.outside b hb).trans (hread.newest b 1)⟩

end

/-! ### The obligation -/

/-- Settles O42: each command comes to its table, or waits or ends before it; and on the table it is refused, or writes the entry of its
slot and the active list. -/
theorem servingSlots : Obligations.ServingSlots := by
  intro t j c s k d slots hopen hctx
  constructor
  · intro x op i hx hi
    obtain ⟨rest, hq, hop, -⟩ := Device.takes_queued hx
    obtain ⟨hop', f, hexec⟩ := exec_serving hx hi
    refine ⟨fun hnone => ?_, fun a hserving hbase => ⟨fun hoff => ?_, fun hon hport => ?_⟩⟩
    · rw [hexec, Device.onTable_noTable (d := d) hctx _ _ hnone, Device.refuse_eq (d := d) (k := k) 0x32 hopen hq (by rwa [hop])]
    · have hoff' : d.rangeOff a (0x240 + 32 * d.ctxSlots c) = true := hoff
      rw [hexec, Device.onTable_table (d := d) hctx _ _ hserving hbase, if_pos hoff',
        Device.finish_eq (d := d) (k := k) St.unitOffline 0 0 hopen hq]
    · have hon' : d.rangeOff a (0x240 + 32 * d.ctxSlots c) = false := hon
      have hport' : d.portHolds 28 a = true := (s.dev.begun_portHolds 28 a).trans hport
      rw [hexec, Device.onTable_table (d := d) hctx _ _ hserving hbase, if_neg (Bool.eq_false_iff.1 hon'), if_pos hport']
  · intro a hserving hbase hon hport hhere refused changed
    let g := d.charge 28 a 0x240 false
    have htable : ∀ f, d.onTable k .clean f = f g c a := fun f =>
      Device.onTable_open (d := d) hctx f hserving hbase hon ((s.dev.begun_portHolds 28 a).trans hport)
    have hread : s.dev.TableRead g := s.dev.tableRead a 0x240
    have hslots : g.ctxSlots c = slots := hread.ctxSlots c
    have hmax : slots ≤ 256 := s.dev.ctxSlots_le c
    have hwritable : g.TableOpen k a slots := hread.tableOpen hopen hhere
    have hfits := g.activeSlots_fits a
    simp only [← hread.slotState, ← hread.activeSlots, ← hread.newest]
    refine ⟨fun x hx => ?_, fun x hx => ?_⟩
    · obtain ⟨rest, hq, hop, -⟩ := Device.takes_queued hx
      have hexec := exec_join hx .clean
      rw [htable] at hexec
      refine ⟨fun i hi hfree hlow hroom => ?_, fun hfull => ?_⟩
      · rw [joinAt_free (by rwa [hslots]) hfree hlow (by rwa [hslots])] at hexec
        obtain ⟨hentry, hstate, htag, hrequest, hstep⟩ :=
          Device.slotJoined_spec (x := x) (e := a + 0x240 + 32 * i) hwritable (by omega) (by omega)
        obtain ⟨hlist, hm⟩ := Device.writeActive_changes hwritable hi hentry (hfits.addMember (k := i) (by omega) (by omega))
        obtain ⟨n, hn, hdev, hactive, hregs, hctxs, hring, hothers, hout⟩ := serving_changed hread hopen hq hm hexec
        exact ⟨_, n, hn, hdev, hactive, hregs, hctxs, hring, hothers, hout,
          congrArg (·.headD 0) (hlist.holds hstate (.inr (by omega))).newest,
          (hlist.holds hrequest (.inr (by omega))).rd (slice_length ..), (hlist.holds htag (.inr (by omega))).rd (slice_length ..),
          (hlist.holds hstep (.inr (by omega))).rd (Device.coRead_length ..)⟩
      · rw [joinAt_full (by rwa [hslots])] at hexec
        exact serving_refused hread hopen hq (by rw [hop]; decide) 0x30 hexec
    · obtain ⟨rest, hq, hop, -⟩ := Device.takes_queued hx
      generalize hfield : x.field 0x20 2 = i
      have hexec := exec_leave hx .clean
      rw [htable] at hexec
      refine ⟨fun hi hused => ?_, fun hfree => ?_⟩
      · rw [leaveAt_used hfield (by rwa [hslots]) hused] at hexec
        have hwrite := Device.wrote_ringWrite (k := k) [0] (hwritable.here (a + 0x240 + 32 * i) (by omega) (by omega)) hwritable.log
        have hentry := hwrite.within (hi := a + 0x240 + 32 * i + 32) (Nat.le_refl _) (by simp)
        rw [← hentry.activeSlots (a := a) (by omega)]
        obtain ⟨hlist, hm⟩ := Device.writeActive_changes hwritable hi hentry ((Device.activeSlots_fits _ a).dropMember i)
        obtain ⟨n, hn, hdev, hactive, hregs, hctxs, hring, hothers, hout⟩ := serving_changed hread hopen hq hm hexec
        exact ⟨_, n, hn, hdev, hactive, hregs, hctxs, hring, hothers, hout,
          congrArg (·.headD 0) (hlist.holds (hwrite.holds [] [0] [] rfl rfl) (.inr (by omega))).newest⟩
      · rw [leaveAt_free hfield (by rwa [hslots])] at hexec
        exact serving_refused hread hopen hq (by rw [hop]; decide) 0x31 hexec

end Sys2Proof.Machine

/-!
PROOF. OPEN, CLOSE, FREEZE and THAW (O44): the context and the ring that OPEN binds, and what each command comes to at the head of the
administrative ring.
-/

namespace Sys2Proof.Machine

/-! ### A ring replaced -/

/-- Replacing a ring leaves every other ring as it was. -/
theorem Device.ring_setRing_ne (d : Device) {k k' : RingRef} (x : Ring) (h : k' ≠ k) : (d.setRing k x).ring k' = d.ring k' := by
  cases k with
  | admin =>
    cases k' with
    | admin => exact absurd rfl h
    | ring t' r' => rfl
  | ring t r =>
    cases k' with
    | admin => rfl
    | ring t' r' =>
      by_cases ht : t' = t
      · subst ht
        have hr : r'.val ≠ r.val := fun hr => h (congrArg _ (Fin.ext hr))
        simp only [Device.ring, Device.setRing, Device.ten_setTen]
        exact tgetD_tputD_ne _ _ _ _ hr
      · simp only [Device.ring, Device.setRing]
        rw [Device.ten_setTen_ne _ _ fun he => ht (Fin.ext he)]

/-- A coherent write into the same memory beside the same host caches makes the same memory. -/
theorem Device.SameBytes.coWrite_mem {d e : Device} (h : d.SameBytes e) (a : Nat) (bs : List Byte) :
    (e.coWrite a bs).mem = (d.coWrite a bs).mem :=
  congrArg (memWrite · a bs) (h.dropLines a bs.length).mem

/-! ### OPEN (R267) -/

/-- The device with a context bound to a ring, and the ring running. -/
def Device.openedOn (d : Device) (c t r w : Nat) : Device := (d.bindCtx c t r w).rerun (ringRefOf t r)

/-- What OPEN leaves of the contexts and the rings, and that the rest of what it needs stands. -/
structure Device.Opened (d e : Device) (c t r w : Nat) : Prop where
  ctx : e.ctx c = { Ctx.closed with st := .opened, tenancy := t, ring := r, history := (d.ctx c).history
                                    servingWindow := if d.ctxServing c then some w else none }
  ctxs : ∀ c' ≠ c, e.ctx c' = d.ctx c'
  ring : e.ring (ringRefOf t r) = { d.ring (ringRefOf t r) with
    ctx := some c, state := .running, sqHead := (d.ring (ringRefOf t r)).sqTail }
  rings : ∀ k' ≠ ringRefOf t r, e.ring k' = d.ring k'
  regs : e.regs = d.regs
  entry : d.entryOpen .admin → e.entryOpen .admin

/-- A tenancy's ring replaced is a change of the tenancies. -/
theorem Device.setRing_tenancies_only (d : Device) (t r : Nat) (x : Ring) :
    ∃ T, d.setRing (ringRefOf t r) x = { d with tenancies := T } := ⟨_, rfl⟩

theorem Device.openedOn_only (d : Device) (c t r w : Nat) :
    ∃ T C O, d.openedOn c t r w = { d with tenancies := T, ctxs := C, outbound := O } := by
  obtain ⟨T, hbind⟩ := d.setRing_tenancies_only t r { d.ring (ringRefOf t r) with ctx := some c }
  unfold Device.openedOn Device.rerun Device.bindCtx
  dsimp only
  rw [hbind]
  obtain ⟨T', hrun⟩ := Device.setRing_tenancies_only _ t r _
  exact ⟨_, _, _, hrun⟩

/-- An entry of the administrative ring can be written whatever the contexts, the tenancies and what the links owe. -/
theorem Device.entryOpen_admin_congr {d : Device} (T : Table Tenancy) (C : Table Ctx) (O : List Outbound) (h : d.entryOpen .admin) :
    Device.entryOpen { d with tenancies := T, ctxs := C, outbound := O } .admin := by
  obtain ⟨hstate, hmem, hok, hon, -⟩ := h
  exact ⟨hstate, hmem, hok, hon, nofun⟩

theorem Device.opened_openedOn (d : Device) (c t r w : Nat) : d.Opened (d.openedOn c t r w) c t r w := by
  let k := ringRefOf t r
  let y : Ctx := { Ctx.closed with st := .opened, tenancy := t, ring := r, history := (d.ctx c).history
                                   servingWindow := if d.ctxServing c then some w else none }
  let e := d.setRing k { d.ring k with ctx := some c }
  have hring : e.ring k = { d.ring k with ctx := some c } := d.ring_setRing k _
  have hopened : (d.openedOn c t r w).ring k = { e.ring k with state := .running, sqHead := (e.ring k).sqTail } :=
    Device.ring_setRing _ k _
  obtain ⟨T, C, O, honly⟩ := d.openedOn_only c t r w
  refine ⟨Device.ctx_setCtx e c y, fun c' hc => Device.ctx_setCtx_ne (d := e) y hc, ?_, fun k' hk => ?_, ?_, fun ho => ?_⟩
  · rw [hopened, hring]
  · exact (Device.ring_setRing_ne _ _ hk).trans (d.ring_setRing_ne _ hk)
  · rw [honly]
  · rw [honly]
    exact Device.entryOpen_admin_congr T C O ho

/-- The tenancy that OPEN names is one of the 64. -/
theorem Device.open_tenancy_lt {d : Device} {x : QDesc} (hx : d.takes .admin 0x87 x) : x.field 0x21 1 < 64 := by
  obtain ⟨rest, -, hop, -⟩ := Device.takes_queued hx
  obtain ⟨-, -, hveto⟩ := hx
  have hop' : fieldAt x.raw 0x18 1 = 0x87 := hop
  have hbody : bodyOk d x.raw = true := by
    unfold Device.headVeto at hveto
    split at hveto
    · cases hveto
    · split at hveto
      · cases hveto
      · split at hveto
        · cases hveto
        · next h => simpa using h
  simp only [bodyOk, hop', Bool.and_eq_true, decide_eq_true_eq] at hbody
  exact Nat.lt_succ_of_le hbody.2.1.1.1

/-- What OPEN leaves stands whatever the stores. -/
theorem Device.Opened.of_offStores {d e f : Device} {c t r w : Nat} (h : d.Opened e c t r w) (hf : f.offStores = e.offStores) :
    d.Opened f c t r w := by
  have hctx : ∀ i, f.ctx i = e.ctx i := fun i => Device.eq_of_offStores (·.ctx i) (fun _ => rfl) hf
  have hring : ∀ k, f.ring k = e.ring k := fun k => Device.eq_of_offStores (·.ring k) (fun _ => rfl) hf
  exact ⟨(hctx c).trans h.ctx, fun c' hc => (hctx c').trans (h.ctxs c' hc), (hring _).trans h.ring,
    fun k' hk => (hring k').trans (h.rings k' hk), (Device.eq_of_offStores Device.regs (fun _ => rfl) hf).trans h.regs,
    fun ho => Device.entryOpen_of_offStores hf (h.entry ho)⟩

section
variable (d : Device) (c t r w : Nat)

theorem Device.sameBytes_openedOn : d.SameBytes (d.openedOn c t r w) := by
  obtain ⟨T, C, O, honly⟩ := d.openedOn_only c t r w
  rw [honly]
  exact ⟨rfl, rfl⟩

theorem Device.inMemory_openedOn (a n : Nat) : (d.openedOn c t r w).inMemory a n = d.inMemory a n := by
  obtain ⟨T, C, O, honly⟩ := d.openedOn_only c t r w
  rw [honly]
  rfl

/-- Binding a ring keeps the log of its tenancy. -/
theorem Device.log_openedOn (ht : t < 64) : ((d.openedOn c t r w).ten t).log = (d.ten t).log := by
  have hset : ∀ (e : Device) (x : Ring), ((e.setRing (ringRefOf t r) x).ten t).log = (e.ten t).log := fun e x => by
    have h := (e.setRing_ok (ringRefOf t r) x 0 0 true true).2 _ _ rfl
    rwa [Fin.val_ofNat, Nat.mod_eq_of_lt ht] at h
  exact (hset _ _).trans (hset d _)

end

section
variable {d : Device} {x : QDesc} {c t r w : Nat} (hc : x.field 0x20 1 = c) (ht : x.field 0x21 1 = t) (hr : x.field 0x22 1 = r)
  (hw : x.field 0x23 1 = w)
include hc ht hr hw

theorem openCtx_refused (h : d.openOk c t r w = false) : openCtx d x = d.refuse .admin 0x47 := by
  simp [openCtx, hc, ht, hr, hw, h]

/-- A context that serves nothing is bound at once. -/
theorem openCtx_plain (h : d.openOk c t r w = true) (hs : d.ctxServing c = false) :
    openCtx d x = (d.openedOn c t r w).finish .admin St.ok 0 0 := by
  simp only [openCtx, hc, ht, hr, hw, h, Device.tableAt, hs]
  rfl

/-- The table of a serving context is written where its units are online and port 28 lets it through. -/
theorem openCtx_serving {y : Window} (h : d.openOk c t r w = true) (hs : d.ctxServing c = true)
    (hy : tget (d.ten t).windows w = some y) : openCtx d x =
      if d.rangeOff y.base (0x240 + 32 * d.ctxSlots c) then d.finish .admin St.unitOffline 0 0
      else if d.portHolds 28 y.base then d
      else ((d.openedOn c t r w).ringWrite (ringRefOf t r) y.base (emptyTable (d.ctxSlots c))).finish .admin St.ok 0 0 := by
  simp only [openCtx, hc, ht, hr, hw, h, Device.tableAt, hs, hy]
  rfl

end

@[simp] theorem emptyTable_length (slots : Nat) : (emptyTable slots).length = 0x240 + 32 * slots := by
  simp only [emptyTable, List.length_append, bytesOfNat_length, List.length_replicate]

/-- The serving window of a serving context that OPEN may bind lies in memory. -/
theorem Device.inMemory_of_openOk {d : Device} {c t r w : Nat} {y : Window} (h : d.openOk c t r w = true)
    (hs : d.ctxServing c = true) (hy : tget (d.ten t).windows w = some y) :
    d.inMemory y.base (y.limit + 1 - y.base) = true := by
  simp only [Device.openOk, Device.servingOk, hs, hy, Bool.and_eq_true, Bool.or_eq_true, Bool.not_true, Bool.false_eq_true,
    false_or] at h
  obtain ⟨-, ⟨-, hmem⟩, -⟩ := h
  exact hmem

/-! ### The commands at the head of the administrative ring -/

section
variable {s : State} {x : QDesc}

theorem exec_open (hx : s.dev.takes .admin 0x87 x) : exec .open_ s = .next { s with dev := openCtx s.dev.begun x } :=
  actLive_onHead hx openCtx

theorem exec_close (hx : s.dev.takes .admin 0x88 x) : exec .close s = .next { s with dev := closeCtx s.dev.begun x } :=
  actLive_onHead hx closeCtx

theorem exec_freeze (hx : s.dev.takes .admin 0x89 x) : exec .freeze s = .next { s with dev := freeze s.dev.begun x } :=
  actLive_onHead hx freeze

theorem exec_thaw (hx : s.dev.takes .admin 0x8A x) : exec .thaw s = .next { s with dev := thaw s.dev.begun x } :=
  actLive_onHead hx thaw

/-- A command of the administrative ring refused with STATE. -/
theorem exec_admin_refused {i : Instr} {op : Nat} (hopen : s.dev.entryOpen .admin) (hx : s.dev.takes .admin op x) (hop : op ≠ 3)
    (h : exec i s = .next { s with dev := s.dev.begun.refuse .admin 0x47 }) :
    exec i s = .next { s with dev := s.dev.begun.doneWith .admin x St.refused 0x47 0 } := by
  obtain ⟨rest, hq, hop', -⟩ := Device.takes_queued hx
  rw [h, Device.refuse_eq (d := s.dev.begun) (k := .admin) 0x47 hopen hq (by rwa [hop'])]

/-- OPEN where it has bound its context and its ring. -/
theorem exec_open_bound {c t r w : Nat} {m : Device} (hx : s.dev.takes .admin 0x87 x) (hopen : s.dev.entryOpen .admin)
    (hm : s.dev.begun.Opened m c t r w) (hdone : openCtx s.dev.begun x = m.finish .admin St.ok 0 0)
    (hk : .admin ≠ ringRefOf t r) : exec .open_ s = .next { s with dev := m.doneWith .admin x St.ok 0 0 } := by
  obtain ⟨rest, hq, -, -⟩ := Device.takes_queued hx
  rw [exec_open hx, hdone, Device.finish_eq St.ok 0 0 (hm.entry hopen) (by rw [hm.rings _ hk]; exact hq)]

/-- OPEN of a serving context whose table can be written. -/
theorem exec_open_serving {y : Window} {c t r w : Nat} (hx : s.dev.takes .admin 0x87 x) (hopen : s.dev.entryOpen .admin)
    (hc : x.field 0x20 1 = c) (ht : x.field 0x21 1 = t) (hr : x.field 0x22 1 = r) (hw : x.field 0x23 1 = w)
    (hok : s.dev.openOk c t r w = true) (hs : s.dev.ctxServing c = true) (hy : tget (s.dev.ten t).windows w = some y)
    (hon : s.dev.rangeOff y.base (0x240 + 32 * s.dev.ctxSlots c) = false) (hport : s.dev.portHolds 28 y.base = false)
    (hlog : (s.dev.ten t).log = none) :
    ∃ m : Device, exec .open_ s = .next { s with dev := m.doneWith .admin x St.ok 0 0 } ∧ s.dev.begun.Opened m c t r w ∧
      m.mem = (s.dev.coWrite y.base (emptyTable (s.dev.ctxSlots c))).mem := by
  let e := s.dev.begun.openedOn c t r w
  let table := emptyTable (s.dev.ctxSlots c)
  have hlt : t < 64 := ht ▸ Device.open_tenancy_lt hx
  have hwrite : e.ringWrite (ringRefOf t r) y.base table = (e.charge 28 y.base table.length true).coWrite y.base table :=
    Device.ringWrite_inMemory table
      ((s.dev.begun.inMemory_openedOn c t r w _ _).trans (Device.inMemory_of_openOk (d := s.dev) hok hs hy))
      fun t' r' hk => by
        have ht' : t'.val = t := by
          obtain ⟨rfl, -⟩ := RingRef.ring.inj hk
          exact Nat.mod_eq_of_lt hlt
        rw [ht']
        exact (s.dev.begun.log_openedOn c t r w hlt).trans hlog
  have hbytes : s.dev.SameBytes (e.charge 28 y.base table.length true) := by
    obtain ⟨hmem, hcache⟩ := s.dev.begun.sameBytes_openedOn c t r w
    exact ⟨(e.charge_mem _ _ _ _).trans hmem, (e.charge_hostCache _ _ _ _).trans hcache⟩
  have hopened : s.dev.begun.Opened ((e.charge 28 y.base table.length true).coWrite y.base table) c t r w :=
    (s.dev.begun.opened_openedOn c t r w).of_offStores ((Device.offStores_coWrite _ _ _).trans (e.offStores_charge _ _ _ _))
  refine ⟨_, exec_open_bound hx hopen hopened ?_ nofun, hopened, hbytes.coWrite_mem _ _⟩
  have hport' : s.dev.begun.portHolds 28 y.base = false := (s.dev.begun_portHolds 28 _).trans hport
  have hon' : s.dev.begun.rangeOff y.base (0x240 + 32 * s.dev.begun.ctxSlots c) = false := hon
  rw [openCtx_serving (d := s.dev.begun) hc ht hr hw hok hs hy, if_neg (Bool.eq_false_iff.1 hon'), if_neg (Bool.eq_false_iff.1 hport')]
  exact congrArg (Device.finish · .admin St.ok 0 0) hwrite

end

/-! ### CLOSE, FREEZE and THAW (R267, R269) -/

theorem closeCtx_refused {d : Device} {x : QDesc} (h : (d.ctx (x.field 0x20 1)).st ≠ .opened) :
    closeCtx d x = d.refuse .admin 0x47 := if_pos h

theorem closeCtx_opened {d : Device} {x : QDesc} {c : Nat} (hc : x.field 0x20 1 = c) (h : (d.ctx c).st = .opened) :
    closeCtx d x = { d.beginClose c with admin := { d.admin with job := .closing c } } := by
  unfold closeCtx
  rw [hc]
  exact if_neg (not_not.2 h)

/-- The context of a CLOSE as it is torn down. -/
theorem Device.ctx_beginClose (d : Device) (c : Nat) : (d.beginClose c).ctx c = { d.ctx c with
    st := .tearing, run := (d.ctx c).run.map fun r => r.stop St.aborted 1
    teardown := some { status := St.aborted, detail := 1, core := 0xFF, close := true, drained := false } } :=
  d.ctx_setCtx c _

theorem Device.ctx_beginClose_ne (d : Device) {c c' : Nat} (h : c' ≠ c) : (d.beginClose c).ctx c' = d.ctx c' :=
  d.ctx_setCtx_ne _ h

/-- A run that had not stopped is stopped. -/
theorem Run.stopped_stop {r : Run} (h : r.stopped = none) (status detail : Byte) :
    (r.stop status detail).stopped = some (status, detail) := by
  simp [Run.stop, h]

/-- CLOSE of an OPEN context. -/
theorem exec_close_opened {s : State} {x : QDesc} {c : Nat} (hx : s.dev.takes .admin 0x88 x) (hc : x.field 0x20 1 = c)
    (h : (s.dev.ctx c).st = .opened) : exec .close s =
      .next { s with dev := { s.dev.begun.beginClose c with admin := { s.dev.admin with job := .closing c } } } := by
  rw [exec_close hx, closeCtx_opened (d := s.dev.begun) hc h]
  rfl

/-- FREEZE of a tenancy that is on and runs. -/
theorem freeze_running {d : Device} {x : QDesc} {t : Nat} (ht : x.field 0x20 1 = t) (hon : (d.ten t).on = true)
    (hrun : (d.ten t).frozen = false) : freeze d x =
      { (d.setTen t { d.ten t with frozen := true }).dropFetches t with admin := { d.admin with job := .freezing t } } := by
  simp only [freeze, ht, hon, hrun]
  rfl

theorem freeze_refused {d : Device} {x : QDesc} {t : Nat} (ht : x.field 0x20 1 = t)
    (h : (d.ten t).on = false ∨ (d.ten t).frozen = true) : freeze d x = d.refuse .admin 0x47 := by
  unfold freeze
  rw [ht]
  exact if_pos (by simpa using h)

/-- A FREEZE is over once nothing of its tenancy is queued, none of its contexts is being torn down, and its entry can be written. -/
theorem freezeComplete_eq {d : Device} {t : Nat} (hjob : d.admin.job = .freezing t) : freezeComplete d =
    if (d.ten t).queued = true ∨ (∃ c ∈ d.ctxsOf t, (d.ctx c).st = .tearing) ∨ d.entryHeld .admin = true then d
    else d.finish .admin St.ok 0 0 := by
  unfold freezeComplete
  rw [hjob]
  simp [or_assoc]

/-- THAW of a tenancy that is on and frozen. -/
theorem thaw_frozen {d : Device} {x : QDesc} {t : Nat} (ht : x.field 0x20 1 = t) (hon : (d.ten t).on = true)
    (hfrozen : (d.ten t).frozen = true) : thaw d x = (d.setTen t { d.ten t with frozen := false }).finish .admin St.ok 0 0 := by
  simp only [thaw, ht, hon, hfrozen]
  rfl

theorem thaw_refused {d : Device} {x : QDesc} {t : Nat} (ht : x.field 0x20 1 = t)
    (h : (d.ten t).on = false ∨ (d.ten t).frozen = false) : thaw d x = d.refuse .admin 0x47 := by
  unfold thaw
  rw [ht]
  exact if_pos (by simpa using h)

/-! ### The obligation -/

/-- Settles O44: each command comes to its case above, as the context or the tenancy that it names stands. -/
theorem adminContexts : Obligations.AdminContexts := by
  intro s x d refused hopen
  refine ⟨fun hx => ?_, fun hx => ?_, fun hx => ?_, fun t rest hlive hjob hq => ?_, fun hx => ?_⟩
  · have hexec := exec_open hx
    obtain ⟨rest, hq, -, -⟩ := Device.takes_queued hx
    intro c t r w k
    refine ⟨fun hbad => ?_, fun hok => ?_⟩
    · exact exec_admin_refused hopen hx (by decide) (by rw [hexec, openCtx_refused (d := s.dev.begun) rfl rfl rfl rfl hbad])
    · intro opened
      have hopened : ∀ (m : Device) (mem : List Host.Cell), exec .open_ s = .next { s with dev := m.doneWith .admin x St.ok 0 0 } →
          s.dev.begun.Opened m c t r w → m.mem = mem → opened mem := fun m mem hm hbound hmem =>
        ⟨m, _, hm, rfl, hmem, hbound.ctx, hbound.ctxs, hbound.rings, hbound.regs, hbound.ring⟩
      refine ⟨fun hs => ?_, fun hs y hy => ?_⟩
      · have hbound := s.dev.begun.opened_openedOn c t r w
        exact hopened _ _ (exec_open_bound hx hopen hbound (openCtx_plain (d := s.dev.begun) rfl rfl rfl rfl hok hs) nofun) hbound
          (s.dev.begun.sameBytes_openedOn c t r w).mem
      · intro table off
        have hserving := openCtx_serving (d := s.dev.begun) (x := x) rfl rfl rfl rfl hok hs hy
        have hoff : off = s.dev.begun.rangeOff y.base (0x240 + 32 * s.dev.begun.ctxSlots c) :=
          congrArg (s.dev.rangeOff y.base) (emptyTable_length _)
        rw [hoff]
        refine ⟨fun hoff => ?_, fun hon hport => ?_, fun hon hport hlog => ?_⟩
        · rw [hexec, hserving, if_pos hoff, Device.finish_eq (d := s.dev.begun) (k := .admin) St.unitOffline 0 0 hopen hq]
        · have hport' : s.dev.begun.portHolds 28 y.base = true := (s.dev.begun_portHolds 28 _).trans hport
          rw [hexec, hserving, if_neg (Bool.eq_false_iff.1 hon), if_pos hport']
        · obtain ⟨m, hm, hbound, hmem⟩ := exec_open_serving hx hopen rfl rfl rfl rfl hok hs hy hon hport hlog
          exact hopened m _ hm hbound hmem
  · intro c
    refine ⟨fun hclosed => ?_, fun hst => ⟨_, exec_close_opened hx rfl hst, rfl, ?_⟩⟩
    · exact exec_admin_refused hopen hx (by decide) (by rw [exec_close hx, closeCtx_refused (d := s.dev.begun) hclosed])
    · have hctx : Device.ctx { s.dev.begun.beginClose c with admin := { s.dev.admin with job := .closing c } } c = _ :=
        s.dev.begun.ctx_beginClose c
      refine ⟨?_, ?_, ?_, fun r hr hstop => ?_, fun c' hc => s.dev.begun.ctx_beginClose_ne hc, rfl, rfl, rfl⟩
      · rw [hctx]
      · rw [hctx]; rfl
      · rw [hctx]; rfl
      · rw [hctx]
        change Option.map _ (Option.map _ (s.dev.ctx c).run) = _
        rw [hr]
        exact congrArg some (Run.stopped_stop hstop St.aborted 1)
  · intro t
    refine ⟨fun hon hrun => ?_, fun hbad => ?_⟩
    · rw [exec_freeze hx, freeze_running (d := s.dev.begun) rfl hon hrun]
    · exact exec_admin_refused hopen hx (by decide) (by rw [exec_freeze hx, freeze_refused (d := s.dev.begun) rfl hbad])
  · have hexec : exec .freezeComplete s = .next { s with dev := freezeComplete d } := actLive_eq freezeComplete hlive
    have hheld : d.entryHeld .admin = s.dev.entryHeld .admin := s.dev.begun_portHolds 28 _
    rw [hexec, freezeComplete_eq (d := d) hjob, hheld]
    refine ⟨fun hqueued htearing hentry => ?_, fun hwait => ?_⟩
    · have hover : ¬((d.ten t).queued = true ∨ (∃ c ∈ d.ctxsOf t, (d.ctx c).st = .tearing) ∨ s.dev.entryHeld .admin = true) := by
        rintro (h | ⟨c, hc, h⟩ | h)
        · exact Bool.eq_false_iff.1 hqueued h
        · exact htearing c hc h
        · exact Bool.eq_false_iff.1 hentry h
      rw [if_neg hover, Device.finish_eq (d := d) (k := .admin) St.ok 0 0 hopen hq]
    · exact congrArg (fun e => Host.Outcome.next { s with dev := e }) (if_pos hwait)
  · intro t
    refine ⟨fun hon hfrozen => ?_, fun hbad => ?_⟩
    · obtain ⟨rest, hq, -, -⟩ := Device.takes_queued hx
      obtain ⟨hstate, hmem, hok, honline, -⟩ := hopen
      have hopen' : (d.setTen t { d.ten t with frozen := false }).entryOpen .admin := ⟨hstate, hmem, hok, honline, nofun⟩
      rw [exec_thaw hx, thaw_frozen (d := s.dev.begun) rfl hon hfrozen, Device.finish_eq St.ok 0 0 hopen' hq]
    · exact exec_admin_refused hopen hx (by decide) (by rw [exec_thaw hx, thaw_refused (d := s.dev.begun) rfl hbad])

end Sys2Proof.Machine

/-!
PROOF. SAVE, RESTORE and LOG (O45): what a fixed port lets through at once, the bytes of a save record, what a RESTORE rebuilds of its
tenancy, and the stages of a log.
-/

namespace Sys2Proof.Machine

/-! ### An access that a fixed port lets through (R188) -/

/-- The lines of a range that begins a line. -/
theorem lineAddrs_aligned {a n l : Nat} (ha : a % 64 = 0) (hl : l ∈ lineAddrs a n) : ∃ o < n, o % 64 = 0 ∧ l = a + o := by
  rw [lineAddrs_eq_map] at hl
  obtain ⟨i, hi, rfl⟩ := List.mem_map.1 hl
  obtain ⟨hpos, hlow, hhigh⟩ := mem_lineNums.1 hi
  exact ⟨64 * i - a, by omega, by omega, by omega⟩

section
variable {d : Device} (port : Nat) {a n : Nat} (h : ∀ l ∈ lineAddrs a n, d.openLine l) (write : Bool)
include h

/-- An access of open lines passes, and only the stores other than the memory and the host caches see it. -/
theorem Device.pass_open : (d.pass port a n write).1 = true ∧ (d.pass port a n write).2.offStores = d.offStores ∧
    d.SameBytes (d.pass port a n write).2 := by
  let before := d.portDone port a n
  let g : Device := { d with portWaits := d.portForget port a n }
  have hlines : d.linesIssue port 256 ((lineAddrs a n).drop before) = (((lineAddrs a n).drop before).length, false, d) :=
    Device.linesIssue_open port 256 fun l hl => h l (List.mem_of_mem_drop hl)
  have hpass : d.passLines port a n (lineAddrs a n) = (true, g) := by
    unfold Device.passLines
    dsimp only
    rw [hlines, if_neg (by rw [List.length_drop]; omega)]
  have heq : d.pass port a n write = (true, g.serve a n write) := by
    unfold Device.pass
    rw [hpass]
    rfl
  rw [heq]
  exact ⟨rfl, g.offStores_serve a n write, g.serve_mem a n write, g.serve_hostCache a n write⟩

theorem Device.via_open (f : Device → Device) : d.via port a n write f = f (d.pass port a n write).2 := by
  unfold Device.via
  dsimp only
  rw [if_pos (Device.pass_open port h write).1]

end

/-- A coherent write of whole lines leaves every byte outside them in memory as it was. -/
theorem Device.memByte_coWrite_out {d e : Device} (hbytes : d.SameBytes e) {a b : Nat} {bs : List Byte} (ha : a % 64 = 0)
    (hn : bs.length % 64 = 0) (hb : b < a ∨ a + bs.length ≤ b) : memByte (e.coWrite a bs).mem b = memByte d.mem b := by
  have hline : b / 64 ∉ lineNums a bs.length := fun hl => by
    rw [mem_lineNums] at hl
    omega
  rw [hbytes.coWrite_mem]
  exact (memByte_memWrite_out _ _ _ _ hb).trans (((d.dropLines_bytes a bs.length).1 b).trans (if_neg hline))

/-! ### The body of a descriptor (R256) -/

/-- A descriptor that is taken up has passed the check of its body. -/
theorem Device.bodyOk_of_takes {d : Device} {k : RingRef} {op : Nat} {x : QDesc} (hx : d.takes k op x) : bodyOk d x.raw = true := by
  obtain ⟨-, -, hveto⟩ := hx
  unfold Device.headVeto at hveto
  split at hveto
  · cases hveto
  · split at hveto
    · cases hveto
    · split at hveto
      · cases hveto
      · next h => simpa using h

/-- SAVE and RESTORE name one of the 64 tenancies, and a place that begins a line. -/
theorem Device.record_body {d : Device} {x : QDesc} (hx : d.takes .admin 0x8B x ∨ d.takes .admin 0x8C x) :
    x.field 0x20 1 < 64 ∧ x.field 0x28 8 % 64 = 0 := by
  have hfields : ∀ op, (op = 0x8B ∨ op = 0x8C) → d.takes .admin op x → x.field 0x20 1 < 64 ∧ x.field 0x28 8 % 64 = 0 := by
    intro op hop hx
    have hbody := Device.bodyOk_of_takes hx
    obtain ⟨rest, -, hcode, -⟩ := Device.takes_queued hx
    have hcode' : fieldAt x.raw 0x18 1 = op := hcode
    obtain rfl | rfl := hop <;>
    · simp only [bodyOk, hcode', Bool.and_eq_true, decide_eq_true_eq] at hbody
      obtain ⟨-, ⟨⟨ht, -⟩, -⟩, ha⟩ := hbody
      exact ⟨Nat.lt_succ_of_le ht, ha⟩
  exact hx.elim (hfields _ (.inl rfl)) (hfields _ (.inr rfl))

/-! ### The bytes of a save record (R270) -/

theorem length_flatMap_const {α : Type} {f : α → List Byte} {l : List α} {n : Nat} (h : ∀ x, (f x).length = n) :
    (l.flatMap f).length = l.length * n := by
  rw [List.length_flatMap, List.map_congr_left (g := fun _ => n) fun x _ => h x, List.map_const', List.sum_replicate, smul_eq_mul]

@[simp] theorem savedWindow_length (w : Option Window) : (savedWindow w).length = 32 := by
  cases w <;> simp [savedWindow]

@[simp] theorem savedRing_length (r : Ring) : (savedRing r).length = 32 := by
  unfold savedRing
  split <;> simp

@[simp] theorem savedSlab_length (l : Option Loaded) : (savedSlab l).length = 24 := by
  unfold savedSlab
  split <;> simp

@[simp] theorem Device.savedCtx_length (d : Device) (k : RingRef) : (d.savedCtx k).length = 256 := by
  unfold Device.savedCtx
  split
  · simp only [List.length_cons, List.length_replicate]
  · simp only [List.length_append, List.length_cons, List.length_nil, bytesOfNat_length, List.length_replicate,
      length_flatMap_const fun i => savedSlab_length _, List.length_range]

/-- The first bytes of a save record: the magic, the format and the tenancy. -/
def recordHead (t : Nat) : List Byte := bytesOfNat 4 0x52535653 ++ bytesOfNat 2 1 ++ [BitVec.ofNat 8 t, 0]

/-- What stands between them and the digest. -/
def Device.recordRest (d : Device) (t : Nat) : List Byte :=
  bytesOfNat 8 d.ns.toNat ++ List.replicate 48 0 ++ (List.range 16).flatMap (fun w => savedWindow (tget (d.ten t).windows w)) ++
    (List.range 17).flatMap (fun r => savedRing (d.ring (ringRefOf t r))) ++
    (List.range 16).flatMap (fun r => d.savedCtx (ringRefOf t (r + 1))) ++ List.replicate 2912 0

@[simp] theorem recordHead_length (t : Nat) : (recordHead t).length = 8 := rfl

theorem Device.saveRecord_eq (d : Device) (t : Nat) :
    d.saveRecord t = (recordHead t ++ d.recordRest t) ++ sha512 (recordHead t ++ d.recordRest t) := by
  simp only [Device.saveRecord, recordHead, Device.recordRest, List.append_assoc]

theorem Device.recordRest_length (d : Device) (t : Nat) : (d.recordRest t).length = 0x1FB8 := by
  simp only [Device.recordRest, List.length_append, bytesOfNat_length, List.length_replicate, List.length_range,
    length_flatMap_const fun w => savedWindow_length (tget (d.ten t).windows w),
    length_flatMap_const fun r => savedRing_length (d.ring (ringRefOf t r)),
    length_flatMap_const fun r => d.savedCtx_length (ringRefOf t (r + 1))]

@[simp] theorem Device.saveRecord_length (d : Device) (t : Nat) : (d.saveRecord t).length = recordBytes := by
  simp only [Device.saveRecord_eq, List.length_append, recordHead_length, d.recordRest_length, sha512_length, recordBytes]

/-- A field of the head of a record. -/
theorem fieldAt_recordHead {t off len : Nat} (h : off + len ≤ 8) (rest : List Byte) :
    fieldAt (recordHead t ++ rest) off len = fieldAt (recordHead t) off len :=
  congrArg natOfBytes (slice_append_left h)

/-- The magic and the format are those that RESTORE demands. -/
theorem recordHead_fields (t : Nat) :
    fieldAt (recordHead t) 0 4 = 0x52535653 ∧ fieldAt (recordHead t) 4 2 = 1 ∧ fieldAt (recordHead t) 6 1 = t % 256 := by
  refine ⟨?_, ?_, ?_⟩ <;> simp [recordHead, fieldAt, slice, bytesOfNat, natOfBytes]

/-- The record of a tenancy is one that RESTORE takes, and names the tenancy. -/
theorem Device.saveRecord_ok (d : Device) (t : Nat) : recordOk (d.saveRecord t) = true ∧ fieldAt (d.saveRecord t) 6 1 = t % 256 := by
  rw [Device.saveRecord_eq]
  obtain ⟨hmagic, hformat, htenancy⟩ := recordHead_fields t
  have hlen : (recordHead t ++ d.recordRest t).length = 0x1FC0 := by rw [List.length_append, recordHead_length, d.recordRest_length]
  refine ⟨recordOk_append _ hlen ?_ ?_, ?_⟩
  · rw [fieldAt_recordHead (by decide), hmagic]
  · rw [fieldAt_recordHead (by decide), hformat]
  · rw [List.append_assoc, fieldAt_recordHead (by decide), htenancy]

/-- What a record holds does not hang on the stores. -/
theorem Device.saveRecord_of_offStores {d e : Device} (h : e.offStores = d.offStores) (t : Nat) : e.saveRecord t = d.saveRecord t := by
  have hrest : e.recordRest t = d.recordRest t := Device.eq_of_offStores (·.recordRest t) (fun _ => rfl) h
  rw [Device.saveRecord_eq, Device.saveRecord_eq, hrest]

/-! ### SAVE (R270) -/

section
variable {s : State} {x : QDesc}

theorem exec_save (hx : s.dev.takes .admin 0x8B x) : exec .save s = .next { s with dev := save s.dev.begun x } :=
  actLive_onHead hx save

theorem save_refused {d : Device} {t : Nat} (ht : x.field 0x20 1 = t) (h : (d.ten t).on = false ∨ (d.ten t).frozen = false) :
    save d x = d.refuse .admin 0x47 := by
  unfold save
  dsimp only
  rw [ht]
  exact if_pos (by simpa using h)

theorem save_frozen {d : Device} {t a : Nat} (ht : x.field 0x20 1 = t) (ha : x.field 0x28 8 = a) (hon : (d.ten t).on = true)
    (hfrozen : (d.ten t).frozen = true) (hveto : d.recordVeto a = none) : save d x =
      d.via 28 a recordBytes true fun d => (d.coWrite a (d.saveRecord t)).finish .admin St.ok 0 0 := by
  simp only [save, ht, ha, hon, hfrozen, hveto]
  rfl

/-- The lines of a record's place, where they are open. -/
theorem Device.recordLines {d : Device} {a : Nat} (ha : a % 64 = 0) (h : ∀ o < recordBytes, o % 64 = 0 → d.openLine (a + o)) :
    ∀ l ∈ lineAddrs a recordBytes, d.begun.openLine l := fun l hl => by
  obtain ⟨o, ho, ho64, rfl⟩ := lineAddrs_aligned ha hl
  exact (d.begun_openLine _).2 (h o ho ho64)

/-- SAVE of a frozen tenancy whose record's place is open writes the record. -/
theorem exec_save_written {t a : Nat} (hx : s.dev.takes .admin 0x8B x) (hopen : s.dev.entryOpen .admin) (ht : x.field 0x20 1 = t)
    (ha : x.field 0x28 8 = a) (hon : (s.dev.ten t).on = true) (hfrozen : (s.dev.ten t).frozen = true)
    (hveto : s.dev.recordVeto a = none) (hlines : ∀ o < recordBytes, o % 64 = 0 → s.dev.openLine (a + o)) :
    ∃ e : Device, e.offStores = s.dev.begun.offStores ∧ s.dev.begun.SameBytes e ∧
      exec .save s = .next { s with dev := (e.coWrite a (s.dev.saveRecord t)).doneWith .admin x St.ok 0 0 } := by
  obtain ⟨rest, hq, -, -⟩ := Device.takes_queued hx
  obtain ⟨-, halign⟩ := Device.record_body (.inl hx)
  have hpass := Device.recordLines (ha ▸ halign) hlines
  obtain ⟨-, hoff, hbytes⟩ := Device.pass_open 28 hpass true
  have hrecord := Device.saveRecord_of_offStores hoff t
  have hwritten : ∀ bs, (Device.coWrite (s.dev.begun.pass 28 a recordBytes true).2 a bs).offStores = s.dev.begun.offStores := fun bs =>
    (Device.offStores_coWrite _ a bs).trans hoff
  refine ⟨_, hoff, hbytes, ?_⟩
  rw [exec_save hx, save_frozen (d := s.dev.begun) ht ha hon hfrozen hveto, Device.via_open 28 hpass true, hrecord,
    Device.finish_eq St.ok 0 0 (Device.entryOpen_of_offStores (d := s.dev.begun) (k := .admin) (hwritten _) hopen)
      ((congrArg Ring.queued (Device.eq_of_offStores (·.ring .admin) (fun _ => rfl) (hwritten _))).trans hq)]
  rfl

end

end Sys2Proof.Machine

/-!
PROOF. What a RESTORE rebuilds (O45): windows, rings and contexts one after another, and what each step keeps of the tenancy.
-/

namespace Sys2Proof.Machine

/-! ### What a RESTORE rebuilds (R271) -/

/-- The device without what a RESTORE rebuilds: tenancies and contexts, with the stores and the links that its copies use. -/
def Device.offRebuilt (d : Device) : Device := { d.offLinks with tenancies := [], ctxs := [] }

/-- Devices that differ in these alone agree in whatever does not look at them. -/
theorem Device.eq_of_offRebuilt {α : Type} (f : Device → α) (hf : ∀ x : Device, f x.offRebuilt = f x) {d e : Device}
    (h : e.offRebuilt = d.offRebuilt) : f e = f d := by
  rw [← hf e, h, hf]

theorem Device.offRebuilt_of_offLinks {d e : Device} (h : e.offLinks = d.offLinks) : e.offRebuilt = d.offRebuilt := by
  unfold Device.offRebuilt
  rw [h]

/-- The administrative ring's next entry can be written all the same. -/
theorem Device.entryOpen_admin_of_offRebuilt {d e : Device} (h : e.offRebuilt = d.offRebuilt) (ho : d.entryOpen .admin) :
    e.entryOpen .admin := by
  have hadmin : e.admin = d.admin := Device.eq_of_offRebuilt Device.admin (fun _ => rfl) h
  have hmem : ∀ a n, e.inMemory a n = d.inMemory a n := fun a n => Device.eq_of_offRebuilt (·.inMemory a n) (fun _ => rfl) h
  have hoff : ∀ a, e.addrOff a = d.addrOff a := fun a => Device.eq_of_offRebuilt (·.addrOff a) (fun _ => rfl) h
  have hok : ∀ a, e.ringAddrOk .admin a 64 false true = d.ringAddrOk .admin a 64 false true := fun a =>
    Device.eq_of_offRebuilt (·.ringAddrOk .admin a 64 false true) (fun _ => rfl) h
  obtain ⟨hstate, hin, haddr, hon, -⟩ := ho
  have hring : e.ring .admin = d.ring .admin := hadmin
  unfold Device.entryOpen
  rw [hring, hmem, hok, hoff]
  exact ⟨hstate, hin, haddr, hon, nofun⟩

/-- What a SET_RING gives a ring. -/
def Ring.geometry (r : Ring) : Nat × Nat × Nat := (r.n, r.sqBase, r.cqBase)

/-- A change that keeps the windows of a tenancy and where every ring lies. -/
structure Device.Kept (d e : Device) (t : Nat) : Prop where
  off : e.offRebuilt = d.offRebuilt
  windows : (e.ten t).windows = (d.ten t).windows
  rings : ∀ k, (e.ring k).geometry = (d.ring k).geometry

namespace Device.Kept

variable {d e f : Device} {t : Nat}

theorem trans (h : d.Kept e t) (h' : e.Kept f t) : d.Kept f t :=
  ⟨h'.off.trans h.off, h'.windows.trans h.windows, fun k => (h'.rings k).trans (h.rings k)⟩

/-- Contexts, stores and links hold neither windows nor rings. -/
theorem of_tenancies (hoff : e.offRebuilt = d.offRebuilt) (ht : e.tenancies = d.tenancies) (t : Nat) : d.Kept e t :=
  ⟨hoff, by rw [Device.ten, Device.ten, ht], fun k => by
    rw [Device.ring_congr k ht (Device.eq_of_offRebuilt Device.admin (fun _ => rfl) hoff)]⟩

end Device.Kept

/-- A ring replaced leaves the windows of every tenancy. -/
theorem Device.windows_setRing (d : Device) (t' r t : Nat) (x : Ring) :
    ((d.setRing (ringRefOf t' r) x).ten t).windows = (d.ten t).windows := by
  unfold ringRefOf Device.setRing
  by_cases h : t = (Fin.ofNat 64 t').val
  · subst h
    rw [Device.ten_setTen]
  · rw [Device.ten_setTen_ne _ _ h]

theorem Device.kept_setRing (d : Device) (t' r t : Nat) {x : Ring} (h : x.geometry = (d.ring (ringRefOf t' r)).geometry) :
    d.Kept (d.setRing (ringRefOf t' r) x) t := by
  refine ⟨rfl, d.windows_setRing t' r t x, fun k => ?_⟩
  by_cases hk : k = ringRefOf t' r
  · rw [hk, Device.ring_setRing, h]
  · rw [Device.ring_setRing_ne _ _ hk]

theorem Device.kept_setCtx (d : Device) (c : Nat) (x : Ctx) (t : Nat) : d.Kept (d.setCtx c x) t :=
  Device.Kept.of_tenancies (d := d) (e := d.setCtx c x) rfl rfl t

theorem Device.kept_dropReads (d : Device) (k : RingRef) (t : Nat) : d.Kept (d.dropReads k) t :=
  Device.Kept.of_tenancies (d := d) (e := d.dropReads k) rfl rfl t

/-- Binding a context and starting its ring keep where the rings lie. -/
theorem Device.kept_openedOn (d : Device) (c t' r w t : Nat) : d.Kept (d.openedOn c t' r w) t := by
  let k := ringRefOf t' r
  have hbind : d.Kept (d.bindCtx c t' r w) t :=
    (d.kept_setRing t' r t (x := { d.ring k with ctx := some c }) rfl).trans (Device.kept_setCtx _ c _ t)
  have hdrop : d.Kept ((d.bindCtx c t' r w).dropReads k) t := hbind.trans (Device.kept_dropReads _ k t)
  have hring : ((d.bindCtx c t' r w).dropReads k).ring k = (d.bindCtx c t' r w).ring k := Device.ring_congr k rfl rfl
  exact hdrop.trans (Device.kept_setRing _ t' r t (by rw [hring]; rfl))

/-- The windows of a record, set one after another. -/
theorem Device.restoreWindows_spec (t : Nat) (rec : List Byte) (l : List Nat) {d e : Device}
    (h : d.restoreWindows t rec l = some e) : e.offRebuilt = d.offRebuilt ∧ ∀ w, tget (e.ten t).windows w =
      if w ∈ l then (restoredWindow (slice rec (0x40 + 32 * w) 32)).or (tget (d.ten t).windows w)
      else tget (d.ten t).windows w := by
  induction l generalizing d with
  | nil =>
    obtain rfl := Option.some.inj h
    exact ⟨rfl, fun w => rfl⟩
  | cons i l ih =>
    rw [Device.restoreWindows] at h
    split at h
    · next hnone =>
      obtain ⟨hoff, hwin⟩ := ih h
      refine ⟨hoff, fun w => (hwin w).trans ?_⟩
      by_cases hi : w = i
      · simp [hi, hnone]
      · simp [hi]
    · next y hy =>
      split at h
      · obtain ⟨hoff, hwin⟩ := ih h
        refine ⟨hoff, fun w => (hwin w).trans ?_⟩
        rw [Device.ten_setTen]
        by_cases hi : w = i
        · subst hi
          simp [hy, tget_tput_self]
        · simp [hi, tget_tput_ne]
      · cases h

/-- A record's ring as RESTORE sets it. -/
def recordRing (rec : List Byte) (r : Nat) : Nat × Nat × Nat :=
  (fieldAt rec (0x241 + 32 * r) 1, fieldAt rec (0x248 + 32 * r) 8, fieldAt rec (0x250 + 32 * r) 8)

/-- A byte of a slice. -/
theorem getElem_slice (bs : List Byte) (off len : Nat) {i : Nat} (hi : i < (slice bs off len).length) :
    (slice bs off len)[i] = bs.getD (off + i) 0 := by
  rw [slice_length] at hi
  simp only [slice, List.getElem_append, List.getElem_take, List.getElem_drop, List.getElem_replicate, List.length_take, List.length_drop,
    List.getD_eq_getElem?_getD]
  split
  · rw [List.getElem?_eq_getElem (by omega)]
    rfl
  · rw [List.getElem?_eq_none (by omega)]
    rfl

/-- A field of a slice is one of the whole. -/
theorem fieldAt_slice (bs : List Byte) {off len a n : Nat} (h : a + n ≤ len) :
    fieldAt (slice bs off len) a n = fieldAt bs (off + a) n := by
  refine congrArg natOfBytes (List.ext_getElem (by rw [slice_length, slice_length]) fun i hi _ => ?_)
  rw [slice_length] at hi
  rw [getElem_slice, getElem_slice, List.getD_eq_getElem _ _ (by rw [slice_length]; omega), getElem_slice, Nat.add_assoc]

theorem ringRefOf_inj {t r r' : Nat} (hr : r < 17) (hr' : r' < 17) (h : ringRefOf t r = ringRefOf t r') : r = r' := by
  obtain ⟨-, h⟩ := RingRef.ring.inj h
  simpa [Nat.mod_eq_of_lt, hr, hr'] using congrArg Fin.val h

/-- The rings of a record, set one after another: each that the record names lies as recorded. -/
theorem Device.restoreRings_spec (t : Nat) (rec : List Byte) (l : List Nat) (hl : ∀ r ∈ l, r < 17) {d e : Device}
    (h : d.restoreRings t rec l = some e) : e.offRebuilt = d.offRebuilt ∧ (e.ten t).windows = (d.ten t).windows ∧
      ∀ r < 17, fieldAt rec (0x240 + 32 * r) 1 ≠ 0 →
        (r ∈ l ∨ (d.ring (ringRefOf t r)).geometry = recordRing rec r) →
          (e.ring (ringRefOf t r)).geometry = recordRing rec r := by
  induction l generalizing d with
  | nil =>
    obtain rfl := Option.some.inj h
    exact ⟨rfl, rfl, fun r _ _ hr => hr.resolve_left (List.not_mem_nil)⟩
  | cons i l ih =>
    obtain ⟨hi, hrest⟩ := List.forall_mem_cons.1 hl
    rw [Device.restoreRings] at h
    dsimp only at h
    simp only [fieldAt_slice, Nat.reduceAdd, Nat.reduceLeDiff, Nat.add_zero] at h
    split at h
    · next hnone =>
      obtain ⟨hoff, hwin, hring⟩ := ih hrest h
      refine ⟨hoff, hwin, fun r hr hset hor => hring r hr hset (hor.imp_left fun hmem => ?_)⟩
      exact (List.mem_cons.1 hmem).resolve_left fun he => hset (he ▸ hnone)
    · split at h
      · obtain ⟨hoff, hwin, hring⟩ := ih hrest h
        refine ⟨hoff, hwin.trans (d.windows_setRing t i t _), fun r hr hset hor => hring r hr hset ?_⟩
        by_cases hri : r = i
        · subst hri
          refine .inr ?_
          rw [Device.ring_setRing]
          simp [Ring.geometry, recordRing, Nat.add_right_comm]
        · refine (List.mem_cons.1 |> hor.imp_left).imp (·.resolve_left hri) fun hgeo => ?_
          rwa [Device.ring_setRing_ne _ _ fun hk => hri (ringRefOf_inj hr hi hk)]
      · cases h

theorem Device.restoreCtxs_kept (t : Nat) (l : List (Nat × Nat × Nat × List Byte)) {d e : Device}
    (h : d.restoreCtxs t l = some e) : d.Kept e t := by
  induction l generalizing d with
  | nil =>
    obtain rfl := Option.some.inj h
    exact .of_tenancies rfl rfl t
  | cons x l ih =>
    rw [Device.restoreCtxs] at h
    split at h
    · exact (d.kept_openedOn _ t _ _ t).trans (ih h)
    · cases h

/-- A copy of an admission uses stores and links alone. -/
theorem Device.offLinks_copyIn (d : Device) (c t : Nat) (w : Nat × List Byte) : (d.copyIn c t w).offLinks = d.offLinks := by
  have hlog : (d.logWrite t w.1 w.2.length).offLinks = d.offLinks := Device.offLinks_of_offStores (d.offStores_logWrite _ _ _)
  unfold Device.copyIn
  dsimp only
  split
  · refine Eq.trans ?_ hlog
    exact List.foldlRecOn _ _ (motive := fun e : Device => e.offLinks = (d.logWrite t w.1 w.2.length).offLinks) rfl
      fun _ he _ _ => he
  · exact (Device.offLinks_of_offStores (by rw [Device.offStores_wr, Device.offStores_serve, Device.offStores_linesIssue])).trans hlog

theorem Device.kept_of_offLinks {d e : Device} (h : e.offLinks = d.offLinks) (t : Nat) : d.Kept e t :=
  .of_tenancies (Device.offRebuilt_of_offLinks h) (Device.eq_of_offLinks Device.tenancies (fun _ => rfl) h) t

theorem Device.readmit_kept {d e : Device} {images : List (Nat × List Byte)} {t r c i : Nat} {x : List Byte}
    (h : d.readmit images t r c i x = .inr e) : d.Kept e t := by
  have hcopies : ∀ (l : List (Nat × List Byte)) (g : Device), (l.foldl (fun d w => d.copyIn c t w) g).offLinks = g.offLinks :=
    fun l g => List.foldlRecOn _ _ (motive := fun e : Device => e.offLinks = g.offLinks) rfl
      fun e he w _ => (e.offLinks_copyIn c t w).trans he
  unfold Device.readmit at h
  dsimp only at h
  split at h
  · cases h
  split at h
  · cases h
  split at h
  · cases h
  split at h
  · cases h
  split at h
  · cases h
  · obtain rfl := Sum.inr.inj h
    exact (d.kept_setCtx c _ t).trans (Device.kept_of_offLinks (hcopies _ _) t)

theorem Device.readmitAll_kept (images : List (Nat × List Byte)) (t : Nat) (l : List (Nat × Nat × Nat × List Byte)) {d e : Device}
    (h : d.readmitAll images t l = .inr e) : d.Kept e t := by
  induction l generalizing d with
  | nil =>
    obtain rfl := Sum.inr.inj h
    exact .of_tenancies rfl rfl t
  | cons x l ih =>
    rw [Device.readmitAll] at h
    split at h
    · exact ih h
    · split at h
      · cases h
      · next hone => exact (Device.readmit_kept hone).trans (ih h)

/-- A tenancy rebuilt: its windows are those of the record, beside those that it had, and its rings lie as recorded. -/
theorem Device.rebuild_spec {d e : Device} {images : List (Nat × List Byte)} {t : Nat} {rec : List Byte}
    (h : d.rebuild images t rec = .inr e) : e.offRebuilt = d.offRebuilt ∧
      (∀ w < 16, tget (e.ten t).windows w = (restoredWindow (slice rec (0x40 + 32 * w) 32)).or (tget (d.ten t).windows w)) ∧
      ∀ r < 17, fieldAt rec (0x240 + 32 * r) 1 ≠ 0 → (e.ring (ringRefOf t r)).geometry = recordRing rec r := by
  unfold Device.rebuild at h
  split at h
  · cases h
  · next d1 h1 =>
    split at h
    · cases h
    · next d2 h2 =>
      split at h
      · cases h
      · next d3 h3 =>
        obtain ⟨hoff1, hwin1⟩ := Device.restoreWindows_spec t rec _ h1
        obtain ⟨hoff2, hwin2, hring2⟩ := Device.restoreRings_spec t rec _ (fun r hr => List.mem_range.1 hr) h2
        have hkept := (Device.restoreCtxs_kept t _ h3).trans (Device.readmitAll_kept images t _ h)
        refine ⟨hkept.off.trans (hoff2.trans hoff1), fun w hw => ?_, fun r hr hset => ?_⟩
        · rw [hkept.windows, hwin2, hwin1, if_pos (List.mem_range.2 hw)]
        · rw [hkept.rings, hring2 r hr hset (.inl (List.mem_range.2 hr))]

end Sys2Proof.Machine

/-!
PROOF. RESTORE and the log of written pages (O45): each command at the head of the administrative ring.
-/

namespace Sys2Proof.Machine

/-! ### RESTORE (R271) -/

/-- What RESTORE does with a record that it has read. -/
def restoreRecord (t a : Nat) (d : Device) : Device :=
  let rc := d.coRead a recordBytes
  if !recordOk rc then d.refuse .admin 0x49
  else if !d.recordMatches rc then d.refuse .admin 0x48
  else d.restoreFrom t rc [] (d.linkImages rc)

section
variable {d : Device} {x : QDesc} {t a : Nat}

theorem restore_waits (ecc : Ecc) (h : d.admissionBusy = true ∨ d.gov.takeUp.isSome = true) : restore d x ecc = d := by
  unfold restore
  exact if_pos (by simpa using h)

variable (hbusy : d.admissionBusy = false) (htake : d.gov.takeUp = none) (ht : x.field 0x20 1 = t)
include hbusy htake ht

theorem restore_refused (ecc : Ecc)
    (h : (d.ten t).on = false ∨ (d.ten t).frozen = false ∨ (d.ten t).windows ≠ [] ∨ (d.ten t).rings ≠ []) :
    restore d x ecc = d.refuse .admin 0x47 := by
  simp only [restore, hbusy, htake, ht, Option.isSome_none, Bool.or_self, Bool.false_eq_true, if_false]
  exact if_pos (by simp only [Bool.or_eq_true, Bool.not_eq_true', List.isEmpty_eq_false_iff]; tauto)

/-- A tenancy that a RESTORE may fill: frozen, with no window, ring or context. -/
structure Device.Empty (d : Device) (t : Nat) : Prop where
  on : (d.ten t).on = true
  frozen : (d.ten t).frozen = true
  windows : (d.ten t).windows = []
  rings : (d.ten t).rings = []
  ctxs : d.ctxsOf t = []

variable (hempty : d.Empty t) (ha : x.field 0x28 8 = a)
include hempty ha

omit hbusy htake ht ha in
theorem Device.Empty.begun : d.begun.Empty t := ⟨hempty.on, hempty.frozen, hempty.windows, hempty.rings, hempty.ctxs⟩

theorem restore_vetoed (ecc : Ecc) {v : Byte × Byte} (hv : d.recordVeto a = some v) : restore d x ecc = d.finish .admin v.1 v.2 0 := by
  obtain ⟨hon, hfrozen, hwin, hrings, hctxs⟩ := hempty
  simp only [restore, hbusy, htake, ht, ha, hon, hfrozen, hwin, hrings, hctxs, hv]
  rfl

theorem restore_read (ecc : Ecc) (hv : d.recordVeto a = none) :
    restore d x ecc = d.via 28 a recordBytes false fun d => d.descEcc .admin a ecc (restoreRecord t a) := by
  obtain ⟨hon, hfrozen, hwin, hrings, hctxs⟩ := hempty
  simp only [restore, hbusy, htake, ht, ha, hon, hfrozen, hwin, hrings, hctxs, hv]
  rfl

end

/-- A record's place that is not vetoed lies in memory. -/
theorem Device.inMemory_of_recordVeto {d : Device} {a : Nat} (h : d.recordVeto a = none) : d.inMemory a recordBytes = true := by
  unfold Device.recordVeto at h
  split at h
  · cases h
  · next hm => simpa using hm

theorem exec_restore {s : State} {x : QDesc} (hx : s.dev.takes .admin 0x8C x) (ecc : Ecc) :
    exec (.restore ecc) s = .next { s with dev := restore s.dev.begun x ecc } := actLive_onHead hx fun d x => restore d x ecc

/-- A device that has read the record of a RESTORE: what it reads, and what it was, stand. -/
structure Device.RecordRead (d p : Device) (x : QDesc) : Prop where
  off : p.offStores = d.offStores
  bytes : d.SameBytes p
  entry : p.entryOpen .admin
  queue : (p.ring .admin).queued.head? = some x
  opcode : x.opcode ≠ 3

section
variable {s : State} {x : QDesc} {t a : Nat} (hx : s.dev.takes .admin 0x8C x) (hopen : s.dev.entryOpen .admin)
  (hbusy : s.dev.admissionBusy = false) (htake : s.dev.gov.takeUp = none) (ht : x.field 0x20 1 = t) (hempty : s.dev.Empty t)
  (ha : x.field 0x28 8 = a)
include hx hopen hbusy htake ht hempty ha

theorem exec_restore_vetoed {v : Byte × Byte} (hv : s.dev.recordVeto a = some v) (ecc : Ecc) :
    exec (.restore ecc) s = .next { s with dev := s.dev.begun.doneWith .admin x v.1 v.2 0 } := by
  obtain ⟨rest, hq, -, -⟩ := Device.takes_queued hx
  rw [exec_restore hx, restore_vetoed (d := s.dev.begun) hbusy htake ht hempty.begun ha ecc hv,
    Device.finish_eq (d := s.dev.begun) (k := .admin) v.1 v.2 0 hopen hq]

/-- A RESTORE whose record can be read, through a port that lets its lines through. -/
theorem exec_restore_read (hv : s.dev.recordVeto a = none) (hlines : ∀ o < recordBytes, o % 64 = 0 → s.dev.openLine (a + o))
    {p : Device} (hp : (s.dev.begun.pass 28 a recordBytes false).2 = p) : s.dev.begun.RecordRead p x ∧ ∀ ecc,
      exec (.restore ecc) s = .next { s with dev := p.descEcc .admin a ecc (restoreRecord t a) } := by
  obtain ⟨rest, hq, hop, -⟩ := Device.takes_queued hx
  obtain ⟨-, halign⟩ := Device.record_body (.inr hx)
  have hpass := Device.recordLines (ha ▸ halign) hlines
  obtain ⟨-, hoff, hbytes⟩ := Device.pass_open 28 hpass false
  rw [hp] at hoff hbytes
  have hq' : (p.ring .admin).queued = x :: rest :=
    (congrArg Ring.queued (Device.eq_of_offStores (·.ring .admin) (fun _ => rfl) hoff)).trans hq
  refine ⟨⟨hoff, hbytes, Device.entryOpen_of_offStores (d := s.dev.begun) (k := .admin) hoff hopen, congrArg List.head? hq', ?_⟩,
    fun ecc => ?_⟩
  · rw [hop]
    decide
  · rw [exec_restore hx, restore_read (d := s.dev.begun) hbusy htake ht hempty.begun ha ecc hv, Device.via_open 28 hpass false, hp]

end

section
variable {d p : Device} {x : QDesc} (h : d.RecordRead p x)
include h

namespace Device.RecordRead

theorem queued : ∃ rest, (p.ring .admin).queued = x :: rest := by
  obtain ⟨rest, hq⟩ := List.head?_eq_some_iff.1 h.queue
  exact ⟨rest, hq⟩

theorem finish (status detail : Byte) : p.finish .admin status detail 0 = p.doneWith .admin x status detail 0 := by
  obtain ⟨rest, hq⟩ := h.queued
  exact Device.finish_eq status detail 0 h.entry hq

theorem refuse (detail : Byte) : p.refuse .admin detail = p.doneWith .admin x St.refused detail 0 := by
  obtain ⟨rest, hq⟩ := h.queued
  exact Device.refuse_eq detail h.entry hq h.opcode

theorem coRead (a n : Nat) : p.coRead a n = d.coRead a n := h.bytes.coRead a n

theorem recordMatches (rc : List Byte) : p.recordMatches rc = d.recordMatches rc :=
  Device.eq_of_offStores (·.recordMatches rc) (fun _ => rfl) h.off

theorem linkImages (rc : List Byte) : p.linkImages rc = d.linkImages rc :=
  Device.eq_of_offStores (·.linkImages rc) (fun _ => rfl) h.off

theorem admin : p.admin = d.admin := Device.eq_of_offStores Device.admin (fun _ => rfl) h.off

theorem tenancies : p.tenancies = d.tenancies := Device.eq_of_offStores Device.tenancies (fun _ => rfl) h.off

theorem ctxs : p.ctxs = d.ctxs := Device.eq_of_offStores Device.ctxs (fun _ => rfl) h.off

/-- An uncorrectable word of the record ends RESTORE, and changes registers alone. -/
theorem uncorrectable {a i : Nat} (hm : d.inMemory a recordBytes = true) (hi : i < recordBytes) (f : Device → Device) :
    p.LowRegs (p.memUe (a + i)) ∧
      p.descEcc .admin a (.uncorrectable i) f = (p.memUe (a + i)).doneWith .admin x St.eccUncorr (d.eccDetail (a + i)) 0 := by
  obtain ⟨rest, hq⟩ := h.queued
  have hdetail : p.eccDetail (a + i) = d.eccDetail (a + i) := Device.eq_of_offStores (·.eccDetail (a + i)) (fun _ => rfl) h.off
  have hmem : p.inMemory a recordBytes = true := (Device.eq_of_offStores (·.inMemory a recordBytes) (fun _ => rfl) h.off).trans hm
  have hbench := Device.region_ne_bench_of_mem hmem hi
  exact ⟨Device.memUe_lowRegs hbench, hdetail ▸ Device.descEcc_uncorrectable h.entry hq hbench f⟩

end Device.RecordRead

variable {rc : List Byte} {a : Nat} (hrc : d.coRead a recordBytes = rc) (t : Nat)
include hrc

/-- A record whose magic, format or digest is wrong. -/
theorem restoreRecord_bad (hok : recordOk rc = false) :
    restoreRecord t a p = p.doneWith .admin x St.refused 0x49 0 := by
  rw [← h.refuse]
  unfold restoreRecord
  dsimp only
  rw [h.coRead, hrc, hok]
  rfl

/-- One whose contexts are not as recorded. -/
theorem restoreRecord_mismatch (hok : recordOk rc = true)
    (hmatch : d.recordMatches rc = false) :
    restoreRecord t a p = p.doneWith .admin x St.refused 0x48 0 := by
  rw [← h.refuse]
  unfold restoreRecord
  dsimp only
  rw [h.coRead, hrc, hok, h.recordMatches, hmatch]
  rfl

variable (hok : recordOk rc = true)
  (hmatch : d.recordMatches rc = true)
include hok hmatch

theorem restoreRecord_matches :
    restoreRecord t a p = p.restoreFrom t rc [] (d.linkImages rc) := by
  unfold restoreRecord
  dsimp only
  rw [h.coRead, hrc, hok, h.recordMatches, hmatch, h.linkImages]
  simp only [Bool.not_true, Bool.false_eq_true, if_false]

/-- One without an image behind a link, that does not rebuild the tenancy. -/
theorem restoreRecord_unbuilt {v : Byte} (himages : d.linkImages rc = [])
    (hv : p.rebuild [] t rc = .inl v) : restoreRecord t a p = p.doneWith .admin x St.refused v 0 := by
  rw [restoreRecord_matches h hrc t hok hmatch, himages, Device.restoreFrom, hv]
  exact h.refuse v

/-- One that does. -/
theorem restoreRecord_rebuilt {e : Device} (himages : d.linkImages rc = [])
    (he : p.rebuild [] t rc = .inr e) : restoreRecord t a p = e.doneWith .admin x St.ok 0 0 := by
  obtain ⟨rest, hq⟩ := h.queued
  obtain ⟨hoff, -, -⟩ := Device.rebuild_spec he
  have hadmin : e.ring .admin = p.ring .admin := Device.eq_of_offRebuilt Device.admin (fun _ => rfl) hoff
  rw [restoreRecord_matches h hrc t hok hmatch, himages, Device.restoreFrom, he]
  exact Device.finish_eq St.ok 0 0 (Device.entryOpen_admin_of_offRebuilt hoff h.entry) (hadmin ▸ hq)

/-- One whose first image behind a link is asked for. -/
theorem restoreRecord_link {b : Nat} {more : List Nat} {pc : Pc} {l : Nat}
    (himages : d.linkImages rc = b :: more) (hregion : d.region b = .outbound pc l)
    (hdown : d.readDown b = none) : restoreRecord t a p = (p.emitReads pc (.restore .admin) b 256).setRing .admin
      { d.admin with job := .restoring t rc [] (b :: more) [] } := by
  have hregion' : p.region b = .outbound pc l := (Device.eq_of_offStores (·.region b) (fun _ => rfl) h.off).trans hregion
  have hdown' : p.readDown b = none := (Device.eq_of_offStores (·.readDown b) (fun _ => rfl) h.off).trans hdown
  rw [restoreRecord_matches h hrc t hok hmatch, himages, Device.restoreFrom, hregion', hdown', ← h.admin]

end

/-! ### The log of written pages (R272, R273) -/

section
variable {s : State} {x : QDesc}

/-- A LOG descriptor that is taken up, by its op. -/
theorem actLive_onLog (hx : s.dev.takes .admin 0x8D x) {op : Nat} (hop : x.field 0x21 1 = op) (f : Device → QDesc → Device) :
    actLive s (fun d => d.onLog op f) = .next { s with dev := f s.dev.begun x } := by
  have hx' := Device.begun_takes hx
  have hhead : s.dev.begun.headOf .admin 0x8D = some x := hx'.2.1
  rw [actLive_eq _ hx.1]
  unfold Device.onLog
  rw [hhead]
  dsimp only
  rw [if_pos hop, Device.onHead_takes hx']

end

section
variable {d : Device} {x : QDesc} {t a : Nat} (ht : x.field 0x20 1 = t)
include ht

theorem logStart_refused (h : (d.ten t).on = false ∨ (d.ten t).log ≠ none) : logStart d x = d.refuse .admin 0x47 := by
  unfold logStart
  dsimp only
  rw [ht]
  exact if_pos (by simpa [Option.isSome_iff_ne_none] using h)

theorem logStart_eq (ha : x.field 0x28 8 = a) (hon : (d.ten t).on = true) (hlog : (d.ten t).log = none) : logStart d x =
    if d.bitmapOk t a then (d.setTen t { d.ten t with log := some a }).finish .admin St.ok 0 0 else d.refuse .admin 0x4B := by
  have hcond : ¬ ((!(d.ten t).on || (d.ten t).log.isSome) = true) := by simp [hon, hlog]
  unfold logStart
  dsimp only
  rw [ht, ha, if_neg hcond]
  cases d.bitmapOk t a <;> rfl

/-- A log that is replaced must be in force. -/
theorem logEnd_refused (h : (d.ten t).on = false ∨ (d.ten t).log = none) :
    logSwap d x = d.refuse .admin 0x47 ∧ logStop d x = d.refuse .admin 0x47 := by
  have hcond : (!(d.ten (x.field 0x20 1)).on || (d.ten (x.field 0x20 1)).log.isNone) = true := by
    rw [ht]
    simpa using h
  exact ⟨if_pos hcond, if_pos hcond⟩

/-- The bitmap of a log replaced by another, or by none. -/
def Device.logReplaced (d : Device) (t old : Nat) (new : Option Nat) : Device :=
  { d.setTen t { d.ten t with log := new } with admin := { d.admin with job := .logging t old d.nextId } }

variable {old : Nat} (hon : (d.ten t).on = true) (hlog : (d.ten t).log = some old)
include hon hlog

theorem logSwap_eq (ha : x.field 0x28 8 = a) :
    logSwap d x = if d.bitmapOk t a then d.logReplaced t old (some a) else d.refuse .admin 0x4B := by
  have hcond : ¬ ((!(d.ten t).on || (d.ten t).log.isNone) = true) := by simp [hon, hlog]
  unfold logSwap Device.retireLog
  dsimp only
  rw [ht, ha, if_neg hcond, hlog]
  cases d.bitmapOk t a <;> rfl

theorem logStop_eq : logStop d x = d.logReplaced t old none := by
  have hcond : ¬ ((!(d.ten t).on || (d.ten t).log.isNone) = true) := by simp [hon, hlog]
  unfold logStop Device.retireLog
  dsimp only
  rw [ht, if_neg hcond, hlog]
  rfl

end

/-- A replaced log is over once every write issued before has completed, and none of its bits waits. -/
theorem logSwapComplete_eq {d : Device} {t old mark : Nat} (hjob : d.admin.job = .logging t old mark) :
    let e := Device.flushBits d.bitmapHeld d
    logSwapComplete d =
      if d.writesBefore t mark = true ∨ (∃ b ∈ e.bitmapHeld, b.1 = old) ∨ e.entryHeld .admin = true then e
      else e.finish .admin St.ok 0 0 := by
  intro e
  have hwrites : e.writesBefore t mark = d.writesBefore t mark :=
    Device.eq_of_offStores (·.writesBefore t mark) (fun _ => rfl) (d.offStores_flushBits _)
  unfold logSwapComplete
  rw [hjob]
  dsimp only
  rw [← hwrites]
  refine if_congr ?_ rfl rfl
  simp [e, or_assoc]

/-! ### The commands at the head of the administrative ring -/

/-- A command of the administrative ring refused. -/
theorem exec_admin_refuses {s : State} {x : QDesc} {i : Instr} {op : Nat} {detail : Byte} (hopen : s.dev.entryOpen .admin)
    (hx : s.dev.takes .admin op x) (hop : op ≠ 3) (h : exec i s = .next { s with dev := s.dev.begun.refuse .admin detail }) :
    exec i s = .next { s with dev := s.dev.begun.doneWith .admin x St.refused detail 0 } := by
  obtain ⟨rest, hq, hop', -⟩ := Device.takes_queued hx
  rw [h, Device.refuse_eq (d := s.dev.begun) (k := .admin) detail hopen hq (by rwa [hop'])]

section
variable {s : State} {x : QDesc} {t a : Nat} (hx : s.dev.takes .admin 0x8D x) (hopen : s.dev.entryOpen .admin)
  (ht : x.field 0x20 1 = t)
include hx hopen ht

/-- A LOG whose tenancy is off, or whose log stands the other way. -/
theorem exec_log_state {op : Nat} (hop : x.field 0x21 1 = op) :
    (op = 1 → ((s.dev.ten t).on = false ∨ (s.dev.ten t).log ≠ none) →
      exec .logStart s = .next { s with dev := s.dev.begun.doneWith .admin x St.refused 0x47 0 }) ∧
    (op = 2 → ((s.dev.ten t).on = false ∨ (s.dev.ten t).log = none) →
      exec .logSwap s = .next { s with dev := s.dev.begun.doneWith .admin x St.refused 0x47 0 }) ∧
    (op = 3 → ((s.dev.ten t).on = false ∨ (s.dev.ten t).log = none) →
      exec .logStop s = .next { s with dev := s.dev.begun.doneWith .admin x St.refused 0x47 0 }) := by
  refine ⟨fun h hbad => ?_, fun h hbad => ?_, fun h hbad => ?_⟩ <;> subst h <;> refine exec_admin_refuses hopen hx (by decide) ?_
  · rw [← logStart_refused (d := s.dev.begun) ht hbad]
    exact actLive_onLog hx hop logStart
  · rw [← (logEnd_refused (d := s.dev.begun) ht hbad).1]
    exact actLive_onLog hx hop logSwap
  · rw [← (logEnd_refused (d := s.dev.begun) ht hbad).2]
    exact actLive_onLog hx hop logStop

theorem exec_logStart_begun (hop : x.field 0x21 1 = 1) (ha : x.field 0x28 8 = a) (hon : (s.dev.ten t).on = true)
    (hlog : (s.dev.ten t).log = none) :
    (s.dev.bitmapOk t a = true → exec .logStart s = .next { s with dev :=
      (s.dev.begun.setTen t { s.dev.ten t with log := some a }).doneWith .admin x St.ok 0 0 }) ∧
    (s.dev.bitmapOk t a = false →
      exec .logStart s = .next { s with dev := s.dev.begun.doneWith .admin x St.refused 0x4B 0 }) := by
  obtain ⟨rest, hq, -, -⟩ := Device.takes_queued hx
  have hexec := actLive_onLog hx hop logStart
  rw [logStart_eq (d := s.dev.begun) ht ha hon hlog] at hexec
  refine ⟨fun hok => ?_, fun hbad => exec_admin_refuses hopen hx (by decide) ?_⟩
  · have hok' : s.dev.begun.bitmapOk t a = true := hok
    have hopen' := Device.entryOpen_admin_congr (d := s.dev.begun)
      (s.dev.begun.setTen t { s.dev.ten t with log := some a }).tenancies s.dev.ctxs s.dev.outbound hopen
    rw [if_pos hok'] at hexec
    refine hexec.trans (congrArg (fun e => Host.Outcome.next { s with dev := e }) ?_)
    exact Device.finish_eq St.ok 0 0 hopen' hq
  · have hbad' : ¬ s.dev.begun.bitmapOk t a = true := Bool.eq_false_iff.1 hbad
    rw [if_neg hbad'] at hexec
    exact hexec

variable {old : Nat} (hon : (s.dev.ten t).on = true) (hlog : (s.dev.ten t).log = some old)
include hon hlog

theorem exec_logSwap_begun (hop : x.field 0x21 1 = 2) (ha : x.field 0x28 8 = a) :
    (s.dev.bitmapOk t a = true → exec .logSwap s = .next { s with dev := s.dev.begun.logReplaced t old (some a) }) ∧
    (s.dev.bitmapOk t a = false →
      exec .logSwap s = .next { s with dev := s.dev.begun.doneWith .admin x St.refused 0x4B 0 }) := by
  have hexec := actLive_onLog hx hop logSwap
  rw [logSwap_eq (d := s.dev.begun) ht hon hlog ha] at hexec
  refine ⟨fun hok => ?_, fun hbad => exec_admin_refuses hopen hx (by decide) ?_⟩
  · have hok' : s.dev.begun.bitmapOk t a = true := hok
    rw [if_pos hok'] at hexec
    exact hexec
  · have hbad' : ¬ s.dev.begun.bitmapOk t a = true := Bool.eq_false_iff.1 hbad
    rw [if_neg hbad'] at hexec
    exact hexec

omit hopen in
theorem exec_logStop_begun (hop : x.field 0x21 1 = 3) :
    exec .logStop s = .next { s with dev := s.dev.begun.logReplaced t old none } := by
  have hexec := actLive_onLog hx hop logStop
  rw [logStop_eq (d := s.dev.begun) ht hon hlog] at hexec
  exact hexec

end

theorem exec_logSwapComplete {s : State} {x : QDesc} {rest : List QDesc} {t old mark : Nat} (hlive : s.dev.live = true)
    (hopen : s.dev.entryOpen .admin) (hjob : s.dev.admin.job = .logging t old mark) (hq : s.dev.admin.queued = x :: rest)
    {e : Device} (he : Device.flushBits s.dev.begun.bitmapHeld s.dev.begun = e) {waits : Prop}
    (hwaits : waits ↔ s.dev.begun.writesBefore t mark = true ∨ (∃ b ∈ e.bitmapHeld, b.1 = old) ∨ e.entryHeld .admin = true) :
    (waits → exec .logSwapComplete s = .next { s with dev := e }) ∧
      (¬ waits → exec .logSwapComplete s = .next { s with dev := e.doneWith .admin x St.ok 0 0 }) := by
  have hoff : e.offStores = s.dev.begun.offStores := he ▸ Device.offStores_flushBits _ _
  have hexec : exec .logSwapComplete s = .next { s with dev := logSwapComplete s.dev.begun } := actLive_eq logSwapComplete hlive
  have hcomplete := logSwapComplete_eq (d := s.dev.begun) hjob
  dsimp only at hcomplete
  rw [he] at hcomplete
  refine ⟨fun hwait => ?_, fun hover => ?_⟩
  · rw [hexec, hcomplete, if_pos (hwaits.1 hwait)]
  · have hq' : (e.ring .admin).queued = x :: rest :=
      (congrArg Ring.queued (Device.eq_of_offStores (·.ring .admin) (fun _ => rfl) hoff)).trans hq
    rw [hexec, hcomplete, if_neg (mt hwaits.2 hover),
      Device.finish_eq St.ok 0 0 (Device.entryOpen_of_offStores (d := s.dev.begun) (k := .admin) hoff hopen) hq']

end Sys2Proof.Machine

/-!
PROOF. SAVE, RESTORE and LOG (O45), put together.
-/

namespace Sys2Proof.Machine

/-- What has just been written in memory reads back. -/
theorem Device.rd_coWrite {d e : Device} (hbytes : d.SameBytes e) (hoff : e.offStores = d.offStores) {a n : Nat} {bs : List Byte}
    (hlen : bs.length = n) : (e.coWrite a bs).rd a n = bs :=
  Device.Holds.rd ((Device.wrote_coWrite hoff hbytes a bs).holds [] bs [] (List.append_nil bs).symm rfl) hlen

/-- A save record written: RESTORE takes it, it names its tenancy, and no byte of memory outside it has changed. -/
theorem Device.recordWritten {d e : Device} (hbytes : d.SameBytes e) (hoff : e.offStores = d.offStores) {a t : Nat} (ha : a % 64 = 0) :
    recordOk ((e.coWrite a (d.saveRecord t)).rd a recordBytes) = true ∧
      fieldAt ((e.coWrite a (d.saveRecord t)).rd a recordBytes) 6 1 = t % 256 ∧
      ∀ b, b < a ∨ a + recordBytes ≤ b → memByte (e.coWrite a (d.saveRecord t)).mem b = memByte d.mem b := by
  obtain ⟨hok, hten⟩ := d.saveRecord_ok t
  have hlen := d.saveRecord_length t
  have hrd := Device.rd_coWrite hbytes hoff (a := a) hlen
  have hlines : (d.saveRecord t).length % 64 = 0 := by rw [hlen]; rfl
  exact ⟨by rw [hrd, hok], by rw [hrd, hten], fun b hb => Device.memByte_coWrite_out hbytes ha hlines (by rwa [hlen])⟩

/-! ### The obligation -/

/-- Settles O45: SAVE and RESTORE from the record's bytes and from what a rebuilt tenancy keeps, the log from its three commands. -/
theorem saveRestoreAndLog : Obligations.SaveRestoreAndLog := by
  intro s x d t a T refused hopen
  refine ⟨fun hx => ⟨fun hon hfrozen hveto hlines => ?_, fun hbad => ?_⟩, fun hx => ?_, fun hx => ?_,
    fun t old mark rest hlive hjob hq => ?_⟩
  · obtain ⟨e, hoff, hbytes, hexec⟩ := exec_save_written hx hopen rfl rfl hon hfrozen hveto hlines
    obtain ⟨-, halign⟩ := Device.record_body (.inl hx)
    obtain ⟨hok, hten, hout⟩ := Device.recordWritten hbytes hoff (t := t) halign
    have hkept : ∀ {α : Type} (f : Device → α), (∀ m : Device, f m.offStores = f m) →
        f (e.coWrite a (s.dev.saveRecord t)) = f s.dev.begun :=
      fun f hf => Device.eq_of_offStores f hf ((e.offStores_coWrite a _).trans hoff)
    exact ⟨e.coWrite a (s.dev.saveRecord t), _, hexec, rfl, hok, hten, hout, hkept Device.regs fun _ => rfl,
      hkept Device.tenancies fun _ => rfl, hkept Device.ctxs fun _ => rfl⟩
  · exact exec_admin_refuses hopen hx (by decide) (by rw [exec_save hx, save_refused (d := s.dev.begun) rfl hbad])
  · refine ⟨fun hwait ecc => ?_, fun hbusy htake => ⟨fun hbad ecc => ?_, fun hon hfrozen hwin hrings hctxs => ?_⟩⟩
    · rw [exec_restore hx, restore_waits (d := s.dev.begun) ecc hwait]
    · exact exec_admin_refuses hopen hx (by decide)
        (by rw [exec_restore hx, restore_refused (d := s.dev.begun) hbusy htake rfl ecc hbad])
    · have hempty : s.dev.Empty t := ⟨hon, hfrozen, hwin, hrings, hctxs⟩
      refine ⟨fun v hv => exec_restore_vetoed hx hopen hbusy htake rfl hempty rfl hv, fun hveto hlines => ?_⟩
      intro p rc ends
      obtain ⟨hread, hexec⟩ := exec_restore_read hx hopen hbusy htake rfl hempty rfl hveto hlines (p := p) rfl
      have hrc : s.dev.begun.coRead a recordBytes = rc := Device.SameBytes.coRead (d := s.dev) (e := s.dev.begun) ⟨rfl, rfl⟩ a recordBytes
      have hends : ∀ {m : Device} {e : Ecc} {status detail : Byte}, m.mem = p.mem → m.tenancies = p.tenancies → m.ctxs = p.ctxs →
          p.descEcc .admin a e (restoreRecord t a) = m.doneWith .admin x status detail 0 → ends e status detail :=
        fun hmem hten hctx hm => ⟨_, _, hexec _, hmem.trans hread.bytes.mem, hten.trans hread.tenancies, hctx.trans hread.ctxs, hm⟩
      refine ⟨fun i hi => ?_, fun hok => ?_, fun hok hmatch => ?_,
        fun hok hmatch => ⟨fun himages => ⟨fun v hv => ?_, fun e he => ?_⟩, ?_⟩⟩
      · obtain ⟨⟨⟨r, hr⟩, -⟩, hdone⟩ := hread.uncorrectable (Device.inMemory_of_recordVeto hveto) hi (restoreRecord t a)
        exact hends (by rw [hr]) (by rw [hr]) (by rw [hr]) hdone
      · exact hends rfl rfl rfl (restoreRecord_bad hread hrc t hok)
      · exact hends rfl rfl rfl (restoreRecord_mismatch hread hrc t hok hmatch)
      · rw [hexec, Device.descEcc_clean, restoreRecord_unbuilt hread hrc t hok hmatch himages hv]
      · obtain ⟨-, hwins, hgeo⟩ := Device.rebuild_spec he
        have hnone : (p.ten t).windows = [] := by rw [Device.ten, hread.tenancies]; exact hwin
        refine ⟨?_, fun w hw => ?_, fun r hr hset => ?_⟩
        · rw [hexec, Device.descEcc_clean, restoreRecord_rebuilt hread hrc t hok hmatch himages he]
        · rw [hwins w hw, hnone]
          exact Option.or_none
        · simpa [Ring.geometry, recordRing] using hgeo r hr hset
      · intro b more pc l himages hregion hdown
        exact (hexec .clean).trans (congrArg (fun e => Host.Outcome.next { s with dev := e })
          (restoreRecord_link hread hrc t hok hmatch himages hregion hdown))
  · refine ⟨fun hop => ⟨(exec_log_state hx hopen rfl hop).1 rfl, fun hon hlog => exec_logStart_begun hx hopen rfl hop rfl hon hlog⟩,
      fun hop => ⟨(exec_log_state hx hopen rfl hop).2.1 rfl, fun hon old hlog => exec_logSwap_begun hx hopen rfl hon hlog hop rfl⟩,
      fun hop => ⟨(exec_log_state hx hopen rfl hop).2.2 rfl, fun hon old hlog => exec_logStop_begun hx rfl hon hlog hop⟩⟩
  · exact exec_logSwapComplete hlive hopen hjob hq rfl Iff.rfl

end Sys2Proof.Machine

/-!
PROOF. Writes of SQ_TAIL and CQ_HEAD (O38): what the notices of a fault keep of the device, and what each write comes to.
-/

namespace Sys2Proof.Machine

/-! ### What notices keep (R268) -/

/-- What held notices that are written keep: the answer of the access, the count of the entries read from the administrative ring,
and every sticky bit of the host interface. -/
structure Device.Noticed (d e : Device) : Prop where
  answer : e.answer = d.answer
  cqHead : e.admin.cqHead = d.admin.cqHead
  sticky : ∀ b, d.regBit Reg.hifSticky b = true → e.regBit Reg.hifSticky b = true

namespace Device.Noticed

variable {d e f : Device}

theorem of_same (ha : e.answer = d.answer) (hc : e.admin.cqHead = d.admin.cqHead) (hr : e.regs = d.regs) : d.Noticed e :=
  ⟨ha, hc, fun b h => by rwa [Device.regBit, Device.reg, hr]⟩

theorem trans (h : d.Noticed e) (h' : e.Noticed f) : d.Noticed f :=
  ⟨h'.answer.trans h.answer, h'.cqHead.trans h.cqHead, fun b hb => h'.sticky b (h.sticky b hb)⟩

end Device.Noticed

section
variable (d : Device)

theorem Device.noticed_orReg (m : Nat) : d.Noticed (d.orReg Reg.hifSticky m) :=
  ⟨rfl, rfl, fun _ => d.regBit_orReg_of_set _ m⟩

theorem Device.noticed_notices (l : List Notice) : d.Noticed { d with notices := l } := .of_same rfl rfl rfl

theorem Device.noticed_signalAdmin : d.Noticed d.signalAdmin := by
  unfold Device.signalAdmin
  dsimp only
  repeat' split
  all_goals exact .of_same rfl rfl rfl

theorem Device.noticed_adminFault : d.Noticed d.adminFault :=
  .trans (e := { d with admin := { d.admin with state := .stopped } }) (.of_same rfl rfl rfl) (Device.noticed_orReg _ 2)

/-- An entry put on the administrative ring, or not. -/
theorem Device.noticed_putEntry (tags : List Byte) (status detail kind : Byte) (index : Half) (payload : List Byte) :
    d.Noticed (d.putEntry .admin tags status detail kind index payload).1 := by
  unfold Device.putEntry
  dsimp only
  split
  · next pc _ => cases pc <;> exact d.noticed_orReg _
  · split
    · have hwrite := Device.offLinks_ringWrite
        (d.setRing .admin { d.ring .admin with cqTail := (d.ring .admin).cqTail + 1 }) .admin (d.ring .admin).entryAt
        (entryBytes (d.ring .admin) tags status detail kind index payload)
      refine .trans (e := d.setRing .admin { d.ring .admin with cqTail := (d.ring .admin).cqTail + 1 }) (.of_same rfl rfl rfl) ?_
      exact .of_same (Device.eq_of_offLinks Device.answer (fun _ => rfl) hwrite)
        (congrArg Ring.cqHead (Device.eq_of_offLinks Device.admin (fun _ => rfl) hwrite))
        (Device.eq_of_offLinks Device.regs (fun _ => rfl) hwrite)
    · exact .of_same rfl rfl rfl

theorem Device.noticed_flushNotices (n : Nat) : d.Noticed (Device.flushNotices n d) := by
  induction n generalizing d with
  | zero => exact .of_same rfl rfl rfl
  | succ n ih =>
    rw [Device.flushNotices]
    split
    · exact .of_same rfl rfl rfl
    · next x rest _ =>
      have hput := d.noticed_putEntry (0xFF :: 0xFF :: List.replicate 22 0) x.status x.detail 0x04 0xFFFFFFFF x.payload
      dsimp only
      split
      · exact .of_same rfl rfl rfl
      · split
        · exact ((hput.trans (Device.noticed_notices _ rest)).trans (Device.noticed_signalAdmin _)).trans (ih _)
        · exact hput.trans (Device.noticed_adminFault _)

theorem Device.noticed_notice (n : Notice) : d.Noticed (d.notice n) :=
  (d.noticed_notices (d.notices ++ [n])).trans (Device.noticed_flushNotices _ _)

/-- A ring that runs is stopped by a fault: its counts stand, and a ring of a tenancy has the cause and the sticky bit. -/
theorem Device.ringFault_ring (k : RingRef) (cause : Byte) (h : (d.ring k).state = .running) :
    ((d.ringFault k cause).ring k = { d.ring k with state := .stopped } ∧ k = .admin) ∨
      ((d.ringFault k cause).ring k = { d.ring k with state := .stopped, cause := cause } ∧
        (d.ringFault k cause).regBit Reg.hifSticky 0 = true) := by
  cases k with
  | admin => exact .inl ⟨by rw [show d.ringFault .admin cause = d.adminFault from if_pos h]; rfl, rfl⟩
  | ring t r =>
    obtain ⟨n, hfault⟩ : ∃ n, d.ringFault (.ring t r) cause = ((d.setRing (.ring t r)
        { d.ring (.ring t r) with state := .stopped, cause := cause }).orReg Reg.hifSticky 1).notice n :=
      ⟨_, if_neg (not_not.2 h)⟩
    generalize ({ d.ring (.ring t r) with state := .stopped, cause := cause } : Ring) = x at hfault ⊢
    rw [hfault]
    have hbit : ∀ e : Device, (e.orReg Reg.hifSticky 1).regBit Reg.hifSticky 0 = true := fun e =>
      e.regBit_orReg Reg.hifSticky (k := 0) (by decide)
    refine .inr ⟨?_, (Device.noticed_notice _ n).sticky 0 (hbit _)⟩
    refine Eq.trans ?_ (d.ring_setRing (.ring t r) x)
    simp only [Device.ring, Device.ten, Device.notice_tenancies]
    rfl

end

/-! ### The two writes (R247) -/

section
variable {d : Device} {who : Who} {k : RingRef}

theorem Device.running_of_doorbellOpen (h : d.doorbellOpen who k = true) : (d.ring k).state = .running := by
  cases k with
  | admin => exact of_decide_eq_true h
  | ring t r =>
    simp only [Device.doorbellOpen, Bool.and_eq_true, decide_eq_true_eq] at h
    exact h.1.2

theorem Device.ring_begun_reply (d : Device) (x : Answer) (k : RingRef) : (d.begun.reply x).ring k = d.ring k :=
  Device.ring_congr k rfl rfl

theorem Device.setRing_notices (d : Device) (k : RingRef) (x : Ring) : (d.setRing k x).notices = d.notices := by cases k <;> rfl

theorem Device.doorbellOpen_begun_reply (d : Device) (x : Answer) :
    (d.begun.reply x).doorbellOpen who k = d.doorbellOpen who k := by cases k <;> rfl

end

section
variable {who : Who} {k : RingRef} {v : Half} {s : State} (hlive : s.dev.live = true) (hp : s.dev.present who = true)
include hlive hp

theorem exec_sqTailWrite_eq : exec (.sqTailWrite who k v) s = .next { s with dev := sqTailWrite s.dev.begun who k v } :=
  actBy_eq (fun d => sqTailWrite d who k v) hlive hp

theorem exec_cqHeadWrite_eq : exec (.cqHeadWrite who k v) s = .next { s with dev := cqHeadWrite s.dev.begun who k v } :=
  actBy_eq (fun d => cqHeadWrite d who k v) hlive hp

/-- A write that reaches no running ring is counted. -/
theorem exec_doorbell_dropped (h : s.dev.doorbellOpen who k = false) :
    ∀ i ∈ [Instr.sqTailWrite who k v, Instr.cqHeadWrite who k v],
      exec i s = .next { s with dev := (s.dev.begun.reply .written).dropDoorbell } := by
  have hclosed : !((s.dev.begun.reply .written).doorbellOpen who k) := by rw [Device.doorbellOpen_begun_reply, h]; rfl
  intro i hi
  simp only [List.mem_cons, List.not_mem_nil, or_false] at hi
  rcases hi with rfl | rfl
  · rw [exec_sqTailWrite_eq hlive hp]
    exact congrArg (fun m => Host.Outcome.next { s with dev := m }) (if_pos hclosed)
  · rw [exec_cqHeadWrite_eq hlive hp]
    exact congrArg (fun m => Host.Outcome.next { s with dev := m }) (if_pos hclosed)

section
variable (hopen : s.dev.doorbellOpen who k = true)
include hopen

theorem exec_sqTailWrite_open : exec (.sqTailWrite who k v) s = .next { s with dev :=
    (if 2 ^ (s.dev.ring k).n < (v - (s.dev.ring k).sqHead).toNat then (s.dev.begun.reply .written).ringFault k 0x01
    else (s.dev.begun.reply .written).setRing k { s.dev.ring k with sqTail := v }) } := by
  rw [exec_sqTailWrite_eq hlive hp, sqTailWrite]
  simp only [Device.doorbellOpen_begun_reply, Device.ring_begun_reply, hopen, Bool.not_true, Bool.false_eq_true, if_false]
  rfl

theorem exec_cqHeadWrite_open : exec (.cqHeadWrite who k v) s = .next { s with dev :=
    (if 2 ^ (s.dev.ring k).n < ((s.dev.ring k).cqTail - v).toNat then (s.dev.begun.reply .written).ringFault k 0x02
    else
      let d := (s.dev.begun.reply .written).setRing k { s.dev.ring k with cqHead := v }
      if k = .admin then Device.flushNotices d.notices.length d else d) } := by
  rw [exec_cqHeadWrite_eq hlive hp, cqHeadWrite]
  simp only [Device.doorbellOpen_begun_reply, Device.ring_begun_reply, hopen, Bool.not_true, Bool.false_eq_true, if_false]
  rfl

end

end

/-- A count taken for the administrative ring, behind which held notices are written. -/
theorem exec_cqHeadWrite_admin {who : Who} {v : Half} {s : State} (hlive : s.dev.live = true) (hp : s.dev.present who = true)
    (hopen : s.dev.doorbellOpen who .admin = true) (hle : ((s.dev.ring .admin).cqTail - v).toNat ≤ 2 ^ (s.dev.ring .admin).n) :
    exec (.cqHeadWrite who .admin v) s = .next { s with dev := (
      Device.flushNotices ((s.dev.begun.reply .written).setRing .admin { s.dev.ring .admin with cqHead := v }).notices.length
        ((s.dev.begun.reply .written).setRing .admin { s.dev.ring .admin with cqHead := v })) } := by
  rw [exec_cqHeadWrite_open hlive hp hopen, if_neg (Nat.not_lt.2 hle)]
  rfl

/-- A count out of reach is not taken, and its ring stops. -/
theorem Device.doorbellFault {d : Device} {who : Who} {k : RingRef} (h : d.doorbellOpen who k = true) (cause : Byte) :
    ((((d.begun.reply .written).ringFault k cause).ring k) = { d.ring k with state := .stopped } ∧ k = .admin) ∨
      (((d.begun.reply .written).ringFault k cause).ring k = { d.ring k with state := .stopped, cause := cause } ∧
        ((d.begun.reply .written).ringFault k cause).regBit Reg.hifSticky 0 = true) := by
  have hring := d.ring_begun_reply .written k
  have hrun := (congrArg Ring.state hring).trans (Device.running_of_doorbellOpen h)
  rw [← hring]
  exact Device.ringFault_ring _ k cause hrun

/-- Settles O38: each write through its check, a fault through what the notices keep. -/
theorem doorbellWrites : Obligations.DoorbellWrites := by
  intro who k v s hlive hp d r
  refine ⟨fun hopen => ⟨fun hle => ?_, fun hle hk => ?_, fun hle hk => ?_, fun hle hk hn => ?_, fun hlt => ?_, fun hlt => ?_⟩,
    fun hclosed => exec_doorbell_dropped hlive hp hclosed⟩
  · rw [exec_sqTailWrite_open hlive hp hopen, if_neg (Nat.not_lt.2 hle)]
  · obtain ⟨t, j, rfl⟩ := hk
    rw [exec_cqHeadWrite_open hlive hp hopen, if_neg (Nat.not_lt.2 hle)]
    rfl
  · subst hk
    rw [exec_cqHeadWrite_admin hlive hp hopen hle]
    exact ⟨_, rfl, Device.noticed_flushNotices _ _ |>.cqHead, Device.noticed_flushNotices _ _ |>.answer⟩
  · subst hk
    rw [exec_cqHeadWrite_admin hlive hp hopen hle, Device.setRing_notices, Device.reply_notices, show s.dev.begun.notices = [] from hn]
    rfl
  · refine ⟨_, exec_sqTailWrite_open hlive hp hopen, ?_⟩
    rw [if_pos hlt]
    obtain ⟨hring, hk⟩ | ⟨hring, hsticky⟩ := Device.doorbellFault hopen 0x01
    · rw [hring]
      exact ⟨rfl, rfl, fun h => absurd hk h⟩
    · rw [hring]
      exact ⟨rfl, rfl, fun _ => ⟨rfl, hsticky⟩⟩
  · refine ⟨_, exec_cqHeadWrite_open hlive hp hopen, ?_⟩
    rw [if_pos hlt]
    obtain ⟨hring, hk⟩ | ⟨hring, hsticky⟩ := Device.doorbellFault hopen 0x02
    · rw [hring]
      exact ⟨rfl, rfl, fun h => absurd hk h⟩
    · rw [hring]
      exact ⟨rfl, rfl, fun _ => ⟨rfl, hsticky⟩⟩

end Sys2Proof.Machine

/-!
PROOF. The administrative ring and the commands that build a tenancy (O43): the two writes of HIF_ADMIN_CTRL, and what each command comes to
at the head of the ring.
-/

namespace Sys2Proof.Machine

/-! ### HIF_ADMIN_CTRL (R265, R280) -/

/-- The first bit of a half and of its word. -/
theorem bitOf_wordOf_zero (v : Half) : bitOf (wordOf v) 0 = v.getLsbD 0 := by simp [bitOf, wordOf]

/-- A mask of one bit cleared from a register. -/
theorem Device.regBit_clrReg (d : Device) (a : Nat) {k : Nat} (hk : k < 64) : (d.clrReg a (2 ^ k)).regBit a k = false := by
  have hbit := bitOf_twoPow hk
  unfold bitOf at hbit
  rw [Device.regBit, Device.clrReg, Device.reg_setReg, bitOf, BitVec.getLsbD_and, BitVec.getLsbD_not, hbit]
  simp

section
variable {d : Device} {v : Half}

/-- The ring as an enable starts it, with the bases that stand in its registers. -/
def Device.adminRunning (d : Device) (v : Half) : Device :=
  { d.setReg Reg.hifAdminCtrl ((wordOf v &&& 0xF30) ||| 1) with admin := { Ring.unset with
      n := bitsAt (wordOf v) 8 4, sqBase := (d.reg Reg.hifAdminSqBase).toNat
      cqBase := (d.reg Reg.hifAdminCqBase).toNat, state := .running } }

/-- An enable of a disabled ring takes the settings, and starts the ring where they keep R280. -/
theorem adminRingEnable_disabled (hoff : d.regBit Reg.hifAdminCtrl 0 = false) (hv : v.getLsbD 0 = true) (hn : d.notices = []) :
    adminRingEnable d v = if d.adminSettingsOk v then (d.reply .written).adminRunning v
      else (d.reply .written).setReg Reg.hifAdminCtrl (wordOf v &&& 0xF30) := by
  have hoff' : (d.reply .written).regBit Reg.hifAdminCtrl 0 = false := hoff
  have hok : (d.reply .written).adminSettingsOk v = d.adminSettingsOk v := rfl
  have hsq : Reg.hifAdminSqBase ≠ Reg.hifAdminCtrl := by decide
  have hcq : Reg.hifAdminCqBase ≠ Reg.hifAdminCtrl := by decide
  have hnone : (d.reply .written).notices.length = 0 := by rw [Device.reply_notices, hn, List.length_nil]
  unfold adminRingEnable
  simp only [hoff', bitOf_wordOf_zero, hv, hok, Bool.not_true, Bool.or_self, Bool.false_eq_true, if_false, Device.setReg_notices, hnone,
    Device.reg_setReg_ne _ _ hsq, Device.reg_setReg_ne _ _ hcq]
  cases d.adminSettingsOk v <;> rfl

/-- The ring as a disable leaves it, with its counts as they stand. -/
def Device.adminDisabled (d : Device) : Device :=
  { d.clrReg Reg.hifAdminCtrl 1 with admin := { Ring.unset with
      n := d.admin.n, sqBase := d.admin.sqBase, cqBase := d.admin.cqBase, sqTail := d.admin.sqTail, sqHead := d.admin.sqHead
      cqHead := d.admin.cqHead, cqTail := d.admin.cqTail } }

/-- The settings stand, and nothing else changes but the reads that the ring waited for. -/
theorem Device.adminDisabled_spec (d : Device) :
    (d.adminDisabled.dropReads .admin).regBit Reg.hifAdminCtrl 0 = false ∧
      ∀ a ≠ Reg.hifAdminCtrl, (d.adminDisabled.dropReads .admin).reg a = d.reg a := by
  have hreg : (d.adminDisabled.dropReads .admin).reg = (d.clrReg Reg.hifAdminCtrl (2 ^ 0)).reg := rfl
  rw [Device.regBit, hreg]
  exact ⟨d.regBit_clrReg Reg.hifAdminCtrl (by decide), fun a ha => d.reg_setReg_ne _ ha⟩

theorem adminRingDisable_enabled (hon : d.regBit Reg.hifAdminCtrl 0 = true) (hv : v.getLsbD 0 = false) :
    adminRingDisable d v = (d.reply .written).adminDisabled.dropReads .admin := by
  have hon' : (d.reply .written).regBit Reg.hifAdminCtrl 0 = true := hon
  unfold adminRingDisable
  simp only [hon', bitOf_wordOf_zero, hv, Bool.false_eq_true, if_false, if_true]
  rfl

end

section
variable {who : Who} {v : Half} {s : State} (hlive : s.dev.live = true) (hp : s.dev.present who = true)
include hlive hp

theorem exec_adminRingEnable : exec (.adminRingEnable who v) s = .next { s with dev := adminRingEnable s.dev.begun v } :=
  actBy_eq (adminRingEnable · v) hlive hp

theorem exec_adminRingDisable : exec (.adminRingDisable who v) s = .next { s with dev := adminRingDisable s.dev.begun v } :=
  actBy_eq (adminRingDisable · v) hlive hp

end

/-! ### A ring given up and set -/

/-- The device with the reads of a ring dropped and the ring replaced. -/
def Device.resetRing (d : Device) (k : RingRef) (y : Ring) : Device := (d.dropReads k).setRing k y

section
variable (d : Device) (t r : Nat) (y : Ring)

/-- What it replaces: the tenancies and what the links owe. -/
theorem Device.resetRing_only : ∃ T O, d.resetRing (ringRefOf t r) y = { d with tenancies := T, outbound := O } := ⟨_, _, rfl⟩

theorem Device.resetRing_mem : (d.resetRing (ringRefOf t r) y).mem = d.mem := rfl
theorem Device.resetRing_regs : (d.resetRing (ringRefOf t r) y).regs = d.regs := rfl

theorem Device.ring_resetRing : (d.resetRing (ringRefOf t r) y).ring (ringRefOf t r) = y := Device.ring_setRing _ _ _

theorem Device.ring_resetRing_ne {k : RingRef} (hk : k ≠ ringRefOf t r) : (d.resetRing (ringRefOf t r) y).ring k = d.ring k :=
  Device.ring_setRing_ne _ _ hk

end

/-! ### What each command comes to -/

section
variable {d : Device} {x : QDesc} {t i : Nat} (ht : x.field 0x20 1 = t)
include ht

theorem tenancyOn_off (h : (d.ten t).on = false) : tenancyOn d x = (d.setTen t { Tenancy.off with
      on := true, target := BitVec.ofNat 2 (x.field 0x21 1)
      vector := if x.field 0x21 1 = 0 then 0 else BitVec.ofNat 5 (x.field 0x22 1) }).finish .admin St.ok 0 0 := by
  simp only [tenancyOn, ht, h, Bool.false_eq_true, if_false, apply_ite (BitVec.ofNat 5)]
  rfl

theorem tenancyOn_on (h : (d.ten t).on = true) : tenancyOn d x = d.refuse .admin 0x47 := by
  simp only [tenancyOn, ht, h, if_true]

theorem tenancyOff_idle (hon : (d.ten t).on = true) (hctxs : d.ctxsOf t = []) (hlog : (d.ten t).log = none)
    (hq : (d.ten t).queued = false) : tenancyOff d x = (d.setTen t Tenancy.off).finish .admin St.ok 0 0 := by
  simp [tenancyOff, ht, hon, hctxs, hlog, hq]

theorem tenancyOff_busy (h : (d.ten t).on = false ∨ d.ctxsOf t ≠ [] ∨ (d.ten t).log.isSome = true ∨ (d.ten t).queued = true) :
    tenancyOff d x = d.refuse .admin 0x47 := by
  unfold tenancyOff
  rw [ht]
  exact if_pos (by simpa [or_assoc] using h)

section
variable (hi : x.field 0x21 1 = i) (hadmitting : (d.ten t).admitting = false)
include hi hadmitting

omit hi in
theorem setWindow_off (hoff : (d.ten t).on = false) : setWindow d x = d.refuse .admin 0x47 := by
  simp [setWindow, ht, hadmitting, hoff]

section
variable (hon : (d.ten t).on = true)
include hon

theorem setWindow_used (huse : d.windowInUse t i = true) : setWindow d x = d.refuse .admin 0x46 := by
  simp [setWindow, ht, hi, hadmitting, hon, huse]

theorem clearWindow_used (huse : d.windowInUse t i = true) : clearWindow d x = d.refuse .admin 0x46 := by
  simp [clearWindow, ht, hi, hadmitting, hon, huse]

theorem clearWindow_free (huse : d.windowInUse t i = false) : clearWindow d x =
    (d.setTen t { d.ten t with windows := tdel (d.ten t).windows i }).finish .admin St.ok 0 0 := by
  simp [clearWindow, ht, hi, hadmitting, hon, huse]

theorem setWindow_unplaced (huse : d.windowInUse t i = false) (hbad : d.windowAllowed t i (windowOf x) = false) :
    setWindow d x = d.refuse .admin 0x45 := by
  simp [setWindow, ht, hi, hadmitting, hon, huse, hbad]

theorem setWindow_placed (huse : d.windowInUse t i = false) (hok : d.windowAllowed t i (windowOf x) = true) : setWindow d x =
    (d.setTen t { d.ten t with windows := tput (d.ten t).windows i (windowOf x) }).finish .admin St.ok 0 0 := by
  simp [setWindow, ht, hi, hadmitting, hon, huse, hok]

end

end

section
variable (hi : x.field 0x21 1 = i)
include hi

section
variable (hon : (d.ten t).on = true) (hbound : d.ringBound (ringRefOf t i) = false) (hq : (d.ring (ringRefOf t i)).queued = [])
include hon hbound hq

theorem setRingPair_unplaced (h : d.ringPlaced t (x.field 0x22 1) (x.field 0x28 8) (x.field 0x30 8) = false) :
    setRingPair d x = d.refuse .admin 0x45 := by
  simp [setRingPair, ht, hi, hon, hbound, hq, h]

theorem setRingPair_placed (h : d.ringPlaced t (x.field 0x22 1) (x.field 0x28 8) (x.field 0x30 8) = true) :
    setRingPair d x = (d.resetRing (ringRefOf t i) { Ring.unset with
      n := x.field 0x22 1, sqBase := x.field 0x28 8, cqBase := x.field 0x30 8
      state := if i = 0 then .running else .stopped }).finish .admin St.ok 0 0 := by
  simp [setRingPair, ht, hi, hon, hbound, hq, h, Device.resetRing]

end

theorem restartRing_stopped (hon : (d.ten t).on = true) (hstate : (d.ring (ringRefOf t i)).state = .stopped)
    (hcause : (d.ring (ringRefOf t i)).cause ≠ 0) : restartRing d x = (d.resetRing (ringRefOf t i) { d.ring (ringRefOf t i) with
      state := .running, sqHead := (d.ring (ringRefOf t i)).sqTail }).finish .admin St.ok 0 0 := by
  simp only [restartRing, ht, hi, hon, hstate, hcause, Bool.not_true, ne_eq, not_true_eq_false, decide_false, Bool.or_self,
    Bool.false_eq_true, if_false]
  rfl

theorem restartRing_refused (h : (d.ten t).on = false ∨ (d.ring (ringRefOf t i)).state ≠ .stopped ∨
    (d.ring (ringRefOf t i)).cause = 0) : restartRing d x = d.refuse .admin 0x47 := by
  unfold restartRing
  rw [ht, hi]
  exact if_pos (by simpa [or_assoc] using h)

end

end

/-! ### The commands at the head of the administrative ring -/

section
variable {s : State} {x : QDesc}

theorem exec_tenancyOn (hx : s.dev.takes .admin 0x81 x) : exec .tenancyOn s = .next { s with dev := tenancyOn s.dev.begun x } :=
  actLive_onHead hx tenancyOn

theorem exec_tenancyOff (hx : s.dev.takes .admin 0x82 x) : exec .tenancyOff s = .next { s with dev := tenancyOff s.dev.begun x } :=
  actLive_onHead hx tenancyOff

theorem exec_setWindow (hx : s.dev.takes .admin 0x83 x) : exec .setWindow s = .next { s with dev := setWindow s.dev.begun x } :=
  actLive_onHead hx setWindow

theorem exec_clearWindow (hx : s.dev.takes .admin 0x84 x) : exec .clearWindow s = .next { s with dev := clearWindow s.dev.begun x } :=
  actLive_onHead hx clearWindow

theorem exec_setRing (hx : s.dev.takes .admin 0x85 x) : exec .setRing s = .next { s with dev := setRingPair s.dev.begun x } :=
  actLive_onHead hx setRingPair

theorem exec_restartRing (hx : s.dev.takes .admin 0x86 x) : exec .restartRing s = .next { s with dev := restartRing s.dev.begun x } :=
  actLive_onHead hx restartRing

/-- A command that has changed the tenancies and what the links owe completes with status OK. -/
theorem exec_admin_done {i : Instr} {op : Nat} {m : Device} (T : Table Tenancy) (O : List Outbound)
    (hm : m = { s.dev.begun with tenancies := T, outbound := O }) (hopen : s.dev.entryOpen .admin) (hx : s.dev.takes .admin op x)
    (h : exec i s = .next { s with dev := m.finish .admin St.ok 0 0 }) :
    exec i s = .next { s with dev := m.doneWith .admin x St.ok 0 0 } := by
  obtain ⟨rest, hq, -, -⟩ := Device.takes_queued hx
  subst hm
  have hopen' := Device.entryOpen_admin_congr (d := s.dev.begun) T s.dev.begun.ctxs O hopen
  rw [h, Device.finish_eq (k := .admin) St.ok 0 0 hopen' hq]

/-- A command that has set a ring anew. -/
theorem exec_admin_ring {i : Instr} {op t r : Nat} {y : Ring} (hopen : s.dev.entryOpen .admin) (hx : s.dev.takes .admin op x)
    (h : exec i s = .next { s with dev := (s.dev.begun.resetRing (ringRefOf t r) y).finish .admin St.ok 0 0 }) :
    ∃ (m : Device) (n : State), exec i s = .next n ∧ n.dev = m.doneWith .admin x St.ok 0 0 ∧ m.mem = s.dev.mem ∧
      m.regs = s.dev.regs ∧ (∀ k ≠ ringRefOf t r, m.ring k = s.dev.ring k) ∧ m.ring (ringRefOf t r) = y := by
  obtain ⟨T, O, honly⟩ := s.dev.begun.resetRing_only t r y
  exact ⟨_, _, exec_admin_done T O honly hopen hx h, rfl, s.dev.begun.resetRing_mem t r y,
    s.dev.begun.resetRing_regs t r y, fun k hk => s.dev.begun.ring_resetRing_ne t r y hk, s.dev.begun.ring_resetRing t r y⟩

end

/-! ### The obligation -/

/-- Settles O43: the writes of HIF_ADMIN_CTRL, and each command through what it comes to. -/
theorem adminTenancies : Obligations.AdminTenancies := by
  intro s d
  refine ⟨fun who v hlive hp => ⟨fun hoff hv hn => ⟨fun hok => ?_, fun hbad => ?_⟩, fun hon hv => ?_⟩, fun hopen x => ?_⟩
  · rw [exec_adminRingEnable hlive hp, adminRingEnable_disabled (d := s.dev.begun) hoff hv hn]
    exact congrArg (fun m => Host.Outcome.next { s with dev := m }) (if_pos hok)
  · rw [exec_adminRingEnable hlive hp, adminRingEnable_disabled (d := s.dev.begun) hoff hv hn]
    exact congrArg (fun m => Host.Outcome.next { s with dev := m }) (if_neg (Bool.eq_false_iff.1 hbad))
  · refine ⟨_, exec_adminRingDisable hlive hp, ?_⟩
    rw [adminRingDisable_enabled (d := s.dev.begun) hon hv]
    obtain ⟨hoff, hregs⟩ := (s.dev.begun.reply .written).adminDisabled_spec
    exact ⟨rfl, hoff, rfl, rfl, rfl, hregs⟩
  intro t i T k done refused
  have hrefused : ∀ {c : Instr} {op : Nat} {v : Byte} {m : Device}, s.dev.takes .admin op x → op ≠ 3 →
      exec c s = .next { s with dev := m } → m = d.refuse .admin v → refused c v :=
    fun hx hop h hm => exec_admin_refuses hopen hx hop (hm ▸ h)
  have hdone : ∀ {c : Instr} {op : Nat} {y : Tenancy} {m : Device}, s.dev.takes .admin op x →
      exec c s = .next { s with dev := m } → m = (d.setTen t y).finish .admin St.ok 0 0 → done c (d.setTen t y) :=
    fun hx h hm => exec_admin_done _ s.dev.outbound rfl hopen hx (hm ▸ h)
  refine ⟨fun hx => ⟨fun hoff => ?_, fun hon => ?_⟩, fun hx => ⟨fun hon hctxs hlog hqueued => ?_, fun hbusy => ?_⟩,
    fun hx hadm => ⟨fun hon huse hok => ?_, fun hoff => ?_, fun hon huse => ?_, fun hon huse hbad => ?_⟩,
    fun hx hadm => ⟨fun hon huse => ?_, fun hon huse => ?_⟩, fun hx hon hbound hq => ⟨fun hok => ?_, fun hbad => ?_⟩,
    fun hx => ⟨fun hon hstate hcause => ?_, fun hbad => ?_⟩⟩
  · exact hdone hx (exec_tenancyOn hx) (tenancyOn_off rfl hoff)
  · exact hrefused hx (by decide) (exec_tenancyOn hx) (tenancyOn_on rfl hon)
  · exact hdone hx (exec_tenancyOff hx) (tenancyOff_idle rfl hon hctxs hlog hqueued)
  · exact hrefused hx (by decide) (exec_tenancyOff hx) (tenancyOff_busy rfl hbusy)
  · exact hdone hx (exec_setWindow hx) (setWindow_placed rfl rfl hadm hon huse hok)
  · exact hrefused hx (by decide) (exec_setWindow hx) (setWindow_off rfl hadm hoff)
  · exact hrefused hx (by decide) (exec_setWindow hx) (setWindow_used rfl rfl hadm hon huse)
  · exact hrefused hx (by decide) (exec_setWindow hx) (setWindow_unplaced rfl rfl hadm hon huse hbad)
  · exact hdone hx (exec_clearWindow hx) (clearWindow_free rfl rfl hadm hon huse)
  · exact hrefused hx (by decide) (exec_clearWindow hx) (clearWindow_used rfl rfl hadm hon huse)
  · exact exec_admin_ring hopen hx (setRingPair_placed (d := d) rfl rfl hon hbound hq hok ▸ exec_setRing hx)
  · exact hrefused hx (by decide) (exec_setRing hx) (setRingPair_unplaced rfl rfl hon hbound hq hbad)
  · exact exec_admin_ring hopen hx (restartRing_stopped (d := d) rfl rfl hon hstate hcause ▸ exec_restartRing hx)
  · exact hrefused hx (by decide) (exec_restartRing hx) (restartRing_refused rfl rfl hbad)

end Sys2Proof.Machine

/-!
PROOF. The end of an outbound read (O47): a timeout gives up the reads of one owner, and no other read of that number.
-/

namespace Sys2Proof.Machine

/-- Two outbound reads of one number: that of a transfer of context 0, and that of a hart. -/
def twinReads : List Outbound :=
  [{ id := 0, pc := .a, owner := .transfer 0 0 0, addr := 0, bytes := 64, issued := 0, got := none },
   { id := 0, pc := .a, owner := .hart (.host 0), addr := 0, bytes := 8, issued := 0, got := none }]

/-- A live device, its timeouts long passed, that waits for both while context 0 runs. -/
def twinReadState : State where
  dev := { Device.reset with
    power := { Power.reset with phase := .up }
    alm := { Device.reset.alm with ticks := 2 ^ 32 }
    ctxs := [(0, { Ctx.closed with st := .opened, run := some misnumberedRun })]
    outbound := twinReads }
  pending := []

/-- The timeout of the first leaves the second waiting. -/
theorem outboundTimeout_twinReadState : ∃ t, exec (.outboundTimeout 0) twinReadState = .next t ∧ t.dev.outbound = twinReads.drop 1 :=
  ⟨_, rfl, by decide⟩

/-- Refutes O47: the statement says that no read of the number is left after a timeout, where the model gives up the reads of the
owner (`Device.outFailed`). Numbers are given once, but the statement does not ask it of its state, only that the owner has no read of
another number: in `twinReadState` two owners have a read of number 0, and the second's stays. -/
theorem not_pcieEvents : ¬ Obligations.PcieEvents := by
  intro h
  obtain ⟨-, -, -, -, hend⟩ := h twinReadState (by decide)
  obtain ⟨-, -, -, -, htimeout⟩ := hend 0 [] twinReads[0] rfl
  obtain ⟨t, ht, hgone, -⟩ := htimeout (by decide) 0 0 misnumberedRun rfl (by decide) rfl rfl
  obtain ⟨t', ht', hleft⟩ := outboundTimeout_twinReadState
  obtain rfl : t = t' := Host.Outcome.next.inj (ht.symm.trans ht')
  exact hgone twinReads[1] (by rw [hleft]; decide) rfl

end Sys2Proof.Machine

/-!
PROOF. Inbound requests (O48): a request turned away and what it records, and a memory request that its port lets through.
-/

namespace Sys2Proof.Machine

/-! ### What changes registers alone -/

/-- The device without its registers. -/
def Device.offRegs (d : Device) : Device := { d with regs := [] }

/-- Devices that differ in these alone agree in whatever does not look at them. -/
theorem Device.eq_of_offRegs {α : Type} (f : Device → α) (hf : ∀ x : Device, f x.offRegs = f x) {d e : Device}
    (h : e.offRegs = d.offRegs) : f e = f d := by
  rw [← hf e, h, hf]

section
variable (d : Device)

theorem Device.offRegs_recordIf (c : Bool) (a : Nat) (v : Word) : (d.recordIf c a v).offRegs = d.offRegs := by cases c <;> rfl

theorem Device.offRegs_memCe (a : Nat) : (d.memCe a).offRegs = d.offRegs := by
  unfold Device.memCe
  split <;> rfl

/-- Corrected words are counted in registers. -/
theorem Device.offRegs_memCes (a : Nat) (l : List Nat) : (d.memCes a l).offRegs = d.offRegs :=
  List.foldlRecOn l _ (motive := fun e : Device => e.offRegs = d.offRegs) rfl fun e he i _ => (e.offRegs_memCe (a + i)).trans he

theorem Device.offRegs_ueRecorded (first : Bool) (A T S k : Nat) (v : Word) :
    (d.ueRecorded first A T S k v).offRegs = d.offRegs :=
  ((d.recordIf first A v).offRegs_recordIf first T _).trans (d.offRegs_recordIf first A v)

/-- An uncorrectable word of a memory is recorded in registers, and latched. -/
theorem Device.memUe_memory {a : Nat} (h : (∃ half, d.region a = .ddr half) ∨ ∃ b, d.region a = .quarry b) :
    (d.memUe a).offRegs = d.offRegs ∧ (d.memUe a).regBit Reg.safFaultLatch 9 = true := by
  have hlatch : ∀ e : Device, (e.latch 9).regBit Reg.safFaultLatch 9 = true := fun e => e.regBit_orReg _ (by decide)
  obtain ⟨half, h⟩ | ⟨b, h⟩ := h
  · rw [Device.memUe_ddr h]
    exact ⟨Device.offRegs_ueRecorded .., hlatch _⟩
  · rw [Device.memUe_quarry h]
    exact ⟨Device.offRegs_ueRecorded .., hlatch _⟩

end

/-! ### A request turned away (R279) -/

/-- What the bridge records of a request that it turns away. -/
def Device.rejectRecorded (d : Device) (pc : Pc) (q : Inbound) (a cause : Nat) : Device :=
  let first := decide (d.fld Reg.hifSticky 4 2 = 0)
  let e := d.recordIf first Reg.hifBridgeRecord
    (BitVec.ofNat 64 ((if q.kind = .write then 2 ^ 63 else 0) + pcIndex pc * 2 ^ 62 + cause * 2 ^ 48 + a % 2 ^ 48))
  (e.recordIf first Reg.hifBridgeTime e.ns).orReg Reg.hifSticky (2 ^ (4 + pcIndex pc))

section
variable (d : Device) (pc : Pc) (q : Inbound) (a cause : Nat)

theorem Device.rejectInbound_eq : d.rejectInbound pc q a cause =
    if q.posted then (d.rejectRecorded pc q a cause).raise (265 + 2 * pcIndex pc)
    else (d.rejectRecorded pc q a cause).emit (.completion pc (if cause = 3 then cplUnsupported else cplAbort) []) := rfl

theorem Device.offRegs_rejectRecorded : (d.rejectRecorded pc q a cause).offRegs = d.offRegs :=
  (Device.offRegs_recordIf _ _ Reg.hifBridgeTime _).trans (d.offRegs_recordIf _ Reg.hifBridgeRecord _)

/-- The controller's bit is set, and the record is that of the first request turned away. -/
theorem Device.rejectRecorded_spec :
    (d.rejectRecorded pc q a cause).regBit Reg.hifSticky (4 + pcIndex pc) = true ∧
      (d.rejectRecorded pc q a cause).reg Reg.hifBridgeRecord = if d.fld Reg.hifSticky 4 2 = 0 then BitVec.ofNat 64
        ((if q.kind = .write then 2 ^ 63 else 0) + pcIndex pc * 2 ^ 62 + cause * 2 ^ 48 + a % 2 ^ 48)
        else d.reg Reg.hifBridgeRecord := by
  have hindex : pcIndex pc < 2 := by cases pc <;> decide
  refine ⟨Device.regBit_orReg _ _ (by omega), ?_⟩
  unfold Device.rejectRecorded
  dsimp only
  rw [Device.orReg, Device.reg_setReg_ne _ _ (by decide)]
  by_cases hfirst : d.fld Reg.hifSticky 4 2 = 0
  · simp only [hfirst, decide_true, Device.recordIf, if_true]
    rw [Device.reg_setReg_ne _ _ (by decide), Device.reg_setReg]
  · simp only [hfirst, decide_false, Device.recordIf, Bool.false_eq_true, if_false]

/-- A request turned away by a device that has sent nothing. -/
theorem Device.rejectInbound_spec {q} (hsent : d.sent = []) :
    let e := d.rejectInbound pc q a cause
    e.mem = d.mem ∧ e.ctxs = d.ctxs ∧ e.tenancies = d.tenancies ∧ e.regBit Reg.hifSticky (4 + pcIndex pc) = true ∧
      (q.posted = false → e.sent = [.completion pc (if cause = 3 then cplUnsupported else cplAbort) []]) ∧
      (q.posted = true → (265 + 2 * pcIndex pc) ∈ e.herald.raised) ∧
      (d.fld Reg.hifSticky 4 2 = 0 → e.reg Reg.hifBridgeRecord = BitVec.ofNat 64
        ((if q.kind = .write then 2 ^ 63 else 0) + pcIndex pc * 2 ^ 62 + cause * 2 ^ 48 + a % 2 ^ 48)) ∧
      (d.fld Reg.hifSticky 4 2 ≠ 0 → e.reg Reg.hifBridgeRecord = d.reg Reg.hifBridgeRecord) := by
  have hkept : ∀ {α : Type} (f : Device → α), (∀ x : Device, f x.offRegs = f x) → f (d.rejectRecorded pc q a cause) = f d :=
    fun f hf => Device.eq_of_offRegs f hf (d.offRegs_rejectRecorded pc q a cause)
  obtain ⟨hbit, hrecord⟩ := d.rejectRecorded_spec pc q a cause
  intro e
  have he : e = _ := d.rejectInbound_eq pc q a cause
  cases hp : q.posted
  · rw [he, hp]
    refine ⟨hkept Device.mem fun _ => rfl, hkept Device.ctxs fun _ => rfl, hkept Device.tenancies fun _ => rfl, hbit, fun _ => ?_,
      nofun, fun h => hrecord.trans (if_pos h), fun h => hrecord.trans (if_neg h)⟩
    exact congrArg (· ++ [_]) ((hkept Device.sent fun _ => rfl).trans hsent)
  · rw [he, hp]
    exact ⟨hkept Device.mem fun _ => rfl, hkept Device.ctxs fun _ => rfl, hkept Device.tenancies fun _ => rfl, hbit, nofun,
      fun _ => (Device.mem_raised_raise _ _ _).2 (.inl rfl), fun h => hrecord.trans (if_pos h), fun h => hrecord.trans (if_neg h)⟩

end

/-! ### The course of a request -/

/-- A chunk noted of a twin's peer changes that link alone. -/
theorem Device.noteChunk_only (d : Device) (pc : Pc) (q : Inbound) :
    ∃ x y, d.noteChunk pc q = { d with twin0 := x, twin1 := y } := by
  unfold Device.noteChunk Device.setTwin
  split
  · split <;> exact ⟨_, _, rfl⟩
  · exact ⟨_, _, rfl⟩

/-- Whatever does not look at the links of a twin stands. -/
theorem Device.noteChunk_kept {α : Type} (f : Device → α) {d : Device} (hf : ∀ x y, f { d with twin0 := x, twin1 := y } = f d)
    (pc : Pc) (q : Inbound) : f (d.noteChunk pc q) = f d := by
  obtain ⟨x, y, h⟩ := d.noteChunk_only pc q
  rw [h, hf]

section
variable {d : Device} {pc : Pc} {q : Inbound} (hrole : d.role pc ≠ 0) (hlink : d.linkUpAt pc q.link = true)
include hrole hlink

omit hrole in
theorem inboundRequest_config (hkind : q.kind = .config) (hend : d.role pc = 2) : inboundRequest d pc q =
    d.emit (.completion pc cplOk ((List.range q.length).map fun i => configByte (q.addr + i))) := by
  simp [inboundRequest, hlink, hkind, hend]

section
variable (hkind : q.kind ≠ .config ∨ d.role pc ≠ 2)
include hkind

/-- A request that its controller does not answer by itself. -/
theorem inboundRequest_eq : inboundRequest d pc q =
    if d.unitOff (pcUnit pc) then d.completeInbound pc q cplAbort []
    else if d.isMsi pc q then
      if q.kind = .write then rootPortMsi d pc (d.msiAddr pc) q.length (BitVec.ofNat 32 (natOfBytes q.data))
      else d.emit (.completion pc cplUnsupported [])
    else match d.inboundAddr pc q with
      | none => (d.noteChunk pc q).rejectInbound pc q q.addr (if d.inboundKindOk pc q then 3 else 5)
      | some a => match d.inboundVeto pc q a with
        | some cause => (d.noteChunk pc q).rejectInbound pc q a cause
        | none => (d.noteChunk pc q).carryInbound pc q a := by
  have hrun : ¬(d.role pc = 0 || !d.linkUpAt pc q.link) = true := by
    rw [hlink, Bool.not_true, Bool.or_false, decide_eq_true_eq]
    exact hrole
  have hother : ¬(q.kind = .config && d.role pc = 2) = true := by simpa [imp_iff_not_or] using hkind
  obtain ⟨x, y, h⟩ := d.noteChunk_only pc q
  unfold inboundRequest
  rw [if_neg hrun, if_neg hother, h]
  rfl

theorem inboundRequest_offline (hoff : d.unitOff (pcUnit pc) = true) :
    inboundRequest d pc q = d.completeInbound pc q cplAbort [] := by
  rw [inboundRequest_eq hrole hlink hkind, if_pos hoff]

section
variable (hon : d.unitOff (pcUnit pc) = false)
include hon

/-- A write of 4 B to the interrupt address of a root port. -/
theorem inboundRequest_msi (hmsi : d.isMsi pc q = true) (hup : d.linkUp pc = true) (hwrite : q.kind = .write) (hlen : q.length = 4) :
    inboundRequest d pc q = d.raise (192 + 32 * pcIndex pc + natOfBytes q.data % 32) := by
  have hroot : d.role pc = 1 := by
    simp only [Device.isMsi, Bool.and_eq_true, decide_eq_true_eq] at hmsi
    exact hmsi.1
  rw [inboundRequest_eq hrole hlink hkind, if_neg (Bool.eq_false_iff.1 hon), if_pos hmsi, if_pos hwrite, hlen]
  simp [rootPortMsi, hroot, hup]

section
variable (hmsi : d.isMsi pc q = false)
include hmsi

/-- A request outside its BAR. -/
theorem inboundRequest_outside (haddr : d.inboundAddr pc q = none) : inboundRequest d pc q =
    (d.noteChunk pc q).rejectInbound pc q q.addr (if d.inboundKindOk pc q then 3 else 5) := by
  rw [inboundRequest_eq hrole hlink hkind, if_neg (Bool.eq_false_iff.1 hon), if_neg (Bool.eq_false_iff.1 hmsi), haddr]

theorem inboundRequest_vetoed {a cause : Nat} (haddr : d.inboundAddr pc q = some a) (hveto : d.inboundVeto pc q a = some cause) :
    inboundRequest d pc q = (d.noteChunk pc q).rejectInbound pc q a cause := by
  rw [inboundRequest_eq hrole hlink hkind, if_neg (Bool.eq_false_iff.1 hon), if_neg (Bool.eq_false_iff.1 hmsi), haddr]
  simp only [hveto]

/-- A request to memory that nothing stands in the way of. -/
theorem inboundRequest_memory {a : Nat} (haddr : d.inboundAddr pc q = some a) (hveto : d.inboundVeto pc q a = none)
    (hm : d.inMemory a 1 = true) : inboundRequest d pc q = (d.noteChunk pc q).inboundMemory pc q a := by
  have hregion : (∃ half, (d.noteChunk pc q).region a = .ddr half) ∨ ∃ b, (d.noteChunk pc q).region a = .quarry b := by
    rw [Device.noteChunk_kept (·.region a) (fun _ _ => rfl)]
    exact Device.region_of_inMemory hm
  rw [inboundRequest_eq hrole hlink hkind, if_neg (Bool.eq_false_iff.1 hon), if_neg (Bool.eq_false_iff.1 hmsi), haddr]
  simp only [hveto, Device.carryInbound]
  obtain ⟨half, hr⟩ | ⟨b, hr⟩ := hregion <;> rw [hr]

end

end

end

end

/-! ### A memory request (R188, R272, R288) -/

section
variable {d : Device} {pc : Pc} {q : Inbound} {a : Nat}

theorem Device.inboundMemory_offline (hoff : d.rangeOff a q.length = true) :
    d.inboundMemory pc q a = d.completeInbound pc q cplAbort [] := if_pos hoff

section
variable (hon : d.rangeOff a q.length = false) (hopen : ∀ l ∈ lineAddrs a q.length, d.openLine l)
include hon hopen

/-- A write puts its bytes, as the bridge's port lets it through. -/
theorem Device.inboundMemory_write (hkind : q.kind = .write) (hlog : (d.ten (d.inTenancy pc)).log = none) : ∃ e : Device,
    e.offStores = d.offStores ∧ d.SameBytes e ∧ d.inboundMemory pc q a = (e.coWrite a q.data).completeInbound pc q cplOk [] := by
  obtain ⟨-, hoff, hbytes⟩ := Device.pass_open (bridgePort pc) hopen true
  refine ⟨_, hoff, hbytes, ?_⟩
  have hten : ∀ m : Device, m.offStores = d.offStores → (m.ten (m.inTenancy pc)).log = none := fun m hm =>
    (Device.eq_of_offStores (fun m => (m.ten (m.inTenancy pc)).log) (fun _ => rfl) hm).trans hlog
  unfold Device.inboundMemory
  rw [if_neg (Bool.eq_false_iff.1 hon), if_pos hkind, Device.via_open _ hopen, Device.logWrite_of_none _ (hten _ hoff)]

/-- A read answers the newest bytes where none of its words is uncorrectable. -/
theorem Device.inboundMemory_read (hkind : q.kind = .read) (hecc : ∀ i, q.ecc ≠ .uncorrectable i) : ∃ e : Device,
    e.sent = d.sent ∧ d.SameBytes e ∧
      d.inboundMemory pc q a = (e.dropLines a q.length).completeInbound pc q cplOk (e.coRead a q.length) := by
  obtain ⟨-, hoff, hbytes⟩ := Device.pass_open (bridgePort pc) hopen false
  have hread : d.inboundMemory pc q a = _ :=
    (if_neg (Bool.eq_false_iff.1 hon)).trans ((if_neg (by rw [hkind]; decide)).trans (Device.via_open (bridgePort pc) hopen false _))
  let p := (d.pass (bridgePort pc) a q.length false).2
  have hregs : (p.memEcc a q.ecc).offRegs = p.offRegs := by
    cases h : q.ecc with
    | clean => rfl
    | corrected l => exact p.offRegs_memCes a l
    | uncorrectable i => exact absurd h (hecc i)
  have hsame : d.SameBytes (p.memEcc a q.ecc) :=
    ⟨(Device.eq_of_offRegs Device.mem (fun _ => rfl) hregs).trans hbytes.mem,
      (Device.eq_of_offRegs Device.hostCache (fun _ => rfl) hregs).trans hbytes.cache⟩
  refine ⟨p.memEcc a q.ecc, (Device.eq_of_offRegs Device.sent (fun _ => rfl) hregs).trans
    (Device.eq_of_offStores Device.sent (fun _ => rfl) hoff), hsame, hread.trans ?_⟩
  cases h : q.ecc with
  | clean => rfl
  | corrected l => rfl
  | uncorrectable i => exact absurd h (hecc i)

/-- A read that meets an uncorrectable word of a memory. -/
theorem Device.inboundMemory_uncorrectable {i : Nat} (hkind : q.kind = .read) (hecc : q.ecc = .uncorrectable i)
    (hregion : (∃ half, d.region (a + i) = .ddr half) ∨ ∃ b, d.region (a + i) = .quarry b) : ∃ e : Device,
    e.sent = d.sent ∧ e.mem = d.mem ∧ e.regBit Reg.safFaultLatch 9 = true ∧
      d.inboundMemory pc q a = e.completeInbound pc q cplAbort [] := by
  obtain ⟨-, hoff, hbytes⟩ := Device.pass_open (bridgePort pc) hopen false
  have hread : d.inboundMemory pc q a = _ :=
    (if_neg (Bool.eq_false_iff.1 hon)).trans ((if_neg (by rw [hkind]; decide)).trans (Device.via_open (bridgePort pc) hopen false _))
  rw [hecc] at hread
  let p := (d.pass (bridgePort pc) a q.length false).2
  have hplace : p.region (a + i) = d.region (a + i) := Device.eq_of_offStores (·.region (a + i)) (fun _ => rfl) hoff
  obtain ⟨hregs, hlatch⟩ := p.memUe_memory (a := a + i) (by rwa [hplace])
  exact ⟨p.memUe (a + i), (Device.eq_of_offRegs Device.sent (fun _ => rfl) hregs).trans
    (Device.eq_of_offStores Device.sent (fun _ => rfl) hoff),
    (Device.eq_of_offRegs Device.mem (fun _ => rfl) hregs).trans hbytes.mem, hlatch, hread⟩

end

end

/-! ### Where a request lies (R279) -/

/-- What the number of a range says of an address: the DDR lies below every other range, the Quarries stand above it, and the two are
the memories. -/
def Device.rangePlaced (d : Device) (a : Nat) (r : Region) : Prop :=
  (rangeOf r < 2 ↔ a < 2 * d.ddrHalf) ∧ (rangeOf r < 4 ↔ a < 2 * d.ddrHalf ∨ 0x4000000000 ≤ a ∧ a < 0x4018000000) ∧
    (((∃ half, r = .ddr half) ∨ ∃ b, r = .quarry b) ↔ rangeOf r < 4)

theorem Device.region_placed (d : Device) (a : Nat) : d.rangePlaced a (d.region a) := by
  have hddr : ∀ half, half < 2 → a < 2 * d.ddrHalf → d.rangePlaced a (.ddr half) := fun half hh ha => by
    simp [Device.rangePlaced, rangeOf, ha]
    omega
  have hquarry : ∀ b, b < 2 → ¬a < 2 * d.ddrHalf → 0x4000000000 ≤ a ∧ a < 0x4018000000 → d.rangePlaced a (.quarry b) :=
    fun b hb hd ha => by
      simp [Device.rangePlaced, rangeOf, ha, hd]
      omega
  have hother : ∀ r, 4 ≤ rangeOf r → (∀ half, r ≠ .ddr half) → (∀ b, r ≠ .quarry b) → ¬a < 2 * d.ddrHalf →
      ¬(0x4000000000 ≤ a ∧ a < 0x4018000000) → d.rangePlaced a r := fun r hr hnd hnq hd hq => by
    refine ⟨by omega, by omega, ?_⟩
    simp [hnd, hnq, Nat.not_lt.2 hr]
  unfold Device.region
  simp only [Bool.and_eq_true, decide_eq_true_eq]
  refine iteInduction (motive := d.rangePlaced a) (fun h => hddr 0 (by omega) (by omega)) fun h0 => ?_
  refine iteInduction (motive := d.rangePlaced a) (fun h => hddr 1 (by omega) h) fun hd => ?_
  refine iteInduction (motive := d.rangePlaced a) (fun h => hquarry 0 (by omega) hd (by omega)) fun h2 => ?_
  refine iteInduction (motive := d.rangePlaced a) (fun h => hquarry 1 (by omega) hd (by omega)) fun h3 => ?_
  have hrest : ∀ r, 4 ≤ rangeOf r → (∀ half, r ≠ .ddr half) → (∀ b, r ≠ .quarry b) → d.rangePlaced a r :=
    fun r hr hnd hnq => hother r hr hnd hnq hd (by omega)
  refine iteInduction (motive := d.rangePlaced a) (fun _ => hrest _ (Nat.le_refl 4) nofun nofun) fun _ => ?_
  refine iteInduction (motive := d.rangePlaced a) (fun _ => hrest _ (Nat.le_add_right_of_le (by omega)) nofun nofun) fun _ => ?_
  refine iteInduction (motive := d.rangePlaced a) (fun _ => hrest _ (by decide : 4 ≤ 5) nofun nofun) fun _ => ?_
  refine iteInduction (motive := d.rangePlaced a) (fun _ => hrest _ (by decide) nofun nofun) fun _ => ?_
  refine iteInduction (motive := d.rangePlaced a) (fun _ => hrest _ (by decide) nofun nofun) fun _ => ?_
  exact iteInduction (motive := d.rangePlaced a) (fun _ => hrest _ (by decide) nofun nofun) fun _ => hrest _ (by decide) nofun nofun

/-- Every byte of a request that the bridge carries out to memory lies in that memory: none crosses a range (R279). -/
theorem Device.region_of_inbound {d : Device} {pc : Pc} {q : Inbound} {a i : Nat} (hveto : d.inboundVeto pc q a = none)
    (hm : d.inMemory a 1 = true) (hi : i < q.length) :
    (∃ half, d.region (a + i) = .ddr half) ∨ ∃ b, d.region (a + i) = .quarry b := by
  have hrange : rangeOf (d.region a) = rangeOf (d.region (a + q.length - 1)) := by
    unfold Device.inboundVeto at hveto
    split at hveto
    · cases hveto
    · split at hveto
      · cases hveto
      · split at hveto
        · cases hveto
        · next h => exact not_not.1 h
  obtain ⟨hddr, hmem, hmemory⟩ := d.region_placed a
  obtain ⟨hddr', hmem', -⟩ := d.region_placed (a + q.length - 1)
  obtain ⟨-, hmem'', hmemory''⟩ := d.region_placed (a + i)
  have hfirst := hmem.1 (hmemory.1 (Device.region_of_inMemory hm))
  rw [← hrange] at hddr' hmem'
  rw [hmemory'', hmem'']
  omega

/-! ### The obligation -/

/-- Settles O48: each course of a request, as the state and the request give it. -/
theorem inboundRequests : Obligations.InboundRequests := by
  intro pc q s hwf hlive hrole hlink d ends e
  have hexec : exec (.inboundRequest pc q) s = .next { s with dev := inboundRequest d pc q } :=
    actIf_eq (fun d => inboundRequest d pc q) hwf hlive
  have hsame : ∀ {m : Device}, inboundRequest d pc q = m → exec (.inboundRequest pc q) s = .next { s with dev := m } :=
    fun h => hexec.trans (congrArg (fun m => Host.Outcome.next { s with dev := m }) h)
  have hnote : ∀ {α : Type} (f : Device → α), (∀ x y, f { d with twin0 := x, twin1 := y } = f d) → f e = f d :=
    fun f hf => Device.noteChunk_kept f hf pc q
  refine ⟨fun hkind hend => hsame (inboundRequest_config hlink hkind hend), fun hkind =>
    ⟨fun hoff => hsame (inboundRequest_offline hrole hlink hkind hoff),
      fun hon hmsi hup hwrite hlen => hsame (inboundRequest_msi hrole hlink hkind hon hmsi hup hwrite hlen),
      fun hon hmsi => ?_⟩⟩
  intro rejected
  have hrejected : ∀ {a cause : Nat}, inboundRequest d pc q = e.rejectInbound pc q a cause → rejected a cause := fun {a cause} h => by
    have hfld := hnote (·.fld Reg.hifSticky 4 2) fun _ _ => rfl
    obtain ⟨hmem, hctxs, htens, hbit, hcpl, hraised, hfirst, hlater⟩ :=
      e.rejectInbound_spec pc a cause (q := q) (hnote Device.sent fun _ _ => rfl)
    exact ⟨_, hsame h, hmem.trans (hnote Device.mem fun _ _ => rfl), hctxs.trans (hnote Device.ctxs fun _ _ => rfl),
      htens.trans (hnote Device.tenancies fun _ _ => rfl), hbit, hcpl, hraised, fun h => hfirst (hfld.trans h),
      fun h => (hlater (hfld.trans_ne h)).trans (hnote (·.reg Reg.hifBridgeRecord) fun _ _ => rfl)⟩
  refine ⟨fun haddr => hrejected (inboundRequest_outside (d := d) hrole hlink hkind hon hmsi haddr), fun a haddr =>
    ⟨fun cause hveto => hrejected (inboundRequest_vetoed (d := d) hrole hlink hkind hon hmsi haddr hveto), fun hveto hm => ?_⟩⟩
  have hmemory : inboundRequest d pc q = e.inboundMemory pc q a :=
    inboundRequest_memory (d := d) hrole hlink hkind hon hmsi haddr hveto hm
  have hrange : e.rangeOff a q.length = s.dev.rangeOff a q.length := hnote (·.rangeOff a q.length) fun _ _ => rfl
  refine ⟨fun hoff => hsame (hmemory.trans (Device.inboundMemory_offline (hrange.trans hoff))), fun hron hopen => ?_⟩
  have hron' := hrange.trans hron
  have hopen' : ∀ l ∈ lineAddrs a q.length, e.openLine l := by
    rw [hnote (fun m => ∀ l ∈ lineAddrs a q.length, m.openLine l) fun _ _ => rfl]
    exact hopen
  have hsent : e.sent = [] := hnote Device.sent fun _ _ => rfl
  have hbytes : s.dev.SameBytes e := ⟨hnote Device.mem fun _ _ => rfl, hnote Device.hostCache fun _ _ => rfl⟩
  refine ⟨fun hwrite hlog => ?_, fun hread hposted => ⟨fun hecc => ?_, fun i hi hecc => ?_⟩⟩
  · obtain ⟨m, hoff, hm', hdone⟩ := Device.inboundMemory_write hron' hopen' hwrite
      ((hnote (fun m => (m.ten (m.inTenancy pc)).log) fun _ _ => rfl).trans hlog)
    have hkept : ∀ {α : Type} (f : Device → α), (∀ x : Device, f x.offStores = f x) → f (m.coWrite a q.data) = f e :=
      fun f hf => Device.eq_of_offStores f hf ((m.offStores_coWrite a q.data).trans hoff)
    have hmem : (m.coWrite a q.data).mem = (s.dev.coWrite a q.data).mem :=
      Device.SameBytes.coWrite_mem ⟨hm'.mem.trans hbytes.mem, hm'.cache.trans hbytes.cache⟩ a q.data
    have hregs := (hkept Device.regs fun _ => rfl).trans (hnote Device.regs fun _ _ => rfl)
    have hherald := (hkept Device.herald fun _ => rfl).trans (hnote Device.herald fun _ _ => rfl)
    have hnone := (hkept Device.sent fun _ => rfl).trans hsent
    refine ⟨_, hsame (hmemory.trans hdone), ?_⟩
    unfold Device.completeInbound
    cases q.posted
    · exact ⟨hmem, hregs, hherald, congrArg (· ++ [_]) hnone⟩
    · exact ⟨hmem, hregs, hherald, hnone⟩
  · obtain ⟨m, hm', hsame', hdone⟩ := Device.inboundMemory_read hron' hopen' hread hecc
    have hm : s.dev.SameBytes m := ⟨hsame'.mem.trans hbytes.mem, hsame'.cache.trans hbytes.cache⟩
    have hnone : (m.dropLines a q.length).sent = [] :=
      (Device.eq_of_offStores Device.sent (fun _ => rfl) (m.offStores_dropLines a q.length)).trans (hm'.trans hsent)
    refine ⟨_, hsame (hmemory.trans hdone), ?_⟩
    rw [Device.completeInbound, hposted, hm.coRead]
    exact ⟨(hm.dropLines a q.length).mem, congrArg (· ++ [_]) hnone⟩
  · have hplace := hnote (·.region (a + i)) fun _ _ => rfl
    obtain ⟨m, hm', hmem, hlatch, hdone⟩ := Device.inboundMemory_uncorrectable hron' hopen' hread hecc (by
      rw [hplace]
      exact Device.region_of_inbound (d := d) hveto hm hi)
    refine ⟨_, hsame (hmemory.trans hdone), ?_⟩
    rw [Device.completeInbound, hposted]
    exact ⟨hmem.trans hbytes.mem, congrArg (· ++ [_]) (hm'.trans hsent), hlatch⟩

end Sys2Proof.Machine

/-!
PROOF. Frame queues (O53): a queue stopped, a descriptor written back, and what each descriptor that is taken comes to.
-/

namespace Sys2Proof.Machine

/-! ### A queue stopped (R371) -/

section
variable (d : Device) (q : Nat)

/-- Replacing a queue leaves every other queue as it was. -/
theorem Device.queue_setQueue_ne {p : Nat} (x : FrameQueue) (h : p ≠ q) : (d.setQueue q x).queue p = d.queue p :=
  tgetD_tputD_ne _ _ _ _ h

theorem Device.offRegs_noteVeto (a : Nat) (v : Veto) : (d.noteVeto a v).offRegs = d.offRegs := by
  unfold Device.noteVeto
  split
  · next pc _ _ => cases pc <;> rfl
  · rfl

/-- Frames dropped at a port are counted in registers. -/
theorem Device.offRegs_dropFrames {α : Type} (port : Nat) (l : List α) :
    (l.foldl (fun d _ => d.dropFrame port) d).offRegs = d.offRegs :=
  List.foldlRecOn l _ (motive := fun e : Device => e.offRegs = d.offRegs) rfl fun _ he _ _ => he

/-- A queue as a stop leaves it. -/
def FrameQueue.halted (x : FrameQueue) : FrameQueue :=
  { x with state := .stopped, waiting := [], departing := false, desc := none, got := [], back := none }

/-- The device with the frames that a receive queue of the switch had accepted dropped. -/
def Device.dropWaiting (d : Device) (q : Nat) : Device :=
  if q < 16 then (d.queue q).waiting.foldl (fun d _ => d.dropFrame (10 + q / 8)) d else d

theorem Device.offRegs_dropWaiting : (d.dropWaiting q).offRegs = d.offRegs := by
  unfold Device.dropWaiting
  split
  · exact d.offRegs_dropFrames _ _
  · rfl

theorem Device.stopQueue_eq : d.stopQueue q =
    if q < 32 then ((d.dropWaiting q).setQueue q ((d.dropWaiting q).queue q).halted).orReg Reg.tsnSticky 1
    else ((d.dropWaiting q).setQueue q ((d.dropWaiting q).queue q).halted).orReg Reg.gwySticky 8 := rfl

/-- A stop of a queue: its block's bit is set, and nothing of memory or of any other queue changes. -/
theorem Device.stopQueue_spec {e : Device} (hmem : e.mem = d.mem) (hqueues : e.queues = d.queues) : (e.stopQueue q).mem = d.mem ∧
    (e.stopQueue q).queue q = (d.queue q).halted ∧
    (e.stopQueue q).regBit (if q < 32 then Reg.tsnSticky else Reg.gwySticky) (if q < 32 then 0 else 3) = true ∧
    ∀ p ≠ q, (e.stopQueue q).queue p = d.queue p := by
  have hregs := e.offRegs_dropWaiting q
  rw [e.stopQueue_eq]
  generalize e.dropWaiting q = m at hregs
  have hqueue : ∀ p, m.queue p = d.queue p := fun p =>
    congrArg (tgetD · p FrameQueue.unset) ((Device.eq_of_offRegs Device.queues (fun _ => rfl) hregs).trans hqueues)
  have hmem : m.mem = d.mem := (Device.eq_of_offRegs Device.mem (fun _ => rfl) hregs).trans hmem
  have hself : (m.setQueue q (m.queue q).halted).queue q = (d.queue q).halted := by rw [Device.queue_setQueue, hqueue]
  have hother : ∀ p ≠ q, (m.setQueue q (m.queue q).halted).queue p = d.queue p := fun p hp => by
    rw [m.queue_setQueue_ne q _ hp, hqueue]
  by_cases hq : q < 32
  · simp only [hq, if_true]
    exact ⟨hmem, hself, Device.regBit_orReg (k := 0) _ _ (by decide), hother⟩
  · simp only [hq, if_false]
    exact ⟨hmem, hself, Device.regBit_orReg (k := 3) _ _ (by decide), hother⟩

end

/-! ### The counts (R371) -/

section
variable {d : Device} {q : Nat} {v : Half} (hstate : (d.queue q).state ≠ .unset)

theorem qTailWrite_unset (h : (d.queue q).state = .unset) : qTailWrite d q v = d.reply .written := if_pos h

theorem qSeenWrite_unset (h : (d.queue q).state = .unset) : qSeenWrite d q v = d.reply .written := if_pos h

include hstate

theorem qTailWrite_taken (h : countDiff v (d.queue q).head ≤ 2 ^ d.qLog q) :
    qTailWrite d q v = (d.reply .written).setQueue q { d.queue q with tail := v } :=
  (if_neg hstate).trans (if_pos h)

theorem qSeenWrite_taken (h : countDiff (d.queue q).head v ≤ 2 ^ d.qLog q) :
    qSeenWrite d q v = (d.reply .written).setQueue q { d.queue q with seen := v } :=
  (if_neg hstate).trans (if_pos h)

end

section
variable {d : Device} {q : Nat} {v : Half} (hrun : (d.queue q).state = .running)
include hrun

theorem qTailWrite_beyond (h : 2 ^ d.qLog q < countDiff v (d.queue q).head) :
    qTailWrite d q v = (d.reply .written).stopQueue q := by
  have hset : ¬(d.queue q).state = .unset := by rw [hrun]; decide
  exact (if_neg hset).trans ((if_neg (Nat.not_le.2 h)).trans (if_pos hrun))

theorem qSeenWrite_beyond (h : 2 ^ d.qLog q < countDiff (d.queue q).head v) :
    qSeenWrite d q v = (d.reply .written).stopQueue q := by
  have hset : ¬(d.queue q).state = .unset := by rw [hrun]; decide
  exact (if_neg hset).trans ((if_neg (Nat.not_le.2 h)).trans (if_pos hrun))

end

/-! ### What a write-back needs (R371) -/

/-- The device without its stores and its queues. -/
def Device.offQueues (d : Device) : Device := { d.offStores with queues := [] }

/-- Devices that differ in these alone agree in whatever does not look at them. -/
theorem Device.eq_of_offQueues {α : Type} (f : Device → α) (hf : ∀ x : Device, f x.offQueues = f x) {d e : Device}
    (h : e.offQueues = d.offQueues) : f e = f d := by
  rw [← hf e, h, hf]

theorem Device.offQueues_of_offStores {d e : Device} (h : e.offStores = d.offStores) : e.offQueues = d.offQueues := by
  unfold Device.offQueues
  rw [h]

/-- What stands in the way of an access to the descriptor of a count. -/
def Device.qVetoAt (d : Device) (q : Nat) (c : Half) : Option Veto :=
  let x := d.ten (d.qTenancy q)
  if !x.on || (x.windowFor (d.qBase q) (32 * 2 ^ d.qLog q) true true).isNone then some (.fault St.bounds 0x01)
  else d.vetoRole (d.qTenancy q) (d.qAddr q c) 32 false false

theorem Device.qVeto_eq (d : Device) (q : Nat) : d.qVeto q = d.qVetoAt q (d.queue q).head := rfl

/-- A write-back to the descriptor of a count that nothing stands in the way of, at its address. -/
structure Device.BackOpen (d : Device) (q : Nat) (c : Half) (a : Nat) : Prop where
  addr : d.qAddr q c = a
  veto : d.qVetoAt q c = none
  mem : d.inMemory a 32 = true
  log : (d.ten (d.qTenancy q)).log = none
  line : d.openLine a

/-- The write-back can be made whatever the stores and the queues. -/
theorem Device.BackOpen.of_offQueues {d e : Device} {q : Nat} {c : Half} {a : Nat} (h : d.BackOpen q c a)
    (he : e.offQueues = d.offQueues) : e.BackOpen q c a := by
  have hlog := Device.eq_of_offQueues (fun m => (m.ten (m.qTenancy q)).log) (fun _ => rfl) he
  have hline := Device.eq_of_offQueues (·.openLine a) (fun _ => rfl) he
  exact ⟨(Device.eq_of_offQueues (·.qAddr q c) (fun _ => rfl) he).trans h.addr,
    (Device.eq_of_offQueues (·.qVetoAt q c) (fun _ => rfl) he).trans h.veto,
    (Device.eq_of_offQueues (·.inMemory a 32) (fun _ => rfl) he).trans h.mem, hlog.trans h.log, hline ▸ h.line⟩

/-! ### Registers that a write-back does not look at -/

/-- A register that no regulation class, no unit held offline and no setting of a queue is read from. -/
def quietAddr (q a : Nat) : Prop :=
  0x700000 ≤ a ∧ a < 0xe00040 ∧ a ≠ (if q < 32 then Reg.tsnQCtrl q else Reg.gwyHqCtrl (q - 32)) ∧
    a ≠ (if q < 32 then Reg.tsnQBase q else Reg.gwyHqBase (q - 32))

/-- The device with other registers, none of them one that a write-back of a queue looks at. -/
structure Device.Quiet (q : Nat) (d e : Device) : Prop where
  only : ∃ r, e = { d with regs := r }
  kept : ∀ a, ¬quietAddr q a → e.reg a = d.reg a

namespace Device.Quiet

variable {d e : Device} {q a : Nat}

theorem refl (q : Nat) (d : Device) : d.Quiet q d := ⟨⟨d.regs, rfl⟩, fun _ _ => rfl⟩

theorem setReg (h : Device.Quiet q d e) (ha : quietAddr q a) (v : Word) : Device.Quiet q d (e.setReg a v) := by
  obtain ⟨⟨r, rfl⟩, hr⟩ := h
  exact ⟨⟨_, rfl⟩, fun x hx => (Device.reg_setReg_ne _ v fun hxa => hx (by rwa [hxa])).trans (hr x hx)⟩

theorem recordIf (h : Device.Quiet q d e) (c : Bool) (ha : quietAddr q a) (v : Word) : Device.Quiet q d (e.recordIf c a v) := by
  cases c
  · exact h
  · exact h.setReg ha v

theorem orReg (h : Device.Quiet q d e) (ha : quietAddr q a) (m : Nat) : Device.Quiet q d (e.orReg a m) := h.setReg ha _

theorem reg_of_lt (h : Device.Quiet q d e) (ha : a < 0x700000) : e.reg a = d.reg a :=
  h.kept a fun hq => absurd hq.1 (by omega)

/-- The settings of the queue stand. -/
theorem qCtrl (h : Device.Quiet q d e) : e.qCtrl q = d.qCtrl q := h.kept _ fun ⟨_, _, hctrl, _⟩ => hctrl rfl

theorem qBase (h : Device.Quiet q d e) : e.qBase q = d.qBase q := by
  unfold Device.qBase Device.fld
  rw [h.kept _ fun ⟨_, _, _, hbase⟩ => hbase rfl]

theorem lowRegs (h : Device.Quiet q d e) : d.LowRegs e := ⟨h.only, fun x hx => h.kept x fun hq => absurd hq.2.1 (by omega)⟩

theorem region (h : Device.Quiet q d e) (b : Nat) : e.region b = d.region b := by
  obtain ⟨⟨r, rfl⟩, -⟩ := h
  rfl

/-- The class of an address, and whether a line of it is open. -/
theorem classOf (h : Device.Quiet q d e) (b : Nat) : e.classOf b = d.classOf b := by
  have hwin : ∀ w ∈ List.range 16, e.reg (Reg.mrgWinAttr w) = d.reg (Reg.mrgWinAttr w) ∧
      e.reg (Reg.mrgWinBase w) = d.reg (Reg.mrgWinBase w) ∧ e.reg (Reg.mrgWinLimit w) = d.reg (Reg.mrgWinLimit w) := by
    intro w hw
    have hw := List.mem_range.1 hw
    exact ⟨h.reg_of_lt (by unfold Reg.mrgWinAttr; omega), h.reg_of_lt (by unfold Reg.mrgWinBase; omega),
      h.reg_of_lt (by unfold Reg.mrgWinLimit; omega)⟩
  have hfind : (List.range 16).find? (fun w => e.regBit (Reg.mrgWinAttr w) 0 && (e.reg (Reg.mrgWinBase w)).toNat ≤ b &&
      b ≤ (e.reg (Reg.mrgWinLimit w)).toNat) = (List.range 16).find? (fun w => d.regBit (Reg.mrgWinAttr w) 0 &&
      (d.reg (Reg.mrgWinBase w)).toNat ≤ b && b ≤ (d.reg (Reg.mrgWinLimit w)).toNat) := by
    refine List.find?_congr fun w hw => ?_
    obtain ⟨hattr, hbase, hlimit⟩ := hwin w hw
    rw [Device.regBit, hattr, hbase, hlimit, Device.regBit]
  unfold Device.classOf
  rw [hfind]
  split
  · next w hw =>
    rw [Device.fld, (hwin w (List.mem_of_find?_eq_some hw)).1, Device.fld]
  · rw [Device.fld, h.reg_of_lt (by decide), Device.fld]

theorem classOf_lt (d : Device) (b : Nat) : d.classOf b < 8 := by
  unfold Device.classOf
  split <;> exact Nat.mod_lt _ (by decide)

theorem openLine (h : Device.Quiet q d e) {b : Nat} (hb : d.openLine b) : e.openLine b := by
  have hkind : e.classKind (d.classOf b) = d.classKind (d.classOf b) := by
    have hlt := classOf_lt d b
    rw [Device.classKind, Device.fld, h.reg_of_lt (by unfold Reg.mrgClass; omega), Device.classKind, Device.fld]
  obtain ⟨hm, hk, ht⟩ := hb
  refine ⟨?_, by rw [h.classOf, hkind, hk], ?_⟩
  · obtain ⟨⟨r, rfl⟩, -⟩ := h
    exact hm
  · have hsteps : e.throttleSteps = d.throttleSteps := by
      obtain ⟨⟨r, rfl⟩, -⟩ := h
      rfl
    refine Eq.trans ?_ ht
    rw [h.classOf]
    simp only [Device.throttled, h.region, hsteps, hkind]

/-- The write-back can be made whatever these registers. -/
theorem backOpen {c : Half} {b : Nat} (h : Device.Quiet q d e) (hb : d.BackOpen q c b) : e.BackOpen q c b := by
  obtain ⟨haddr, hveto, hm, hlog, hline⟩ := hb
  have hctrl := h.qCtrl
  have hlogn : e.qLog q = d.qLog q := congrArg (bitsAt · 4 4) hctrl
  have hten : e.qTenancy q = d.qTenancy q := congrArg (bitsAt · 8 6) hctrl
  have haddr' : e.qAddr q c = d.qAddr q c := by rw [Device.qAddr, h.qBase, hlogn, Device.qAddr]
  have hoff : ∀ a n, e.rangeOff a n = d.rangeOff a n := fun a n => by
    simp only [Device.rangeOff, funext h.lowRegs.addrOff]
  have hline' := h.openLine hline
  have hrole : e.vetoRole (d.qTenancy q) b 32 false false = d.vetoRole (d.qTenancy q) b 32 false false := by
    have htens : e.ten = d.ten := by
      obtain ⟨⟨r, rfl⟩, -⟩ := h
      rfl
    obtain ⟨half, hr⟩ | ⟨bank, hr⟩ := Device.region_of_inMemory hm <;> simp only [Device.vetoRole, h.region, hr, hoff, htens]
  have hveto' : e.qVetoAt q c = d.qVetoAt q c := by
    unfold Device.qVetoAt
    rw [hten, h.qBase, hlogn, haddr', haddr, hrole]
    obtain ⟨⟨r, rfl⟩, -⟩ := h
    rfl
  refine ⟨haddr'.trans haddr, hveto'.trans hveto, ?_, ?_, hline'⟩
  · obtain ⟨⟨r, rfl⟩, -⟩ := h
    exact hm
  · rw [hten]
    obtain ⟨⟨r, rfl⟩, -⟩ := h
    exact hlog

end Device.Quiet

/-- A register at an offset within its block that no setting of a queue has. -/
theorem quietAddr_of_mod {a : Nat} (q : Nat) (hlo : 0x700000 ≤ a) (hhi : a < 0xe00040)
    (h : a < 0xb00600 ∨ (a % 16 ≠ 0 ∧ a % 16 ≠ 8)) : quietAddr q a := by
  refine ⟨hlo, hhi, ?_, ?_⟩
  · unfold Reg.tsnQCtrl Reg.gwyHqCtrl
    split <;> omega
  · unfold Reg.tsnQBase Reg.gwyHqBase
    split <;> omega

section
variable (d : Device) (q : Nat)

/-- An uncorrectable word of the memories is recorded in such registers. -/
theorem Device.quiet_memUe {a : Nat} (h : ∀ core, d.region a ≠ .bench core) : Device.Quiet q d (d.memUe a) := by
  have hquiet : ∀ r ∈ [Reg.ddrUeAddr, Reg.ddrUeTime, Reg.ddrSticky, Reg.qryUeAddr, Reg.qryUeTime, Reg.qrySticky,
      Reg.safFaultLatch], quietAddr q r := fun r hr => by
    simp only [List.mem_cons, List.not_mem_nil, or_false] at hr
    rcases hr with rfl | rfl | rfl | rfl | rfl | rfl | rfl <;> exact quietAddr_of_mod q (by decide) (by decide) (by decide)
  have hself := Device.Quiet.refl q d
  have hue : d.memUe a = d.noteUe a := by
    unfold Device.memUe
    split
    · next core hr => exact absurd hr (h core)
    · rfl
  rw [hue]
  unfold Device.noteUe
  split
  · exact (((hself.recordIf _ (hquiet _ (by simp)) _).recordIf _ (hquiet _ (by simp)) _).orReg (hquiet _ (by simp)) _).orReg
      (hquiet _ (by simp)) _
  · exact (((hself.recordIf _ (hquiet _ (by simp)) _).recordIf _ (hquiet _ (by simp)) _).orReg (hquiet _ (by simp)) _).orReg
      (hquiet _ (by simp)) _
  · exact hself.orReg (hquiet _ (by simp)) _
  · exact hself

/-- A frame dropped for its length is recorded in such registers, with its bit. -/
theorem Device.quiet_sizeDrop (src dst : Nat) (f : CanFrame) (time : Word) :
    Device.Quiet q d (d.sizeDrop src dst f time) ∧ (d.sizeDrop src dst f time).regBit Reg.gwySticky 0 = true := by
  have hquiet : ∀ r ∈ [Reg.gwySizeRecord, Reg.gwySizeTime, Reg.gwySizeDrops, Reg.gwySticky], quietAddr q r := fun r hr => by
    simp only [List.mem_cons, List.not_mem_nil, or_false] at hr
    rcases hr with rfl | rfl | rfl | rfl <;> exact quietAddr_of_mod q (by decide) (by decide) (by decide)
  have hself := Device.Quiet.refl q d
  exact ⟨(((hself.recordIf _ (hquiet _ (by simp)) _).recordIf _ (hquiet _ (by simp)) _).setReg (hquiet _ (by simp)) _).orReg
    (hquiet _ (by simp)) _, Device.regBit_orReg (k := 0) _ _ (by decide)⟩

end

end Sys2Proof.Machine

/-!
PROOF. Frame queues (O53): the write-back of a descriptor, its fetch, and the frames that it carries.
-/

namespace Sys2Proof.Machine

/-! ### The write-back (R371) -/

/-- A queue whose descriptor at the head has been written back. -/
def FrameQueue.passed (x : FrameQueue) : FrameQueue :=
  { x with head := x.head + 1, departing := false, desc := none, got := [], back := none }

/-- What a write-back of the descriptor at the head changes: its bytes, and the queue. -/
structure Device.WrittenBack (d e : Device) (q a : Nat) (bs : List Byte) : Prop where
  off : e.offQueues = d.offQueues
  queue : e.queue q = (d.queue q).passed
  mem : e.mem = memWrite d.mem a bs

/-- A write-back that is due is carried out where nothing stands in its way. -/
theorem Device.settleBack_open {d : Device} {q a : Nat} {bs : List Byte} (hback : (d.queue q).back = some bs)
    (h : d.BackOpen q (d.queue q).head a) : d.WrittenBack (d.settleBack q) q a bs := by
  obtain ⟨haddr, hveto, hm, hlog, hline⟩ := h
  let e := d.charge (qPort q) a 32 true
  have hoff : e.offStores = d.offStores := d.offStores_charge _ _ _ _
  have hlog' : (e.ten (e.qTenancy q)).log = none :=
    (Device.eq_of_offStores (fun m => (m.ten (m.qTenancy q)).log) (fun _ => rfl) hoff).trans hlog
  have hregion : e.region a = d.region a := Device.eq_of_offStores (·.region a) (fun _ => rfl) hoff
  have hwrite : e.qWrite q a bs = e.wr a bs := by
    unfold Device.qWrite
    rw [Device.logWrite_of_none _ hlog']
    dsimp only
    rw [hregion]
    obtain ⟨half, hr⟩ | ⟨bank, hr⟩ := Device.region_of_inMemory hm <;> rw [hr]
  have hsettle : d.settleBack q = (e.wr a bs).setQueue q (d.queue q).passed := by
    unfold Device.settleBack
    simp only [hback, haddr, d.qVeto_eq, hveto, Device.portHolds_open hline]
    exact congrArg (Device.setQueue · q _) hwrite
  rw [hsettle]
  exact ⟨(show _ = e.offQueues from rfl).trans (Device.offQueues_of_offStores hoff), Device.queue_setQueue _ _ _,
    congrArg (memWrite · a bs) (d.charge_mem _ _ _ _)⟩

theorem Device.writeBack_open {d : Device} {q a : Nat} (h : d.BackOpen q (d.queue q).head a) (raw : List Byte) (status detail : Byte)
    (fields : List (Nat × List Byte)) : d.WrittenBack (d.writeBack q raw status detail fields) q a
      (backBytes raw (d.queue q).head (d.qLog q) status detail fields) := by
  let x : FrameQueue := { d.queue q with back := some (backBytes raw (d.queue q).head (d.qLog q) status detail fields) }
  have hx : (d.setQueue q x).queue q = x := d.queue_setQueue q x
  have hhead : ((d.setQueue q x).queue q).head = (d.queue q).head := by rw [hx]
  have hdue : (d.setQueue q x).BackOpen q ((d.setQueue q x).queue q).head a := by
    rw [hhead]
    exact h.of_offQueues rfl
  obtain ⟨hoff, hqueue, hmem⟩ := Device.settleBack_open (congrArg FrameQueue.back hx) hdue
  exact ⟨hoff, hqueue.trans (by rw [hx]; rfl), hmem⟩

/-! ### On the way to a write-back -/

/-- What stands of a device whose queue has its descriptor at the head in hand: memory, the descriptor's place, and all but the stores and
the queues. -/
structure Device.AtHead (d p : Device) (q : Nat) : Prop where
  off : p.offQueues = d.offQueues
  mem : p.mem = d.mem
  head : (p.queue q).head = (d.queue q).head
  passed : (p.queue q).passed = (d.queue q).passed

/-- The descriptor written back, and nothing else stored or changed of the switch and the gateway. -/
structure Device.Ended (d f : Device) (q a : Nat) (bs : List Byte) : Prop where
  sw : f.sw = d.sw
  can : f.can = d.can
  acf : f.acf = d.acf
  queue : f.queue q = (d.queue q).passed
  mem : f.mem = memWrite d.mem a bs

/-- A write-back behind a record in registers. -/
theorem Device.AtHead.ended {d p m : Device} {q a : Nat} (h : d.AtHead p q) (hm : Device.Quiet q p m)
    (hb : d.BackOpen q (d.queue q).head a) (raw : List Byte) (status detail : Byte) :
    d.Ended (m.writeBack q raw status detail []) q a (backBytes raw (d.queue q).head (d.qLog q) status detail []) ∧
      (m.writeBack q raw status detail []).regs = m.regs := by
  have hqueue : m.queue q = p.queue q := by
    obtain ⟨⟨r, rfl⟩, -⟩ := hm
    rfl
  have hlog : m.qLog q = d.qLog q :=
    (congrArg (bitsAt · 4 4) hm.qCtrl).trans (Device.eq_of_offQueues (·.qLog q) (fun _ => rfl) h.off)
  have hhead : (m.queue q).head = (d.queue q).head := (congrArg FrameQueue.head hqueue).trans h.head
  have hopen : m.BackOpen q (m.queue q).head a := by
    rw [hhead]
    exact hm.backOpen (hb.of_offQueues h.off)
  obtain ⟨hoff, hq, hmem⟩ := Device.writeBack_open hopen raw status detail []
  rw [hhead, hlog] at hmem
  have hkept : ∀ {α : Type} (f : Device → α), (∀ x : Device, f x.offQueues = f x) → (∀ r, f { p with regs := r } = f p) →
      f (m.writeBack q raw status detail []) = f d := fun f hf hr => by
    have hmp : f m = f p := by
      obtain ⟨⟨r, rfl⟩, -⟩ := hm
      exact hr r
    exact (Device.eq_of_offQueues f hf hoff).trans (hmp.trans (Device.eq_of_offQueues f hf h.off))
  have hmemory : m.mem = d.mem := by
    obtain ⟨⟨r, rfl⟩, -⟩ := hm
    exact h.mem
  exact ⟨⟨hkept Device.sw (fun _ => rfl) fun _ => rfl, hkept Device.can (fun _ => rfl) fun _ => rfl,
    hkept Device.acf (fun _ => rfl) fun _ => rfl, hq.trans ((congrArg FrameQueue.passed hqueue).trans h.passed),
    hmem.trans (by rw [hmemory])⟩,
    Device.eq_of_offQueues Device.regs (fun _ => rfl) hoff⟩

/-! ### The fetch of a descriptor (R371) -/

/-- A queue that holds the descriptor it has fetched. -/
def Device.holding (d : Device) (q : Nat) (raw : List Byte) : FrameQueue := { d.queue q with desc := some (raw, d.alm.count) }

theorem queueDescriptorTaken_unready {d : Device} {q : Nat} (h : d.qReady q = false) (ecc : Ecc) : queueDescriptorTaken d q ecc = d :=
  if_pos (by rw [h]; rfl)

section
variable {d : Device} {q a : Nat} (hready : d.qReady q = true) (hdesc : (d.queue q).desc = none)
include hready hdesc

theorem queueDescriptorTaken_vetoed {v : Veto} (hveto : d.qVeto q = some v) (ecc : Ecc) :
    queueDescriptorTaken d q ecc = (d.noteVeto (d.qAddr q (d.queue q).head) v).stopQueue q := by
  simp only [queueDescriptorTaken, hready, hdesc, hveto, Bool.not_true, Bool.false_eq_true, if_false]

/-- The fetch of a descriptor in memory that nothing stands in the way of. -/
theorem queueDescriptorTaken_memory (haddr : d.qAddr q (d.queue q).head = a) (hveto : d.qVeto q = none)
    (hm : d.inMemory a 32 = true) (ecc : Ecc) :
    queueDescriptorTaken d q ecc = d.via (qPort q) a 32 false fun d =>
      let d := d.memEcc a (eccBefore 32 ecc)
      match eccBefore 32 ecc with
      | .uncorrectable i => d.writeBack q (d.rd a 32) St.eccUncorr (d.eccDetail (a + i)) []
      | _ => queueHas d q (d.rd a 32) (eccAfter 32 ecc) := by
  simp only [queueDescriptorTaken, hready, hdesc, hveto, haddr, Bool.not_true, Bool.false_eq_true, if_false]
  obtain ⟨half, hr⟩ | ⟨bank, hr⟩ := Device.region_of_inMemory hm <;> rw [hr] <;> rfl

/-- A descriptor whose line waits at its port. -/
theorem queueDescriptorTaken_held {l : Nat} (haddr : d.qAddr q (d.queue q).head = a) (hveto : d.qVeto q = none)
    (hm : d.inMemory a 32 = true) (hl : lineAddrs a 32 = [l]) (hdone : d.portDone (qPort q) a 32 = 0)
    (hheld : d.portHolds (qPort q) l = true) (ecc : Ecc) :
    ∃ w, queueDescriptorTaken d q ecc = { d with portWaits := w } := by
  have hissue : d.linesIssue (qPort q) 256 [l] = (0, false, d) := by
    rw [Device.linesIssue, Option.isNone_iff_eq_none.1 hheld]
  rw [queueDescriptorTaken_memory hready hdesc haddr hveto hm]
  unfold Device.via Device.pass Device.passLines
  simp only [hl, hdone, List.drop_zero, hissue]
  exact ⟨_, rfl⟩

section
variable (hb : d.BackOpen q (d.queue q).head a) (hopen : ∀ l ∈ lineAddrs a 32, d.openLine l)
include hb hopen

/-- The fetch of a descriptor with an uncorrectable word. -/
theorem queueDescriptorTaken_uncorrectable {i : Nat} (hi : i < 32) : ∃ p m : Device, d.AtHead p q ∧ Device.Quiet q p m ∧
    queueDescriptorTaken d q (.uncorrectable i) = m.writeBack q (d.rd a 32) St.eccUncorr (d.eccDetail (a + i)) [] := by
  obtain ⟨-, hoff, hbytes⟩ := Device.pass_open (qPort q) hopen false
  have htaken := queueDescriptorTaken_memory hready hdesc hb.addr hb.veto hb.mem (.uncorrectable i)
  rw [Device.via_open (qPort q) hopen false] at htaken
  generalize (d.pass (qPort q) a 32 false).2 = p at hoff hbytes htaken
  have hqueue : p.queue q = d.queue q := Device.eq_of_offStores (·.queue q) (fun _ => rfl) hoff
  have hquiet : Device.Quiet q p (p.memUe (a + i)) := p.quiet_memUe q fun core =>
    Device.region_ne_bench_of_mem ((Device.eq_of_offStores (·.inMemory a 32) (fun _ => rfl) hoff).trans hb.mem) hi core
  have hmem : (p.memUe (a + i)).mem = d.mem := by
    obtain ⟨⟨r, hr⟩, -⟩ := hquiet
    rw [hr]
    exact hbytes.mem
  have hdetail : (p.memUe (a + i)).eccDetail (a + i) = d.eccDetail (a + i) :=
    (hquiet.lowRegs.eccDetail _).trans (Device.eq_of_offStores (·.eccDetail (a + i)) (fun _ => rfl) hoff)
  have hbefore : eccBefore 32 (.uncorrectable i) = .uncorrectable i := if_pos hi
  refine ⟨p, p.memUe (a + i), ⟨Device.offQueues_of_offStores hoff, hbytes.mem, by rw [hqueue], by rw [hqueue]⟩, hquiet, ?_⟩
  rw [htaken, hbefore, ← hdetail, ← Device.rd_congr hmem]
  rfl

/-- The fetch of a descriptor: it is held while what it asks for is done. -/
theorem queueDescriptorTaken_fetched : ∃ p : Device, p.offStores = d.offStores ∧ p.mem = d.mem ∧
    queueDescriptorTaken d q .clean = queueGot (p.setQueue q (d.holding q (d.rd a 32))) q (d.rd a 32) d.alm.count .clean := by
  obtain ⟨-, hoff, hbytes⟩ := Device.pass_open (qPort q) hopen false
  have htaken := queueDescriptorTaken_memory hready hdesc hb.addr hb.veto hb.mem .clean
  rw [Device.via_open (qPort q) hopen false] at htaken
  generalize (d.pass (qPort q) a 32 false).2 = p at hoff hbytes htaken
  refine ⟨p, hoff, hbytes.mem, htaken.trans ?_⟩
  have hqueue : p.queue q = d.queue q := Device.eq_of_offStores (·.queue q) (fun _ => rfl) hoff
  have halm : p.alm = d.alm := Device.eq_of_offStores Device.alm (fun _ => rfl) hoff
  rw [← Device.rd_congr hbytes.mem, Device.holding, ← hqueue, ← halm]
  rfl

end

end

end Sys2Proof.Machine

/-!
PROOF. Frame queues (O53): the frames of receive and transmit queues, and the statement put together.
-/

namespace Sys2Proof.Machine

/-! ### A descriptor in hand -/

section
variable {d p : Device} {q : Nat} (hoff : p.offStores = d.offStores) (hmem : p.mem = d.mem) (raw : List Byte)
include hoff hmem

theorem Device.atHead_holding : d.AtHead (p.setQueue q (d.holding q raw)) q := by
  have hqueue : (p.setQueue q (d.holding q raw)).queue q = d.holding q raw := p.queue_setQueue q _
  exact ⟨(show _ = p.offQueues from rfl).trans (Device.offQueues_of_offStores hoff), hmem, by rw [hqueue]; rfl, by rw [hqueue]; rfl⟩

end

/-- A write for a queue whose tenancy keeps no log, in memory. -/
theorem Device.qWrite_memory {d : Device} {q a n : Nat} (bs : List Byte) (hm : d.inMemory a n = true)
    (hlog : (d.ten (d.qTenancy q)).log = none) : d.qWrite q a bs = d.wr a bs := by
  unfold Device.qWrite
  rw [Device.logWrite_of_none _ hlog]
  dsimp only
  obtain ⟨half, hr⟩ | ⟨bank, hr⟩ := Device.region_of_inMemory hm <;> rw [hr]

/-! ### Frames received (R372) -/

/-- The fields that a received frame gives its descriptor. -/
def rxFields (q : Nat) (f : RxFrame) : List (Nat × List Byte) :=
  [(0x08, bytesOfNat 2 f.bytes.length), (0x0C, [f.port])] ++ (if q < 32 then [(0x0D, [f.cls])] else []) ++ stampFields f.stamp ++
    [(0x1C, bytesOfNat 4 f.canId.toNat)]

/-- The first waiting frame put into a buffer in memory that nothing stands in the way of. -/
theorem qFill_open {e : Device} {q a : Nat} {raw : List Byte} {f : RxFrame} {rest : List RxFrame} (ha : fieldAt raw 0 8 = a)
    (hwaiting : (e.queue q).waiting = f :: rest) (hveto : e.vetoRole (e.qTenancy q) a f.bytes.length true false = none)
    (hm : e.inMemory a 1 = true) (hlog : (e.ten (e.qTenancy q)).log = none)
    (hopen : ∀ l ∈ lineAddrs a f.bytes.length, e.openLine l) : ∃ m : Device, m.offQueues = e.offQueues ∧
      m.queue q = { e.queue q with waiting := rest } ∧ m.mem = memWrite e.mem a f.bytes ∧
      qFill e q raw = m.writeBack q raw St.ok 0 (rxFields q f) := by
  obtain ⟨-, hoff, hbytes⟩ := Device.pass_open (qPort q) hopen true
  have hfill : qFill e q raw = e.via (qPort q) a f.bytes.length true fun d =>
      ((d.setQueue q { d.queue q with waiting := rest }).qWrite q a f.bytes).writeBack q raw St.ok 0 (rxFields q f) := by
    simp only [qFill, hwaiting, ha, hveto, rxFields]
  rw [Device.via_open (qPort q) hopen true] at hfill
  generalize (e.pass (qPort q) a f.bytes.length true).2 = p at hoff hbytes hfill
  have hqueue : p.queue q = e.queue q := Device.eq_of_offStores (·.queue q) (fun _ => rfl) hoff
  let m := p.setQueue q { p.queue q with waiting := rest }
  have hsame : m.offQueues = e.offQueues := (show _ = p.offQueues from rfl).trans (Device.offQueues_of_offStores hoff)
  have hwrite : m.qWrite q a f.bytes = m.wr a f.bytes := Device.qWrite_memory f.bytes
    ((Device.eq_of_offQueues (·.inMemory a 1) (fun _ => rfl) hsame).trans hm)
    ((Device.eq_of_offQueues (fun m => (m.ten (m.qTenancy q)).log) (fun _ => rfl) hsame).trans hlog)
  refine ⟨m.wr a f.bytes, hsame, (p.queue_setQueue q _).trans (by rw [hqueue]), congrArg (memWrite · a f.bytes) hbytes.mem, ?_⟩
  rw [hfill, ← hwrite]

/-! ### Frames sent (R372) -/

/-- The bytes of a frame read from memory that nothing stands in the way of. -/
theorem Device.qFetch_open {e : Device} {q a n : Nat} {raw : List Byte} (ha : fieldAt raw 0 8 = a)
    (hveto : e.vetoRole (e.qTenancy q) a n false false = none) (hm : e.inMemory a 1 = true)
    (hopen : ∀ l ∈ lineAddrs a n, e.openLine l) (send : Device → List Byte → Device) : ∃ p : Device,
      p.offStores = e.offStores ∧ p.mem = e.mem ∧ e.qFetch q raw n .clean send = send p (e.rd a n) := by
  obtain ⟨-, hoff, hbytes⟩ := Device.pass_open (qPort q) hopen false
  have hfetch : e.qFetch q raw n .clean send = e.via (qPort q) a n false fun d => send d (d.rd a n) := by
    simp only [Device.qFetch, ha, hveto]
    obtain ⟨half, hr⟩ | ⟨bank, hr⟩ := Device.region_of_inMemory hm <;> rw [hr] <;> rfl
  rw [Device.via_open (qPort q) hopen false] at hfetch
  exact ⟨_, hoff, hbytes.mem, by rw [hfetch, Device.rd_congr hbytes.mem]⟩

section
variable {e : Device} {q : Nat} {raw : List Byte} {len port : Nat} (hlen : fieldAt raw 8 2 = len) (hport : fieldAt raw 0x0C 1 = port)
include hlen hport

/-- A length outside the limits of the switch, or a port or a flag that it does not take. -/
theorem tsnTake_unsupported (h : len < 60 ∨ 9212 < len ∨ (fieldAt raw 0x0A 1 % 2 = 1 ∧ port = 0xFF) ∨ (10 ≤ port ∧ port ≠ 0xFF))
    (ecc : Ecc) : tsnTake e q raw ecc = e.writeBack q raw St.sizeUnsupported 0x01 [] := by
  unfold tsnTake
  rw [hlen, hport]
  exact if_pos (by simpa [or_assoc] using h)

section
variable (hlo : 60 ≤ len) (hhi : len ≤ 9212) (hp : port < 10)
include hlo hhi hp

/-- A frame directed to a port. -/
theorem tsnTake_eq (ecc : Ecc) : tsnTake e q raw ecc =
    if e.unitOff (80 + port) then e.writeBack q raw St.unitOffline 0 [] else e.qFetch q raw len ecc fun d bs => tsnSend d q raw bs := by
  have hok : ¬(len < 60 || 9212 < len || (fieldAt raw 0x0A 1 % 2 = 1 && port = 0xFF) || (10 ≤ port && port ≠ 0xFF)) = true := by
    simp only [Bool.or_eq_true, Bool.and_eq_true, decide_eq_true_eq]
    omega
  unfold tsnTake
  rw [hlen, hport]
  exact (if_neg hok).trans (by simp [hp])

end

end

/-- A frame directed to a port that the frame memory has room for. -/
theorem tsnSend_directed {e : Device} {q : Nat} {raw bs : List Byte} {port : Nat} (hport : fieldAt raw 0x0C 1 = port) (hp : port < 10)
    (hfits : e.frameBytes + frameSize bs ≤ frameMemory) : tsnSend e q raw bs =
      (Device.toEgress { e with nextId := e.nextId + 1 } port (pcpOf bs (q % 8))
        { id := e.nextId, bytes := bs, oneStep := decide (fieldAt raw 0x0A 1 % 2 = 1), origin := some (q, (e.queue q).head, raw) }).setQueue
        q { e.queue q with departing := true } := by
  have hone : ¬port = 0xFF := by omega
  unfold tsnSend
  simp only [hport, hone, Nat.not_lt.2 hfits, if_false]

/-! ### The frame memory (R366, R370) -/

section
variable {α β : Type} (g : α → List β) (unset : α)

/-- What a table's value at a key lists, some entry of the table lists. -/
theorem exists_mem_of_mem_tgetD (hunset : g unset = []) {m : Table α} {k : Nat} {z : β} (h : z ∈ g (tgetD m k unset)) :
    ∃ e ∈ m, e.1 = k ∧ z ∈ g e.2 := by
  induction m with
  | nil =>
    rw [show tgetD ([] : Table α) k unset = unset from rfl, hunset] at h
    cases h
  | cons e m ih =>
    obtain ⟨j, w⟩ := e
    by_cases hj : j = k
    · rw [tgetD, tget, if_pos hj] at h
      exact ⟨(j, w), List.mem_cons_self, hj, h⟩
    · rw [tgetD, tget, if_neg hj] at h
      obtain ⟨e, he, hk⟩ := ih h
      exact ⟨e, List.mem_cons_of_mem _ he, hk⟩

/-- A value replaced by one that lists the same leaves what the entries of some keys list. -/
theorem exists_mem_tput_iff (hunset : g unset = []) (P : Nat → Prop) (m : Table α) {k : Nat} {y : α}
    (h : g y = g (tgetD m k unset)) (z : β) :
    (∃ e ∈ tput m k y, P e.1 ∧ z ∈ g e.2) ↔ ∃ e ∈ m, P e.1 ∧ z ∈ g e.2 := by
  induction m with
  | nil =>
    have hy : g y = [] := h.trans hunset
    simp [tput, hy]
  | cons e m ih =>
    obtain ⟨j, w⟩ := e
    have hown := exists_mem_of_mem_tgetD g unset hunset (m := (j, w) :: m) (k := k) (z := z)
    rw [← h] at hown
    unfold tput
    split
    · simp only [List.exists_mem_cons_iff] at hown ⊢
      refine ⟨?_, .inr⟩
      rintro (⟨hP, hz⟩ | hold)
      · obtain ⟨hk, hw⟩ | ⟨e, he, hk, hw⟩ := hown hz
        · exact .inl ⟨by rwa [hk], hw⟩
        · exact .inr ⟨e, he, by rwa [hk], hw⟩
      · exact hold
    · split
      · next hj =>
        rw [tgetD, tget, if_pos hj, Option.getD_some] at h
        simp only [List.exists_mem_cons_iff, h, hj]
      · next hj =>
        rw [tgetD, tget, if_neg hj] at h
        simp only [List.exists_mem_cons_iff]
        exact or_congr_right (ih h)

end

/-- A list without its later duplicates has none. -/
theorem nodup_eraseDups {α : Type} [BEq α] [LawfulBEq α] (l : List α) : l.eraseDups.Nodup := by
  induction h : l.length using Nat.strong_induction_on generalizing l with
  | _ n ih =>
    cases l with
    | nil => simp
    | cons a l =>
      subst h
      rw [List.eraseDups_cons, List.nodup_cons]
      exact ⟨by simp [List.mem_eraseDups], ih _ (Nat.lt_succ_of_le (List.length_filter_le _ _)) _ rfl⟩

/-- A queue replaced by one with the same waiting frames: the frame memory holds what it held. -/
theorem Device.frameBytes_setQueue {d : Device} {q : Nat} {y : FrameQueue} (hw : y.waiting = (d.queue q).waiting)
    (hy : y ≠ FrameQueue.unset) : (d.setQueue q y).frameBytes = d.frameBytes := by
  let g : FrameQueue → List (Nat × Nat) := fun x => x.waiting.map fun f => (f.id, frameSize f.bytes)
  have hput : (d.setQueue q y).queues = tput d.queues q y := if_neg hy
  have hmem : ∀ z, z ∈ (d.setQueue q y).heldFrames ↔ z ∈ d.heldFrames := fun z => by
    have hqueues := exists_mem_tput_iff g FrameQueue.unset rfl (· < 32) d.queues (k := q) (y := y)
      (congrArg (List.map fun f : RxFrame => (f.id, frameSize f.bytes)) hw) z
    simp only [Device.heldFrames, List.mem_eraseDups, List.mem_append, List.mem_flatMap, List.mem_filter, decide_eq_true_eq, hput,
      and_assoc]
    exact or_congr_right hqueues
  have hperm : (d.setQueue q y).heldFrames.Perm d.heldFrames :=
    (List.perm_ext_iff_of_nodup (nodup_eraseDups _) (nodup_eraseDups _)).2 hmem
  exact (hperm.map _).sum_eq

/-! ### Frames of the host queues (R385, R386) -/

section
variable {e : Device} {q : Nat} {raw : List Byte} {len : Nat} (hlen : fieldAt raw 8 2 = len)
include hlen

theorem gwyTake_unsupported (h : lengthOk len = false) (fetched : BitVec 96) (ecc : Ecc) : gwyTake e q raw fetched ecc =
    (e.sizeDrop (16 + q) 0x3F (hostFrame raw (List.replicate len 0)) (stampOf fetched 0 0).1).writeBack q raw
      St.sizeUnsupported 0x01 [] := by
  unfold gwyTake
  rw [hlen]
  exact if_pos (by rw [h]; rfl)

theorem gwyTake_supported (h : lengthOk len = true) (h0 : len ≠ 0) (fetched : BitVec 96) (ecc : Ecc) : gwyTake e q raw fetched ecc =
    e.qFetch q raw len ecc fun d bs => gwySend d q raw bs fetched := by
  unfold gwyTake
  rw [hlen]
  exact (if_neg (by rw [h]; decide)).trans (if_neg h0)

end

/-- A frame with one destination, a controller whose transmit queue has room. -/
theorem Device.route_toCan {e : Device} {src off : Nat} {f : CanFrame} {w : Word} (hroute : e.routeFor src f = some off)
    (hdest : (((List.range 4).map fun j => e.reg (off + 16 + 8 * j)).filter fun w => bitOf w 63) = [w])
    (hport : bitsAt w 48 6 < 16) (hlen : bitOf w 60 = true ∨ f.data.length ≤ 8)
    (hroom : (e.canCtl (bitsAt w 48 6)).txq.length < txQueueSize) (time : Word × BitVec 16) (bus : Nat) :
    e.route src f time bus = e.setCan (bitsAt w 48 6)
      { e.canCtl (bitsAt w 48 6) with txq := (e.canCtl (bitsAt w 48 6)).txq ++ [copyFor f w] } := by
  have hfits : ¬(!bitOf w 60 && 8 < f.data.length) = true := by
    simp only [Bool.and_eq_true, Bool.not_eq_true', decide_eq_true_eq, not_and_or, Bool.not_eq_false, Nat.not_lt]
    exact hlen
  simp only [Device.route, hroute, hdest, List.foldl_cons, List.foldl_nil, Device.sendCopy, hfits, hport, Device.toCan,
    Nat.not_le.2 hroom, if_false, if_true, Bool.false_eq_true]

/-! ### The courses of a descriptor that is fetched -/

section
variable {d : Device} {q a : Nat} (hready : d.qReady q = true) (hdesc : (d.queue q).desc = none)
  (hb : d.BackOpen q (d.queue q).head a) (hopen : ∀ l ∈ lineAddrs a 32, d.openLine l)
include hready hdesc hb hopen

/-- A descriptor that is fetched, in the hands of its queue. -/
theorem queueDescriptorTaken_holding : ∃ e : Device, d.AtHead e q ∧ e.queue q = d.holding q (d.rd a 32) ∧
    e.frameBytes = d.frameBytes ∧ queueDescriptorTaken d q .clean = queueGot e q (d.rd a 32) d.alm.count .clean := by
  obtain ⟨p, hoff, hmem, htaken⟩ := queueDescriptorTaken_fetched hready hdesc hb hopen
  have hqueue : p.queue q = d.queue q := Device.eq_of_offStores (·.queue q) (fun _ => rfl) hoff
  have hwaiting : (d.holding q (d.rd a 32)).waiting = (p.queue q).waiting := by rw [hqueue]; rfl
  have hset : d.holding q (d.rd a 32) ≠ FrameQueue.unset := fun h => nomatch congrArg FrameQueue.desc h
  exact ⟨_, Device.atHead_holding hoff hmem _, p.queue_setQueue q _, (Device.frameBytes_setQueue hwaiting hset).trans
    (Device.eq_of_offStores Device.frameBytes (fun _ => rfl) hoff), htaken⟩

/-- A ready receive queue (R372). -/
theorem queueDescriptorTaken_received {b : Nat} {f : RxFrame} {rest : List RxFrame} (hrx : qReceives q = true)
    (hbuf : fieldAt (d.rd a 32) 0 8 = b) (hwaiting : (d.queue q).waiting = f :: rest)
    (hveto : d.vetoRole (d.qTenancy q) b f.bytes.length true false = none) (hm : d.inMemory b 1 = true)
    (hlines : ∀ l ∈ lineAddrs b f.bytes.length, d.openLine l) :
    (queueDescriptorTaken d q .clean).offQueues = d.offQueues ∧
      (queueDescriptorTaken d q .clean).queue q = { d.queue q with waiting := rest }.passed ∧
      (queueDescriptorTaken d q .clean).mem = memWrite (memWrite d.mem b f.bytes) a
        (backBytes (d.rd a 32) (d.queue q).head (d.qLog q) St.ok 0 (rxFields q f)) := by
  obtain ⟨e, hat, hholding, -, htaken⟩ := queueDescriptorTaken_holding hready hdesc hb hopen
  have hkept : ∀ {α : Type} (f : Device → α), (∀ x : Device, f x.offQueues = f x) → f e = f d := fun f hf =>
    Device.eq_of_offQueues f hf hat.off
  have hlines' : ∀ l ∈ lineAddrs b f.bytes.length, e.openLine l := by
    rw [hkept (fun m => ∀ l ∈ lineAddrs b f.bytes.length, m.openLine l) fun _ => rfl]
    exact hlines
  obtain ⟨m, hoff, hqueue, hmem, hfill⟩ := qFill_open hbuf ((congrArg FrameQueue.waiting hholding).trans hwaiting)
    ((hkept (fun m => m.vetoRole (m.qTenancy q) b f.bytes.length true false) fun _ => rfl).trans hveto)
    ((hkept (·.inMemory b 1) fun _ => rfl).trans hm)
    ((hkept (fun m => (m.ten (m.qTenancy q)).log) fun _ => rfl).trans hb.log) hlines'
  have hhead : (m.queue q).head = (d.queue q).head := by rw [hqueue]; exact hat.head
  have hoff' : m.offQueues = d.offQueues := hoff.trans hat.off
  have hback : m.BackOpen q (m.queue q).head a := by rw [hhead]; exact hb.of_offQueues hoff'
  obtain ⟨hdone, hq, hbytes⟩ := Device.writeBack_open hback (d.rd a 32) St.ok 0 (rxFields q f)
  have hgot : queueDescriptorTaken d q .clean = m.writeBack q (d.rd a 32) St.ok 0 (rxFields q f) :=
    htaken.trans ((if_pos hrx).trans hfill)
  rw [hgot]
  refine ⟨hdone.trans hoff', hq.trans ?_, hbytes.trans ?_⟩
  · rw [hqueue, hholding]
    rfl
  · rw [hhead, Device.eq_of_offQueues (·.qLog q) (fun _ => rfl) hoff', hmem, hat.mem]

section
variable (hrx : qReceives q = false)
include hrx

/-- A descriptor written back with a refusal of the switch. -/
theorem queueDescriptorTaken_refused (hq : q < 32) {status detail : Byte}
    (h : ∀ e : Device, e.offQueues = d.offQueues → tsnTake e q (d.rd a 32) .clean = e.writeBack q (d.rd a 32) status detail []) :
    d.Ended (queueDescriptorTaken d q .clean) q a (backBytes (d.rd a 32) (d.queue q).head (d.qLog q) status detail []) := by
  obtain ⟨e, hat, -, -, htaken⟩ := queueDescriptorTaken_holding hready hdesc hb hopen
  have hgot : queueGot e q (d.rd a 32) d.alm.count .clean = e.writeBack q (d.rd a 32) status detail [] :=
    (if_neg (Bool.eq_false_iff.1 hrx)).trans ((if_pos hq).trans (h e hat.off))
  rw [htaken, hgot]
  exact (hat.ended (.refl q e) hb _ _ _).1

/-- A length that no CAN frame has. -/
theorem queueDescriptorTaken_oversized (hq : 32 ≤ q) (hlen : lengthOk (fieldAt (d.rd a 32) 8 2) = false) :
    d.Ended (queueDescriptorTaken d q .clean) q a (backBytes (d.rd a 32) (d.queue q).head (d.qLog q) St.sizeUnsupported 0x01 []) ∧
      (queueDescriptorTaken d q .clean).regBit Reg.gwySticky 0 = true := by
  obtain ⟨e, hat, -, -, htaken⟩ := queueDescriptorTaken_holding hready hdesc hb hopen
  have hgot : queueGot e q (d.rd a 32) d.alm.count .clean = _ := (if_neg (Bool.eq_false_iff.1 hrx)).trans
    ((if_neg (Nat.not_lt.2 hq)).trans (gwyTake_unsupported rfl hlen d.alm.count .clean))
  obtain ⟨hquiet, hbit⟩ := e.quiet_sizeDrop q (16 + q) 0x3F
    (hostFrame (d.rd a 32) (List.replicate (fieldAt (d.rd a 32) 8 2) 0)) (stampOf d.alm.count 0 0).1
  obtain ⟨hended, hregs⟩ := hat.ended hquiet hb (d.rd a 32) St.sizeUnsupported 0x01
  rw [htaken, hgot]
  exact ⟨hended, by rwa [Device.regBit, Device.reg, hregs]⟩

section
variable {b n : Nat} (hbuf : fieldAt (d.rd a 32) 0 8 = b) (hlen : fieldAt (d.rd a 32) 8 2 = n)
  (hveto : d.vetoRole (d.qTenancy q) b n false false = none) (hm : d.inMemory b 1 = true)
  (hlines : ∀ l ∈ lineAddrs b n, d.openLine l)
include hbuf hlen hveto hm hlines

omit hrx hlen in
/-- The bytes of a frame to send are read, and sent by a device that holds the descriptor. -/
theorem queueDescriptorTaken_sent {send : Device → List Byte → Device}
    (h : ∀ e : Device, e.offQueues = d.offQueues →
      queueGot e q (d.rd a 32) d.alm.count .clean = e.qFetch q (d.rd a 32) n .clean send) :
    ∃ p : Device, d.AtHead p q ∧ p.queue q = d.holding q (d.rd a 32) ∧ p.frameBytes = d.frameBytes ∧
      queueDescriptorTaken d q .clean = send p (d.rd b n) := by
  obtain ⟨e, hat, hholding, hframes, htaken⟩ := queueDescriptorTaken_holding hready hdesc hb hopen
  have hkept : ∀ {α : Type} (f : Device → α), (∀ x : Device, f x.offQueues = f x) → f e = f d := fun f hf =>
    Device.eq_of_offQueues f hf hat.off
  have hlines' : ∀ l ∈ lineAddrs b n, e.openLine l := by
    rw [hkept (fun m => ∀ l ∈ lineAddrs b n, m.openLine l) fun _ => rfl]
    exact hlines
  obtain ⟨p, hoff, hmem, hfetch⟩ := Device.qFetch_open hbuf
    ((hkept (fun m => m.vetoRole (m.qTenancy q) b n false false) fun _ => rfl).trans hveto)
    ((hkept (·.inMemory b 1) fun _ => rfl).trans hm) hlines' send
  have hqueue : p.queue q = e.queue q := Device.eq_of_offStores (·.queue q) (fun _ => rfl) hoff
  refine ⟨p, ⟨(Device.offQueues_of_offStores hoff).trans hat.off, hmem.trans hat.mem,
      by rw [hqueue, hat.head], by rw [hqueue, hat.passed]⟩,
    hqueue.trans hholding, (Device.eq_of_offStores Device.frameBytes (fun _ => rfl) hoff).trans hframes, ?_⟩
  rw [htaken, h e hat.off, hfetch, Device.rd_congr hat.mem]

/-- A frame of the switch directed to a port that is online, with room for it (R372). -/
theorem queueDescriptorTaken_directed {port : Nat} (hq : q < 32) (hport : fieldAt (d.rd a 32) 0x0C 1 = port) (hlo : 60 ≤ n)
    (hhi : n ≤ 9212) (hp : port < 10) (hon : d.unitOff (80 + port) = false) (hfits : d.frameBytes + (n + 4) ≤ frameMemory) :
    let e := queueDescriptorTaken d q .clean
    let k := 8 * port + pcpOf (d.rd b n) (q % 8)
    e.mem = d.mem ∧ e.regs = d.regs ∧ e.queue q = { d.holding q (d.rd a 32) with departing := true } ∧
      tgetD e.sw.egress k [] = tgetD d.sw.egress k [] ++
        [{ id := d.nextId, bytes := d.rd b n, oneStep := decide (fieldAt (d.rd a 32) 0x0A 1 % 2 = 1),
           origin := some (q, (d.queue q).head, d.rd a 32) }] := by
  obtain ⟨p, hat, hholding, hframes, htaken⟩ := queueDescriptorTaken_sent hready hdesc hb hopen hbuf hveto hm hlines
    (send := fun d' bs => tsnSend d' q (d.rd a 32) bs) fun e he =>
      (if_neg (Bool.eq_false_iff.1 hrx)).trans ((if_pos hq).trans ((tsnTake_eq hlen hport hlo hhi hp .clean).trans
        (if_neg (Bool.eq_false_iff.1 ((Device.eq_of_offQueues (·.unitOff (80 + port)) (fun _ => rfl) he).trans hon)))))
  have hsize : frameSize (d.rd b n) = n + 4 := congrArg (· + 4) (memRead_length d.mem b n)
  have hsend := htaken.trans (tsnSend_directed hport hp (by rwa [hframes, hsize]))
  have hkept : ∀ {α : Type} (f : Device → α), (∀ x : Device, f x.offQueues = f x) → f p = f d := fun f hf =>
    Device.eq_of_offQueues f hf hat.off
  intro e k
  rw [show e = _ from hsend]
  refine ⟨hat.mem, hkept Device.regs fun _ => rfl, (Device.queue_setQueue _ _ _).trans (by rw [hholding]), ?_⟩
  rw [← hat.head, ← hkept Device.nextId fun _ => rfl, ← hkept Device.sw fun _ => rfl]
  exact tgetD_tputD_self _ _ _ _

/-- A frame of a host queue with one destination, a controller whose transmit queue has room (R386). -/
theorem queueDescriptorTaken_routed {off : Nat} {w : Word} (hq : 32 ≤ q) (hok : lengthOk n = true) (h0 : n ≠ 0)
    (hroute : d.routeFor (16 + q) (hostFrame (d.rd a 32) (d.rd b n)) = some off)
    (hdest : (((List.range 4).map fun j => d.reg (off + 16 + 8 * j)).filter fun w => bitOf w 63) = [w])
    (hport : bitsAt w 48 6 < 16) (hshort : bitOf w 60 = true ∨ n ≤ 8)
    (hroom : (d.canCtl (bitsAt w 48 6)).txq.length < txQueueSize) :
    let e := queueDescriptorTaken d q .clean
    let k := bitsAt w 48 6
    e.regs = d.regs ∧ e.queue q = (d.queue q).passed ∧
      (e.canCtl k).txq = (d.canCtl k).txq ++ [copyFor (hostFrame (d.rd a 32) (d.rd b n)) w] ∧
      e.mem = memWrite d.mem a (backBytes (d.rd a 32) (d.queue q).head (d.qLog q) St.ok 0
        (stampFields (some (stampOf d.alm.count 0 0)))) := by
  obtain ⟨p, hat, hholding, -, htaken⟩ := queueDescriptorTaken_sent hready hdesc hb hopen hbuf hveto hm hlines
    (send := fun d' bs => gwySend d' q (d.rd a 32) bs d.alm.count) fun e he =>
      (if_neg (Bool.eq_false_iff.1 hrx)).trans ((if_neg (Nat.not_lt.2 hq)).trans (gwyTake_supported hlen hok h0 d.alm.count .clean))
  have hkept : ∀ {α : Type} (f : Device → α), (∀ x : Device, f x.offQueues = f x) → f p = f d := fun f hf =>
    Device.eq_of_offQueues f hf hat.off
  intro e k
  let f := hostFrame (d.rd a 32) (d.rd b n)
  let m := p.setCan k { p.canCtl k with txq := (p.canCtl k).txq ++ [copyFor f w] }
  have hsource : 48 + (q - 32) = 16 + q := by omega
  have hsend : e = m.writeBack q (d.rd a 32) St.ok 0 (stampFields (some (stampOf d.alm.count 0 0))) := by
    have hcopy := Device.route_toCan ((hkept (·.routeFor (16 + q) f) fun _ => rfl).trans hroute)
      ((hkept (fun m => ((List.range 4).map fun j => m.reg (off + 16 + 8 * j)).filter fun w => bitOf w 63) fun _ => rfl).trans hdest)
      hport (hshort.imp_right fun h => (memRead_length d.mem b n).trans_le h)
      ((congrArg List.length (hkept (fun m => (m.canCtl k).txq) fun _ => rfl)).trans_lt hroom)
    refine htaken.trans ?_
    unfold gwySend
    dsimp only
    rw [hsource, hcopy]
  have hqueue : m.queue q = d.holding q (d.rd a 32) := hholding
  have hhead : (m.queue q).head = (d.queue q).head := by rw [hqueue]; rfl
  have hopened : p.BackOpen q (d.queue q).head a := hb.of_offQueues hat.off
  have hback : m.BackOpen q (m.queue q).head a := by
    rw [hhead]
    exact ⟨hopened.addr, hopened.veto, hopened.mem, hopened.log, hopened.line⟩
  obtain ⟨hdone, hpassed, hbytes⟩ := Device.writeBack_open hback (d.rd a 32) St.ok 0
    (stampFields (some (stampOf d.alm.count 0 0)))
  have hregs : m.regs = d.regs := hkept Device.regs fun _ => rfl
  have htxq : (m.canCtl k).txq = (d.canCtl k).txq ++ [copyFor f w] := by
    rw [← hkept (fun m => (m.canCtl k).txq) fun _ => rfl]
    exact congrArg CanCtl.txq (tgetD_tputD_self _ _ _ _)
  have hlog : m.qLog q = d.qLog q := hkept (·.qLog q) fun _ => rfl
  rw [hsend]
  refine ⟨(Device.eq_of_offQueues Device.regs (fun _ => rfl) hdone).trans hregs, hpassed.trans (by rw [hqueue]; rfl),
    (Device.eq_of_offQueues (fun m => (m.canCtl k).txq) (fun _ => rfl) hdone).trans htxq, ?_⟩
  rw [hbytes, hhead, hlog]
  exact congrArg (memWrite · a _) hat.mem

end

end

end

/-! ### The obligation -/

section
variable {s : State} (hlive : s.dev.live = true)
include hlive

theorem exec_qTailWrite_eq {who : Who} (q : QueueRef) (v : Half) (hp : s.dev.present who = true) :
    exec (.qTailWrite who q v) s = .next { s with dev := qTailWrite s.dev.begun (queueKey q) v } :=
  actBy_eq (fun d => qTailWrite d (queueKey q) v) hlive hp

theorem exec_qSeenWrite_eq {who : Who} (q : QueueRef) (v : Half) (hp : s.dev.present who = true) :
    exec (.qSeenWrite who q v) s = .next { s with dev := qSeenWrite s.dev.begun (queueKey q) v } :=
  actBy_eq (fun d => qSeenWrite d (queueKey q) v) hlive hp

theorem exec_queueDescriptorTaken (q : QueueRef) (ecc : Ecc) : exec (.queueDescriptorTaken q ecc) s =
    .next { s with dev := queueDescriptorTaken s.dev.begun (queueKey q) ecc } :=
  actLive_eq (fun d => queueDescriptorTaken d (queueKey q) ecc) hlive

end

/-- Settles O53: the counts of a queue, and each course of the descriptor at its head. -/
theorem frameQueues : Obligations.FrameQueues := by
  intro q s hlive d k x at_ passes next stops
  have htake := exec_queueDescriptorTaken hlive q
  have hnext : ∀ {i : Instr} {m n : Device}, exec i s = .next { s with dev := m } → m = n → exec i s = .next { s with dev := n } :=
    fun h hm => hm ▸ h
  have hstop : ∀ {i : Instr} {e : Device}, e.mem = s.dev.mem → e.queues = s.dev.queues →
      exec i s = .next { s with dev := e.stopQueue k } → stops i := fun hmem hqueues h => by
    obtain ⟨hmem', hqueue, hbit, hother⟩ := s.dev.stopQueue_spec k hmem hqueues
    exact ⟨_, h, hmem', hqueue, hbit, hother⟩
  refine ⟨fun who v hp => ?_, fun hready ecc => hnext (htake ecc) (queueDescriptorTaken_unready (d := d) hready ecc),
    fun hready hdesc => ⟨fun hveto => ?_, fun l hl hveto hm hdone hheld => ?_, fun hveto hm hlog hpasses => ?_⟩⟩
  · have htail := exec_qTailWrite_eq hlive q v hp
    have hseen := exec_qSeenWrite_eq hlive q v hp
    refine ⟨fun hunset i hi => ?_, fun hset hle => hnext htail (qTailWrite_taken (d := d) hset hle),
      fun hset hle => hnext hseen (qSeenWrite_taken (d := d) hset hle),
      fun hrun hlt => hstop (e := d.reply .written) rfl rfl (hnext htail (qTailWrite_beyond (d := d) hrun hlt)),
      fun hrun hlt => hstop (e := d.reply .written) rfl rfl (hnext hseen (qSeenWrite_beyond (d := d) hrun hlt))⟩
    simp only [List.mem_cons, List.not_mem_nil, or_false] at hi
    rcases hi with rfl | rfl
    · exact hnext htail (qTailWrite_unset (d := d) hunset)
    · exact hnext hseen (qSeenWrite_unset (d := d) hunset)
  · obtain ⟨v, hv⟩ := Option.isSome_iff_exists.1 hveto
    have hregs := d.offRegs_noteVeto (d.qAddr k (d.queue k).head) v
    have hmem : (d.noteVeto (d.qAddr k (d.queue k).head) v).mem = d.mem := Device.eq_of_offRegs Device.mem (fun _ => rfl) hregs
    have hqueues : (d.noteVeto (d.qAddr k (d.queue k).head) v).queues = d.queues :=
      Device.eq_of_offRegs Device.queues (fun _ => rfl) hregs
    exact hstop hmem hqueues (hnext (htake .clean) (queueDescriptorTaken_vetoed (d := d) hready hdesc hv .clean))
  · have hheld' : d.portHolds (qPort k) l = true := (s.dev.begun_portHolds _ _).trans hheld
    obtain ⟨w, hw⟩ := queueDescriptorTaken_held (d := d) hready hdesc rfl hveto hm hl hdone hheld' .clean
    exact ⟨_, hnext (htake .clean) hw, rfl, rfl⟩
  intro raw buf len port back ends
  have hb : d.BackOpen k (d.queue k).head at_ := ⟨rfl, hveto, hm, hlog, hpasses.1⟩
  have hopen : ∀ l ∈ lineAddrs at_ 32, d.openLine l := hpasses.2
  have hends : ∀ {e : Ecc} {status detail : Byte},
      d.Ended (queueDescriptorTaken d k e) k at_ (back status detail []) → ends e status detail := fun {e _ _} h =>
    ⟨_, htake e, h.sw, h.can, h.acf, h.queue, h.mem⟩
  refine ⟨fun i hi => hends ?_, fun f rest hrx hwaiting hbuf hpass hfree => ?_, fun hrx hk hbad => hends ?_,
    fun hrx hk hlo hhi hp hoff => hends ?_, fun hrx hk hbad => ?_, fun hfree hbuf hpass =>
      ⟨fun hrx hk hlo hhi hp hon hfits => ?_, ?_⟩⟩
  · obtain ⟨p, m, hat, hquiet, htaken⟩ := queueDescriptorTaken_uncorrectable (d := d) hready hdesc hb hopen hi
    rw [htaken]
    exact (hat.ended hquiet hb _ _ _).1
  · obtain ⟨hoff, hqueue, hmem⟩ := queueDescriptorTaken_received (d := d) hready hdesc hb hopen hrx rfl hwaiting hfree hbuf hpass.2
    have hsent : (queueDescriptorTaken d k .clean).sent = d.sent := Device.eq_of_offQueues Device.sent (fun _ => rfl) hoff
    have hregs : (queueDescriptorTaken d k .clean).regs = d.regs := Device.eq_of_offQueues Device.regs (fun _ => rfl) hoff
    exact ⟨_, htake .clean, hsent, hregs, hqueue, hmem⟩
  · exact queueDescriptorTaken_refused (d := d) hready hdesc hb hopen hrx hk fun e _ => tsnTake_unsupported rfl rfl hbad .clean
  · refine queueDescriptorTaken_refused (d := d) hready hdesc hb hopen hrx hk fun e he => ?_
    exact (tsnTake_eq rfl rfl hlo hhi hp .clean).trans
      (if_pos ((Device.eq_of_offQueues (·.unitOff (80 + port)) (fun _ => rfl) he).trans hoff))
  · obtain ⟨hended, hbit⟩ := queueDescriptorTaken_oversized (d := d) hready hdesc hb hopen hrx hk hbad
    exact ⟨hends hended, _, htake .clean, hbit⟩
  · exact ⟨_, htake .clean, queueDescriptorTaken_directed (d := d) hready hdesc hb hopen hrx rfl rfl hfree hbuf hpass.2 hk rfl hlo hhi hp
      hon hfits⟩
  · intro off w hrx hk hok h0 f hroute hdest hport hshort hroom
    exact ⟨_, htake .clean, queueDescriptorTaken_routed (d := d) hready hdesc hb hopen hrx rfl rfl hfree hbuf hpass.2 hk hok h0 hroute hdest
      hport hshort hroom⟩

end Sys2Proof.Machine

/-!
PROOF. The Herald's operations (O15 to O20): bits of registers, what each operation on a source leaves of the other sources, and
what it does to its own.
-/

namespace Sys2Proof.Machine

/-! ### Bits of a register -/

section
variable (d : Device)

/-- A write to one register leaves the bits of the others. -/
theorem Device.regBit_setReg_ne {a b : Nat} (v : Word) (h : b ≠ a) (i : Nat) : (d.setReg a v).regBit b i = d.regBit b i :=
  congrArg (bitOf · i) (d.reg_setReg_ne v h)

/-- A mask set in a register, bit by bit. -/
theorem Device.regBit_orReg_eq (a m : Nat) {i : Nat} (hi : i < 64) : (d.orReg a m).regBit a i = (d.regBit a i || m.testBit i) := by
  rw [Device.regBit, Device.orReg, Device.reg_setReg, bitOf_or, bitOf, bitOf, BitVec.getLsbD_ofNat]
  simp [hi, Device.regBit, bitOf]

/-- A mask cleared in a register, bit by bit. -/
theorem Device.regBit_clrReg_eq (a m : Nat) {i : Nat} (hi : i < 64) : (d.clrReg a m).regBit a i = (d.regBit a i && !m.testBit i) := by
  rw [Device.regBit, Device.clrReg, Device.reg_setReg, bitOf, BitVec.getLsbD_and, BitVec.getLsbD_not, BitVec.getLsbD_ofNat]
  simp [hi, Device.regBit, bitOf]

end

/-! ### Operations on the Herald alone -/

/-- The device without its Herald. -/
def Device.offHerald (d : Device) : Device := { d with herald := Herald.reset }

/-- Devices that differ in their Herald alone agree in whatever does not look at it. -/
theorem Device.eq_of_offHerald {α : Type} (f : Device → α) (hf : ∀ x : Device, f x.offHerald = f x) {d e : Device}
    (h : e.offHerald = d.offHerald) : f e = f d := by
  rw [← hf e, h, hf]

section
variable (d : Device)

/-- The request lines noted: the Herald remembers other lines, and nothing else changes. -/
theorem Device.noteLines_eq : ∃ l, d.noteLines = { d with herald := { d.herald with lineSeen := l } } := by
  unfold Device.noteLines
  split
  · exact ⟨_, rfl⟩
  · exact ⟨_, rfl⟩

@[simp] theorem Device.offHerald_noteLines : d.noteLines.offHerald = d.offHerald := by
  obtain ⟨l, h⟩ := d.noteLines_eq
  exact (congrArg Device.offHerald h).trans rfl

@[simp] theorem Device.noteLines_pend : d.noteLines.herald.pend = d.herald.pend := by
  obtain ⟨l, h⟩ := d.noteLines_eq
  exact congrArg (·.herald.pend) h

@[simp] theorem Device.noteLines_inserv : d.noteLines.herald.inserv = d.herald.inserv := by
  obtain ⟨l, h⟩ := d.noteLines_eq
  exact congrArg (·.herald.inserv) h

@[simp] theorem Device.noteLines_stamps : d.noteLines.herald.stamps = d.herald.stamps := by
  obtain ⟨l, h⟩ := d.noteLines_eq
  exact congrArg (·.herald.stamps) h

@[simp] theorem Device.noteLines_out : d.noteLines.herald.out = d.herald.out := by
  obtain ⟨l, h⟩ := d.noteLines_eq
  exact congrArg (·.herald.out) h

@[simp] theorem Device.noteLines_regs : d.noteLines.regs = d.regs :=
  Device.eq_of_offHerald Device.regs (fun _ => rfl) d.offHerald_noteLines

@[simp] theorem Device.noteLines_mem : d.noteLines.mem = d.mem :=
  Device.eq_of_offHerald Device.mem (fun _ => rfl) d.offHerald_noteLines

@[simp] theorem Device.noteLines_answer : d.noteLines.answer = d.answer :=
  Device.eq_of_offHerald Device.answer (fun _ => rfl) d.offHerald_noteLines

@[simp] theorem Device.noteLines_reg (a : Nat) : d.noteLines.reg a = d.reg a :=
  Device.eq_of_offHerald (·.reg a) (fun _ => rfl) d.offHerald_noteLines

/-- Following a level changes the Herald alone. -/
@[simp] theorem Device.offHerald_follow (x : Nat) : (d.follow x).offHerald = d.offHerald := by
  unfold Device.follow
  repeat' split
  all_goals rfl

end

/-! ### Sources that an operation spares -/

/-- What every operation on a source leaves: only registers and the Herald change, the registers below HRD_LOSTw stand, and no bit
of a register is cleared. -/
structure Device.Heralded (d e : Device) : Prop where
  only : ∃ r h, e = { d with regs := r, herald := h }
  low : ∀ a < 0x301200, e.reg a = d.reg a
  set : ∀ b k, d.regBit b k = true → e.regBit b k = true

/-- An operation that leaves the pending bit and the stamp of source `u` besides. -/
structure Device.Spared (u : Nat) (d e : Device) : Prop extends Device.Heralded d e where
  pend : u ∈ e.herald.pend ↔ u ∈ d.herald.pend
  stamp : tgetD e.herald.stamps u 0 = tgetD d.herald.stamps u 0

namespace Device.Heralded

variable {d e f : Device}

theorem trans (h : d.Heralded e) (g : e.Heralded f) : d.Heralded f := by
  obtain ⟨⟨r, k, rfl⟩, hlow, hset⟩ := h
  obtain ⟨⟨r', k', rfl⟩, hlow', hset'⟩ := g
  exact ⟨⟨r', k', rfl⟩, fun a ha => (hlow' a ha).trans (hlow a ha), fun b i hb => hset' b i (hset b i hb)⟩

theorem of_offHerald (h : e.offHerald = d.offHerald) : d.Heralded e := by
  have hreg : ∀ a, e.reg a = d.reg a := fun a => Device.eq_of_offHerald (·.reg a) (fun _ => rfl) h
  refine ⟨⟨d.regs, e.herald, ?_⟩, fun a _ => hreg a, fun b k hb => ?_⟩
  · exact congrArg (fun x : Device => { x with herald := e.herald }) h
  · rwa [Device.regBit, hreg]

theorem mem (h : d.Heralded e) : e.mem = d.mem := by
  obtain ⟨⟨r, k, rfl⟩, -⟩ := h
  rfl

theorem answer (h : d.Heralded e) : e.answer = d.answer := by
  obtain ⟨⟨r, k, rfl⟩, -⟩ := h
  rfl

theorem ns (h : d.Heralded e) : e.ns = d.ns := by
  obtain ⟨⟨r, k, rfl⟩, -⟩ := h
  rfl

/-- The settings of a source stand. -/
theorem levelSense (h : d.Heralded e) {u : Nat} (hu : u < 1024) : e.levelSense u = d.levelSense u := by
  unfold Device.levelSense Device.sense Device.fld
  rw [h.low _ (by unfold Reg.hrdSrc; omega)]

end Device.Heralded

namespace Device.Spared

variable {d e f : Device} {u x : Nat}

theorem refl (u : Nat) (d : Device) : Device.Spared u d d := ⟨.of_offHerald rfl, Iff.rfl, rfl⟩

theorem trans (h : Device.Spared u d e) (g : Device.Spared u e f) : Device.Spared u d f :=
  ⟨h.toHeralded.trans g.toHeralded, g.pend.trans h.pend, g.stamp.trans h.stamp⟩

theorem noteLines (u : Nat) (d : Device) : Device.Spared u d d.noteLines :=
  ⟨.of_offHerald d.offHerald_noteLines, by rw [Device.noteLines_pend], by rw [Device.noteLines_stamps]⟩

theorem setOut (u : Nat) (d : Device) (x : Nat) (v : Bool) : Device.Spared u d (d.setOut x v) := ⟨.of_offHerald rfl, Iff.rfl, rfl⟩

variable (d) (h : u ≠ x)
include h

theorem pendSet (stamp : Word) (byLevel : Bool) : Device.Spared u d (d.pendSet x stamp byLevel) :=
  ⟨.of_offHerald rfl, (mem_addMember _ _ _).trans (or_iff_right h), tgetD_tputD_ne _ _ _ _ h⟩

theorem pendClear : Device.Spared u d (d.pendClear x) :=
  ⟨.of_offHerald rfl, (mem_dropMember _ _ _).trans (and_iff_left h), rfl⟩

theorem follow : Device.Spared u d (d.follow x) := by
  unfold Device.follow
  repeat' split
  exacts [.refl u d, .refl u d, ⟨.of_offHerald rfl, Iff.rfl, rfl⟩, pendSet d h _ _, pendClear d h, .refl u d]

end Device.Spared

/-! ### Edge events (R296, R302) -/

section
variable (d : Device) (x : Nat) (stamp : Word)

/-- The registers of HRD_LOSTw stand above the settings of the sources. -/
theorem Device.heralded_edge : d.Heralded (d.edge x stamp) := by
  unfold Device.edge
  split
  · exact ⟨⟨_, _, rfl⟩, fun a ha => d.reg_setReg_ne _ (by unfold Reg.hrdLost; omega), fun _ _ => d.regBit_orReg_of_set _ _⟩
  · exact .of_offHerald rfl

theorem Device.spared_edge {u : Nat} (h : u ≠ x) : Device.Spared u d (d.edge x stamp) := by
  refine ⟨d.heralded_edge x stamp, ?_, ?_⟩ <;> unfold Device.edge <;> split
  exacts [Iff.rfl, (Device.Spared.pendSet d h stamp false).pend, rfl, (Device.Spared.pendSet d h stamp false).stamp]

variable {x}

/-- An event of a source that is not pending sets its bit with the stamp. -/
theorem Device.edge_of_not_pending (h : x ∉ d.herald.pend) : d.edge x stamp = d.pendSet x stamp false := by
  simp [Device.edge, Device.isPending, h]

/-- One of a source that is pending sets its bit of HRD_LOST. -/
theorem Device.edge_of_pending (h : x ∈ d.herald.pend) : d.edge x stamp = d.orReg (Reg.hrdLost (x / 32)) (2 ^ (x % 32)) := by
  simp [Device.edge, Device.isPending, h]

theorem Device.mem_pend_edge : x ∈ (d.edge x stamp).herald.pend := by
  by_cases h : x ∈ d.herald.pend
  · rwa [d.edge_of_pending stamp h]
  · rw [d.edge_of_not_pending stamp h]
    exact (mem_addMember _ _ _).2 (.inl rfl)

theorem Device.stamp_edge (h : x ∉ d.herald.pend) : tgetD (d.edge x stamp).herald.stamps x 0 = stamp := by
  rw [d.edge_of_not_pending stamp h]
  exact tgetD_tputD_self _ _ _ _

theorem Device.lost_edge (h : x ∈ d.herald.pend) : (d.edge x stamp).regBit (Reg.hrdLost (x / 32)) (x % 32) = true := by
  rw [d.edge_of_pending stamp h]
  exact d.regBit_orReg _ (by omega)

end

/-! ### Levels followed -/

section
variable {d : Device} {x : Nat}

/-- A source of edge sense is not followed. -/
theorem Device.follow_edge (h : d.levelSense x = false) : d.follow x = d := by simp [Device.follow, h]

theorem Device.levelSense_of_asserted (h : d.asserted x = true) : d.levelSense x = true := by
  unfold Device.asserted at h
  exact (Bool.and_eq_true_iff.1 h).1

/-- A level source that is asserted and not in service is pending. -/
theorem Device.mem_pend_follow (h : d.asserted x = true) (hs : d.inService x = false) : x ∈ (d.follow x).herald.pend := by
  by_cases hp : x ∈ d.herald.pend <;>
    simp [Device.follow, Device.isPending, Device.pendSet, Device.levelSense_of_asserted h, h, hs, hp]

/-- One that is not asserted loses a pending bit that a level set. -/
theorem Device.follow_gone (hl : d.levelSense x = true) (h : d.asserted x = false) :
    d.follow x = if d.herald.byLevel.contains x then d.pendClear x else d := by
  simp [Device.follow, hl, h]

end

end Sys2Proof.Machine

/-!
PROOF. Claims, completions, machine timers and enables of the Herald (O15, O16, O18, O20): what each access comes to.
-/

namespace Sys2Proof.Machine

/-! ### Accesses to the registers of a target (R293, R303) -/

section
variable {d : Device} {who : Who} {t : Nat}

theorem Device.onTarget_open (hd : targetDenied who t = false) (ht : d.targetExists t = true) (unused f : Device → Device) :
    d.onTarget who t unused f = f d := by simp [Device.onTarget, hd, ht]

theorem Device.onTarget_denied (hd : targetDenied who t = true) (unused f : Device → Device) :
    d.onTarget who t unused f = d.reply .error := by simp [Device.onTarget, hd, Device.deny]

end

/-! ### Claims (R298) -/

section
variable {d : Device} {t x : Nat}

/-- The source chosen from a list is one of it. -/
theorem Device.mem_of_best {l : List Nat} (h : d.best l = some x) : x ∈ l := by
  induction l generalizing x with
  | nil => cases h
  | cons s l ih =>
    rw [Device.best] at h
    split at h
    · next u hu =>
      obtain rfl := Option.some.inj h
      split
      · exact List.mem_cons_of_mem _ (ih hu)
      · exact List.mem_cons_self
    · obtain rfl := Option.some.inj h
      exact List.mem_cons_self

/-- A source that is above every other of its list, or equal and lower in number, is the one chosen. -/
theorem Device.best_of_above {l : List Nat} (hx : x ∈ l)
    (h : ∀ u ∈ l, u ≠ x → d.priority u < d.priority x ∨ (d.priority u = d.priority x ∧ x < u)) : d.best l = some x := by
  induction l with
  | nil => cases hx
  | cons s l ih =>
    rw [Device.best]
    by_cases hs : s = x
    · subst hs
      split
      · next u hu =>
        by_cases hus : u = s
        · rw [hus, ite_self]
        · have habove := h u (List.mem_cons_of_mem _ (Device.mem_of_best hu)) hus
          rw [if_neg]
          simp only [Bool.or_eq_true, Bool.and_eq_true, decide_eq_true_eq]
          omega
      · rfl
    · have hl : x ∈ l := (List.mem_cons.1 hx).resolve_left (Ne.symm hs)
      have habove := h s List.mem_cons_self hs
      rw [ih hl fun u hu => h u (List.mem_cons_of_mem _ hu)]
      dsimp only
      rw [if_pos]
      simpa using habove

theorem Device.mem_eligibles (ht : d.targetExists t = true) (u : Nat) : u ∈ d.eligibles t ↔ d.eligible t u = true := by
  rw [Device.eligibles, if_pos ht, List.mem_filter, and_iff_right_iff_imp]
  intro h
  simp only [Device.eligible, Bool.and_eq_true] at h
  obtain ⟨⟨⟨hpending, -⟩, -⟩, -⟩ := h
  exact List.contains_iff_mem.1 hpending

/-- A source taken into service for a target, before the request lines are noted. -/
def Device.claimed (d : Device) (t x : Nat) : Device :=
  let e := (d.pendClear x).setReg (Reg.hrdStamp x) (tgetD d.herald.stamps x 0)
  { e with herald := { e.herald with
    inserv := tput d.herald.inserv x t, stamps := tdel d.herald.stamps x, lineSeen := dropMember d.herald.lineSeen t } }

@[simp] theorem Device.claimed_pend : (d.claimed t x).herald.pend = dropMember d.herald.pend x := rfl
@[simp] theorem Device.claimed_inserv : (d.claimed t x).herald.inserv = tput d.herald.inserv x t := rfl

theorem Device.claim_some (h : d.best (d.eligibles t) = some x) :
    d.claim t = (d.claimed t x).noteLines.reply (.value (BitVec.ofNat 64 x)) := by
  unfold Device.claim
  rw [h]
  rfl

theorem Device.claim_none (h : d.eligibles t = []) :
    d.claim t = { d with herald := { d.herald with lineSeen := dropMember d.herald.lineSeen t } }.reply
      (.value (if d.herald.lineSeen.contains t then 1023 else 0)) := by
  unfold Device.claim
  rw [h]
  rfl

end

/-- Settles O15: the source that a claim takes is the one chosen from the eligible ones, and where there is none only the line seen is
forgotten. -/
theorem heraldClaim : Obligations.HeraldClaim := by
  intro who t s hlive hp hdeny hex
  have hexec : exec (.hrdClaim who t) s = .next { s with dev := s.dev.begun.claim t } :=
    (actBy_eq (fun d => hrdClaim d who t) hlive hp).trans
      (by rw [hrdClaim, Device.onTarget_open (d := s.dev.begun) hdeny hex])
  have hmem := Device.mem_eligibles (d := s.dev.begun) (t := t) hex
  refine ⟨fun x hx habove => ?_, fun hnone => ?_⟩
  · have hbest : s.dev.begun.best (s.dev.begun.eligibles t) = some x :=
      Device.best_of_above ((hmem x).2 hx) fun u hu hne => habove u ((hmem u).1 hu) hne
    rw [Device.claim_some hbest] at hexec
    refine ⟨_, hexec, rfl, ?_, ?_, ?_, fun u hu => ?_, fun a ha => ?_, ?_⟩
    · simp
    · simp [tget_tput_self]
    · exact (Device.noteLines_reg _ _).trans (Device.reg_setReg _ _ _)
    · simp [hu]
    · exact (Device.noteLines_reg _ _).trans (Device.reg_setReg_ne _ _ ha)
    · exact Device.noteLines_mem _
  · have hempty : s.dev.begun.eligibles t = [] :=
      List.eq_nil_iff_forall_not_mem.2 fun u hu => absurd ((hmem u).1 hu) (Bool.eq_false_iff.1 (hnone u))
    rw [Device.claim_none hempty] at hexec
    exact ⟨_, hexec, rfl, rfl, rfl, rfl, rfl⟩

/-! ### Completions (R300) -/

@[simp] theorem Device.follow_inserv (d : Device) (x : Nat) : (d.follow x).herald.inserv = d.herald.inserv := by
  unfold Device.follow
  repeat' split
  all_goals rfl

/-- The end of a source's service. -/
def Device.ended (d : Device) (x : Nat) : Device := { d with herald := { d.herald with inserv := tdel d.herald.inserv x } }

@[simp] theorem Device.ended_levelSense (d : Device) (x u : Nat) : (d.ended x).levelSense u = d.levelSense u := rfl
@[simp] theorem Device.ended_asserted (d : Device) (x u : Nat) : (d.ended x).asserted u = d.asserted u := rfl

/-- A service ended, and its source followed: it is pending afterwards where it is asserted, and as before where its sense is an
edge. -/
theorem Device.ended_followed (d : Device) (x : Nat) :
    let e := ((d.ended x).follow x).noteLines
    e.offHerald = d.offHerald ∧ tget e.herald.inserv x = none ∧ (d.levelSense x = false → e.herald.pend = d.herald.pend) ∧
      (d.asserted x = true → x ∈ e.herald.pend) := by
  have hgone : tget (d.ended x).herald.inserv x = none := tget_tdel_self _ _
  dsimp only
  rw [Device.noteLines_inserv, Device.follow_inserv, Device.noteLines_pend, Device.offHerald_noteLines, Device.offHerald_follow]
  refine ⟨rfl, hgone, fun hedge => ?_, fun hasserted => ?_⟩
  · rw [Device.follow_edge (by rwa [Device.ended_levelSense])]
    rfl
  · exact Device.mem_pend_follow (by rwa [Device.ended_asserted]) (by rw [Device.inService, hgone]; rfl)

section
variable {d : Device} {who : Who} {t : Nat} {v : Half} (hdeny : targetDenied who t = false) (hex : d.targetExists t = true)
  (hv : v.toNat < 1024)
include hdeny hex hv

theorem hrdComplete_eq : hrdComplete d who t v =
    if tget d.herald.inserv v.toNat = some t then (((d.reply .written).ended v.toNat).follow v.toNat).noteLines
    else d.reply .written := by
  rw [hrdComplete, Device.onTarget_open hdeny hex]
  simp only [Nat.mod_eq_of_lt hv]
  rfl

end

/-- Settles O16: the service ends, and the source is followed: one of edge sense stays as it is, one asserted is pended. -/
theorem heraldComplete : Obligations.HeraldComplete := by
  intro who t s v hlive hp hdeny hex hv
  have hexec : exec (.hrdComplete who t v) s = .next { s with dev := hrdComplete s.dev.begun who t v } :=
    actBy_eq (fun d => hrdComplete d who t v) hlive hp
  rw [hrdComplete_eq (d := s.dev.begun) hdeny hex hv, Device.begun_herald] at hexec
  refine ⟨fun hserved => ?_, fun hother => hexec.trans (by rw [if_neg hother])⟩
  rw [if_pos hserved] at hexec
  obtain ⟨hoff, hgone, hedge, hasserted⟩ := (s.dev.begun.reply .written).ended_followed v.toNat
  exact ⟨_, hexec, hgone, Device.eq_of_offHerald Device.answer (fun _ => rfl) hoff,
    (Device.eq_of_offHerald Device.regs (fun _ => rfl) hoff).trans rfl,
    (Device.eq_of_offHerald Device.mem (fun _ => rfl) hoff).trans rfl, hedge, hasserted⟩

/-! ### Machine timers (R306) -/

/-- Settles O20: the timer of a target is followed once its compare value is reached, and then is pending. -/
theorem machineTimer : Obligations.MachineTimer := by
  intro t s hlive htimer
  have hexec := actLive_eq (fun d => if d.timerDue t then d.timerFollow t else d) hlive
  refine ⟨fun hle => ?_, fun hlt => hexec.trans ?_⟩
  · have hdue : s.dev.begun.timerDue t = true := decide_eq_true hle
    have hpending : (s.dev.begun.timerFollow t).herald.timers = addMember s.dev.herald.timers t := by
      rw [Device.timerFollow, hdue, show s.dev.begun.hasTimer t = true from htimer]
      rfl
    rw [if_pos hdue] at hexec
    refine ⟨_, hexec, ?_, fun u hu => ?_, rfl, rfl, rfl⟩
    · rw [hpending]
      exact (mem_addMember _ _ _).2 (.inl rfl)
    · rw [hpending]
      exact (mem_addMember _ _ _).trans (or_iff_right hu)
  · have hnot : s.dev.begun.timerDue t = false := decide_eq_false (Nat.not_le.2 hlt)
    rw [hnot]
    rfl

end Sys2Proof.Machine

/-!
PROOF. Writes of pending bits (O17) and changes of filter outputs (O19): what a fold over the named sources leaves of each, and what an
edge or a level does to its source.
-/

namespace Sys2Proof.Machine

/-! ### Operations on one number after another -/

section
variable {σ : Type} {R : σ → σ → Prop} {f : σ → Nat → σ} {u : Nat} {l : List Nat} (hrefl : ∀ d, R d d)
  (htrans : ∀ {a b c}, R a b → R b c → R a c) (hf : ∀ d x, u ≠ x → R d (f d x))
include hrefl htrans hf

/-- What operations on other numbers each spare, all of them do. -/
theorem foldl_spares (hu : u ∉ l) (d : σ) : R d (l.foldl f d) :=
  List.foldlRecOn l f (motive := R d) (hrefl d) fun _ he _ hx => htrans he (hf _ _ fun h => hu (h ▸ hx))

/-- One of a list of numbers is met once, with those before it and those after it sparing it. -/
theorem foldl_meets (hu : u ∈ l) (hl : l.Nodup) (d : σ) : ∃ e, R d e ∧ R (f e u) (l.foldl f d) := by
  obtain ⟨l₁, l₂, rfl⟩ := List.append_of_mem hu
  rw [List.nodup_append] at hl
  obtain ⟨-, hl₂, hne⟩ := hl
  refine ⟨l₁.foldl f d, foldl_spares hrefl htrans hf (fun h => hne u h u List.mem_cons_self rfl) d, ?_⟩
  rw [List.foldl_append, List.foldl_cons]
  exact foldl_spares hrefl htrans hf (List.nodup_cons.1 hl₂).1 _

end

theorem Device.Heralded.foldl {f : Device → Nat → Device} (hf : ∀ d x, Device.Heralded d (f d x)) (l : List Nat) (d : Device) :
    Device.Heralded d (l.foldl f d) :=
  List.foldlRecOn l f (motive := Device.Heralded d) (.of_offHerald rfl) fun _ he x _ => he.trans (hf _ x)

/-! ### The sources of a word (R294, R303) -/

section
variable (d : Device) (who : Who) (w : Nat) (v : Half) (owned : Bool)

theorem Device.mem_namedSources (u : Nat) : u ∈ d.namedSources who w v owned ↔
    u / 32 = w ∧ v.getLsbD (u % 32) = true ∧ hrdSource u = true ∧
      (owned = false ∨ whoIsIsland who = true ∨ d.islandOwned u = false) := by
  have hword : (∃ i, i < 32 ∧ v.getLsbD i = true ∧ 32 * w + i = u) ↔ u / 32 = w ∧ v.getLsbD (u % 32) = true := by
    constructor
    · rintro ⟨i, hi, hv, rfl⟩
      rw [show (32 * w + i) % 32 = i by omega]
      exact ⟨by omega, hv⟩
    · rintro ⟨rfl, hv⟩
      exact ⟨u % 32, by omega, hv, by omega⟩
  simp only [Device.namedSources, List.mem_filter, List.mem_map, List.mem_range, Bool.and_eq_true, Bool.or_eq_true,
    Bool.not_eq_true', and_assoc, or_assoc]
  rw [hword, and_assoc]

theorem Device.nodup_namedSources : (d.namedSources who w v owned).Nodup :=
  ((List.nodup_range.filter _).map fun _ _ h => by omega).filter _

end

/-! ### Writes of pending bits (R301, R303, R304) -/

/-- A source named by a write to HRD_PEND_SETw. -/
def Device.pendNamed (d : Device) (x : Nat) : Device := (d.edge x d.ns).follow x

/-- A source named by a write to HRD_PEND_CLRw. -/
def Device.clearNamed (d : Device) (x : Nat) : Device := (d.pendClear x).follow x

section
variable (d : Device) (x : Nat)

theorem Device.heralded_pendNamed : d.Heralded (d.pendNamed x) :=
  (d.heralded_edge x d.ns).trans (.of_offHerald (Device.offHerald_follow _ x))

theorem Device.offHerald_clearNamed : (d.clearNamed x).offHerald = d.offHerald := (Device.offHerald_follow _ x).trans rfl

theorem Device.spared_pendNamed {u : Nat} (h : u ≠ x) : Device.Spared u d (d.pendNamed x) :=
  (d.spared_edge x d.ns h).trans (.follow _ h)

theorem Device.spared_clearNamed {u : Nat} (h : u ≠ x) : Device.Spared u d (d.clearNamed x) :=
  (Device.Spared.pendClear d h).trans (.follow _ h)

variable {d x} (hedge : d.levelSense x = false)
include hedge

theorem Device.pendNamed_edge (hx : x < 1024) : d.pendNamed x = d.edge x d.ns :=
  Device.follow_edge (((d.heralded_edge x d.ns).levelSense hx).trans hedge)

theorem Device.clearNamed_edge : d.clearNamed x = d.pendClear x := Device.follow_edge (d := d.pendClear x) hedge

end

section
variable {d : Device} {l : List Nat} {u : Nat} (hnodup : l.Nodup) (hlt : u ∈ l → u < 1024) (hedge : d.levelSense u = false)
include hnodup hlt hedge

/-- A SET write pends the sources of edge sense that it names, with the reading as their stamp or with their bit of HRD_LOST. -/
theorem Device.foldl_pendNamed_edge : let e := l.foldl Device.pendNamed d
    (u ∈ e.herald.pend ↔ u ∈ d.herald.pend ∨ u ∈ l) ∧ (u ∈ l → u ∉ d.herald.pend → tgetD e.herald.stamps u 0 = d.ns) ∧
      (u ∈ l → u ∈ d.herald.pend → e.regBit (Reg.hrdLost (u / 32)) (u % 32) = true) := by
  have hspares : ∀ (d : Device) x, u ≠ x → Device.Spared u d (d.pendNamed x) := fun d x => d.spared_pendNamed x
  by_cases hu : u ∈ l
  · obtain ⟨a, hbefore, hafter⟩ := foldl_meets (Device.Spared.refl u) Device.Spared.trans hspares hu hnodup d
    rw [Device.pendNamed_edge ((hbefore.levelSense (hlt hu)).trans hedge) (hlt hu)] at hafter
    refine ⟨iff_of_true (hafter.pend.2 (a.mem_pend_edge a.ns)) (.inr hu), fun _ hp => ?_, fun _ hp => ?_⟩
    · rw [hafter.stamp, a.stamp_edge a.ns (mt hbefore.pend.1 hp), hbefore.ns]
    · exact hafter.set _ _ (a.lost_edge a.ns (hbefore.pend.2 hp))
  · have hspared := foldl_spares (Device.Spared.refl u) Device.Spared.trans hspares hu d
    exact ⟨hspared.pend.trans (or_iff_left hu).symm, fun h => absurd h hu, fun h => absurd h hu⟩

/-- A CLR write clears those that it names. -/
theorem Device.foldl_clearNamed_edge :
    u ∈ (l.foldl Device.clearNamed d).herald.pend ↔ u ∈ d.herald.pend ∧ u ∉ l := by
  have hspares : ∀ (d : Device) x, u ≠ x → Device.Spared u d (d.clearNamed x) := fun d x => d.spared_clearNamed x
  by_cases hu : u ∈ l
  · obtain ⟨a, hbefore, hafter⟩ := foldl_meets (Device.Spared.refl u) Device.Spared.trans hspares hu hnodup d
    rw [Device.clearNamed_edge ((hbefore.levelSense (hlt hu)).trans hedge)] at hafter
    exact iff_of_false (fun h => ((mem_dropMember _ _ _).1 (hafter.pend.1 h)).2 rfl) fun h => h.2 hu
  · have hspared := foldl_spares (Device.Spared.refl u) Device.Spared.trans hspares hu d
    exact hspared.pend.trans (and_iff_left hu).symm

end

theorem hrdPendSet_eq (d : Device) (who : Who) (w : Nat) (v : Half) :
    hrdPendSet d who w v = ((d.namedSources who w v true).foldl Device.pendNamed (d.reply .written)).noteLines := rfl

theorem hrdPendClr_eq (d : Device) (who : Who) (w : Nat) (v : Half) :
    hrdPendClr d who w v = ((d.namedSources who w v true).foldl Device.clearNamed (d.reply .written)).noteLines := rfl

/-- Settles O17: a source that a write names is met once, and the others spare it. -/
theorem heraldPendWrites : Obligations.HeraldPendWrites := by
  intro who w v s hlive hp named
  have hnamed : ∀ u, u ∈ s.dev.begun.namedSources who w v true ↔ named u := fun u =>
    (s.dev.begun.mem_namedSources who w v true u).trans (by simp [named, Device.islandOwned])
  have hnodup := s.dev.begun.nodup_namedSources who w v true
  have hlt : ∀ u, named u → u < 1024 := fun u hu => by
    have hw := hu.1
    omega
  have hset := actBy_eq (fun d => hrdPendSet d who w v) hlive hp
  have hclr := actBy_eq (fun d => hrdPendClr d who w v) hlive hp
  rw [hrdPendSet_eq] at hset
  rw [hrdPendClr_eq] at hclr
  generalize s.dev.begun.namedSources who w v true = l at hnamed hnodup hset hclr
  let d := s.dev.begun.reply .written
  have hheralded := Device.Heralded.foldl Device.heralded_pendNamed l d
  have hoff : (l.foldl Device.clearNamed d).noteLines.offHerald = d.offHerald := (Device.offHerald_noteLines _).trans
    (List.foldlRecOn l _ (motive := fun e : Device => e.offHerald = d.offHerald) rfl fun e he x _ => (e.offHerald_clearNamed x).trans he)
  refine ⟨⟨_, hset, ?_, ?_, fun u hu => ?_⟩, ⟨_, hclr, ?_, ?_, ?_, fun u hu => ?_⟩⟩
  · exact (Device.noteLines_answer _).trans hheralded.answer
  · exact (Device.noteLines_mem _).trans hheralded.mem
  · obtain ⟨hpend, hstamp, hlost⟩ := Device.foldl_pendNamed_edge (d := d) (u := u) hnodup (fun h => hlt u ((hnamed u).1 h)) hu
    rw [hnamed] at hpend hstamp hlost
    dsimp only
    rw [Device.noteLines_pend, Device.noteLines_stamps, Device.regBit, Device.noteLines_reg]
    exact ⟨hpend, hstamp, hlost⟩
  · exact Device.eq_of_offHerald Device.answer (fun _ => rfl) hoff
  · exact (Device.eq_of_offHerald Device.mem (fun _ => rfl) hoff).trans rfl
  · exact (Device.eq_of_offHerald Device.regs (fun _ => rfl) hoff).trans rfl
  · have hpend := Device.foldl_clearNamed_edge (d := d) (u := u) hnodup (fun h => hlt u ((hnamed u).1 h)) hu
    rw [hnamed] at hpend
    dsimp only
    rw [Device.noteLines_pend]
    exact hpend

end Sys2Proof.Machine

/-!
PROOF. Enable bits (O18) and filter outputs (O19) of the Herald: the bits that a write names, and what a rise or a fall comes to.
-/

namespace Sys2Proof.Machine

/-! ### Enable bits (R301) -/

/-- The bits of a mask gathered from the sources of a word. -/
theorem testBit_foldl_twoPow (l : List Nat) (m i : Nat) :
    (l.foldl (fun m s => m ||| 2 ^ (s % 32)) m).testBit i = (m.testBit i || l.any fun s => decide (s % 32 = i)) := by
  induction l generalizing m with
  | nil => simp
  | cons s l ih => rw [List.foldl_cons, ih, Nat.testBit_or, Nat.testBit_two_pow, Bool.or_assoc, List.any_cons]

theorem Device.testBit_enBits (d : Device) (who : Who) (w : Nat) (v : Half) {i : Nat} (hi : i < 32) :
    (d.enBits who w v).testBit i = (v.getLsbD i && hrdSource (32 * w + i)) := by
  rw [Device.enBits, testBit_foldl_twoPow, Nat.zero_testBit, Bool.false_or, Bool.eq_iff_iff, List.any_eq_true, Bool.and_eq_true]
  simp only [Device.mem_namedSources, decide_eq_true_eq, true_or, and_true]
  constructor
  · rintro ⟨u, ⟨rfl, hv, hsource⟩, rfl⟩
    exact ⟨hv, by rwa [Nat.div_add_mod]⟩
  · rintro ⟨hv, hsource⟩
    exact ⟨32 * w + i, ⟨by omega, by rwa [show (32 * w + i) % 32 = i by omega], hsource⟩, by omega⟩

/-- Settles O18: the mask of the bits named is set or cleared, and a target of the island turns others away. -/
theorem heraldEnables : Obligations.HeraldEnables := by
  intro who t w v s hlive hp
  have hset := actBy_eq (fun d => hrdEnSet d who t w v) hlive hp
  have hclr := actBy_eq (fun d => hrdEnClr d who t w v) hlive hp
  have hclaim := actBy_eq (fun d => hrdClaim d who t) hlive hp
  have hcomplete := actBy_eq (fun d => hrdComplete d who t v) hlive hp
  refine ⟨fun hdeny hex => ⟨?_, ?_⟩, fun hdeny i hi => ?_⟩
  · rw [hrdEnSet, Device.onTarget_open (d := s.dev.begun) hdeny hex] at hset
    refine ⟨_, hset, Device.noteLines_answer _, Device.noteLines_mem _, Device.noteLines_pend _, fun a ha => ?_, fun i hi => ?_⟩
    · exact (Device.noteLines_reg _ a).trans (Device.reg_setReg_ne _ _ ha)
    · dsimp only
      rw [Device.regBit, Device.noteLines_reg, ← s.dev.begun.testBit_enBits who w v hi]
      exact Device.regBit_orReg_eq _ _ _ (by omega)
  · rw [hrdEnClr, Device.onTarget_open (d := s.dev.begun) hdeny hex] at hclr
    refine ⟨_, hclr, rfl, rfl, rfl, fun a ha => Device.reg_setReg_ne _ _ ha, fun i hi => ?_⟩
    rw [← s.dev.begun.testBit_enBits who w v hi]
    exact Device.regBit_clrReg_eq _ _ _ (by omega)
  · rw [hrdEnSet, Device.onTarget_denied hdeny] at hset
    rw [hrdEnClr, Device.onTarget_denied hdeny] at hclr
    rw [hrdClaim, Device.onTarget_denied hdeny] at hclaim
    rw [hrdComplete, Device.onTarget_denied hdeny] at hcomplete
    simp only [List.mem_cons, List.not_mem_nil, or_false] at hi
    rcases hi with rfl | rfl | rfl | rfl
    exacts [hset, hclr, hclaim, hcomplete]

/-! ### Filter outputs (R295, R296, R302) -/

/-- What a filter output that takes a value does to its source: an edge that its sense answers to is an event, and otherwise its level
is followed. -/
def Device.sensed (d : Device) (x : Nat) (v : Bool) : Device :=
  if edgeSense (d.sense x) v then (d.setOut x v).edge x (d.sampledAt x v) else (d.setOut x v).follow x

@[simp] theorem Device.setOut_sense (d : Device) (x u : Nat) (v : Bool) : (d.setOut x v).sense u = d.sense u := rfl

theorem Device.sampled_setOut (d : Device) (x : Nat) (v : Bool) : tgetD (d.setOut x v).herald.sampled x 0 = d.sampledAt x v :=
  tgetD_tputD_self _ _ _ _

theorem filterOutput_eq {d : Device} {x : Nat} {v : Bool} (hsource : hrdSource x = true) (hsoft : hrdSoftware x = false)
    (hout : d.herald.out.contains x = !v) (hmay : d.lineMay x v = true) : filterOutput d x v = (d.sensed x v).noteLines := by
  have hchanges : ¬(!hrdSource x || hrdSoftware x || decide (d.herald.out.contains x = v) || !d.lineMay x v) = true := by
    rw [hsource, hsoft, hout, hmay]
    cases v <;> decide
  rw [filterOutput, if_neg hchanges]
  dsimp only
  rw [Device.setOut_sense, Device.sampled_setOut]
  rfl

section
variable (d : Device) (x : Nat) (v : Bool)

theorem Device.heralded_sensed : d.Heralded (d.sensed x v) := by
  have hset : d.Heralded (d.setOut x v) := .of_offHerald rfl
  unfold Device.sensed
  split
  · exact hset.trans (Device.heralded_edge _ x _)
  · exact hset.trans (.of_offHerald (Device.offHerald_follow _ x))

theorem Device.spared_sensed {u : Nat} (h : u ≠ x) : Device.Spared u d (d.sensed x v) := by
  unfold Device.sensed
  split
  · exact (Device.Spared.setOut u d x v).trans (Device.spared_edge _ x _ h)
  · exact (Device.Spared.setOut u d x v).trans (.follow _ h)

theorem Device.out_edge (stamp : Word) : (d.edge x stamp).herald.out = d.herald.out := by
  unfold Device.edge
  split <;> rfl

theorem Device.out_follow : (d.follow x).herald.out = d.herald.out := by
  unfold Device.follow
  repeat' split
  all_goals rfl

theorem Device.out_sensed : (d.sensed x v).herald.out.contains x = v := by
  have hout : (d.sensed x v).herald.out = (d.setOut x v).herald.out := by
    unfold Device.sensed
    split
    · exact Device.out_edge _ x _
    · exact Device.out_follow _ x
  rw [hout]
  cases v <;> simp [Device.setOut]

variable {d x}

/-- A rise of a source of rising sense is an event with the stamp of its first sample. -/
theorem Device.sensed_rising (h : d.sense x = 2) : d.sensed x true = (d.setOut x true).edge x (d.sampledAt x true) := by
  rw [Device.sensed, h]
  rfl

/-- The output of a source that senses a high level is followed. -/
theorem Device.sensed_level (h : d.sense x = 0) : d.sensed x v = (d.setOut x v).follow x := by
  rw [Device.sensed, h, if_neg (by cases v <;> decide)]

theorem Device.levelSense_setOut (h : d.sense x = 0) : (d.setOut x v).levelSense x = true := by
  rw [Device.levelSense, Device.setOut_sense, h]
  rfl

theorem Device.asserted_setOut (h : d.sense x = 0) : (d.setOut x v).asserted x = v := by
  rw [Device.asserted, Device.levelSense_setOut v h, Device.setOut_sense, if_pos h]
  cases v <;> simp [Device.setOut]

end

/-- Settles O19: a rise is an event or pends a level source, and a fall ends what a level has set. -/
theorem heraldFilterOutput : Obligations.HeraldFilterOutput := by
  intro x s hlive hsource hsoft
  let d := s.dev.begun
  have hexec : ∀ v, exec (.filterOutputChange x v) s = .next { s with dev := filterOutput d x v } := fun v =>
    actLive_eq (fun d => filterOutput d x v) hlive
  refine ⟨fun hout hmay => ?_, fun hout hmay hlevel => ?_⟩
  · have hrise := hexec true
    rw [filterOutput_eq (d := d) (v := true) hsource hsoft hout hmay] at hrise
    refine ⟨_, hrise, (Device.noteLines_mem _).trans (d.heralded_sensed x true).mem, ?_, fun u hu => ?_, fun hrising => ?_,
      fun hlevel hidle => ?_⟩
    · exact (congrArg (·.contains x.val) (Device.noteLines_out _)).trans (d.out_sensed x true)
    · exact ((d.spared_sensed x true hu).trans (.noteLines u _)).pend
    · dsimp only
      rw [Device.noteLines_pend, Device.noteLines_stamps, Device.noteLines_regs, Device.regBit, Device.noteLines_reg,
        Device.sensed_rising (d := d) hrising]
      refine ⟨Device.mem_pend_edge _ _, fun hp => ⟨Device.stamp_edge _ _ hp, ?_⟩, fun hp => ⟨Device.lost_edge _ _ hp, ?_⟩⟩
      · rw [Device.edge_of_not_pending (d.setOut x true) _ hp]
        rfl
      · rw [Device.edge_of_pending (d.setOut x true) _ hp]
        rfl
    · dsimp only
      rw [Device.noteLines_pend, Device.sensed_level (d := d) true hlevel]
      exact Device.mem_pend_follow (Device.asserted_setOut (d := d) true hlevel) hidle
  · have hfall := hexec false
    rw [filterOutput_eq (d := d) (v := false) hsource hsoft hout hmay] at hfall
    have hgone : d.sensed x false = if s.dev.herald.byLevel.contains x.val then (d.setOut x false).pendClear x else d.setOut x false :=
      (Device.sensed_level (d := d) false hlevel).trans
        (Device.follow_gone (Device.levelSense_setOut (d := d) false hlevel) (Device.asserted_setOut (d := d) false hlevel))
    refine ⟨_, hfall, (Device.noteLines_mem _).trans (d.heralded_sensed x false).mem, ?_, ?_, fun hby => ?_, fun hby => ?_⟩
    · rw [Device.noteLines_regs, hgone]
      split <;> rfl
    · exact (congrArg (·.contains x.val) (Device.noteLines_out _)).trans (d.out_sensed x false)
    · rw [Device.noteLines_pend, hgone, if_pos hby]
      exact fun h => ((mem_dropMember _ _ _).1 h).2 rfl
    · rw [Device.noteLines_pend, hgone, if_neg (Bool.eq_false_iff.1 hby)]
      rfl

end Sys2Proof.Machine

/-!
PROOF. Units held offline, lockstep mismatches and lost lines of the host caches (O50): what each event changes of the device.
-/

namespace Sys2Proof.Machine

/-! ### Units held offline (R313, R314) -/

section
variable (d : Device)

theorem Device.unitOff_setUnitOff (u : Nat) (off : Bool) : (d.setUnitOff u off).unitOff u = off := by
  cases off
  · exact d.regBit_clrReg _ (by omega)
  · exact d.regBit_orReg _ (by omega)

theorem Device.unitOff_setUnitOff_ne {u x : Nat} (h : u ≠ x) (off : Bool) : (d.setUnitOff x off).unitOff u = d.unitOff u := by
  unfold Device.unitOff Device.setUnitOff
  by_cases hword : u / 32 = x / 32
  · have hbit : (2 ^ (x % 32)).testBit (u % 32) = false := by
      rw [Nat.testBit_two_pow, decide_eq_false_iff_not]
      omega
    rw [hword]
    cases off
    · rw [if_neg Bool.false_ne_true, d.regBit_clrReg_eq _ _ (by omega), hbit, Bool.not_false, Bool.and_true]
    · rw [if_pos rfl, d.regBit_orReg_eq _ _ (by omega), hbit, Bool.or_false]
  · have hne : Reg.safUnitOff (u / 32) ≠ Reg.safUnitOff (x / 32) := by
      unfold Reg.safUnitOff
      omega
    cases off <;> exact d.regBit_setReg_ne _ hne _

end

/-! ### Mismatches (R307, R308) -/

/-- A line that a stopped pair leaves is held by none of its L2s. -/
theorem HostLine.l2_of_afterPair {h m : HostLine} {p : Nat} (hm : h.afterPair p = some m) : ∀ n ∈ m.l2, n / 2 ≠ p := by
  unfold HostLine.afterPair at hm
  simp only [Option.ite_none_left_eq_some, Option.some.injEq] at hm
  obtain ⟨-, rfl⟩ := hm
  intro n hn
  simpa using (List.mem_filter.1 hn).2

theorem Device.l2_of_loseL2 {d : Device} {p : Nat} {e : Nat × HostLine} (he : e ∈ (d.loseL2 p).hostCache) :
    ∀ n ∈ e.2.l2, n / 2 ≠ p := by
  obtain ⟨c, -, hc⟩ := List.mem_filterMap.1 he
  obtain ⟨m, hm, rfl⟩ := Option.map_eq_some_iff.1 hc
  exact HostLine.l2_of_afterPair hm

/-- With the pair of a mismatch both island pairs are stopped exactly where the other was. -/
theorem islandStopped_or (b : BitVec 2) (i : Fin 2) (h : b.getLsbD i = false) :
    (b ||| BitVec.ofNat 2 (2 ^ i.val)).getLsbD i = true ∧ (b ||| BitVec.ofNat 2 (2 ^ i.val) = 3 ↔ b ≠ 0) := by
  revert b i
  decide

section
variable {s : State} (hlive : s.dev.live = true)
include hlive

theorem exec_lockstepMismatch (p : Fin 12) (h : s.dev.pairCompared p = true) : ∃ t, exec (.lockstepMismatch p) s = .next t ∧
    t.dev.safety.hostStopped = s.dev.safety.hostStopped ||| BitVec.ofNat 12 (2 ^ p.val) ∧
    t.dev.regBit Reg.safCmp p = true ∧ t.dev.regBit Reg.safFaultLatch 0 = true ∧ t.dev.unitOff (96 + p) = true ∧
    (∀ e ∈ t.dev.hostCache, ∀ n ∈ e.2.l2, n / 2 ≠ p.val) ∧
    t.dev.mem = s.dev.mem ∧ t.dev.ctxs = s.dev.ctxs ∧ t.dev.herald = s.dev.herald := by
  have hcompared : s.dev.begun.pairCompared p = true := h
  have hexec := actLive_eq (fun d => lockstepMismatch d p) hlive
  simp only [lockstepMismatch, hcompared, Bool.not_true, Bool.false_eq_true, if_false] at hexec
  refine ⟨_, hexec, rfl, ?_, ?_, Device.unitOff_setUnitOff _ _ _, fun e he => Device.l2_of_loseL2 he, rfl, rfl, rfl⟩
  · exact Device.regBit_orReg_of_set _ _ _ (Device.regBit_orReg_of_set _ _ _ (Device.regBit_orReg _ _ (by omega)))
  · exact Device.regBit_orReg_of_set _ _ _ (Device.regBit_orReg _ _ (by omega))

theorem exec_lockstepMismatch_uncompared (p : Fin 12) (h : s.dev.pairCompared p = false) :
    exec (.lockstepMismatch p) s = .next { s with dev := s.dev.begun } := by
  have huncompared : s.dev.begun.pairCompared p = false := h
  refine (actLive_eq (fun d => lockstepMismatch d p) hlive).trans ?_
  rw [lockstepMismatch, huncompared]
  rfl

theorem exec_islandLockstepMismatch (i : Fin 2) (fromSram : Bool) (hstands : s.dev.safety.islandStopped.getLsbD i = false)
    (hcompares : s.dev.boot.islandSplit = false ∨ fromSram = true) : ∃ t, exec (.islandLockstepMismatch i fromSram) s = .next t ∧
    t.dev.safety.islandStopped.getLsbD i = true ∧ t.dev.regBit Reg.safCmp (12 + i) = true ∧
    t.dev.regBit Reg.safFaultLatch 1 = true ∧ t.dev.mem = s.dev.mem ∧
    (s.dev.safety.islandStopped ≠ 0 → t.dev.regBit Reg.safFaultLatch 14 = true) ∧
    (s.dev.safety.islandStopped = 0 → t.dev.regBit Reg.safFaultLatch 14 = s.dev.regBit Reg.safFaultLatch 14) := by
  let stopped := s.dev.safety.islandStopped ||| BitVec.ofNat 2 (2 ^ i.val)
  obtain ⟨hbit, hboth⟩ := islandStopped_or s.dev.safety.islandStopped i hstands
  let e : Device := { s.dev.begun with safety := { s.dev.safety with islandStopped := stopped } }
  let f := (e.orReg Reg.safCmp (2 ^ (12 + i.val))).latch 1
  have hmatters : ¬(s.dev.begun.safety.islandStopped.getLsbD i || (s.dev.begun.boot.islandSplit && !fromSram)) = true := by
    rw [Device.begun_safety, Device.begun_boot, hstands]
    rcases hcompares with h | h <;> simp [h]
  have hexec : exec (.islandLockstepMismatch i fromSram) s = .next { s with dev := if stopped = 3 then f.latch 14 else f } :=
    (actLive_eq (fun d => islandLockstepMismatch d i fromSram) hlive).trans (by rw [islandLockstepMismatch, if_neg hmatters]; rfl)
  have hcmp : f.regBit Reg.safCmp (12 + i) = true := Device.regBit_orReg_of_set _ _ _ (Device.regBit_orReg _ _ (by omega))
  have hlatch : f.regBit Reg.safFaultLatch 1 = true := Device.regBit_orReg _ _ (by omega)
  by_cases hlost : s.dev.safety.islandStopped = 0
  · rw [if_neg (fun h => hboth.1 h hlost)] at hexec
    refine ⟨_, hexec, hbit, hcmp, hlatch, rfl, fun h => absurd hlost h, fun _ => ?_⟩
    refine (Device.regBit_orReg_eq _ _ _ (by omega)).trans ?_
    rw [Nat.testBit_two_pow, decide_eq_false (by omega), Bool.or_false]
    exact Device.regBit_setReg_ne _ _ (by decide) _
  · rw [if_pos (hboth.2 hlost)] at hexec
    exact ⟨_, hexec, hbit, f.regBit_orReg_of_set _ _ hcmp, f.regBit_orReg_of_set _ _ hlatch, rfl,
      fun _ => f.regBit_orReg _ (by omega), fun h => absurd h hlost⟩

end

/-! ### Lost lines (R287) -/

/-- A clean line fetched again: memory, the registers and the Herald stand, and so do the other lines; and where its unit is online the
line is held again, with its bytes from another cache or from memory. -/
theorem Device.refetch_spec (d : Device) (l : HostLine) (c : HostCache) (n : Fin 24) (a : Nat) :
    let e := d.refetch l c n (lineOf a)
    e.regs = d.regs ∧ e.mem = d.mem ∧ e.herald = d.herald ∧ (∀ b ≠ a / 64, tget e.hostCache b = tget d.hostCache b) ∧
      (d.addrOff (lineOf a) = false → e.sent = d.sent ∧ ∃ m, tget e.hostCache (a / 64) = some m ∧ n.val ∈ m.l2 ∧
        m.data = if (l.without c).l2 = [] ∧ (l.without c).l3 = [] then d.rd (lineOf a) 64 else l.data) := by
  have hdata : (l.without c).data = l.data := by cases c <;> rfl
  dsimp only
  unfold Device.refetch
  by_cases hheld : (l.without c).l2 = [] ∧ (l.without c).l3 = []
  · rw [if_neg (by simp [hheld])]
    by_cases hoff : d.addrOff (lineOf a) = true
    · rw [if_pos hoff, lineOf_div]
      exact ⟨rfl, rfl, rfl, fun b hb => tget_tdel_ne _ hb, fun h => absurd hoff (Bool.eq_false_iff.1 h)⟩
    · rw [if_neg hoff]
      have hcharge := d.offStores_charge (hostPort n) (lineOf a) 64 false
      refine ⟨Device.eq_of_offStores Device.regs (fun _ => rfl) hcharge, d.charge_mem _ _ _ _,
        Device.eq_of_offStores Device.herald (fun _ => rfl) hcharge, fun b hb => ?_, fun _ => ?_⟩
      · rw [Device.tget_putLine_ne _ _ _ hb, Device.charge_hostCache]
      · exact ⟨Device.eq_of_offStores Device.sent (fun _ => rfl) hcharge, _, Device.tget_putLine _ _ _, List.mem_cons_self,
          (if_pos hheld).symm⟩
  · rw [if_pos (by simpa [imp_iff_not_or] using hheld)]
    exact ⟨rfl, rfl, rfl, fun b hb => Device.tget_putLine_ne _ _ _ hb, fun _ =>
      ⟨rfl, _, Device.tget_putLine _ _ _, HostLine.mem_l2_sharedBy _ _, by rw [if_neg hheld, HostLine.sharedBy_data, hdata]⟩⟩

section
variable {d : Device} (c : HostCache) (n : Fin 24) {a : Nat}

/-- An error of a line that the cache does not hold is none. -/
theorem hostCacheUe_unheld (h : ∀ l, tget d.hostCache (a / 64) = some l → l.heldIn c = false) : hostCacheUe d c n a = d := by
  unfold hostCacheUe
  split
  · rfl
  · next l hl => simp [h l hl]

variable {c} {l : HostLine} (hl : tget d.hostCache (a / 64) = some l) (hheld : l.heldIn c = true)
include hl hheld

/-- A changed line is discarded, and the access faults. -/
theorem hostCacheUe_dirty (h : l.dirty = some c) :
    hostCacheUe d c n a =
      ({ d.latch 9 with hostCache := tdel d.hostCache (a / 64) }.raise 73).emit (.hartFault n.val) := by
  unfold hostCacheUe
  simp only [hl, hheld, h, Bool.not_true, Bool.false_eq_true, if_false, if_true]
  rfl

/-- A clean one is fetched again. -/
theorem hostCacheUe_clean (h : l.dirty ≠ some c) : hostCacheUe d c n a = (d.latch 9).refetch l c n (lineOf a) := by
  unfold hostCacheUe
  simp only [hl, hheld, h, Bool.not_true, Bool.false_eq_true, if_false]

end

theorem exec_hostCacheUe {s : State} (hlive : s.dev.live = true) {c : HostCache} (n : Fin 24) {a : Nat} {l : HostLine}
    (hl : tget s.dev.hostCache (a / 64) = some l) (hheld : l.heldIn c = true) : ∃ t, exec (.hostCacheUe c n a) s = .next t ∧
      t.dev.regBit Reg.safFaultLatch 9 = true ∧ t.dev.mem = s.dev.mem ∧
      (∀ b ≠ a / 64, tget t.dev.hostCache b = tget s.dev.hostCache b) ∧
      (l.dirty = some c → 73 ∈ t.dev.herald.raised ∧ tget t.dev.hostCache (a / 64) = none ∧ t.dev.sent = [.hartFault n.val]) ∧
      (l.dirty ≠ some c → t.dev.herald = s.dev.herald ∧ (s.dev.addrOff (lineOf a) = false → t.dev.sent = [] ∧
        ∃ m, tget t.dev.hostCache (a / 64) = some m ∧ n.val ∈ m.l2 ∧
          m.data = if (l.without c).l2 = [] ∧ (l.without c).l3 = [] then s.dev.rd (lineOf a) 64 else l.data)) := by
  let d := s.dev.begun
  have hlatch : (d.latch 9).regBit Reg.safFaultLatch 9 = true := d.regBit_orReg _ (by omega)
  have hexec : exec (.hostCacheUe c n a) s = .next { s with dev := hostCacheUe d c n a } :=
    actLive_eq (fun d => hostCacheUe d c n a) hlive
  by_cases hdirty : l.dirty = some c
  · rw [hostCacheUe_dirty (d := d) n hl hheld hdirty] at hexec
    exact ⟨_, hexec, hlatch, rfl, fun b hb => tget_tdel_ne _ hb,
      fun _ => ⟨(Device.mem_raised_raise _ _ _).2 (.inl rfl), tget_tdel_self _ _, rfl⟩, fun h => absurd hdirty h⟩
  · rw [hostCacheUe_clean (d := d) n hl hheld hdirty] at hexec
    obtain ⟨hregs, hmem, hherald, hother, hfetched⟩ := (d.latch 9).refetch_spec l c n a
    have hoff : (d.latch 9).addrOff (lineOf a) = s.dev.addrOff (lineOf a) :=
      ((Device.LowRegs.refl d).orReg (by decide) _).addrOff _
    rw [hoff] at hfetched
    refine ⟨_, hexec, ?_, hmem, hother, fun h => absurd h hdirty, fun _ => ⟨hherald, hfetched⟩⟩
    rwa [Device.regBit, Device.reg, hregs]

end Sys2Proof.Machine

/-!
PROOF. Host pairs reset and tested again (O50): what a retest makes of its pair and leaves of the others.
-/

namespace Sys2Proof.Machine

/-! ### Pairs reset (R310, R312) -/

/-- What the retest of other pairs leaves of a pair: the device but for its registers and the state of the island, whether the pair is
stopped, its test bit and its unit. -/
structure Device.PairSpared (p : Nat) (d e : Device) : Prop where
  only : ∃ r x, e = { d with regs := r, safety := x }
  stopped : e.safety.hostStopped.getLsbD p = d.safety.hostStopped.getLsbD p
  tested : e.regBit Reg.safCmp (16 + p) = d.regBit Reg.safCmp (16 + p)
  offline : e.unitOff (96 + p) = d.unitOff (96 + p)

theorem Device.PairSpared.refl (p : Nat) (d : Device) : d.PairSpared p d := ⟨⟨_, _, rfl⟩, rfl, rfl, rfl⟩

theorem Device.PairSpared.trans {p : Nat} {d e f : Device} (h : Device.PairSpared p d e) (g : Device.PairSpared p e f) :
    Device.PairSpared p d f := by
  obtain ⟨⟨r, x, rfl⟩, hstopped, htested, hoffline⟩ := h
  obtain ⟨⟨r', x', rfl⟩, hstopped', htested', hoffline'⟩ := g
  exact ⟨⟨r', x', rfl⟩, hstopped'.trans hstopped, htested'.trans htested, hoffline'.trans hoffline⟩

section
variable (d : Device)

theorem Device.regBit_safCmp_setUnitOff (u i : Nat) (off : Bool) : (d.setUnitOff u off).regBit Reg.safCmp i = d.regBit Reg.safCmp i := by
  have hne : Reg.safCmp ≠ Reg.safUnitOff (u / 32) := by
    unfold Reg.safCmp Reg.safUnitOff
    omega
  cases off <;> exact d.regBit_setReg_ne _ hne i

theorem Device.unitOff_setReg_safCmp (v : Word) (u : Nat) : (d.setReg Reg.safCmp v).unitOff u = d.unitOff u :=
  d.regBit_setReg_ne v (by unfold Reg.safUnitOff Reg.safCmp; omega) _

/-- A pair released after its test. -/
def Device.releasePair (x : Nat) : Device :=
  let e := (d.orReg Reg.safCmp (2 ^ (16 + x))).bringOnline (96 + x)
  { e with safety := { e.safety with hostStopped := e.safety.hostStopped &&& ~~~(BitVec.ofNat 12 (2 ^ x)) } }

theorem Device.retestPair_eq (pass : BitVec 12) (x : Nat) : d.retestPair pass x =
    if !d.safety.hostStopped.getLsbD x || d.splitCluster (x / 3) then d
    else if pass.getLsbD x then d.releasePair x else d.clrReg Reg.safCmp (2 ^ (16 + x)) := rfl

theorem Device.releasePair_only (x : Nat) : ∃ r y, d.releasePair x = { d with regs := r, safety := y } := ⟨_, _, rfl⟩

theorem Device.stopped_releasePair (x : Nat) {p : Nat} (hp : p < 12) :
    (d.releasePair x).safety.hostStopped.getLsbD p = (d.safety.hostStopped.getLsbD p && !decide (x = p)) := by
  refine (BitVec.getLsbD_and ..).trans ?_
  rw [BitVec.getLsbD_not, BitVec.getLsbD_ofNat, Nat.testBit_two_pow, decide_eq_true hp, Bool.true_and, Bool.true_and]
  rfl

theorem Device.tested_releasePair (x : Nat) {p : Nat} (hp : p < 12) :
    (d.releasePair x).regBit Reg.safCmp (16 + p) = (d.regBit Reg.safCmp (16 + p) || decide (x = p)) := by
  refine (Device.regBit_safCmp_setUnitOff _ (96 + x) _ false).trans ?_
  rw [Device.regBit_orReg_eq _ _ _ (by omega), Nat.testBit_two_pow]
  simp only [Nat.add_left_cancel_iff]

theorem Device.unitOff_releasePair (x p : Nat) :
    (d.releasePair x).unitOff (96 + p) = (d.unitOff (96 + p) && !decide (x = p)) := by
  by_cases h : x = p
  · rw [decide_eq_true h, Bool.not_true, Bool.and_false, ← h]
    exact Device.unitOff_setUnitOff _ _ false
  · rw [decide_eq_false h, Bool.not_false, Bool.and_true]
    exact (Device.unitOff_setUnitOff_ne _ (by omega) false).trans (d.unitOff_setReg_safCmp _ _)

theorem Device.retestPair_only (pass : BitVec 12) (x : Nat) : ∃ r y, d.retestPair pass x = { d with regs := r, safety := y } := by
  rw [Device.retestPair_eq]
  split
  · exact ⟨_, _, rfl⟩
  · split
    · exact d.releasePair_only x
    · exact ⟨_, _, rfl⟩

/-- The retest of a pair spares the others. -/
theorem Device.pairSpared_retestPair (pass : BitVec 12) {p x : Nat} (hp : p < 12) (h : p ≠ x) :
    Device.PairSpared p d (d.retestPair pass x) := by
  have hne : decide (x = p) = false := decide_eq_false (Ne.symm h)
  refine ⟨d.retestPair_only pass x, ?_, ?_, ?_⟩ <;> rw [Device.retestPair_eq] <;> split
  · rfl
  · split
    · rw [d.stopped_releasePair x hp, hne, Bool.not_false, Bool.and_true]
    · rfl
  · rfl
  · split
    · rw [d.tested_releasePair x hp, hne, Bool.or_false]
    · rw [d.regBit_clrReg_eq _ _ (by omega), Nat.testBit_two_pow, decide_eq_false (by omega), Bool.not_false, Bool.and_true]
  · rfl
  · split
    · rw [d.unitOff_releasePair, hne, Bool.not_false, Bool.and_true]
    · exact d.unitOff_setReg_safCmp _ _

/-- What a retest makes of its own pair. -/
theorem Device.retestPair_self (pass : BitVec 12) {p : Nat} (hp : p < 12) :
    let e := d.retestPair pass p
    e.safety.hostStopped.getLsbD p = (d.safety.hostStopped.getLsbD p && !(pass.getLsbD p && !d.splitCluster (p / 3))) ∧
      (d.splitCluster (p / 3) = false → d.safety.hostStopped.getLsbD p = true →
        e.regBit Reg.safCmp (16 + p) = pass.getLsbD p ∧ (pass.getLsbD p = true → e.unitOff (96 + p) = false)) := by
  dsimp only
  rw [Device.retestPair_eq]
  cases hstopped : d.safety.hostStopped.getLsbD p with
  | false => exact ⟨hstopped.trans rfl, fun _ h => absurd h Bool.false_ne_true⟩
  | true =>
    cases hsplit : d.splitCluster (p / 3) with
    | true => exact ⟨hstopped.trans (by simp), fun h => absurd h.symm Bool.false_ne_true⟩
    | false =>
      cases hpass : pass.getLsbD p with
      | false => exact ⟨hstopped, fun _ _ => ⟨d.regBit_clrReg _ (by omega), fun h => absurd h Bool.false_ne_true⟩⟩
      | true =>
        refine ⟨?_, fun _ _ => ⟨?_, fun _ => ?_⟩⟩
        · exact (d.stopped_releasePair p hp).trans (by simp)
        · exact (d.tested_releasePair p hp).trans (by simp)
        · exact (d.unitOff_releasePair p p).trans (by simp)

end

/-- A write to SAF_HOST_PAIR_RESET retests exactly the pairs that it names. -/
theorem hostPairReset_spec (d : Device) (v : Half) (pass : BitVec 12) {p : Nat} (hp : p < 12) :
    let e := hostPairReset d v pass
    e.safety.hostStopped.getLsbD p =
        (d.safety.hostStopped.getLsbD p && !(v.getLsbD p && pass.getLsbD p && !d.splitCluster (p / 3))) ∧
      (v.getLsbD p = true → d.splitCluster (p / 3) = false → d.safety.hostStopped.getLsbD p = true →
        e.regBit Reg.safCmp (16 + p) = pass.getLsbD p ∧ (pass.getLsbD p = true → e.unitOff (96 + p) = false)) := by
  have hspares : ∀ (d : Device) x, p ≠ x → Device.PairSpared p d (d.retestPair pass x) := fun d x h =>
    d.pairSpared_retestPair pass hp h
  have hnodup : ((List.range 12).filter fun p => v.getLsbD p).Nodup := List.nodup_range.filter _
  have hnamed : p ∈ (List.range 12).filter (fun p => v.getLsbD p) ↔ v.getLsbD p = true := by simp [hp]
  dsimp only
  unfold hostPairReset
  generalize (List.range 12).filter (fun p => v.getLsbD p) = l at hnodup hnamed
  by_cases hv : v.getLsbD p = true
  · obtain ⟨a, hbefore, hafter⟩ := foldl_meets (Device.PairSpared.refl p) Device.PairSpared.trans hspares (hnamed.2 hv) hnodup
      (d.reply .written)
    obtain ⟨hstopped, htested⟩ := a.retestPair_self pass hp
    have hsplit : a.splitCluster (p / 3) = d.splitCluster (p / 3) := by
      obtain ⟨⟨r, x, rfl⟩, -⟩ := hbefore
      rfl
    rw [hbefore.stopped, hsplit] at hstopped htested
    rw [hafter.stopped, hafter.tested, hafter.offline, hv, Bool.true_and]
    exact ⟨hstopped, fun _ => htested⟩
  · have hspared := foldl_spares (Device.PairSpared.refl p) Device.PairSpared.trans hspares (mt hnamed.1 hv) (d.reply .written)
    refine ⟨hspared.stopped.trans ?_, fun h => absurd h hv⟩
    simp [hv]

/-- It changes registers and the state of the island alone, and answers. -/
theorem hostPairReset_only (d : Device) (v : Half) (pass : BitVec 12) :
    ∃ r x, hostPairReset d v pass = { d.reply .written with regs := r, safety := x } :=
  List.foldlRecOn _ _ (motive := fun e : Device => ∃ r x, e = { d.reply .written with regs := r, safety := x }) ⟨_, _, rfl⟩
    fun e ⟨r, x, he⟩ p _ => by
      obtain ⟨r', x', h⟩ := e.retestPair_only pass p
      exact ⟨r', x', h.trans (by rw [he])⟩

end Sys2Proof.Machine

/-!
PROOF. Misses of the Vigil, and the island's mismatches put together (O50).
-/

namespace Sys2Proof.Machine

/-! ### Misses of the Vigil (R337, R339) -/

theorem Device.reg_recordIf_ne (d : Device) (c : Bool) {a b : Nat} (v : Word) (h : b ≠ a) : (d.recordIf c a v).reg b = d.reg b := by
  cases c
  · rfl
  · exact d.reg_setReg_ne v h

theorem Device.offRegs_orReg (d : Device) (a m : Nat) : (d.orReg a m).offRegs = d.offRegs := rfl

/-- The register of the miss bits of a stream's kind. -/
def missReg (x : Nat) (production : Bool) : Nat := if production then Reg.vglMissProd (x / 32) else Reg.vglMissAge (x / 32)

/-- The record of the first miss. -/
def Device.missRecorded (d : Device) (x : Nat) (production : Bool) : Device :=
  let e := d.recordIf (!d.anyMiss) Reg.vglRecord (BitVec.ofNat 64 (x + if production then 2 ^ 31 else 0))
  e.recordIf (!d.anyMiss) Reg.vglRecordTime e.ns

/-- A miss recorded, with its bit, its count and the latch. -/
def Device.missCounted (d : Device) (x : Nat) (production : Bool) : Device :=
  (((d.missRecorded x production).orReg (missReg x production) (2 ^ (x % 32))).addCount Reg.vglMisses
    (if production then 16 else 0) 16 1).latch 5

section
variable (d : Device) (x : Nat) (production : Bool)

theorem Device.vigilMiss_eq : d.vigilMiss x production =
    if (d.missCounted x production).regBit (Reg.vglCfg x) 62 then
      (d.missCounted x production).orReg (Reg.vglSafeLatch (x / 32)) (2 ^ (x % 32))
    else d.missCounted x production := rfl

theorem Device.offRegs_missCounted : (d.missCounted x production).offRegs = d.offRegs :=
  ((d.recordIf _ _ _).offRegs_recordIf _ _ _).trans (d.offRegs_recordIf _ _ _)

variable {x}

theorem missReg_bounds (hx : x < 512) : 0x500000 ≤ missReg x production ∧ missReg x production < 0x500080 := by
  unfold missReg Reg.vglMissProd Reg.vglMissAge
  split <;> omega

theorem Device.reg_missRecorded {a : Nat} (h : a ≠ Reg.vglRecord) (h' : a ≠ Reg.vglRecordTime) :
    (d.missRecorded x production).reg a = d.reg a :=
  (Device.reg_recordIf_ne _ _ _ h').trans (d.reg_recordIf_ne _ _ h)

/-- The registers of the Vigil from its settings on stand. -/
theorem Device.reg_missCounted (hx : x < 512) {a : Nat} (h : 0x510000 ≤ a) (h' : a ≠ Reg.safFaultLatch) :
    (d.missCounted x production).reg a = d.reg a := by
  have hbounds := missReg_bounds production hx
  refine (Device.reg_setReg_ne _ _ h').trans ((Device.reg_addCount_ne _ _ _ _ ?_).trans ((Device.reg_setReg_ne _ _ ?_).trans
    (d.reg_missRecorded production ?_ ?_)))
  · unfold Reg.vglMisses
    omega
  · omega
  · unfold Reg.vglRecord
    omega
  · unfold Reg.vglRecordTime
    omega

theorem Device.miss_missCounted (hx : x < 512) : (d.missCounted x production).regBit (missReg x production) (x % 32) = true := by
  have hbounds := missReg_bounds production hx
  refine Device.regBit_orReg_of_set _ _ _ ?_
  rw [Device.regBit, Device.reg_addCount_ne _ _ _ _ (by unfold Reg.vglMisses; omega)]
  exact Device.regBit_orReg _ _ (by omega)

theorem Device.fld_missCounted (hx : x < 512) :
    let lo := if production then 16 else 0
    (d.missCounted x production).fld Reg.vglMisses lo 16 = min 0xFFFF (d.fld Reg.vglMisses lo 16 + 1) := by
  have hbounds := missReg_bounds production hx
  have hrecorded : ((d.missRecorded x production).orReg (missReg x production) (2 ^ (x % 32))).reg Reg.vglMisses = d.reg Reg.vglMisses :=
    (Device.reg_setReg_ne _ _ (by unfold Reg.vglMisses; omega)).trans (d.reg_missRecorded production (by decide) (by decide))
  intro lo
  rw [Device.fld, Device.missCounted, Device.latch, Device.orReg, Device.reg_setReg_ne _ _ (by decide)]
  refine (Device.fld_addCount _ _ _ (by split <;> decide)).trans ?_
  rw [Device.fld, hrecorded]
  rfl

end

/-- A miss: its bit and the Vigil's latch are set, its kind's misses are counted, and a stream of the safe state sets its bit of it;
only registers change. -/
theorem Device.vigilMiss_spec (d : Device) {x : Nat} (hx : x < 512) (production : Bool) :
    let e := d.vigilMiss x production
    let lo := if production then 16 else 0
    e.offRegs = d.offRegs ∧ e.regBit (missReg x production) (x % 32) = true ∧ e.regBit Reg.safFaultLatch 5 = true ∧
      e.fld Reg.vglMisses lo 16 = min 0xFFFF (d.fld Reg.vglMisses lo 16 + 1) ∧
      (d.regBit (Reg.vglCfg x) 62 = true → e.regBit (Reg.vglSafeLatch (x / 32)) (x % 32) = true) := by
  have hoff := d.offRegs_missCounted x production
  have hmiss := d.miss_missCounted production hx
  have hlatch : (d.missCounted x production).regBit Reg.safFaultLatch 5 = true := Device.regBit_orReg _ _ (by omega)
  have hcount := d.fld_missCounted production hx
  have hsafe : (d.missCounted x production).regBit (Reg.vglCfg x) 62 = d.regBit (Reg.vglCfg x) 62 :=
    congrArg (bitOf · 62) (d.reg_missCounted production hx (by unfold Reg.vglCfg; omega) (by unfold Reg.vglCfg Reg.safFaultLatch; omega))
  dsimp only
  rw [d.vigilMiss_eq x production, hsafe]
  split
  · refine ⟨(Device.offRegs_orReg _ _ _).trans hoff, Device.regBit_orReg_of_set _ _ _ hmiss,
      Device.regBit_orReg_of_set _ _ _ hlatch, ?_, fun _ => Device.regBit_orReg _ _ (by omega)⟩
    rw [Device.fld, Device.orReg, Device.reg_setReg_ne _ _ (by unfold Reg.vglMisses Reg.vglSafeLatch; omega)]
    exact hcount
  · next h => exact ⟨hoff, hmiss, hlatch, hcount, fun h' => absurd h' h⟩

theorem productionMiss_missed {d : Device} {x : Nat} (h : x ∈ d.safety.vigilMissed) : productionMiss d x = d := by
  simp [productionMiss, h]

theorem productionMiss_early {d : Device} {x : Nat} (h : d.ns ≤ d.reg (Reg.vglDue x)) : productionMiss d x = d := by
  simp [productionMiss, BitVec.not_lt.2 h]

section
variable {s : State} (hlive : s.dev.live = true) {x : Fin 512} (hrunning : s.dev.cfg = .running)
  (hvalid : s.dev.regBit (Reg.vglCfg x) 63 = true) (harmed : x.val ∈ s.dev.safety.vigilArmed)
  (hfirst : x.val ∉ s.dev.safety.vigilMissed) (hperiod : s.dev.fld (Reg.vglPeriod x) 0 32 ≠ 0)
  (hdue : s.dev.reg (Reg.vglDue x) < s.dev.ns)
include hlive hrunning hvalid harmed hfirst hperiod hdue

theorem exec_productionMiss : ∃ t, exec (.productionMiss x) s = .next t ∧ x.val ∈ t.dev.safety.vigilMissed ∧
    t.dev.regBit (Reg.vglMissProd (x / 32)) (x % 32) = true ∧ t.dev.regBit Reg.safFaultLatch 5 = true ∧
    t.dev.fld Reg.vglMisses 16 16 = min 0xFFFF (s.dev.fld Reg.vglMisses 16 16 + 1) ∧
    (s.dev.regBit (Reg.vglCfg x) 62 = true → t.dev.regBit (Reg.vglSafeLatch (x / 32)) (x % 32) = true) ∧
    t.dev.mem = s.dev.mem ∧ exec (.productionMiss x) t = .next { t with dev := t.dev.begun } := by
  let d := s.dev.begun
  let e : Device := { d with safety := { d.safety with vigilMissed := addMember d.safety.vigilMissed x } }
  have hmiss : (d.cfg = .running && d.regBit (Reg.vglCfg x) 63 && d.safety.vigilArmed.contains x.val &&
      !d.safety.vigilMissed.contains x.val && d.fld (Reg.vglPeriod x) 0 32 ≠ 0 && decide (d.reg (Reg.vglDue x) < d.ns)) = true := by
    simp only [Bool.and_eq_true, decide_eq_true_eq, Bool.not_eq_true', List.contains_iff_mem, ne_eq]
    exact ⟨⟨⟨⟨⟨hrunning, hvalid⟩, harmed⟩, Bool.eq_false_iff.2 fun h => hfirst (List.contains_iff_mem.1 h)⟩, hperiod⟩, hdue⟩
  have hexec : exec (.productionMiss x) s = .next { s with dev := e.vigilMiss x true } :=
    (actLive_eq (fun d => productionMiss d x) hlive).trans (by rw [productionMiss, if_pos hmiss])
  obtain ⟨hoff, hbit, hlatch, hcount, hsafe⟩ := e.vigilMiss_spec x.isLt true
  have hmissed : x.val ∈ (e.vigilMiss x true).safety.vigilMissed := by
    rw [Device.eq_of_offRegs Device.safety (fun _ => rfl) hoff]
    exact (mem_addMember _ _ _).2 (.inl rfl)
  have hlive' : (e.vigilMiss x true).live = true := (Device.eq_of_offRegs Device.live (fun _ => rfl) hoff).trans hlive
  refine ⟨_, hexec, hmissed, hbit, hlatch, hcount, hsafe, (Device.eq_of_offRegs Device.mem (fun _ => rfl) hoff).trans rfl, ?_⟩
  exact (actLive_eq (s := { s with dev := e.vigilMiss x true }) (fun d => productionMiss d x) hlive').trans
    (by rw [productionMiss_missed (d := (e.vigilMiss x true).begun) hmissed])

end

/-! ### The obligation -/

/-- Settles O50: each event comes to its case above. -/
theorem islandMismatches : Obligations.IslandMismatches := by
  intro s hlive d
  have hmiss : ∀ x : Fin 512, exec (.productionMiss x) s = .next { s with dev := productionMiss d x } := fun x =>
    actLive_eq (fun d => productionMiss d x) hlive
  refine ⟨fun p => ⟨exec_lockstepMismatch hlive p, exec_lockstepMismatch_uncompared hlive p⟩,
    fun i fromSram => exec_islandLockstepMismatch hlive i fromSram,
    fun c n a => ⟨fun hunheld => ?_, fun l hl hheld => exec_hostCacheUe hlive n hl hheld⟩,
    fun who v pass hp => ?_, fun x hrunning hvalid harmed hfirst hperiod => ⟨fun hdue => ?_, fun hearly => ?_⟩⟩
  · exact (actLive_eq (fun d => hostCacheUe d c n a) hlive).trans (by rw [hostCacheUe_unheld (d := s.dev.begun) c n hunheld])
  · have hexec := actBy_eq (islandWrite who fun d => hostPairReset d v pass) hlive hp
    refine ⟨fun hwho => hexec.trans ?_, fun hwho => ?_⟩
    · rw [islandWrite, if_neg (Bool.eq_false_iff.1 hwho)]
      rfl
    · rw [islandWrite, if_pos hwho] at hexec
      obtain ⟨r, y, honly⟩ := hostPairReset_only d v pass
      exact ⟨_, hexec, (congrArg Device.answer honly).trans rfl, (congrArg Device.mem honly).trans rfl,
        (congrArg Device.ctxs honly).trans rfl, fun p hlt => hostPairReset_spec d v pass hlt⟩
  · exact exec_productionMiss hlive hrunning hvalid harmed hfirst hperiod hdue
  · exact (hmiss x).trans (by rw [productionMiss_early (d := d) hearly])

end Sys2Proof.Machine

/-!
PROOF. The watchdog of the safety island (O52): what its enable, a kick and the passing of its period come to.
-/

namespace Sys2Proof.Machine

/-! ### Writes that only an island hart makes (R353) -/

section
variable {who : Who} {s : State} (hlive : s.dev.live = true) (hp : s.dev.present who = true)
include hlive hp

/-- One of an island hart has its effect. -/
theorem actBy_islandWrite (f : Device → Device) (hwho : whoIsIsland who = true) :
    actBy who s (islandWrite who f) = .next { s with dev := f s.dev.begun } := by
  rw [actBy_eq _ hlive hp, islandWrite, if_pos hwho]

/-- One of any other requester is turned away. -/
theorem actBy_islandWrite_denied (f : Device → Device) (hwho : whoIsIsland who = false) :
    actBy who s (islandWrite who f) = .next { s with dev := s.dev.begun.reply .error } := by
  rw [actBy_eq _ hlive hp, islandWrite, hwho]
  rfl

end

/-! ### Enable and kick (R319) -/

section
variable {d : Device} {v : Half}

theorem wdogEnable_on (h : d.wdogOn = true) (v : Half) : wdogEnable d v = d.reply .written := by
  have hon : (d.reply .written).wdogOn = true := h
  simp only [wdogEnable, hon, Bool.true_or, if_true]

theorem wdogEnable_noPeriod (hv : v.getLsbD 31 = true) (hn : v.toNat % 2 ^ 16 = 0) : wdogEnable d v = d.reply .written := by
  simp only [wdogEnable, hv, hn, decide_true, Bool.and_self, Bool.or_true, if_true]

theorem wdogEnable_period (hoff : d.wdogOn = false) (hn : v.toNat % 2 ^ 16 ≠ 0) :
    wdogEnable d v = ((d.reply .written).setReg Reg.safWdog (wordOf v &&& 0x8000FFFF)).wdogRestart := by
  have hoff' : (d.reply .written).wdogOn = false := hoff
  simp only [wdogEnable, hoff', hn, decide_false, Bool.and_false, Bool.or_false, Bool.false_eq_true, if_false]

/-- The word that SAF_WDOG takes has the enable bit and the period written. -/
theorem wdogWord_fields (v : Half) :
    bitOf (wordOf v &&& 0x8000FFFF) 31 = v.getLsbD 31 ∧ bitsAt (wordOf v &&& 0x8000FFFF) 0 16 = v.toNat % 2 ^ 16 := by
  refine ⟨by simp [bitOf, wordOf], ?_⟩
  have hmask : (0x8000FFFF : Word).toNat % 2 ^ 16 = 2 ^ 16 - 1 := rfl
  have hv : v.toNat % 2 ^ 64 = v.toNat := Nat.mod_eq_of_lt (by omega)
  rw [bitsAt, wordOf, BitVec.toNat_and, BitVec.toNat_setWidth, hv, pow_zero, Nat.div_one, Nat.and_mod_two_pow, hmask,
    Nat.and_two_pow_sub_one_eq_mod, Nat.mod_mod]

theorem wdogKick_off (h : d.wdogOn = false) (v : Half) : wdogKick d v = d.reply .written := by
  have hoff : (d.reply .written).wdogOn = false := h
  simp only [wdogKick, hoff, Bool.not_false, if_true]

theorem wdogKick_key (h : d.wdogOn = true) (hkey : v.toNat % 256 = 0xA5) : wdogKick d v = (d.reply .written).wdogRestart := by
  have hon : (d.reply .written).wdogOn = true := h
  simp only [wdogKick, hon, hkey, Bool.not_true, Bool.false_eq_true, if_false, if_true]

theorem wdogKick_wrong (h : d.wdogOn = true) (hkey : v.toNat % 256 ≠ 0xA5) :
    wdogKick d v = (d.reply .written).wdogExpired := by
  have hon : (d.reply .written).wdogOn = true := h
  simp only [wdogKick, hon, hkey, Bool.not_true, Bool.false_eq_true, if_false]

end

/-! ### The passing of the period (R319) -/

section
variable {d : Device}

theorem wdogHalfPeriod_due (hon : d.wdogOn = true) (h : d.wdogWhole ≤ 2 * d.wdogCount) :
    wdogHalfPeriod d = { d with safety := { d.safety with wdogHalf := true } } := by
  simp only [wdogHalfPeriod, hon, h, decide_true, Bool.and_self, if_true]

theorem wdogHalfPeriod_early (h : 2 * d.wdogCount < d.wdogWhole) : wdogHalfPeriod d = d := by
  simp only [wdogHalfPeriod, Nat.not_le.2 h, decide_false, Bool.and_false, Bool.false_eq_true, if_false]

theorem wdogHalfPeriod_off (h : d.wdogOn = false) : wdogHalfPeriod d = d := by
  simp only [wdogHalfPeriod, h, Bool.false_and, Bool.false_eq_true, if_false]

theorem wdogExpire_due (hon : d.wdogOn = true) (hfirst : d.safety.wdogExpired = false) (h : d.wdogWhole ≤ d.wdogCount) :
    wdogExpire d = d.wdogExpired := by
  simp only [wdogExpire, hon, hfirst, h, Bool.not_false, decide_true, Bool.and_self, if_true]

theorem wdogExpire_early (h : d.wdogCount < d.wdogWhole) : wdogExpire d = d := by
  simp only [wdogExpire, Nat.not_le.2 h, decide_false, Bool.and_false, Bool.false_eq_true, if_false]

theorem wdogExpire_off (h : d.wdogOn = false) : wdogExpire d = d := by
  simp only [wdogExpire, h, Bool.false_and, Bool.false_eq_true, if_false]

theorem Device.latch_wdogExpired (d : Device) : d.wdogExpired.regBit Reg.safFaultLatch 13 = true :=
  Device.regBit_orReg _ _ (by omega)

end

/-! ### The obligation -/

/-- An enable with a period is taken, and after it no other. -/
theorem exec_wdogEnable_period {who : Who} {v : Half} {s : State} (hlive : s.dev.live = true) (hp : s.dev.present who = true)
    (hwho : whoIsIsland who = true) (hoff : s.dev.wdogOn = false) (hv : v.getLsbD 31 = true) (hn : v.toNat % 2 ^ 16 ≠ 0) :
    ∃ t, exec (.wdogEnable who v) s = .next t ∧ t.dev.wdogOn = true ∧ t.dev.fld Reg.safWdog 0 16 = v.toNat % 2 ^ 16 ∧
      t.dev.safety = { s.dev.safety with wdogFrom := s.dev.alm.ticks, wdogHalf := false, wdogExpired := false } ∧
      t.dev.mem = s.dev.mem ∧ (∀ a ≠ Reg.safWdog, t.dev.reg a = s.dev.reg a) ∧
      ∀ w, exec (.wdogEnable who w) t = .next { t with dev := t.dev.begun.reply .written } := by
  let e : Device := ((s.dev.begun.reply .written).setReg Reg.safWdog (wordOf v &&& 0x8000FFFF)).wdogRestart
  have hexec : exec (.wdogEnable who v) s = .next { s with dev := e } :=
    (actBy_islandWrite hlive hp (fun d => wdogEnable d v) hwho).trans (by rw [wdogEnable_period (d := s.dev.begun) hoff hn])
  have hreg : e.reg Reg.safWdog = wordOf v &&& 0x8000FFFF := (s.dev.begun.reply .written).reg_setReg _ _
  obtain ⟨hbit, hperiod⟩ := wdogWord_fields v
  have hon : e.wdogOn = true := by rw [Device.wdogOn, Device.regBit, hreg, hbit, hv]
  have hp' : e.present who = true := by
    cases who with
    | island i => exact hp
    | host n => exact absurd hwho Bool.false_ne_true
    | bridge c => exact absurd hwho Bool.false_ne_true
  refine ⟨_, hexec, hon, ?_, rfl, rfl, fun a ha => (s.dev.begun.reply .written).reg_setReg_ne _ ha, fun w => ?_⟩
  · rw [Device.fld, hreg, hperiod]
  · refine (actBy_islandWrite (s := { s with dev := e }) hlive hp' (fun d => wdogEnable d w) hwho).trans ?_
    rw [wdogEnable_on (d := e.begun) hon w]

/-- Settles O52: each write comes to its case above, and so does each of the two instants of the period. -/
theorem watchdog : Obligations.Watchdog := by
  intro who v s hlive hp d
  have hhalf : exec .wdogHalfPeriod s = .next { s with dev := wdogHalfPeriod d } := actLive_eq wdogHalfPeriod hlive
  have hexpire : exec .wdogExpire s = .next { s with dev := wdogExpire d } := actLive_eq wdogExpire hlive
  refine ⟨fun hwho i hi => ?_, fun hwho => ⟨exec_wdogEnable_period hlive hp hwho, fun _ hn hv => ?_, fun hoff => ?_,
      fun hon => ⟨fun hkey => ?_, fun hkey => ?_⟩⟩,
    fun hon => ⟨fun hdue => ?_, fun hfirst hdue => ?_, fun hearly => ⟨?_, fun hearly' => ?_⟩⟩, fun hoff i hi => ?_⟩
  · simp only [List.mem_cons, List.not_mem_nil, or_false] at hi
    obtain rfl | rfl := hi <;> exact actBy_islandWrite_denied hlive hp _ hwho
  · exact (actBy_islandWrite hlive hp (fun d => wdogEnable d v) hwho).trans (by rw [wdogEnable_noPeriod hv hn])
  · exact (actBy_islandWrite hlive hp (fun d => wdogKick d v) hwho).trans (by rw [wdogKick_off (d := s.dev.begun) hoff])
  · exact (actBy_islandWrite hlive hp (fun d => wdogKick d v) hwho).trans (by rw [wdogKick_key (d := s.dev.begun) hon hkey]; rfl)
  · have hkick := actBy_islandWrite hlive hp (fun d => wdogKick d v) hwho
    rw [wdogKick_wrong (d := s.dev.begun) hon hkey] at hkick
    exact ⟨_, hkick, rfl, Device.latch_wdogExpired _, congrArg some (Bool.or_true _), rfl⟩
  · rw [wdogHalfPeriod_due (d := d) hon hdue] at hhalf
    exact ⟨_, hhalf, rfl, rfl, rfl, rfl⟩
  · rw [wdogExpire_due (d := d) hon hfirst hdue] at hexpire
    exact ⟨_, hexpire, rfl, Device.latch_wdogExpired _, rfl, fun a ha => Device.reg_setReg_ne _ _ ha⟩
  · rw [hexpire, wdogExpire_early (d := d) hearly]
  · rw [hhalf, wdogHalfPeriod_early (d := d) hearly']
  · simp only [List.mem_cons, List.not_mem_nil, or_false] at hi
    obtain rfl | rfl := hi
    · rw [hhalf, wdogHalfPeriod_off (d := d) hoff]
    · rw [hexpire, wdogExpire_off (d := d) hoff]

end Sys2Proof.Machine

/-!
PROOF. The management path (O51): the answers of a poll, and the units that software holds offline.
-/

namespace Sys2Proof.Machine

/-! ### Answers of a poll (R315, R316) -/

section
variable (d : Device)

/-- Whether an answer is a skew: of an offline unit, a request taken in the interval; else the second poll in a row that finds it
stopped, or that finds no answer. -/
def Device.answerSkews (x : PollAnswer) : Bool :=
  if x.answered = false then d.safety.silentOnce.contains x.unit
  else if d.unitOff x.unit then x.accepted && d.safety.offAtPoll.contains x.unit
  else !x.serving && d.safety.stoppedOnce.contains x.unit

/-- What judging an answer changes outside the state of the island: the skew latch, and the record of a skew. -/
structure Device.Polled (skews : Bool) (d e : Device) : Prop where
  mem : e.mem = d.mem
  ctxs : e.ctxs = d.ctxs
  offline : ∀ u, e.unitOff u = d.unitOff u
  latch : e.regBit Reg.safFaultLatch 8 = (d.regBit Reg.safFaultLatch 8 || skews)

theorem Device.polled_safety (y : Safety) : d.Polled false { d with safety := y } :=
  ⟨rfl, rfl, fun _ => rfl, (Bool.or_false _).symm⟩

theorem Device.offRegs_skew (kind u : Nat) : (d.skew kind u).offRegs = d.offRegs :=
  ((d.recordIf _ _ _).offRegs_recordIf _ _ _).trans (d.offRegs_recordIf _ _ _)

theorem Device.skew_safety (kind u : Nat) : (d.skew kind u).safety = d.safety :=
  Device.eq_of_offRegs Device.safety (fun _ => rfl) (d.offRegs_skew kind u)

theorem Device.unitOff_skew (kind x u : Nat) : (d.skew kind x).unitOff u = d.unitOff u := by
  refine congrArg (bitOf · (u % 32)) ((Device.reg_setReg_ne _ _ ?_).trans
    ((Device.reg_recordIf_ne _ _ _ ?_).trans (d.reg_recordIf_ne _ _ ?_)))
  · unfold Reg.safUnitOff Reg.safFaultLatch
    omega
  · unfold Reg.safUnitOff Reg.safSkewTime
    omega
  · unfold Reg.safUnitOff Reg.safSkewRecord
    omega

theorem Device.polled_skew (y z : Safety) (kind u : Nat) :
    d.Polled true { ({ d with safety := y } : Device).skew kind u with safety := z } := by
  have hoff := ({ d with safety := y } : Device).offRegs_skew kind u
  exact ⟨(Device.eq_of_offRegs Device.mem (fun _ => rfl) hoff).trans rfl,
    (Device.eq_of_offRegs Device.ctxs (fun _ => rfl) hoff).trans rfl,
    fun x => (Device.unitOff_skew { d with safety := y } kind u x).trans rfl,
    (Device.regBit_orReg _ _ (by omega)).trans (Bool.or_true _).symm⟩

variable {d} {x : PollAnswer} (hunit : managedUnit x.unit = true)
include hunit

/-- The judgement of a unit that does not answer. -/
theorem Device.judgeAnswer_silent (h : x.answered = false) : d.judgeAnswer x =
    let e : Device := { d with safety := { d.safety with stoppedOnce := dropMember d.safety.stoppedOnce x.unit } }
    if d.safety.silentOnce.contains x.unit then e.skew 3 x.unit
    else { e with safety := { e.safety with silentOnce := addMember d.safety.silentOnce x.unit } } := by
  simp only [Device.judgeAnswer, hunit, h, Bool.not_true, Bool.not_false, Bool.false_eq_true, if_false, if_true]

/-- That of an offline unit. -/
theorem Device.judgeAnswer_offline (h : x.answered = true) (hoff : d.unitOff x.unit = true) : d.judgeAnswer x =
    let e : Device := { d with safety := { d.safety with
      silentOnce := dropMember d.safety.silentOnce x.unit, stoppedOnce := dropMember d.safety.stoppedOnce x.unit } }
    let f := e.skew 1 x.unit
    if x.accepted && d.safety.offAtPoll.contains x.unit then
      { f with safety := { f.safety with closedPorts := addMember f.safety.closedPorts x.unit } }
    else e := by
  have hoff' : ∀ y : Safety, ({ d with safety := y } : Device).unitOff x.unit = true := fun _ => hoff
  simp only [Device.judgeAnswer, hunit, h, hoff', Bool.not_true, Bool.false_eq_true, if_false, if_true]

/-- That of any other unit. -/
theorem Device.judgeAnswer_online (h : x.answered = true) (hoff : d.unitOff x.unit = false) : d.judgeAnswer x =
    let e : Device := { d with safety := { d.safety with silentOnce := dropMember d.safety.silentOnce x.unit } }
    if x.serving then { e with safety := { e.safety with stoppedOnce := dropMember d.safety.stoppedOnce x.unit } }
    else if d.safety.stoppedOnce.contains x.unit then e.skew 2 x.unit
    else { e with safety := { e.safety with stoppedOnce := addMember d.safety.stoppedOnce x.unit } } := by
  have hoff' : ∀ y : Safety, ({ d with safety := y } : Device).unitOff x.unit = false := fun _ => hoff
  simp only [Device.judgeAnswer, hunit, h, hoff', Bool.not_true, Bool.false_eq_true, if_false]

/-- An answer sets the skew latch exactly where it is a skew. -/
theorem Device.polled_judgeAnswer : d.Polled (d.answerSkews x) (d.judgeAnswer x) := by
  unfold Device.answerSkews
  cases h : x.answered with
  | false =>
    rw [Device.judgeAnswer_silent hunit h, if_pos rfl]
    cases d.safety.silentOnce.contains x.unit
    · exact d.polled_safety _
    · exact d.polled_skew _ _ 3 _
  | true =>
    rw [if_neg (Ne.symm Bool.false_ne_true)]
    cases hoff : d.unitOff x.unit with
    | true =>
      rw [Device.judgeAnswer_offline hunit h hoff, if_pos rfl]
      cases x.accepted && d.safety.offAtPoll.contains x.unit
      · exact d.polled_safety _
      · exact d.polled_skew _ _ 1 _
    | false =>
      rw [Device.judgeAnswer_online hunit h hoff, if_neg Bool.false_ne_true]
      cases x.serving
      · cases d.safety.stoppedOnce.contains x.unit
        · exact d.polled_safety _
        · exact d.polled_skew _ _ 2 _
      · exact d.polled_safety _

/-- A poll without an answer ends a row of stopped ones. -/
theorem Device.stoppedOnce_judgeAnswer (h : x.answered = false) : x.unit ∉ (d.judgeAnswer x).safety.stoppedOnce := by
  rw [Device.judgeAnswer_silent hunit h]
  dsimp only
  split
  · rw [Device.skew_safety]
    simp
  · simp

/-- The port of an offline unit that took a request is closed. -/
theorem Device.closedPorts_judgeAnswer (h : x.answered = true) (hoff : d.unitOff x.unit = true) (htook : x.accepted = true)
    (hheld : x.unit ∈ d.safety.offAtPoll) : x.unit ∈ (d.judgeAnswer x).safety.closedPorts := by
  rw [Device.judgeAnswer_offline hunit h hoff, htook, List.contains_iff_mem.2 hheld]
  exact (mem_addMember _ _ _).2 (.inl rfl)

end

/-- The device at a poll: the rows of polls of the units that the list does not name are ended. -/
def Device.pollBegun (d : Device) (l : List PollAnswer) : Device :=
  let asked := fun (u : Nat) => l.any fun x => decide (x.unit = u)
  { d with safety := { d.safety with
    stoppedOnce := d.safety.stoppedOnce.filter asked, silentOnce := d.safety.silentOnce.filter asked } }

theorem Device.answerSkews_pollBegun (d : Device) (a : PollAnswer) : (d.pollBegun [a]).answerSkews a = d.answerSkews a := by
  have hasked : ∀ l : List Nat,
      (l.filter fun u => [a].any fun x => decide (x.unit = u)).contains a.unit = l.contains a.unit := fun l => by
    rw [Bool.eq_iff_iff, List.contains_iff_mem, List.contains_iff_mem, List.mem_filter]
    simp
  unfold Device.answerSkews
  rw [← hasked d.safety.silentOnce, ← hasked d.safety.stoppedOnce]
  rfl

/-- A poll of one unit judges its answer, and then notes the units that are offline. -/
theorem managementPoll_single (d : Device) {a : PollAnswer} (hunit : managedUnit a.unit = true) : ∃ e,
    managementPoll d [a] = { e with safety := { e.safety with offAtPoll := (List.range 128).filter d.unitOff } } ∧
      d.Polled (d.answerSkews a) e ∧
      (a.answered = true → d.unitOff a.unit = true → a.accepted = true → a.unit ∈ d.safety.offAtPoll →
        a.unit ∈ e.safety.closedPorts) ∧
      (a.answered = false → a.unit ∉ e.safety.stoppedOnce) := by
  obtain ⟨hmem, hctxs, hoffline, hlatch⟩ := Device.polled_judgeAnswer (d := d.pollBegun [a]) hunit
  rw [d.answerSkews_pollBegun] at hlatch
  have hunits : (List.range 128).filter ((d.pollBegun [a]).judgeAnswer a).unitOff = (List.range 128).filter d.unitOff :=
    List.filter_congr fun u _ => hoffline u
  refine ⟨(d.pollBegun [a]).judgeAnswer a, ?_, ⟨hmem, hctxs, hoffline, hlatch⟩,
    Device.closedPorts_judgeAnswer (d := d.pollBegun [a]) hunit, Device.stoppedOnce_judgeAnswer hunit⟩
  rw [← hunits]
  rfl

theorem exec_managementPoll {s : State} (hlive : s.dev.live = true) (hdue : s.dev.tooSoon .managementPoll = false) {a : PollAnswer}
    (hunit : managedUnit a.unit = true) : ∃ t, exec (.managementPoll [a]) s = .next t ∧
      t.dev.mem = s.dev.mem ∧ t.dev.ctxs = s.dev.ctxs ∧
      t.dev.safety.offAtPoll = (List.range 128).filter s.dev.unitOff ∧
      t.dev.regBit Reg.safFaultLatch 8 = (s.dev.regBit Reg.safFaultLatch 8 || s.dev.answerSkews a) ∧
      (a.answered = true → s.dev.unitOff a.unit = true → a.accepted = true → a.unit ∈ s.dev.safety.offAtPoll →
        a.unit ∈ t.dev.safety.closedPorts) ∧
      (a.answered = false → a.unit ∉ t.dev.safety.stoppedOnce) := by
  have hexec := actPaced_due (fun d => managementPoll d [a]) hlive hdue
  obtain ⟨e, hpoll, ⟨hmem, hctxs, -, hlatch⟩, hclosed, hstopped⟩ :=
    managementPoll_single (s.dev.begun.noted .managementPoll) hunit
  rw [hpoll] at hexec
  exact ⟨_, hexec, hmem, hctxs, rfl, hlatch, hclosed, hstopped⟩

/-! ### Units that software holds offline (R313, R314) -/

theorem mem_unitsNamed (w : Nat) (v : Half) (u : Nat) :
    u ∈ unitsNamed w v ↔ (u / 32 = w ∧ v.getLsbD (u % 32) = true) ∧ managedUnit u = true ∧ u < 96 := by
  unfold unitsNamed
  rw [List.mem_filter, Bool.and_eq_true, decide_eq_true_eq]
  refine and_congr_left fun _ => ⟨fun h => ?_, fun h => ?_⟩
  · obtain ⟨i, hi, rfl⟩ := List.mem_map.1 h
    obtain ⟨hlt, hbit⟩ := List.mem_filter.1 hi
    have hlt := List.mem_range.1 hlt
    rw [show (32 * w + i) % 32 = i by omega]
    exact ⟨by omega, hbit⟩
  · obtain ⟨hw, hbit⟩ := h
    exact List.mem_map.2 ⟨u % 32, List.mem_filter.2 ⟨List.mem_range.2 (by omega), hbit⟩, by omega⟩

section
variable (d : Device)

theorem Device.unitOff_taken (x u : Nat) : (d.setUnitOff x true).unitOff u = (d.unitOff u || decide (u = x)) := by
  by_cases h : u = x
  · rw [h, Device.unitOff_setUnitOff, decide_eq_true rfl, Bool.or_true]
  · rw [Device.unitOff_setUnitOff_ne _ h, decide_eq_false h, Bool.or_false]

theorem Device.unitOff_brought (x u : Nat) : (d.bringOnline x).unitOff u = (d.unitOff u && !decide (u = x)) := by
  refine Eq.trans (b := (d.setUnitOff x false).unitOff u) rfl ?_
  by_cases h : u = x
  · rw [h, Device.unitOff_setUnitOff, decide_eq_true rfl, Bool.not_true, Bool.and_false]
  · rw [Device.unitOff_setUnitOff_ne _ h, decide_eq_false h, Bool.not_false, Bool.and_true]

/-- The run of a context resident on a cluster stopped as the cluster is held offline, or its RUN put back to the head of its
ring. -/
def Device.haltResident (d : Device) (u c : Nat) : Device :=
  if (d.ctx c).st = .opened && inMask (d.ctxMask c) u then (d.stopRun c St.unitOffline 0).recheck c else d

theorem Device.takeOffline_eq (u : Nat) : d.takeOffline u =
    if 24 ≤ u then d.setUnitOff u true
    else (List.range 256).foldl (fun d c => d.haltResident u c) (d.setUnitOff u true) := rfl

theorem Device.reported_recheck (c : Nat) : d.Reported (d.recheck c) := by
  unfold Device.recheck
  dsimp only
  split
  · exact (d.reported_setRing _ _).trans (Device.reported_settleHead _ _ _)
  · exact .refl d

theorem Device.reported_haltResident (u c : Nat) : d.Reported (d.haltResident u c) := by
  unfold Device.haltResident
  split
  · exact .trans (e := d.stopRun c St.unitOffline 0) (.of_same rfl rfl) (Device.reported_recheck _ c)
  · exact .refl d

/-- A unit held offline: its bit is set, and what goes with it reports on rings. -/
theorem Device.reported_takeOffline (u : Nat) : (d.setUnitOff u true).Reported (d.takeOffline u) := by
  rw [Device.takeOffline_eq]
  split
  · exact .refl _
  · exact List.foldlRecOn _ _ (motive := (d.setUnitOff u true).Reported) (.refl _) fun _ he c _ =>
      he.trans (Device.reported_haltResident _ u c)

theorem Device.Reported.unitOff {d e : Device} (h : d.Reported e) (u : Nat) : e.unitOff u = d.unitOff u :=
  congrArg (bitOf · (u % 32)) (h.regs _ (by unfold Reg.safUnitOff Reg.hifSticky; omega))

theorem Device.unitOff_takeOffline (x u : Nat) : (d.takeOffline x).unitOff u = (d.unitOff u || decide (u = x)) :=
  ((d.reported_takeOffline x).unitOff u).trans (d.unitOff_taken x u)

theorem Device.unitOff_foldl_takeOffline (l : List Nat) (u : Nat) :
    (l.foldl Device.takeOffline d).unitOff u = (d.unitOff u || decide (u ∈ l)) := by
  induction l generalizing d with
  | nil => exact (Bool.or_false _).symm
  | cons x l ih => simp [ih, d.unitOff_takeOffline, Bool.or_assoc]

theorem Device.unitOff_foldl_bringOnline (l : List Nat) (u : Nat) :
    (l.foldl Device.bringOnline d).unitOff u = (d.unitOff u && !decide (u ∈ l)) := by
  induction l generalizing d with
  | nil => exact (Bool.and_true _).symm
  | cons x l ih => simp [ih, d.unitOff_brought, Bool.and_assoc]

/-- Units brought back change registers and the state of the island alone. -/
theorem Device.foldl_bringOnline_only (l : List Nat) : ∃ r y, l.foldl Device.bringOnline d = { d with regs := r, safety := y } :=
  List.foldlRecOn _ _ (motive := fun e : Device => ∃ r y, e = { d with regs := r, safety := y }) ⟨_, _, rfl⟩
    fun _ ⟨_, _, he⟩ _ _ => he ▸ ⟨_, _, rfl⟩

end

/-- The bits that a write to SAF_UNIT_OFF_SETw or SAF_UNIT_OFF_CLRw names, as a condition of a unit. -/
theorem decide_mem_unitsNamed (w : Nat) (v : Half) (u : Nat) : decide (u ∈ unitsNamed w v) =
    (decide (u / 32 = w) && v.getLsbD (u % 32) && managedUnit u && decide (u < 96)) := by
  rw [Bool.eq_iff_iff, decide_eq_true_eq, mem_unitsNamed]
  simp [and_assoc]

section
variable {who : Who} {s : State} (hlive : s.dev.live = true) (hp : s.dev.present who = true) (hwho : whoIsIsland who = true)
  (w : Fin 4) (v : Half)
include hlive hp hwho

theorem exec_safUnitOffSet : ∃ t, exec (.safUnitOffSet who w v) s = .next t ∧ ∀ u, t.dev.unitOff u =
    (s.dev.unitOff u || (decide (u / 32 = w) && v.getLsbD (u % 32) && managedUnit u && decide (u < 96))) := by
  refine ⟨_, actBy_islandWrite hlive hp (fun d => safUnitOffSet d w v) hwho, fun u => ?_⟩
  rw [← decide_mem_unitsNamed]
  exact Device.unitOff_foldl_takeOffline (s.dev.begun.reply .written) _ u

theorem exec_safUnitOffClr : ∃ t, exec (.safUnitOffClr who w v) s = .next t ∧
    t.dev.mem = s.dev.mem ∧ t.dev.ctxs = s.dev.ctxs ∧
    ∀ u, t.dev.unitOff u =
      (s.dev.unitOff u && !(decide (u / 32 = w) && v.getLsbD (u % 32) && managedUnit u && decide (u < 96))) := by
  obtain ⟨r, y, honly⟩ := (s.dev.begun.reply .written).foldl_bringOnline_only (unitsNamed w v)
  refine ⟨_, actBy_islandWrite hlive hp (fun d => safUnitOffClr d w v) hwho, (congrArg Device.mem honly).trans rfl,
    (congrArg Device.ctxs honly).trans rfl, fun u => ?_⟩
  rw [← decide_mem_unitsNamed]
  exact Device.unitOff_foldl_bringOnline (s.dev.begun.reply .written) _ u

end

end Sys2Proof.Machine

/-!
PROOF. Productions and consumptions of the Vigil (O51), and the management path put together with them.
-/

namespace Sys2Proof.Machine

/-! ### Productions (R335) -/

/-- A production stamps its stream and, while RUNNING, arms its next due time. -/
theorem Device.produced_spec (d : Device) (x : Nat) (now stamp : Word) :
    let e := d.produced x now stamp
    e.reg (Reg.vglLast x) = stamp ∧ e.mem = d.mem ∧ e.herald = d.herald ∧
      (d.cfg = .running → x ∈ e.safety.vigilArmed ∧ x ∉ e.safety.vigilMissed ∧
        e.reg (Reg.vglDue x) = now + BitVec.ofNat 64 (d.fld (Reg.vglPeriod x) 0 32)) := by
  have hlast : (d.setReg (Reg.vglLast x) stamp).reg (Reg.vglLast x) = stamp := d.reg_setReg _ _
  have hperiod : (d.setReg (Reg.vglLast x) stamp).fld (Reg.vglPeriod x) 0 32 = d.fld (Reg.vglPeriod x) 0 32 :=
    congrArg (bitsAt · 0 32) (d.reg_setReg_ne _ (by unfold Reg.vglPeriod Reg.vglLast; omega))
  unfold Device.produced
  dsimp only
  split
  · next h => exact ⟨hlast, rfl, rfl, fun h' => absurd h' h⟩
  · have hkept := Device.reg_setReg_ne (d.setReg (Reg.vglLast x) stamp) (a := Reg.vglDue x) (b := Reg.vglLast x)
      (now + BitVec.ofNat 64 ((d.setReg (Reg.vglLast x) stamp).fld (Reg.vglPeriod x) 0 32))
      (by unfold Reg.vglDue Reg.vglLast; omega)
    refine ⟨hkept.trans hlast, rfl, rfl, fun _ => ⟨?_, ?_, ?_⟩⟩
    · exact (mem_addMember _ _ _).2 (.inl rfl)
    · exact fun h => ((mem_dropMember _ _ _).1 h).2 rfl
    · rw [← hperiod]
      exact Device.reg_setReg _ _ _

section
variable {who : Who} {s : State} (hlive : s.dev.live = true) (hp : s.dev.present who = true)
include hlive hp

/-- A production of a software stream that is valid. -/
theorem exec_vglProduce {x : Fin 512} (v : Word) (hvalid : s.dev.regBit (Reg.vglCfg x) 63 = true)
    (hsoft : s.dev.regBit (Reg.vglCfg x) 61 = true) : exec (.vglProduce who x v) s =
      .next { s with dev := (s.dev.begun.reply .written).produced x s.dev.ns v } := by
  have hvalid' : (s.dev.begun.reply .written).regBit (Reg.vglCfg x) 63 = true := hvalid
  have hsoft' : (s.dev.begun.reply .written).regBit (Reg.vglCfg x) 61 = true := hsoft
  refine (actBy_eq (fun d => vglProduce d x v) hlive hp).trans ?_
  simp only [vglProduce, hvalid', hsoft', Bool.and_self, if_true]
  rfl

/-! ### Consumptions (R338, R339) -/

theorem exec_vglConsume (x : Fin 512) (v : Word) (hvalid : s.dev.regBit (Reg.vglCfg x) 63 = true) :
    exec (.vglConsume who x v) s = .next { s with dev := (
      if s.dev.fld (Reg.vglAge x) 0 32 ≠ 0 ∧
          (s.dev.fld (Reg.vglAge x) 0 32 + v.toNat < s.dev.ns.toNat ∨ s.dev.ns.toNat < v.toNat) then
        (s.dev.begun.reply .written).vigilMiss x false
      else s.dev.begun.reply .written) } := by
  have hvalid' : (s.dev.begun.reply .written).regBit (Reg.vglCfg x) 63 = true := hvalid
  refine (actBy_eq (fun d => vglConsume d x v) hlive hp).trans ?_
  simp only [vglConsume, hvalid', Bool.true_and, Bool.and_eq_true, Bool.or_eq_true, decide_eq_true_eq]
  rfl

end

/-! ### The obligation -/

/-- Settles O51: a poll of one unit, the units held offline, the checker test, and productions and consumptions, each as above. -/
theorem managementAndVigil : Obligations.ManagementAndVigil := by
  intro s hlive d
  refine ⟨fun l hsoon => actPaced_soon (fun d => managementPoll d l) hlive hsoon,
    ?_, fun who w v hp => ⟨fun hwho i hi => ?_, fun hwho => ⟨?_, ?_⟩⟩,
    fun who v hp => actBy_eq (fun d => chkTestInject d v) hlive hp,
    fun who x v hp hvalid => ⟨fun hsoft => ?_, ⟨fun hnew => ?_, fun hold => ?_⟩⟩⟩
  · intro u accepted serving answered hdue hunit a
    obtain ⟨t, hexec, hmem, hctxs, hoff, hlatch, hclosed, hstopped⟩ := exec_managementPoll hlive hdue (a := a) hunit
    refine ⟨t, hexec, hmem, hctxs, hoff, hlatch.trans (congrArg _ ?_), hclosed, hstopped⟩
    simp only [Device.answerSkews, List.contains_eq_mem]
    rfl
  · simp only [List.mem_cons, List.not_mem_nil, or_false] at hi
    obtain rfl | rfl := hi <;> exact actBy_islandWrite_denied hlive hp _ hwho
  · obtain ⟨t, hexec, hoff⟩ := exec_safUnitOffSet hlive hp hwho w v
    exact ⟨t, hexec, fun u _ => hoff u⟩
  · obtain ⟨t, hexec, hmem, hctxs, hoff⟩ := exec_safUnitOffClr hlive hp hwho w v
    exact ⟨t, hexec, hmem, hctxs, fun u _ => hoff u⟩
  · exact ⟨_, exec_vglProduce hlive hp v hvalid hsoft, (d.reply .written).produced_spec x s.dev.ns v⟩
  · exact (exec_vglConsume hlive hp x v hvalid).trans (by rw [if_neg hnew])
  · have hexec := exec_vglConsume hlive hp x v hvalid
    rw [if_pos hold] at hexec
    obtain ⟨hoff, hmiss, hlatch, hcount, hsafe⟩ := (d.reply .written).vigilMiss_spec x.isLt false
    exact ⟨_, hexec, hmiss, hlatch, (Device.eq_of_offRegs Device.mem (fun _ => rfl) hoff).trans rfl, hcount, hsafe⟩

end Sys2Proof.Machine

/-!
PROOF. What reporting on rings, and the end of a run on a unit held offline, keep of contexts and of the checker's records (O36).
-/

namespace Sys2Proof.Machine

/-! ### Reporting on rings keeps the contexts (R260, R262, R265, R268) -/

section
variable (d : Device)

theorem Device.signal_ctxs (t : Nat) : (d.signal t).ctxs = d.ctxs := by
  unfold Device.signal
  dsimp only
  repeat' split
  all_goals rfl

theorem Device.signalAdmin_ctxs : d.signalAdmin.ctxs = d.ctxs := by
  unfold Device.signalAdmin
  dsimp only
  repeat' split
  all_goals rfl

theorem Device.setRing_ctxs (k : RingRef) (x : Ring) : (d.setRing k x).ctxs = d.ctxs := by
  cases k <;> rfl

theorem Device.putEntry_ctxs (k : RingRef) (tags : List Byte) (status detail kind : Byte) (index : Half) (payload : List Byte) :
    (d.putEntry k tags status detail kind index payload).1.ctxs = d.ctxs := by
  unfold Device.putEntry
  dsimp only
  split
  · next pc _ => cases pc <;> rfl
  · split
    · exact (Device.eq_of_offLinks Device.ctxs (fun _ => rfl) (Device.offLinks_ringWrite _ k _ _)).trans (d.setRing_ctxs k _)
    · rfl

theorem Device.flushNotices_ctxs (n : Nat) : (Device.flushNotices n d).ctxs = d.ctxs := by
  induction n generalizing d with
  | zero => rfl
  | succ n ih =>
    rw [Device.flushNotices]
    split
    · rfl
    · dsimp only
      split
      · rfl
      · split
        · rw [ih, Device.signalAdmin_ctxs]
          exact d.putEntry_ctxs _ _ _ _ _ _ _
        · exact d.putEntry_ctxs _ _ _ _ _ _ _

theorem Device.notice_ctxs (n : Notice) : (d.notice n).ctxs = d.ctxs := Device.flushNotices_ctxs _ _

theorem Device.ringFault_ctxs (k : RingRef) (cause : Byte) : (d.ringFault k cause).ctxs = d.ctxs := by
  unfold Device.ringFault
  split
  · split <;> rfl
  · dsimp only
    split
    · rfl
    · exact (Device.notice_ctxs _ _).trans (d.setRing_ctxs _ _)

theorem Device.entry_ctxs (k : RingRef) (tags : List Byte) (status detail kind : Byte) (index : Half) (payload : List Byte) :
    (d.entry' k tags status detail kind index payload).1.ctxs = d.ctxs := by
  have hput := d.putEntry_ctxs k tags status detail kind index payload
  unfold Device.entry'
  dsimp only
  split
  · exact hput
  · exact (Device.ringFault_ctxs _ _ _).trans hput

theorem Device.lastEntry_ctxs (k : RingRef) (x : QDesc) (tags : List Byte) (status detail kind : Byte) (payload : List Byte) :
    (d.lastEntry k x tags status detail kind payload).ctxs = d.ctxs := by
  have hentry := d.entry_ctxs k tags status detail kind x.index payload
  unfold Device.lastEntry Device.notifyFor
  dsimp only
  repeat' split
  · exact hentry
  · exact (Device.signalAdmin_ctxs _).trans hentry
  · exact (Device.signal_ctxs _ _).trans hentry
  · exact hentry

theorem Device.useEntry_ctxs (k : RingRef) : (d.useEntry k).ctxs = d.ctxs := by
  unfold Device.useEntry
  dsimp only
  split
  · rfl
  · exact d.setRing_ctxs k _

theorem Device.dropJob_ctxs (k : RingRef) (x : QDesc) : (d.dropJob k x).ctxs = d.ctxs := by
  unfold Device.dropJob
  split
  · rfl
  · dsimp only
    split <;> rfl

theorem Device.dismiss_ctxs (k : RingRef) (status detail : Byte) : (d.dismiss k status detail).ctxs = d.ctxs := by
  unfold Device.dismiss
  split
  · rfl
  · next x _ _ =>
    split
    · unfold Device.done
      split
      · rfl
      · exact (Device.lastEntry_ctxs _ _ _ _ _ _ _ _).trans (d.setRing_ctxs k _)
    · dsimp only
      rw [Device.lastEntry_ctxs, Device.popHead, Device.setRing_ctxs, Device.dropJob_ctxs]
      exact List.foldlRecOn _ _ (motive := fun e : Device => e.ctxs = d.ctxs) rfl fun e he id _ =>
        ((Device.entry_ctxs _ _ _ _ _ _ _ _).trans (e.useEntry_ctxs k)).trans he

/-- The heads of a ring completed as checks find them keep every context. -/
theorem Device.settleHead_ctxs (n : Nat) (k : RingRef) : (Device.settleHead n d k).ctxs = d.ctxs := by
  induction n generalizing d with
  | zero => rfl
  | succ n ih =>
    rw [Device.settleHead]
    repeat' split
    · rfl
    · rfl
    · exact (ih _).trans (d.dismiss_ctxs k _ _)
    · rfl

theorem Device.recheck_ctxs (c : Nat) : (d.recheck c).ctxs = d.ctxs := by
  unfold Device.recheck
  dsimp only
  split
  · exact (Device.settleHead_ctxs _ _ _).trans (d.setRing_ctxs _ _)
  · rfl

end

/-! ### What a verdict keeps (R313, R322 to R324) -/

/-- What a verdict on a run keeps, whatever it takes offline: every run but for its end, the checker's counts and frames, and
every bit set of the checker and of the fault latch. -/
structure Device.Ruled (d e : Device) : Prop where
  run : ∀ c r, (d.ctx c).run = some r → ∃ x, (e.ctx c).run = some { r with stopped := x }
  counted : ∀ p < 16, e.reg (Reg.chkDisagree p) = d.reg (Reg.chkDisagree p)
  frame : ∀ p < 16, e.reg (Reg.chkLastFrame p) = d.reg (Reg.chkLastFrame p)
  sticky : ∀ k, d.regBit Reg.chkSticky k = true → e.regBit Reg.chkSticky k = true
  latched : ∀ k, d.regBit Reg.safFaultLatch k = true → e.regBit Reg.safFaultLatch k = true

namespace Device.Ruled

variable {d e f : Device}

theorem refl (d : Device) : d.Ruled d :=
  ⟨fun _ r h => ⟨r.stopped, h⟩, fun _ _ => rfl, fun _ _ => rfl, fun _ h => h, fun _ h => h⟩

theorem trans (h : d.Ruled e) (h' : e.Ruled f) : d.Ruled f := by
  refine ⟨fun c r hr => ?_, fun p hp => (h'.counted p hp).trans (h.counted p hp),
    fun p hp => (h'.frame p hp).trans (h.frame p hp),
    fun k hk => h'.sticky k (h.sticky k hk), fun k hk => h'.latched k (h.latched k hk)⟩
  obtain ⟨x, hx⟩ := h.run c r hr
  obtain ⟨y, hy⟩ := h'.run c { r with stopped := x } hx
  exact ⟨y, hy⟩

/-- Reporting on rings keeps all of it. -/
theorem of_reported (h : d.Reported e) (hctxs : e.ctxs = d.ctxs) : d.Ruled e := by
  have hreg : ∀ a, 0xe00000 ≤ a → e.reg a = d.reg a := fun a ha => h.regs a (by unfold Reg.hifSticky; omega)
  have hbit : ∀ a k, 0xe00000 ≤ a → d.regBit a k = true → e.regBit a k = true := fun a k ha hk =>
    (congrArg (bitOf · k) (hreg a ha)).trans hk
  refine ⟨fun c r hr => ⟨r.stopped, ?_⟩, fun p _ => hreg _ (by unfold Reg.chkDisagree; omega),
    fun p _ => hreg _ (by unfold Reg.chkLastFrame; omega), fun k => hbit _ k (by decide), fun k => hbit _ k (by decide)⟩
  rw [Device.ctx, hctxs]
  exact hr

end Device.Ruled

section
variable (d : Device)

/-- A mask set in a register that holds no count and no frame of the checker. -/
theorem Device.ruled_orReg {a : Nat} (m : Nat) (h : ∀ p < 16, Reg.chkDisagree p ≠ a ∧ Reg.chkLastFrame p ≠ a) :
    d.Ruled (d.orReg a m) :=
  ⟨(Device.Ruled.refl d).run, fun p hp => d.reg_setReg_ne _ (h p hp).1, fun p hp => d.reg_setReg_ne _ (h p hp).2,
    fun _ => d.regBit_orReg_of_set a m, fun _ => d.regBit_orReg_of_set a m⟩

/-- The history of a partition set. -/
theorem Device.ruled_setHist {p : Nat} (hp : p < 16) (v : Word) : d.Ruled (d.setReg (Reg.chkHist p) v) := by
  refine ⟨(Device.Ruled.refl d).run, fun p' hp' => d.reg_setReg_ne v ?_, fun p' hp' => d.reg_setReg_ne v ?_,
    fun k hk => (d.regBit_setReg_ne v ?_ k).trans hk, fun k hk => (d.regBit_setReg_ne v ?_ k).trans hk⟩
  · unfold Reg.chkDisagree Reg.chkHist
    omega
  · unfold Reg.chkLastFrame Reg.chkHist
    omega
  · unfold Reg.chkSticky Reg.chkHist
    omega
  · unfold Reg.safFaultLatch Reg.chkHist
    omega

theorem Device.ruled_stopRun (c : Nat) (status detail : Byte) : d.Ruled (d.stopRun c status detail) := by
  refine ⟨fun c' r hr => ?_, fun _ _ => rfl, fun _ _ => rfl, fun _ h => h, fun _ h => h⟩
  by_cases h : c' = c
  · subst h
    exact ⟨some (r.stopped.getD (status, detail)), by rw [Device.stopRun, Device.ctx_setCtx, hr]; rfl⟩
  · exact ⟨r.stopped, by rw [Device.stopRun, Device.ctx_setCtx_ne d _ h, hr]⟩

theorem Device.ruled_haltResident (u c : Nat) : d.Ruled (d.haltResident u c) := by
  unfold Device.haltResident
  split
  · exact (d.ruled_stopRun c _ _).trans (.of_reported (Device.reported_recheck _ c) (Device.recheck_ctxs _ c))
  · exact .refl d

/-- A cluster held offline. -/
theorem Device.ruled_takeOffline {u : Nat} (hu : u < 24) : d.Ruled (d.takeOffline u) := by
  rw [Device.takeOffline_eq, if_neg (by omega)]
  refine Device.Ruled.trans (e := d.setUnitOff u true) (d.ruled_orReg _ fun p hp => ⟨?_, ?_⟩)
    (List.foldlRecOn _ _ (motive := Device.Ruled _) (.refl _) fun e he c _ => he.trans (e.ruled_haltResident u c))
  · unfold Reg.chkDisagree Reg.safUnitOff
    omega
  · unfold Reg.chkLastFrame Reg.safUnitOff
    omega

theorem Device.ruled_partitionFault {p : Nat} (hp : p < 16) : d.Ruled (d.partitionFault p) := by
  have hsticky := d.ruled_orReg (a := Reg.chkSticky) (2 ^ (16 + p)) fun p' _ => by
    unfold Reg.chkDisagree Reg.chkLastFrame Reg.chkSticky
    omega
  have hlatch := (d.orReg Reg.chkSticky (2 ^ (16 + p))).ruled_orReg (a := Reg.safFaultLatch) (2 ^ 3) fun p' _ => by
    unfold Reg.chkDisagree Reg.chkLastFrame Reg.safFaultLatch
    omega
  refine ((hsticky.trans hlatch).trans (Device.ruled_setHist _ hp 0)).trans ?_
  exact List.foldlRecOn _ _ (motive := Device.Ruled _) (.refl _) fun e he u hu =>
    he.trans (e.ruled_takeOffline (List.mem_range.1 (List.mem_filter.1 hu).1))

/-- A verdict entered into the history of a partition, and the fault of the partition where it comes to one. -/
theorem Device.ruled_enterHistory {p : Nat} (hp : p < 16) (one : Bool) : d.Ruled (d.enterHistory p one) := by
  unfold Device.enterHistory
  dsimp only
  generalize d.reg (Reg.chkHist p) <<< 1 ||| (if one then 1 else 0) = h
  split
  · exact (d.ruled_setHist hp h).trans (Device.ruled_partitionFault _ hp)
  · exact d.ruled_setHist hp _

theorem Device.ctxPart_lt (c : Nat) : d.ctxPart c < 16 := Nat.mod_lt _ (by decide)

/-- The verdict of a context's run entered into the history of its partition, once every checked result has been judged. -/
def Device.rule (d : Device) (c : Nat) : Device :=
  match d.runSlab c with
  | some (r, s) =>
    match r.verdict s with
    | some one => d.enterHistory (d.ctxPart c) one
    | none => d
  | none => d

theorem Device.ruled_rule (c : Nat) : d.Ruled (d.rule c) := by
  unfold Device.rule
  split
  · split
    · exact d.ruled_enterHistory (d.ctxPart_lt c) _
    · exact .refl d
  · exact .refl d

end

end Sys2Proof.Machine

/-!
PROOF. The checker's comparison, and overruns (O36): the records of a disagreement, the entry of a withheld result, and what marks a
run once.
-/

namespace Sys2Proof.Machine

/-! ### The records of a disagreement (R322) -/

section
variable (d : Device) (c : Nat) (r : Run) (x : ResultDecl) (prim repl : Word)

/-- The count of a disagreement and its frame. -/
def Device.disagreementCounted (d : Device) (c : Nat) (r : Run) : Device :=
  (d.addCount (Reg.chkDisagree (d.ctxPart c)) 0 16 1).setReg (Reg.chkLastFrame (d.ctxPart c)) (wordOf r.tags.frameCounter)

/-- The record of the first one. -/
def Device.disagreementRecorded (d : Device) (first : Bool) (v prim repl : Word) : Device :=
  let e := d.recordIf first Reg.chkRecord v
  ((e.recordIf first Reg.chkRecordTime e.ns).recordIf first Reg.chkRecordPrimary prim).recordIf first Reg.chkRecordReplica repl

theorem Device.disagree_eq : ∃ first v, d.disagree c r x prim repl =
    ((((d.disagreementCounted c r).disagreementRecorded first v prim repl).orReg Reg.chkSticky (2 ^ d.ctxPart c)).latch 4) :=
  ⟨_, _, rfl⟩

theorem Device.offRegs_disagreementRecorded (first : Bool) (v : Word) :
    (d.disagreementRecorded first v prim repl).offRegs = d.offRegs := by
  cases first <;> rfl

/-- The record stands in four registers. -/
theorem Device.reg_disagreementRecorded (first : Bool) (v : Word) {a : Nat} (h : a < Reg.chkRecord ∨ Reg.chkRecordReplica < a) :
    (d.disagreementRecorded first v prim repl).reg a = d.reg a := by
  have hne : a ≠ Reg.chkRecord ∧ a ≠ Reg.chkRecordTime ∧ a ≠ Reg.chkRecordPrimary ∧ a ≠ Reg.chkRecordReplica := by
    unfold Reg.chkRecord Reg.chkRecordReplica at *
    unfold Reg.chkRecordTime Reg.chkRecordPrimary
    omega
  obtain ⟨h1, h2, h3, h4⟩ := hne
  exact (Device.reg_recordIf_ne _ _ _ h4).trans ((Device.reg_recordIf_ne _ _ _ h3).trans ((Device.reg_recordIf_ne _ _ _ h2).trans
    (d.reg_recordIf_ne _ _ h1)))

/-- A disagreement changes registers alone. -/
theorem Device.offRegs_disagree : (d.disagree c r x prim repl).offRegs = d.offRegs := by
  obtain ⟨first, v, h⟩ := d.disagree_eq c r x prim repl
  rw [h]
  exact ((d.disagreementCounted c r).offRegs_disagreementRecorded prim repl first v).trans rfl

/-- It holds no unit offline and brings none back. -/
theorem Device.unitOff_disagree {u : Nat} (hu : u < 128) : (d.disagree c r x prim repl).unitOff u = d.unitOff u := by
  have hp := d.ctxPart_lt c
  obtain ⟨first, v, h⟩ := d.disagree_eq c r x prim repl
  rw [h]
  refine congrArg (bitOf · (u % 32)) ((Device.reg_setReg_ne _ _ ?_).trans ((Device.reg_setReg_ne _ _ ?_).trans
    ((Device.reg_disagreementRecorded _ prim repl first v (.inl ?_)).trans
      ((Device.reg_setReg_ne _ _ ?_).trans (d.reg_addCount_ne _ _ _ ?_)))))
  · unfold Reg.safUnitOff Reg.safFaultLatch
    omega
  · unfold Reg.safUnitOff Reg.chkSticky
    omega
  · unfold Reg.safUnitOff Reg.chkRecord
    omega
  · unfold Reg.safUnitOff Reg.chkLastFrame
    omega
  · unfold Reg.safUnitOff Reg.chkDisagree
    omega

/-- It is counted with its frame, and its partition's sticky bit and the fault latch are set. -/
theorem Device.disagree_spec :
    let e := d.disagree c r x prim repl
    let p := d.ctxPart c
    e.fld (Reg.chkDisagree p) 0 16 = min 0xFFFF (d.fld (Reg.chkDisagree p) 0 16 + 1) ∧
      e.reg (Reg.chkLastFrame p) = wordOf r.tags.frameCounter ∧ e.regBit Reg.chkSticky p = true ∧
      e.regBit Reg.safFaultLatch 4 = true := by
  have hp := d.ctxPart_lt c
  obtain ⟨first, v, h⟩ := d.disagree_eq c r x prim repl
  dsimp only
  rw [h]
  generalize hcounted : d.disagreementCounted c r = e
  have hreg : ∀ a, Reg.chkRecordReplica < a →
      (((e.disagreementRecorded first v prim repl).orReg Reg.chkSticky (2 ^ d.ctxPart c)).latch 4).reg a = e.reg a := fun a ha => by
    unfold Reg.chkRecordReplica at ha
    refine (Device.reg_setReg_ne _ _ ?_).trans ((Device.reg_setReg_ne _ _ ?_).trans
      (Device.reg_disagreementRecorded _ prim repl first v (.inr ha)))
    · unfold Reg.safFaultLatch
      omega
    · unfold Reg.chkSticky
      omega
  refine ⟨?_, ?_, Device.regBit_orReg_of_set _ _ _ (Device.regBit_orReg _ _ (by omega)), Device.regBit_orReg _ _ (by omega)⟩
  · rw [Device.fld, hreg _ (by unfold Reg.chkRecordReplica Reg.chkDisagree; omega), ← hcounted, Device.disagreementCounted,
      Device.reg_setReg_ne _ _ (by unfold Reg.chkDisagree Reg.chkLastFrame; omega)]
    exact Device.fld_addCount _ _ _ (by decide)
  · rw [hreg _ (by unfold Reg.chkRecordReplica Reg.chkLastFrame; omega), ← hcounted]
    exact Device.reg_setReg _ _ _

end

/-! ### The entry of a result (R260, R261) -/

section
variable {d : Device} {c : Nat} {r : Run} {y : Slab}

/-- A context's run with its slab. -/
theorem Device.runSlab_eq_some :
    d.runSlab c = some (r, y) ↔ (d.ctx c).run = some r ∧ tget (d.ctx c).loaded r.slab = some (.slab y) := by
  unfold Device.runSlab
  constructor
  · intro h
    split at h
    · cases h
    · next r' hr =>
      split at h
      · next y' hy =>
        cases h
        exact ⟨hr, hy⟩
      · cases h
  · rintro ⟨hr, hy⟩
    rw [hr]
    dsimp only
    rw [hy]

/-- The slab of a run stays as the run is changed but for its slab. -/
theorem Device.runSlab_modRun (h : d.runSlab c = some (r, y)) {f : Run → Run} (hf : (f r).slab = r.slab) :
    (d.modRun c f).runSlab c = some (f r, y) := by
  obtain ⟨hrun, hload⟩ := Device.runSlab_eq_some.1 h
  rw [Device.runSlab_eq_some, Device.modRun, Device.ctx_setCtx, hrun]
  exact ⟨rfl, hf ▸ hload⟩

theorem Device.run_modRun (h : (d.ctx c).run = some r) (f : Run → Run) : ((d.modRun c f).ctx c).run = some (f r) := by
  rw [Device.modRun, Device.ctx_setCtx, h]
  rfl

/-- Changes of the registers but for the units held offline, and of the contexts, leave the way of the next entry open. -/
theorem Device.entryOpen_modRun {e : Device} {k : RingRef} (ho : d.entryOpen k) (hoff : e.offRegs = d.offRegs)
    (hunits : ∀ u < 128, e.unitOff u = d.unitOff u) (f : Run → Run) : (e.modRun c f).entryOpen k := by
  obtain ⟨hstate, hmem, hok, hon, hlog⟩ := ho
  have hring : (e.modRun c f).ring k = d.ring k := by
    refine Device.ring_congr k ?_ ?_
    · exact (Device.eq_of_offRegs Device.tenancies (fun _ => rfl) hoff :)
    · exact (Device.eq_of_offRegs Device.admin (fun _ => rfl) hoff :)
  have haddr : ∀ a, e.addrOff a = d.addrOff a := fun a => by
    have hsafety : e.safety = d.safety := Device.eq_of_offRegs Device.safety (fun _ => rfl) hoff
    unfold Device.addrOff
    rw [Device.eq_of_offRegs (·.unitOfAddr a) (fun _ => rfl) hoff, hsafety]
    split
    · next u hu => rw [hunits u (Nat.lt_trans (d.unitOfAddr_lt hu) (by decide))]
    · rfl
  rw [Device.entryOpen, hring]
  refine ⟨hstate, ?_, ?_, (haddr _).trans hon, fun t r hk => ?_⟩
  · exact (Device.eq_of_offRegs (·.inMemory (d.ring k).entryAt 64) (fun _ => rfl) hoff).trans hmem
  · exact (Device.eq_of_offRegs (·.ringAddrOk k (d.ring k).entryAt 64 false true) (fun _ => rfl) hoff).trans hok
  · exact (Device.eq_of_offRegs (fun d => (d.ten t).log) (fun _ => rfl) hoff).trans (hlog t r hk)

/-- So does the head descriptor's reservation lowered. -/
theorem Device.entryOpen_useEntry {k : RingRef} (h : d.entryOpen k) : (d.useEntry k).entryOpen k := by
  obtain ⟨hs, hm, hr, ho, hl⟩ := h
  unfold Device.useEntry
  dsimp only
  split
  · exact ⟨hs, hm, hr, ho, hl⟩
  · next x rest _ =>
    rw [Device.entryOpen, Device.ring_setRing]
    exact ⟨hs, (d.setRing_addr k _ _ 64).1.trans hm, (d.setRing_ok k _ _ _ _ _).1.trans hr,
      (d.setRing_addr k _ _ 64).2.1.trans ho, fun t r hk => ((d.setRing_ok k _ 0 0 true true).2 t r hk).trans (hl t r hk)⟩

/-- An entry of a result with a status other than OK, where it can be written, counts as its delivery; registers stand. -/
theorem Device.resultEntry_open {i : Nat} {z : ResultDecl} (hrun : d.runSlab c = some (r, y)) (hz : y.results[i]? = some z)
    (ho : d.entryOpen (d.ctxRing c)) {status : Byte} (hst : status ≠ St.ok) (detail : Byte) : ∃ e : Device,
    d.resultEntry c i status detail = e.modRun c (fun r => { r with delivered := tput r.delivered i status }) ∧
      e.ctxs = d.ctxs ∧ d.Reported e := by
  let k := d.ctxRing c
  let p := (d.useEntry k).entry' k r.tags.bytes status detail 0x01 r.index (resultPayload r z (d.boundNs r i) d.ns)
  have hput : p.2 = true := by
    simp only [p, Device.entry', Device.putEntry_open (Device.entryOpen_useEntry ho), k, if_true]
  have huse : d.Reported (d.useEntry k) := by
    unfold Device.useEntry
    dsimp only
    split
    · exact .refl d
    · exact d.reported_setRing k _
  refine ⟨p.1, ?_, (Device.entry_ctxs _ _ _ _ _ _ _ _).trans (d.useEntry_ctxs k),
    huse.trans (Device.reported_entry _ _ _ _ _ _ _ _)⟩
  unfold Device.resultEntry
  simp only [hrun, hz]
  rw [show ((d.useEntry (d.ctxRing c)).entry' (d.ctxRing c) r.tags.bytes status detail 0x01 r.index
    (resultPayload r z (d.boundNs r i) d.ns)) = p from rfl, hput, decide_eq_false hst]
  rfl

end

/-! ### The comparison (R321 to R323) -/

section
variable {d : Device} {c : Nat} {r : Run} {y : Slab} {id : BitVec 16} {i : Nat} {z : ResultDecl} {a b : Word}
  (hslab : d.runSlab c = some (r, y)) (hres : y.resultAt id = some i) (hz : y.results[i]? = some z) (hchecked : z.checked = true)
  (hstands : r.stopped = none) (hprim : tget r.digests (digestKey i false) = some a)
  (hrepl : tget r.digests (digestKey i true) = some b) (hrel : i ∉ r.released) (hwith : i ∉ r.withheld)
include hslab hres hz hchecked hstands hprim hrepl hrel hwith

/-- A result with both digests that has not been judged: a mismatch waits, or the result is judged and the run's verdict entered. -/
theorem checkerCompare_eq : checkerCompare d c id =
    let q : Seat := { core := 0, ctx := c, slab := y, run := r, replica := false, slabCore := 0 }
    if a ≠ b ∧ (d.resultPending c q z = true ∨ d.tagsDue c = true ∨ d.entryHeld (d.ctxRing c) = true) then d
    else Device.rule (if a = b then d.modRun c fun r => { r with released := addMember r.released i }
      else ((d.disagree c r z a b).modRun c fun r => { r with withheld := addMember r.withheld i }).resultEntry c i
        St.checkMismatch 0) c := by
  unfold checkerCompare
  simp only [hslab, hres, hz, hprim, hrepl, hchecked, hstands, List.contains_iff_mem, hrel, hwith, Bool.not_true, Bool.false_or,
    Option.isSome_none, Bool.or_eq_true, Bool.and_eq_true, decide_eq_true_eq, Bool.false_eq_true, false_or, or_assoc]
  rfl

/-- Equal digests release the result, and no disagreement is counted. -/
theorem checkerCompare_releases (hab : a = b) : let e := checkerCompare d c id
    ∃ r', (e.ctx c).run = some r' ∧ i ∈ r'.released ∧ r'.withheld = r.withheld ∧
      ∀ p < 16, e.reg (Reg.chkDisagree p) = d.reg (Reg.chkDisagree p) := by
  have hrun := Device.run_modRun (Device.runSlab_eq_some.1 hslab).1 fun r => { r with released := addMember r.released i }
  have hruled := (d.modRun c fun r => { r with released := addMember r.released i }).ruled_rule c
  obtain ⟨x, hx⟩ := hruled.run c _ hrun
  dsimp only
  rw [checkerCompare_eq hslab hres hz hchecked hstands hprim hrepl hrel hwith, if_neg fun h => h.1 hab, if_pos hab]
  exact ⟨_, hx, (mem_addMember _ _ _).2 (.inl rfl), rfl, hruled.counted⟩

/-- Different digests withhold the result once its entry can be written: after the records of the disagreement only reporting
and the run's verdict touch the registers. -/
theorem checkerCompare_differs (hab : a ≠ b) (hopen : d.entryOpen (d.ctxRing c))
    (hgoes : ¬ (d.resultPending c { core := 0, ctx := c, slab := y, run := r, replica := false, slabCore := 0 } z = true ∨
      d.tagsDue c = true ∨ d.entryHeld (d.ctxRing c) = true)) :
    ∃ e, (d.disagree c r z a b).Reported e ∧ checkerCompare d c id = Device.rule e c ∧
      (e.ctx c).run = some { r with withheld := addMember r.withheld i, delivered := tput r.delivered i St.checkMismatch } := by
  have hoff := d.offRegs_disagree c r z a b
  let w : Run → Run := fun r => { r with withheld := addMember r.withheld i }
  have hslab' : (d.disagree c r z a b).runSlab c = some (r, y) :=
    (Device.eq_of_offRegs (·.runSlab c) (fun _ => rfl) hoff).trans hslab
  have hctxs : (d.disagree c r z a b).ctxs = d.ctxs := Device.eq_of_offRegs Device.ctxs (fun _ => rfl) hoff
  have hring : ((d.disagree c r z a b).modRun c w).ctxRing c = d.ctxRing c := by
    rw [Device.ctxRing, Device.modRun, Device.ctx_setCtx, Device.ctx, hctxs]
    rfl
  have hopen' := Device.entryOpen_modRun (c := c) hopen hoff (fun u => d.unitOff_disagree c r z a b) w
  obtain ⟨e, hentry, hkept, hreported⟩ := Device.resultEntry_open (status := St.checkMismatch)
    (Device.runSlab_modRun (f := w) hslab' rfl) hz (hring ▸ hopen') (by decide) 0
  refine ⟨e.modRun c fun r => { r with delivered := tput r.delivered i St.checkMismatch },
    .trans (e := (d.disagree c r z a b).modRun c w) (.of_same rfl rfl) (hreported.trans (.of_same rfl rfl)), ?_, ?_⟩
  · rw [checkerCompare_eq hslab hres hz hchecked hstands hprim hrepl hrel hwith, if_neg fun h => hgoes h.2, if_neg hab, hentry]
  · have hrun : ((d.disagree c r z a b).ctx c).run = some r := (Device.runSlab_eq_some.1 hslab').1
    have hrun' : (e.ctx c).run = some (w r) := by
      rw [Device.ctx, hkept]
      exact Device.run_modRun hrun w
    exact Device.run_modRun hrun' _

/-- The entry of a withheld result takes CHECK_MISMATCH, and the disagreement is counted and latched. -/
theorem checkerCompare_withholds (hab : a ≠ b) (hopen : d.entryOpen (d.ctxRing c))
    (hgoes : ¬ (d.resultPending c { core := 0, ctx := c, slab := y, run := r, replica := false, slabCore := 0 } z = true ∨
      d.tagsDue c = true ∨ d.entryHeld (d.ctxRing c) = true)) :
    let e := checkerCompare d c id
    let p := d.ctxPart c
    ∃ r', (e.ctx c).run = some r' ∧ i ∈ r'.withheld ∧ i ∉ r'.released ∧ tget r'.delivered i = some St.checkMismatch ∧
      e.regBit Reg.safFaultLatch 4 = true ∧ e.regBit Reg.chkSticky p = true ∧
      e.fld (Reg.chkDisagree p) 0 16 = min 0xFFFF (d.fld (Reg.chkDisagree p) 0 16 + 1) ∧
      e.reg (Reg.chkLastFrame p) = wordOf r.tags.frameCounter := by
  intro e p
  obtain ⟨f, hreported, heq, hrun⟩ :=
    checkerCompare_differs hslab hres hz hchecked hstands hprim hrepl hrel hwith hab hopen hgoes
  have hruled : f.Ruled e := by
    rw [show e = f.rule c from heq]
    exact f.ruled_rule c
  obtain ⟨x, hx⟩ := hruled.run c _ hrun
  obtain ⟨hcount, hframe, hsticky, hlatch⟩ := d.disagree_spec c r z a b
  have hp : p < 16 := d.ctxPart_lt c
  have hreg : ∀ k, 0xe00000 ≤ k → f.reg k = (d.disagree c r z a b).reg k := fun k hk =>
    hreported.regs k (by unfold Reg.hifSticky; omega)
  refine ⟨_, hx, (mem_addMember _ _ _).2 (.inl rfl), hrel, tget_tput_self _ _ _, hruled.latched 4 ?_, hruled.sticky p ?_, ?_,
    (hruled.frame p hp).trans ((hreg _ ?_).trans hframe)⟩
  · exact (congrArg (bitOf · 4) (hreg _ (by decide))).trans hlatch
  · exact (congrArg (bitOf · p) (hreg _ (by decide))).trans hsticky
  · refine (congrArg (bitsAt · 0 16) ((hruled.counted p hp).trans (hreg _ ?_))).trans hcount
    unfold Reg.chkDisagree
    omega
  · unfold Reg.chkLastFrame
    omega

end

/-! ### Overruns (R330, R332) -/

theorem budgetOverrun_marks {d : Device} {core : Nat} {q : Seat} (hseat : d.seat core = some q)
    (hfirst : q.run.overrun ≠ some .budget) (hover : q.slab.budget < tgetD q.run.beats core 0) : budgetOverrun d core =
      (d.setCtx q.ctx { d.ctx q.ctx with run := some { q.run with overrun := some .budget } }).addCount Reg.safSupOverruns 16 16 1 := by
  unfold budgetOverrun
  simp only [hseat, hfirst, Nat.not_le.2 hover, decide_false, Bool.or_self, Bool.false_eq_true, if_false, Device.modRun,
    (Device.seat_run hseat).1, Option.map_some]

theorem budgetOverrun_stands {d : Device} {core : Nat} {q : Seat} (hseat : d.seat core = some q)
    (h : q.run.overrun = some .budget ∨ tgetD q.run.beats core 0 ≤ q.slab.budget) : budgetOverrun d core = d := by
  unfold budgetOverrun
  simp only [hseat, Bool.or_eq_true, decide_eq_true_eq]
  exact if_pos h

section
variable {d : Device} {c : Nat} {r : Run} {y : Slab} {id : BitVec 16} {i b : Nat} (hslab : d.runSlab c = some (r, y))
  (hres : y.resultAt id = some i) (hbound : tget r.bounds i = some b)
include hslab hres hbound

theorem deadlineOverrun_eq : deadlineOverrun d c id =
    if d.alm.ticks < b ∨ (tget r.delivered i).isSome = true ∨ i ∈ r.deadlines ∨ r.stopped.isSome = true then d
    else (d.setCtx c { d.ctx c with run := some { r with
      deadlines := addMember r.deadlines i, overrun := some (r.overrun.getD .deadline) } }).addCount Reg.safSupOverruns 0 16 1 := by
  unfold deadlineOverrun
  simp only [hslab, hres, hbound, Bool.or_eq_true, decide_eq_true_eq, List.contains_iff_mem, or_assoc, Device.modRun,
    (Device.runSlab_eq_some.1 hslab).1, Option.map_some]

theorem deadlineOverrun_marks (hpast : b ≤ d.alm.ticks) (hmissing : tget r.delivered i = none) (hfirst : i ∉ r.deadlines)
    (hstands : r.stopped = none) : deadlineOverrun d c id =
      (d.setCtx c { d.ctx c with run := some { r with
        deadlines := addMember r.deadlines i, overrun := some (r.overrun.getD .deadline) } }).addCount Reg.safSupOverruns 0 16 1 := by
  rw [deadlineOverrun_eq hslab hres hbound, if_neg]
  simp [Nat.not_lt.2 hpast, hmissing, hfirst, hstands]

theorem deadlineOverrun_stands (h : d.alm.ticks < b ∨ (tget r.delivered i).isSome = true ∨ i ∈ r.deadlines) :
    deadlineOverrun d c id = d := by
  rw [deadlineOverrun_eq hslab hres hbound, if_pos (h.imp_right (·.imp_right .inl))]

end

/-! ### The obligation -/

/-- Settles O36: the comparison waits, releases or withholds as above, and each overrun marks its run once. -/
theorem checkerAndSupervision : Obligations.CheckerAndSupervision := by
  intro s hlive d
  refine ⟨?_, fun core q hseat => ?_, fun c r y id i b hslab hres hbound => ?_⟩
  · intro c r y id i z a b hslab hres hz hchecked hstands hprim hrepl hrel hwith p q waits
    have hexec : exec (.checkerCompare c id) s = .next { s with dev := checkerCompare d c id } :=
      actLive_eq (fun d => checkerCompare d c id) hlive
    have hheld : d.entryHeld (d.ctxRing c) = s.dev.entryHeld (s.dev.ctxRing c) := s.dev.begun_portHolds 28 _
    have hwaits : (d.resultPending c q z = true ∨ d.tagsDue c = true ∨ d.entryHeld (d.ctxRing c) = true) ↔ waits := by
      rw [hheld]
      rfl
    refine ⟨fun hab hwait => ?_, fun hab => ?_, fun hab hgoes hopen => ?_⟩
    · rw [hexec, checkerCompare_eq (d := d) hslab hres hz hchecked hstands hprim hrepl hrel hwith, if_pos ⟨hab, hwaits.2 hwait⟩]
    · obtain ⟨r', hrun, hreleased, hwithheld, hcount⟩ :=
        checkerCompare_releases (d := d) hslab hres hz hchecked hstands hprim hrepl hrel hwith hab
      exact ⟨_, r', hexec, hrun, hreleased, hwithheld, hcount p (s.dev.ctxPart_lt c)⟩
    · obtain ⟨r', hwithholds⟩ :=
        checkerCompare_withholds (d := d) hslab hres hz hchecked hstands hprim hrepl hrel hwith hab hopen (mt hwaits.1 hgoes)
      exact ⟨_, r', hexec, hwithholds⟩
  · have hexec : exec (.budgetOverrun core) s = .next { s with dev := budgetOverrun d core } :=
      actLive_eq (fun d => budgetOverrun d core) hlive
    refine ⟨fun hfirst hover => ?_, fun h => ?_⟩
    · rw [hexec, budgetOverrun_marks (d := d) hseat hfirst hover]
    · rw [hexec, budgetOverrun_stands (d := d) hseat h]
  · have hexec : exec (.deadlineOverrun c id) s = .next { s with dev := deadlineOverrun d c id } :=
      actLive_eq (fun d => deadlineOverrun d c id) hlive
    refine ⟨fun hpast hmissing hfirst hstands => ?_, fun h => ?_⟩
    · rw [hexec, deadlineOverrun_marks (d := d) hslab hres hbound hpast hmissing hfirst hstands]
    · rw [hexec, deadlineOverrun_stands (d := d) hslab hres hbound h]

end Sys2Proof.Machine
